-- ==== Sys2Proof/Word.lean ====
section
/-! DEFINITION. The word types of the WA-3072 and the fixed-size groups its registers come in. -/

namespace Sys2Proof

/-- A byte of memory (R4). -/
abbrev Byte := BitVec 8
/-- One lane, a token header, or a 32-bit instruction word (R14, R16, R167). -/
abbrev W32 := BitVec 32
/-- A control-core register (R164) or an element slot word (R66). -/
abbrev W64 := BitVec 64
/-- A 52-bit virtual or physical address (R42). -/
abbrev Addr := BitVec 52

/-- Two like things. -/
structure Vec2 (α : Type) where
  x0 : α
  x1 : α
  deriving DecidableEq, Repr

/-- Four like things, such as the four ports of one kind of an element (R14). -/
structure Vec4 (α : Type) where
  x0 : α
  x1 : α
  x2 : α
  x3 : α
  deriving DecidableEq, Repr, Inhabited

/-- Eight like things, such as the lanes of a register (R14). -/
structure Vec8 (α : Type) where
  lo : Vec4 α
  hi : Vec4 α
  deriving DecidableEq, Repr, Inhabited

/-- Sixteen like things, such as v0 to v15 (R14). -/
structure Vec16 (α : Type) where
  lo : Vec8 α
  hi : Vec8 α
  deriving DecidableEq, Repr, Inhabited

/-- Thirty-two like things, such as x0 to x31 (R164). -/
structure Vec32 (α : Type) where
  lo : Vec16 α
  hi : Vec16 α
  deriving DecidableEq, Repr

/-- A sparse table: pairs of a key and a value, keys strictly rising.
`AMap.wf` states the form; the operations of `Machine/Maps.lean` keep it. -/
structure AMap (α : Type) where
  entries : List (Nat × α)
  deriving DecidableEq, Repr

/-- The fields of an element slot word but for its opcode (R66).
`a`, `b` and `pw` are read as operand codes, predicate indices, selectors, or as the
immediate of shapes I and L, by the opcode's shape (R70, R71). -/
structure Slot where
  valid : Bool
  q : Bool
  pm : BitVec 8
  pv : BitVec 8
  ir : BitVec 8
  os : BitVec 4
  te : Bool
  ts : BitVec 2
  tv : BitVec 3
  d : BitVec 5
  a : BitVec 5
  b : BitVec 5
  pw : BitVec 5
  deriving DecidableEq, Repr

/-- What the host does over CXL (R354, R355): it reads or writes memory, reads a 64-bit register, or commits HDM decoder `i`,
whose device addresses begin at `dpa`. -/
inductive HostOp where
  | read
  | write
  | register
  | decoder (i dpa : Nat)
  deriving DecidableEq, Repr

end Sys2Proof
end

