-- ==== Sys2Proof/Machine/Bits.lean ====
section
/-! DEFINITION. Bit fields, sign extension, byte order, and the accessors of the fixed-size groups. -/

namespace Sys2Proof.Machine

open Sys2Proof

/-- x[hi:lo] as a natural number (R6). -/
def field (hi lo : Nat) {n : Nat} (x : BitVec n) : Nat := (x.toNat / 2 ^ lo) % 2 ^ (hi + 1 - lo)

/-- Bit `i` of `x` (R1). -/
def bitAt (i : Nat) {n : Nat} (x : BitVec n) : Bool := x.getLsbD i

/-- The natural number of a truth value. -/
def b2n (b : Bool) : Nat := if b then 1 else 0

/-- The word that holds a truth value in bit 0. -/
def b2w (b : Bool) : W32 := if b then 1#32 else 0#32

/-- `x` with the bits [hi:lo] replaced by the low bits of `v`. -/
def setField (hi lo : Nat) {n : Nat} (x : BitVec n) (v : Nat) : BitVec n :=
  let w := hi + 1 - lo
  let keep := x.toNat - (x.toNat / 2 ^ lo) % 2 ^ w * 2 ^ lo
  BitVec.ofNat n (keep + v % 2 ^ w * 2 ^ lo)

/-- `x` with bit `i` set to `b`. -/
def setBit (i : Nat) {n : Nat} (x : BitVec n) (b : Bool) : BitVec n := setField i i x (b2n b)

/-- The integer of the low `w` bits of `x` read as two's complement (R56). -/
def sextNat (w x : Nat) : Int :=
  let y := x % 2 ^ w
  if w ≠ 0 ∧ 2 ^ (w - 1) ≤ y then (y : Int) - 2 ^ w else y

/-- Little-endian bytes of a number, least significant first (R4). -/
def bytesOf : Nat → Nat → List Byte
  | 0, _ => []
  | n + 1, v => BitVec.ofNat 8 (v % 256) :: bytesOf n (v / 256)

/-- The number a little-endian byte list holds (R4). -/
def natOfBytes : List Byte → Nat
  | [] => 0
  | b :: bs => b.toNat + 256 * natOfBytes bs

/-- `f x`. The match makes the kernel bring `x` to a numeral first, so that a long loop is evaluated step by step. -/
def forced {α : Type} (x : Nat) (f : Nat → α) : α :=
  match x with
  | 0 => f 0
  | n + 1 => f (n + 1)

/-- Split a list into pieces of `k` (at most `n` of them). -/
def pieces {α : Type} : Nat → Nat → List α → List (List α)
  | 0, _, _ => []
  | n + 1, k, l => l.take k :: pieces n k (l.drop k)

/-- Sat of R60: the nearer end of the range [lo, hi]. -/
def satInt (lo hi x : Int) : Int := if x < lo then lo else if hi < x then hi else x

/-- floor(log2 n), with 0 for 0. -/
def log2Floor (n : Nat) : Nat := Nat.log2 n

/-- Round up division. -/
def ceilDiv (a b : Nat) : Nat := (a + b - 1) / b

/-- Leading zero bits of an `n`-bit word, from the top bit down (R95, R172). -/
def clzNat (n x : Nat) : Nat := if x = 0 then n else n - 1 - Nat.log2 x

/-- Number of 1 bits among the low `n` bits (R95, R172). -/
def popcNat : Nat → Nat → Nat
  | 0, _ => 0
  | n + 1, x => x % 2 + popcNat n (x / 2)

/-- The positions of the 1 bits of a mask, ascending. -/
def onesOf (n m : Nat) : List Nat := (List.range n).filter (fun i => m.testBit i)

/-! The fixed-size groups: reading, writing and building by index. -/

def vec2Get {α : Type} (v : Vec2 α) (i : Nat) : α := if i = 0 then v.x0 else v.x1
def vec2Set {α : Type} (v : Vec2 α) (i : Nat) (x : α) : Vec2 α :=
  if i = 0 then { v with x0 := x } else if i = 1 then { v with x1 := x } else v

def vec4Get {α : Type} (v : Vec4 α) (i : Nat) : α :=
  match i with
  | 0 => v.x0
  | 1 => v.x1
  | 2 => v.x2
  | _ => v.x3
def vec4Set {α : Type} (v : Vec4 α) (i : Nat) (x : α) : Vec4 α :=
  match i with
  | 0 => { v with x0 := x }
  | 1 => { v with x1 := x }
  | 2 => { v with x2 := x }
  | 3 => { v with x3 := x }
  | _ => v
def vec4Of {α : Type} (f : Nat → α) (b : Nat) : Vec4 α := ⟨f b, f (b + 1), f (b + 2), f (b + 3)⟩

def vec8Get {α : Type} (v : Vec8 α) (i : Nat) : α :=
  if i < 4 then vec4Get v.lo i else vec4Get v.hi (i - 4)
def vec8Set {α : Type} (v : Vec8 α) (i : Nat) (x : α) : Vec8 α :=
  if i < 4 then { v with lo := vec4Set v.lo i x } else { v with hi := vec4Set v.hi (i - 4) x }
def vec8Of {α : Type} (f : Nat → α) (b : Nat) : Vec8 α := ⟨vec4Of f b, vec4Of f (b + 4)⟩

def vec16Get {α : Type} (v : Vec16 α) (i : Nat) : α :=
  if i < 8 then vec8Get v.lo i else vec8Get v.hi (i - 8)
def vec16Set {α : Type} (v : Vec16 α) (i : Nat) (x : α) : Vec16 α :=
  if i < 8 then { v with lo := vec8Set v.lo i x } else { v with hi := vec8Set v.hi (i - 8) x }
def vec16Of {α : Type} (f : Nat → α) (b : Nat) : Vec16 α := ⟨vec8Of f b, vec8Of f (b + 8)⟩

def vec32Get {α : Type} (v : Vec32 α) (i : Nat) : α :=
  if i < 16 then vec16Get v.lo i else vec16Get v.hi (i - 16)
def vec32Set {α : Type} (v : Vec32 α) (i : Nat) (x : α) : Vec32 α :=
  if i < 16 then { v with lo := vec16Set v.lo i x } else { v with hi := vec16Set v.hi (i - 16) x }
def vec32Of {α : Type} (f : Nat → α) : Vec32 α := ⟨vec16Of f 0, vec16Of f 16⟩

/-- The lanes of a group of eight, lane 0 first. -/
def vec8List {α : Type} (v : Vec8 α) : List α := (List.range 8).map (vec8Get v)
def vec4List {α : Type} (v : Vec4 α) : List α := (List.range 4).map (vec4Get v)
def vec16List {α : Type} (v : Vec16 α) : List α := (List.range 16).map (vec16Get v)
def vec32List {α : Type} (v : Vec32 α) : List α := (List.range 32).map (vec32Get v)

/-- All lanes equal. -/
def vec8Fill {α : Type} (x : α) : Vec8 α := vec8Of (fun _ => x) 0
def vec4Fill {α : Type} (x : α) : Vec4 α := vec4Of (fun _ => x) 0
def vec16Fill {α : Type} (x : α) : Vec16 α := vec16Of (fun _ => x) 0
def vec32Fill {α : Type} (x : α) : Vec32 α := vec32Of (fun _ => x)

end Sys2Proof.Machine
end

