-- ==== Sys2Proof/Machine/SlotWord.lean ====
section
/-! DEFINITION. Slot words: shapes, the loader's per-slot checks, and the fields of a word (R66 to R80). -/

namespace Sys2Proof.Machine

open Sys2Proof

/-- The shapes of R71. -/
inductive Shape where
  | r | u | n | p | q | m | rm | um | sm | i | l
  deriving DecidableEq, Repr

/-- The shape of an opcode, or none where R73 leaves it unassigned. -/
def shapeOf (op : Nat) : Option Shape :=
  match op with
  | 0x00 | 0x01 | 0x02 | 0x03 | 0x04 | 0x05 | 0x06 | 0x07 | 0x08 | 0x09 | 0x0A | 0x0B => some .r
  | 0x0C | 0x0D | 0x0F | 0x10 | 0x11 | 0x12 | 0x13 | 0x14 | 0x20 | 0x21 | 0x22 | 0x23 => some .r
  | 0x25 | 0x26 | 0x27 | 0x40 | 0x41 | 0x42 | 0x43 | 0x44 | 0x45 | 0x4C | 0x64 | 0x65 => some .r
  | 0x68 | 0x69 | 0x6A | 0x6B | 0x6C | 0x87 | 0x89 | 0xA0 | 0xA1 | 0xA2 | 0xA3 | 0xA4 => some .r
  | 0xA5 | 0xA6 | 0xA7 | 0xA8 | 0xA9 | 0xAA | 0xAB | 0xAC | 0xC1 | 0xC5 | 0xCB | 0xCC => some .r
  | 0xCD | 0xCE | 0xCF => some .r
  | 0x0E | 0x24 | 0x2D | 0x2E | 0x50 | 0x51 | 0x52 | 0x53 | 0x66 | 0x67 | 0x75 | 0x8A => some .u
  | 0x8B | 0x8C | 0x8D | 0x8E | 0x8F | 0x90 | 0xC0 | 0xC3 | 0xC4 => some .u
  | 0x58 | 0xC2 | 0xC8 | 0xE0 => some .n
  | 0x46 | 0x47 | 0x48 | 0x49 | 0x56 => some .p
  | 0x4A => some .q
  | 0xC6 | 0xC7 => some .m
  | 0x60 | 0x61 | 0x62 | 0x63 | 0x6D | 0x6E | 0x6F | 0x70 | 0x71 | 0x72 | 0x73 | 0x86 => some .rm
  | 0x88 | 0xAD => some .rm
  | 0x74 | 0x82 | 0x83 | 0x84 | 0x85 => some .um
  | 0x80 | 0x81 => some .sm
  | 0x15 | 0x28 | 0x29 | 0x2A | 0x2B | 0x2C | 0x2F | 0x30 | 0x31 | 0x4B | 0x4D | 0x4E => some .i
  | 0x4F | 0x54 | 0x55 | 0x57 | 0x91 | 0xC9 | 0xCA | 0xE1 | 0xE2 | 0xE3 => some .i
  | 0x32 | 0x33 => some .l
  | _ => none

/-- The fields of a slot word but its opcode (R66). -/
def slotOf (w : W64) : Slot :=
  { valid := bitAt 63 w, q := bitAt 62 w, pm := BitVec.ofNat 8 (field 61 54 w), pv := BitVec.ofNat 8 (field 53 46 w),
    ir := BitVec.ofNat 8 (field 45 38 w), os := BitVec.ofNat 4 (field 37 34 w), te := bitAt 33 w,
    ts := BitVec.ofNat 2 (field 32 31 w), tv := BitVec.ofNat 3 (field 30 28 w), d := BitVec.ofNat 5 (field 19 15 w),
    a := BitVec.ofNat 5 (field 14 10 w), b := BitVec.ofNat 5 (field 9 5 w), pw := BitVec.ofNat 5 (field 4 0 w) }

/-- The opcode of a slot word (R66). -/
def slotOpOf (w : W64) : Nat := field 27 20 w

/-- A field value at its place in a word. -/
def put (lo v : Nat) : Nat := v * 2 ^ lo

/-- The slot word of an opcode and its fields (R66). -/
def slotWord (op : Nat) (s : Slot) : W64 :=
  BitVec.ofNat 64 (put 63 (b2n s.valid) + put 62 (b2n s.q) + put 54 s.pm.toNat + put 46 s.pv.toNat
    + put 38 s.ir.toNat + put 34 s.os.toNat + put 33 (b2n s.te) + put 31 s.ts.toNat + put 28 s.tv.toNat
    + put 20 (op % 256) + put 15 s.d.toNat + put 10 s.a.toNat + put 5 s.b.toNat + put 0 s.pw.toNat)

/-- IMM10 of shape I (R70). -/
def imm10 (s : Slot) : Nat := s.b.toNat * 32 + s.pw.toNat
/-- IMM15 of shape L (R70). -/
def imm15 (s : Slot) : Nat := s.a.toNat * 1024 + s.b.toNat * 32 + s.pw.toNat
/-- IMM10 sign-extended to 32 bits. -/
def imm10s (s : Slot) : W32 := BitVec.ofInt 32 (sextNat 10 (imm10 s))
/-- IMM15 sign-extended to 32 bits. -/
def imm15s (s : Slot) : W32 := BitVec.ofInt 32 (sextNat 15 (imm15 s))

/-- Whether the shape reads the A field as an operand code (R71, R81). -/
def usesA (sh : Shape) : Bool :=
  match sh with
  | .r | .u | .n | .q | .m | .rm | .um | .sm | .i => true
  | .p | .l => false
/-- Whether the shape reads the B field as an operand code (R71). -/
def usesB (sh : Shape) : Bool :=
  match sh with
  | .r | .u | .n | .q | .rm | .um => true
  | .p | .m | .sm | .i | .l => false
/-- Whether the shape has a predicate-write field (R69, R71). -/
def hasPw (sh : Shape) : Bool :=
  match sh with
  | .r | .u | .n | .p | .m => true
  | .q | .rm | .um | .sm | .i | .l => false

/-- Check 3 of R80: A, B and PW hold what the shape requires. -/
def shapeFails (op : Nat) (sh : Shape) (s : Slot) : Bool :=
  let a := s.a.toNat
  let b := s.b.toNat
  let pw := s.pw.toNat
  let pwBad := pw % 4 = 0 ∧ pw / 4 ≠ 0
  match sh with
  | .r => pwBad
  | .u => b ≠ 28 ∨ pwBad
  | .n => a ≠ 28 ∨ b ≠ 28 ∨ pwBad
  | .p => 8 ≤ a ∨ 8 ≤ b ∨ ((op = 0x49 ∨ op = 0x56) ∧ b ≠ 0) ∨ pwBad
  | .q => pw % 4 ≠ 0
  | .m => 16 ≤ b ∨ pwBad
  | .rm | .sm => pw / 4 ≠ 0
  | .um => b ≠ 28 ∨ pw / 4 ≠ 0
  | .i | .l => false

/-- Opcodes whose D is also read (R74). -/
def readsD (op : Nat) : Bool :=
  op ∈ [0x09, 0x13, 0x14, 0x31, 0x33, 0x63, 0x6F, 0x72, 0x73, 0xAC, 0xCF]
/-- Opcodes whose D must be 24 (R74). -/
def noDest (op : Nat) : Bool :=
  op ∈ [0xA4, 0xA5, 0xA7, 0xC1, 0x55, 0x57, 0x91, 0xC9, 0xCA, 0xE0, 0xE1, 0xE2, 0xE3]
/-- Opcodes that must name an output o0 to o3 (R74). -/
def mustEmit (op : Nat) : Bool :=
  op ∈ [0xC2, 0xC3, 0xC4, 0xC6, 0xC7, 0xCB, 0xCC, 0xCD, 0xCE]
/-- The memory firings 0xA0 to 0xAD (R135). -/
def isMemOp (op : Nat) : Bool := decide (0xA0 ≤ op ∧ op ≤ 0xAD)

/-- Check 4 of R80: the restrictions of R74. -/
def restrictionFails (op : Nat) (s : Slot) : Bool :=
  let a := s.a.toNat
  let b := s.b.toNat
  let d := s.d.toNat
  (readsD op && decide (16 ≤ d)) || (noDest op && decide (d ≠ 24))
  || (mustEmit op && !decide (16 ≤ d ∧ d ≤ 19))
  || (decide (op = 0xC5) && !(decide (16 ≤ d ∧ d ≤ 18) && bitAt (d - 16) s.os && bitAt (d - 15) s.os))
  || (decide (op = 0xC8) && !(decide (20 ≤ d ∧ d ≤ 23) && decide (s.ir.toNat / 16 ≠ 0)))
  || (decide (op ∈ [0x54, 0x55, 0x57, 0x91, 0xC9, 0xE1, 0xE2, 0xE3, 0xC7]) && decide (a ≠ 28))
  || (decide (op ∈ [0xC0, 0xC3, 0xC4, 0xC5, 0xCF]) && !decide (16 ≤ a ∧ a ≤ 23))
  || (decide (op = 0xC6) && !decide (24 ≤ a ∧ a ≤ 27))
  || (decide (op = 0xC5) && !decide (24 ≤ b ∧ b ≤ 27))
  || (decide (op = 0xC1) && !(decide (20 ≤ a ∧ a ≤ 27) && decide (20 ≤ b ∧ b ≤ 28)))
  || (decide (op = 0xC6) && decide (popcNat 4 b ≠ 2))
  || (decide (op = 0xC7) && decide (popcNat 4 b < 2))
  || (isMemOp op && decide (s.pw.toNat % 4 = 1) && decide (16 ≤ d))

/-- Check 5 of R80: selector and immediate values that an instruction's description reserves. -/
def immediateFails (op : Nat) (s : Slot) : Bool :=
  let v := imm10 s
  match op with
  | 0x28 | 0x29 | 0x2A | 0x4B | 0x4D | 0x4E | 0x4F => decide (v / 32 ≠ 0)
  | 0x2F | 0x30 | 0x31 => decide (32 < v % 32 + (v / 32 + 1))
  | 0x55 => decide (v / 64 ≠ 0)
  | 0x57 => decide (v / 4 ≠ 0)
  | 0x80 | 0x81 => decide (s.b.toNat ∈ [2, 3, 6, 7, 18, 19, 22, 23])
  | 0x91 => decide (v / 8 ≠ 0 ∨ v / 2 % 4 = 3)
  | 0xC9 => decide (v / 16 % 16 ≠ 0 ∨ (v / 8 % 2 = 1 ∧ v % 8 ≠ 0))
  | 0xE3 => decide (v / 4 ≠ 0)
  | _ => false

/-- Check 5 while STATE = 2: the opcodes and CVT selectors that Die-0 service refuses (R410). -/
def die0Fails (op : Nat) (s : Slot) : Bool :=
  decide (op ∈ [0x70, 0x71, 0x72, 0x81, 0x86, 0x87, 0x88, 0x89])
  || (decide (op = 0x80) && !decide (s.b.toNat ∈ [0, 1, 16, 17]))

/-- The IR bit of operand code 16 to 27. -/
def irBitOf (c : Nat) : Nat :=
  if c < 20 then c - 16 else if c < 24 then c - 20 else c - 20

/-- Whether an operand code names a channel whose IR bit is 0, or SEQ of a channel not in IR (R36). -/
def operandUnready (c : Nat) (s : Slot) : Bool :=
  (decide (16 ≤ c ∧ c ≤ 27) && !bitAt (irBitOf c) s.ir)
  || (decide (c = 31) && !bitAt s.ts.toNat s.ir)

/-- Check 8 of R80, the part that the word alone decides (R36). -/
def contradictionFails (sh : Shape) (s : Slot) : Bool :=
  let d := s.d.toNat
  (usesA sh && operandUnready s.a.toNat s) || (usesB sh && operandUnready s.b.toNat s)
  || (s.te && !bitAt s.ts.toNat s.ir)
  || (decide (16 ≤ d ∧ d ≤ 19) && !bitAt (d - 16) s.os)

/-- The first of checks 1 to 8 that a slot word fails as far as the word alone decides; a slot with
V = 0 is not checked (R80). `connected` adds what the configuration connects. -/
def slotCheck (op : Nat) (s : Slot) (die0 : Bool) (unconnected : Bool) : Option Nat :=
  if !s.valid then none
  else match shapeOf op with
    | none => some 1
    | some sh =>
      let d := s.d.toNat
      let holds31 := (usesA sh && decide (s.a.toNat = 31)) || (usesB sh && decide (s.b.toNat = 31))
      if 25 ≤ d then some 2
      else if shapeFails op sh s then some 3
      else if restrictionFails op s then some 4
      else if immediateFails op s || (die0 && die0Fails op s) then some 5
      else if (decide (s.pm = 0#8) && s.q) || decide (s.pv &&& ~~~s.pm ≠ 0#8) then some 6
      else if !s.te && !holds31 && decide (s.ts ≠ 0#2 ∨ s.tv ≠ 0#3) then some 7
      else if contradictionFails sh s || unconnected then some 8
      else none

end Sys2Proof.Machine
end

