-- ==== Sys2Proof/Syntax.lean ====
section
/-! DEFINITION. The instruction type: one constructor per row of the table of operations and events. -/

namespace Sys2Proof

/-- Every operation and event of the WA-3072 (spec/opcode_table.json).
Element slots carry the fields of R66, control-core and pattern instructions the fields of R167 and
R206. Events name the unit they happen at: `cl` a package cluster, `sp` the lead cluster of a span,
`el` an element, `ch` the index of a channel in the load, `br` a branch, `h` a collective's handle. -/
inductive Instr where
  /-- ADD_I32 (R86). Element slot adds two i32 operands per guarded lane, wrapping. -/
  | addI32 (w : Slot)
  /-- SUB_I32 (R86). Element slot subtracts i32 operands per guarded lane, wrapping. -/
  | subI32 (w : Slot)
  /-- ADD_I32_SAT (R86). Element slot adds i32 operands with signed saturation. -/
  | addI32Sat (w : Slot)
  /-- SUB_I32_SAT (R86). Element slot subtracts i32 operands with signed saturation. -/
  | subI32Sat (w : Slot)
  /-- ADD_N32_SAT (R86). Element slot adds n32 operands with unsigned saturation. -/
  | addN32Sat (w : Slot)
  /-- SUB_N32_SAT (R86). Element slot subtracts n32 operands with unsigned saturation. -/
  | subN32Sat (w : Slot)
  /-- MUL_I32 (R87). Element slot writes the low 32 bits of the lane product. -/
  | mulI32 (w : Slot)
  /-- MULH_I32 (R87). Element slot writes the high 32 bits of the signed lane product. -/
  | mulhI32 (w : Slot)
  /-- MULH_N32 (R87). Element slot writes the high 32 bits of the unsigned lane product. -/
  | mulhN32 (w : Slot)
  /-- MAC_I32 (R87). Element slot adds the signed lane product into register D, wrapping. -/
  | macI32 (w : Slot)
  /-- MIN_I32 (R88). Element slot writes the signed minimum per lane. -/
  | minI32 (w : Slot)
  /-- MAX_I32 (R88). Element slot writes the signed maximum per lane. -/
  | maxI32 (w : Slot)
  /-- MIN_N32 (R88). Element slot writes the unsigned minimum per lane. -/
  | minN32 (w : Slot)
  /-- MAX_N32 (R88). Element slot writes the unsigned maximum per lane. -/
  | maxN32 (w : Slot)
  /-- ABS_I32 (R88). Element slot writes the wrapped absolute value per lane. -/
  | absI32 (w : Slot)
  /-- ADD_I16 (R89). Element slot adds packed 16-bit sub-words, wrapping. -/
  | addI16 (w : Slot)
  /-- ADD_I16_SAT (R89). Element slot adds packed 16-bit sub-words with saturation. -/
  | addI16Sat (w : Slot)
  /-- ADD_I8 (R89). Element slot adds packed 8-bit sub-words, wrapping. -/
  | addI8 (w : Slot)
  /-- ADD_I8_SAT (R89). Element slot adds packed 8-bit sub-words with saturation. -/
  | addI8Sat (w : Slot)
  /-- DOT_I8 (R90). Element slot accumulates four signed 8-bit products into D. -/
  | dotI8 (w : Slot)
  /-- DOT_N8 (R90). Element slot accumulates four unsigned 8-bit products into D. -/
  | dotN8 (w : Slot)
  /-- ADDI_I32 (R91). Element slot adds a sign-extended 10-bit immediate per lane. -/
  | addiI32 (w : Slot)
  /-- AND (R92). Element slot writes the bitwise AND of two operands. -/
  | elAnd (w : Slot)
  /-- OR (R92). Element slot writes the bitwise OR of two operands. -/
  | elOr (w : Slot)
  /-- XOR (R92). Element slot writes the bitwise XOR of two operands. -/
  | elXor (w : Slot)
  /-- ANDN (R92). Element slot writes A AND NOT B per lane. -/
  | elAndn (w : Slot)
  /-- NOT (R92). Element slot writes the bitwise complement of A. -/
  | elNot (w : Slot)
  /-- ANDI (R92). Element slot ANDs each lane with a sign-extended immediate. -/
  | andi (w : Slot)
  /-- ORI (R92). Element slot ORs each lane with a sign-extended immediate. -/
  | ori (w : Slot)
  /-- SHL (R93). Element slot shifts left by a register amount; 32 or more gives zero. -/
  | shl (w : Slot)
  /-- SHR (R93). Element slot shifts right logically by a register amount. -/
  | shr (w : Slot)
  /-- SAR (R93). Element slot shifts right arithmetically by a register amount. -/
  | sar (w : Slot)
  /-- SHLI (R94). Element slot shifts left by an immediate amount. -/
  | shli (w : Slot)
  /-- SHRI (R94). Element slot shifts right logically by an immediate amount. -/
  | shri (w : Slot)
  /-- SARI (R94). Element slot shifts right arithmetically by an immediate amount. -/
  | sari (w : Slot)
  /-- CLZ (R95). Element slot counts leading zero bits per lane. -/
  | clz (w : Slot)
  /-- POPC (R95). Element slot counts one bits per lane. -/
  | popc (w : Slot)
  /-- BFXN (R96). Element slot extracts a zero-extended bit field. -/
  | bfxn (w : Slot)
  /-- BFXI (R96). Element slot extracts a sign-extended bit field. -/
  | bfxi (w : Slot)
  /-- BFI (R96). Element slot inserts a bit field of A into register D. -/
  | bfi (w : Slot)
  /-- MOVI (R97). Element slot writes a sign-extended 15-bit immediate. -/
  | movi (w : Slot)
  /-- MOVIH (R97). Element slot shifts D left 15 and ORs in a 15-bit immediate. -/
  | movih (w : Slot)
  /-- CMPEQ_I32 (R98). Element slot compares lanes for bit equality. -/
  | cmpeqI32 (w : Slot)
  /-- CMPNE_I32 (R98). Element slot compares lanes for inequality. -/
  | cmpneI32 (w : Slot)
  /-- CMPLT_I32 (R98). Element slot compares lanes for signed less-than. -/
  | cmpltI32 (w : Slot)
  /-- CMPLE_I32 (R98). Element slot compares lanes for signed less-or-equal. -/
  | cmpleI32 (w : Slot)
  /-- CMPLT_N32 (R98). Element slot compares lanes for unsigned less-than. -/
  | cmpltN32 (w : Slot)
  /-- CMPLE_N32 (R98). Element slot compares lanes for unsigned less-or-equal. -/
  | cmpleN32 (w : Slot)
  /-- PAND (R99). Element slot writes the AND of two predicates per lane. -/
  | pand (w : Slot)
  /-- POR (R99). Element slot writes the OR of two predicates per lane. -/
  | por (w : Slot)
  /-- PXOR (R99). Element slot writes the XOR of two predicates per lane. -/
  | pxor (w : Slot)
  /-- PNOT (R99). Element slot writes the negation of a predicate per lane. -/
  | pnot (w : Slot)
  /-- PCNT (R99). Element slot counts guarded lanes where a predicate is set. -/
  | pcnt (w : Slot)
  /-- SEL (R100). Element slot selects A or B per lane by a predicate. -/
  | sel (w : Slot)
  /-- BCAST (R101). Element slot broadcasts one lane of A to all guarded lanes. -/
  | bcast (w : Slot)
  /-- SHUF (R101). Element slot permutes lanes of A by indices in B. -/
  | shuf (w : Slot)
  /-- ROTL (R102). Element slot rotates A within the active lanes. -/
  | rotl (w : Slot)
  /-- SLIDEUP (R101). Element slot slides lanes of A upward by s. -/
  | slideup (w : Slot)
  /-- SLIDEDN (R101). Element slot slides lanes of A downward by s. -/
  | slidedn (w : Slot)
  /-- REDADD_I32 (R103). Element slot sums guarded lanes, wrapping, into every guarded lane. -/
  | redaddI32 (w : Slot)
  /-- REDMIN_I32 (R103). Element slot writes the signed minimum of guarded lanes. -/
  | redminI32 (w : Slot)
  /-- REDMAX_I32 (R103). Element slot writes the signed maximum of guarded lanes. -/
  | redmaxI32 (w : Slot)
  /-- SETVL (R104). Element slot grants a vector length from lane 0 of A. -/
  | setvl (w : Slot)
  /-- SETVLI (R104). Element slot grants a vector length from an immediate. -/
  | setvli (w : Slot)
  /-- SETPOL (R105). Element slot sets the grouping factor and the tail and mask policies. -/
  | setpol (w : Slot)
  /-- CLRF (R106). Element slot clears the mismatch and/or first-fault flags. -/
  | clrf (w : Slot)
  /-- RDF (R106). Element slot reads the flags and group configuration into lanes. -/
  | rdf (w : Slot)
  /-- ADD_F32 (R110). Element slot adds F32 lanes with one rounding. -/
  | addF32 (w : Slot)
  /-- SUB_F32 (R110). Element slot subtracts F32 lanes with one rounding. -/
  | subF32 (w : Slot)
  /-- MUL_F32 (R110). Element slot multiplies F32 lanes with one rounding. -/
  | mulF32 (w : Slot)
  /-- FMA_F32 (R110). Element slot computes a fused multiply-add into D. -/
  | fmaF32 (w : Slot)
  /-- MIN_F32 (R111). Element slot writes the lesser F32 value, preferring numbers to NaN. -/
  | minF32 (w : Slot)
  /-- MAX_F32 (R111). Element slot writes the greater F32 value, preferring numbers to NaN. -/
  | maxF32 (w : Slot)
  /-- NEG_F32 (R112). Element slot flips the sign bit. -/
  | negF32 (w : Slot)
  /-- ABS_F32 (R112). Element slot clears the sign bit. -/
  | absF32 (w : Slot)
  /-- SGNJ_F32 (R112). Element slot copies the sign of B onto A. -/
  | sgnjF32 (w : Slot)
  /-- CMPEQ_F32 (R113). Element slot compares F32 lanes for equality. -/
  | cmpeqF32 (w : Slot)
  /-- CMPLT_F32 (R113). Element slot compares F32 lanes for less-than. -/
  | cmpltF32 (w : Slot)
  /-- CMPLE_F32 (R113). Element slot compares F32 lanes for less-or-equal. -/
  | cmpleF32 (w : Slot)
  /-- CMPUN_F32 (R113). Element slot tests whether either F32 operand is NaN. -/
  | cmpunF32 (w : Slot)
  /-- ADD_BF16 (R116). Element slot adds packed BF16 elements. -/
  | addBf16 (w : Slot)
  /-- MUL_BF16 (R116). Element slot multiplies packed BF16 elements. -/
  | mulBf16 (w : Slot)
  /-- FMA_BF16 (R116). Element slot fuses a multiply-add on packed BF16 elements. -/
  | fmaBf16 (w : Slot)
  /-- ADD_F16 (R116). Element slot adds packed F16 elements. -/
  | addF16 (w : Slot)
  /-- MUL_F16 (R116). Element slot multiplies packed F16 elements. -/
  | mulF16 (w : Slot)
  /-- FMA_F16 (R116). Element slot fuses a multiply-add on packed F16 elements. -/
  | fmaF16 (w : Slot)
  /-- DOT_BF16 (R117). Element slot adds two BF16 products exactly into an F32 accumulator. -/
  | dotBf16 (w : Slot)
  /-- REDADD_F32 (R114). Element slot sums guarded F32 lanes in ascending order. -/
  | redaddF32 (w : Slot)
  /-- REDMAX_F32 (R115). Element slot writes the greatest guarded F32 value. -/
  | redmaxF32 (w : Slot)
  /-- CVT (R118). Element slot converts one element per lane between F32 and a narrow format. -/
  | cvt (w : Slot)
  /-- CVT_SAT (R119). Element slot converts with saturation of narrowing overflow. -/
  | cvtSat (w : Slot)
  /-- CVTI_F32 (R120). Element slot converts F32 to saturated i32. -/
  | cvtiF32 (w : Slot)
  /-- CVTN_F32 (R120). Element slot converts F32 to saturated n32. -/
  | cvtnF32 (w : Slot)
  /-- CVTF_I32 (R121). Element slot converts i32 to F32. -/
  | cvtfI32 (w : Slot)
  /-- CVTF_N32 (R121). Element slot converts n32 to F32. -/
  | cvtfN32 (w : Slot)
  /-- GRPCFG (R123). Element slot writes the group configuration word GC. -/
  | grpcfg (w : Slot)
  /-- QNT_QG (R125). Element slot quantises F32 values to QG codes with one group record. -/
  | qntQg (w : Slot)
  /-- DQNT_QG (R126). Element slot dequantises QG codes to F32. -/
  | dqntQg (w : Slot)
  /-- QNT_MX4 (R128). Element slot quantises F32 values to E2M1 codes under a block scale. -/
  | qntMx4 (w : Slot)
  /-- DQNT_MX4 (R129). Element slot dequantises MX4 codes to F32. -/
  | dqntMx4 (w : Slot)
  /-- SCALE_MX (R127). Element slot computes the E8M0 block scale of guarded lanes. -/
  | scaleMx (w : Slot)
  /-- RCP_F32 (R130). Element slot computes the reciprocal. -/
  | rcpF32 (w : Slot)
  /-- RSQ_F32 (R130). Element slot computes the reciprocal square root. -/
  | rsqF32 (w : Slot)
  /-- EX2_F32 (R130). Element slot computes 2 to the power x. -/
  | ex2F32 (w : Slot)
  /-- LG2_F32 (R130). Element slot computes log2 x. -/
  | lg2F32 (w : Slot)
  /-- TANH_F32 (R130). Element slot computes tanh x. -/
  | tanhF32 (w : Slot)
  /-- SIGM_F32 (R130). Element slot computes the logistic sigmoid. -/
  | sigmF32 (w : Slot)
  /-- LD (R139). Element memory firing loads vl consecutive words. -/
  | ld (w : Slot)
  /-- LD_FE (R139). Element memory firing loads after every touched granule is full. -/
  | ldFe (w : Slot)
  /-- LD_FE_CLR (R139). Element memory firing loads full granules and clears their bits. -/
  | ldFeClr (w : Slot)
  /-- LDFF (R141). Element memory firing loads with first-fault truncation of vl. -/
  | ldff (w : Slot)
  /-- ST (R139). Element memory firing stores vl consecutive words. -/
  | st (w : Slot)
  /-- ST_FULL (R139). Element memory firing stores words and sets their granules full. -/
  | stFull (w : Slot)
  /-- GATH (R142). Element memory firing reads one word per lane at lane addresses. -/
  | gath (w : Slot)
  /-- SCAT (R142). Element memory firing writes one word per lane at lane addresses. -/
  | scat (w : Slot)
  /-- AMOADD_I32 (R143). Element atomic adds to a word per lane and returns the old value. -/
  | amoaddI32 (w : Slot)
  /-- AMOMIN_I32 (R143). Element atomic signed minimum per lane. -/
  | amominI32 (w : Slot)
  /-- AMOMAX_I32 (R143). Element atomic signed maximum per lane. -/
  | amomaxI32 (w : Slot)
  /-- AMOSWP (R143). Element atomic swap per lane. -/
  | amoswp (w : Slot)
  /-- AMOCAS (R143). Element atomic compare-and-swap per lane. -/
  | amocas (w : Slot)
  /-- AMOADD_F32 (R143). Element atomic F32 add per lane with rounding. -/
  | amoaddF32 (w : Slot)
  /-- PASS (R147). Element slot copies a channel token group to the destination. -/
  | pass (w : Slot)
  /-- MKROW (R147). Element slot copies a token group and marks last-in-row. -/
  | mkrow (w : Slot)
  /-- MKEND (R147). Element slot copies a token group and marks last-in-row and last-in-stream. -/
  | mkend (w : Slot)
  /-- BUBL (R148). Element slot emits one bubble token. -/
  | bubl (w : Slot)
  /-- DEQ (R149). Element slot pops and discards tokens. -/
  | deq (w : Slot)
  /-- STEER (R150). Element slot routes a token group to one of two outputs by a control bit. -/
  | steer (w : Slot)
  /-- MRG (R151). Element slot merges two arms in the order a control stream dictates. -/
  | mrg (w : Slot)
  /-- MRGU (R152). Element slot takes a group from the next ready arm in cyclic order. -/
  | mrgu (w : Slot)
  /-- JOIN (R153). Element slot pops named channels and emits the AND of control bits. -/
  | join (w : Slot)
  /-- TAGSET (R154). Element slot sets or increments an output template's TAG. -/
  | tagset (w : Slot)
  /-- HDRW (R155). Element slot writes an output header template. -/
  | hdrw (w : Slot)
  /-- MXTOK (R156). Element slot forms a matrix island request token. -/
  | mxtok (w : Slot)
  /-- SREQ (R156). Element slot forms a stream start request token. -/
  | sreq (w : Slot)
  /-- XREQ (R156). Element slot forms a transfer request token. -/
  | xreq (w : Slot)
  /-- DELTA (R158). Element slot emits (index, delta) pairs for lanes that pass the threshold. -/
  | delta (w : Slot)
  /-- RESID (R159). Element slot applies one pair token to kept state. -/
  | resid (w : Slot)
  /-- HALT (R160). Element slot ends the firing operator for the configuration period. -/
  | halt (w : Slot)
  /-- TRAP (R161). Element slot completes, stops the element and delivers an element trap. -/
  | elTrap (w : Slot)
  /-- RHINT (R162). Element slot sets the operator's rate weight. -/
  | rhint (w : Slot)
  /-- FHINT (R162). Element slot sets the operator's placement hint. -/
  | fhint (w : Slot)
  /-- ADD (R172). Control core adds two registers. -/
  | add (d : BitVec 5) (a : BitVec 5) (b : BitVec 5)
  /-- SUB (R172). Control core subtracts two registers. -/
  | sub (d : BitVec 5) (a : BitVec 5) (b : BitVec 5)
  /-- ALU_AND (R172). Control core ANDs two registers. -/
  | aluAnd (d : BitVec 5) (a : BitVec 5) (b : BitVec 5)
  /-- ALU_OR (R172). Control core ORs two registers. -/
  | aluOr (d : BitVec 5) (a : BitVec 5) (b : BitVec 5)
  /-- ALU_XOR (R172). Control core XORs two registers. -/
  | aluXor (d : BitVec 5) (a : BitVec 5) (b : BitVec 5)
  /-- ALU_ANDN (R172). Control core computes a AND NOT b. -/
  | aluAndn (d : BitVec 5) (a : BitVec 5) (b : BitVec 5)
  /-- SLL (R172). Control core shifts left logically. -/
  | sll (d : BitVec 5) (a : BitVec 5) (b : BitVec 5)
  /-- SRL (R172). Control core shifts right logically. -/
  | srl (d : BitVec 5) (a : BitVec 5) (b : BitVec 5)
  /-- SRA (R172). Control core shifts right arithmetically. -/
  | sra (d : BitVec 5) (a : BitVec 5) (b : BitVec 5)
  /-- SLT (R172). Control core sets xd to signed a < b. -/
  | slt (d : BitVec 5) (a : BitVec 5) (b : BitVec 5)
  /-- SLTU (R172). Control core sets xd to unsigned a < b. -/
  | sltu (d : BitVec 5) (a : BitVec 5) (b : BitVec 5)
  /-- MUL (R172). Control core writes the low 64 bits of a product. -/
  | mul (d : BitVec 5) (a : BitVec 5) (b : BitVec 5)
  /-- MULH (R172). Control core writes the high 64 bits of a signed product. -/
  | mulh (d : BitVec 5) (a : BitVec 5) (b : BitVec 5)
  /-- MULHU (R172). Control core writes the high 64 bits of an unsigned product. -/
  | mulhu (d : BitVec 5) (a : BitVec 5) (b : BitVec 5)
  /-- DIV (R172). Control core divides signed, toward zero, never trapping. -/
  | div (d : BitVec 5) (a : BitVec 5) (b : BitVec 5)
  /-- DIVU (R172). Control core divides unsigned. -/
  | divu (d : BitVec 5) (a : BitVec 5) (b : BitVec 5)
  /-- REM (R172). Control core takes the signed remainder. -/
  | rem (d : BitVec 5) (a : BitVec 5) (b : BitVec 5)
  /-- REMU (R172). Control core takes the unsigned remainder. -/
  | remu (d : BitVec 5) (a : BitVec 5) (b : BitVec 5)
  /-- MIN (R172). Control core takes the signed minimum. -/
  | min (d : BitVec 5) (a : BitVec 5) (b : BitVec 5)
  /-- MAX (R172). Control core takes the signed maximum. -/
  | max (d : BitVec 5) (a : BitVec 5) (b : BitVec 5)
  /-- MINU (R172). Control core takes the unsigned minimum. -/
  | minu (d : BitVec 5) (a : BitVec 5) (b : BitVec 5)
  /-- MAXU (R172). Control core takes the unsigned maximum. -/
  | maxu (d : BitVec 5) (a : BitVec 5) (b : BitVec 5)
  /-- ALU_CLZ (R172). Control core counts leading zeros of a. -/
  | aluClz (d : BitVec 5) (a : BitVec 5)
  /-- ALU_POPC (R172). Control core counts one bits of a. -/
  | aluPopc (d : BitVec 5) (a : BitVec 5)
  /-- ADDI (R173). Control core adds a sign-extended immediate. -/
  | addi (d : BitVec 5) (a : BitVec 5) (i : BitVec 16)
  /-- CORE_ANDI (R173). Control core ANDs with a zero-extended immediate. -/
  | coreAndi (d : BitVec 5) (a : BitVec 5) (i : BitVec 16)
  /-- CORE_ORI (R173). Control core ORs with a zero-extended immediate. -/
  | coreOri (d : BitVec 5) (a : BitVec 5) (i : BitVec 16)
  /-- XORI (R173). Control core XORs with a zero-extended immediate. -/
  | xori (d : BitVec 5) (a : BitVec 5) (i : BitVec 16)
  /-- SLLI (R173). Control core shifts left by an immediate. -/
  | slli (d : BitVec 5) (a : BitVec 5) (c : BitVec 6)
  /-- SRLI (R173). Control core shifts right logically by an immediate. -/
  | srli (d : BitVec 5) (a : BitVec 5) (c : BitVec 6)
  /-- SRAI (R173). Control core shifts right arithmetically by an immediate. -/
  | srai (d : BitVec 5) (a : BitVec 5) (c : BitVec 6)
  /-- SLTI (R173). Control core sets xd to signed a < immediate. -/
  | slti (d : BitVec 5) (a : BitVec 5) (i : BitVec 16)
  /-- SLTIU (R173). Control core sets xd to unsigned a < immediate. -/
  | sltiu (d : BitVec 5) (a : BitVec 5) (i : BitVec 16)
  /-- LIU (R173). Control core loads an immediate shifted left by 32. -/
  | liu (d : BitVec 5) (i : BitVec 16)
  /-- EXT (R168). Prefix word that extends the next instruction's immediate to 42 bits. -/
  | ext (h : BitVec 26)
  /-- LD_I8 (R175). Control core loads a sign-extended byte at a scope. -/
  | ldI8 (d : BitVec 5) (a : BitVec 5) (s : BitVec 3) (o : BitVec 13)
  /-- LD_N8 (R175). Control core loads a zero-extended byte. -/
  | ldN8 (d : BitVec 5) (a : BitVec 5) (s : BitVec 3) (o : BitVec 13)
  /-- LD_I16 (R175). Control core loads a sign-extended halfword. -/
  | ldI16 (d : BitVec 5) (a : BitVec 5) (s : BitVec 3) (o : BitVec 13)
  /-- LD_N16 (R175). Control core loads a zero-extended halfword. -/
  | ldN16 (d : BitVec 5) (a : BitVec 5) (s : BitVec 3) (o : BitVec 13)
  /-- LD_I32 (R175). Control core loads a sign-extended word. -/
  | ldI32 (d : BitVec 5) (a : BitVec 5) (s : BitVec 3) (o : BitVec 13)
  /-- LD_N32 (R175). Control core loads a zero-extended word. -/
  | ldN32 (d : BitVec 5) (a : BitVec 5) (s : BitVec 3) (o : BitVec 13)
  /-- LD_64 (R175). Control core loads a doubleword. -/
  | ld64 (d : BitVec 5) (a : BitVec 5) (s : BitVec 3) (o : BitVec 13)
  /-- ST_8 (R175). Control core stores a byte. -/
  | st8 (d : BitVec 5) (a : BitVec 5) (s : BitVec 3) (o : BitVec 13)
  /-- ST_16 (R175). Control core stores a halfword. -/
  | st16 (d : BitVec 5) (a : BitVec 5) (s : BitVec 3) (o : BitVec 13)
  /-- ST_32 (R175). Control core stores a word. -/
  | st32 (d : BitVec 5) (a : BitVec 5) (s : BitVec 3) (o : BitVec 13)
  /-- ST_64 (R175). Control core stores a doubleword. -/
  | st64 (d : BitVec 5) (a : BitVec 5) (s : BitVec 3) (o : BitVec 13)
  /-- AMO_ADD (R176). Control core atomic add returning the old value. -/
  | amoAdd (d : BitVec 5) (a : BitVec 5) (b : BitVec 5) (s : BitVec 3) (r : BitVec 2) (w : BitVec 1)
  /-- AMO_AND (R176). Control core atomic AND. -/
  | amoAnd (d : BitVec 5) (a : BitVec 5) (b : BitVec 5) (s : BitVec 3) (r : BitVec 2) (w : BitVec 1)
  /-- AMO_OR (R176). Control core atomic OR. -/
  | amoOr (d : BitVec 5) (a : BitVec 5) (b : BitVec 5) (s : BitVec 3) (r : BitVec 2) (w : BitVec 1)
  /-- AMO_XOR (R176). Control core atomic XOR. -/
  | amoXor (d : BitVec 5) (a : BitVec 5) (b : BitVec 5) (s : BitVec 3) (r : BitVec 2) (w : BitVec 1)
  /-- AMO_MIN (R176). Control core atomic signed minimum. -/
  | amoMin (d : BitVec 5) (a : BitVec 5) (b : BitVec 5) (s : BitVec 3) (r : BitVec 2) (w : BitVec 1)
  /-- AMO_MAX (R176). Control core atomic signed maximum. -/
  | amoMax (d : BitVec 5) (a : BitVec 5) (b : BitVec 5) (s : BitVec 3) (r : BitVec 2) (w : BitVec 1)
  /-- AMO_MINU (R176). Control core atomic unsigned minimum. -/
  | amoMinu (d : BitVec 5) (a : BitVec 5) (b : BitVec 5) (s : BitVec 3) (r : BitVec 2) (w : BitVec 1)
  /-- AMO_MAXU (R176). Control core atomic unsigned maximum. -/
  | amoMaxu (d : BitVec 5) (a : BitVec 5) (b : BitVec 5) (s : BitVec 3) (r : BitVec 2) (w : BitVec 1)
  /-- AMO_SWP (R176). Control core atomic swap. -/
  | amoSwp (d : BitVec 5) (a : BitVec 5) (b : BitVec 5) (s : BitVec 3) (r : BitVec 2) (w : BitVec 1)
  /-- AMO_CAS (R176). Control core atomic compare-and-swap. -/
  | amoCas (d : BitVec 5) (a : BitVec 5) (b : BitVec 5) (s : BitVec 3) (r : BitVec 2) (w : BitVec 1)
  /-- LDA (R177). Control core load with acquire order. -/
  | lda (d : BitVec 5) (a : BitVec 5) (s : BitVec 3) (w : BitVec 1)
  /-- STL (R177). Control core store with release order. -/
  | stl (a : BitVec 5) (b : BitVec 5) (s : BitVec 3) (w : BitVec 1)
  /-- FENCE (R178). Control core orders the group's accesses at a scope, optionally waiting for engine work. -/
  | fence (e : BitVec 1) (s : BitVec 3)
  /-- BEQ (R179). Control core branches if equal. -/
  | beq (a : BitVec 5) (b : BitVec 5) (o : BitVec 16)
  /-- BNE (R179). Control core branches if not equal. -/
  | bne (a : BitVec 5) (b : BitVec 5) (o : BitVec 16)
  /-- BLT (R179). Control core branches if signed less. -/
  | blt (a : BitVec 5) (b : BitVec 5) (o : BitVec 16)
  /-- BGE (R179). Control core branches if signed greater or equal. -/
  | bge (a : BitVec 5) (b : BitVec 5) (o : BitVec 16)
  /-- BLTU (R179). Control core branches if unsigned less. -/
  | bltu (a : BitVec 5) (b : BitVec 5) (o : BitVec 16)
  /-- BGEU (R179). Control core branches if unsigned greater or equal. -/
  | bgeu (a : BitVec 5) (b : BitVec 5) (o : BitVec 16)
  /-- J (R179). Control core jumps unconditionally. -/
  | jump (o : BitVec 26)
  /-- JAL (R179). Control core jumps and links into x31. -/
  | jal (o : BitVec 26)
  /-- JALR (R179). Control core jumps to a register target and links. -/
  | jalr (d : BitVec 5) (a : BitVec 5) (i : BitVec 16)
  /-- CFG (R180). Control core waits for the previous load's reconfiguration token, then loads and checks a fabric load image. -/
  | cfg (d : BitVec 5) (a : BitVec 5)
  /-- WAITL (R180). Control core waits until the current load is Complete and reads the discarded count. -/
  | waitl (d : BitVec 5)
  /-- WAITL_NB (R180). Control core tests without waiting whether the current load is Complete. -/
  | waitlNb (d : BitVec 5)
  /-- STRM (R182). Control core starts a stream on a streamer port. -/
  | strm (a : BitVec 5) (b : BitVec 5)
  /-- MCAST (R182). Control core starts a multicast fill to a cluster mask. -/
  | mcast (a : BitVec 5) (b : BitVec 5)
  /-- LAUNCH (R185). Control core enqueues a launch record in the pool or spill queue. -/
  | launch (d : BitVec 5) (a : BitVec 5) (q : BitVec 1) (p : BitVec 1)
  /-- WAITG (R186). Control core waits for a launched child to end and retires its handle. -/
  | waitg (d : BitVec 5) (a : BitVec 5)
  /-- BAR_G (R187). Control core arrives at a group barrier of its core. -/
  | barG (m : BitVec 4)
  /-- BAR_C (R187). Control core arrives at a cluster barrier of the span. -/
  | barC (a : BitVec 5) (i : BitVec 6)
  /-- PRIO (R188). Control core sets the group's base class. -/
  | prio (d : BitVec 5) (c : BitVec 2)
  /-- RDLAY (R189). Control core reads LAYV of the current load. -/
  | rdlay (d : BitVec 5)
  /-- RDLAY_T (R189). Control core reads the layout table address of the current load. -/
  | rdlayT (d : BitVec 5)
  /-- PIN (R189). Control core pins an operator or the load against rewiring after any in-progress rewiring. -/
  | pin (d : BitVec 5) (a : BitVec 5)
  /-- UNPIN (R189). Control core removes a pin. -/
  | unpin (a : BitVec 5)
  /-- RATE (R190). Control core sets a region's rate limiter allowance. -/
  | rate (d : BitVec 5) (a : BitVec 5) (b : BitVec 5)
  /-- PATLD (R183). Control core checks and binds a Bramble image to a generator context. -/
  | patld (a : BitVec 5) (b : BitVec 5)
  /-- COLL (R192). Control core starts a collective from a descriptor. -/
  | coll (d : BitVec 5) (a : BitVec 5)
  /-- COLLW (R192). Control core waits for a collective to be done and reads its status. -/
  | collw (d : BitVec 5) (a : BitVec 5)
  /-- CNT (R191). Control core reads, selects or clears an event counter. -/
  | cnt (d : BitVec 5) (a : BitVec 5) (o : BitVec 2) (i : BitVec 6)
  /-- CORE_TRAP (R197). Control core exits the group with code 0 or raises a TRAP instruction trap. -/
  | coreTrap (a : BitVec 5) (c : BitVec 16)
  /-- INVR (R200). Control core invalidates translations of an ASID range and waits for the acknowledgement. -/
  | invr (d : BitVec 5) (a : BitVec 5) (b : BitVec 5)
  /-- CTXSV (R200). Control core saves a frozen span to a save area. -/
  | ctxsv (a : BitVec 5)
  /-- CTXLD (R200). Control core restores a span or a Stopped group from a save area. -/
  | ctxld (a : BitVec 5)
  /-- SYR (R193). Control core reads a system register. -/
  | syr (d : BitVec 5) (r : BitVec 12)
  /-- SYW (R193). Control core writes a system register. -/
  | syw (a : BitVec 5) (r : BitVec 12)
  /-- BAND (R207). Pattern instruction writes an unclipped band. -/
  | band (g : BitVec 3) (l : BitVec 12) (h : BitVec 12)
  /-- DIL (R208). Pattern instruction dilates an unclipped band. -/
  | dil (g : BitVec 3) (d : BitVec 12)
  /-- BDIAG (R207). Pattern instruction writes a block-diagonal pattern. -/
  | bdiag (g : BitVec 3) (r : BitVec 12) (c : BitVec 12)
  /-- KRON (R211). Pattern instruction writes the Kronecker product of two clipped patterns. -/
  | kron (g : BitVec 3) (a : BitVec 3) (b : BitVec 3)
  /-- HASH (R207). Pattern instruction writes a hashed pattern. -/
  | patHash (g : BitVec 3) (p : BitVec 4) (k : BitVec 4) (t : BitVec 16)
  /-- OFFS (R210). Pattern instruction translates a pattern. -/
  | offs (g : BitVec 3) (r : BitVec 12) (c : BitVec 12)
  /-- CLIP (R210). Pattern instruction clips a pattern to an extent. -/
  | clip (g : BitVec 3) (r : BitVec 12) (c : BitVec 12)
  /-- UNION (R212). Pattern instruction writes the union of two patterns. -/
  | patUnion (g : BitVec 3) (a : BitVec 3) (b : BitVec 3)
  /-- ISECT (R212). Pattern instruction writes the intersection of two patterns. -/
  | isect (g : BitVec 3) (a : BitVec 3) (b : BitVec 3)
  /-- SWAP (R210). Pattern instruction transposes a pattern. -/
  | patSwap (g : BitVec 3)
  /-- BRAMBLE_CNT (R213). Pattern instruction emits a count token. -/
  | brambleCnt (g : BitVec 3)
  /-- EMIT (R213). Pattern instruction emits the coordinates and ranks of a pattern. -/
  | emit (g : BitVec 3)
  /-- LOOP (R214). Pattern instruction counts a loop and branches back. -/
  | patLoop (j : BitVec 2) (n : BitVec 12) (b : BitVec 10)
  /-- SY_ESC_WRITE (R193). Writing 1 to SY.ESC bit 0 sets it and raises the partition interrupt. -/
  | syEscWrite (xa : BitVec 5)
  /-- SY_ERES_WRITE (R193). Writing a location word to SY.ERES resumes the named stopped unit. -/
  | syEresWrite (xa : BitVec 5)
  /-- ILLEGAL_INSTRUCTION (R171). An instruction that cannot execute as encoded raises an illegal-instruction trap. -/
  | illegalInstruction (sub : BitVec 8)
  /-- TOKEN_RELEASE (R25). A token leaves a producer's output buffer into its route or fork once every branch has room. -/
  | tokenRelease (sp ch : Nat)
  /-- TOKEN_ARRIVAL (R23). A token reaches a consumer port after the route latency. -/
  | tokenArrival (sp ch br : Nat) (bad : Bool)
  /-- MEMORY_ANSWER (R135). The answer of a held memory firing arrives and its pops and writes take effect. -/
  | memoryAnswer (cl el idx lane : Nat)
  /-- RESPONSE_QUEUE_LEAVE (R135). A response-queue entry whose access is performed leaves in firing order, emitting its answer. -/
  | responseQueueLeave (cl el : Nat)
  /-- FE_WAIT_END (R140). A waiting full/empty read proceeds once every touched granule is full. -/
  | feWaitEnd (cl el idx : Nat)
  /-- LOAD_COMPLETE (R30). A Draining load reaches Complete once every access is performed, discarding channel tokens. -/
  | loadComplete (sp : Nat)
  /-- WATCHDOG (R388). A load Running longer than SY.WDOG cycles raises a watchdog event. -/
  | watchdog (sp : Nat)
  /-- WINDOW_END (R240). At each window end the Caldera measures channels and starts at most one rewiring. -/
  | windowEnd (cl : Nat)
  /-- REWIRING_COMPLETE (R242). A rewiring divides state, redirects tokens, updates the table and increments LAYV. -/
  | rewiringComplete (sp op : Nat)
  /-- MMA (R301). The island accepts a checked MMA operation token at port 0. -/
  | mma (cl : Nat)
  /-- SETREG (R302). The island writes an island register from a SETREG token. -/
  | setreg (cl : Nat)
  /-- ISLAND_STAGE (R304). The island fetches scales and stages operand rows and columns. -/
  | islandStage (cl : Nat)
  /-- ISLAND_ARRAY (R304). An operation enters the array and passes its steps, twice if self-checked. -/
  | islandArray (cl : Nat) (miss : Nat)
  /-- ISLAND_DRAIN (R306). The island drains result rows to a tile and may emit a completion token. -/
  | islandDrain (cl : Nat)
  /-- SETUP (R283). An address generator takes a SETUP request and sets its mode. -/
  | agSetup (cl tile ag : Nat)
  /-- READ (R283). An address generator emits tokens from an operand store or line buffer. -/
  | agRead (cl tile ag : Nat)
  /-- WRITE (R283). An address generator writes following input tokens into an operand-store buffer. -/
  | agWrite (cl tile ag : Nat)
  /-- FETCH (R283). An address generator copies virtual memory into its tile and counts words on a tag. -/
  | agFetch (cl tile ag : Nat)
  /-- ARM (R283). An address generator arms a tag counter. -/
  | agArm (cl tile ag : Nat)
  /-- PUT (R283). An address generator copies its tile to virtual memory and emits a completion token. -/
  | agPut (cl tile ag : Nat)
  /-- GET (R283). A streamer port emits tokens of consecutive words from virtual memory. -/
  | portGet (cl port : Nat)
  /-- PUTS (R283). A streamer port writes following input tokens to consecutive words. -/
  | portPuts (cl port : Nat)
  /-- STREAM_START (R285). A port accepts an SREQ token and queues the stream it names. -/
  | streamStart (cl port : Nat)
  /-- FEED_TOKEN (R399). A feed stream translates and reads its next token when the port's output buffer has room. -/
  | feedToken (cl port : Nat)
  /-- STREAM_END (R288). A stream writes its status words and emits its completion token. -/
  | streamEnd (cl port : Nat)
  /-- WALK (R374). A translation walk ends with a leaf translation or a fault. -/
  | walk (cl idx : Nat)
  /-- MULTICAST_DELIVERY (R292). A source line of a multicast fill is delivered to every named tile. -/
  | multicastDelivery (sp idx cl line : Nat)
  /-- BARRIER_COMPLETE (R187). A barrier completes and its waiters become Ready. -/
  | barrierComplete (cl id : Nat) (clusterBar : Bool)
  /-- AGING (R166). A Ready group's aged class rises after 2^16 cycles without issuing. -/
  | aging (cl grp : Nat)
  /-- EVENT_TAKEN (R198). A queued element fault or trap is taken as an asynchronous event by SY.FGRP. -/
  | eventTaken (cl : Nat)
  /-- DISPATCH (R367). The hub dispatcher starts a record on a free span of a partition. -/
  | dispatch (part : Nat)
  /-- CHILD_EXIT (R186). An exiting child ends once its loads and collectives finish, and its completion is written. -/
  | childExit (cl grp : Nat)
  /-- HOST_ACCESS (R355). A host access through an HDM decoder is served at the home controller. A read is of `n` bytes at host
  address `a`, a write puts `data` there; a register is that at offset `n` of function `a`; a decoder holds `n` addresses from `a`. -/
  | hostAccess (a n : Nat) (op : HostOp) (data : List Byte)
  /-- DOORBELL (R364). A QTAIL write marks launch records ready. -/
  | doorbell (vf q : Nat) (v : W64)
  /-- QUEUE_ENABLE (R363). A write of the queue configuration enables or disables a launch queue. -/
  | queueEnable (vf q : Nat) (v : W64)
  /-- PCTL_WRITE (R357). A PCTL write sets HOLD and EN of a partition. -/
  | pctlWrite (part : Nat) (v : W64)
  /-- PSLC_WRITE (R358). A PSLC write writes back kept slices and changes the partition's slice list. -/
  | pslcWrite (part die word : Nat) (v : W64)
  /-- SLICE_FLUSH (R360). SLCMD GO starts a flush of a Dirty slice. -/
  | sliceFlush (die : Nat) (v : W64)
  /-- FLUSH_DONE (R359). A flushing slice becomes Clean. -/
  | flushDone (die : Nat)
  /-- INVALIDATION (R378). A PF GO write starts an invalidation by range. -/
  | invalidation (v : W64)
  /-- FREEZE (R390). PF OP 1 starts the freeze broadcast of a span. -/
  | spanFreeze (v : W64)
  /-- FREEZE_COMPLETE (R392). Every unit of a Freezing span has halted and the span is Frozen. -/
  | freezeComplete (sp : Nat)
  /-- SAVE (R390). PF OP 2 starts saving a frozen span. -/
  | spanSave (v : W64)
  /-- SAVE_DONE (R391). The save area is written and the span's clusters are released. -/
  | saveDone (sp : Nat)
  /-- RESTORE (R396). PF OP 3 checks a save area and restores it Frozen on a free span. -/
  | spanRestore (v : W64)
  /-- THAW (R390). PF OP 4 sets a Frozen span Running. -/
  | spanThaw (v : W64)
  /-- VF_RESET (R369). A function-level reset discards one partition's queues and spans. -/
  | vfReset (vf : Nat)
  /-- PARTITION_INTERRUPT_ACK (R383). A PIACK write acknowledges the partition interrupt and clears SY.ESC. -/
  | partitionInterruptAck (vf : Nat) (v : W64)
  /-- DCSEL_WRITE (R421). A DCSEL write selects a die counter source and clears the counter. -/
  | dcselWrite (die n : Nat) (v : W64)
  /-- EXCLUSION_WRITE (R425). An XQMSK or XSLC write excludes units and writes a record. -/
  | exclusionWrite (off : Nat) (v : W64)
  /-- GROUP_ENABLE (R424). Enabling a collective group starts the rank exchange that sets RDY. -/
  | groupEnable (g : Nat) (v : W64)
  /-- GROUP_DISABLE (R424). Clearing EN of a collective group ends its collectives with status 2. -/
  | groupDisable (g : Nat) (v : W64)
  /-- REGISTER_WRITE (R2). A write to a register with no behaviour of its own stores its value. -/
  | registerWrite (fn off : Nat) (v : W64)
  /-- LINK_STATE_UPDATE (R324). A flooded link-state update for the next epoch reaches a Geyser. -/
  | linkStateUpdate (g epoch rank link st : Nat)
  /-- EPOCH_APPLY (R324). After the gather interval a Geyser applies the updates and compares table CRCs. -/
  | epochApply (g : Nat) (crcs : List Nat)
  /-- CHUNK_PARTIAL (R330). A package receives a child's partial of a chunk and reduces it. -/
  | chunkPartial (h chunk child : Nat) (data : List Byte)
  /-- CHUNK_RESULT (R332). A package receives a chunk's result, writes DST and forwards it. -/
  | chunkResult (h chunk : Nat) (data : List Byte)
  /-- LINK_JUDGEMENT (R423). At each 2^24-cycle window the link agent judges each link's state. -/
  | linkJudgement (link rpl : Nat)
  /-- DIE_TRAINING_END (R407). A compute die ends memory training, passed or failed. -/
  | dieTrainingEnd (die : Nat) (ok : Bool)
  /-- GET_MEASUREMENTS (R413). An SPDM request returns the signed measurement log. -/
  | getMeasurements (nonce : List Byte)
  /-- GET_CERTIFICATE (R412). An SPDM request returns the identity key's certificate chain. -/
  | getCertificate (slot : Nat)
  /-- PATROL (R419). The patrol engine reads and corrects every granule and line once per 2^31 cycles. -/
  | patrol (code place : Nat) (multi : Bool)
  /-- POWER_MEASUREMENT (R428). The management core measures die power and temperature and limits or restores tokens. -/
  | powerMeasurement (die watts temp : Nat)
  /-- CORE_ACCESS_PERFORMED (R175). A control-core load returns its data, or an access is performed, so that a Waiting group becomes Ready. -/
  | coreAccessPerformed (cl grp idx : Nat)
  /-- PARTITION_BLOCK_WRITE (R357). A PF write to PQMSK, SEED, a window or the ASID range takes effect or is refused with PSTAT.ERR. -/
  | partitionBlockWrite (part off : Nat) (v : W64)
  /-- LINK_TRAINING (R423). An outer link trains, retrains after FDN is cleared, fails training or loses lanes, which changes LANES. -/
  | linkTraining (link lanes : Nat) (ok : Bool)
  /-- ROW_EXCHANGE (R424). A member link's RANK and link-number exchange, or a link-table row from another Geyser, arrives, filling PEER and PLINK and eventually setting RDY. -/
  | rowExchange (g rank : Nat) (row : List W64)
  /-- MARK_EXCHANGE (R332). Marks from other packages arrive over the new trees, so that each chunk can be classified done, reduced-up or pending. -/
  | markExchange (h rank : Nat) (marks : List Nat)
  /-- DONE_REPORT (R331). A child package reports that it is done, which lets a collective become done on its parent. -/
  | doneReport (h child : Nat)
  /-- MEMBER_STATUS (R334). Another member's ending status arrives (descriptor disagreement, or status 3 or 5 with its FADDR) and ends the collective here. -/
  | memberStatus (h rank st : Nat) (faddr : W64)
  /-- HOST_COHERENCE_REQUEST (R297). A host coherence request over CXL.cache acts on a host line cached in a home slice. -/
  | hostCoherenceRequest (line : Nat) (excl : Bool)
  /-- GO (R180). Control core moves the Ready load to Running. -/
  | go
  /-- ERET (R196). Control core returns from a trap. -/
  | eret
  /-- WFI (R199). Control core waits for a pending masked event. -/
  | wfi
  /-- END (R214). Pattern instruction ends the stream. -/
  | patEnd
  /-- INVALIDATION_ACK (R376). The invalidation agent acknowledges after removals, walks and accesses settle. -/
  | invalidationAck
  /-- PACKAGE_RESET (R407). A package reset returns the device to Reset. -/
  | packageReset
  /-- BOOT_VERIFY (R409). The boot ROM checks flash slots and runs the first image that passes or locks. -/
  | bootVerify
  /-- CLOCK_SWITCH (R411). The management core raises die 0 to 1.5 GHz and enters Full service. -/
  | clockSwitch
  /-- POWER_REMOVAL (R428). 2^16 cycles after a 105 °C shutdown record, power is removed from the dies. -/
  | powerRemoval
  deriving DecidableEq, Repr

end Sys2Proof
end

