-- ==== Sys2Proof/Decode.lean ====
section
/-! DEFINITION. Decoders and encoders of the three kinds of word: element slot words (R66, R73),
control-core words (R167 to R171) and pattern words (R206). -/

namespace Sys2Proof

open Sys2Proof.Machine

/-- The instruction of a slot opcode (R73); none where the opcode is unassigned. -/
def slotInstr (op : Nat) (s : Slot) : Option Instr :=
  match op with
  | 0x00 => some (.addI32 s)
  | 0x01 => some (.subI32 s)
  | 0x02 => some (.addI32Sat s)
  | 0x03 => some (.subI32Sat s)
  | 0x04 => some (.addN32Sat s)
  | 0x05 => some (.subN32Sat s)
  | 0x06 => some (.mulI32 s)
  | 0x07 => some (.mulhI32 s)
  | 0x08 => some (.mulhN32 s)
  | 0x09 => some (.macI32 s)
  | 0x0A => some (.minI32 s)
  | 0x0B => some (.maxI32 s)
  | 0x0C => some (.minN32 s)
  | 0x0D => some (.maxN32 s)
  | 0x0E => some (.absI32 s)
  | 0x0F => some (.addI16 s)
  | 0x10 => some (.addI16Sat s)
  | 0x11 => some (.addI8 s)
  | 0x12 => some (.addI8Sat s)
  | 0x13 => some (.dotI8 s)
  | 0x14 => some (.dotN8 s)
  | 0x15 => some (.addiI32 s)
  | 0x20 => some (.elAnd s)
  | 0x21 => some (.elOr s)
  | 0x22 => some (.elXor s)
  | 0x23 => some (.elAndn s)
  | 0x24 => some (.elNot s)
  | 0x25 => some (.shl s)
  | 0x26 => some (.shr s)
  | 0x27 => some (.sar s)
  | 0x28 => some (.shli s)
  | 0x29 => some (.shri s)
  | 0x2A => some (.sari s)
  | 0x2B => some (.andi s)
  | 0x2C => some (.ori s)
  | 0x2D => some (.clz s)
  | 0x2E => some (.popc s)
  | 0x2F => some (.bfxn s)
  | 0x30 => some (.bfxi s)
  | 0x31 => some (.bfi s)
  | 0x32 => some (.movi s)
  | 0x33 => some (.movih s)
  | 0x40 => some (.cmpeqI32 s)
  | 0x41 => some (.cmpneI32 s)
  | 0x42 => some (.cmpltI32 s)
  | 0x43 => some (.cmpleI32 s)
  | 0x44 => some (.cmpltN32 s)
  | 0x45 => some (.cmpleN32 s)
  | 0x46 => some (.pand s)
  | 0x47 => some (.por s)
  | 0x48 => some (.pxor s)
  | 0x49 => some (.pnot s)
  | 0x4A => some (.sel s)
  | 0x4B => some (.bcast s)
  | 0x4C => some (.shuf s)
  | 0x4D => some (.rotl s)
  | 0x4E => some (.slideup s)
  | 0x4F => some (.slidedn s)
  | 0x50 => some (.redaddI32 s)
  | 0x51 => some (.redminI32 s)
  | 0x52 => some (.redmaxI32 s)
  | 0x53 => some (.setvl s)
  | 0x54 => some (.setvli s)
  | 0x55 => some (.setpol s)
  | 0x56 => some (.pcnt s)
  | 0x57 => some (.clrf s)
  | 0x58 => some (.rdf s)
  | 0x60 => some (.addF32 s)
  | 0x61 => some (.subF32 s)
  | 0x62 => some (.mulF32 s)
  | 0x63 => some (.fmaF32 s)
  | 0x64 => some (.minF32 s)
  | 0x65 => some (.maxF32 s)
  | 0x66 => some (.negF32 s)
  | 0x67 => some (.absF32 s)
  | 0x68 => some (.sgnjF32 s)
  | 0x69 => some (.cmpeqF32 s)
  | 0x6A => some (.cmpltF32 s)
  | 0x6B => some (.cmpleF32 s)
  | 0x6C => some (.cmpunF32 s)
  | 0x6D => some (.addBf16 s)
  | 0x6E => some (.mulBf16 s)
  | 0x6F => some (.fmaBf16 s)
  | 0x70 => some (.addF16 s)
  | 0x71 => some (.mulF16 s)
  | 0x72 => some (.fmaF16 s)
  | 0x73 => some (.dotBf16 s)
  | 0x74 => some (.redaddF32 s)
  | 0x75 => some (.redmaxF32 s)
  | 0x80 => some (.cvt s)
  | 0x81 => some (.cvtSat s)
  | 0x82 => some (.cvtiF32 s)
  | 0x83 => some (.cvtnF32 s)
  | 0x84 => some (.cvtfI32 s)
  | 0x85 => some (.cvtfN32 s)
  | 0x86 => some (.qntQg s)
  | 0x87 => some (.dqntQg s)
  | 0x88 => some (.qntMx4 s)
  | 0x89 => some (.dqntMx4 s)
  | 0x8A => some (.scaleMx s)
  | 0x8B => some (.rcpF32 s)
  | 0x8C => some (.rsqF32 s)
  | 0x8D => some (.ex2F32 s)
  | 0x8E => some (.lg2F32 s)
  | 0x8F => some (.tanhF32 s)
  | 0x90 => some (.sigmF32 s)
  | 0x91 => some (.grpcfg s)
  | 0xA0 => some (.ld s)
  | 0xA1 => some (.ldFe s)
  | 0xA2 => some (.ldFeClr s)
  | 0xA3 => some (.ldff s)
  | 0xA4 => some (.st s)
  | 0xA5 => some (.stFull s)
  | 0xA6 => some (.gath s)
  | 0xA7 => some (.scat s)
  | 0xA8 => some (.amoaddI32 s)
  | 0xA9 => some (.amominI32 s)
  | 0xAA => some (.amomaxI32 s)
  | 0xAB => some (.amoswp s)
  | 0xAC => some (.amocas s)
  | 0xAD => some (.amoaddF32 s)
  | 0xC0 => some (.pass s)
  | 0xC1 => some (.deq s)
  | 0xC2 => some (.bubl s)
  | 0xC3 => some (.mkrow s)
  | 0xC4 => some (.mkend s)
  | 0xC5 => some (.steer s)
  | 0xC6 => some (.mrg s)
  | 0xC7 => some (.mrgu s)
  | 0xC8 => some (.join s)
  | 0xC9 => some (.tagset s)
  | 0xCA => some (.hdrw s)
  | 0xCB => some (.mxtok s)
  | 0xCC => some (.sreq s)
  | 0xCD => some (.xreq s)
  | 0xCE => some (.delta s)
  | 0xCF => some (.resid s)
  | 0xE0 => some (.halt s)
  | 0xE1 => some (.elTrap s)
  | 0xE2 => some (.rhint s)
  | 0xE3 => some (.fhint s)
  | _ => none

/-- The instruction of an element slot word, or none where R73 leaves the opcode unassigned. -/
def decodeSlot (w : W64) : Option Instr := slotInstr (slotOpOf w) (slotOf w)

/-- The opcode and fields of an element instruction (R73); none for every other instruction. -/
def slotParts (i : Instr) : Option (Nat × Slot) :=
  match i with
  | .addI32 s => some (0x00, s)
  | .subI32 s => some (0x01, s)
  | .addI32Sat s => some (0x02, s)
  | .subI32Sat s => some (0x03, s)
  | .addN32Sat s => some (0x04, s)
  | .subN32Sat s => some (0x05, s)
  | .mulI32 s => some (0x06, s)
  | .mulhI32 s => some (0x07, s)
  | .mulhN32 s => some (0x08, s)
  | .macI32 s => some (0x09, s)
  | .minI32 s => some (0x0A, s)
  | .maxI32 s => some (0x0B, s)
  | .minN32 s => some (0x0C, s)
  | .maxN32 s => some (0x0D, s)
  | .absI32 s => some (0x0E, s)
  | .addI16 s => some (0x0F, s)
  | .addI16Sat s => some (0x10, s)
  | .addI8 s => some (0x11, s)
  | .addI8Sat s => some (0x12, s)
  | .dotI8 s => some (0x13, s)
  | .dotN8 s => some (0x14, s)
  | .addiI32 s => some (0x15, s)
  | .elAnd s => some (0x20, s)
  | .elOr s => some (0x21, s)
  | .elXor s => some (0x22, s)
  | .elAndn s => some (0x23, s)
  | .elNot s => some (0x24, s)
  | .shl s => some (0x25, s)
  | .shr s => some (0x26, s)
  | .sar s => some (0x27, s)
  | .shli s => some (0x28, s)
  | .shri s => some (0x29, s)
  | .sari s => some (0x2A, s)
  | .andi s => some (0x2B, s)
  | .ori s => some (0x2C, s)
  | .clz s => some (0x2D, s)
  | .popc s => some (0x2E, s)
  | .bfxn s => some (0x2F, s)
  | .bfxi s => some (0x30, s)
  | .bfi s => some (0x31, s)
  | .movi s => some (0x32, s)
  | .movih s => some (0x33, s)
  | .cmpeqI32 s => some (0x40, s)
  | .cmpneI32 s => some (0x41, s)
  | .cmpltI32 s => some (0x42, s)
  | .cmpleI32 s => some (0x43, s)
  | .cmpltN32 s => some (0x44, s)
  | .cmpleN32 s => some (0x45, s)
  | .pand s => some (0x46, s)
  | .por s => some (0x47, s)
  | .pxor s => some (0x48, s)
  | .pnot s => some (0x49, s)
  | .sel s => some (0x4A, s)
  | .bcast s => some (0x4B, s)
  | .shuf s => some (0x4C, s)
  | .rotl s => some (0x4D, s)
  | .slideup s => some (0x4E, s)
  | .slidedn s => some (0x4F, s)
  | .redaddI32 s => some (0x50, s)
  | .redminI32 s => some (0x51, s)
  | .redmaxI32 s => some (0x52, s)
  | .setvl s => some (0x53, s)
  | .setvli s => some (0x54, s)
  | .setpol s => some (0x55, s)
  | .pcnt s => some (0x56, s)
  | .clrf s => some (0x57, s)
  | .rdf s => some (0x58, s)
  | .addF32 s => some (0x60, s)
  | .subF32 s => some (0x61, s)
  | .mulF32 s => some (0x62, s)
  | .fmaF32 s => some (0x63, s)
  | .minF32 s => some (0x64, s)
  | .maxF32 s => some (0x65, s)
  | .negF32 s => some (0x66, s)
  | .absF32 s => some (0x67, s)
  | .sgnjF32 s => some (0x68, s)
  | .cmpeqF32 s => some (0x69, s)
  | .cmpltF32 s => some (0x6A, s)
  | .cmpleF32 s => some (0x6B, s)
  | .cmpunF32 s => some (0x6C, s)
  | .addBf16 s => some (0x6D, s)
  | .mulBf16 s => some (0x6E, s)
  | .fmaBf16 s => some (0x6F, s)
  | .addF16 s => some (0x70, s)
  | .mulF16 s => some (0x71, s)
  | .fmaF16 s => some (0x72, s)
  | .dotBf16 s => some (0x73, s)
  | .redaddF32 s => some (0x74, s)
  | .redmaxF32 s => some (0x75, s)
  | .cvt s => some (0x80, s)
  | .cvtSat s => some (0x81, s)
  | .cvtiF32 s => some (0x82, s)
  | .cvtnF32 s => some (0x83, s)
  | .cvtfI32 s => some (0x84, s)
  | .cvtfN32 s => some (0x85, s)
  | .qntQg s => some (0x86, s)
  | .dqntQg s => some (0x87, s)
  | .qntMx4 s => some (0x88, s)
  | .dqntMx4 s => some (0x89, s)
  | .scaleMx s => some (0x8A, s)
  | .rcpF32 s => some (0x8B, s)
  | .rsqF32 s => some (0x8C, s)
  | .ex2F32 s => some (0x8D, s)
  | .lg2F32 s => some (0x8E, s)
  | .tanhF32 s => some (0x8F, s)
  | .sigmF32 s => some (0x90, s)
  | .grpcfg s => some (0x91, s)
  | .ld s => some (0xA0, s)
  | .ldFe s => some (0xA1, s)
  | .ldFeClr s => some (0xA2, s)
  | .ldff s => some (0xA3, s)
  | .st s => some (0xA4, s)
  | .stFull s => some (0xA5, s)
  | .gath s => some (0xA6, s)
  | .scat s => some (0xA7, s)
  | .amoaddI32 s => some (0xA8, s)
  | .amominI32 s => some (0xA9, s)
  | .amomaxI32 s => some (0xAA, s)
  | .amoswp s => some (0xAB, s)
  | .amocas s => some (0xAC, s)
  | .amoaddF32 s => some (0xAD, s)
  | .pass s => some (0xC0, s)
  | .deq s => some (0xC1, s)
  | .bubl s => some (0xC2, s)
  | .mkrow s => some (0xC3, s)
  | .mkend s => some (0xC4, s)
  | .steer s => some (0xC5, s)
  | .mrg s => some (0xC6, s)
  | .mrgu s => some (0xC7, s)
  | .join s => some (0xC8, s)
  | .tagset s => some (0xC9, s)
  | .hdrw s => some (0xCA, s)
  | .mxtok s => some (0xCB, s)
  | .sreq s => some (0xCC, s)
  | .xreq s => some (0xCD, s)
  | .delta s => some (0xCE, s)
  | .resid s => some (0xCF, s)
  | .halt s => some (0xE0, s)
  | .elTrap s => some (0xE1, s)
  | .rhint s => some (0xE2, s)
  | .fhint s => some (0xE3, s)
  | _ => none

/-- The slot word of an element instruction (R66). -/
def encodeSlot (i : Instr) : Option W64 := (slotParts i).map (fun p => slotWord p.1 p.2)

/-- The control-core instruction a word holds when every fixed field is as its row requires. -/
def coreRow (w : W32) : Option Instr :=
  match field 31 26 w with
  | 0x00 =>
    match field 10 0 w with
    | 0 => some (.add (BitVec.ofNat 5 (field 25 21 w)) (BitVec.ofNat 5 (field 20 16 w)) (BitVec.ofNat 5 (field 15 11 w)))
    | 1 => some (.sub (BitVec.ofNat 5 (field 25 21 w)) (BitVec.ofNat 5 (field 20 16 w)) (BitVec.ofNat 5 (field 15 11 w)))
    | 2 => some (.aluAnd (BitVec.ofNat 5 (field 25 21 w)) (BitVec.ofNat 5 (field 20 16 w)) (BitVec.ofNat 5 (field 15 11 w)))
    | 3 => some (.aluOr (BitVec.ofNat 5 (field 25 21 w)) (BitVec.ofNat 5 (field 20 16 w)) (BitVec.ofNat 5 (field 15 11 w)))
    | 4 => some (.aluXor (BitVec.ofNat 5 (field 25 21 w)) (BitVec.ofNat 5 (field 20 16 w)) (BitVec.ofNat 5 (field 15 11 w)))
    | 5 => some (.aluAndn (BitVec.ofNat 5 (field 25 21 w)) (BitVec.ofNat 5 (field 20 16 w)) (BitVec.ofNat 5 (field 15 11 w)))
    | 6 => some (.sll (BitVec.ofNat 5 (field 25 21 w)) (BitVec.ofNat 5 (field 20 16 w)) (BitVec.ofNat 5 (field 15 11 w)))
    | 7 => some (.srl (BitVec.ofNat 5 (field 25 21 w)) (BitVec.ofNat 5 (field 20 16 w)) (BitVec.ofNat 5 (field 15 11 w)))
    | 8 => some (.sra (BitVec.ofNat 5 (field 25 21 w)) (BitVec.ofNat 5 (field 20 16 w)) (BitVec.ofNat 5 (field 15 11 w)))
    | 9 => some (.slt (BitVec.ofNat 5 (field 25 21 w)) (BitVec.ofNat 5 (field 20 16 w)) (BitVec.ofNat 5 (field 15 11 w)))
    | 10 => some (.sltu (BitVec.ofNat 5 (field 25 21 w)) (BitVec.ofNat 5 (field 20 16 w)) (BitVec.ofNat 5 (field 15 11 w)))
    | 11 => some (.mul (BitVec.ofNat 5 (field 25 21 w)) (BitVec.ofNat 5 (field 20 16 w)) (BitVec.ofNat 5 (field 15 11 w)))
    | 12 => some (.mulh (BitVec.ofNat 5 (field 25 21 w)) (BitVec.ofNat 5 (field 20 16 w)) (BitVec.ofNat 5 (field 15 11 w)))
    | 13 => some (.mulhu (BitVec.ofNat 5 (field 25 21 w)) (BitVec.ofNat 5 (field 20 16 w)) (BitVec.ofNat 5 (field 15 11 w)))
    | 14 => some (.div (BitVec.ofNat 5 (field 25 21 w)) (BitVec.ofNat 5 (field 20 16 w)) (BitVec.ofNat 5 (field 15 11 w)))
    | 15 => some (.divu (BitVec.ofNat 5 (field 25 21 w)) (BitVec.ofNat 5 (field 20 16 w)) (BitVec.ofNat 5 (field 15 11 w)))
    | 16 => some (.rem (BitVec.ofNat 5 (field 25 21 w)) (BitVec.ofNat 5 (field 20 16 w)) (BitVec.ofNat 5 (field 15 11 w)))
    | 17 => some (.remu (BitVec.ofNat 5 (field 25 21 w)) (BitVec.ofNat 5 (field 20 16 w)) (BitVec.ofNat 5 (field 15 11 w)))
    | 18 => some (.min (BitVec.ofNat 5 (field 25 21 w)) (BitVec.ofNat 5 (field 20 16 w)) (BitVec.ofNat 5 (field 15 11 w)))
    | 19 => some (.max (BitVec.ofNat 5 (field 25 21 w)) (BitVec.ofNat 5 (field 20 16 w)) (BitVec.ofNat 5 (field 15 11 w)))
    | 20 => some (.minu (BitVec.ofNat 5 (field 25 21 w)) (BitVec.ofNat 5 (field 20 16 w)) (BitVec.ofNat 5 (field 15 11 w)))
    | 21 => some (.maxu (BitVec.ofNat 5 (field 25 21 w)) (BitVec.ofNat 5 (field 20 16 w)) (BitVec.ofNat 5 (field 15 11 w)))
    | 22 => if field 15 11 w = 0 then some (.aluClz (BitVec.ofNat 5 (field 25 21 w)) (BitVec.ofNat 5 (field 20 16 w))) else none
    | 23 => if field 15 11 w = 0 then some (.aluPopc (BitVec.ofNat 5 (field 25 21 w)) (BitVec.ofNat 5 (field 20 16 w))) else none
    | _ => none
  | 0x01 =>
    some (.addi (BitVec.ofNat 5 (field 25 21 w)) (BitVec.ofNat 5 (field 20 16 w)) (BitVec.ofNat 16 (field 15 0 w)))
  | 0x02 =>
    some (.coreAndi (BitVec.ofNat 5 (field 25 21 w)) (BitVec.ofNat 5 (field 20 16 w)) (BitVec.ofNat 16 (field 15 0 w)))
  | 0x03 =>
    some (.coreOri (BitVec.ofNat 5 (field 25 21 w)) (BitVec.ofNat 5 (field 20 16 w)) (BitVec.ofNat 16 (field 15 0 w)))
  | 0x04 =>
    some (.xori (BitVec.ofNat 5 (field 25 21 w)) (BitVec.ofNat 5 (field 20 16 w)) (BitVec.ofNat 16 (field 15 0 w)))
  | 0x05 =>
    if field 15 6 w = 0 then
      some (.slli (BitVec.ofNat 5 (field 25 21 w)) (BitVec.ofNat 5 (field 20 16 w)) (BitVec.ofNat 6 (field 5 0 w)))
    else
    none
  | 0x06 =>
    if field 15 6 w = 0 then
      some (.srli (BitVec.ofNat 5 (field 25 21 w)) (BitVec.ofNat 5 (field 20 16 w)) (BitVec.ofNat 6 (field 5 0 w)))
    else
    none
  | 0x07 =>
    if field 15 6 w = 0 then
      some (.srai (BitVec.ofNat 5 (field 25 21 w)) (BitVec.ofNat 5 (field 20 16 w)) (BitVec.ofNat 6 (field 5 0 w)))
    else
    none
  | 0x08 =>
    some (.slti (BitVec.ofNat 5 (field 25 21 w)) (BitVec.ofNat 5 (field 20 16 w)) (BitVec.ofNat 16 (field 15 0 w)))
  | 0x09 =>
    some (.sltiu (BitVec.ofNat 5 (field 25 21 w)) (BitVec.ofNat 5 (field 20 16 w)) (BitVec.ofNat 16 (field 15 0 w)))
  | 0x0A =>
    if field 20 16 w = 0 then
      some (.liu (BitVec.ofNat 5 (field 25 21 w)) (BitVec.ofNat 16 (field 15 0 w)))
    else
    none
  | 0x10 =>
    some (.ldI8 (BitVec.ofNat 5 (field 25 21 w)) (BitVec.ofNat 5 (field 20 16 w)) (BitVec.ofNat 3 (field 15 13 w)) (BitVec.ofNat 13 (field 12 0 w)))
  | 0x11 =>
    some (.ldN8 (BitVec.ofNat 5 (field 25 21 w)) (BitVec.ofNat 5 (field 20 16 w)) (BitVec.ofNat 3 (field 15 13 w)) (BitVec.ofNat 13 (field 12 0 w)))
  | 0x12 =>
    some (.ldI16 (BitVec.ofNat 5 (field 25 21 w)) (BitVec.ofNat 5 (field 20 16 w)) (BitVec.ofNat 3 (field 15 13 w)) (BitVec.ofNat 13 (field 12 0 w)))
  | 0x13 =>
    some (.ldN16 (BitVec.ofNat 5 (field 25 21 w)) (BitVec.ofNat 5 (field 20 16 w)) (BitVec.ofNat 3 (field 15 13 w)) (BitVec.ofNat 13 (field 12 0 w)))
  | 0x14 =>
    some (.ldI32 (BitVec.ofNat 5 (field 25 21 w)) (BitVec.ofNat 5 (field 20 16 w)) (BitVec.ofNat 3 (field 15 13 w)) (BitVec.ofNat 13 (field 12 0 w)))
  | 0x15 =>
    some (.ldN32 (BitVec.ofNat 5 (field 25 21 w)) (BitVec.ofNat 5 (field 20 16 w)) (BitVec.ofNat 3 (field 15 13 w)) (BitVec.ofNat 13 (field 12 0 w)))
  | 0x16 =>
    some (.ld64 (BitVec.ofNat 5 (field 25 21 w)) (BitVec.ofNat 5 (field 20 16 w)) (BitVec.ofNat 3 (field 15 13 w)) (BitVec.ofNat 13 (field 12 0 w)))
  | 0x18 =>
    some (.st8 (BitVec.ofNat 5 (field 25 21 w)) (BitVec.ofNat 5 (field 20 16 w)) (BitVec.ofNat 3 (field 15 13 w)) (BitVec.ofNat 13 (field 12 0 w)))
  | 0x19 =>
    some (.st16 (BitVec.ofNat 5 (field 25 21 w)) (BitVec.ofNat 5 (field 20 16 w)) (BitVec.ofNat 3 (field 15 13 w)) (BitVec.ofNat 13 (field 12 0 w)))
  | 0x1A =>
    some (.st32 (BitVec.ofNat 5 (field 25 21 w)) (BitVec.ofNat 5 (field 20 16 w)) (BitVec.ofNat 3 (field 15 13 w)) (BitVec.ofNat 13 (field 12 0 w)))
  | 0x1B =>
    some (.st64 (BitVec.ofNat 5 (field 25 21 w)) (BitVec.ofNat 5 (field 20 16 w)) (BitVec.ofNat 3 (field 15 13 w)) (BitVec.ofNat 13 (field 12 0 w)))
  | 0x1C =>
    if field 4 0 w = 0 then
      some (.amoAdd (BitVec.ofNat 5 (field 25 21 w)) (BitVec.ofNat 5 (field 20 16 w)) (BitVec.ofNat 5 (field 15 11 w)) (BitVec.ofNat 3 (field 10 8 w)) (BitVec.ofNat 2 (field 7 6 w)) (BitVec.ofNat 1 (field 5 5 w)))
    else
    if field 4 0 w = 1 then
      some (.amoAnd (BitVec.ofNat 5 (field 25 21 w)) (BitVec.ofNat 5 (field 20 16 w)) (BitVec.ofNat 5 (field 15 11 w)) (BitVec.ofNat 3 (field 10 8 w)) (BitVec.ofNat 2 (field 7 6 w)) (BitVec.ofNat 1 (field 5 5 w)))
    else
    if field 4 0 w = 2 then
      some (.amoOr (BitVec.ofNat 5 (field 25 21 w)) (BitVec.ofNat 5 (field 20 16 w)) (BitVec.ofNat 5 (field 15 11 w)) (BitVec.ofNat 3 (field 10 8 w)) (BitVec.ofNat 2 (field 7 6 w)) (BitVec.ofNat 1 (field 5 5 w)))
    else
    if field 4 0 w = 3 then
      some (.amoXor (BitVec.ofNat 5 (field 25 21 w)) (BitVec.ofNat 5 (field 20 16 w)) (BitVec.ofNat 5 (field 15 11 w)) (BitVec.ofNat 3 (field 10 8 w)) (BitVec.ofNat 2 (field 7 6 w)) (BitVec.ofNat 1 (field 5 5 w)))
    else
    if field 4 0 w = 4 then
      some (.amoMin (BitVec.ofNat 5 (field 25 21 w)) (BitVec.ofNat 5 (field 20 16 w)) (BitVec.ofNat 5 (field 15 11 w)) (BitVec.ofNat 3 (field 10 8 w)) (BitVec.ofNat 2 (field 7 6 w)) (BitVec.ofNat 1 (field 5 5 w)))
    else
    if field 4 0 w = 5 then
      some (.amoMax (BitVec.ofNat 5 (field 25 21 w)) (BitVec.ofNat 5 (field 20 16 w)) (BitVec.ofNat 5 (field 15 11 w)) (BitVec.ofNat 3 (field 10 8 w)) (BitVec.ofNat 2 (field 7 6 w)) (BitVec.ofNat 1 (field 5 5 w)))
    else
    if field 4 0 w = 6 then
      some (.amoMinu (BitVec.ofNat 5 (field 25 21 w)) (BitVec.ofNat 5 (field 20 16 w)) (BitVec.ofNat 5 (field 15 11 w)) (BitVec.ofNat 3 (field 10 8 w)) (BitVec.ofNat 2 (field 7 6 w)) (BitVec.ofNat 1 (field 5 5 w)))
    else
    if field 4 0 w = 7 then
      some (.amoMaxu (BitVec.ofNat 5 (field 25 21 w)) (BitVec.ofNat 5 (field 20 16 w)) (BitVec.ofNat 5 (field 15 11 w)) (BitVec.ofNat 3 (field 10 8 w)) (BitVec.ofNat 2 (field 7 6 w)) (BitVec.ofNat 1 (field 5 5 w)))
    else
    if field 4 0 w = 8 then
      some (.amoSwp (BitVec.ofNat 5 (field 25 21 w)) (BitVec.ofNat 5 (field 20 16 w)) (BitVec.ofNat 5 (field 15 11 w)) (BitVec.ofNat 3 (field 10 8 w)) (BitVec.ofNat 2 (field 7 6 w)) (BitVec.ofNat 1 (field 5 5 w)))
    else
    if field 4 0 w = 9 then
      some (.amoCas (BitVec.ofNat 5 (field 25 21 w)) (BitVec.ofNat 5 (field 20 16 w)) (BitVec.ofNat 5 (field 15 11 w)) (BitVec.ofNat 3 (field 10 8 w)) (BitVec.ofNat 2 (field 7 6 w)) (BitVec.ofNat 1 (field 5 5 w)))
    else
    none
  | 0x1D =>
    if field 4 0 w = 0 ∧ field 7 6 w = 0 ∧ field 15 11 w = 0 then
      some (.lda (BitVec.ofNat 5 (field 25 21 w)) (BitVec.ofNat 5 (field 20 16 w)) (BitVec.ofNat 3 (field 10 8 w)) (BitVec.ofNat 1 (field 5 5 w)))
    else
    none
  | 0x1E =>
    if field 4 0 w = 0 ∧ field 7 6 w = 0 ∧ field 25 21 w = 0 then
      some (.stl (BitVec.ofNat 5 (field 20 16 w)) (BitVec.ofNat 5 (field 15 11 w)) (BitVec.ofNat 3 (field 10 8 w)) (BitVec.ofNat 1 (field 5 5 w)))
    else
    none
  | 0x1F =>
    if field 25 4 w = 0 then
      some (.fence (BitVec.ofNat 1 (field 3 3 w)) (BitVec.ofNat 3 (field 2 0 w)))
    else
    none
  | 0x20 =>
    some (.beq (BitVec.ofNat 5 (field 25 21 w)) (BitVec.ofNat 5 (field 20 16 w)) (BitVec.ofNat 16 (field 15 0 w)))
  | 0x21 =>
    some (.bne (BitVec.ofNat 5 (field 25 21 w)) (BitVec.ofNat 5 (field 20 16 w)) (BitVec.ofNat 16 (field 15 0 w)))
  | 0x22 =>
    some (.blt (BitVec.ofNat 5 (field 25 21 w)) (BitVec.ofNat 5 (field 20 16 w)) (BitVec.ofNat 16 (field 15 0 w)))
  | 0x23 =>
    some (.bge (BitVec.ofNat 5 (field 25 21 w)) (BitVec.ofNat 5 (field 20 16 w)) (BitVec.ofNat 16 (field 15 0 w)))
  | 0x24 =>
    some (.bltu (BitVec.ofNat 5 (field 25 21 w)) (BitVec.ofNat 5 (field 20 16 w)) (BitVec.ofNat 16 (field 15 0 w)))
  | 0x25 =>
    some (.bgeu (BitVec.ofNat 5 (field 25 21 w)) (BitVec.ofNat 5 (field 20 16 w)) (BitVec.ofNat 16 (field 15 0 w)))
  | 0x26 =>
    some (.jump (BitVec.ofNat 26 (field 25 0 w)))
  | 0x27 =>
    some (.jal (BitVec.ofNat 26 (field 25 0 w)))
  | 0x28 =>
    some (.jalr (BitVec.ofNat 5 (field 25 21 w)) (BitVec.ofNat 5 (field 20 16 w)) (BitVec.ofNat 16 (field 15 0 w)))
  | 0x30 =>
    if field 15 0 w = 0 then
      some (.cfg (BitVec.ofNat 5 (field 25 21 w)) (BitVec.ofNat 5 (field 20 16 w)))
    else
    if field 25 0 w = 1 then
      some (.go)
    else
    if field 20 0 w = 2 then
      some (.waitl (BitVec.ofNat 5 (field 25 21 w)))
    else
    if field 20 0 w = 3 then
      some (.waitlNb (BitVec.ofNat 5 (field 25 21 w)))
    else
    none
  | 0x31 =>
    if field 10 0 w = 0 ∧ field 25 21 w = 0 then
      some (.strm (BitVec.ofNat 5 (field 20 16 w)) (BitVec.ofNat 5 (field 15 11 w)))
    else
    none
  | 0x32 =>
    if field 10 0 w = 0 ∧ field 25 21 w = 0 then
      some (.mcast (BitVec.ofNat 5 (field 20 16 w)) (BitVec.ofNat 5 (field 15 11 w)))
    else
    none
  | 0x33 =>
    if field 15 2 w = 0 then
      some (.launch (BitVec.ofNat 5 (field 25 21 w)) (BitVec.ofNat 5 (field 20 16 w)) (BitVec.ofNat 1 (field 1 1 w)) (BitVec.ofNat 1 (field 0 0 w)))
    else
    none
  | 0x34 =>
    if field 15 0 w = 0 then
      some (.waitg (BitVec.ofNat 5 (field 25 21 w)) (BitVec.ofNat 5 (field 20 16 w)))
    else
    none
  | 0x35 =>
    if field 25 4 w = 0 then
      some (.barG (BitVec.ofNat 4 (field 3 0 w)))
    else
    if field 15 6 w = 512 ∧ field 25 21 w = 0 then
      some (.barC (BitVec.ofNat 5 (field 20 16 w)) (BitVec.ofNat 6 (field 5 0 w)))
    else
    none
  | 0x36 =>
    if field 20 2 w = 0 then
      some (.prio (BitVec.ofNat 5 (field 25 21 w)) (BitVec.ofNat 2 (field 1 0 w)))
    else
    none
  | 0x37 =>
    if field 20 0 w = 0 then
      some (.rdlay (BitVec.ofNat 5 (field 25 21 w)))
    else
    if field 20 0 w = 1 then
      some (.rdlayT (BitVec.ofNat 5 (field 25 21 w)))
    else
    if field 15 0 w = 2 then
      some (.pin (BitVec.ofNat 5 (field 25 21 w)) (BitVec.ofNat 5 (field 20 16 w)))
    else
    if field 15 0 w = 3 ∧ field 25 21 w = 0 then
      some (.unpin (BitVec.ofNat 5 (field 20 16 w)))
    else
    none
  | 0x38 =>
    if field 10 0 w = 0 then
      some (.rate (BitVec.ofNat 5 (field 25 21 w)) (BitVec.ofNat 5 (field 20 16 w)) (BitVec.ofNat 5 (field 15 11 w)))
    else
    none
  | 0x39 =>
    if field 10 0 w = 0 ∧ field 25 21 w = 0 then
      some (.patld (BitVec.ofNat 5 (field 20 16 w)) (BitVec.ofNat 5 (field 15 11 w)))
    else
    none
  | 0x3A =>
    if field 15 0 w = 0 then
      some (.coll (BitVec.ofNat 5 (field 25 21 w)) (BitVec.ofNat 5 (field 20 16 w)))
    else
    if field 15 0 w = 1 then
      some (.collw (BitVec.ofNat 5 (field 25 21 w)) (BitVec.ofNat 5 (field 20 16 w)))
    else
    none
  | 0x3B =>
    if field 15 8 w = 0 then
      some (.cnt (BitVec.ofNat 5 (field 25 21 w)) (BitVec.ofNat 5 (field 20 16 w)) (BitVec.ofNat 2 (field 7 6 w)) (BitVec.ofNat 6 (field 5 0 w)))
    else
    none
  | 0x3C =>
    if field 25 21 w = 0 then
      some (.coreTrap (BitVec.ofNat 5 (field 20 16 w)) (BitVec.ofNat 16 (field 15 0 w)))
    else
    none
  | 0x3D =>
    if field 25 0 w = 0 then
      some (.eret)
    else
    if field 25 0 w = 1 then
      some (.wfi)
    else
    if field 10 0 w = 2 then
      some (.invr (BitVec.ofNat 5 (field 25 21 w)) (BitVec.ofNat 5 (field 20 16 w)) (BitVec.ofNat 5 (field 15 11 w)))
    else
    if field 15 0 w = 3 ∧ field 25 21 w = 0 then
      some (.ctxsv (BitVec.ofNat 5 (field 20 16 w)))
    else
    if field 15 0 w = 4 ∧ field 25 21 w = 0 then
      some (.ctxld (BitVec.ofNat 5 (field 20 16 w)))
    else
    none
  | 0x3E =>
    if field 20 12 w = 0 then
      some (.syr (BitVec.ofNat 5 (field 25 21 w)) (BitVec.ofNat 12 (field 11 0 w)))
    else
    if field 15 12 w = 8 ∧ field 25 21 w = 0 then
      some (.syw (BitVec.ofNat 5 (field 20 16 w)) (BitVec.ofNat 12 (field 11 0 w)))
    else
    none
  | 0x3F =>
    some (.ext (BitVec.ofNat 26 (field 25 0 w)))
  | _ => none

/-- The opcodes R170 leaves unassigned. -/
def coreOpcAssigned (opc : Nat) : Bool :=
  !(decide (0x0B ≤ opc ∧ opc ≤ 0x0F) || decide (opc = 0x17) || decide (0x29 ≤ opc ∧ opc ≤ 0x2F))

/-- Whether a word's FN value is unassigned for its opcode (R172, R176, R180, R189, R192, R200). -/
def coreFnBad (w : W32) : Bool :=
  let fn := field 10 0 w
  match field 31 26 w with
  | 0x00 => decide (0x18 ≤ fn)
  | 0x1C => decide (10 ≤ fn % 16)
  | 0x30 | 0x37 => decide (4 ≤ fn)
  | 0x3A => decide (2 ≤ fn)
  | 0x3D => decide (5 ≤ fn)
  | _ => false

/-- The subcode of a word that is no instruction (R171): 1, 2 or 3. A PATLD word whose FN is not 0 has subcode 3: R183 states
nothing of its FN (log 82). -/
def coreSub (w : W32) : BitVec 8 :=
  if !coreOpcAssigned (field 31 26 w) then 1#8 else if coreFnBad w then 2#8 else 3#8

/-- The control-core instruction of a word, or the subcode of R171 that refuses it. -/
def decodeCore (w : W32) : Except (BitVec 8) Instr :=
  match coreRow w with
  | some i => .ok i
  | none => .error (coreSub w)

/-- The control-core word of an instruction (R167); none for every other instruction. -/
def encodeCore (i : Instr) : Option W32 :=
  match i with
  | .add d a b => some (BitVec.ofNat 32 (put 26 0x00 + put 21 d.toNat + put 16 a.toNat + put 11 b.toNat))
  | .sub d a b => some (BitVec.ofNat 32 (put 26 0x00 + put 0 1 + put 21 d.toNat + put 16 a.toNat + put 11 b.toNat))
  | .aluAnd d a b => some (BitVec.ofNat 32 (put 26 0x00 + put 0 2 + put 21 d.toNat + put 16 a.toNat + put 11 b.toNat))
  | .aluOr d a b => some (BitVec.ofNat 32 (put 26 0x00 + put 0 3 + put 21 d.toNat + put 16 a.toNat + put 11 b.toNat))
  | .aluXor d a b => some (BitVec.ofNat 32 (put 26 0x00 + put 0 4 + put 21 d.toNat + put 16 a.toNat + put 11 b.toNat))
  | .aluAndn d a b => some (BitVec.ofNat 32 (put 26 0x00 + put 0 5 + put 21 d.toNat + put 16 a.toNat + put 11 b.toNat))
  | .sll d a b => some (BitVec.ofNat 32 (put 26 0x00 + put 0 6 + put 21 d.toNat + put 16 a.toNat + put 11 b.toNat))
  | .srl d a b => some (BitVec.ofNat 32 (put 26 0x00 + put 0 7 + put 21 d.toNat + put 16 a.toNat + put 11 b.toNat))
  | .sra d a b => some (BitVec.ofNat 32 (put 26 0x00 + put 0 8 + put 21 d.toNat + put 16 a.toNat + put 11 b.toNat))
  | .slt d a b => some (BitVec.ofNat 32 (put 26 0x00 + put 0 9 + put 21 d.toNat + put 16 a.toNat + put 11 b.toNat))
  | .sltu d a b => some (BitVec.ofNat 32 (put 26 0x00 + put 0 10 + put 21 d.toNat + put 16 a.toNat + put 11 b.toNat))
  | .mul d a b => some (BitVec.ofNat 32 (put 26 0x00 + put 0 11 + put 21 d.toNat + put 16 a.toNat + put 11 b.toNat))
  | .mulh d a b => some (BitVec.ofNat 32 (put 26 0x00 + put 0 12 + put 21 d.toNat + put 16 a.toNat + put 11 b.toNat))
  | .mulhu d a b => some (BitVec.ofNat 32 (put 26 0x00 + put 0 13 + put 21 d.toNat + put 16 a.toNat + put 11 b.toNat))
  | .div d a b => some (BitVec.ofNat 32 (put 26 0x00 + put 0 14 + put 21 d.toNat + put 16 a.toNat + put 11 b.toNat))
  | .divu d a b => some (BitVec.ofNat 32 (put 26 0x00 + put 0 15 + put 21 d.toNat + put 16 a.toNat + put 11 b.toNat))
  | .rem d a b => some (BitVec.ofNat 32 (put 26 0x00 + put 0 16 + put 21 d.toNat + put 16 a.toNat + put 11 b.toNat))
  | .remu d a b => some (BitVec.ofNat 32 (put 26 0x00 + put 0 17 + put 21 d.toNat + put 16 a.toNat + put 11 b.toNat))
  | .min d a b => some (BitVec.ofNat 32 (put 26 0x00 + put 0 18 + put 21 d.toNat + put 16 a.toNat + put 11 b.toNat))
  | .max d a b => some (BitVec.ofNat 32 (put 26 0x00 + put 0 19 + put 21 d.toNat + put 16 a.toNat + put 11 b.toNat))
  | .minu d a b => some (BitVec.ofNat 32 (put 26 0x00 + put 0 20 + put 21 d.toNat + put 16 a.toNat + put 11 b.toNat))
  | .maxu d a b => some (BitVec.ofNat 32 (put 26 0x00 + put 0 21 + put 21 d.toNat + put 16 a.toNat + put 11 b.toNat))
  | .aluClz d a => some (BitVec.ofNat 32 (put 26 0x00 + put 0 22 + put 21 d.toNat + put 16 a.toNat))
  | .aluPopc d a => some (BitVec.ofNat 32 (put 26 0x00 + put 0 23 + put 21 d.toNat + put 16 a.toNat))
  | .addi d a i => some (BitVec.ofNat 32 (put 26 0x01 + put 21 d.toNat + put 16 a.toNat + put 0 i.toNat))
  | .coreAndi d a i => some (BitVec.ofNat 32 (put 26 0x02 + put 21 d.toNat + put 16 a.toNat + put 0 i.toNat))
  | .coreOri d a i => some (BitVec.ofNat 32 (put 26 0x03 + put 21 d.toNat + put 16 a.toNat + put 0 i.toNat))
  | .xori d a i => some (BitVec.ofNat 32 (put 26 0x04 + put 21 d.toNat + put 16 a.toNat + put 0 i.toNat))
  | .slli d a c => some (BitVec.ofNat 32 (put 26 0x05 + put 21 d.toNat + put 16 a.toNat + put 0 c.toNat))
  | .srli d a c => some (BitVec.ofNat 32 (put 26 0x06 + put 21 d.toNat + put 16 a.toNat + put 0 c.toNat))
  | .srai d a c => some (BitVec.ofNat 32 (put 26 0x07 + put 21 d.toNat + put 16 a.toNat + put 0 c.toNat))
  | .slti d a i => some (BitVec.ofNat 32 (put 26 0x08 + put 21 d.toNat + put 16 a.toNat + put 0 i.toNat))
  | .sltiu d a i => some (BitVec.ofNat 32 (put 26 0x09 + put 21 d.toNat + put 16 a.toNat + put 0 i.toNat))
  | .liu d i => some (BitVec.ofNat 32 (put 26 0x0A + put 21 d.toNat + put 0 i.toNat))
  | .ext h => some (BitVec.ofNat 32 (put 26 0x3F + put 0 h.toNat))
  | .ldI8 d a s o => some (BitVec.ofNat 32 (put 26 0x10 + put 21 d.toNat + put 16 a.toNat + put 13 s.toNat + put 0 o.toNat))
  | .ldN8 d a s o => some (BitVec.ofNat 32 (put 26 0x11 + put 21 d.toNat + put 16 a.toNat + put 13 s.toNat + put 0 o.toNat))
  | .ldI16 d a s o => some (BitVec.ofNat 32 (put 26 0x12 + put 21 d.toNat + put 16 a.toNat + put 13 s.toNat + put 0 o.toNat))
  | .ldN16 d a s o => some (BitVec.ofNat 32 (put 26 0x13 + put 21 d.toNat + put 16 a.toNat + put 13 s.toNat + put 0 o.toNat))
  | .ldI32 d a s o => some (BitVec.ofNat 32 (put 26 0x14 + put 21 d.toNat + put 16 a.toNat + put 13 s.toNat + put 0 o.toNat))
  | .ldN32 d a s o => some (BitVec.ofNat 32 (put 26 0x15 + put 21 d.toNat + put 16 a.toNat + put 13 s.toNat + put 0 o.toNat))
  | .ld64 d a s o => some (BitVec.ofNat 32 (put 26 0x16 + put 21 d.toNat + put 16 a.toNat + put 13 s.toNat + put 0 o.toNat))
  | .st8 d a s o => some (BitVec.ofNat 32 (put 26 0x18 + put 21 d.toNat + put 16 a.toNat + put 13 s.toNat + put 0 o.toNat))
  | .st16 d a s o => some (BitVec.ofNat 32 (put 26 0x19 + put 21 d.toNat + put 16 a.toNat + put 13 s.toNat + put 0 o.toNat))
  | .st32 d a s o => some (BitVec.ofNat 32 (put 26 0x1A + put 21 d.toNat + put 16 a.toNat + put 13 s.toNat + put 0 o.toNat))
  | .st64 d a s o => some (BitVec.ofNat 32 (put 26 0x1B + put 21 d.toNat + put 16 a.toNat + put 13 s.toNat + put 0 o.toNat))
  | .amoAdd d a b s r w => some (BitVec.ofNat 32 (put 26 0x1C + put 21 d.toNat + put 16 a.toNat + put 11 b.toNat + put 8 s.toNat + put 6 r.toNat + put 5 w.toNat))
  | .amoAnd d a b s r w => some (BitVec.ofNat 32 (put 26 0x1C + put 0 1 + put 21 d.toNat + put 16 a.toNat + put 11 b.toNat + put 8 s.toNat + put 6 r.toNat + put 5 w.toNat))
  | .amoOr d a b s r w => some (BitVec.ofNat 32 (put 26 0x1C + put 0 2 + put 21 d.toNat + put 16 a.toNat + put 11 b.toNat + put 8 s.toNat + put 6 r.toNat + put 5 w.toNat))
  | .amoXor d a b s r w => some (BitVec.ofNat 32 (put 26 0x1C + put 0 3 + put 21 d.toNat + put 16 a.toNat + put 11 b.toNat + put 8 s.toNat + put 6 r.toNat + put 5 w.toNat))
  | .amoMin d a b s r w => some (BitVec.ofNat 32 (put 26 0x1C + put 0 4 + put 21 d.toNat + put 16 a.toNat + put 11 b.toNat + put 8 s.toNat + put 6 r.toNat + put 5 w.toNat))
  | .amoMax d a b s r w => some (BitVec.ofNat 32 (put 26 0x1C + put 0 5 + put 21 d.toNat + put 16 a.toNat + put 11 b.toNat + put 8 s.toNat + put 6 r.toNat + put 5 w.toNat))
  | .amoMinu d a b s r w => some (BitVec.ofNat 32 (put 26 0x1C + put 0 6 + put 21 d.toNat + put 16 a.toNat + put 11 b.toNat + put 8 s.toNat + put 6 r.toNat + put 5 w.toNat))
  | .amoMaxu d a b s r w => some (BitVec.ofNat 32 (put 26 0x1C + put 0 7 + put 21 d.toNat + put 16 a.toNat + put 11 b.toNat + put 8 s.toNat + put 6 r.toNat + put 5 w.toNat))
  | .amoSwp d a b s r w => some (BitVec.ofNat 32 (put 26 0x1C + put 0 8 + put 21 d.toNat + put 16 a.toNat + put 11 b.toNat + put 8 s.toNat + put 6 r.toNat + put 5 w.toNat))
  | .amoCas d a b s r w => some (BitVec.ofNat 32 (put 26 0x1C + put 0 9 + put 21 d.toNat + put 16 a.toNat + put 11 b.toNat + put 8 s.toNat + put 6 r.toNat + put 5 w.toNat))
  | .lda d a s w => some (BitVec.ofNat 32 (put 26 0x1D + put 21 d.toNat + put 16 a.toNat + put 8 s.toNat + put 5 w.toNat))
  | .stl a b s w => some (BitVec.ofNat 32 (put 26 0x1E + put 16 a.toNat + put 11 b.toNat + put 8 s.toNat + put 5 w.toNat))
  | .fence e s => some (BitVec.ofNat 32 (put 26 0x1F + put 3 e.toNat + put 0 s.toNat))
  | .beq a b o => some (BitVec.ofNat 32 (put 26 0x20 + put 21 a.toNat + put 16 b.toNat + put 0 o.toNat))
  | .bne a b o => some (BitVec.ofNat 32 (put 26 0x21 + put 21 a.toNat + put 16 b.toNat + put 0 o.toNat))
  | .blt a b o => some (BitVec.ofNat 32 (put 26 0x22 + put 21 a.toNat + put 16 b.toNat + put 0 o.toNat))
  | .bge a b o => some (BitVec.ofNat 32 (put 26 0x23 + put 21 a.toNat + put 16 b.toNat + put 0 o.toNat))
  | .bltu a b o => some (BitVec.ofNat 32 (put 26 0x24 + put 21 a.toNat + put 16 b.toNat + put 0 o.toNat))
  | .bgeu a b o => some (BitVec.ofNat 32 (put 26 0x25 + put 21 a.toNat + put 16 b.toNat + put 0 o.toNat))
  | .jump o => some (BitVec.ofNat 32 (put 26 0x26 + put 0 o.toNat))
  | .jal o => some (BitVec.ofNat 32 (put 26 0x27 + put 0 o.toNat))
  | .jalr d a i => some (BitVec.ofNat 32 (put 26 0x28 + put 21 d.toNat + put 16 a.toNat + put 0 i.toNat))
  | .cfg d a => some (BitVec.ofNat 32 (put 26 0x30 + put 21 d.toNat + put 16 a.toNat))
  | .go => some (BitVec.ofNat 32 (put 26 0x30 + put 0 1))
  | .waitl d => some (BitVec.ofNat 32 (put 26 0x30 + put 0 2 + put 21 d.toNat))
  | .waitlNb d => some (BitVec.ofNat 32 (put 26 0x30 + put 0 3 + put 21 d.toNat))
  | .strm a b => some (BitVec.ofNat 32 (put 26 0x31 + put 16 a.toNat + put 11 b.toNat))
  | .mcast a b => some (BitVec.ofNat 32 (put 26 0x32 + put 16 a.toNat + put 11 b.toNat))
  | .launch d a q p => some (BitVec.ofNat 32 (put 26 0x33 + put 21 d.toNat + put 16 a.toNat + put 1 q.toNat + put 0 p.toNat))
  | .waitg d a => some (BitVec.ofNat 32 (put 26 0x34 + put 21 d.toNat + put 16 a.toNat))
  | .barG m => some (BitVec.ofNat 32 (put 26 0x35 + put 0 m.toNat))
  | .barC a i => some (BitVec.ofNat 32 (put 26 0x35 + put 6 512 + put 16 a.toNat + put 0 i.toNat))
  | .prio d c => some (BitVec.ofNat 32 (put 26 0x36 + put 21 d.toNat + put 0 c.toNat))
  | .rdlay d => some (BitVec.ofNat 32 (put 26 0x37 + put 21 d.toNat))
  | .rdlayT d => some (BitVec.ofNat 32 (put 26 0x37 + put 0 1 + put 21 d.toNat))
  | .pin d a => some (BitVec.ofNat 32 (put 26 0x37 + put 0 2 + put 21 d.toNat + put 16 a.toNat))
  | .unpin a => some (BitVec.ofNat 32 (put 26 0x37 + put 0 3 + put 16 a.toNat))
  | .rate d a b => some (BitVec.ofNat 32 (put 26 0x38 + put 21 d.toNat + put 16 a.toNat + put 11 b.toNat))
  | .patld a b => some (BitVec.ofNat 32 (put 26 0x39 + put 16 a.toNat + put 11 b.toNat))
  | .coll d a => some (BitVec.ofNat 32 (put 26 0x3A + put 21 d.toNat + put 16 a.toNat))
  | .collw d a => some (BitVec.ofNat 32 (put 26 0x3A + put 0 1 + put 21 d.toNat + put 16 a.toNat))
  | .cnt d a o i => some (BitVec.ofNat 32 (put 26 0x3B + put 21 d.toNat + put 16 a.toNat + put 6 o.toNat + put 0 i.toNat))
  | .coreTrap a c => some (BitVec.ofNat 32 (put 26 0x3C + put 16 a.toNat + put 0 c.toNat))
  | .eret => some (BitVec.ofNat 32 (put 26 0x3D))
  | .wfi => some (BitVec.ofNat 32 (put 26 0x3D + put 0 1))
  | .invr d a b => some (BitVec.ofNat 32 (put 26 0x3D + put 0 2 + put 21 d.toNat + put 16 a.toNat + put 11 b.toNat))
  | .ctxsv a => some (BitVec.ofNat 32 (put 26 0x3D + put 0 3 + put 16 a.toNat))
  | .ctxld a => some (BitVec.ofNat 32 (put 26 0x3D + put 0 4 + put 16 a.toNat))
  | .syr d r => some (BitVec.ofNat 32 (put 26 0x3E + put 21 d.toNat + put 0 r.toNat))
  | .syw a r => some (BitVec.ofNat 32 (put 26 0x3E + put 12 8 + put 16 a.toNat + put 0 r.toNat))
  | _ => none

/-- The pattern instructions of R206, as the Bramble decodes them. -/
inductive PatOp where
  | band (g : BitVec 3) (l : BitVec 12) (h : BitVec 12)
  | dil (g : BitVec 3) (d : BitVec 12)
  | bdiag (g : BitVec 3) (r : BitVec 12) (c : BitVec 12)
  | kron (g : BitVec 3) (a : BitVec 3) (b : BitVec 3)
  | hash (g : BitVec 3) (p : BitVec 4) (k : BitVec 4) (t : BitVec 16)
  | offs (g : BitVec 3) (r : BitVec 12) (c : BitVec 12)
  | clip (g : BitVec 3) (r : BitVec 12) (c : BitVec 12)
  | union (g : BitVec 3) (a : BitVec 3) (b : BitVec 3)
  | isect (g : BitVec 3) (a : BitVec 3) (b : BitVec 3)
  | swap (g : BitVec 3)
  | cnt (g : BitVec 3)
  | emit (g : BitVec 3)
  | loop (j : BitVec 2) (n : BitVec 12) (b : BitVec 10)
  | fin
  deriving DecidableEq, Repr

/-- The instruction a pattern operation stands for. -/
noncomputable def patInstr (p : PatOp) : Instr :=
  match p with
  | .band g l h => .band g l h
  | .dil g d => .dil g d
  | .bdiag g r c => .bdiag g r c
  | .kron g a b => .kron g a b
  | .hash g p k t => .patHash g p k t
  | .offs g r c => .offs g r c
  | .clip g r c => .clip g r c
  | .union g a b => .patUnion g a b
  | .isect g a b => .isect g a b
  | .swap g => .patSwap g
  | .cnt g => .brambleCnt g
  | .emit g => .emit g
  | .loop j n b => .patLoop j n b
  | .fin => .patEnd

/-- The pattern operation of a word; none where OPC is unassigned or a field that must be 0 is not
(checks 17 and 18 of R220). -/
def decodePatOp (w : W32) : Option PatOp :=
  match field 31 27 w with
  | 0x01 => some (.band (BitVec.ofNat 3 (field 26 24 w)) (BitVec.ofNat 12 (field 23 12 w)) (BitVec.ofNat 12 (field 11 0 w)))
  | 0x02 => if field 23 12 w = 0 then some (.dil (BitVec.ofNat 3 (field 26 24 w)) (BitVec.ofNat 12 (field 11 0 w))) else none
  | 0x03 => some (.bdiag (BitVec.ofNat 3 (field 26 24 w)) (BitVec.ofNat 12 (field 23 12 w)) (BitVec.ofNat 12 (field 11 0 w)))
  | 0x04 => if field 17 0 w = 0 then some (.kron (BitVec.ofNat 3 (field 26 24 w)) (BitVec.ofNat 3 (field 23 21 w)) (BitVec.ofNat 3 (field 20 18 w))) else none
  | 0x05 => some (.hash (BitVec.ofNat 3 (field 26 24 w)) (BitVec.ofNat 4 (field 23 20 w)) (BitVec.ofNat 4 (field 19 16 w)) (BitVec.ofNat 16 (field 15 0 w)))
  | 0x06 => some (.offs (BitVec.ofNat 3 (field 26 24 w)) (BitVec.ofNat 12 (field 23 12 w)) (BitVec.ofNat 12 (field 11 0 w)))
  | 0x07 => some (.clip (BitVec.ofNat 3 (field 26 24 w)) (BitVec.ofNat 12 (field 23 12 w)) (BitVec.ofNat 12 (field 11 0 w)))
  | 0x08 => if field 17 0 w = 0 then some (.union (BitVec.ofNat 3 (field 26 24 w)) (BitVec.ofNat 3 (field 23 21 w)) (BitVec.ofNat 3 (field 20 18 w))) else none
  | 0x09 => if field 17 0 w = 0 then some (.isect (BitVec.ofNat 3 (field 26 24 w)) (BitVec.ofNat 3 (field 23 21 w)) (BitVec.ofNat 3 (field 20 18 w))) else none
  | 0x0A => if field 23 0 w = 0 then some (.swap (BitVec.ofNat 3 (field 26 24 w))) else none
  | 0x0B => if field 23 0 w = 0 then some (.cnt (BitVec.ofNat 3 (field 26 24 w))) else none
  | 0x0C => if field 23 0 w = 0 then some (.emit (BitVec.ofNat 3 (field 26 24 w))) else none
  | 0x0D => if field 26 24 w = 0 then some (.loop (BitVec.ofNat 2 (field 23 22 w)) (BitVec.ofNat 12 (field 21 10 w)) (BitVec.ofNat 10 (field 9 0 w))) else none
  | 0x0E => if field 26 0 w = 0 then some (.fin) else none
  | _ => none

/-- The pattern instruction of a word (R206). -/
noncomputable def decodePattern (w : W32) : Option Instr := (decodePatOp w).map patInstr

/-- The pattern word of an instruction (R206); none for every other instruction. -/
def encodePattern (i : Instr) : Option W32 :=
  match i with
  | .band g l h => some (BitVec.ofNat 32 (put 27 0x01 + put 24 g.toNat + put 12 l.toNat + put 0 h.toNat))
  | .dil g d => some (BitVec.ofNat 32 (put 27 0x02 + put 24 g.toNat + put 0 d.toNat))
  | .bdiag g r c => some (BitVec.ofNat 32 (put 27 0x03 + put 24 g.toNat + put 12 r.toNat + put 0 c.toNat))
  | .kron g a b => some (BitVec.ofNat 32 (put 27 0x04 + put 24 g.toNat + put 21 a.toNat + put 18 b.toNat))
  | .patHash g p k t => some (BitVec.ofNat 32 (put 27 0x05 + put 24 g.toNat + put 20 p.toNat + put 16 k.toNat + put 0 t.toNat))
  | .offs g r c => some (BitVec.ofNat 32 (put 27 0x06 + put 24 g.toNat + put 12 r.toNat + put 0 c.toNat))
  | .clip g r c => some (BitVec.ofNat 32 (put 27 0x07 + put 24 g.toNat + put 12 r.toNat + put 0 c.toNat))
  | .patUnion g a b => some (BitVec.ofNat 32 (put 27 0x08 + put 24 g.toNat + put 21 a.toNat + put 18 b.toNat))
  | .isect g a b => some (BitVec.ofNat 32 (put 27 0x09 + put 24 g.toNat + put 21 a.toNat + put 18 b.toNat))
  | .patSwap g => some (BitVec.ofNat 32 (put 27 0x0A + put 24 g.toNat))
  | .brambleCnt g => some (BitVec.ofNat 32 (put 27 0x0B + put 24 g.toNat))
  | .emit g => some (BitVec.ofNat 32 (put 27 0x0C + put 24 g.toNat))
  | .patLoop j n b => some (BitVec.ofNat 32 (put 27 0x0D + put 22 j.toNat + put 10 n.toNat + put 0 b.toNat))
  | .patEnd => some (BitVec.ofNat 32 (put 27 0x0E))
  | _ => none

/-- The instruction read from a table word: 64 bits are a slot word; 32 bits are a control-core word,
or, where the core refuses them, a pattern word (log 2). -/
noncomputable def decodeTableWord (nbits w : Nat) : Option Instr :=
  if nbits = 64 then decodeSlot (BitVec.ofNat 64 w)
  else if nbits = 32 then
    match coreRow (BitVec.ofNat 32 w) with
    | some i => some i
    | none => decodePattern (BitVec.ofNat 32 w)
  else none

end Sys2Proof
end

