-- ==== Sys2Proof/Machine/Turn.lean ====
section
/-! DEFINITION. Whose move is next: the device is many agents, the model one step at a time (log 1). -/

namespace Sys2Proof.Machine

open Sys2Proof

/-- The agent that moves. Clusters are package cluster numbers. -/
inductive Turn where
  /-- the control core of a cluster issues or takes an event -/
  | core (cl : Nat)
  /-- an element's picker looks at its slots -/
  | element (cl el : Nat)
  /-- a generator context of a Bramble executes its next instruction -/
  | bramble (cl ctx : Nat)
  /-- an event of the table, or an input from outside -/
  | event (i : Instr)
  deriving DecidableEq, Repr, Inhabited

/-- A move: cycles pass on each die, `dt` giving their number for dies 0 to 11 and, at 12, for the hub die, whose counters
run on their own (R5); then `turn` acts. -/
structure Sched where
  dt : Vec16 Nat
  turn : Turn
  deriving DecidableEq, Repr, Inhabited

end Sys2Proof.Machine
end

