-- ==== Sys2Proof/Config.lean ====
section
/-! DEFINITION. What an implementation fixes, and the free values the manual leaves open.
A free value is a constant without a body: nothing can evaluate it. -/

namespace Sys2Proof.Config

open Sys2Proof

/-- The n-th move of the device when no move is laid down on the agenda (log 1). -/
opaque schedule (n : Nat) : Sys2Proof.Machine.Sched

/-- Whether the n-th answer that meets an older packet in the tree network contends with it for a port (R29). -/
opaque contends (n : Nat) : Bool

/-- Whether the second read of a word that an engine found bad is correct, at the n-th such read (R385). -/
opaque rereadOk (n : Nat) : Bool

/-- The flits that carry the n-th message over a link (R420). -/
opaque flits (n : Nat) : Nat

/-- The translation-cache entry, by position, that the n-th full-cache install replaces (R375). -/
opaque victim (n : Nat) : Nat

/-- Which of the lines that a full L2 slice holds makes room for another one, by position, at the n-th move (R44, R294). -/
opaque evicts (n line : Nat) : Nat

/-- The n-th byte of the private sections of a save area (R395). -/
opaque saveByte (n : Nat) : Byte

/-- The private half of the device identity key (R412), less one, modulo the order less one. -/
opaque identityKey : Nat

/-- The secret number of the n-th signature, less one, modulo the order less one (R412). -/
opaque signNonce (n : Nat) : Nat

/-- The certificate chain that certifies a public key, given by its two coordinates (R412). -/
opaque certChain (x y : Nat) : List Byte

/-- The fuse settings as the bytes that the measurement log digests (R413). -/
opaque fuseRecord (keyDigest : List Byte) (minSvn : Nat) : List Byte

/-- Whether the n-th L2 line found with an uncorrectable error was clean (R419). -/
opaque lineClean (n : Nat) : Bool

/-- The die whose memory controller is the home of a device address (R296). -/
opaque homeDie (pa : Nat) : Nat

/-- The result of a combine (R245) declared with an opcode that is no operation on two operands (log 40). -/
opaque combineFree (op : Nat) (a b : W32) : W32

end Sys2Proof.Config
end

