-- ==== Sys2Proof/Machine/Maps.lean ====
section
/-! DEFINITION. Sparse tables in one canonical form: keys strictly rising. -/

namespace Sys2Proof.Machine

open Sys2Proof

/-- The value stored under key `k` in a rising association list. -/
def alGet {α : Type} : List (Nat × α) → Nat → Option α
  | [], _ => none
  | (j, v) :: t, k => if k = j then some v else alGet t k

/-- The list with `k` bound to `v`, keeping keys rising. -/
def alPut {α : Type} : List (Nat × α) → Nat → α → List (Nat × α)
  | [], k, v => [(k, v)]
  | (j, w) :: t, k, v =>
    if k < j then (k, v) :: (j, w) :: t
    else if k = j then (k, v) :: t
    else (j, w) :: alPut t k v

/-- The list without key `k`. -/
def alDel {α : Type} : List (Nat × α) → Nat → List (Nat × α)
  | [], _ => []
  | (j, w) :: t, k => if k = j then alDel t k else (j, w) :: alDel t k

/-- Keys strictly rising. -/
def alWf {α : Type} : List (Nat × α) → Bool
  | [] => true
  | [_] => true
  | (i, _) :: (j, w) :: t => decide (i < j) && alWf ((j, w) :: t)

/-- The empty table. -/
def amEmpty {α : Type} : AMap α := ⟨[]⟩
def amGet {α : Type} (m : AMap α) (k : Nat) : Option α := alGet m.entries k
/-- Reading with the value an unlisted key has. -/
def amGetD {α : Type} (m : AMap α) (k : Nat) (d : α) : α := (amGet m k).getD d
def amPut {α : Type} (m : AMap α) (k : Nat) (v : α) : AMap α := ⟨alPut m.entries k v⟩
def amDel {α : Type} (m : AMap α) (k : Nat) : AMap α := ⟨alDel m.entries k⟩
/-- Writing to a table whose unlisted keys hold `d`: writing `d` removes the entry. -/
def amPutD {α : Type} [DecidableEq α] (m : AMap α) (k : Nat) (v d : α) : AMap α :=
  if v = d then amDel m k else amPut m k v
/-- Changing the value under `k`, when there is one. -/
def amMod {α : Type} (m : AMap α) (k : Nat) (f : α → α) : AMap α :=
  match amGet m k with
  | none => m
  | some v => amPut m k (f v)
def amKeys {α : Type} (m : AMap α) : List Nat := m.entries.map Prod.fst
def amVals {α : Type} (m : AMap α) : List α := m.entries.map Prod.snd
/-- Every value changed in place. -/
def amMap {α : Type} (m : AMap α) (f : Nat → α → α) : AMap α :=
  ⟨m.entries.map (fun p => (p.1, f p.1 p.2))⟩
def amFilter {α : Type} (m : AMap α) (f : Nat → α → Bool) : AMap α :=
  ⟨m.entries.filter (fun p => f p.1 p.2)⟩
/-- The least natural number above every key. -/
def amFresh {α : Type} (m : AMap α) : Nat := m.entries.foldl (fun a p => max a (p.1 + 1)) 0
def amWf {α : Type} (m : AMap α) : Bool := alWf m.entries

end Sys2Proof.Machine
end

