-- ==== Sys2Proof/Machine/FabricTypes.lean ====
section
/-! DEFINITION. The state of the fabric: tokens, channels, elements, tiles, engines, loads. -/

namespace Sys2Proof.Machine

open Sys2Proof

/-- A token: eight payload lanes and a header (R16). A control token is one bit: bit 0 of lane 0. -/
structure Token where
  lanes : Vec8 W32
  hdr : W32
  deriving DecidableEq, Repr

/-- A token and the cycle at which it was emitted, released or arrived (R23). -/
structure Flit where
  tok : Token
  at_ : Nat
  deriving DecidableEq, Repr

/-- What stands at the end of a channel (R273). Clusters are span-relative. -/
inductive UnitRef where
  | element (cl el : Nat)
  | gen (cl tile ag : Nat)
  | port (cl n : Nat)
  | island (cl : Nat)
  | core (cl n : Nat)
  /-- the distributor and the merge point (reorder node, carry node) of a cloned operator (R243) -/
  | dist (op : Nat)
  | merge (op : Nat)
  deriving DecidableEq, Repr

/-- One end of a channel: the unit, its port number, and whether the port is a control port. -/
structure Endpoint where
  unit : UnitRef
  port : Nat
  ctl : Bool
  deriving DecidableEq, Repr

/-- A FIFO queue in memory-tile space (R279, R280): its region, and the tokens it holds, which lie
three granules each in the tile from granule `base`. -/
structure QueueRegion where
  cl : Nat
  tile : Nat
  ag : Nat
  base : Nat
  cap : Nat
  head : Nat
  len : Nat
  deriving DecidableEq, Repr

/-- One branch of a channel (R25): route, queue, consumer buffer, replay window and measurements. -/
structure Branch where
  dst : Endpoint
  lat : Nat
  depth : Nat
  flight : List Flit
  queue : Option QueueRegion
  /-- pass-through buffers (R24): a token, and whether an error stands in it -/
  relief : List (Token × Bool)
  reliefCap : Nat
  /-- the tile space of stall relief (R252), 64 tokens a region: cluster, tile and first granule; a ring of it holds the
  tokens before the queue -/
  area : List (Nat × Nat × Nat)
  rhead : Nat
  rlen : Nat
  /-- what a comparator holds (R418) -/
  hold : List Token
  buf : List Flit
  /-- at a reorder node, where each token of `buf` stands: in the node's own entries, or in a region of tile space (R243) -/
  spots : List (Option ((Nat × Nat × Nat) × Nat))
  /-- the cycle in which a token last arrived at the port (R23) -/
  arrAt : Option Nat
  replay : List Token
  failed : Option Nat
  cmp : Option Nat
  occSum : Nat
  popped : Nat
  /-- the cycle of the last pop, and the tokens popped in it (R33) -/
  popAt : Nat × Nat
  fullAll : Bool
  emptyAll : Bool
  hops : List Nat
  deriving DecidableEq, Repr

/-- A data or control channel (R23 to R28). -/
structure Chan where
  num : Nat
  ctl : Bool
  ord : Bool
  src : Endpoint
  out : List Flit
  nextSeq : Nat
  count : W32
  winStart : W32
  relAt : Nat
  branches : List Branch
  deriving DecidableEq, Repr

/-- The element state each operator of a fold keeps for itself (R14, R85, R109, R133, R157, R162). -/
structure OpCtx where
  opn : Nat
  vl : Nat
  lg : Nat
  tz : Bool
  mz : Bool
  mismatch : Bool
  ffault : Bool
  ht : Vec4 W32
  gc : W32
  mab : W64
  dth : W32
  weight : Nat
  hint : Nat
  halted : Bool
  /-- the entry of the load's exit list that this node answers for -/
  exit : Option Nat
  deriving DecidableEq, Repr

/-- A pending fault: class, subcode, code and SY.TVAL value (R195). -/
structure FaultRec where
  cls : Nat
  sub : Nat
  info : Nat
  tval : Nat
  deriving DecidableEq, Repr

/-- Where an access goes: the scope code it carries (R174), and the translation it used: its ASID, its page, and whether an
invalidation has removed that page since (R376). -/
structure Via where
  sc : Nat
  asid : Nat
  va : Nat
  size : Nat
  stale : Bool
  deriving DecidableEq, Repr
/-- The translation of an access that is at package scope as soon as it is performed, which no invalidation waits for. -/
def Via.done : Via := ⟨3, 0, 0, 0, false⟩

/-- One lane of a memory firing: its lane, its address, the word to store and the compare word, and its translation. -/
structure LaneAcc where
  lane : Nat
  sp : Bool
  addr : Nat
  data : W32
  cmp : W32
  via : Via
  deriving DecidableEq, Repr

/-- An answer to an element on its way through the tree network (R29): the lowest of its lanes, its age, and whether the
receiving port has accepted it. -/
structure Packet where
  lane : Nat
  age : Nat
  inBuf : Bool
  deriving DecidableEq, Repr

/-- The unit whose accesses a packet of the tree network serves (R22): a core's fetches and instructions, an issued access of a
group, an access of an element, a streamer port, an address generator, an island, a multicast fill, the walks of a cluster, and
the link agents. -/
inductive NetUser where
  | core (cl : Nat)
  | access (cl grp : Nat)
  | element (cl el lane : Nat)
  | port (cl n : Nat)
  | gen (cl tile ag : Nat)
  | island (cl : Nat)
  | fill (cl idx : Nat)
  | walk (cl : Nat)
  | link (idx : Nat)
  deriving DecidableEq, Repr
/-- A packet that has been deflected, and is still in the network (R29): whether it is on its way back, and its age. -/
structure NetPkt where
  user : NetUser
  back : Bool
  age : Nat
  deriving DecidableEq, Repr

/-- What a memory firing does to each word (R139 to R143). -/
inductive MemOp where
  | load
  | loadFe
  | loadFeClr
  | store
  | storeFull
  | amoAdd
  | amoMin
  | amoMax
  | amoSwap
  | amoCas
  | amoAddF (mode : Nat)
  deriving DecidableEq, Repr

/-- An entry of an element's response queue (R135). `slotNo` is the physical slot that fired, `dest` its
renamed destination code; `fill` holds the masked-lane source of each lane, `hdrs` the headers, `accs` the accesses not yet
performed, `pkts` the answers of performed ones that the element has not taken. -/
structure RqEntry where
  held : Bool
  slotNo : Nat
  share : Nat
  op : MemOp
  dest : Nat
  vl : Nat
  lg : Nat
  trunc : Bool
  mz : Bool
  fill : List W32
  hdrs : List W32
  sqs : Bool
  tagged : Bool
  cmpl : Option Nat
  accs : List LaneAcc
  pkts : List Packet
  done : Bool
  results : List (Nat × W32)
  swapped : List Nat
  sink : Bool
  poison : Bool
  deriving DecidableEq, Repr

/-- An element (R14): slots, registers, predicates, the two operator contexts of a fold, its response
queue, its pending fault, and the fold arbiter's credits and weights (R247). -/
structure Elem where
  slots : Vec16 W64
  attr : W32
  fam : W32
  kdp : Vec4 Nat
  regs : Vec16 (Vec8 W32)
  preds : Vec8 (BitVec 8)
  etR : BitVec 16
  etP : BitVec 8
  sh0 : OpCtx
  sh1 : Option OpCtx
  split : Nat
  foot : List Nat
  arms : Vec16 Nat
  busy : Nat
  rq : List RqEntry
  /-- the cycle in which an entry last left the response queue, and how many left in it (R33) -/
  rqLeft : Nat × Nat
  held : Bool
  walking : Bool
  /-- the address and class of a walk that ended in a fault, until the next evaluation -/
  walkFault : Option (Nat × Nat)
  fault : Option FaultRec
  /-- the slot that an element's fault names where SY.TVAL holds an address (R145) -/
  faultSlot : Nat
  /-- ports that keep a gap (R387) or a wrong format (R21): data ports, and control port n as 4 + n -/
  badPorts : List Nat
  credit0 : Int
  credit1 : Int
  weight0 : Nat
  weight1 : Nat
  rewiring : Bool
  deriving DecidableEq, Repr

/-- A memory tile (R277, R291): bytes that differ from zero, full granules, and the tag counters. -/
structure Tile where
  bytes : AMap Byte
  full : AMap Bool
  tags : AMap Nat
  armed : AMap (Nat × Nat)
  bad : AMap Bool
  deriving DecidableEq, Repr

/-- A word of a granule that is read, or is to be written, whole (R223): the number of its element or its address, its value,
and whether it carries an error. -/
structure Held where
  key : Nat
  word : W32
  bad : Bool
  deriving DecidableEq, Repr

/-- A request an address generator or port is serving (R283): its token, how far it has come, and what is left of a granule
it has read, or has not yet written. -/
structure Job where
  tok : Token
  pos : Nat
  hold : List Held
  deriving DecidableEq, Repr

/-- An address generator (R278 to R282). `head` and `len` belong to a FIFO queue that a SETUP made; of a line
buffer, `row` is the place of the newest row, `rows` the rows held, `col` the elements that have arrived of the newest,
`hold` those of its last granule that are still to be written, by tile address, and `fresh` says that the next token begins
a row. `wf` is the address and class of a walk that ended in a
fault; `pend` counts completion tokens due. -/
structure AddrGen where
  desc : W64
  job : Option Job
  byQueue : Bool
  head : Nat
  len : Nat
  rows : Nat
  row : Nat
  col : Nat
  fresh : Bool
  fault : Option FaultRec
  wf : Option (Nat × Nat)
  pend : Nat
  hold : List Held
  deriving DecidableEq, Repr

/-- A bound pattern program (R219): its image address, instruction words, parameters, invertibility. A stream runs the words
and parameters that PATLD read and checked, whatever the image's memory holds later (R204 is silent, log 80). -/
structure Binding where
  addr : Nat
  words : List W32
  params : List W32
  inv : Bool
  deriving DecidableEq, Repr

/-- A stream or a GET or PUTS in a port's queue: the words of its block (or its address, count and lane 7), and
where it is in its visit of R286. -/
structure Stream where
  blk : Nat
  words : List W64
  asid : Nat
  ticket : Nat
  /-- its place in the order in which pattern streams reached their context -/
  ord : Nat
  /-- 0 feed, 1 drain, 2 pattern, 3 GET, 4 PUTS -/
  kind : Nat
  bind : Option Binding
  began : Bool
  x : Nat
  /-- the index part of the address of the entry x, once read -/
  ib : Option Nat
  i : List Nat
  done : Nat
  /-- what is left of a granule it has read (a feed and a GET by element number, a pattern stream by virtual address), or has
  not yet written (by virtual address) -/
  hold : List Held
  /-- nothing is left to move -/
  fin : Bool
  /-- the class and address of its fault -/
  flt : Option (Nat × Nat)
  /-- after a fault: a feed owes its closing bubble, a drain discards through the next LS -/
  tail : Bool
  deriving DecidableEq, Repr

/-- A streamer port: its queue of streams and requests, oldest first (R288). -/
structure SPort where
  q : List Stream
  fault : Option FaultRec
  wf : Option (Nat × Nat)
  deriving DecidableEq, Repr

/-- An accepted matrix operation (R304): phase 0 staging, 1 in the array, 2 draining; the registers as they stood
when its token was accepted (R302); what has been staged: the scale records of each row (column), by element, and
the granules of the rows (columns), in order; and the next row to drain. -/
structure IslandOp where
  tok : Token
  phase : Nat
  num : Nat
  checked : Bool
  scb : Vec2 W64
  va : Vec2 W64
  mxsc : W64
  rot : Nat
  aScale : List (List Nat)
  bScale : List (List Nat)
  aBytes : List (List Byte)
  bBytes : List (List Byte)
  row : Nat
  deriving DecidableEq, Repr

/-- The matrix island (R298 to R311). -/
structure Island where
  scb : Vec2 W64
  va : Vec2 W64
  mxsc : W64
  mxchk : W64
  acc : AMap W32
  ops : List IslandOp
  count : Nat
  scaleCache : AMap Nat
  fault : Option FaultRec
  wf : Option (Nat × Nat)
  deriving DecidableEq, Repr

/-- A pattern: a set of coordinate pairs as the pattern instructions build it (R203 to R212).
Bands carry lo, hi, s and d; d = 1 for an undilated band. -/
inductive PatSet where
  | empty
  | band (lo hi s : Int)
  | dband (lo hi s d : Int)
  | bdiag (br bc : Nat)
  | hash (seed k t : Nat)
  | offs (p : PatSet) (dr dc : Int)
  | clip (p : PatSet) (r0 c0 : Int) (nr nc : Nat)
  | swap (p : PatSet)
  | kron (a b : PatSet) (ra ca : Int) (rb cb : Int) (nra nca nrb ncb : Nat)
  | union (a b : PatSet) (r0 c0 : Int) (nr nc : Nat) (clipped : Bool)
  | isect (a b : PatSet)
  deriving DecidableEq, Repr

/-- The extent of a clipped pattern (R203). -/
structure Extent where
  r0 : Int
  c0 : Int
  nr : Nat
  nc : Nat
  deriving DecidableEq, Repr

/-- A pattern register (R204). -/
structure PatReg where
  set : PatSet
  ext : Option Extent
  deriving DecidableEq, Repr

/-- A generator context (R204). `run` is the binding of the stream in progress, `tail` the token held
back until it is known whether it is the stream's last (R215). -/
structure GenCtx where
  g : Vec8 PatReg
  l : Vec4 Nat
  ip : Nat
  cur : Option (Int × Int)
  inEmit : Bool
  rb : W32
  dir : Bool
  bound : Option Binding
  /-- the binding before the last PATLD, and the die and cycle of that PATLD -/
  prev : Option Binding
  boundAt : Nat × Nat
  run : Option Binding
  port : Nat
  out : List Token
  last : Option Token
  finished : Bool
  deriving DecidableEq, Repr

/-- An event counter (R420): its source and count, the cycle in which a CNT last set it, and the cycle of the last DCSEL write
with the source and count before that cycle's first (R421). -/
structure Counter where
  src : Nat
  val : W64
  setAt : Option Nat
  before : Option (Nat × Nat × W64)
  deriving DecidableEq, Repr

/-- A cached translation (R375). -/
structure TEntry where
  asid : Nat
  va : Nat
  size : Nat
  pa : Nat
  perm : Nat
  deriving DecidableEq, Repr

/-- Who waits for a walk (R374, R381). -/
inductive Walker where
  | group (g : Nat)
  | element (el : Nat)
  | stream (port : Nat)
  | gen (tile ag : Nat)
  | island
  | mcast (sp idx : Nat)
  deriving DecidableEq, Repr

/-- A walk in progress: permission need bits are 1 read, 2 write, 4 execute (R374); `ord` is its place in the order of
arrival (R375). -/
structure WalkReq where
  asid : Nat
  va : Nat
  need : Nat
  who : Walker
  ord : Nat
  deriving DecidableEq, Repr

/-- An operator as its load places it (R239 to R248), with the Caldera's window history. -/
structure OpState where
  cls : Nat
  rated : Bool
  blk : Nat
  kl : Nat
  foot : List Nat
  comb : Nat
  rm : Nat
  ident : W32
  keySize : Nat
  keyBase : Nat
  keyTile : Nat
  keyCl : Nat
  /-- the elements it occupies, in clone order: span-relative cluster, element, share -/
  elems : List (Nat × Nat × Nat)
  home : Nat × Nat
  pinned : Bool
  /-- the rewiring in progress: 0 none, 1 clone, 2 unclone, 3 fold, 4 unfold; its partner and its new element -/
  rewire : Nat
  partner : Nat
  target : Option (Nat × Nat)
  /-- consecutive windows in which the condition of a clone, of an unclone or fold, of an unfold held -/
  cloneRun : Nat
  loRun : Nat
  unRun : Nat
  /-- groups dealt behind the last mark, and the SEQ of the first, by input -/
  dealt : List Nat
  firsts : List (Option Nat)
  /-- by output: the SEQ of the group a reorder node releases next, the tokens of it released, the kept SQS, the entries of
  its buffer -/
  nexts : List (Option Nat × Nat)
  sqs : List Bool
  reorderCap : List Nat
  /-- the tile space of the extended reorder buffers -/
  areas : List (Nat × Nat × Nat)
  /-- the carry, the last output, and the groups that have left the carry node -/
  carry : List W32
  lastOut : List W32
  released : Nat
  /-- the accumulator loop: its input and output, the LN and FMT of its tokens, the tokens each clone's loop has brought -/
  loopPort : Option Nat
  loopOut : Nat
  loopLn : List Nat
  loopFmt : List Nat
  loopCount : List Nat
  deriving DecidableEq, Repr

/-- A comparator (R417, R418). -/
structure Cmp where
  chA : Nat
  brA : Nat
  chB : Nat
  brB : Nat
  run : Nat
  stopped : Bool
  entry : Nat
  deriving DecidableEq, Repr

/-- A multicast fill in progress (R292): deliveries still owed. -/
structure Mcast where
  src : Nat
  tag : Nat
  mt : Nat
  doff : Nat
  len : Nat
  asid : Nat
  cl : Nat
  ticket : Nat
  /-- lines already read, and deliveries still owed, as line and cluster -/
  data : AMap (List Byte)
  badLines : List Nat
  owed : List (Nat × Nat)
  wf : Option (Nat × Nat)
  deriving DecidableEq, Repr

/-- The states of a fabric load (R30). -/
inductive LoadPhase where
  | ready
  | running
  | draining
  | complete
  deriving DecidableEq, Repr

/-- A fabric load (R30, R237, R271). -/
structure Load where
  phase : LoadPhase
  lid : Nat
  img : Nat
  asid : Nat
  owner : Nat
  ownerCl : Nat
  passed : Bool
  caldera : Bool
  cpw : W64
  ltb : Nat
  layv : Nat
  /-- completed rewirings whose entries of the layout table are being written: its UPD bit reads 1 (R249) -/
  upd : Nat
  chans : AMap Chan
  ops : AMap OpState
  spares : List (Nat × Nat)
  exits : List (Nat × Nat × Bool)
  pinAll : Bool
  relief : Nat
  /-- windows in which a merging slot has stalled, and those since RLIM was used up, by cluster, element and slot -/
  stallRun : AMap Nat
  stallLim : AMap Nat
  goCycle : Nat
  winCycle : Nat
  /-- the cycle from which the watchdog counts, and whether it has been raised -/
  wdogFrom : Nat
  wdogDone : Bool
  discarded : Nat
  cmps : List Cmp
  mcasts : AMap Mcast
  deriving DecidableEq, Repr

end Sys2Proof.Machine
end

