-- ==== Sys2Proof/Machine/CoreTypes.lean ====
section
/-! DEFINITION. The state of control cores, clusters and spans. -/

namespace Sys2Proof.Machine

open Sys2Proof

/-! Scopes (R222). -/

/-- An agent that makes or sees accesses. Clusters are package cluster numbers. -/
inductive Agent where
  | element (cl el : Nat)
  | tile (cl t : Nat)
  | engine (cl : Nat)
  | group (cl g : Nat)
  | hub
  | host
  deriving DecidableEq, Repr

/-- One instance of a scope: the set of agents that an access performed at it has reached. -/
inductive Reach where
  | element (cl el : Nat)
  | cluster (cl : Nat)
  | span (l : List Nat)
  | die (d : Nat)
  | package
  | system
  deriving DecidableEq, Repr

/-- A control-core store that is performed, but not yet at package scope: its bytes lie in one granule (R223, R224).
`die` is the die of its issuer, `via` the translation it used (R376). -/
structure Near where
  pa : Nat
  bytes : List Byte
  reach : Reach
  die : Nat
  via : Via
  deriving DecidableEq, Repr

/-- What a Waiting group waits for (R165). -/
inductive Wait where
  | cfg
  /-- WAITL, with its destination -/
  | waitl (d : BitVec 5)
  | waitg (h : Nat)
  | collw (h : Nat)
  | barrier (clusterBar : Bool) (id : Nat)
  | wfi
  | fence (eng : Bool)
  | release
  | invr
  | spill
  | stream (cl port : Nat)
  | walk
  /-- PIN of an operator, with its destination -/
  | pin (op : Nat) (d : BitVec 5)
  /-- a load awaiting its data: its destination, the bytes it reads, whether they are sign-extended, its length, its scope and
  translation, and whether it is an acquire -/
  | load (d : BitVec 5) (pa n : Nat) (signed : Bool) (len : Nat) (via : Via) (acq : Bool)
  /-- CTXSV: the span of a lead cluster is not yet ready to be saved -/
  | save (lead : Nat)
  /-- an exiting group, with its status -/
  | exit (status : W64)
  deriving DecidableEq, Repr

/-- The states of a group (R165). -/
inductive GState where
  | idle
  | ready
  | waiting (w : Wait)
  | stopped
  | frozen (w : Option Wait)
  deriving DecidableEq, Repr

/-- A store the group has issued and that is not yet performed (R175, R231); `rel` marks one with release order (R232). -/
structure PStore where
  pa : Nat
  bytes : List Byte
  via : Via
  rel : Bool
  deriving DecidableEq, Repr

/-- A BAR that a freeze cancelled while it waited (R202): its pc, which barrier it is, and whether that barrier has completed
since, so that the BAR passes when it is executed again. -/
structure CutBar where
  pc : Addr
  clusterBar : Bool
  id : Nat
  passed : Bool
  deriving DecidableEq, Repr

/-- A hardware group (R164, R193): its registers, its per-group system registers, its state. -/
structure Group where
  x : Vec32 W64
  pc : Addr
  base : Nat
  aged : Nat
  since : Nat
  status : W64
  cause : W64
  epc : W64
  tval : W64
  scr : W64
  pmsk : W64
  asid : Nat
  st : GState
  stores : List PStore
  tickets : List Nat
  colls : List Nat
  launchKey : Option Nat
  cut : Option CutBar
  deriving DecidableEq, Repr

/-- A control core (R193): shared system registers, event queue, group barriers, round-robin marks. -/
structure Core where
  grp : Vec4 Group
  tvec : W64
  esc : Bool
  eres : W64
  maxc : Nat
  fgrp : Nat
  wdog : W64
  rcap : W64
  rcapMax : Nat
  ptbr : W64
  lspb : W64
  lspn : W64
  pend : Nat
  events : List FaultRec
  held : List FaultRec
  bars : List (Nat × Nat)
  /-- groups whose CFG waits, in issue order -/
  cfgq : List Nat
  lastIssued : Vec4 Nat
  lastGroup : Nat
  /-- the cycle of the last issue (R166) -/
  issuedAt : Option Nat
  deriving DecidableEq, Repr

/-- The rate limiter of a cluster's region (R190, R310). -/
structure Limiter where
  limit : Nat
  next : Option Nat
  used : Nat
  /-- the first cycle of the window that `used` counts -/
  win : Nat
  /-- the ports whose token waits for the allowance, as a mask -/
  held : Nat
  deriving DecidableEq, Repr

/-- A cluster (R11, R42). -/
structure Cluster where
  span : Option Nat
  tiles : AMap Tile
  elems : AMap Elem
  gens : AMap AddrGen
  ports : AMap SPort
  island : Island
  core : Core
  gctx : Vec8 GenCtx
  counters : Vec8 Counter
  tcache : List TEntry
  walks : List WalkReq
  limiter : Limiter
  deriving DecidableEq, Repr

/-- A cluster barrier of a span (R187): its count and the clusters that have arrived. -/
structure Bar where
  count : Nat
  arrived : List Nat
  deriving DecidableEq, Repr

/-- The states of a span (R391). A span that has been saved is no longer resident. -/
inductive SpanPhase where
  | running
  | freezing
  | frozen
  | saving
  deriving DecidableEq, Repr

/-- A span held by a launch (R184, R186, R391). -/
structure Span where
  part : Nat
  shape : Nat
  dw : Nat
  dh : Nat
  clusters : List Nat
  phase : SpanPhase
  freezeAt : Nat
  saveArea : Nat
  /-- the group whose CTXSV is saving it, in package numbers -/
  saveBy : Option (Nat × Nat)
  load : Option Load
  lids : Nat
  bars : AMap Bar
  key : Nat
  fromQueue : Option (Nat × Nat)
  ticket : Nat
  deriving DecidableEq, Repr

end Sys2Proof.Machine
end

