-- ==== Sys2Proof/Machine/HubTypes.lean ====
section
/-! DEFINITION. The state of the hub die: partitions, queues, pre-emption, collectives, bring-up. -/

namespace Sys2Proof.Machine

open Sys2Proof

/-- A launch record (R184). -/
structure LRecord where
  entry : Nat
  param : W64
  cls : Nat
  shape : Nat
  dw : Nat
  dh : Nat
  user : W64
  deriving DecidableEq, Repr

/-- A launch pool entry (R185, R186). -/
structure PoolEntry where
  handle : Nat
  detached : Bool
  record : LRecord
  asid : Nat
  /-- 0 queued, 1 running, 2 ended -/
  st : Nat
  status : W64
  /-- the cycle since which it has been the head of the pool -/
  since : Option Nat
  order : Nat
  /-- the launching core: the key of its span and its span-relative cluster -/
  launcher : Option (Nat × Nat)
  deriving DecidableEq, Repr

/-- A record in the spill queue (R185): it stands in memory at SY.LSPB, and the hub keeps it with its handle and owner. -/
structure Spilled where
  handle : Nat
  detached : Bool
  asid : Nat
  pa : Nat
  launcher : Option (Nat × Nat)
  record : LRecord
  order : Nat
  deriving DecidableEq, Repr

/-- A launch queue of a virtual function (R363). -/
structure LQueue where
  qbase : W64
  qcfg : W64
  cqbase : W64
  qtail : W64
  qerr : Bool
  qhead : Nat
  since : Nat
  deriving DecidableEq, Repr

/-- A partition (R357, R362, R383, R417, R426) with its queues, launch pool and spill queue. -/
structure Partition where
  pqmsk : AMap W64
  pslc : AMap W64
  seed : AMap W64
  wbase : AMap W64
  wsize : AMap W64
  asid : W64
  pctl : W64
  perr : Nat
  rsta : W64
  pivec : W64
  cmpt : W64
  prcap : W64
  cptbr : W64
  ctvec : W64
  clspb : W64
  clspn : W64
  csup : W64
  queues : AMap LQueue
  lastQueue : Nat
  pool : List PoolEntry
  spill : List Spilled
  spillHead : Nat
  /-- the handle last given (R185); 0 is none -/
  lastHandle : Nat
  nextOrder : Nat
  reserved : List (Nat × List Nat)
  /-- the reset record that is not yet written: the VF's transactions are pending until it is (R369) -/
  owed : Option (List Byte)
  /-- the partition interrupt is pending (R383) -/
  intr : Bool
  deriving DecidableEq, Repr

/-- The states of a slice (R359). -/
inductive SliceSt where
  | clean
  | owned (p : Nat)
  | dirty (p : Nat)
  | flushing (p : Nat)
  deriving DecidableEq, Repr

/-- An outer link (R422, R423); `judged` counts the judgement windows whose end has been judged. -/
structure Link where
  st : Nat
  lanes : Nat
  fdn : Bool
  rpl : W32
  trainOk : Bool
  judged : Nat
  deriving DecidableEq, Repr

/-- A collective group (R322 to R324, R424): its registers; its link table, entry 48 · rank + link; the ranks whose rows are
known; the updates gathered for the next epoch, as rank, link and state, and those of the epoch after it, with the hub cycle of
the first of each; those that made the table in force, and those of a table whose CRC was compared once; whether one that
was applied is to down or degraded; the next epoch's table, where the first comparison of its CRC failed; and whether the
CRC of the next table has been sent. -/
structure CGroup where
  en : Bool
  rank : Nat
  gm1 : Nat
  lmsk : W64
  rdy : Bool
  epoch : Nat
  table : AMap W64
  known : List Nat
  updates : List (Nat × Nat × Nat)
  later : List (Nat × Nat × Nat)
  firstAt : Nat
  laterAt : Nat
  applied : List (Nat × Nat × Nat)
  tried : List (Nat × Nat × Nat)
  told : Bool
  worse : Bool
  trial : Option (AMap W64)
  started : Nat
  deriving DecidableEq, Repr

/-- An edge of the link graph (R323): its index and the two ranks it joins. -/
structure Edge where
  idx : Nat
  a : Nat
  b : Nat
  deriving DecidableEq, Repr

/-- A chunk at this package, where it differs from a chunk just begun (R329 to R332): the rank its tree is rooted at; its
phase, 0 reducing, 1 the result is awaited or held, 2 the result is written; the partials that children sent; and the
result, where this package formed it. -/
structure Chunk where
  root : Nat
  phase : Nat
  parts : AMap (List Byte)
  held : Option (List Byte)
  deriving DecidableEq, Repr

/-- A collective of this package that has not been retired (R327 to R334): its descriptor; the core that issued it, by its
span's key and span-relative cluster, and the load it is bound to (R31); its group's size and this package's rank; the
members whose descriptors are known to agree (R328); its trees; whether transfers are stopped, and the new trees and marks
of a recovery; the chunks that a reissue found reduced, of which marks of 1 and 2 may be old ones (R332); the children that have reported done and the trees reported on; its end. -/
structure Coll where
  gid : Nat
  seq : Nat
  desc : Nat
  src : Nat
  dst : Nat
  mrk : Nat
  len : Nat
  kind : Nat
  op : Nat
  dt : Nat
  res : Bool
  rootR : Nat
  part : Nat
  key : Nat
  rel : Nat
  lid : Nat
  asid : Nat
  ptbr : W64
  size : Nat
  rank : Nat
  agreed : List Nat
  trees : List (List Edge)
  chunks : AMap Chunk
  stopped : Bool
  reissue : Bool
  newTrees : Option (List (List Edge))
  marks : AMap (List Nat)
  stale : List Nat
  doneKids : List Nat
  reported : List Nat
  ended : Bool
  /-- it ended with every mark here at 3 and its children done, whether or not words 5 and 6 could be written (R331) -/
  complete : Bool
  word5 : W64
  deriving DecidableEq, Repr

/-- An invalidation the agent serves (R376): from a core's INVR or from the PF. Once its cached translations are
removed, the accesses that used one are marked, and `walks` are the walks of its ASID that were in progress. `dropped` says
that the group which asked is gone. -/
structure Inval where
  asid : Nat
  lo : Nat
  n : Nat
  who : Option (Nat × Nat)
  removed : Bool
  walks : List (Nat × WalkReq)
  dropped : Bool
  deriving DecidableEq, Repr

/-- A Saved span (R391, R393): what the private sections of its area stand for, and the number from which their bytes
are taken; its cluster records are in span-relative order. -/
structure Saved where
  seed : Nat
  span : Span
  records : List Cluster
  deriving DecidableEq, Repr

/-- A measurement log entry (R413). -/
structure LogEntry where
  status : Nat
  digest : List Byte
  deriving DecidableEq, Repr

/-- A committed HDM decoder (R354): host addresses from `base` are device addresses from `dpa`. -/
structure Hdm where
  base : Nat
  size : Nat
  dpa : Nat
  deriving DecidableEq, Repr

/-- The bring-up states of BSTAT (R406, R407). -/
inductive Boot where
  | reset
  | verifying
  | die0
  | full
  | locked
  deriving DecidableEq, Repr

/-- The hub die (R354 onward). -/
structure Hub where
  boot : Boot
  /-- verified firmware is running -/
  fw : Bool
  dtrn : Nat
  ended : Nat
  svn : Nat
  berr : Nat
  slotA : List Byte
  slotB : List Byte
  fuseKey : List Byte
  fuseMin : Nat
  romImage : List Byte
  dieImage : AMap (List Byte)
  log : AMap LogEntry
  clock0 : Bool
  off : Bool
  powerOffAt : Option Nat
  steps : AMap Nat
  /-- the power measurements each die has had (R428) -/
  measured : AMap Nat
  hdm : AMap Hdm
  parts : AMap Partition
  lastPart : Nat
  slices : AMap SliceSt
  slcmd : AMap W64
  inva : W64
  invn : W64
  invasid : Nat
  invGo : Bool
  invals : List Inval
  preCmd : W64
  preGo : Bool
  pra : W64
  preErr : Nat
  preHalt : Nat
  saves : List Saved
  frbase : W64
  frctl : W64
  frhead : Nat
  frtail : Nat
  frlost : Nat
  xqmsk : AMap W64
  xslc : AMap W64
  dctr : AMap Counter
  links : AMap Link
  lthr : W32
  groups : AMap CGroup
  colls : AMap Coll
  /-- collectives that are done here and retired, which other members may still need in a recovery (R332) -/
  served : AMap Coll
  /-- the handle last given (R192) -/
  lastColl : Nat
  msix : List (Nat × Nat)
  responses : List (List Byte)
  sent : List (Nat × Nat × List Byte)
  deriving DecidableEq, Repr

end Sys2Proof.Machine
end

