-- ==== Sys2Proof/Machine/State.lean ====
section
/-! DEFINITION. The state of the WA-3072 as plain data, its faults and refusals, and the state after reset. -/

namespace Sys2Proof.Machine

open Sys2Proof

/-- Why a step stops the machine. -/
inductive Fault where
  /-- Raised by HOST_ACCESS and HOST_COHERENCE_REQUEST for an address that does not exist: device memory at or above 6 TiB
  and host memory at or above 2 PiB (R355). Safe: the manual gives no effect for it. -/
  | noSuchAddress (pa : Nat)
  deriving DecidableEq, Repr

/-- Why the model gives no meaning. -/
inductive Refusal where
  /-- Raised by an arm of exec whose instruction has no meaning yet. Safe. -/
  | notModelled (mnemonic : String)
  deriving DecidableEq, Repr

/-- Who executes the instruction: set by the step before exec, in package numbers. -/
structure Cur where
  cl : Nat
  el : Nat
  slot : Nat
  grp : Nat
  ctx : Nat
  deriving DecidableEq, Repr

/-- The whole machine. `agenda`, `tick`, `free` and `serial` are the model's own: the moves laid down, counters for moves and
values that the manual leaves open, and a count of arrivals, which is also the age of packets; `net` holds the packets of the
tree network that have been deflected (R29), but for answers to elements, which stand in their response queues. Memory is `mem` as the agents of the package see it; `near` are
the stores that only a part of the package sees yet, in coherence order, and `lag` the bytes of which the host still sees an
older value (R224). `dir` keeps for each line the slices that hold a copy, as a mask. `cycles` counts those of dies 0 to 11
and, at 12, of the hub die. -/
structure State where
  cur : Cur
  agenda : List Sched
  tick : Nat
  free : Nat
  serial : Nat
  net : List NetPkt
  mem : List Host.Cell
  near : List Near
  lag : List Host.Cell
  bad : AMap Nat
  dir : AMap Nat
  cycles : Vec16 Nat
  clusters : AMap Cluster
  spans : AMap Span
  hub : Hub
  deriving DecidableEq, Repr

/-- A header, a token and a channel end with nothing in them. -/
def tokenZero : Token := ⟨⟨⟨0#32, 0#32, 0#32, 0#32⟩, ⟨0#32, 0#32, 0#32, 0#32⟩⟩, 0#32⟩

def opCtxReset : OpCtx :=
  { opn := 0, vl := 8, lg := 1, tz := false, mz := false, mismatch := false, ffault := false,
    ht := ⟨0#32, 0#32, 0#32, 0#32⟩, gc := 0#32, mab := 0#64, dth := 0#32, weight := 0, hint := 0,
    halted := false, exit := none }

def lanesZero : Vec8 W32 := tokenZero.lanes

/-- The element state of R14 that an image leaves unspecified. -/
def elemReset : Elem :=
  { slots := vec16Fill 0#64, attr := 0#32, fam := 0#32, kdp := ⟨0, 0, 0, 0⟩, regs := vec16Fill lanesZero,
    preds := vec8Fill 0#8, etR := 0#16, etP := 0#8, sh0 := opCtxReset, sh1 := none, split := 16, foot := [],
    arms := vec16Fill 0, busy := 0, rq := [], rqLeft := (0, 0), held := false, walking := false, walkFault := none, fault := none, faultSlot := 0, badPorts := [],
    credit0 := 0, credit1 := 0, weight0 := 1, weight1 := 1, rewiring := false }

def tileReset : Tile := ⟨amEmpty, amEmpty, amEmpty, amEmpty, amEmpty⟩

def genReset : AddrGen :=
  { desc := 0#64, job := none, byQueue := false, head := 0, len := 0, rows := 0, row := 0, col := 0,
    fresh := true, fault := none, wf := none, pend := 0, hold := [] }

def portReset : SPort := ⟨[], none, none⟩

def islandReset : Island :=
  { scb := ⟨0#64, 0#64⟩, va := ⟨0#64, 0#64⟩, mxsc := 0#64, mxchk := 0#64, acc := amEmpty, ops := [], count := 0,
    scaleCache := amEmpty, fault := none, wf := none }

def patRegReset : PatReg := ⟨.empty, none⟩

def genCtxReset : GenCtx :=
  { g := vec8Fill patRegReset, l := ⟨0, 0, 0, 0⟩, ip := 0, cur := none, inEmit := false, rb := 0#32, dir := false,
    bound := none, prev := none, boundAt := (0, 0), run := none, port := 0, out := [], last := none, finished := false }

/-- A group after reset (R164, R193); the pc and x registers have no reset value before a launch (log 3). -/
def groupReset : Group :=
  { x := vec32Fill 0#64, pc := 0#52, base := 0, aged := 0, since := 0, status := 0#64, cause := 0#64, epc := 0#64,
    tval := 0#64, scr := 0#64, pmsk := 0#64, asid := 0, st := .idle, stores := [], tickets := [], colls := [],
    launchKey := none, cut := none }

def coreReset : Core :=
  { grp := ⟨groupReset, groupReset, groupReset, groupReset⟩, tvec := 0#64, esc := false, eres := 0#64, maxc := 3,
    fgrp := 0, wdog := 0#64, rcap := 0#64, rcapMax := 0, ptbr := 0#64, lspb := 0#64, lspn := 0#64, pend := 0,
    events := [], held := [], bars := [], cfgq := [], lastIssued := ⟨3, 3, 3, 3⟩, lastGroup := 0, issuedAt := none }

def limiterReset : Limiter := ⟨0, none, 0, 0, 0⟩

def clusterReset : Cluster :=
  { span := none, tiles := amEmpty, elems := amEmpty, gens := amEmpty, ports := amEmpty, island := islandReset,
    core := coreReset, gctx := vec8Fill genCtxReset, counters := vec8Fill ⟨0, 0#64, none, none⟩, tcache := [], walks := [],
    limiter := limiterReset }

def queueReset : LQueue := ⟨0#64, 0#64, 0#64, 0#64, false, 0, 0⟩

/-- A partition block after reset (R357, R362): every field 0 but MAXC, which is 3. -/
def partitionReset : Partition :=
  { pqmsk := amEmpty, pslc := amEmpty, seed := amEmpty, wbase := amEmpty, wsize := amEmpty, asid := 0#64,
    pctl := 0#64, perr := 0, rsta := 0#64, pivec := 0#64, cmpt := 0#64, prcap := 0#64, cptbr := 0#64, ctvec := 0#64,
    clspb := 0#64, clspn := 0#64, csup := 0xC#64, queues := amEmpty, lastQueue := 31, pool := [], spill := [],
    spillHead := 0, lastHandle := 0, nextOrder := 0, reserved := [], owed := none, intr := false }

def linkReset : Link := ⟨0, 0, false, 0#32, false, 0⟩

def cgroupReset : CGroup :=
  { en := false, rank := 0, gm1 := 0, lmsk := 0#64, rdy := false, epoch := 0, table := amEmpty, known := [],
    updates := [], later := [], firstAt := 0, laterAt := 0, applied := [], tried := [], told := false, worse := false, trial := none, started := 0 }

/-- The hub die after a package reset (R406, R407). -/
def hubReset : Hub :=
  { boot := .reset, fw := false, dtrn := 0, ended := 0, svn := 0, berr := 0, slotA := [], slotB := [], fuseKey := [], fuseMin := 0,
    romImage := [], dieImage := amEmpty, log := amEmpty, clock0 := false, off := false, powerOffAt := none,
    steps := amEmpty, measured := amEmpty, hdm := amEmpty, parts := amEmpty, lastPart := 15, slices := amEmpty,
    slcmd := amEmpty, inva := 0#64, invn := 0#64, invasid := 0, invGo := false, invals := [], preCmd := 0#64, preGo := false, pra := 0#64, preErr := 0,
    preHalt := 0, saves := [], frbase := 0#64, frctl := 0#64, frhead := 0, frtail := 0, frlost := 0,
    xqmsk := amEmpty, xslc := amEmpty, dctr := amEmpty, links := amEmpty, lthr := 4096#32, groups := amEmpty,
    colls := amEmpty, served := amEmpty, lastColl := 0, msix := [], responses := [], sent := [] }

/-- The machine right after a package reset: every unit empty, memory with nothing listed. -/
def State.reset : State :=
  { cur := ⟨0, 0, 0, 0, 0⟩, agenda := [], tick := 0, free := 0, serial := 0, net := [], mem := [], near := [], lag := [],
    bad := amEmpty, dir := amEmpty, cycles := vec16Fill 0, clusters := amEmpty, spans := amEmpty, hub := hubReset }

end Sys2Proof.Machine
end

