-- ==== Sys2Proof/Machine/Memory.lean ====
section
/-! DEFINITION. Physical memory as its agents see it: scopes, the stores that only a part of the machine sees, what the host
sees, the L2 directory (R222 to R224, R235, R294, R296, R297). -/

namespace Sys2Proof.Machine

open Sys2Proof

/-! Bytes; unlisted bytes read 0 (log 4). -/

/-- What a byte that is not listed reads as (log 4). -/
def memDefault : Byte := 0#8
def memGet (m : List Host.Cell) (a : Nat) : Byte := (alGet m a).getD memDefault
/-- Writing a byte keeps the canonical form: a byte equal to the default is not listed. -/
def memPut (m : List Host.Cell) (a : Nat) (b : Byte) : List Host.Cell :=
  if b = memDefault then alDel m a else alPut m a b
/-- The canonical form of memory: addresses strictly rising, no entry at the default. -/
def Memory.wf (m : List Host.Cell) : Bool := alWf m && m.all (fun c => decide (c.2 ≠ memDefault))

def memGetN (m : List Host.Cell) : Nat → Nat → List Byte
  | 0, _ => []
  | n + 1, a => memGet m a :: memGetN m n (a + 1)
def memPutAll (m : List Host.Cell) (a : Nat) : List Byte → List Host.Cell
  | [] => m
  | b :: bs => memPutAll (memPut m a b) (a + 1) bs

/-- One byte of physical memory, as an agent of the package sees it that no narrower store concerns. -/
def State.byte (s : State) (pa : Nat) : Byte := memGet s.mem pa
def readPA (s : State) (pa n : Nat) : List Byte := memGetN s.mem n pa
def readPAn (s : State) (pa n : Nat) : Nat := natOfBytes (readPA s pa n)

/-- Device memory holds bytes 0 to 6 TiB − 1; PA[51] = 1 is host memory (R355). -/
def paExists (pa : Nat) : Bool := decide (pa < 6 * 2 ^ 40) || (decide (2 ^ 51 ≤ pa) && decide (pa < 2 ^ 52))

/-- Whether a word at a physical address carries an uncorrectable error (R384, R419): errors are kept
per 16 bytes, with the structure code that found them; one of device memory (code 1) marks both halves of its 32 bytes. -/
def paBad (s : State) (pa n : Nat) : Bool :=
  (List.range (n / 16 + 2)).any (fun k =>
    decide ((pa / 16 + k) * 16 < pa + n) && (amGet s.bad (pa / 16 + k)).isSome)

/-! L2 slices and the directory (R294, R296). -/

/-- Hash of R209. -/
def patHash32 (seed r c : W32) : W32 :=
  let h1 := seed ^^^ (r * 0x2C1B3C6D#32)
  let h2 := h1.rotateLeft 13 ^^^ (c * 0x297A2D39#32)
  let h3 := h2 ^^^ (h2 >>> 16)
  let h4 := h3 * 0x85EBCA6B#32
  let h5 := h4 ^^^ (h4 >>> 13)
  let h6 := h5 * 0xC2B2AE35#32
  h6 ^^^ (h6 >>> 16)

/-- Slices that a partition owns on a die: K of R294. -/
def slicesOf (P : Partition) (d : Nat) : List Nat :=
  (List.range 192).filter (fun i => bitAt (i % 64) (amGetD P.pslc (4 * d + i / 64) 0#64))
/-- The home slice of a line (R294). -/
def homeSlice (P : Partition) (d line : Nat) : Option Nat :=
  let l := slicesOf P d
  let h := patHash32 ((amGetD P.seed d 0#64).setWidth 32) (BitVec.ofNat 32 line) (BitVec.ofNat 32 (line / 2 ^ 32))
  l[h.toNat * l.length / 2 ^ 32]?

/-- The place of a slice in a line's directory mask. -/
def sliceKey (d i : Nat) : Nat := 192 * d + i
/-- The slices of a die in a directory mask. -/
def dieSlices (d m : Nat) : Nat := m / 2 ^ (192 * d) % 2 ^ 192
/-- A directory entry; a line without copies has none. -/
def dirSet (m : AMap Nat) (line mask : Nat) : AMap Nat := amPutD m line mask 0
/-- The lines that a slice holds: 1 MiB of them at a quad switch, 2 MiB at a block or quarter switch (R44, R294). -/
def sliceLines (i : Nat) : Nat := if i < 128 then 2 ^ 14 else 2 ^ 15
/-- The lines with a copy in a slice. -/
def linesIn (m : AMap Nat) (k : Nat) : List Nat := (m.entries.filter (fun p => p.2.testBit k)).map Prod.fst
/-- A slice that is full loses a line, which the manual does not name, before it takes another (log 59). -/
def makeRoom (s : State) (die i line : Nat) : State :=
  let k := sliceKey die i
  let l := linesIn s.dir k
  if line ∈ l ∨ l.length < sliceLines i then s
  else
    let v := l.getD (Sys2Proof.Config.evicts s.tick line % l.length) 0
    { s with dir := dirSet s.dir v (amGetD s.dir v 0 ^^^ 2 ^ k) }
/-- A die reads a line into its partition's home slice (R296). -/
def dirRead (s : State) (P : Partition) (die line : Nat) : State :=
  let i := (homeSlice P die line).getD 0
  let t := makeRoom s die i line
  { t with dir := dirSet t.dir line (amGetD t.dir line 0 ||| 2 ^ sliceKey die i) }
/-- The copies of a line on other dies are invalidated (R296). -/
def dirOnly (s : State) (die line : Nat) : State :=
  { s with dir := dirSet s.dir line (dieSlices die (amGetD s.dir line 0) * 2 ^ (192 * die)) }
/-- Every copy of a line is invalidated (R296, R355). -/
def dirClear (s : State) (line : Nat) : State := { s with dir := amDel s.dir line }
/-- The lines of `n` bytes. -/
def linesOf (pa n : Nat) : List Nat := (List.range ((pa + n - 1) / 64 - pa / 64 + 1)).map (fun k => pa / 64 + k)

/-! Scopes (R222). -/

def dieOf (cl : Nat) : Nat := cl / 256

/-- The cluster of an agent. -/
def Agent.cluster : Agent → Option Nat
  | .element cl _ => some cl
  | .tile cl _ => some cl
  | .engine cl => some cl
  | .group cl _ => some cl
  | .hub => none
  | .host => none

/-- The agents of an instance of a scope (R222). -/
def Reach.has (r : Reach) (a : Agent) : Bool :=
  match r with
  | .element cl el => decide (a = .element cl el)
  | .cluster cl => decide (a.cluster = some cl)
  | .span l => a.cluster.any (fun c => decide (c ∈ l))
  | .die d => a.cluster.any (fun c => decide (dieOf c = d))
  | .package => decide (a ≠ .host)
  | .system => true
/-- A whole cluster lies in it. -/
def Reach.sees (r : Reach) (cl : Nat) : Bool := r.has (.engine cl)

/-- The instance of a scope code (R174) that holds a cluster of the span of `l`. -/
def scopeOf (l : List Nat) (cl sc : Nat) : Reach :=
  match sc with
  | 0 => .cluster cl
  | 1 => .span l
  | 2 => .die (dieOf cl)
  | 3 => .package
  | _ => .system

/-- The first instance lies within the second. -/
def Reach.sub (a b : Reach) : Bool :=
  match a, b with
  | _, .system => true
  | .system, _ => false
  | _, .package => true
  | .package, _ => false
  | .element cl el, .element cl' el' => decide (cl = cl' ∧ el = el')
  | _, .element _ _ => false
  | .element cl _, r => r.sees cl
  | .cluster cl, r => r.sees cl
  | .span l, r => l.all r.sees
  | .die d, .die d' => decide (d = d')
  | .die _, _ => false
/-- An instance that holds both; the package where neither holds the other. -/
def Reach.join (a b : Reach) : Reach := if a.sub b then b else if b.sub a then a else .package

/-! Writes (R223, R224). -/

/-- When bytes change, the host's values of them are kept where they differ. -/
def keepLag (m lag : List Host.Cell) (a : Nat) : List Byte → List Host.Cell
  | [] => lag
  | b :: bs =>
    let old := (alGet lag a).getD (memGet m a)
    keepLag m (if old = b then alDel lag a else alPut lag a old) (a + 1) bs
/-- The host sees the granules of `n` bytes as the package does. -/
def showHost (s : State) (pa n : Nat) : State :=
  { s with lag := s.lag.filter (fun c => !decide (pa / 16 ≤ c.1 / 16 ∧ c.1 / 16 ≤ (pa + n - 1) / 16)) }
/-- The host sees every byte as the package does. -/
def showAll (s : State) : State := { s with lag := [] }

/-- A write of `n` bytes at `pa` covers the whole unit of `w` bytes that holds the 16 bytes of number `k`. -/
def blockWritten (pa n w k : Nat) : Bool := decide (pa ≤ 16 * k / w * w) && decide (16 * k / w * w + w ≤ pa + n)
/-- Bytes change, and errors in units of protection that are written whole go. -/
def putBytes (s : State) (pa : Nat) (bs : List Byte) : State :=
  if bs.length = 0 then s
  else { s with
    mem := memPutAll s.mem pa bs
    bad := amFilter s.bad (fun k code => !blockWritten pa bs.length (if code = 1 then 32 else 16) k) }
/-- A write is performed at package scope. -/
def packWrite (s : State) (pa : Nat) (bs : List Byte) : State :=
  putBytes { s with lag := keepLag s.mem s.lag pa bs } pa bs
/-- A write is performed at system scope (R235). -/
def systemWrite (s : State) (pa : Nat) (bs : List Byte) : State := putBytes (showHost s pa bs.length) pa bs

/-- Every L2 copy of the lines of `n` bytes is invalidated (R296, R355). -/
def dropLines (s : State) (pa n : Nat) : State := (linesOf pa n).foldl dirClear s
/-! Stores that a part of the package sees (R224). -/

/-- What the stores performed at a scope narrower than the package make of a byte, for a cluster. -/
def nearByte (cl pa : Nat) (b : Byte) (n : Near) : Byte :=
  if n.reach.sees cl && decide (n.pa ≤ pa ∧ pa < n.pa + n.bytes.length) then n.bytes.getD (pa - n.pa) b else b
/-- One byte as the agents of a cluster see it. -/
def State.seen (s : State) (cl pa : Nat) : Byte := s.near.foldl (nearByte cl pa) (s.byte pa)
/-- The bytes at an address as the agents of a cluster see them. -/
def readBy (s : State) (cl pa n : Nat) : List Byte := (List.range n).map (fun k => s.seen cl (pa + k))

/-- A narrow store takes its place: in memory once the package sees it, until then among the near stores. -/
def placeNear (s : State) (n : Near) : State :=
  match n.reach with
  | .package => packWrite (dirOnly s n.die (n.pa / 64)) n.pa n.bytes
  | .system => systemWrite (dirOnly s n.die (n.pa / 64)) n.pa n.bytes
  | _ => { s with near := s.near ++ [n] }
/-- The chosen narrow stores, oldest first, become visible in an instance as well, and in a granule an older one wherever a
newer one is (R228). -/
def widenList (sel : Near → Bool) (r : Reach) : List Near → List Near
  | [] => []
  | n :: l =>
    let rest := widenList sel r l
    if sel n then
      let q := (rest.filter (fun x => sel x && decide (x.pa / 16 = n.pa / 16))).foldl (fun q x => q.join x.reach) (n.reach.join r)
      { n with reach := q } :: rest
    else n :: rest
def widen (s : State) (sel : Near → Bool) (r : Reach) : State :=
  if s.near.any sel then (widenList sel r s.near).foldl placeNear { s with near := [] } else s
/-- Whether a narrow store lies in the granules of `n` bytes. -/
def nearIn (pa n : Nat) (x : Near) : Bool := decide (pa / 16 ≤ x.pa / 16 ∧ x.pa / 16 ≤ (pa + n - 1) / 16)
/-- Whether it does and a cluster sees it. -/
def inGrans (cl pa n : Nat) (x : Near) : Bool := x.reach.sees cl && nearIn pa n x
/-- Every narrow store in the granules of `n` bytes becomes visible in an instance as well. -/
def widenAll (s : State) (pa n : Nat) (r : Reach) : State := widen s (nearIn pa n) r
/-- A write of the hub, at package scope (R296), after the stores that its granules hold (R228). -/
def writePA (s : State) (pa : Nat) (bs : List Byte) : State :=
  if bs.length = 0 then s else packWrite (dropLines (widenAll s pa bs.length .package) pa bs.length) pa bs
/-- A write at system scope by the hub or the host: no copy in L2 is left (R296, R355), and it comes after the stores that its
granules hold (R228). -/
def hubWrite (s : State) (pa : Nat) (bs : List Byte) : State :=
  systemWrite (dropLines (widenAll s pa bs.length .system) pa bs.length) pa bs
/-- What a cluster's agent reads of `n` bytes is performed in an instance (R224). -/
def performRead (s : State) (cl pa n : Nat) (r : Reach) : State :=
  let s1 := widen s (inGrans cl pa n) r
  if r = .system then showHost s1 pa n else s1
/-- Everything a cluster's agents see is performed in an instance. -/
def performSeen (s : State) (cl : Nat) (r : Reach) : State :=
  let s1 := widen s (fun x => x.reach.sees cl) r
  if r = .system then showAll s1 else s1

/-- A write by an agent of a cluster is performed in an instance, or wider: at package scope where a granule holds a store that
the agent does not see, and where no granule holds the write whole. What the granule holds comes before it, for every agent
that sees the write (R223, R228). -/
def performAt (s : State) (cl : Nat) (r : Reach) (via : Via) (pa : Nat) (bs : List Byte) : State :=
  let hid := s.near.any (fun x => nearIn pa bs.length x && !x.reach.sees cl)
  let whole := decide (pa % 16 + bs.length ≤ 16)
  let r1 := if (hid || !whole) && decide (r ≠ .system) then .package else r
  placeNear (widenAll s pa bs.length r1) ⟨pa, bs, r1, dieOf cl, via⟩

/-- A store with this reach is in memory, where the whole package sees it. -/
def Reach.wide (r : Reach) : Bool := decide (r = .package) || decide (r = .system)
/-- The canonical form of memory and of what the host sees otherwise; a narrow store lies in one granule. -/
def State.memOk (s : State) : Prop :=
  Memory.wf s.mem = true ∧ alWf s.lag = true ∧ ∀ n ∈ s.near, n.reach.wide = false ∧ n.pa % 16 + n.bytes.length ≤ 16

end Sys2Proof.Machine
end

