-- ==== Sys2Proof/Machine/Ops.lean ====
section
/-! DEFINITION. Named operations over the state: units, translation, traps, events, records. -/

namespace Sys2Proof.Machine

open Sys2Proof

/-- The outcome of a meaning. -/
abbrev Out := Host.Outcome State Fault Refusal

/-! Units. -/

def getCl (s : State) (cl : Nat) : Cluster := amGetD s.clusters cl clusterReset
def modCl (s : State) (cl : Nat) (f : Cluster → Cluster) : State :=
  { s with clusters := amPut s.clusters cl (f (getCl s cl)) }
def getEl (s : State) (cl el : Nat) : Elem := amGetD (getCl s cl).elems el elemReset
def modEl (s : State) (cl el : Nat) (f : Elem → Elem) : State :=
  modCl s cl (fun c => { c with elems := amPut c.elems el (f (amGetD c.elems el elemReset)) })
def getTile (s : State) (cl t : Nat) : Tile := amGetD (getCl s cl).tiles t tileReset
def modTile (s : State) (cl t : Nat) (f : Tile → Tile) : State :=
  modCl s cl (fun c => { c with tiles := amPut c.tiles t (f (amGetD c.tiles t tileReset)) })
def getGen (s : State) (cl t a : Nat) : AddrGen := amGetD (getCl s cl).gens (4 * t + a) genReset
def modGen (s : State) (cl t a : Nat) (f : AddrGen → AddrGen) : State :=
  modCl s cl (fun c => { c with gens := amPut c.gens (4 * t + a) (f (amGetD c.gens (4 * t + a) genReset)) })
def getPort (s : State) (cl p : Nat) : SPort := amGetD (getCl s cl).ports p portReset
def modPort (s : State) (cl p : Nat) (f : SPort → SPort) : State :=
  modCl s cl (fun c => { c with ports := amPut c.ports p (f (amGetD c.ports p portReset)) })
def modIsland (s : State) (cl : Nat) (f : Island → Island) : State :=
  modCl s cl (fun c => { c with island := f c.island })
def modCore (s : State) (cl : Nat) (f : Core → Core) : State :=
  modCl s cl (fun c => { c with core := f c.core })
def getGrp (s : State) (cl g : Nat) : Group := vec4Get (getCl s cl).core.grp g
def modGrp (s : State) (cl g : Nat) (f : Group → Group) : State :=
  modCore s cl (fun c => { c with grp := vec4Set c.grp g (f (vec4Get c.grp g)) })
def getCtx (s : State) (cl c : Nat) : GenCtx := vec8Get (getCl s cl).gctx c
def modCtx (s : State) (cl c : Nat) (f : GenCtx → GenCtx) : State :=
  modCl s cl (fun k => { k with gctx := vec8Set k.gctx c (f (vec8Get k.gctx c)) })

def getSpan (s : State) (sp : Nat) : Option Span := amGet s.spans sp
def modSpan (s : State) (sp : Nat) (f : Span → Span) : State := { s with spans := amMod s.spans sp f }
/-- The span that holds a cluster, with its lead. -/
def spanAt (s : State) (cl : Nat) : Option (Nat × Span) :=
  match (getCl s cl).span with
  | none => none
  | some sp => (getSpan s sp).map (fun x => (sp, x))
def getLoad (s : State) (sp : Nat) : Option Load := (getSpan s sp).bind (·.load)
def modLoad (s : State) (sp : Nat) (f : Load → Load) : State :=
  modSpan s sp (fun x => { x with load := x.load.map f })
def getChan (s : State) (sp ch : Nat) : Option Chan := (getLoad s sp).bind (fun l => amGet l.chans ch)
def modChan (s : State) (sp ch : Nat) (f : Chan → Chan) : State :=
  modLoad s sp (fun l => { l with chans := amMod l.chans ch f })
def modOp (s : State) (sp op : Nat) (f : OpState → OpState) : State :=
  modLoad s sp (fun l => { l with ops := amMod l.ops op f })

/-- Whether a span's units act: its state is Running (R391). -/
def spanActive (x : Span) : Bool := decide (x.phase = .running)
/-- The span-relative number of a cluster: its place in the span's list (R10). -/
def relOf (x : Span) (cl : Nat) : Nat := x.clusters.findIdx (· == cl)
/-- The cluster of a span-relative number. -/
def absOf (x : Span) (r : Nat) : Option Nat := x.clusters[r]?

def cycleOf (s : State) (die : Nat) : Nat := vec16Get s.cycles die
/-- The cycle counter of a cluster's die (R5). -/
def now (s : State) (cl : Nat) : Nat := cycleOf s (dieOf cl)
/-- The hub die's own counter (log 5). -/
def hubNow (s : State) : Nat := cycleOf s 12

def modHub (s : State) (f : Hub → Hub) : State := { s with hub := f s.hub }
def getPart (s : State) (p : Nat) : Partition := amGetD s.hub.parts p partitionReset
def modPart (s : State) (p : Nat) (f : Partition → Partition) : State :=
  modHub s (fun h => { h with parts := amPut h.parts p (f (amGetD h.parts p partitionReset)) })
def partOfCl (s : State) (cl : Nat) : Nat :=
  match spanAt s cl with
  | some (_, x) => x.part
  | none => 0

/-- Registers take writes, but not in Locked (R407) nor without power (R428). -/
def regsLive (h : Hub) : Bool := !(decide (h.boot = .locked) || h.off)

/-- A fresh number for a value or a choice the manual leaves open. -/
def takeFree (s : State) : Nat × State := (s.free, { s with free := s.free + 1 })

/-- The cluster at whose port the answers of a unit arrive. -/
def NetUser.home (u : NetUser) : Nat :=
  match u with
  | .core cl | .access cl _ | .element cl _ _ | .port cl _ | .gen cl _ _ | .island cl | .fill cl _ | .walk cl => cl
  | .link _ => 0
/-- The packets of units of clusters that are let go are gone. -/
def dropUsers (cls : List Nat) (l : List NetPkt) : List NetPkt :=
  l.filter (fun p => (match p.user with
    | .link _ => true
    | _ => false) || decide (p.user.home ∉ cls))

/-! Events, interrupts and records. -/

/-- The vectors of a function (R354). -/
def vecCount (fn : Nat) : Nat := if fn = 0 then 128 else 120
/-- An MSI-X vector of a function is raised (R354). -/
def raiseVec (s : State) (fn vec : Nat) : State :=
  modHub s (fun h => if vecCount fn ≤ vec then h else { h with msix := h.msix ++ [(fn, vec)] })

/-- The partition interrupt of R383: the VF vector that PIVEC gives. -/
def partitionInterrupt (s : State) (p : Nat) : State :=
  raiseVec (modPart s p (fun P => { P with intr := true })) (p + 1) (field 6 0 (getPart s p).pivec)

/-- A cluster's counters of a source, and its die's, advance by `n` (R420). -/
def countBoth (s : State) (cl src n : Nat) : State :=
  let bump (c : Counter) : Counter := if c.src = src ∧ src ≠ 0 then { c with val := c.val + BitVec.ofNat 64 n } else c
  let s1 := modCl s cl (fun c => { c with counters := vec8Of (fun i => bump (vec8Get c.counters i)) 0 })
  modHub s1 (fun h => { h with dctr := amMap h.dctr (fun k c => if k / 32 = dieOf cl then bump c else c) })

/-- A write of the hub at system scope: everything the package sees is shown to the host with it (R235). -/
def publish (s : State) (pa : Nat) (bs : List Byte) : State := hubWrite (showAll s) pa bs

/-- A record of the fleet ring (R414, R415), performed at system scope; dropped and counted when the ring is full. The PF's
vectors are 0 to 127 (R354). -/
def fleetRecord (s : State) (kind part die clu d1 d2 layv : Nat) : State :=
  let h := s.hub
  if !bitAt 63 h.frctl then s
  else
    let size := 2 ^ (8 + field 3 0 h.frctl)
    if (h.frtail + 2 ^ 32 - h.frhead) % 2 ^ 32 = size then
      modHub s (fun h => { h with frlost := min (h.frlost + 1) (2 ^ 32 - 1) })
    else
      let w0 := kind * 2 ^ 56 + part * 2 ^ 48 + die * 2 ^ 44 + clu * 2 ^ 32 + (if die < 12 then cycleOf s die else hubNow s) % 2 ^ 32
      let at_ := (field 51 0 h.frbase) + 32 * (h.frtail % size)
      let s1 := publish s at_ (bytesOf 8 w0 ++ bytesOf 8 d1 ++ bytesOf 8 d2 ++ bytesOf 8 layv)
      let s2 := modHub s1 (fun h => { h with frtail := (h.frtail + 1) % 2 ^ 32 })
      if field 47 40 h.frctl < 128 then raiseVec s2 0 (field 47 40 h.frctl) else s2

/-- The record of an event in a cluster, with the LAYV of its load (R415). -/
def clusterRecord (s : State) (kind cl d1 d2 : Nat) : State :=
  match spanAt s cl with
  | none => fleetRecord s kind 0xFF (dieOf cl) cl d1 d2 0
  | some (_, x) =>
    fleetRecord s kind x.part (dieOf cl) cl d1 d2 ((x.load.map (·.layv)).getD 0)

/-- An event enters a core's queue of 128, or is held at its unit until an entry frees (R198, R382). -/
def postEvent (s : State) (cl : Nat) (r : FaultRec) : State :=
  modCore s cl (fun c =>
    if c.events.length < 128 ∧ c.held = [] then { c with events := c.events ++ [r] }
    else { c with held := c.held ++ [r] })

/-- SY.PEND: bits 0 and 1 follow the pending events, bits 4 to 2 are kept (R193, R198, R199). -/
def pendOf (c : Core) : Nat :=
  b2n (c.events.any (fun e => decide (e.cls ≤ 0x0B))) + 2 * b2n (c.events.any (fun e => decide (e.cls = 0x11)))
    + 4 * (c.pend / 4 % 8)
/-- SY.PEND bit 2, 3 or 4 is set. -/
def setPend (s : State) (cl bit : Nat) : State := modCore s cl (fun c => { c with pend := c.pend ||| 2 ^ bit })

/-- The location word of R195. -/
def locWord (rel pos sub port unit : Nat) : Nat :=
  rel % 4096 + pos * 2 ^ 12 + sub * 2 ^ 19 + port * 2 ^ 23 + unit * 2 ^ 27
/-- The router position 8y + x of memory tile t and of compute tile t (R11). -/
def memTilePos (t : Nat) : Nat := let y := t / 4; let x := 2 * (t % 4) + (if y % 2 = 0 then 1 else 0); 8 * y + x
def compTilePos (t : Nat) : Nat := let y := t / 4; let x := 2 * (t % 4) + (if y % 2 = 0 then 0 else 1); 8 * y + x
def relCl (s : State) (cl : Nat) : Nat :=
  match spanAt s cl with
  | some (_, x) => relOf x cl
  | none => 0

/-- A corrected or uncorrectable error of a structure in a cluster, with its record (R419, R420). -/
def softCluster (s : State) (multi : Bool) (cl place code : Nat) : State :=
  clusterRecord (countBoth s cl (if multi then 0x6010 else 0x6000 + code) 1) (if multi then 2 else 1) cl place code

/-! Traps: the one entry of R196, the double fault of R201, and the return. -/

/-- SY.CAUSE of R195. -/
def causeWord (df : Bool) (r : FaultRec) : W64 :=
  BitVec.ofNat 64 (put64 df + (r.info % 65536) * 2 ^ 16 + (r.sub % 256) * 2 ^ 8 + r.cls % 256)
where put64 (d : Bool) : Nat := if d then 2 ^ 63 else 0

/-- MODE of SY.STATUS. -/
def modeOf (g : Group) : Bool := bitAt 0 g.status
def ieOf (g : Group) : Bool := bitAt 2 g.status

/-- Steps 1 to 4 of R196 on a group: EPC, CAUSE and TVAL are written, PMODE and PIE save MODE and IE,
the mode becomes supervisor with IE clear, and the pc goes to SY.TVEC. -/
def enterTrap (tvec : W64) (epc : Addr) (r : FaultRec) (g : Group) : Group :=
  { g with
    epc := epc.setWidth 64
    cause := causeWord false r
    tval := BitVec.ofNat 64 r.tval
    status := BitVec.ofNat 64 (1 + 2 * b2n (modeOf g) + 8 * b2n (ieOf g))
    pc := BitVec.ofNat 52 (tvec.toNat / 4 * 4)
    st := .ready }

/-- R201: a synchronous trap in supervisor mode stops the group; EPC and STATUS stay. -/
def doubleFault (r : FaultRec) (g : Group) : Group :=
  { g with cause := causeWord true r, tval := BitVec.ofNat 64 r.tval, st := .stopped }

/-- A synchronous trap of a group (R196, R201). -/
def trapGroup (s : State) (cl n : Nat) (r : FaultRec) : State :=
  let g := getGrp s cl n
  if modeOf g then partitionInterrupt (modGrp s cl n (doubleFault r)) (partOfCl s cl)
  else modGrp s cl n (enterTrap (getCl s cl).core.tvec g.pc r)
/-- A synchronous trap of the group that is executing. -/
def takeTrap (s : State) (r : FaultRec) : State := trapGroup s s.cur.cl s.cur.grp r

/-- An illegal-instruction trap with its subcode (R171); SY.TVAL is 0 (R381). -/
def illegal (s : State) (sub : Nat) : State := takeTrap s ⟨4, sub, 0, 0⟩

/-- ERET: PC ← SY.EPC, MODE ← PMODE, IE ← PIE (R196). -/
def returnTrap (g : Group) : Group :=
  { g with
    pc := BitVec.ofNat 52 (g.epc.toNat / 4 * 4)
    status := BitVec.ofNat 64 (b2n (bitAt 1 g.status) + 2 * b2n (bitAt 1 g.status) + 4 * b2n (bitAt 3 g.status)
      + 8 * b2n (bitAt 3 g.status)) }

/-! Translation (R370 to R375). -/

/-- Permission bits: 1 read, 2 write, 4 execute. -/
inductive Trans where
  | hit (pa : Nat)
  | miss
  | fault (cls : Nat)
  deriving DecidableEq, Repr

/-- A range of physical addresses exists (R355) and lies within one valid window of a partition (R361). -/
def inWindow (p : Partition) (lo n : Nat) : Bool :=
  (decide (lo + n ≤ 6 * 2 ^ 40) || decide (2 ^ 51 ≤ lo)) &&
  (List.range 16).any (fun w =>
    let b := amGetD p.wbase w 0#64
    let base := field 51 30 b * 2 ^ 30
    let size := field 15 0 (amGetD p.wsize w 0#64) * 2 ^ 30
    bitAt 0 b && decide (base ≤ lo) && decide (lo + n ≤ base + size))

/-- Page size of a size code (R373); 0 for the reserved codes. -/
def pageSize (sz : Nat) : Nat :=
  match sz with
  | 0 => 2 ^ 12 | 1 => 2 ^ 14 | 2 => 2 ^ 16 | 3 => 2 ^ 18 | 4 => 2 ^ 20 | 5 => 2 ^ 21
  | 6 => 2 ^ 22 | 7 => 2 ^ 24 | 8 => 2 ^ 26 | 9 => 2 ^ 28 | 10 => 2 ^ 30 | 11 => 2 ^ 34
  | _ => 0
/-- The level a leaf of a size code may stand at (R373). -/
def pageLevel (sz : Nat) : Nat := if sz ≤ 4 then 0 else if sz ≤ 9 then 1 else 2

/-- A walk's outcome: a leaf translation or the class of the fault (R374). -/
inductive WalkEnd where
  | leaf (e : TEntry)
  | fault (cls : Nat)
  deriving DecidableEq, Repr

/-- The index of a level in a virtual address (R370). -/
def levelIndex (lv va : Nat) : Nat := if lv = 4 then va / 2 ^ 48 % 16 else va / 2 ^ (12 + 9 * lv) % 512

/-- The walk from a table of level `lv` downward (R372 to R374). -/
def walkLevel (s : State) (p : Partition) (asid va : Nat) : Nat → Nat → WalkEnd
  | lv, tbl =>
    let a := tbl + 8 * levelIndex lv va
    if 2 ^ 51 ≤ a ∨ !inWindow p a 8 then .fault 2
    else
      let e := BitVec.ofNat 64 (readPAn s a 8)
      let leaf := bitAt 62 e
      let sz := field 61 58 e
      let adr := field 51 12 e * 4096
      let resv := decide (field 57 52 e ≠ 0 ∨ field 11 6 e ≠ 0 ∨ field 2 0 e ≠ 0)
      let wrNoRd := bitAt 4 e && !bitAt 3 e
      if !bitAt 63 e then .fault 1
      else if leaf then
        if resv || wrNoRd || decide (12 ≤ sz) || decide (pageLevel sz ≠ lv) || decide (adr % pageSize sz ≠ 0) then .fault 1
        else if !inWindow p adr (pageSize sz) then .fault 2
        else .leaf ⟨asid, va / pageSize sz * pageSize sz, pageSize sz, adr,
          b2n (bitAt 3 e) + 2 * b2n (bitAt 4 e) + 4 * b2n (bitAt 5 e)⟩
      else
        if resv || decide (sz ≠ 0) || decide (field 5 3 e ≠ 0) then .fault 1
        else
          match lv with
          | 0 => .fault 1
          | l + 1 => walkLevel s p asid va l adr

/-- A whole walk under a page-table base (R371 to R374). -/
def walkTables (s : State) (part : Nat) (ptbr : W64) (asid va : Nat) : WalkEnd :=
  let p := getPart s part
  let ra := (field 51 12 ptbr * 4096 + 8 * ((asid + 65536 - field 15 0 p.asid) % 65536))
  if 2 ^ 51 ≤ ra ∨ !inWindow p ra 8 then .fault 2
  else
    let e := BitVec.ofNat 64 (readPAn s ra 8)
    if !bitAt 63 e then .fault 1
    else if field 62 52 e ≠ 0 ∨ field 6 0 e ≠ 0 then .fault 1
    else walkLevel s p asid va 4 (field 51 7 e * 128)

/-- The table that a valid pointer entry names (R372). -/
def pointerTo (e : W64) : Option Nat :=
  if bitAt 63 e && !bitAt 62 e && decide (field 61 52 e = 0) && decide (field 11 0 e = 0) then some (field 51 12 e * 4096) else none
/-- The entries that a walk from a table of level `lv` reads, in order (R374). -/
def levelReads (s : State) (p : Partition) (va : Nat) : Nat → Nat → List Nat
  | lv, tbl =>
    let a := tbl + 8 * levelIndex lv va
    if 2 ^ 51 ≤ a ∨ !inWindow p a 8 then []
    else
      match pointerTo (BitVec.ofNat 64 (readPAn s a 8)), lv with
      | some t, l + 1 => a :: levelReads s p va l t
      | _, _ => [a]
/-- The entries that a whole walk reads. -/
def walkReads (s : State) (part : Nat) (ptbr : W64) (asid va : Nat) : List Nat :=
  let p := getPart s part
  let ra := (field 51 12 ptbr * 4096 + 8 * ((asid + 65536 - field 15 0 p.asid) % 65536))
  if 2 ^ 51 ≤ ra ∨ !inWindow p ra 8 then []
  else
    let e := BitVec.ofNat 64 (readPAn s ra 8)
    if bitAt 63 e && decide (field 62 52 e = 0) && decide (field 6 0 e = 0) then ra :: levelReads s p va 4 (field 51 7 e * 128) else [ra]

/-- Whether a leaf grants what an access needs. -/
def permits (e : TEntry) (need : Nat) : Bool := decide (e.perm &&& need = need)
def entryCovers (asid va : Nat) (e : TEntry) : Bool :=
  decide (e.asid = asid) && decide (e.va ≤ va) && decide (va < e.va + e.size)

/-- Translation at a cluster: its cache answers, or a walk is needed (R375). -/
def translate (s : State) (cl asid va need : Nat) : Trans :=
  match (getCl s cl).tcache.find? (entryCovers asid va) with
  | none => .miss
  | some e => if permits e need then .hit (e.pa + (va - e.va)) else .fault 2

/-- The hub's own access: a walk at the access (R371). -/
def hubTranslate (s : State) (part : Nat) (ptbr : W64) (asid va need : Nat) : Trans :=
  match walkTables s part ptbr asid va with
  | .fault c => .fault c
  | .leaf e => if permits e need then .hit (e.pa + (va - e.va)) else .fault 2

/-- A fresh place in an order of arrival. -/
def arrive (s : State) : State := { s with serial := s.serial + 1 }
/-- Whether a requester already waits for this walk. -/
def sameWalk (r q : WalkReq) : Bool :=
  decide (q.asid = r.asid) && decide (q.va = r.va) && decide (q.need = r.need) && decide (q.who = r.who)
/-- A walk joins a cluster's walks in progress, once, as the latest to arrive: a miss of its translation cache
(R375, R420). -/
def startWalk (s : State) (cl asid va need : Nat) (who : Walker) : State :=
  let r : WalkReq := ⟨asid, va, need, who, s.serial⟩
  if (getCl s cl).walks.any (sameWalk r) then s
  else countBoth (arrive (modCl s cl (fun c => { c with walks := c.walks ++ [r] }))) cl 0x3000 1

/-! Accesses of a cluster's agents through L2 (R174, R296). -/

/-- The clusters of the span that holds a cluster. -/
def spanList (s : State) (cl : Nat) : List Nat :=
  match spanAt s cl with
  | some (_, x) => if cl ∈ x.clusters then x.clusters else [cl]
  | none => [cl]
/-- The instance of a scope code for an access of a cluster (R174, R222). -/
def instOf (s : State) (cl sc : Nat) : Reach := scopeOf (spanList s cl) cl sc

/-- A read reaches the line's home slice: the die's copy is recorded, and the die's L2 access counters advance (R420). -/
def l2Touch (s : State) (cl pa : Nat) : State :=
  let miss := decide (dieSlices (dieOf cl) (amGetD s.dir (pa / 64) 0) = 0)
  let s1 := countBoth s cl 0x4000 1
  let s2 := if miss then countBoth s1 cl 0x4001 1 else s1
  dirRead s2 (getPart s (partOfCl s cl)) (dieOf cl) (pa / 64)
/-- A write reaches it. -/
def l2Take (s : State) (cl pa : Nat) : State :=
  dirRead (countBoth s cl 0x4000 1) (getPart s (partOfCl s cl)) (dieOf cl) (pa / 64)

/-- The lines of some addresses are read, each once (R296). -/
def touchLines (s : State) (cl : Nat) (pas : List Nat) : State :=
  (pas.map (· / 64)).dedup.foldl (fun s l => l2Touch s cl (64 * l)) s

/-- An element or an engine reads in the granule at `pa`: the read is performed at package scope (R224). -/
def l2Read (s : State) (cl pa : Nat) : State := performRead (l2Touch s cl pa) cl pa 1 .package
/-- An atomic reads `n` bytes: every store that the granule holds comes before it, also one that the reader does not see (R223,
R228). -/
def l2Own (s : State) (cl pa n : Nat) (r : Reach) : State := widenAll (l2Touch s cl pa) pa n r
/-- A write within a granule is performed in an instance. -/
def l2At (s : State) (cl : Nat) (r : Reach) (via : Via) (pa : Nat) (bs : List Byte) : State :=
  performAt (l2Take s cl pa) cl r via pa bs
/-- An element or an engine writes, at package scope (R224). -/
def l2Write (s : State) (cl pa : Nat) (bs : List Byte) : State := l2At s cl .package .done pa bs
/-- Engine reads and writes of words. -/
def touchRead (s : State) (cl : Nat) (pas : List Nat) : State := pas.foldl (fun s pa => l2Read s cl pa) s
def writeEach (s : State) (cl : Nat) (ps : List (Nat × W32)) : State :=
  ps.foldl (fun s p => l2Write s cl p.1 (bytesOf 4 p.2.toNat)) s
/-- The bytes of words. -/
def wordsRead (s : State) (pas : List Nat) : List Byte := pas.flatMap (fun pa => readPA s pa 4)

/-- Reading or checking bytes of the virtual space: every page is translated first. -/
inductive VAcc (α : Type) where
  | ok (a : α)
  | miss (va : Nat)
  | fault (cls va : Nat)
  deriving DecidableEq, Repr

/-- The physical address of each of `n` bytes from `va`, checked per 16-byte piece. -/
def vaMap (s : State) (cl asid need : Nat) : Nat → Nat → VAcc (List Nat)
  | 0, _ => .ok []
  | n + 1, va =>
    match translate s cl asid (va % 2 ^ 52) need with
    | .miss => .miss (va % 2 ^ 52)
    | .fault c => .fault c (va % 2 ^ 52)
    | .hit pa =>
      match vaMap s cl asid need n (va + 1) with
      | .ok l => .ok (pa :: l)
      | .miss v => .miss v
      | .fault c v => .fault c v

/-- The physical address of each 4-byte word of `n` from `va`. -/
def vaWords (s : State) (cl asid need : Nat) : Nat → Nat → VAcc (List Nat)
  | 0, _ => .ok []
  | n + 1, va =>
    match translate s cl asid (va % 2 ^ 52) need with
    | .miss => .miss (va % 2 ^ 52)
    | .fault c => .fault c (va % 2 ^ 52)
    | .hit pa =>
      match vaWords s cl asid need n (va + 4) with
      | .ok l => .ok (pa :: l)
      | .miss v => .miss v
      | .fault c v => .fault c v

/-- Writing the words of a byte list to translated word addresses. -/
def writeWords (s : State) : List Nat → List Byte → State
  | [], _ => s
  | pa :: l, bs => writeWords (writePA s pa (bs.take 4)) l (bs.drop 4)

/-- Reading for the hub, by walks at the access. -/
def hubWords (s : State) (part : Nat) (ptbr : W64) (asid need : Nat) : Nat → Nat → VAcc (List Nat)
  | 0, _ => .ok []
  | n + 1, va =>
    match hubTranslate s part ptbr asid (va % 2 ^ 52) need with
    | .miss => .miss va
    | .fault c => .fault c (va % 2 ^ 52)
    | .hit pa =>
      match hubWords s part ptbr asid need n (va + 4) with
      | .ok l => .ok (pa :: l)
      | .miss v => .miss v
      | .fault c v => .fault c v

/-! Memory tiles (R277, R291). -/

def tileByte (t : Tile) (o : Nat) : Byte := amGetD t.bytes (o % 65536) 0#8
def tilePut (t : Tile) (o : Nat) (b : Byte) : Tile := { t with bytes := amPutD t.bytes (o % 65536) b 0#8 }
def tileRead (t : Tile) (o : Nat) : Nat → List Byte
  | 0 => []
  | n + 1 => tileByte t o :: tileRead t (o + 1) n
def tileWrite (t : Tile) (o : Nat) : List Byte → Tile
  | [] => t
  | b :: bs => tileWrite (tilePut t o b) (o + 1) bs
def granFull (t : Tile) (g : Nat) : Bool := amGetD t.full (g % 4096) false
def setFull (t : Tile) (g : Nat) (b : Bool) : Tile := { t with full := amPutD t.full (g % 4096) b false }
def setFulls (t : Tile) (b : Bool) (gs : List Nat) : Tile := gs.foldl (fun t g => setFull t g b) t
def granBad (t : Tile) (g : Nat) : Bool := amGetD t.bad (g % 4096) false
/-- A 32-bit word of a tile. -/
def tileWord (t : Tile) (o : Nat) : W32 := BitVec.ofNat 32 (natOfBytes (tileRead t o 4))
def tilePutWord (t : Tile) (o : Nat) (w : W32) : Tile := tileWrite t o (bytesOf 4 w.toNat)

/-! The group that is executing. -/

def curGrp (s : State) : Group := getGrp s s.cur.cl s.cur.grp
def modCur (s : State) (f : Group → Group) : State := modGrp s s.cur.cl s.cur.grp f
/-- Register xn; x0 reads zero (R164). -/
def xget (g : Group) (n : BitVec 5) : W64 := if n = 0#5 then 0#64 else vec32Get g.x n.toNat
/-- Writing xn; a write to x0 is discarded (R164). -/
def xset (n : BitVec 5) (v : W64) (g : Group) : Group :=
  if n = 0#5 then g else { g with x := vec32Set g.x n.toNat v }
/-- Sequential execution adds the instruction's length to the pc modulo 2^52 (R169). -/
def advance (len : Nat) (g : Group) : Group := { g with pc := g.pc + BitVec.ofNat 52 len }
/-- The instruction waits: it is executed again when its condition holds. -/
def waitFor (w : Wait) (g : Group) : Group := { g with st := .waiting w }
/-- xd ← v and the pc moves on. -/
def finish (s : State) (len : Nat) (d : BitVec 5) (v : W64) : State :=
  modCur s (fun g => advance len (xset d v g))
/-- The pc moves on. -/
def skip (s : State) (len : Nat) : State := modCur s (advance len)
/-- The instruction waits for a walk of `va`, asked for on behalf of the group. -/
def waitWalk (s : State) (va need : Nat) : State :=
  modCur (startWalk s s.cur.cl (curGrp s).asid va need (.group s.cur.grp)) (waitFor .walk)

end Sys2Proof.Machine
end

