-- ==== Sys2Proof/Machine/Flags.lean ====
section
/-! DEFINITION. Truth values that instructions compute: the relations of compares and branches, the
success of a swap, the stream-mismatch flag of two-input forms. -/

namespace Sys2Proof.Machine

open Sys2Proof

/-- Signed and unsigned less-than (R98, R172, R179). -/
def ltS {n : Nat} (x y : BitVec n) : Bool := BitVec.slt x y
def ltU {n : Nat} (x y : BitVec n) : Bool := BitVec.ult x y
def leS {n : Nat} (x y : BitVec n) : Bool := BitVec.sle x y
def leU {n : Nat} (x y : BitVec n) : Bool := BitVec.ule x y
/-- 1 where a relation holds, else 0. -/
def setIf (b : Bool) : W64 := if b then 1#64 else 0#64

/-- LR and LS of a header (R16). -/
def hdrLR (h : W32) : Bool := bitAt 26 h
def hdrLS (h : W32) : Bool := bitAt 25 h
def hdrBUB (h : W32) : Bool := bitAt 24 h
def hdrET (h : W32) : Bool := bitAt 23 h
def hdrLN (h : W32) : Nat := field 22 19 h
def hdrTAG (h : W32) : Nat := field 18 16 h
def hdrSEQ (h : W32) : Nat := field 15 0 h
def hdrFMT (h : W32) : Nat := field 29 27 h

/-- A two-input form sets the sticky mismatch flag when LS differs on any token of the group (R77). -/
def lsMismatch (ta tb : List Token) : Bool :=
  (List.zip ta tb).any (fun p => hdrLS p.1.hdr != hdrLS p.2.hdr)

end Sys2Proof.Machine
end

