-- ==== Sys2Proof/Machine/Channels.lean ====
section
/-! DEFINITION. Channels: room, emission, heads, pops, release and arrival (R19 to R28, R84). -/

namespace Sys2Proof.Machine

open Sys2Proof

/-- The channel and branch that end at a port. -/
def findIn (l : Load) (e : Endpoint) : Option (Nat × Nat) :=
  l.chans.entries.findSome? (fun p =>
    let k := p.2.branches.findIdx (fun b => decide (b.dst = e))
    if k < p.2.branches.length then some (p.1, k) else none)
/-- The channel that starts at a port. -/
def findOut (l : Load) (e : Endpoint) : Option Nat :=
  (l.chans.entries.find? (fun p => decide (p.2.src = e))).map Prod.fst

def branchOf (l : Load) (p : Nat × Nat) : Option Branch := (amGet l.chans p.1).bind (fun c => c.branches[p.2]?)
def modBranch (c : Chan) (k : Nat) (f : Branch → Branch) : Chan := { c with branches := c.branches.modify k f }
def modBr (s : State) (sp ch br : Nat) (f : Branch → Branch) : State := modChan s sp ch (fun c => modBranch c br f)

/-- The share whose footprint holds a port of an element: share 1 from the offset on (R248). -/
def shareOfPort (e : Elem) (n off : Nat) : OpCtx :=
  match e.sh1 with
  | some c => if off ≤ n then c else e.sh0
  | none => e.sh0
/-- The depth in use of an element's data port: max(2, LG) of the operator that holds it (R84). -/
def elemDepth (e : Elem) (n off : Nat) : Nat := max 2 (shareOfPort e n off).lg

/-- The depth of an operator's ports, by the LG of its first element (R84). -/
def opDepth (s : State) (x : Span) (op : Nat) : Nat :=
  match ((x.load.bind (fun l => amGet l.ops op)).bind (fun o => o.elems.head?)) with
  | none => 2
  | some (r, el, sh) =>
    match absOf x r with
    | none => 2
    | some cl => let e := getEl s cl el; max 2 (if sh = 1 then e.sh1.getD e.sh0 else e.sh0).lg

/-- The oldest token on the way to a reorder node from a clone is the one due at its output (R243). -/
def dueNext (l : Load) (o : OpState) (b : Branch) : Bool :=
  let out := ((findIn l b.dst).bind (fun p => amGet l.chans p.1)).elim [] (fun c => c.out.map (·.tok))
  match b.buf, (b.relief.map (·.1) ++ b.flight.map (·.tok) ++ out).head?, o.nexts.getD (b.dst.port / 16) (none, 0) with
  | [], some t, (some q, r) => decide (hdrSEQ t.hdr = (q + r) % 65536)
  | _, _, _ => false
/-- The entries of a reorder node's buffer that one clone may hold: the clones share it, and one entry is always kept
for the next token due (R243). -/
def reorderRoom (x : Span) (op : Nat) (b : Branch) : Nat :=
  match x.load with
  | none => 1
  | some l =>
    match amGet l.ops op with
    | none => 1
    | some o =>
      let others := (amVals l.chans).foldl (fun n c => c.branches.foldl (fun n d =>
        if d.dst.unit = .merge op ∧ d.dst ≠ b.dst ∧ d.dst.port / 16 = b.dst.port / 16 then n + d.buf.length else n) n) 0
      let free := o.reorderCap.getD (b.dst.port / 16) 64 - 1 - others
      if dueNext l o b then max 1 free else free

/-- The capacity of a consumer's buffer (R24, R26, R84). A control port that no register gives a depth has 2 (log 72). -/
def bufCap (s : State) (x : Span) (b : Branch) : Nat :=
  match b.dst.unit with
  | .element r el =>
    match absOf x r with
    | none => 2
    | some cl =>
      let e := getEl s cl el
      if b.dst.ctl then vec4Get e.kdp b.dst.port else elemDepth e b.dst.port (e.foot.getD 2 4)
  | .dist op => opDepth s x op
  | .merge op => reorderRoom x op b
  | _ => 2

/-- The depth of a producer's output buffer (R24, R84). -/
def outCap (s : State) (x : Span) (c : Chan) : Nat :=
  match c.src.unit with
  | .element r el =>
    match absOf x r with
    | none => 2
    | some cl => let e := getEl s cl el; elemDepth e c.src.port (e.foot.getD 3 4)
  | .dist op | .merge op => opDepth s x op
  | _ => 2

/-- Tokens of stall relief (R252). -/
def extOf (b : Branch) : Nat := 64 * b.area.length
/-- The slack S_b of a branch: its route latency, its queue and its consumer's buffer (R25, R341). -/
def slack (s : State) (x : Span) (b : Branch) : Nat :=
  b.lat + (match b.queue with | some q => q.cap | none => 0) + b.reliefCap + bufCap s x b
/-- The same with the relief of R252, which counts as room but not as capacity. -/
def slackExt (s : State) (x : Span) (b : Branch) : Nat := slack s x b + extOf b
/-- Tokens released into a branch and not yet popped. -/
def inBranch (b : Branch) : Nat :=
  b.flight.length + (match b.queue with | some q => q.len | none => 0) + b.relief.length + b.rlen
    + b.hold.length + b.buf.length
def branchRoom (s : State) (x : Span) (b : Branch) : Bool := decide (inBranch b < slackExt s x b)
/-- The capacity of a branch: the producer's output buffer and the slack (R25); of a control channel its consumer's buffer
(R26). -/
def capacity (s : State) (x : Span) (c : Chan) (b : Branch) : Nat := if c.ctl then bufCap s x b else outCap s x c + slack s x b
/-- A branch is full when it holds its capacity, and its relief (R252). -/
def branchFull (s : State) (x : Span) (c : Chan) (b : Branch) : Bool := decide (capacity s x c b + extOf b ≤ c.out.length + inBranch b)

/-- A control output has space when every consumer has a free slot for what is emitted already (R26), its relief (R252)
among them. -/
def ctlSpace (s : State) (x : Span) (c : Chan) (n : Nat) : Bool :=
  c.branches.all (fun b => decide (c.out.length + inBranch b + n ≤ bufCap s x b + extOf b))
/-- A data output has space for `n` tokens (R33, R84). -/
def outSpace (s : State) (x : Span) (c : Chan) (n : Nat) : Bool := decide (c.out.length + n ≤ outCap s x c)

/-- A firing at cycle `t` has the room that stood at the start of the cycle (R33): what has been released, or popped, in it is
still there. -/
def releasedAt (t : Nat) (c : Chan) : Nat := if c.relAt = t + 1 then 1 else 0
def countedAt (t : Nat) (p : Nat × Nat) : Nat := if p.1 = t then p.2 else 0
/-- One more at cycle `t`. -/
def countAt (t n : Nat) (p : Nat × Nat) : Nat × Nat := (t, countedAt t p + n)
def outSpaceAt (s : State) (x : Span) (t : Nat) (c : Chan) (n : Nat) : Bool :=
  decide (c.out.length + releasedAt t c + n ≤ outCap s x c)
def ctlSpaceAt (s : State) (x : Span) (t : Nat) (c : Chan) (n : Nat) : Bool :=
  c.branches.all (fun b => decide (c.out.length + inBranch b + countedAt t b.popAt + n ≤ bufCap s x b + extOf b))

/-- SEQ replaced in a header. -/
def withSeq (h : W32) (q : Nat) : W32 := setField 15 0 h q
def withET (t : Token) (b : Bool) : Token := { t with hdr := setBit 23 t.hdr b }

/-- Emit (R62): one token joins a channel's output buffer at cycle `n`. On an unordered channel SEQ is zero; on an ordered one
its source port stamps SEQ, or SEQ is carried (R20, R75, log 61). -/
def emitTok (n : Nat) (stamp : Bool) (t : Token) (c : Chan) : Chan :=
  let q := if !c.ord then 0 else if stamp then c.nextSeq else hdrSEQ t.hdr
  { c with
    out := c.out ++ [⟨{ t with hdr := withSeq t.hdr q }, n⟩]
    nextSeq := if c.ord && stamp then (c.nextSeq + 1) % 65536 else c.nextSeq }
def emitAll (n : Nat) (stamp : Bool) : List Token → Chan → Chan
  | [], c => c
  | t :: ts, c => emitAll n stamp ts (emitTok n stamp t c)

/-- A one-bit token. -/
def bitToken (b : Bool) : Token := { tokenZero with lanes := vec8Set tokenZero.lanes 0 (b2w b) }
def tokenBit (t : Token) : Bool := bitAt 0 (vec8Get t.lanes 0)

/-- The cycle count that stamps tokens: the lead die's (R5, log 5). -/
def spanNow (s : State) (sp : Nat) : Nat := now s sp

/-- A completion token of value 1 on a unit's control output; without a channel it is discarded (R27). -/
def emitCompletion (s : State) (sp : Nat) (e : Endpoint) : State :=
  match getLoad s sp with
  | none => s
  | some l =>
    match findOut l e with
    | none => s
    | some ch => modChan s sp ch (emitTok (spanNow s sp) false (bitToken true))
/-- Whether a completion token has somewhere to go (R27). -/
def completionRoom (s : State) (sp : Nat) (x : Span) (l : Load) (e : Endpoint) : Bool :=
  match findOut l e with
  | none => true
  | some ch =>
    match amGet l.chans ch with
    | none => true
    | some c => ctlSpace s x c 1
      

/-- The first `n` tokens at a port, where they all stand there since before cycle `t` (R19, R23). -/
def headGroup (b : Branch) (n t : Nat) : Option (List Token) :=
  let h := b.buf.take n
  if h.length = n ∧ h.all (fun f => decide (f.at_ < t)) then some (h.map (·.tok)) else none
/-- Popping `n` tokens at cycle `t`; the Caldera counts pops (R252). -/
def popN (t n : Nat) (b : Branch) : Branch :=
  { b with buf := b.buf.drop n, spots := b.spots.drop n, popped := b.popped + n, popAt := countAt t n b.popAt }

/-! FIFO queues in tile memory (R279, R280): three granules per token. -/

def queueTok (t : Tile) (base k : Nat) : Token :=
  let o := 16 * base + 48 * k
  ⟨vec8Of (fun i => tileWord t (o + 4 * i)) 0, tileWord t (o + 32)⟩
def queuePutTok (t : Tile) (base k : Nat) (x : Token) : Tile :=
  let o := 16 * base + 48 * k
  let t1 := tileWrite t o ((vec8List x.lanes).flatMap (fun w => bytesOf 4 w.toNat) ++ bytesOf 4 x.hdr.toNat)
  let gs := [base + 3 * k, base + 3 * k + 1, base + 3 * k + 2]
  let t2 := setFulls t1 true gs
  { t2 with bad := gs.foldl (fun m g => amDel m (g % 4096)) t2.bad }
def queuePutBad (t : Tile) (base k : Nat) (x : Token) (bad : Bool) : Tile :=
  let y := queuePutTok t base k x
  if bad then { y with bad := amPutD y.bad ((base + 3 * k) % 4096) true false } else y
def queueClear (t : Tile) (base k : Nat) : Tile := setFulls t false [base + 3 * k, base + 3 * k + 1, base + 3 * k + 2]

/-- A token enters a branch's queue, with the error in it if there is one. -/
def queuePush (s : State) (x : Span) (sp ch br : Nat) (q : QueueRegion) (t : Token) (bad : Bool) : State :=
  match absOf x q.cl with
  | none => s
  | some cl =>
    let k := (q.head + q.len) % q.cap
    modBr (modTile s cl q.tile (fun y => queuePutBad y q.base k t bad)) sp ch br
      (fun b => { b with queue := some { q with len := q.len + 1 } })
/-- The oldest token leaves a branch's queue: whatever its granules hold. -/
def queuePop (s : State) (x : Span) (sp ch br : Nat) (q : QueueRegion) : Option (Token × State) :=
  match absOf x q.cl with
  | none => none
  | some cl =>
    some (queueTok (getTile s cl q.tile) q.base q.head,
      modBr (modTile s cl q.tile (fun y => queueClear y q.base q.head)) sp ch br
        (fun b => { b with queue := some { q with head := (q.head + 1) % q.cap, len := q.len - 1 } }))

/-- Whether a granule of a queue entry is bad (R384). -/
def queueBad (t : Tile) (base k : Nat) : Bool := (List.range 3).any (fun i => granBad t (base + 3 * k + i))

/-- The place of a token of stall relief: its region, and its index there. -/
def areaPlace (b : Branch) (k : Nat) : Option ((Nat × Nat × Nat) × Nat) :=
  (b.area[k % extOf b / 64]?).map (fun r => (r, k % extOf b % 64))
/-- A token enters a branch's stall relief, with the error in it if there is one. -/
def areaPut (s : State) (x : Span) (sp ch br : Nat) (b : Branch) (t : Token) (bad : Bool) : State :=
  match areaPlace b (b.rhead + b.rlen) with
  | none => s
  | some (r, i) =>
    match absOf x r.1 with
    | none => s
    | some cl => modBr (modTile s cl r.2.1 (fun y => queuePutBad y r.2.2 i t bad)) sp ch br (fun b => { b with rlen := b.rlen + 1 })
/-- The oldest token of a branch's stall relief, and whether its granules are bad. -/
def areaHead (s : State) (x : Span) (b : Branch) : Option (Token × Bool) :=
  if b.rlen = 0 then none
  else (areaPlace b b.rhead).bind (fun p => (absOf x p.1.1).map (fun cl =>
    let t := getTile s cl p.1.2.1
    (queueTok t p.1.2.2 p.2, queueBad t p.1.2.2 p.2)))
/-- It leaves. -/
def areaPop (s : State) (x : Span) (sp ch br : Nat) (b : Branch) : State :=
  match areaPlace b b.rhead with
  | none => s
  | some (r, i) =>
    match absOf x r.1 with
    | none => s
    | some cl =>
      modBr (modTile s cl r.2.1 (fun y => queueClear y r.2.2 i)) sp ch br
        (fun b => { b with rhead := (b.rhead + 1) % extOf b, rlen := b.rlen - 1 })

def loadActive (l : Load) : Bool := decide (l.phase = .running) || decide (l.phase = .draining)

end Sys2Proof.Machine
end

