-- ==== Sys2Proof/Machine/Operands.lean ====
section
/-! DEFINITION. Element operands: renaming under a fold, operand codes, guards, eligibility (R33, R34, R67, R248). -/

namespace Sys2Proof.Machine

open Sys2Proof

/-- An operand code (R67). -/
inductive Operand where
  | v (n : Nat)
  | peek (n : Nat)
  | pop (n : Nat)
  | k (n : Nat)
  | zero
  | lane
  | vl
  | seq
  deriving DecidableEq, Repr

def operandOf (c : BitVec 5) : Operand :=
  let n := c.toNat
  if n < 16 then .v n else if n < 20 then .peek (n - 16) else if n < 24 then .pop (n - 20)
  else if n < 28 then .k (n - 24) else if n = 28 then .zero else if n = 29 then .lane
  else if n = 30 then .vl else .seq

/-- A destination code (R68). -/
inductive Dest where
  | v (n : Nat)
  | o (n : Nat)
  | y (n : Nat)
  | none
  deriving DecidableEq, Repr

def destOf (c : BitVec 5) : Dest :=
  let n := c.toNat
  if n < 16 then .v n else if n < 20 then .o (n - 16) else if n < 24 then .y (n - 20) else .none

/-- Rotation of an 8-bit mask to the left. -/
def rotl8 (x : BitVec 8) (n : Nat) : BitVec 8 := BitVec.ofNat 8 (x.toNat * 2 ^ (n % 8) + x.toNat / 2 ^ (8 - n % 8))

/-- A code renamed for share 1 (R248): registers by NV, i ports by NI, k ports by NK. -/
def renameCode (nv ni nk : Nat) (c : BitVec 5) : BitVec 5 :=
  match operandOf c with
  | .v n => BitVec.ofNat 5 ((n + nv) % 16)
  | .peek n => BitVec.ofNat 5 (16 + (n + ni) % 4)
  | .pop n => BitVec.ofNat 5 (20 + (n + ni) % 4)
  | .k n => BitVec.ofNat 5 (24 + (n + nk) % 4)
  | _ => c
def renameDest (nv no ny : Nat) (c : BitVec 5) : BitVec 5 :=
  match destOf c with
  | .v n => BitVec.ofNat 5 ((n + nv) % 16)
  | .o n => BitVec.ofNat 5 (16 + (n + no) % 4)
  | .y n => BitVec.ofNat 5 (20 + (n + ny) % 4)
  | .none => c
def renamePw (np : Nat) (p : BitVec 5) : BitVec 5 :=
  BitVec.ofNat 5 ((p.toNat / 4 + np) % 8 * 4 + p.toNat % 4)

/-- A slot as share 1 means it: the table of R248. -/
def renameSlot (foot : List Nat) (sh : Shape) (w : Slot) : Slot :=
  let nv := foot.getD 0 0
  let np := foot.getD 1 0
  let ni := foot.getD 2 0
  let no := foot.getD 3 0
  let nk := foot.getD 4 0
  let ny := foot.getD 5 0
  { w with
    pm := rotl8 w.pm np
    pv := rotl8 w.pv np
    ir := BitVec.ofNat 8 ((w.ir.toNat % 16 * 2 ^ ni) % 16 + (w.ir.toNat / 16 * 2 ^ nk) % 16 * 16)
    os := BitVec.ofNat 4 (w.os.toNat * 2 ^ no)
    ts := BitVec.ofNat 2 (w.ts.toNat + ni)
    d := renameDest nv no ny w.d
    a := if usesA sh then renameCode nv ni nk w.a
         else if sh = .p then BitVec.ofNat 5 ((w.a.toNat + np) % 8) else w.a
    b := if usesB sh then renameCode nv ni nk w.b
         else if sh = .p then BitVec.ofNat 5 ((w.b.toNat + np) % 8)
         else if sh = .m then BitVec.ofNat 5 ((w.b.toNat * 2 ^ ni) % 16) else w.b
    pw := if hasPw sh || decide (sh = .q) then renamePw np w.pw else w.pw }

/-- Everything a firing of one slot reads, before it changes anything (R83). -/
structure Env where
  sp : Nat
  cl : Nat
  el : Nat
  rel : Nat
  slotNo : Nat
  share : Nat
  t : Nat
  op : Nat
  w : Slot
  c : OpCtx
  e : Elem
  hc : Bool
  tm : Bool
  vl : Nat
  lg : Nat
  /-- head groups of i0 to i3 that stand complete -/
  ins : Vec4 (Option (List Token))
  /-- heads of k0 to k3 -/
  ctl : Vec4 (Option Bool)
  /-- the TS channel is ordered -/
  tsOrd : Bool
  deriving DecidableEq, Repr

/-- Share of a physical slot. -/
def shareOfSlot (e : Elem) (n : Nat) : Nat := if e.sh1.isSome ∧ e.split ≤ n then 1 else 0
def ctxOfShare (e : Elem) (sh : Nat) : OpCtx := if sh = 1 then e.sh1.getD e.sh0 else e.sh0
def setCtx (e : Elem) (sh : Nat) (c : OpCtx) : Elem := if sh = 1 then { e with sh1 := some c } else { e with sh0 := c }

/-- Predicate condition and lane guards (R34). -/
def predBits (e : Elem) (lane : Nat) : BitVec 8 :=
  BitVec.ofNat 8 ((List.range 8).foldl (fun a n => a + b2n (bitAt (lane % 8) (vec8Get e.preds n)) * 2 ^ n) 0)
def guardAt (e : Elem) (w : Slot) (vl lane : Nat) : Bool :=
  decide (lane < vl) && decide (predBits e lane &&& w.pm = w.pv &&& w.pm)
def predicateHolds (e : Elem) (w : Slot) (vl : Nat) : Bool :=
  if w.pm = 0#8 then true
  else if w.q then (List.range vl).all (fun l => guardAt e w vl l)
  else (List.range vl).any (fun l => guardAt e w vl l)

/-- Opcodes whose A pops one token whatever LG is (R124, R159). -/
def oneToken (op : Nat) : Bool := decide (op ∈ [0x87, 0x89, 0xCF])
/-- Opcodes that emit one token whatever LG is (R124, R148, R156); the slot needs room for LG all the same (R84). -/
def oneOut (op : Nat) : Bool := decide (op ∈ [0x86, 0x88, 0xC2, 0xCB, 0xCC, 0xCD])
/-- Tokens that a slot needs at data input n: its group, or one token of A (R84, R124, R159). -/
def needTokens (op : Nat) (w : Slot) (lg n : Nat) : Nat :=
  match operandOf w.a with
  | .peek k | .pop k => if oneToken op ∧ k = n then 1 else lg
  | _ => lg
/-- The head group at data input n of an element. -/
def inGroup (l : Load) (rel el n lg t : Nat) : Option (List Token) :=
  ((findIn l ⟨.element rel el, n, false⟩).bind (branchOf l)).bind (fun b => headGroup b lg t)
/-- The head bit at control input n. -/
def inBit (l : Load) (rel el n t : Nat) : Option Bool :=
  (((findIn l ⟨.element rel el, n, true⟩).bind (branchOf l)).bind (fun b => headGroup b 1 t)).bind
    (fun h => h.head?.map tokenBit)
/-- The channel at data input n is ordered. -/
def ordIn (l : Load) (rel el n : Nat) : Bool :=
  ((findIn l ⟨.element rel el, n, false⟩).bind (fun p => amGet l.chans p.1)).any (·.ord)
/-- The channel of data output n, or of control output n. -/
def outChan (l : Load) (rel el n : Nat) (ctl : Bool) : Option (Nat × Chan) :=
  (findOut l ⟨.element rel el, n, ctl⟩).bind (fun ch => (amGet l.chans ch).map (fun c => (ch, c)))

/-- The environment of the slot that the step names, before eligibility. LG is 1, 2 or 4 (R14). -/
def envAt (s : State) (op : Nat) (w0 : Slot) : Option (Env × Span × Load) :=
  let cl := s.cur.cl
  let el := s.cur.el
  match spanAt s cl with
  | none => none
  | some (sp, x) =>
    match x.load with
    | none => none
    | some l =>
      let e := getEl s cl el
      let n := s.cur.slot
      let sh := shareOfSlot e n
      let c := ctxOfShare e sh
      let rel := relOf x cl
      let w := if sh = 1 then renameSlot e.foot ((shapeOf op).getD .n) w0 else w0
      let t := spanNow s sp
      some ({ sp := sp, cl := cl, el := el, rel := rel, slotNo := n, share := sh, t := t, op := op, w := w, c := c, e := e,
              hc := bitAt (16 + n) e.attr, tm := bitAt n e.attr, vl := c.vl, lg := min 4 c.lg,
              ins := vec4Of (fun i => inGroup l rel el i (needTokens op w (min 4 c.lg) i) t) 0,
              ctl := vec4Of (fun i => inBit l rel el i t) 0, tsOrd := ordIn l rel el w.ts.toNat }, x, l)

/-- The same where the element's load is Running or Draining and the span acts. -/
def envOf (s : State) (op : Nat) (w : Slot) : Option (Env × Span × Load) :=
  match envAt s op w with
  | none => none
  | some (v, x, l) => if spanActive x && loadActive l then some (v, x, l) else none

/-- The element can fire at all: no fault pends, no access is awaited, it is not occupied, its operator
has not halted and is not being rewired. -/
def elemFree (v : Env) : Bool :=
  v.e.fault.isNone && !v.e.held && !v.e.walking && !v.e.rewiring && decide (v.e.busy ≤ v.t) && !v.c.halted

/-- Whether input n's accept mask takes a format (R21). -/
def acceptsFmt (e : Elem) (n f : Nat) : Bool := bitAt (8 * n + f) e.fam
/-- A head stands at data input n and its format is accepted: another format stays at the head and its port's
slots wait until the handler acts (R21). -/
def portReady (v : Env) (n : Nat) : Bool :=
  match vec4Get v.ins n with
  | some (t :: _) => acceptsFmt v.e n (hdrFMT t.hdr) && !decide (n ∈ v.e.badPorts)
  | _ => false

/-- Conditions 2 and 4 of R33: heads on every input of IR, and the tag test. -/
def inputsReady (v : Env) : Bool :=
  (List.range 4).all (fun i => !bitAt i v.w.ir || portReady v i)
  && (List.range 4).all (fun i => !bitAt (4 + i) v.w.ir || ((vec4Get v.ctl i).isSome && !decide (4 + i ∈ v.e.badPorts)))
  && (!v.w.te ||
      match vec4Get v.ins v.w.ts.toNat with
      | some (t :: _) => decide (hdrTAG t.hdr = v.w.tv.toNat)
      | _ => false)

/-- Condition 3 of R33: room on every output of OS, and on a y destination, at the start of the cycle. -/
def outputsReady (s : State) (x : Span) (l : Load) (v : Env) : Bool :=
  (List.range 4).all (fun i => !bitAt i v.w.os ||
    match outChan l v.rel v.el i false with
    | some (_, c) => outSpaceAt s x v.t c v.lg
    | none => false)
  && (match destOf v.w.d with
      | .y n =>
        match outChan l v.rel v.el n true with
        | some (_, c) => ctlSpaceAt s x v.t c 1
        | none => false
      | _ => true)

/-- Condition 3 of R33 for a memory firing: a free response-queue entry (R135). -/
def queueReady (v : Env) : Bool := decide (v.e.rq.length + countedAt v.t v.e.rqLeft < 16)

/-- An i port as the operator numbers it, and its physical number (R248). -/
def localIn (v : Env) (n : Nat) : Nat := if v.share = 1 then (n + 4 - v.e.foot.getD 2 0 % 4) % 4 else n
def physIn (v : Env) (n : Nat) : Nat := if v.share = 1 then (n + v.e.foot.getD 2 0) % 4 else n
/-- The merges' own conditions (R151, R152): the arm that fires. The arm taken last is kept as the operator numbers it, so
that it moves with the operator. -/
def mergeArm (v : Env) : Option Nat :=
  let arms := (onesOf 4 v.w.b.toNat)
  let ready (i : Nat) : Bool := portReady v i
  if v.op = 0xC6 then
    match operandOf v.w.a with
    | .k n =>
      match vec4Get v.ctl n with
      | some b =>
        let arm := arms.getD (b2n b) 4
        if ready arm && decide (arm < 4) then some arm else none
      | none => none
    | _ => none
  else
    let last := physIn v (vec16Get v.e.arms v.slotNo)
    ((List.range 4).map (fun k => (last + 1 + k) % 4)).find? (fun i => decide (i ∈ arms) && ready i)

/-- Whether a slot is eligible (R33). -/
def eligible (s : State) (x : Span) (l : Load) (v : Env) : Bool :=
  v.w.valid && elemFree v && inputsReady v
  && (if isMemOp v.op then queueReady v && (decide (16 ≤ v.w.d.toNat) || outputsReady s x l v) else outputsReady s x l v)
  && predicateHolds v.e v.w v.vl
  && (if v.op = 0xC6 ∨ v.op = 0xC7 then (mergeArm v).isSome else true)

/-- The environment of an eligible slot. -/
def fireEnv (s : State) (op : Nat) (w : Slot) : Option Env :=
  match envOf s op w with
  | none => none
  | some (v, x, l) => if eligible s x l v then some v else none

/-! Reading operands (R67). -/

/-- Lane l of a token group. -/
def groupLane (ts : List Token) (l : Nat) : W32 := vec8Get (ts.getD (l / 8) tokenZero).lanes (l % 8)
/-- Lane l of register group vN. -/
def regLane (e : Elem) (n l : Nat) : W32 := vec8Get (vec16Get e.regs ((n + l / 8) % 16)) (l % 8)
/-- The shape of the slot. -/
def shapeV (v : Env) : Shape := (shapeOf v.op).getD .n
/-- A and B where the shape reads them as operand codes (R71). -/
def codeA (v : Env) : Option Operand := if usesA (shapeV v) then some (operandOf v.w.a) else none
def codeB (v : Env) : Option Operand := if usesB (shapeV v) then some (operandOf v.w.b) else none
/-- The data port that an operand names. -/
def portOf (c : Option Operand) : Option Nat :=
  match c with
  | some (.peek n) | some (.pop n) => some n
  | _ => none
/-- The token groups of A and B, where they are channel codes 16 to 23. -/
def groupA (v : Env) : Option (List Token) := (portOf (codeA v)).bind (vec4Get v.ins)
def groupB (v : Env) : Option (List Token) := (portOf (codeB v)).bind (vec4Get v.ins)
/-- Lane l of an operand. -/
def operandLane (v : Env) (c : BitVec 5) (l : Nat) : W32 :=
  match operandOf c with
  | .v n => regLane v.e n l
  | .peek n | .pop n => groupLane ((vec4Get v.ins n).getD []) l
  | .k n => b2w ((vec4Get v.ctl n).getD false)
  | .zero => 0#32
  | .lane => BitVec.ofNat 32 l
  | .vl => BitVec.ofNat 32 v.vl
  | .seq =>
    match vec4Get v.ins v.w.ts.toNat with
    | some (t :: _) => if v.tsOrd then BitVec.ofNat 32 (hdrSEQ t.hdr) else 0#32
    | _ => 0#32
def laneA (v : Env) (l : Nat) : W32 := operandLane v v.w.a l
def laneB (v : Env) (l : Nat) : W32 := operandLane v v.w.b l
/-- Lane l of the old contents of D (R83). -/
def laneD (v : Env) (l : Nat) : W32 :=
  match destOf v.w.d with
  | .v n => regLane v.e n l
  | _ => 0#32
/-- Guard(l) (R34, R61). -/
def guardL (v : Env) (l : Nat) : Bool := guardAt v.e v.w v.vl l
/-- Predicate n in lane l, physical lane l mod 8 (R34). -/
def predL (v : Env) (n l : Nat) : Bool := bitAt (l % 8) (vec8Get v.e.preds (n % 8))
/-- The guarded lanes, ascending. -/
def guarded (v : Env) : List Nat := (List.range v.vl).filter (guardL v)
/-- The rounding mode of shapes RM, UM and SM (R72). -/
def rmCode (v : Env) : Nat := v.w.pw.toNat % 4

end Sys2Proof.Machine
end

