-- ==== Sys2Proof/Machine/Fire.lean ====
section
/-! DEFINITION. Firing a slot: lane filling, headers, predicate writes, pops, emission, error tags
(R35, R68, R69, R76 to R78, R81, R124, R384). -/

namespace Sys2Proof.Machine

open Sys2Proof

/-- Everything a firing changes. `regs` and `preds` are whole new values; `wrote` and `wroteP` name what
was written, for the ET bits. `popI` pairs a data port with a number of tokens. -/
structure Effect where
  ctx : OpCtx
  regs : Vec16 (Vec8 W32)
  wrote : List Nat
  preds : Vec8 (BitVec 8)
  wroteP : List Nat
  toks : List Token
  out : Nat
  bit : Option (Nat × Bool)
  popI : List (Nat × Nat)
  popK : List Nat
  tag : Bool
  arm : Option Nat
  /-- cycles of occupancy, and whether the picker granted them now (R247) -/
  cyc : Nat
  granted : Bool
  deriving DecidableEq, Repr

/-! Headers (R75 to R77, R124). -/

/-- The output that the destination code names. -/
def outNo (v : Env) : Nat :=
  match destOf v.w.d with
  | .o n => n
  | _ => 0
/-- A physical output number as the firing operator numbers it (R248). -/
def localOut (v : Env) (n : Nat) : Nat := if v.share = 1 then (n + 4 - v.e.foot.getD 3 0 % 4) % 4 else n
/-- The header template of an output, and its SQS bit. -/
def template (v : Env) (n : Nat) : W32 := vec4Get v.c.ht (localOut v n)
def stampsSeq (v : Env) (n : Nat) : Bool := bitAt 30 (template v n)

/-- A header from its fields (R16). -/
def mkHdr (fmt : Nat) (lr ls bub : Bool) (ln tag seq : Nat) : W32 :=
  BitVec.ofNat 32 (fmt % 8 * 2 ^ 27 + b2n lr * 2 ^ 26 + b2n ls * 2 ^ 25 + b2n bub * 2 ^ 24 + ln % 16 * 2 ^ 19
    + tag % 8 * 2 ^ 16 + seq % 65536)

/-- A two-input form (R77). -/
def twoInput (v : Env) : Bool :=
  (decide (shapeV v = .r) || decide (shapeV v = .rm)) &&
  match portOf (codeA v), portOf (codeB v) with
  | some a, some b => decide (a ≠ b)
  | _, _ => false
/-- The firing sets the sticky mismatch flag (R77). -/
def mismatches (v : Env) : Bool := twoInput v && lsMismatch ((groupA v).getD []) ((groupB v).getD [])

/-- Step 1 of R76: the channel token that is token j's header source, or none for the template. -/
def hdrSource (v : Env) (j : Nat) : Option W32 :=
  if v.hc then none
  else match groupA v with
    | some g => some (g.getD j tokenZero).hdr
    | none => (groupB v).map (fun g => (g.getD j tokenZero).hdr)

/-- Step 2 of R76. -/
def hdrFormat (v : Env) (t src : W32) (fmt : Option Nat) : Nat :=
  if v.hc then hdrFMT t else fmt.getD (hdrFMT src)

/-- The header of token j of the `n` that a firing emits on an output, under vector length `vl` (R76, R77). -/
def header (v : Env) (fmt : Option Nat) (vl n j : Nat) : W32 :=
  let t := template v (outNo v)
  let ln := min 8 (vl - 8 * j)
  match hdrSource v j with
  | some h =>
    let h2 := if twoInput v then (((groupB v).getD []).getD j tokenZero).hdr else h
    mkHdr (hdrFormat v t h fmt) (hdrLR h || hdrLR h2) (hdrLS h || hdrLS h2) false ln (hdrTAG h) (hdrSEQ h)
  | none =>
    let last := decide (j + 1 = n)
    mkHdr (hdrFormat v t t fmt) (last && hdrLR t) (last && hdrLS t) false ln (hdrTAG t) (hdrSEQ t)

/-- The header of a QNT emission (R124). -/
def headerQnt (v : Env) (fmt ln : Nat) : W32 :=
  let t := template v (outNo v)
  match (if v.hc then none else groupA v) with
  | some g =>
    let h := (g.getD 0 tokenZero).hdr
    mkHdr fmt (g.any (fun x => hdrLR x.hdr)) (g.any (fun x => hdrLS x.hdr)) false ln (hdrTAG h) (hdrSEQ h)
  | none => mkHdr (hdrFormat v t t (some fmt)) (hdrLR t) (hdrLS t) false ln (hdrTAG t) (hdrSEQ t)

/-- The header of token j of a DQNT emission (R124). -/
def headerDqnt (v : Env) (j : Nat) : W32 :=
  let t := template v (outNo v)
  let h := match (if v.hc then none else groupA v) with
    | some g => (g.getD 0 tokenZero).hdr
    | none => t
  let last := decide (j + 1 = v.lg)
  mkHdr (hdrFormat v t h (some 1)) (last && hdrLR h) (last && hdrLS h) false (min 8 (v.vl - 8 * j)) (hdrTAG h) (hdrSEQ h)

/-! Lane filling (R81). -/

/-- The value a lane of the destination register receives: below `lim` the mask policy covers what the
firing does not assign, from `lim` on the tail policy. -/
def regFill (v : Env) (n lim : Nat) (res : Nat → Option W32) (l : Nat) : W32 :=
  match res l with
  | some x => x
  | none => if (if l < lim then v.c.mz else v.c.tz) then 0#32 else regLane v.e n l

/-- What an unguarded lane of an output carries under MK: lane l of A where the shape uses A (R81). -/
def maskSource (v : Env) (l : Nat) : W32 :=
  match shapeV v with
  | .r | .u | .q | .i | .rm | .um | .sm => laneA v l
  | _ => 0#32

/-- The value a payload lane carries. -/
def payFill (v : Env) (lim : Nat) (res : Nat → Option W32) (l : Nat) : W32 :=
  if l < lim then
    match res l with
    | some x => x
    | none => if v.c.mz then 0#32 else maskSource v l
  else 0#32

/-- Registers n to n + lg − 1 with lane l replaced by `f l`. -/
def writeGroup (lg n : Nat) (f : Nat → W32) (regs : Vec16 (Vec8 W32)) : Vec16 (Vec8 W32) :=
  (List.range lg).foldl (fun r j => vec16Set r ((n + j) % 16) (vec8Of (fun i => f (8 * j + i)) 0)) regs

/-- The result assigned in the guarded lanes only. -/
def guardedRes (v : Env) (f : Nat → W32) (l : Nat) : Option W32 := if guardL v l then some (f l) else none

/-- The tokens of a payload and its headers. -/
def tokensOf (n : Nat) (pay : Nat → W32) (hdr : Nat → W32) : List Token :=
  (List.range n).map (fun j => ⟨vec8Of (fun i => pay (8 * j + i)) 0, hdr j⟩)

/-- The bit a y destination emits (R68). -/
def isCompare (op : Nat) : Bool := decide ((0x40 ≤ op ∧ op ≤ 0x45) ∨ (0x69 ≤ op ∧ op ≤ 0x6C))
def yBit (v : Env) (res : Nat → Option W32) : Bool :=
  if isCompare v.op then (List.range v.vl).any (fun l => guardL v l && bitAt 0 ((res l).getD 0#32))
  else guardL v 0 && bitAt 0 ((res 0).getD 0#32)

/-! Predicate writes (R69). -/

/-- One lane of a predicate write. Where grouping maps several lanes to one physical lane the highest
guarded lane stands (log 21). -/
def predLane (mode n : Nat) (b : Bool) (l : Nat) (p : Vec8 (BitVec 8)) : Vec8 (BitVec 8) :=
  vec8Set p n (setBit (l % 8) (vec8Get p n) (if mode = 1 then b else decide (mode = 2)))
/-- The predicates after a write in the guarded lanes. -/
def predWrite (v : Env) (bits : Nat → Bool) : Vec8 (BitVec 8) :=
  let mode := v.w.pw.toNat % 4
  let n := v.w.pw.toNat / 4
  if hasPw (shapeV v) && decide (mode ≠ 0) then
    (guarded v).foldl (fun p l => predLane mode n (bits l) l p) v.e.preds
  else v.e.preds
def predWritten (v : Env) : List Nat :=
  if hasPw (shapeV v) && decide (v.w.pw.toNat % 4 ≠ 0) then [v.w.pw.toNat / 4] else []

/-! Pops (R35, R19). -/

def popPort (c : Option Operand) : List Nat :=
  match c with
  | some (.pop n) => [n]
  | _ => []
def popCtl (c : Option Operand) : List Nat :=
  match c with
  | some (.k n) => [n]
  | _ => []
/-- Data ports popped through operand codes, each once, with the number of tokens. A channel that RESID names
otherwise than as A's pop is popped as its code says (log 58). -/
def popsI (v : Env) : List (Nat × Nat) :=
  ((popPort (codeA v) ++ popPort (codeB v)).dedup).map (fun n => (n, needTokens v.op v.w v.lg n))
/-- Control ports popped through operand codes. -/
def popsK (v : Env) : List Nat := (popCtl (codeA v) ++ popCtl (codeB v)).dedup

/-! Error tags (R384). -/

def groupTagged (g : Option (List Token)) : Bool := (g.getD []).any (fun t => hdrET t.hdr)
def regTagged (v : Env) (c : Option Operand) : Bool :=
  match c with
  | some (.v n) => (List.range (if oneToken v.op then 1 else v.lg)).any (fun j => v.e.etR.getLsbD ((n + j) % 16))
  | _ => false
def predTagged (v : Env) : Bool := decide (v.e.etP &&& v.w.pm ≠ 0#8)
/-- The SEQ operand reads the head token of the TS channel. -/
def seqTagged (v : Env) : Bool :=
  (decide (codeA v = some .seq) || decide (codeB v = some .seq)) && groupTagged ((vec4Get v.ins v.w.ts.toNat).map (·.take 1))
/-- Whether a firing is tagged by what it reads. -/
def readsTagged (v : Env) : Bool :=
  groupTagged (groupA v) || groupTagged (groupB v) || seqTagged v || regTagged v (codeA v)
    || (match codeB v with
        | some (.v n) => (List.range v.lg).any (fun j => v.e.etR.getLsbD ((n + j) % 16))
        | _ => false)
    || (readsD v.op && (match destOf v.w.d with
        | .v n => (List.range v.lg).any (fun j => v.e.etR.getLsbD ((n + j) % 16))
        | _ => false))
    || predTagged v

/-! Applying a firing. -/

/-- A firing that changes nothing but what every firing of the slot does: its pops, for `cyc` cycles. -/
def baseEffect (v : Env) (cyc : Nat) : Effect :=
  { ctx := v.c, regs := v.e.regs, wrote := [], preds := v.e.preds, wroteP := [], toks := [], out := outNo v,
    bit := none, popI := popsI v, popK := popsK v, tag := readsTagged v, arm := none, cyc := cyc, granted := true }

/-- The registers of D's group. -/
def destRegs (v : Env) (n : Nat) : List Nat := (List.range v.lg).map (fun j => (n + j) % 16)

/-- A firing with lane results: register, output or control output as D says, and the predicate write.
Lanes below `lim` that are not assigned follow the mask policy, the others the tail policy. -/
def laneEffect (v : Env) (cyc lim n : Nat) (hdr : Nat → W32) (res : Nat → Option W32) : Effect :=
  let b := { baseEffect v cyc with
    preds := predWrite v (fun l => bitAt 0 ((res l).getD 0#32)), wroteP := predWritten v }
  match destOf v.w.d with
  | .v d => { b with regs := writeGroup v.lg d (regFill v d lim res) v.e.regs, wrote := destRegs v d }
  | .o _ => { b with toks := tokensOf n (payFill v lim res) hdr }
  | .y d => { b with bit := some (d, yBit v res) }
  | .none => b

def setBits (n : Nat) (x : BitVec n) (b : Bool) : List Nat → BitVec n
  | [] => x
  | i :: l => setBits n (setBit i x b) b l

/-- A 16-bit saturating credit (R247). -/
def satCredit (x : Int) : Int := satInt (-32768) 32767 x
/-- One free cycle's credits. -/
def addCredits (e : Elem) : Elem :=
  if e.sh1.isSome then
    { e with credit0 := satCredit (e.credit0 + e.weight0), credit1 := satCredit (e.credit1 + e.weight1) }
  else e
/-- A firing of a share that occupies k cycles is charged once (R247). -/
def chargeCredits (sh k : Nat) (e : Elem) : Elem :=
  if e.sh1.isSome then
    let c : Int := k * (e.weight0 + e.weight1)
    if sh = 1 then { e with credit1 := satCredit (e.credit1 - c) } else { e with credit0 := satCredit (e.credit0 - c) }
  else e

/-- The element's own part of a firing. -/
def firedElem (v : Env) (f : Effect) (e : Elem) : Elem :=
  let c := if mismatches v then { f.ctx with mismatch := true } else f.ctx
  let e1 := setCtx e v.share c
  let e2 := { e1 with
    regs := f.regs, preds := f.preds
    etR := setBits 16 e.etR f.tag f.wrote
    etP := setBits 8 e.etP f.tag f.wroteP
    arms := match f.arm with
      | some a => vec16Set e.arms v.slotNo (localIn v a)
      | none => e.arms
    busy := v.t + f.cyc, walkFault := none }
  if f.granted then chargeCredits v.share f.cyc (addCredits e2) else e2

/-- Popping tokens at a port of an element, whose channels the load `l` wires. -/
def popAt (l : Load) (s : State) (v : Env) (ctl : Bool) (port n : Nat) : State :=
  match findIn l ⟨.element v.rel v.el, port, ctl⟩ with
  | none => s
  | some (ch, br) => modBr s v.sp ch br (popN v.t n)

/-- Emitting tokens at an output of an element. -/
def emitAt (l : Load) (s : State) (v : Env) (ctl : Bool) (port : Nat) (stamp : Bool) (ts : List Token) : State :=
  match findOut l ⟨.element v.rel v.el, port, ctl⟩ with
  | none => s
  | some ch => modChan s v.sp ch (emitAll v.t stamp ts)

/-- The pops and the emissions of a firing. -/
def moveTokens (l : Load) (s : State) (v : Env) (f : Effect) : State :=
  let s2 := f.popI.foldl (fun s p => popAt l s v false p.1 p.2) s
  let s3 := f.popK.foldl (fun s p => popAt l s v true p 1) s2
  let s4 := if f.toks = [] then s3
    else emitAt l s3 v false f.out (stampsSeq v f.out)
      (f.toks.map (fun t => if f.tag then withET t true else t))
  match f.bit with
  | some (y, b) => emitAt l s4 v true y false [bitToken b]
  | none => s4

/-- An exit node has consumed a token with LS = 1: when every exit has, the load is Draining (R30). -/
def exitSeen (k : Nat) (l : Load) : Load :=
  let ex := l.exits.modify k (fun x => (x.1, x.2.1, true))
  { l with exits := ex, phase := if l.phase = .running ∧ ex.all (fun x => x.2.2) then .draining else l.phase }

/-- Tokens popped at data ports. -/
def poppedTokens (v : Env) (f : Effect) : List Token :=
  f.popI.flatMap (fun p => ((vec4Get v.ins p.1).getD []).take p.2)

/-- The location word of an element's slot (R195). -/
def slotLoc (v : Env) : Nat := locWord v.rel v.el v.slotNo 0 0

/-- An element stops with a fault and its event is delivered (R381). -/
def elemFault (s : State) (cl el : Nat) (r : FaultRec) : State :=
  postEvent (modEl s cl el (fun e => { e with fault := some r })) cl r

/-- A firing takes place, all of it in the cycle it begins (R35). -/
def applyEffect (s : State) (v : Env) (f : Effect) : State :=
  let s1 := modEl s v.cl v.el (firedElem v f)
  let s5 := match getLoad s v.sp with
    | some l => moveTokens l s1 v f
    | none => s1
  let s6 := match v.c.exit with
    | some k => if (poppedTokens v f).any (fun t => hdrLS t.hdr) then modLoad s5 v.sp (exitSeen k) else s5
    | none => s5
  let s7 := countBoth s6 v.cl 0x0010 1
  if mismatches v && v.tm then elemFault s7 v.cl v.el ⟨5, 0, 0, slotLoc v⟩ else s7

/-- A slot that the step names: it fires when it is eligible, else nothing happens. -/
def fireSlot (s : State) (op : Nat) (w : Slot) (f : Env → Effect) : Out :=
  match fireEnv s op w with
  | none => .next s
  | some v => .next (applyEffect s v (f v))

/-- A change of the firing operator, on every element that it occupies (R160, R162, R242). Without a Caldera block no operator
has clones: it occupies the firing element (R237, log 76). -/
def onOperator (s : State) (v : Env) (f : OpCtx → OpCtx) : State :=
  match getSpan s v.sp, ((getLoad s v.sp).filter (·.caldera)).bind (fun l => amGet l.ops v.c.opn) with
  | some x, some o =>
    o.elems.foldl (fun s p =>
      match absOf x p.1 with
      | some cl => modEl s cl p.2.1 (fun e => setCtx e p.2.2 (f (ctxOfShare e p.2.2)))
      | none => s) s
  | _, _ => s
/-- A firing that also changes its operator. -/
def fireOperator (s : State) (op : Nat) (w : Slot) (f : Env → Effect) (g : Env → OpCtx → OpCtx) : Out :=
  match fireEnv s op w with
  | none => .next s
  | some v => .next (onOperator (applyEffect s v { f v with ctx := g v v.c }) v (g v))

/-- The common firing: each guarded lane receives `f`, the format is `fmt`, `k` cycles per register (R84, R107). -/
def laneFire (s : State) (op : Nat) (w : Slot) (fmt : Option Nat) (k : Nat) (f : Env → Nat → W32) : Out :=
  fireSlot s op w (fun v => laneEffect v (k * v.lg) v.vl v.lg (header v fmt v.vl v.lg) (guardedRes v (f v)))

end Sys2Proof.Machine
end

