-- ==== Sys2Proof/Machine/Bramble.lean ====
section
/-! DEFINITION. The Bramble: patterns, ranks, the pattern instructions, image checks (R203 to R221). -/

namespace Sys2Proof.Machine

open Sys2Proof

/-! Membership (R203, R207 to R212). -/

/-- Inside a rectangle. -/
def inRect (r0 c0 : Int) (nr nc : Nat) (r c : Int) : Bool :=
  decide (r0 ≤ r) && decide (r < r0 + nr) && decide (c0 ≤ c) && decide (c < c0 + nc)

/-- Whether (r, c) is a member of a pattern. -/
def patMem : PatSet → Int → Int → Bool
  | .empty, _, _ => false
  | .band lo hi s, r, c => decide (-lo ≤ c - r - s) && decide (c - r - s ≤ hi)
  | .dband lo hi s d, r, c =>
    let q := c - r - s
    decide (q % d = 0) && decide (-lo ≤ q / d) && decide (q / d ≤ hi)
  | .bdiag br bc, r, c => decide (r / (br : Int) = c / (bc : Int))
  | .hash seed k t, r, c =>
    decide ((patHash32 (BitVec.ofNat 32 seed) (BitVec.ofInt 32 r) (BitVec.ofInt 32 c)).toNat % 2 ^ k < t)
  | .offs p dr dc, r, c => patMem p (r - dr) (c - dc)
  | .clip p r0 c0 nr nc, r, c => inRect r0 c0 nr nc r c && patMem p r c
  | .swap p, r, c => patMem p c r
  | .kron a b ra ca rb cb nra nca nrb ncb, r, c =>
    inRect 0 0 (nra * nrb) (nca * ncb) r c && patMem a (ra + r / (nrb : Int)) (ca + c / (ncb : Int))
      && patMem b (rb + r % (nrb : Int)) (cb + c % (ncb : Int))
  | .union a b r0 c0 nr nc clipped, r, c =>
    (!clipped || inRect r0 c0 nr nc r c) && (patMem a r c || patMem b r c)
  | .isect a b, r, c => patMem a r c && patMem b r c

/-- The history holds no HASH, UNION or ISECT (R217). -/
def patInv : PatSet → Bool
  | .empty | .band _ _ _ | .dband _ _ _ _ | .bdiag _ _ => true
  | .hash _ _ _ | .union _ _ _ _ _ _ _ | .isect _ _ => false
  | .offs p _ _ | .clip p _ _ _ _ | .swap p => patInv p
  | .kron a b _ _ _ _ _ _ _ _ => patInv a && patInv b

/-! Building (R207 to R212). -/

/-- DIL of an unclipped band; d = 1 changes nothing (R208). -/
def patDil (d : Nat) (p : PatReg) : PatReg :=
  match p.set with
  | .band lo hi s => if d = 1 then p else { p with set := .dband lo hi s d }
  | _ => p

/-- OFFS: a band or dilated band moves its diagonal offset (R208, R210). -/
def patOffs (dr dc : Int) (p : PatReg) : PatReg :=
  { set := match p.set with
      | .band lo hi s => .band lo hi (s + dc - dr)
      | .dband lo hi s d => .dband lo hi (s + dc - dr) d
      | q => .offs q dr dc
    ext := p.ext.map (fun e => { e with r0 := e.r0 + dr, c0 := e.c0 + dc }) }

/-- CLIP: the new extent keeps the origin of a clipped pattern (R210). -/
def patClip (nr nc : Nat) (p : PatReg) : PatReg :=
  let o := p.ext.map (fun e => (e.r0, e.c0)) |>.getD (0, 0)
  ⟨.clip p.set o.1 o.2 nr nc, some ⟨o.1, o.2, nr, nc⟩⟩

/-- SWAP: rows and columns change places (R208, R210). -/
def patSwapReg (p : PatReg) : PatReg :=
  { set := match p.set with
      | .band lo hi s => .band hi lo (-s)
      | .dband lo hi s d => .dband hi lo (-s) d
      | q => .swap q
    ext := p.ext.map (fun e => ⟨e.c0, e.r0, e.nc, e.nr⟩) }

/-- KRON of two clipped patterns (R211). -/
def patKron (a b : PatReg) : PatReg :=
  match a.ext, b.ext with
  | some x, some y =>
    ⟨.kron a.set b.set x.r0 x.c0 y.r0 y.c0 x.nr x.nc y.nr y.nc, some ⟨0, 0, x.nr * y.nr, x.nc * y.nc⟩⟩
  | _, _ => patRegReset

/-- UNION and ISECT take gA's extent (R212). -/
def patUnionReg (a b : PatReg) : PatReg :=
  match a.ext with
  | some e => ⟨.union a.set b.set e.r0 e.c0 e.nr e.nc true, a.ext⟩
  | none => ⟨.union a.set b.set 0 0 0 0 false, none⟩
def patIsectReg (a b : PatReg) : PatReg := ⟨.isect a.set b.set, a.ext⟩

/-! Counting and ranks (R213, R216). -/

/-- Members of row r of a clipped pattern, as column offsets. -/
def rowCols (p : PatSet) (e : Extent) (r : Int) : List Nat := (List.range e.nc).filter (fun i => patMem p r (e.c0 + i))
def rowCount (p : PatSet) (e : Extent) (r : Int) : Nat := (rowCols p e r).length
/-- N(P). -/
def patCount (p : PatSet) (e : Extent) : Nat :=
  (List.range e.nr).foldl (fun n k => n + rowCount p e (e.r0 + k)) 0
/-- Rank(r, c): members of earlier rows, and of row r before c (R216). -/
def patRank (p : PatSet) (e : Extent) (r c : Int) : Nat :=
  (List.range (r - e.r0).toNat).foldl (fun n k => n + rowCount p e (e.r0 + k)) 0
    + (List.range (c - e.c0).toNat).countP (fun i => patMem p r (e.c0 + i))

/-- The members of the line that holds (r, c) from there on: the rest of a row, or of a column (R213). -/
def lineFrom (p : PatSet) (e : Extent) (dir : Bool) (at_ : Int × Int) : List (Int × Int) :=
  if dir then
    ((List.range e.nr).map (fun i => (e.r0 + (i : Int), at_.2))).filter
      (fun q => decide (at_.1 ≤ q.1) && patMem p q.1 q.2)
  else
    ((List.range e.nc).map (fun i => (at_.1, e.c0 + (i : Int)))).filter
      (fun q => decide (at_.2 ≤ q.2) && patMem p q.1 q.2)
/-- Whether (r, c) is the first position of its line. -/
def lineStart (e : Extent) (dir : Bool) (at_ : Int × Int) : Bool :=
  if dir then decide (at_.1 = e.r0) else decide (at_.2 = e.c0)
/-- The first position of the next line, or none after the last. -/
def nextLine (e : Extent) (dir : Bool) (at_ : Int × Int) : Option (Int × Int) :=
  if dir then (if at_.2 + 1 < e.c0 + e.nc then some (e.r0, at_.2 + 1) else none)
  else (if at_.1 + 1 < e.r0 + e.nr then some (at_.1 + 1, e.c0) else none)

/-! Tokens (R215). -/

def coordLane (q : Int × Int) : W32 := BitVec.ofInt 16 q.1 ++ BitVec.ofInt 16 q.2
/-- Up to four coordinates with their ranks; under PVAL up to eight ranks, which the port turns into values. -/
def coordToken (p : PatSet) (e : Extent) (rb : W32) (pval lr : Bool) (qs : List (Int × Int)) : Token :=
  let rk (q : Int × Int) : W32 := rb + BitVec.ofNat 32 (patRank p e q.1 q.2)
  let lanes := if pval then qs.map rk else qs.flatMap (fun q => [coordLane q, rk q])
  ⟨vec8Of (fun i => lanes.getD i 0#32) 0, mkHdr 0 lr false false lanes.length 0 0⟩
def countToken (n : Nat) : Token := ⟨vec8Set lanesZero 0 (BitVec.ofNat 32 n), mkHdr 0 false false false 1 1 0⟩
def emptyLine : Token := ⟨lanesZero, mkHdr 0 true false true 0 0 0⟩
def emptyStream : Token := ⟨lanesZero, mkHdr 0 false true true 0 0 0⟩
def withLS (t : Token) : Token := { t with hdr := setBit 25 t.hdr true }

/-- A token leaves for the port; the newest is held back until it is known not to be the last. -/
def pushOut (t : Token) (c : GenCtx) : GenCtx := { c with out := c.out ++ c.last.toList, last := some t }

/-! The instructions: each acts on the context the step names. -/

def curCtx (s : State) : GenCtx := getCtx s s.cur.cl s.cur.ctx
/-- The context changes and IP moves on (R214). -/
def patNext (s : State) (f : GenCtx → GenCtx) : State :=
  modCtx s s.cur.cl s.cur.ctx (fun c => { f c with ip := c.ip + 1 })
/-- gG is written, from the registers as they stood. -/
def patWrite (s : State) (g : BitVec 3) (f : GenCtx → PatReg) : State :=
  patNext s (fun c => { c with g := vec8Set c.g g.toNat (f c) })
def gReg (c : GenCtx) (g : BitVec 3) : PatReg := vec8Get c.g g.toNat

/-- PVAL of the stream that runs on the context (R287). -/
def pvalOf (s : State) (cl : Nat) (c : GenCtx) : Bool :=
  match (getPort s cl c.port).q with
  | st :: _ => bitAt 4 (st.words.getD 8 0#64)
  | [] => false

/-- EMIT visits positions from the current coordinate until one token is formed; the last token of the
last line ends it and advances RB (R213, R215). -/
def emitStep (pval : Bool) (g : BitVec 3) (c : GenCtx) : GenCtx :=
  let p := gReg c g
  match p.ext with
  | none => { c with ip := c.ip + 1 }
  | some e =>
    let at_ := c.cur.getD (e.r0, e.c0)
    let rest := lineFrom p.set e c.dir at_
    let k := if pval then 8 else 4
    let more := rest.drop k
    let tok := if rest = [] then emptyLine else coordToken p.set e c.rb pval (decide (more = [])) (rest.take k)
    let c1 := pushOut tok c
    match more with
    | q :: _ => { c1 with cur := some q, inEmit := true }
    | [] =>
      match nextLine e c.dir at_ with
      | some q => { c1 with cur := some q, inEmit := true }
      | none => { c1 with cur := none, inEmit := false, rb := c.rb + BitVec.ofNat 32 (patCount p.set e), ip := c.ip + 1 }

/-- CNT (R213). -/
def cntStep (g : BitVec 3) (c : GenCtx) : GenCtx :=
  match (gReg c g).ext with
  | none => c
  | some e => pushOut (countToken (patCount (gReg c g).set e)) c

/-- LOOP (R214). -/
def loopStep (j n b : Nat) (c : GenCtx) : GenCtx :=
  let l := vec4Get c.l j
  if l + 1 < n then { c with l := vec4Set c.l j (l + 1), ip := c.ip - b }
  else { c with l := vec4Set c.l j 0, ip := c.ip + 1 }

/-- END: the held token leaves with LS = 1, or a bubble with LS = 1 where nothing was emitted (R215). -/
def endStep (c : GenCtx) : GenCtx :=
  { c with out := c.out ++ [match c.last with
      | some t => withLS t
      | none => emptyStream], last := none, finished := true }

/-- 12-bit fields that hold a value minus one, and signed fields. -/
def plus1 {n : Nat} (x : BitVec n) : Nat := x.toNat + 1

/-- BAND (R207). Pattern instruction writes an unclipped band. -/
def execBand (g : BitVec 3) (l : BitVec 12) (h : BitVec 12) (s : State) : Out :=
  .next (patWrite s g (fun _ => ⟨.band l.toNat h.toNat 0, none⟩))

/-- DIL (R208). Pattern instruction dilates an unclipped band. -/
def execDil (g : BitVec 3) (d : BitVec 12) (s : State) : Out :=
  .next (patWrite s g (fun c => patDil (plus1 d) (gReg c g)))

/-- BDIAG (R207). Pattern instruction writes a block-diagonal pattern. -/
def execBdiag (g : BitVec 3) (r : BitVec 12) (c : BitVec 12) (s : State) : Out :=
  .next (patWrite s g (fun _ => ⟨.bdiag (plus1 r) (plus1 c), none⟩))

/-- KRON (R211). Pattern instruction writes the Kronecker product of two clipped patterns. -/
def execKron (g : BitVec 3) (a : BitVec 3) (b : BitVec 3) (s : State) : Out :=
  .next (patWrite s g (fun x => patKron (gReg x a) (gReg x b)))

/-- HASH (R207). Pattern instruction writes a hashed pattern. -/
def execPatHash (g : BitVec 3) (p : BitVec 4) (k : BitVec 4) (t : BitVec 16) (s : State) : Out :=
  .next (patWrite s g (fun c =>
    ⟨.hash ((c.run.map (fun r => (r.params.getD p.toNat 0#32).toNat)).getD 0) (plus1 k) t.toNat, none⟩))

/-- OFFS (R210). Pattern instruction translates a pattern. -/
def execOffs (g : BitVec 3) (r : BitVec 12) (c : BitVec 12) (s : State) : Out :=
  .next (patWrite s g (fun x => patOffs r.toInt c.toInt (gReg x g)))

/-- CLIP (R210). Pattern instruction clips a pattern to an extent. -/
def execClip (g : BitVec 3) (r : BitVec 12) (c : BitVec 12) (s : State) : Out :=
  .next (patWrite s g (fun x => patClip (plus1 r) (plus1 c) (gReg x g)))

/-- UNION (R212). Pattern instruction writes the union of two patterns. -/
def execPatUnion (g : BitVec 3) (a : BitVec 3) (b : BitVec 3) (s : State) : Out :=
  .next (patWrite s g (fun x => patUnionReg (gReg x a) (gReg x b)))

/-- ISECT (R212). Pattern instruction writes the intersection of two patterns. -/
def execIsect (g : BitVec 3) (a : BitVec 3) (b : BitVec 3) (s : State) : Out :=
  .next (patWrite s g (fun x => patIsectReg (gReg x a) (gReg x b)))

/-- SWAP (R210). Pattern instruction transposes a pattern. -/
def execPatSwap (g : BitVec 3) (s : State) : Out :=
  .next (patWrite s g (fun x => patSwapReg (gReg x g)))

/-- BRAMBLE_CNT (R213). Pattern instruction emits a count token. -/
def execBrambleCnt (g : BitVec 3) (s : State) : Out :=
  .next (patNext s (cntStep g))

/-- EMIT (R213). Pattern instruction emits the coordinates and ranks of a pattern. Each step forms the next token. -/
def execEmit (g : BitVec 3) (s : State) : Out :=
  .next (modCtx s s.cur.cl s.cur.ctx (emitStep (pvalOf s s.cur.cl (curCtx s)) g))

/-- LOOP (R214). Pattern instruction counts a loop and branches back. -/
def execPatLoop (j : BitVec 2) (n : BitVec 12) (b : BitVec 10) (s : State) : Out :=
  .next (modCtx s s.cur.cl s.cur.ctx (loopStep j.toNat (plus1 n) b.toNat))

/-- END (R214). Pattern instruction ends the stream. -/
def execPatEnd (s : State) : Out :=
  .next (modCtx s s.cur.cl s.cur.ctx endStep)

/-- The meaning of a pattern operation, the same definitions that exec calls. -/
def runPattern (p : PatOp) (s : State) : Out :=
  match p with
  | .band g l h => execBand g l h s
  | .dil g d => execDil g d s
  | .bdiag g r c => execBdiag g r c s
  | .kron g a b => execKron g a b s
  | .hash g p k t => execPatHash g p k t s
  | .offs g r c => execOffs g r c s
  | .clip g r c => execClip g r c s
  | .union g a b => execPatUnion g a b s
  | .isect g a b => execIsect g a b s
  | .swap g => execPatSwap g s
  | .cnt g => execBrambleCnt g s
  | .emit g => execEmit g s
  | .loop j n b => execPatLoop j n b s
  | .fin => execPatEnd s

/-- A context that runs a stream and whose tokens have all been taken executes its next instruction. -/
def brambleStep (s : State) (cl ctx : Nat) : Out :=
  let c := getCtx s cl ctx
  match c.run with
  | none => .next s
  | some b =>
    let active := match spanAt s cl with
      | some (_, x) => spanActive x
      | none => false
    if c.finished || !c.out.isEmpty || !active then .next s
    else
      match (b.words[c.ip]?).bind decodePatOp with
      | none => .next s
      | some p => runPattern p { s with cur := { s.cur with cl := cl, ctx := ctx } }

/-! The checks of PATLD (R220). -/

/-- What the walk tracks of a register: extent size, kind, invertible. -/
structure PatAttr where
  size : Option (Nat × Nat)
  kind : Nat
  inv : Bool
  deriving DecidableEq, Repr

/-- The walk: attributes, one snapshot per word, the loops seen, whether every EMIT is invertible. -/
structure PatWalk where
  g : Vec8 (Option PatAttr)
  snaps : List (Vec8 (Option PatAttr))
  loops : List (Nat × Nat × Nat)
  inv : Bool
  deriving DecidableEq, Repr

def patReads (p : PatOp) : List (BitVec 3) :=
  match p with
  | .dil g _ | .offs g _ _ | .clip g _ _ | .swap g | .cnt g | .emit g => [g]
  | .kron _ a b | .union _ a b | .isect _ a b => [a, b]
  | _ => []

def attrOf (k : PatWalk) (g : BitVec 3) : PatAttr := (vec8Get k.g g.toNat).getD ⟨none, 0, true⟩
def setAttr (k : PatWalk) (g : BitVec 3) (a : PatAttr) : PatWalk := { k with g := vec8Set k.g g.toNat (some a) }

/-- Check 19 (R220). -/
def patCond (np : Nat) (k : PatWalk) (p : PatOp) : Bool :=
  match p with
  | .dil g _ => decide ((attrOf k g).kind = 1) && (attrOf k g).size.isNone
  | .kron _ a b =>
    match (attrOf k a).size, (attrOf k b).size with
    | some x, some y => decide (x.1 * y.1 ≤ 65536) && decide (x.2 * y.2 ≤ 65536)
    | _, _ => false
  | .union _ a b | .isect _ a b => decide ((attrOf k a).size = (attrOf k b).size)
  | .cnt g | .emit g => (attrOf k g).size.isSome
  | .hash _ q _ _ => decide (q.toNat < np)
  | .loop _ _ b => decide (b.toNat ≠ 0)
  | _ => true

/-- The attributes after a word. A KRON, UNION or ISECT has a kind of its own, 4, 6 or 7: no rule names the kind that check 21
compares there (log 80). -/
def patTrack (k : PatWalk) (p : PatOp) : PatWalk :=
  match p with
  | .band g _ _ => setAttr k g ⟨none, 1, true⟩
  | .dil g d => setAttr k g { attrOf k g with kind := if d = 0#12 then 1 else 2 }
  | .bdiag g _ _ => setAttr k g ⟨none, 3, true⟩
  | .kron g a b =>
    match (attrOf k a).size, (attrOf k b).size with
    | some x, some y => setAttr k g ⟨some (x.1 * y.1, x.2 * y.2), 4, (attrOf k a).inv && (attrOf k b).inv⟩
    | _, _ => k
  | .hash g _ _ _ => setAttr k g ⟨none, 5, false⟩
  | .offs _ _ _ => k
  | .clip g r c => setAttr k g { attrOf k g with size := some (plus1 r, plus1 c) }
  | .union g a _ => setAttr k g ⟨(attrOf k a).size, 6, false⟩
  | .isect g a _ => setAttr k g ⟨(attrOf k a).size, 7, false⟩
  | .swap g => setAttr k g { attrOf k g with size := (attrOf k g).size.map (fun x => (x.2, x.1)) }
  | .cnt _ => k
  | .emit g => { k with inv := k.inv && (attrOf k g).inv }
  | .loop _ _ _ => k
  | .fin => k

/-- Check 21 for a LOOP at word i. A loop's body holds its own LOOP word: R220 does not say whether it does (log 80). -/
def loopOk (k : PatWalk) (i j b : Nat) : Bool :=
  decide (b ≤ i) && k.loops.all (fun l =>
    !(decide (i - b ≤ l.2.1) && (decide (l.1 < i - b) || decide (l.2.2 = j))))
  && decide (k.snaps[i - b]? = some k.g)

/-- The first failing check of the words and the index of its word, or the walk (R220). -/
def patWords (np ni : Nat) : PatWalk → Nat → List W32 → Except (Nat × Nat) PatWalk
  | k, _, [] => .ok k
  | k0, i, w :: ws =>
    let k := { k0 with snaps := k0.snaps ++ [k0.g] }
    let opc := field 31 27 w
    if opc = 0 ∨ 14 < opc then .error (17, i)
    else
      match decodePatOp w with
      | none => .error (18, i)
      | some p =>
        if (patReads p).any (fun g => (vec8Get k.g g.toNat).isNone) then .error (20, i)
        else if !patCond np k p then .error (19, i)
        else
          let l := match p with
            | .loop j _ b => if loopOk k i j.toNat b.toNat then some (k.loops ++ [(i - b.toNat, i, j.toNat)]) else none
            | _ => some k.loops
          match l with
          | none => .error (21, i)
          | some ls =>
            if decide (p = .fin) != decide (i + 1 = ni) then .error (22, i)
            else patWords np ni (patTrack { k with loops := ls } p) (i + 1) ws

def patWalk0 : PatWalk := ⟨vec8Fill none, [], [], true⟩

end Sys2Proof.Machine
end

