-- ==== Sys2Proof/Machine/Float.lean ====
section
/-! DEFINITION. Number formats, exact values and the one rounding (R45 to R65). -/

namespace Sys2Proof.Machine

open Sys2Proof

/-- An exact value: an unbounded real, a signed zero, a signed infinity or NaN (R58).
`fin neg num den` is the non-zero value ±num/den, with num and den positive. -/
inductive Exact where
  | nan
  | inf (neg : Bool)
  | zero (neg : Bool)
  | fin (neg : Bool) (num den : Nat)
  deriving DecidableEq, Repr

/-- The rounding modes of R57. -/
inductive RMode where
  | rne
  | rz
  | rdn
  | rup
  deriving DecidableEq, Repr

/-- The 2-bit codes of R57. -/
def RMode.ofCode (n : Nat) : RMode :=
  match n with
  | 0 => .rne
  | 1 => .rz
  | 2 => .rdn
  | _ => .rup

/-- How a format treats its all-ones exponent (R45). -/
inductive Specials where
  /-- infinities and NaNs as IEEE 754 -/
  | ieee
  /-- only the all-ones pattern is NaN, no infinity -/
  | nanOnly
  /-- neither -/
  | none
  deriving DecidableEq, Repr

/-- A floating-point format: exponent and fraction widths, bias, specials (R45). -/
structure FFmt where
  e : Nat
  m : Nat
  bias : Nat
  sp : Specials
  deriving DecidableEq, Repr

def fmtF32 : FFmt := ⟨8, 23, 127, .ieee⟩
def fmtBF16 : FFmt := ⟨8, 7, 127, .ieee⟩
def fmtF16 : FFmt := ⟨5, 10, 15, .ieee⟩
def fmtE4M3 : FFmt := ⟨4, 3, 7, .nanOnly⟩
def fmtE5M2 : FFmt := ⟨5, 2, 15, .ieee⟩
def fmtE2M1 : FFmt := ⟨2, 1, 1, .none⟩
/-- The F32 patterns whose bits [4:0] are zero, shifted right by 5: the grid of RoundD (R158). -/
def fmtRoundD : FFmt := ⟨8, 18, 127, .ieee⟩

/-- Width in bits. -/
def fmtWidth (f : FFmt) : Nat := 1 + f.e + f.m
/-- The sign bit. -/
def fmtSign (f : FFmt) (neg : Bool) : Nat := b2n neg * 2 ^ (f.e + f.m)
/-- The magnitude pattern of the largest finite value (R46). -/
def fmtMaxFin (f : FFmt) : Nat :=
  match f.sp with
  | .ieee => (2 ^ f.e - 1) * 2 ^ f.m - 1
  | .nanOnly => 2 ^ (f.e + f.m) - 2
  | .none => 2 ^ (f.e + f.m) - 1
/-- The canonical NaN of R46; E2M1 has none and takes +0 (R59 rule 1). -/
def fmtNaN (f : FFmt) : Nat :=
  match f.sp with
  | .ieee => (2 ^ f.e - 1) * 2 ^ f.m + 2 ^ (f.m - 1)
  | .nanOnly => 2 ^ (f.e + f.m) - 1
  | .none => 0
/-- The pattern of an infinity, as R59 rule 2 gives it per format. -/
def fmtInf (f : FFmt) (neg : Bool) : Nat :=
  match f.sp with
  | .ieee => fmtSign f neg + (2 ^ f.e - 1) * 2 ^ f.m
  | .nanOnly => fmtNaN f
  | .none => fmtSign f neg + fmtMaxFin f

/-- ±num/den times 2^k. -/
def exScale (neg : Bool) (num den : Nat) (k : Int) : Exact :=
  if num = 0 then .zero neg
  else if 0 ≤ k then .fin neg (num * 2 ^ k.toNat) den else .fin neg num (den * 2 ^ (-k).toNat)

/-- Val(bits, fmt) of a floating-point pattern (R45, R58). -/
def fval (f : FFmt) (bits : Nat) : Exact :=
  let neg := bits.testBit (f.e + f.m)
  let ee := (bits / 2 ^ f.m) % 2 ^ f.e
  let mm := bits % 2 ^ f.m
  let allOnes := ee = 2 ^ f.e - 1
  if f.sp = .ieee ∧ allOnes then (if mm = 0 then .inf neg else .nan)
  else if f.sp = .nanOnly ∧ allOnes ∧ mm = 2 ^ f.m - 1 then .nan
  else if ee = 0 then exScale neg mm 1 (1 - (f.bias : Int) - f.m)
  else exScale neg (2 ^ f.m + mm) 1 ((ee : Int) - f.bias - f.m)

/-- floor(log2 (num/den)) for positive num and den. -/
def ratLog2 (num den : Nat) : Int :=
  let l : Int := (Nat.log2 num : Int) - (Nat.log2 den : Int)
  let ge : Bool := if 0 ≤ l then decide (den * 2 ^ l.toNat ≤ num) else decide (den ≤ num * 2 ^ (-l).toNat)
  if ge then l else l - 1

/-- num/den rounded to an integer under a mode; `neg` is the sign of the value. -/
def roundQuot (mode : RMode) (neg : Bool) (num den : Nat) : Nat :=
  let k := num / den
  let r := num % den
  let up : Bool :=
    match mode with
    | .rne => decide (den < 2 * r) || (decide (2 * r = den) && k % 2 == 1)
    | .rz => false
    | .rdn => neg && decide (0 < r)
    | .rup => !neg && decide (0 < r)
  if up then k + 1 else k

/-- What an overflow gives before rule 2 (R59 rule 5): true for infinity. -/
def overflowInf (mode : RMode) (neg : Bool) : Bool :=
  match mode with
  | .rne => true
  | .rz => false
  | .rdn => neg
  | .rup => !neg

/-- The magnitude pattern of |y| of R59 rule 4 on the grid extended upward without limit. -/
def gridPattern (f : FFmt) (mode : RMode) (neg : Bool) (num den : Nat) : Nat :=
  let emin : Int := 1 - (f.bias : Int)
  let e := max (ratLog2 num den) emin
  let qe : Int := e - f.m
  let k := if 0 ≤ qe then roundQuot mode neg num (den * 2 ^ qe.toNat)
           else roundQuot mode neg (num * 2 ^ (-qe).toNat) den
  ((e + f.bias).toNat * 2 ^ f.m + k) - 2 ^ f.m

/-- Round(x, fmt, mode) of R59, as a bit pattern. -/
def fround (f : FFmt) (mode : RMode) (x : Exact) : Nat :=
  match x with
  | .nan => fmtNaN f
  | .inf neg => fmtInf f neg
  | .zero neg => fmtSign f neg
  | .fin neg num den =>
    let p := gridPattern f mode neg num den
    if p ≤ fmtMaxFin f then fmtSign f neg + p
    else if overflowInf mode neg then fmtInf f neg
    else fmtSign f neg + fmtMaxFin f

/-- The saturating narrowing of R119: overflow and infinities become the largest finite value. -/
def froundSat (f : FFmt) (mode : RMode) (x : Exact) : Nat :=
  match x with
  | .nan => fmtNaN f
  | .inf neg => fmtSign f neg + fmtMaxFin f
  | .zero neg => fmtSign f neg
  | .fin neg num den =>
    let p := gridPattern f mode neg num den
    fmtSign f neg + min p (fmtMaxFin f)

/-! Exact arithmetic with IEEE 754's special values (R57, R64, R110). -/

def exNeg : Exact → Exact
  | .nan => .nan
  | .inf n => .inf !n
  | .zero n => .zero !n
  | .fin n a b => .fin (!n) a b

def exAbs : Exact → Exact
  | .nan => .nan
  | .inf _ => .inf false
  | .zero _ => .zero false
  | .fin _ a b => .fin false a b

def exIsNaN : Exact → Bool
  | .nan => true
  | _ => false

/-- The signed numerator of a finite non-zero value. -/
def signedNum (neg : Bool) (num : Nat) : Int := if neg then -(num : Int) else num

/-- The exact value of an integer over a positive denominator; an exact zero takes sign `zneg`. -/
def exOfRat (zneg : Bool) (s : Int) (den : Nat) : Exact :=
  if s = 0 then .zero zneg else .fin (decide (s < 0)) s.natAbs den

/-- Exact sum; an exact zero of opposite signs is −0 under RDN and +0 otherwise (R57). -/
def exAdd (mode : RMode) (x y : Exact) : Exact :=
  match x, y with
  | .nan, _ => .nan
  | _, .nan => .nan
  | .inf a, .inf b => if a = b then .inf a else .nan
  | .inf a, _ => .inf a
  | _, .inf b => .inf b
  | .zero a, .zero b => if a = b then .zero a else .zero (decide (mode = .rdn))
  | .zero _, .fin n a b => .fin n a b
  | .fin n a b, .zero _ => .fin n a b
  | .fin n a b, .fin n' a' b' =>
    if b = b' then exOfRat (decide (mode = .rdn)) (signedNum n a + signedNum n' a') b
    else exOfRat (decide (mode = .rdn)) (signedNum n a * b' + signedNum n' a' * b) (b * b')

def exSub (mode : RMode) (x y : Exact) : Exact := exAdd mode x (exNeg y)

/-- Exact product (R110). -/
def exMul (x y : Exact) : Exact :=
  match x, y with
  | .nan, _ => .nan
  | _, .nan => .nan
  | .inf _, .zero _ => .nan
  | .zero _, .inf _ => .nan
  | .inf a, .inf b => .inf (a != b)
  | .inf a, .fin n _ _ => .inf (a != n)
  | .fin n _ _, .inf b => .inf (n != b)
  | .zero a, .zero b => .zero (a != b)
  | .zero a, .fin n _ _ => .zero (a != n)
  | .fin n _ _, .zero b => .zero (n != b)
  | .fin n a b, .fin n' a' b' => .fin (n != n') (a * a') (b * b')

/-- Exact quotient by a finite non-zero value; other divisors give NaN and are never asked for. -/
def exDiv (x y : Exact) : Exact :=
  match x, y with
  | .fin n a b, .fin n' a' b' => .fin (n != n') (a * b') (b * a')
  | .zero a, .fin n _ _ => .zero (a != n)
  | .inf a, .fin n _ _ => .inf (a != n)
  | _, _ => .nan

/-- x < y on exact values, zeros equal; false where either is NaN. -/
def exLt (x y : Exact) : Bool :=
  match x, y with
  | .nan, _ => false
  | _, .nan => false
  | .inf a, .inf b => a && !b
  | .inf a, _ => a
  | _, .inf b => !b
  | .zero _, .zero _ => false
  | .zero _, .fin n _ _ => !n
  | .fin n _ _, .zero _ => n
  | .fin n a b, .fin n' a' b' => decide (signedNum n a * b' < signedNum n' a' * b)

/-- x = y on exact values; +0 = −0; false where either is NaN. -/
def exEq (x y : Exact) : Bool :=
  match x, y with
  | .nan, _ => false
  | _, .nan => false
  | .inf a, .inf b => a == b
  | .zero _, .zero _ => true
  | .fin n a b, .fin n' a' b' => decide (signedNum n a * b' = signedNum n' a' * b)
  | _, _ => false

def exLe (x y : Exact) : Bool := exLt x y || exEq x y

/-- An integer as an exact value; an integer zero is +0 (R121). -/
def exOfInt (s : Int) : Exact := exOfRat false s 1

/-- 2^k as an exact value. -/
def exPow2 (k : Int) : Exact := exScale false 1 1 k

/-- RoundInt then Sat (R120): NaN gives 0, infinities the end of the range on their side. -/
def roundIntSat (mode : RMode) (lo hi : Int) (x : Exact) : Int :=
  match x with
  | .nan => 0
  | .inf neg => if neg then lo else hi
  | .zero _ => satInt lo hi 0
  | .fin neg num den => satInt lo hi (signedNum neg (roundQuot mode neg num den))

/-- Val of an F32 lane. -/
def f32 (x : W32) : Exact := fval fmtF32 x.toNat
/-- Round to an F32 lane. -/
def toF32 (mode : RMode) (x : Exact) : W32 := BitVec.ofNat 32 (fround fmtF32 mode x)
/-- The canonical F32 NaN. -/
def nanF32 : W32 := 0x7FC00000#32

/-- An E8M0 scale (R49). -/
def valE8M0 (e : Nat) : Exact := if e % 256 = 0xFF then .nan else exPow2 ((e % 256 : Nat) - (127 : Int))

/-- Val of an MX4 element under its block scale (R50). -/
def valMX4 (e code : Nat) : Exact := exMul (valE8M0 e) (fval fmtE2M1 (code % 16))

/-- Val of a QG element: scale times (q − z) (R51). -/
def valQG (scale : Nat) (q z : Nat) : Exact :=
  match fval fmtF16 scale with
  | .nan => .nan
  | .inf neg => if q = z then .nan else .inf (neg != decide (q < z))
  | s => exMul s (exOfInt ((q : Int) - z))

/-- The element formats of tokens and island operands (R17). -/
def fmtOfCode (c : Nat) : FFmt :=
  match c with
  | 1 => fmtF32
  | 2 => fmtBF16
  | 3 => fmtF16
  | 4 => fmtE4M3
  | 5 => fmtE5M2
  | _ => fmtE2M1

end Sys2Proof.Machine
end

