-- ==== Sys2Proof/Machine/Special.lean ====
section
/-! DEFINITION. The six special functions, correctly rounded (R130 to R132).
RCP and RSQ are exact. The value of each other is enclosed in a bracket of two rationals; where both round to one pattern
that pattern is the result, and else the bracket is narrowed (log 12). -/

namespace Sys2Proof.Machine

open Sys2Proof

/-- A bracket [lo, hi] of non-negative fixed-point numbers with p fraction bits. -/
structure Bracket where
  lo : Nat
  hi : Nat
  deriving DecidableEq, Repr

/-- A bracket of the exact quotient num/den. -/
def brOfRat (p num den : Nat) : Bracket := ⟨num * 2 ^ p / den, num * 2 ^ p / den + 1⟩
/-- Terms of a series that p bits need. -/
def spTerms (p : Nat) : Nat := p / 3 + 8

/-- The sum of the terms r^k/k! from the k-th on, `n` of them, with the tail bound added above; the k-th is `t`. -/
def expSum (p : Nat) (r : Bracket) : Nat → Nat → Bracket → Bracket
  | 0, _, t => ⟨0, 2 * t.hi + 1⟩
  | n + 1, k, t =>
    let rest := expSum p r n (k + 1) ⟨t.lo * r.lo / (2 ^ p * (k + 1)), t.hi * r.hi / (2 ^ p * (k + 1)) + 1⟩
    ⟨t.lo + rest.lo, t.hi + rest.hi⟩
/-- e^r for a bracket r below 1. -/
def expSmall (p : Nat) (r : Bracket) : Bracket := expSum p r (spTerms p) 0 ⟨2 ^ p, 2 ^ p⟩

/-- Σ z^(2k+1)/(2k+1), `n` terms from the k-th, with the tail bound added above; `q` is z^(2k+1). -/
def atanhSum (p : Nat) (zz : Bracket) : Nat → Nat → Bracket → Bracket
  | 0, _, q => ⟨0, 2 * q.hi + 1⟩
  | n + 1, k, q =>
    let rest := atanhSum p zz n (k + 1) ⟨q.lo * zz.lo / 2 ^ p, q.hi * zz.hi / 2 ^ p + 1⟩
    ⟨q.lo / (2 * k + 1) + rest.lo, q.hi / (2 * k + 1) + 1 + rest.hi⟩
/-- ln m = 2 · atanh((m − 1)/(m + 1)) for the rational m = num/den in [1, 2]. -/
def lnRat (p num den : Nat) : Bracket :=
  let z := brOfRat p (num - den) (num + den)
  let s := atanhSum p ⟨z.lo * z.lo / 2 ^ p, z.hi * z.hi / 2 ^ p + 1⟩ (spTerms p) 0 z
  ⟨2 * s.lo, 2 * s.hi⟩
def ln2 (p : Nat) : Bracket := lnRat p 2 1

/-- e^y for the non-negative rational y = num/den. -/
def expRat (p num den : Nat) : Bracket :=
  let y := brOfRat p num den
  let l := ln2 p
  let k := y.lo / l.hi
  let e := expSmall p ⟨y.lo - k * l.hi, y.hi - k * l.lo⟩
  ⟨e.lo * 2 ^ k, e.hi * 2 ^ k⟩
/-- 2^y for the non-negative rational y = num/den. -/
def exp2Rat (p num den : Nat) : Bracket :=
  let l := ln2 p
  let e := expSmall p ⟨num % den * l.lo / den, num % den * l.hi / den + 1⟩
  ⟨e.lo * 2 ^ (num / den), e.hi * 2 ^ (num / den)⟩
/-- log2 m for the rational m = num/den in [1, 2). -/
def log2Mant (p num den : Nat) : Bracket :=
  let m := lnRat p num den
  let l := ln2 p
  ⟨m.lo * 2 ^ p / l.hi, m.hi * 2 ^ p / l.lo + 1⟩

/-- The patterns that the rationals a/b and c/d round to. -/
def roundEnds (neg : Bool) (a b c d : Nat) : W32 × W32 :=
  (if a = 0 then toF32 .rne (.zero neg) else toF32 .rne (.fin neg a b), toF32 .rne (.fin neg c d))
/-- The pattern that both ends of a bracket round to, in the first precision of a list in which they agree; in the last one
the lower end's. -/
def settleAt (f : Nat → W32 × W32) : List Nat → W32
  | [] => 0#32
  | p :: ps =>
    forced (f p).1.toNat (fun lo => if ps = [] ∨ lo = (f p).2.toNat then BitVec.ofNat 32 lo else settleAt f ps)
def settle (f : Nat → W32 × W32) : W32 := settleAt f [96, 192, 384, 1024]

/-- Integer square root by bits: `r` holds the bits found so far. -/
def sqrtBits : Nat → Nat → Nat → Nat
  | 0, r, _ => r
  | i + 1, r, n => let t := r + 2 ^ i; sqrtBits i (if t * t ≤ n then t else r) n

/-- RCP.F32 (R130, R131). -/
def rcpF32 (x : W32) : W32 :=
  match f32 x with
  | .nan => nanF32
  | .inf n => toF32 .rne (.zero n)
  | .zero n => toF32 .rne (.inf n)
  | .fin n a b => toF32 .rne (.fin n b a)

/-- RSQ.F32 (R130, R131). An inexact value lies between s and s + 1 over 2^160; no boundary of rounding does, so the middle
rounds as it does. -/
def rsqF32 (x : W32) : W32 :=
  match f32 x with
  | .nan => nanF32
  | .inf n => if n then nanF32 else toF32 .rne (.zero false)
  | .zero n => toF32 .rne (.inf n)
  | .fin true _ _ => nanF32
  | .fin false a b =>
    let s := sqrtBits 240 0 (b * 2 ^ 320 / a)
    if s * s * a = b * 2 ^ 320 then toF32 .rne (.fin false s (2 ^ 160))
    else toF32 .rne (.fin false (2 * s + 1) (2 ^ 161))

/-- EX2.F32 (R130 to R132). -/
def ex2F32 (x : W32) : W32 :=
  match f32 x with
  | .nan => nanF32
  | .inf n => if n then 0#32 else toF32 .rne (.inf false)
  | .zero _ => 0x3F800000#32
  | .fin n a b =>
    if n ∧ 150 * b ≤ a then 0#32
    else if !n ∧ 128 * b ≤ a then toF32 .rne (.inf false)
    else if a % b = 0 then toF32 .rne (exPow2 (signedNum n (a / b)))
    else
      settle (fun p =>
        let e := exp2Rat p a b
        if n then roundEnds false (2 ^ p) e.hi (2 ^ p) e.lo else roundEnds false e.lo (2 ^ p) e.hi (2 ^ p))

/-- LG2.F32 (R130 to R132). -/
def lg2F32 (x : W32) : W32 :=
  match f32 x with
  | .nan => nanF32
  | .inf n => if n then nanF32 else toF32 .rne (.inf false)
  | .zero _ => toF32 .rne (.inf true)
  | .fin true _ _ => nanF32
  | .fin false a b =>
    let e := ratLog2 a b
    let num := if 0 ≤ e then a else a * 2 ^ (-e).toNat
    let den := if 0 ≤ e then b * 2 ^ e.toNat else b
    if num = den then toF32 .rne (exOfInt e)
    else
      settle (fun p =>
        let m := log2Mant p num den
        if 0 ≤ e then roundEnds false (e.toNat * 2 ^ p + m.lo) (2 ^ p) (e.toNat * 2 ^ p + m.hi) (2 ^ p)
        else roundEnds true ((-e).toNat * 2 ^ p - m.hi) (2 ^ p) ((-e).toNat * 2 ^ p - m.lo) (2 ^ p))

/-- TANH.F32 (R130 to R132). -/
def tanhF32 (x : W32) : W32 :=
  match f32 x with
  | .nan => nanF32
  | .inf n => toF32 .rne (.fin n 1 1)
  | .zero n => toF32 .rne (.zero n)
  | .fin n a b =>
    if 19 * b ≤ 2 * a then toF32 .rne (.fin n 1 1)
    else if a * 4096 < b then x
    else
      settle (fun p =>
        let e := expRat p (2 * a) b
        roundEnds n (e.lo - 2 ^ p) (e.lo + 2 ^ p) (e.hi - 2 ^ p) (e.hi + 2 ^ p))

/-- SIGM.F32 (R130 to R132). -/
def sigmF32 (x : W32) : W32 :=
  match f32 x with
  | .nan => nanF32
  | .inf n => if n then 0#32 else 0x3F800000#32
  | .zero _ => 0x3F000000#32
  | .fin n a b =>
    if n ∧ 104 * b ≤ a then 0#32
    else if !n ∧ 18 * b ≤ a then 0x3F800000#32
    else
      settle (fun p =>
        let e := expRat p a b
        if n then roundEnds false (2 ^ p) (2 ^ p + e.hi) (2 ^ p) (2 ^ p + e.lo)
        else roundEnds false e.lo (e.lo + 2 ^ p) e.hi (e.hi + 2 ^ p))

end Sys2Proof.Machine
end

