-- ==== Sys2Proof/Machine/ElemFloat.lean ====
section
/-! DEFINITION. Element floating-point, conversion, quantisation and special functions, 0x60 to 0x91 (R107 to R132). -/

namespace Sys2Proof.Machine

open Sys2Proof

/-- The rounding mode of a slot. -/
def rmOf (v : Env) : RMode := RMode.ofCode (rmCode v)

/-- a × b + d with one rounding, ∞ × 0 being NaN (R110). -/
def exFma (m : RMode) (a b d : Exact) : Exact := exAdd m (exMul a b) d

/-- MIN.F32 and MAX.F32 (R111): numbers before NaNs, −0 below +0. `key` orders the patterns. -/
def orderKey (x : W32) : Int := if x.msb then -((x.toNat : Int) - 2147483648) - 1 else x.toNat
def isNaN32 (x : W32) : Bool := exIsNaN (f32 x)
def minF (a b : W32) : W32 :=
  if isNaN32 a then (if isNaN32 b then nanF32 else b)
  else if isNaN32 b then a else if orderKey b < orderKey a then b else a
def maxF (a b : W32) : W32 :=
  if isNaN32 a then (if isNaN32 b then nanF32 else b)
  else if isNaN32 b then a else if orderKey a < orderKey b then b else a

/-- Both 16-bit elements of a lane, each rounded once (R116). -/
def pack16 (f : FFmt) (m : RMode) (g : Exact → Exact → Exact → Exact) (d a b : W32) : W32 :=
  let e (x : W32) (k : Nat) : Exact := fval f (x.toNat / 2 ^ (16 * k) % 65536)
  BitVec.ofNat 32 (fround f m (g (e d 0) (e a 0) (e b 0)) + fround f m (g (e d 1) (e a 1) (e b 1)) * 65536)

/-- DOT.BF16 (R117). The sum of two products −0 is −0, and with D = −0 so is the result (log 71). -/
def dotBf16 (m : RMode) (d a b : W32) : W32 :=
  let e (x : W32) (k : Nat) : Exact := fval fmtBF16 (x.toNat / 2 ^ (16 * k) % 65536)
  toF32 m (exAdd m (f32 d) (exAdd m (exMul (e a 0) (e b 0)) (exMul (e a 1) (e b 1))))

/-- REDADD.F32 (R114). -/
def redaddF (v : Env) : W32 :=
  match guarded v with
  | [] => 0#32
  | g :: gs =>
    let r := gs.foldl (fun r l => toF32 (rmOf v) (exAdd (rmOf v) (f32 r) (f32 (laneA v l)))) (laneA v g)
    if isNaN32 r then nanF32 else r
/-- REDMAX.F32 (R115). -/
def redmaxF (v : Env) : W32 :=
  match guarded v with
  | [] => 0#32
  | g :: gs => gs.foldl (fun r l => maxF r (laneA v l)) (if isNaN32 (laneA v g) then nanF32 else laneA v g)

/-- CVT and CVT.SAT by selector (R118, R119). -/
def cvtLane (sat : Bool) (m : RMode) (sel : Nat) (a : W32) : W32 :=
  let nar (f : FFmt) (w j : Nat) : W32 :=
    BitVec.ofNat 32 ((if sat then froundSat f m (f32 a) else fround f m (f32 a)) * 2 ^ (w * j))
  let wid (f : FFmt) (w j : Nat) : W32 := toF32 m (fval f (a.toNat / 2 ^ (w * j) % 2 ^ w))
  if sel < 2 then nar fmtBF16 16 sel
  else if sel < 6 then nar fmtF16 16 (sel - 4)
  else if sel < 12 then nar fmtE4M3 8 (sel - 8)
  else if sel < 16 then nar fmtE5M2 8 (sel - 12)
  else if sel < 18 then wid fmtBF16 16 (sel - 16)
  else if sel < 22 then wid fmtF16 16 (sel - 20)
  else if sel < 28 then wid fmtE4M3 8 (sel - 24)
  else wid fmtE5M2 8 (sel - 28)
/-- The result format of a selector (R118). -/
def cvtFormat (sel : Nat) : Nat :=
  if sel < 2 then 2 else if sel < 6 then 3 else if sel < 12 then 4 else if sel < 16 then 5 else 1
def cvtFire (s : State) (op : Nat) (w : Slot) (sat : Bool) : Out :=
  laneFire s op w (some (cvtFormat w.b.toNat)) 1 (fun v l => cvtLane sat (rmOf v) v.w.b.toNat (laneA v l))

/-- QG width of the operator (R122). -/
def gcWidth (v : Env) : Nat := if bitAt 0 v.c.gc then 8 else 4
/-- Codes per token lane of QG and of MX4 (R124). -/
def qgPack (v : Env) : Nat := 32 / gcWidth v
/-- Zero point and scale of a group record (R52, R125). -/
def qgScale (v : Env) : Nat := (laneB v 0).toNat % 65536
def qgZero (v : Env) : Nat := (laneB v 0).toNat / 65536 % 2 ^ gcWidth v

/-- One code of QNT.QG (R125). -/
def qntQgCode (v : Env) (e : Nat) : Nat :=
  let z := qgZero v
  let s := fval fmtF16 (qgScale v)
  let a := f32 (laneA v e)
  match s with
  | .fin n num den =>
    if guardL v e && !exIsNaN a then
      let q := exDiv a (.fin n num den)
      let m := 2 ^ gcWidth v - 1
      match q with
      | .inf neg => if neg then 0 else m
      | .nan => z
      | .zero _ => z
      | .fin neg p d => (satInt 0 m (signedNum neg (roundQuot (rmOf v) neg p d) + z)).toNat
    else z
  | _ => z

/-- One code of QNT.MX4 (R128). -/
def qntMx4Code (v : Env) (e : Nat) : Nat :=
  let sc := (laneB v 0).toNat % 256
  if guardL v e && decide (sc ≠ 0xFF) then
    match f32 (laneA v e) with
    | .nan => 0
    | x => fround fmtE2M1 (rmOf v) (exMul x (exPow2 (127 - (sc : Int))))
  else 0

/-- The lanes of codes of a QNT firing: `c` codes per lane (R124). -/
def qntWord (c : Nat) (code : Nat → Nat) (l : Nat) : W32 :=
  BitVec.ofNat 32 ((List.range c).foldl (fun r e => r + code (c * l + e) % 2 ^ (32 / c) * 2 ^ (32 / c * e)) 0)
/-- A QNT firing: one token, or register D with the rest of the group under the tail policy (R124). -/
def qntEffect (v : Env) (fmt c : Nat) (code : Nat → Nat) : Effect :=
  let lim := ceilDiv v.vl c
  laneEffect v v.lg lim 1 (fun _ => headerQnt v fmt lim) (fun l => if l < lim then some (qntWord c code l) else none)

/-- Code position l of the single token or register that DQNT reads (R124). -/
def codeAt (v : Env) (c l : Nat) : Nat := (laneA v (l / c)).toNat / 2 ^ (32 / c * (l % c)) % 2 ^ (32 / c)
/-- A DQNT firing: on an output an unguarded lane carries zero (R124). -/
def dqntEffect (v : Env) (f : Nat → W32) : Effect :=
  let res := guardedRes v f
  let e := laneEffect v v.lg v.vl v.lg (headerDqnt v) res
  match destOf v.w.d with
  | .o _ => { e with toks := tokensOf v.lg (fun l => (res l).getD 0#32) (headerDqnt v) }
  | _ => e

/-- SCALE.MX (R127). -/
def scaleMx (v : Env) : W32 :=
  let xs := (guarded v).map (fun l => f32 (laneA v l))
  let bad := xs.any (fun x => match x with
    | .nan => true
    | .inf _ => true
    | _ => false)
  if bad then 0xFF#32
  else
    let amax := xs.foldl (fun m x => if exLt m (exAbs x) then exAbs x else m) (.zero false)
    match amax with
    | .fin _ p d => BitVec.ofInt 32 (max 0 (ratLog2 p d - 2 + 127))
    | _ => 0#32

/-- ADD_F32 (R110). Element slot adds F32 lanes with one rounding. -/
def execAddF32 (w : Slot) (s : State) : Out :=
  laneFire s 0x60 w (some 1) 1 (fun v l => toF32 (rmOf v) (exAdd (rmOf v) (f32 (laneA v l)) (f32 (laneB v l))))

/-- SUB_F32 (R110). Element slot subtracts F32 lanes with one rounding. -/
def execSubF32 (w : Slot) (s : State) : Out :=
  laneFire s 0x61 w (some 1) 1 (fun v l => toF32 (rmOf v) (exSub (rmOf v) (f32 (laneA v l)) (f32 (laneB v l))))

/-- MUL_F32 (R110). Element slot multiplies F32 lanes with one rounding. -/
def execMulF32 (w : Slot) (s : State) : Out :=
  laneFire s 0x62 w (some 1) 1 (fun v l => toF32 (rmOf v) (exMul (f32 (laneA v l)) (f32 (laneB v l))))

/-- FMA_F32 (R110). Element slot computes a fused multiply-add into D. -/
def execFmaF32 (w : Slot) (s : State) : Out :=
  laneFire s 0x63 w (some 1) 1 (fun v l => toF32 (rmOf v) (exFma (rmOf v) (f32 (laneA v l)) (f32 (laneB v l)) (f32 (laneD v l))))

/-- MIN_F32 (R111). Element slot writes the lesser F32 value, preferring numbers to NaN. -/
def execMinF32 (w : Slot) (s : State) : Out :=
  laneFire s 0x64 w (some 1) 1 (fun v l => minF (laneA v l) (laneB v l))

/-- MAX_F32 (R111). Element slot writes the greater F32 value, preferring numbers to NaN. -/
def execMaxF32 (w : Slot) (s : State) : Out :=
  laneFire s 0x65 w (some 1) 1 (fun v l => maxF (laneA v l) (laneB v l))

/-- NEG_F32 (R112). Element slot flips the sign bit. -/
def execNegF32 (w : Slot) (s : State) : Out :=
  laneFire s 0x66 w (some 1) 1 (fun v l => laneA v l ^^^ 0x80000000#32)

/-- ABS_F32 (R112). Element slot clears the sign bit. -/
def execAbsF32 (w : Slot) (s : State) : Out :=
  laneFire s 0x67 w (some 1) 1 (fun v l => laneA v l &&& 0x7FFFFFFF#32)

/-- SGNJ_F32 (R112). Element slot copies the sign of B onto A. -/
def execSgnjF32 (w : Slot) (s : State) : Out :=
  laneFire s 0x68 w (some 1) 1 (fun v l => (laneA v l &&& 0x7FFFFFFF#32) ||| (laneB v l &&& 0x80000000#32))

/-- CMPEQ_F32 (R113). Element slot compares F32 lanes for equality. -/
def execCmpeqF32 (w : Slot) (s : State) : Out :=
  laneFire s 0x69 w (some 0) 1 (fun v l => b2w (exEq (f32 (laneA v l)) (f32 (laneB v l))))

/-- CMPLT_F32 (R113). Element slot compares F32 lanes for less-than. -/
def execCmpltF32 (w : Slot) (s : State) : Out :=
  laneFire s 0x6A w (some 0) 1 (fun v l => b2w (exLt (f32 (laneA v l)) (f32 (laneB v l))))

/-- CMPLE_F32 (R113). Element slot compares F32 lanes for less-or-equal. -/
def execCmpleF32 (w : Slot) (s : State) : Out :=
  laneFire s 0x6B w (some 0) 1 (fun v l => b2w (exLe (f32 (laneA v l)) (f32 (laneB v l))))

/-- CMPUN_F32 (R113). Element slot tests whether either F32 operand is NaN. -/
def execCmpunF32 (w : Slot) (s : State) : Out :=
  laneFire s 0x6C w (some 0) 1 (fun v l => b2w (isNaN32 (laneA v l) || isNaN32 (laneB v l)))

/-- ADD_BF16 (R116). Element slot adds packed BF16 elements. -/
def execAddBf16 (w : Slot) (s : State) : Out :=
  laneFire s 0x6D w (some 2) 1 (fun v l => pack16 fmtBF16 (rmOf v) (fun _ a b => exAdd (rmOf v) a b) (laneD v l) (laneA v l) (laneB v l))

/-- MUL_BF16 (R116). Element slot multiplies packed BF16 elements. -/
def execMulBf16 (w : Slot) (s : State) : Out :=
  laneFire s 0x6E w (some 2) 1 (fun v l => pack16 fmtBF16 (rmOf v) (fun _ a b => exMul a b) (laneD v l) (laneA v l) (laneB v l))

/-- FMA_BF16 (R116). Element slot fuses a multiply-add on packed BF16 elements. -/
def execFmaBf16 (w : Slot) (s : State) : Out :=
  laneFire s 0x6F w (some 2) 1 (fun v l => pack16 fmtBF16 (rmOf v) (fun d a b => exFma (rmOf v) a b d) (laneD v l) (laneA v l) (laneB v l))

/-- ADD_F16 (R116). Element slot adds packed F16 elements. -/
def execAddF16 (w : Slot) (s : State) : Out :=
  laneFire s 0x70 w (some 3) 1 (fun v l => pack16 fmtF16 (rmOf v) (fun _ a b => exAdd (rmOf v) a b) (laneD v l) (laneA v l) (laneB v l))

/-- MUL_F16 (R116). Element slot multiplies packed F16 elements. -/
def execMulF16 (w : Slot) (s : State) : Out :=
  laneFire s 0x71 w (some 3) 1 (fun v l => pack16 fmtF16 (rmOf v) (fun _ a b => exMul a b) (laneD v l) (laneA v l) (laneB v l))

/-- FMA_F16 (R116). Element slot fuses a multiply-add on packed F16 elements. -/
def execFmaF16 (w : Slot) (s : State) : Out :=
  laneFire s 0x72 w (some 3) 1 (fun v l => pack16 fmtF16 (rmOf v) (fun d a b => exFma (rmOf v) a b d) (laneD v l) (laneA v l) (laneB v l))

/-- DOT_BF16 (R117). Element slot adds two BF16 products exactly into an F32 accumulator. -/
def execDotBf16 (w : Slot) (s : State) : Out :=
  laneFire s 0x73 w (some 1) 1 (fun v l => dotBf16 (rmOf v) (laneD v l) (laneA v l) (laneB v l))

/-- REDADD_F32 (R114). Element slot sums guarded F32 lanes in ascending order. -/
def execRedaddF32 (w : Slot) (s : State) : Out :=
  laneFire s 0x74 w (some 1) 1 (fun v _ => redaddF v)

/-- REDMAX_F32 (R115). Element slot writes the greatest guarded F32 value. -/
def execRedmaxF32 (w : Slot) (s : State) : Out :=
  laneFire s 0x75 w (some 1) 1 (fun v _ => redmaxF v)

/-- CVT (R118). Element slot converts one element per lane between F32 and a narrow format. -/
def execCvt (w : Slot) (s : State) : Out :=
  cvtFire s 0x80 w false

/-- CVT_SAT (R119). Element slot converts with saturation of narrowing overflow. -/
def execCvtSat (w : Slot) (s : State) : Out :=
  cvtFire s 0x81 w true

/-- CVTI_F32 (R120). Element slot converts F32 to saturated i32. -/
def execCvtiF32 (w : Slot) (s : State) : Out :=
  laneFire s 0x82 w (some 0) 1 (fun v l => BitVec.ofInt 32 (roundIntSat (rmOf v) (-2147483648) 2147483647 (f32 (laneA v l))))

/-- CVTN_F32 (R120). Element slot converts F32 to saturated n32. -/
def execCvtnF32 (w : Slot) (s : State) : Out :=
  laneFire s 0x83 w (some 0) 1 (fun v l => BitVec.ofInt 32 (roundIntSat (rmOf v) 0 4294967295 (f32 (laneA v l))))

/-- CVTF_I32 (R121). Element slot converts i32 to F32. -/
def execCvtfI32 (w : Slot) (s : State) : Out :=
  laneFire s 0x84 w (some 1) 1 (fun v l => toF32 (rmOf v) (exOfInt (laneA v l).toInt))

/-- CVTF_N32 (R121). Element slot converts n32 to F32. -/
def execCvtfN32 (w : Slot) (s : State) : Out :=
  laneFire s 0x85 w (some 1) 1 (fun v l => toF32 (rmOf v) (exOfInt (laneA v l).toNat))

/-- QNT_QG (R125). Element slot quantises F32 values to QG codes with one group record. -/
def execQntQg (w : Slot) (s : State) : Out :=
  fireSlot s 0x86 w (fun v => qntEffect v 7 (qgPack v) (qntQgCode v))

/-- DQNT_QG (R126). Element slot dequantises QG codes to F32. -/
def execDqntQg (w : Slot) (s : State) : Out :=
  fireSlot s 0x87 w (fun v => dqntEffect v (fun l => toF32 .rne (valQG (qgScale v) (codeAt v (qgPack v) l) (qgZero v))))

/-- QNT_MX4 (R128). Element slot quantises F32 values to E2M1 codes under a block scale. -/
def execQntMx4 (w : Slot) (s : State) : Out :=
  fireSlot s 0x88 w (fun v => qntEffect v 6 8 (qntMx4Code v))

/-- DQNT_MX4 (R129). Element slot dequantises MX4 codes to F32. -/
def execDqntMx4 (w : Slot) (s : State) : Out :=
  fireSlot s 0x89 w (fun v => dqntEffect v (fun l => toF32 .rne (valMX4 ((laneB v 0).toNat % 256) (codeAt v 8 l))))

/-- SCALE_MX (R127). Element slot computes the E8M0 block scale of guarded lanes. -/
def execScaleMx (w : Slot) (s : State) : Out :=
  laneFire s 0x8A w (some 0) 1 (fun v _ => scaleMx v)

/-- RCP_F32 (R130). Element slot computes the reciprocal. -/
def execRcpF32 (w : Slot) (s : State) : Out :=
  laneFire s 0x8B w (some 1) 2 (fun v l => rcpF32 (laneA v l))

/-- RSQ_F32 (R130). Element slot computes the reciprocal square root. -/
def execRsqF32 (w : Slot) (s : State) : Out :=
  laneFire s 0x8C w (some 1) 2 (fun v l => rsqF32 (laneA v l))

/-- EX2_F32 (R130). Element slot computes 2 to the power x. -/
def execEx2F32 (w : Slot) (s : State) : Out :=
  laneFire s 0x8D w (some 1) 3 (fun v l => ex2F32 (laneA v l))

/-- LG2_F32 (R130). Element slot computes log2 x. -/
def execLg2F32 (w : Slot) (s : State) : Out :=
  laneFire s 0x8E w (some 1) 3 (fun v l => lg2F32 (laneA v l))

/-- TANH_F32 (R130). Element slot computes tanh x. -/
def execTanhF32 (w : Slot) (s : State) : Out :=
  laneFire s 0x8F w (some 1) 4 (fun v l => tanhF32 (laneA v l))

/-- SIGM_F32 (R130). Element slot computes the logistic sigmoid. -/
def execSigmF32 (w : Slot) (s : State) : Out :=
  laneFire s 0x90 w (some 1) 4 (fun v l => sigmF32 (laneA v l))

/-- GRPCFG (R123). Element slot writes the group configuration word GC. -/
def execGrpcfg (w : Slot) (s : State) : Out :=
  fireSlot s 0x91 w (fun v => { baseEffect v v.lg with ctx := { v.c with gc := setField 2 0 v.c.gc (imm10 v.w % 8) } })

end Sys2Proof.Machine
end

