-- ==== Sys2Proof/Machine/Digest.lean ====
section
/-! DEFINITION. The CRC-32 and SHA-256 of byte strings (R324, R394, R408), as their public standards give them (log 50). -/

namespace Sys2Proof.Machine

open Sys2Proof

/-- One bit of the reflected CRC-32 with polynomial 0x04C11DB7. -/
def crcBits : Nat → Nat → Nat
  | 0, c => c
  | n + 1, c => forced (if c % 2 = 1 then c / 2 ^^^ 0xEDB88320 else c / 2) (crcBits n)
def crcByte (c : Nat) (b : Byte) : Nat := forced (c ^^^ b.toNat) (crcBits 8)
/-- The bytes in order. -/
def crcAll : Nat → List Byte → Nat
  | c, [] => c
  | c, b :: l => forced (crcByte c b) (fun c => crcAll c l)
/-- CRC-32: initial value and final inversion all ones. -/
def crc32 (bs : List Byte) : Nat := crcAll 0xFFFFFFFF bs ^^^ 0xFFFFFFFF

/-! SHA-256, over words as numbers below 2^32. -/

/-- The largest r + x with x < 2^n and (r + x)^k ≤ v, where r^k ≤ v: the integer k-th root, bit by bit. -/
def rootFrom (k v : Nat) : Nat → Nat → Nat
  | 0, r => r
  | n + 1, r => forced (if (r + 2 ^ n) ^ k ≤ v then r + 2 ^ n else r) (rootFrom k v n)
/-- The first 32 fractional bits of the k-th root of p. -/
def rootFraction (k p : Nat) : Nat := rootFrom k (p * 2 ^ (32 * k)) 40 0 % 2 ^ 32

/-- The 64 primes below 312. -/
def primes : List Nat := (List.range 312).filter (fun n => decide (2 ≤ n) && (List.range 18).all (fun d => d < 2 || d == n || n % d != 0))

def wrap32 (x : Nat) : Nat := x % 2 ^ 32
/-- A word turned right by n. -/
def turn (n x : Nat) : Nat := x / 2 ^ n + x % 2 ^ n * 2 ^ (32 - n)
/-- The exclusive or of a word under three turns. -/
def turns (i j k x : Nat) : Nat := turn i x ^^^ turn j x ^^^ turn k x

/-- `n` big-endian bytes of a number. -/
def beBytes (n v : Nat) : List Byte := (bytesOf n v).reverse
def natOfBE (bs : List Byte) : Nat := natOfBytes bs.reverse

/-- The next message word after those before it, newest first. -/
def messageWord (w : List Nat) : Nat :=
  let near := w.getD 1 0
  let far := w.getD 14 0
  wrap32 (w.getD 6 0 + w.getD 15 0 + (turn 17 near ^^^ turn 19 near ^^^ near / 2 ^ 10) + (turn 7 far ^^^ turn 18 far ^^^ far / 2 ^ 3))

/-- One round for each prime: its constant is the cube root's fraction. The working words are two sequences, each newest
first, four words deep: `us` those that a round makes from the whole sum, `vs` those made from the older of `us`. The message
words are `w`, newest first, the oldest of the last sixteen being the round's own. -/
def digestRounds : List Nat → List Nat → List Nat → List Nat → List Nat
  | [], _, us, vs => us.take 4 ++ vs.take 4
  | p :: ps, w, us, vs =>
    let e := vs.getD 0 0
    let pick := vs.getD 2 0 ^^^ (e &&& (vs.getD 1 0 ^^^ vs.getD 2 0))
    let most := (us.getD 0 0 &&& (us.getD 1 0 ||| us.getD 2 0)) ||| (us.getD 1 0 &&& us.getD 2 0)
    forced (vs.getD 3 0 + turns 6 11 25 e + pick + rootFraction 3 p + w.getD 15 0) (fun sum =>
      forced (wrap32 (sum + turns 2 13 22 (us.getD 0 0) + most)) (fun u =>
        forced (wrap32 (us.getD 3 0 + sum)) (fun v =>
          forced (messageWord w) (fun m => digestRounds ps (m :: w.take 15) (u :: us.take 3) (v :: vs.take 3)))))

/-- One block of 64 bytes mixed into eight words. -/
def digestBlock (h : List Nat) (block : List Byte) : List Nat :=
  let w := ((pieces 16 4 block).map natOfBE).reverse
  ((digestRounds primes w (h.take 4) (h.drop 4)).zip h).map (fun p => wrap32 (p.1 + p.2))

/-- The message, a one bit, zeros up to 8 bytes short of a block, and the message's length in bits. -/
def digestPad (bs : List Byte) : List Byte :=
  bs ++ 0x80#8 :: List.replicate ((119 - bs.length % 64) % 64) 0#8 ++ beBytes 8 (8 * bs.length)

/-- The 32 bytes of SHA-256; the first words are the fractions of the first eight primes' square roots. -/
def sha256 (bs : List Byte) : List Byte :=
  let p := digestPad bs
  ((pieces (p.length / 64) 64 p).foldl digestBlock ((primes.take 8).map (rootFraction 2))).flatMap (beBytes 4)

end Sys2Proof.Machine
end

