-- ==== Sys2Proof/Machine/CoreAlu.lean ====
section
/-! DEFINITION. Control core: integer and address arithmetic (R172, R173). -/

namespace Sys2Proof.Machine

open Sys2Proof

/-- xd ← f(xa, xb) (R172). -/
def aluRR (s : State) (d a b : BitVec 5) (f : W64 → W64 → W64) : State :=
  finish s 4 d (f (xget (curGrp s) a) (xget (curGrp s) b))

/-- xd ← f(xa, imm) for an instruction of `len` bytes (R173). -/
def aluRI (s : State) (len : Nat) (d a : BitVec 5) (imm : W64) (f : W64 → W64 → W64) : State :=
  finish s len d (f (xget (curGrp s) a) imm)

/-- imm16 sign-extended, and zero-extended. -/
def immS (i : BitVec 16) : W64 := i.signExtend 64
def immZ (i : BitVec 16) : W64 := i.setWidth 64
/-- imm42 of an EXT pair (R168), sign-extended and zero-extended from bit 41. -/
def imm42S (h : BitVec 26) (i : BitVec 16) : W64 := (h ++ i : BitVec 42).signExtend 64
def imm42Z (h : BitVec 26) (i : BitVec 16) : W64 := (h ++ i : BitVec 42).setWidth 64

def aluMulh (x y : W64) : W64 := BitVec.ofInt 64 (x.toInt * y.toInt / 2 ^ 64)
def aluMulhu (x y : W64) : W64 := BitVec.ofNat 64 (x.toNat * y.toNat / 2 ^ 64)
/-- Division never traps (R172). -/
def aluDiv (x y : W64) : W64 := if y = 0#64 then BitVec.ofInt 64 (-1) else BitVec.ofInt 64 (Int.tdiv x.toInt y.toInt)
def aluDivu (x y : W64) : W64 := if y = 0#64 then BitVec.ofInt 64 (-1) else BitVec.ofNat 64 (x.toNat / y.toNat)
def aluRem (x y : W64) : W64 := if y = 0#64 then x else BitVec.ofInt 64 (Int.tmod x.toInt y.toInt)
def aluRemu (x y : W64) : W64 := if y = 0#64 then x else BitVec.ofNat 64 (x.toNat % y.toNat)
def shamt (y : W64) : Nat := y.toNat % 64
def aluSra (x : W64) (n : Nat) : W64 := x.sshiftRight n

/-- ADD (R172). Control core adds two registers. -/
def execAdd (d : BitVec 5) (a : BitVec 5) (b : BitVec 5) (s : State) : Out :=
  .next (aluRR s d a b (fun x y => x + y))

/-- SUB (R172). Control core subtracts two registers. -/
def execSub (d : BitVec 5) (a : BitVec 5) (b : BitVec 5) (s : State) : Out :=
  .next (aluRR s d a b (fun x y => x - y))

/-- ALU_AND (R172). Control core ANDs two registers. -/
def execAluAnd (d : BitVec 5) (a : BitVec 5) (b : BitVec 5) (s : State) : Out :=
  .next (aluRR s d a b (fun x y => x &&& y))

/-- ALU_OR (R172). Control core ORs two registers. -/
def execAluOr (d : BitVec 5) (a : BitVec 5) (b : BitVec 5) (s : State) : Out :=
  .next (aluRR s d a b (fun x y => x ||| y))

/-- ALU_XOR (R172). Control core XORs two registers. -/
def execAluXor (d : BitVec 5) (a : BitVec 5) (b : BitVec 5) (s : State) : Out :=
  .next (aluRR s d a b (fun x y => x ^^^ y))

/-- ALU_ANDN (R172). Control core computes a AND NOT b. -/
def execAluAndn (d : BitVec 5) (a : BitVec 5) (b : BitVec 5) (s : State) : Out :=
  .next (aluRR s d a b (fun x y => x &&& ~~~y))

/-- SLL (R172). Control core shifts left logically. -/
def execSll (d : BitVec 5) (a : BitVec 5) (b : BitVec 5) (s : State) : Out :=
  .next (aluRR s d a b (fun x y => x <<< shamt y))

/-- SRL (R172). Control core shifts right logically. -/
def execSrl (d : BitVec 5) (a : BitVec 5) (b : BitVec 5) (s : State) : Out :=
  .next (aluRR s d a b (fun x y => x >>> shamt y))

/-- SRA (R172). Control core shifts right arithmetically. -/
def execSra (d : BitVec 5) (a : BitVec 5) (b : BitVec 5) (s : State) : Out :=
  .next (aluRR s d a b (fun x y => aluSra x (shamt y)))

/-- SLT (R172). Control core sets xd to signed a < b. -/
def execSlt (d : BitVec 5) (a : BitVec 5) (b : BitVec 5) (s : State) : Out :=
  .next (aluRR s d a b (fun x y => setIf (ltS x y)))

/-- SLTU (R172). Control core sets xd to unsigned a < b. -/
def execSltu (d : BitVec 5) (a : BitVec 5) (b : BitVec 5) (s : State) : Out :=
  .next (aluRR s d a b (fun x y => setIf (ltU x y)))

/-- MUL (R172). Control core writes the low 64 bits of a product. -/
def execMul (d : BitVec 5) (a : BitVec 5) (b : BitVec 5) (s : State) : Out :=
  .next (aluRR s d a b (fun x y => x * y))

/-- MULH (R172). Control core writes the high 64 bits of a signed product. -/
def execMulh (d : BitVec 5) (a : BitVec 5) (b : BitVec 5) (s : State) : Out :=
  .next (aluRR s d a b (fun x y => aluMulh x y))

/-- MULHU (R172). Control core writes the high 64 bits of an unsigned product. -/
def execMulhu (d : BitVec 5) (a : BitVec 5) (b : BitVec 5) (s : State) : Out :=
  .next (aluRR s d a b (fun x y => aluMulhu x y))

/-- DIV (R172). Control core divides signed, toward zero, never trapping. -/
def execDiv (d : BitVec 5) (a : BitVec 5) (b : BitVec 5) (s : State) : Out :=
  .next (aluRR s d a b (fun x y => aluDiv x y))

/-- DIVU (R172). Control core divides unsigned. -/
def execDivu (d : BitVec 5) (a : BitVec 5) (b : BitVec 5) (s : State) : Out :=
  .next (aluRR s d a b (fun x y => aluDivu x y))

/-- REM (R172). Control core takes the signed remainder. -/
def execRem (d : BitVec 5) (a : BitVec 5) (b : BitVec 5) (s : State) : Out :=
  .next (aluRR s d a b (fun x y => aluRem x y))

/-- REMU (R172). Control core takes the unsigned remainder. -/
def execRemu (d : BitVec 5) (a : BitVec 5) (b : BitVec 5) (s : State) : Out :=
  .next (aluRR s d a b (fun x y => aluRemu x y))

/-- MIN (R172). Control core takes the signed minimum. -/
def execMin (d : BitVec 5) (a : BitVec 5) (b : BitVec 5) (s : State) : Out :=
  .next (aluRR s d a b (fun x y => if ltS y x then y else x))

/-- MAX (R172). Control core takes the signed maximum. -/
def execMax (d : BitVec 5) (a : BitVec 5) (b : BitVec 5) (s : State) : Out :=
  .next (aluRR s d a b (fun x y => if ltS x y then y else x))

/-- MINU (R172). Control core takes the unsigned minimum. -/
def execMinu (d : BitVec 5) (a : BitVec 5) (b : BitVec 5) (s : State) : Out :=
  .next (aluRR s d a b (fun x y => if ltU y x then y else x))

/-- MAXU (R172). Control core takes the unsigned maximum. -/
def execMaxu (d : BitVec 5) (a : BitVec 5) (b : BitVec 5) (s : State) : Out :=
  .next (aluRR s d a b (fun x y => if ltU x y then y else x))

/-- ALU_CLZ (R172). Control core counts leading zeros of a. -/
def execAluClz (d : BitVec 5) (a : BitVec 5) (s : State) : Out :=
  .next (aluRR s d a 0#5 (fun x _ => BitVec.ofNat 64 (clzNat 64 x.toNat)))

/-- ALU_POPC (R172). Control core counts one bits of a. -/
def execAluPopc (d : BitVec 5) (a : BitVec 5) (s : State) : Out :=
  .next (aluRR s d a 0#5 (fun x _ => BitVec.ofNat 64 (popcNat 64 x.toNat)))

/-- ADDI (R173). Control core adds a sign-extended immediate. -/
def execAddi (d : BitVec 5) (a : BitVec 5) (i : BitVec 16) (s : State) : Out :=
  .next (aluRI s 4 d a (immS i) (fun x y => x + y))

/-- CORE_ANDI (R173). Control core ANDs with a zero-extended immediate. -/
def execCoreAndi (d : BitVec 5) (a : BitVec 5) (i : BitVec 16) (s : State) : Out :=
  .next (aluRI s 4 d a (immZ i) (fun x y => x &&& y))

/-- CORE_ORI (R173). Control core ORs with a zero-extended immediate. -/
def execCoreOri (d : BitVec 5) (a : BitVec 5) (i : BitVec 16) (s : State) : Out :=
  .next (aluRI s 4 d a (immZ i) (fun x y => x ||| y))

/-- XORI (R173). Control core XORs with a zero-extended immediate. -/
def execXori (d : BitVec 5) (a : BitVec 5) (i : BitVec 16) (s : State) : Out :=
  .next (aluRI s 4 d a (immZ i) (fun x y => x ^^^ y))

/-- SLTI (R173). Control core sets xd to signed a < immediate. -/
def execSlti (d : BitVec 5) (a : BitVec 5) (i : BitVec 16) (s : State) : Out :=
  .next (aluRI s 4 d a (immS i) (fun x y => setIf (ltS x y)))

/-- SLTIU (R173). Control core sets xd to unsigned a < immediate. -/
def execSltiu (d : BitVec 5) (a : BitVec 5) (i : BitVec 16) (s : State) : Out :=
  .next (aluRI s 4 d a (immS i) (fun x y => setIf (ltU x y)))

/-- SLLI (R173). Control core shifts left by an immediate. -/
def execSlli (d : BitVec 5) (a : BitVec 5) (c : BitVec 6) (s : State) : Out :=
  .next (aluRI s 4 d a 0#64 (fun x _ => x <<< c.toNat))

/-- SRLI (R173). Control core shifts right logically by an immediate. -/
def execSrli (d : BitVec 5) (a : BitVec 5) (c : BitVec 6) (s : State) : Out :=
  .next (aluRI s 4 d a 0#64 (fun x _ => x >>> c.toNat))

/-- SRAI (R173). Control core shifts right arithmetically by an immediate. -/
def execSrai (d : BitVec 5) (a : BitVec 5) (c : BitVec 6) (s : State) : Out :=
  .next (aluRI s 4 d a 0#64 (fun x _ => aluSra x c.toNat))

/-- LIU (R173). Control core loads an immediate shifted left by 32. -/
def execLiu (d : BitVec 5) (i : BitVec 16) (s : State) : Out :=
  .next (aluRI s 4 d 0#5 (immS i) (fun _ y => y <<< 32))

end Sys2Proof.Machine
end

