-- ==== Sys2Proof/Machine/CoreMem.lean ====
section
/-! DEFINITION. Control core: loads, stores, atomics, ordered accesses and fences (R174 to R178). -/

namespace Sys2Proof.Machine

open Sys2Proof

/-- The effective address of R174, with the bits below the access width cleared. -/
def effAddr (x off : W64) (n : Nat) : Nat := (x + off).toNat % 2 ^ 52 / n * n

/-- Stores are performed, oldest first, each at the scope it carries and in the instance `r` (R224). -/
def performAll (s : State) (cl : Nat) (r : Reach) : List PStore → State
  | [] => s
  | p :: ps => performAll (l2At s cl ((instOf s cl p.via.sc).join r) p.via p.pa p.bytes) cl r ps
/-- A release of a group at a scope (R232): every store it has issued is performed there, and whatever its cluster sees,
which holds all that the group has read or acquired (log 67). An acquire at a scope does the same, before a later access of
the group begins to be performed (R236). -/
def flushGrp (s : State) (cl g sc : Nat) : State :=
  let r := instOf s cl sc
  performSeen (modGrp (performAll s cl r (getGrp s cl g).stores) cl g (fun g => { g with stores := [] })) cl r
/-- The executing group's release. -/
def releaseCur (s : State) (sc : Nat) : State := flushGrp s s.cur.cl s.cur.grp sc

/-- Whether a buffered store touches the `n` bytes at `pa`. -/
def touches (p : PStore) (pa n : Nat) : Bool := decide (p.pa < pa + n ∧ pa < p.pa + p.bytes.length)
/-- A group's buffered stores, oldest first, in two parts: the chosen ones and, before each of them, the stores it overlaps
(R175), and the others. -/
def splitStores (sel : PStore → Bool) : List PStore → List PStore × List PStore
  | [] => ([], [])
  | p :: ps =>
    let r := splitStores sel ps
    if sel p || r.1.any (fun q => touches p q.pa q.bytes.length) then (p :: r.1, r.2) else (r.1, p :: r.2)
/-- Chosen stores of a group are performed, each at its own scope. -/
def performSome (s : State) (cl g : Nat) (sel : PStore → Bool) : State :=
  let p := splitStores sel (getGrp s cl g).stores
  modGrp (performAll s cl (.cluster cl) p.1) cl g (fun g => { g with stores := p.2 })
/-- What a read of `n` bytes follows: the group's stores to them (R231), and before an acquire its releases (R236). -/
def beforeRead (s : State) (cl g : Nat) (acq : Bool) (pa n : Nat) : State :=
  performSome s cl g (fun p => touches p pa n || (acq && p.rel))
/-- An acquire of a group at a scope that reads no memory: what it has accessed earlier is kept before its later accesses at
that scope (R233, R236). -/
def acquireGrp (s : State) (cl g sc : Nat) : State := flushGrp s cl g sc
/-- The executing group's acquire. -/
def acquireCur (s : State) (sc : Nat) : State := acquireGrp s s.cur.cl s.cur.grp sc

/-- The scope code and the translation of an access: the page of the cached entry that answers it (R376). -/
def viaOf (s : State) (cl sc asid va : Nat) : Via :=
  match (getCl s cl).tcache.find? (entryCovers asid va) with
  | none => ⟨sc, asid, va, 0, false⟩
  | some e => ⟨sc, asid, e.va, e.size, false⟩

/-- A load of `n` bytes at scope `sc` (R174, R175): once translated it is issued, and its group waits for the data (R165). -/
def coreLoad (s : State) (len : Nat) (d a : BitVec 5) (sc : Nat) (off : W64) (n : Nat) (signed acq : Bool) : State :=
  if 5 ≤ sc then illegal s 9
  else
    let g := curGrp s
    let ea := effAddr (xget g a) off n
    match translate s s.cur.cl g.asid ea 1 with
    | .miss => waitWalk s ea 1
    | .fault c => takeTrap s ⟨c, 0, 0, ea⟩
    | .hit pa => modCur s (waitFor (.load d pa n signed len (viaOf s s.cur.cl sc g.asid ea) acq))

/-- A load is performed at the scope it carries (R224), and at package scope where its translation has been removed (R376). -/
def loadScope (via : Via) : Nat := if via.stale then max via.sc 3 else via.sc
/-- The data of a load arrive (R175): the stores it follows are performed, and it is performed; xd ← the value, extended; the
group is Ready. An acquire then keeps what the group has accessed before its later accesses (R236). -/
def loadArrives (s0 : State) (cl grp : Nat) (d : BitVec 5) (pa n : Nat) (signed : Bool) (len : Nat) (via : Via) (acq : Bool) :
    State :=
  let s := beforeRead s0 cl grp acq pa n
  let v := natOfBytes (readBy s cl pa n)
  let x := if signed then BitVec.ofInt 64 (sextNat (8 * n) v) else BitVec.ofNat 64 v
  let s1 := performRead (l2Touch s cl pa) cl pa n (instOf s cl (loadScope via))
  modGrp (if acq then acquireGrp s1 cl grp via.sc else s1) cl grp
    (fun g => advance len (xset d x { g with st := .ready, since := now s cl }))

/-- A store of `n` bytes at scope `sc` (R174, R175): it is issued here and performed later (R231). `rel` is release order. -/
def coreStore (s : State) (len : Nat) (v a : BitVec 5) (sc : Nat) (off : W64) (n : Nat) (rel : Bool) : State :=
  if 5 ≤ sc then illegal s 9
  else
    let g := curGrp s
    let ea := effAddr (xget g a) off n
    match translate s s.cur.cl g.asid ea 2 with
    | .miss => waitWalk s ea 2
    | .fault c => takeTrap s ⟨c, 0, 0, ea⟩
    | .hit pa =>
      modCur s (fun g => advance len { g with
        stores := g.stores ++ [⟨pa, bytesOf n (xget g v).toNat, viaOf s s.cur.cl sc g.asid ea, rel⟩] })

/-- What an atomic to `n` bytes follows: with release order every access of the group (R232), otherwise what a read of the
bytes follows. -/
def beforeAmo (s : State) (sc : Nat) (rel acq : Bool) (pa n : Nat) : State :=
  if rel then releaseCur s sc else beforeRead s s.cur.cl s.cur.grp acq pa n

/-- An atomic (R176): old ← M[ea]; M[ea] ← op(old, xb, xd); xd ← old, indivisibly at the home slice, and so at package scope
or wider. `rel` and `acq` are its orders; an acquire then keeps what the group has accessed before its later accesses (R236). -/
def coreAmo (s : State) (d a b : BitVec 5) (sc : Nat) (rel acq wide : Bool) (op : Nat → Nat → Nat → Nat) : State :=
  if 5 ≤ sc then illegal s 9
  else
    let g := curGrp s
    let n := if wide then 8 else 4
    let ea := effAddr (xget g a) 0#64 n
    match translate s s.cur.cl g.asid ea 3 with
    | .miss => waitWalk s ea 3
    | .fault c => takeTrap s ⟨c, 0, 0, ea⟩
    | .hit pa =>
      let s1 := beforeAmo s sc rel acq pa n
      let r := (instOf s s.cur.cl sc).join .package
      let s2 := l2Own s1 s.cur.cl pa n r
      let old := readPAn s2 pa n
      let m := 2 ^ (8 * n)
      let new := op old ((xget g b).toNat % m) ((xget g d).toNat % m) % m
      let s3 := l2At s2 s.cur.cl r .done pa (bytesOf n new)
      finish (if acq then acquireCur s3 sc else s3) 4 d
        (if wide then BitVec.ofNat 64 old else BitVec.ofInt 64 (sextNat 32 old))

/-- Signed comparison of the low `8n` bits. -/
def amoLt (wide : Bool) (x y : Nat) : Bool :=
  let w := if wide then 64 else 32
  decide (sextNat w x < sextNat w y)

/-- LD_I8 (R175). Control core loads a sign-extended byte at a scope. -/
def execLdI8 (d : BitVec 5) (a : BitVec 5) (s_ : BitVec 3) (o : BitVec 13) (s : State) : Out :=
  .next (coreLoad s 4 d a s_.toNat (o.signExtend 64) 1 true false)

/-- LD_N8 (R175). Control core loads a zero-extended byte. -/
def execLdN8 (d : BitVec 5) (a : BitVec 5) (s_ : BitVec 3) (o : BitVec 13) (s : State) : Out :=
  .next (coreLoad s 4 d a s_.toNat (o.signExtend 64) 1 false false)

/-- LD_I16 (R175). Control core loads a sign-extended halfword. -/
def execLdI16 (d : BitVec 5) (a : BitVec 5) (s_ : BitVec 3) (o : BitVec 13) (s : State) : Out :=
  .next (coreLoad s 4 d a s_.toNat (o.signExtend 64) 2 true false)

/-- LD_N16 (R175). Control core loads a zero-extended halfword. -/
def execLdN16 (d : BitVec 5) (a : BitVec 5) (s_ : BitVec 3) (o : BitVec 13) (s : State) : Out :=
  .next (coreLoad s 4 d a s_.toNat (o.signExtend 64) 2 false false)

/-- LD_I32 (R175). Control core loads a sign-extended word. -/
def execLdI32 (d : BitVec 5) (a : BitVec 5) (s_ : BitVec 3) (o : BitVec 13) (s : State) : Out :=
  .next (coreLoad s 4 d a s_.toNat (o.signExtend 64) 4 true false)

/-- LD_N32 (R175). Control core loads a zero-extended word. -/
def execLdN32 (d : BitVec 5) (a : BitVec 5) (s_ : BitVec 3) (o : BitVec 13) (s : State) : Out :=
  .next (coreLoad s 4 d a s_.toNat (o.signExtend 64) 4 false false)

/-- LD_64 (R175). Control core loads a doubleword. -/
def execLd64 (d : BitVec 5) (a : BitVec 5) (s_ : BitVec 3) (o : BitVec 13) (s : State) : Out :=
  .next (coreLoad s 4 d a s_.toNat (o.signExtend 64) 8 false false)

/-- ST_8 (R175). Control core stores a byte. -/
def execSt8 (d : BitVec 5) (a : BitVec 5) (s_ : BitVec 3) (o : BitVec 13) (s : State) : Out :=
  .next (coreStore s 4 d a s_.toNat (o.signExtend 64) 1 false)

/-- ST_16 (R175). Control core stores a halfword. -/
def execSt16 (d : BitVec 5) (a : BitVec 5) (s_ : BitVec 3) (o : BitVec 13) (s : State) : Out :=
  .next (coreStore s 4 d a s_.toNat (o.signExtend 64) 2 false)

/-- ST_32 (R175). Control core stores a word. -/
def execSt32 (d : BitVec 5) (a : BitVec 5) (s_ : BitVec 3) (o : BitVec 13) (s : State) : Out :=
  .next (coreStore s 4 d a s_.toNat (o.signExtend 64) 4 false)

/-- ST_64 (R175). Control core stores a doubleword. -/
def execSt64 (d : BitVec 5) (a : BitVec 5) (s_ : BitVec 3) (o : BitVec 13) (s : State) : Out :=
  .next (coreStore s 4 d a s_.toNat (o.signExtend 64) 8 false)

/-- AMO_ADD (R176). Control core atomic add returning the old value. -/
def execAmoAdd (d : BitVec 5) (a : BitVec 5) (b : BitVec 5) (s_ : BitVec 3) (r : BitVec 2) (w : BitVec 1) (s : State) : Out :=
  .next (coreAmo s d a b s_.toNat (bitAt 1 r) (bitAt 0 r) (w = 1#1) (fun old x _ => old + x))

/-- AMO_AND (R176). Control core atomic AND. -/
def execAmoAnd (d : BitVec 5) (a : BitVec 5) (b : BitVec 5) (s_ : BitVec 3) (r : BitVec 2) (w : BitVec 1) (s : State) : Out :=
  .next (coreAmo s d a b s_.toNat (bitAt 1 r) (bitAt 0 r) (w = 1#1) (fun old x _ => old &&& x))

/-- AMO_OR (R176). Control core atomic OR. -/
def execAmoOr (d : BitVec 5) (a : BitVec 5) (b : BitVec 5) (s_ : BitVec 3) (r : BitVec 2) (w : BitVec 1) (s : State) : Out :=
  .next (coreAmo s d a b s_.toNat (bitAt 1 r) (bitAt 0 r) (w = 1#1) (fun old x _ => old ||| x))

/-- AMO_XOR (R176). Control core atomic XOR. -/
def execAmoXor (d : BitVec 5) (a : BitVec 5) (b : BitVec 5) (s_ : BitVec 3) (r : BitVec 2) (w : BitVec 1) (s : State) : Out :=
  .next (coreAmo s d a b s_.toNat (bitAt 1 r) (bitAt 0 r) (w = 1#1) (fun old x _ => old ^^^ x))

/-- AMO_MIN (R176). Control core atomic signed minimum. -/
def execAmoMin (d : BitVec 5) (a : BitVec 5) (b : BitVec 5) (s_ : BitVec 3) (r : BitVec 2) (w : BitVec 1) (s : State) : Out :=
  .next (coreAmo s d a b s_.toNat (bitAt 1 r) (bitAt 0 r) (w = 1#1) (fun old x _ => if amoLt (w = 1#1) x old then x else old))

/-- AMO_MAX (R176). Control core atomic signed maximum. -/
def execAmoMax (d : BitVec 5) (a : BitVec 5) (b : BitVec 5) (s_ : BitVec 3) (r : BitVec 2) (w : BitVec 1) (s : State) : Out :=
  .next (coreAmo s d a b s_.toNat (bitAt 1 r) (bitAt 0 r) (w = 1#1) (fun old x _ => if amoLt (w = 1#1) old x then x else old))

/-- AMO_MINU (R176). Control core atomic unsigned minimum. -/
def execAmoMinu (d : BitVec 5) (a : BitVec 5) (b : BitVec 5) (s_ : BitVec 3) (r : BitVec 2) (w : BitVec 1) (s : State) : Out :=
  .next (coreAmo s d a b s_.toNat (bitAt 1 r) (bitAt 0 r) (w = 1#1) (fun old x _ => Nat.min old x))

/-- AMO_MAXU (R176). Control core atomic unsigned maximum. -/
def execAmoMaxu (d : BitVec 5) (a : BitVec 5) (b : BitVec 5) (s_ : BitVec 3) (r : BitVec 2) (w : BitVec 1) (s : State) : Out :=
  .next (coreAmo s d a b s_.toNat (bitAt 1 r) (bitAt 0 r) (w = 1#1) (fun old x _ => Nat.max old x))

/-- AMO_SWP (R176). Control core atomic swap. -/
def execAmoSwp (d : BitVec 5) (a : BitVec 5) (b : BitVec 5) (s_ : BitVec 3) (r : BitVec 2) (w : BitVec 1) (s : State) : Out :=
  .next (coreAmo s d a b s_.toNat (bitAt 1 r) (bitAt 0 r) (w = 1#1) (fun _ x _ => x))

/-- AMO_CAS (R176). Control core atomic compare-and-swap. -/
def execAmoCas (d : BitVec 5) (a : BitVec 5) (b : BitVec 5) (s_ : BitVec 3) (r : BitVec 2) (w : BitVec 1) (s : State) : Out :=
  .next (coreAmo s d a b s_.toNat (bitAt 1 r) (bitAt 0 r) (w = 1#1) (fun old x y => if old = y then x else old))

/-- LDA (R177). Control core load with acquire order. -/
def execLda (d : BitVec 5) (a : BitVec 5) (s_ : BitVec 3) (w : BitVec 1) (s : State) : Out :=
  .next (coreLoad s 4 d a s_.toNat 0#64 (if w = 1#1 then 8 else 4) false true)

/-- STL (R177). Control core store with release order: the group's earlier accesses are performed first (R232). -/
def execStl (a : BitVec 5) (b : BitVec 5) (s_ : BitVec 3) (w : BitVec 1) (s : State) : Out :=
  .next (coreStore (if 5 ≤ s_.toNat then s else releaseCur s s_.toNat) 4 b a s_.toNat 0#64
    (if w = 1#1 then 8 else 4) true)

/-- Whether the engine work of a ticket is still in progress: a stream that has not written its status,
or a multicast fill with lines owed (R178). -/
def ticketActive (s : State) (sp t : Nat) : Bool :=
  match getSpan s sp with
  | none => false
  | some x =>
    x.clusters.any (fun cl => (amVals (getCl s cl).ports).any (fun p => p.q.any (fun st => decide (st.ticket = t))))
    || (match x.load with
        | none => false
        | some l => (amVals l.mcasts).any (fun m => decide (m.ticket = t)))

/-- Whether any of a group's engine work is still in progress. -/
def grpEngineBusy (s : State) (cl g : Nat) : Bool :=
  match (getCl s cl).span with
  | none => false
  | some sp => (getGrp s cl g).tickets.any (ticketActive s sp)

/-- FENCE (R178). Control core orders the group's accesses at a scope, optionally waiting for engine work. Earlier stores are performed; with ENG it waits for the group's engine work. -/
def execFence (e : BitVec 1) (s_ : BitVec 3) (s : State) : Out :=
  if 5 ≤ s_.toNat then .next (illegal s 9)
  else
    let s1 := releaseCur s s_.toNat
    if e = 1#1 ∧ grpEngineBusy s1 s.cur.cl s.cur.grp then .next (modCur s1 (waitFor (.fence true)))
    else .next (modCur s1 (fun g => advance 4 (if e = 1#1 then { g with tickets := [] } else g)))

/-- A performed write spreads beyond the scope it was performed at, as it may at any time (R224): a narrow store that a
cluster sees, to the span, the die or the package; a granule of which the host sees an older value, to the host. -/
def spread (s : State) (cl k : Nat) : State :=
  match s.near[k / 3]? with
  | some n => widen s (inGrans cl n.pa 1) (instOf s cl (1 + k % 3))
  | none =>
    match s.lag[k / 3 - s.near.length]? with
    | some c => showHost s c.1 1
    | none => s

/-- CORE_ACCESS_PERFORMED (R165, R175, R224, R231). The `idx`-th access a group has issued is performed: a store, unless an
older one of the group overlaps it, or, after the stores, the load whose data the group waits for; a greater `idx` names a
performed write that spreads. A group that waits for its accesses becomes Ready. -/
def execCoreAccessPerformed (cl grp idx : Nat) (s : State) : Out :=
  let g := getGrp s cl grp
  match g.stores[idx]? with
  | none =>
    if g.stores.length < idx then .next (spread s cl (idx - g.stores.length - 1))
    else
      match g.st with
      | .waiting (.load d pa n signed len via acq) => .next (loadArrives s cl grp d pa n signed len via acq)
      | _ => .next s
  | some p =>
    if (g.stores.take idx).any (fun q => touches q p.pa p.bytes.length) then .next s
    else
      let s1 := modGrp (l2At s cl (instOf s cl p.via.sc) p.via p.pa p.bytes) cl grp (fun g => { g with stores := g.stores.eraseIdx idx })
      .next (modGrp s1 cl grp (fun g =>
        if g.st = .waiting .release ∧ g.stores = [] then { g with st := .ready, since := now s cl } else g))

end Sys2Proof.Machine
end

