-- ==== Sys2Proof/Machine/Issue.lean ====
section
/-! DEFINITION. Which group issues next: effective classes, aging, lending, and waking (R165, R166, R199). -/

namespace Sys2Proof.Machine

open Sys2Proof

def isReady (g : Group) : Bool := decide (g.st = .ready)

/-- The aged class of a group (R166 item 2). -/
def ownClass (g : Group) : Nat := max g.base g.aged

/-- A group lends its class to the members of its barrier that have not arrived (R166 item 3). -/
def lendsTo (c : Core) (g h : Nat) : Bool :=
  c.bars.any (fun b => b.2.testBit g && b.1.testBit h && !b.2.testBit h)

/-- One round of lending over the four groups. -/
def lendOnce (c : Core) (e : Vec4 Nat) : Vec4 Nat :=
  vec4Of (fun h => (List.range 4).foldl (fun m g => if lendsTo c g h then max m (vec4Get e g) else m) (vec4Get e h)) 0

/-- Effective classes: own, aged and lent, lending taken through chains of barriers (R166). -/
def effClasses (c : Core) : Vec4 Nat :=
  let e0 := vec4Of (fun g => ownClass (vec4Get c.grp g)) 0
  lendOnce c (lendOnce c (lendOnce c e0))
def effClass (c : Core) (g : Nat) : Nat := vec4Get (effClasses c) g

/-- The group that issues: of the highest effective class, the first Ready group after the one that last
issued at that class, in cyclic order (R166 item 4). -/
def chooseGroup (c : Core) : Option Nat :=
  let e := effClasses c
  let ready := (List.range 4).filter (fun g => isReady (vec4Get c.grp g))
  match ready with
  | [] => none
  | _ =>
    let top := ready.foldl (fun m g => max m (vec4Get e g)) 0
    let last := vec4Get c.lastIssued top
    let order := (List.range 4).map (fun k => (last + 1 + k) % 4)
    order.find? (fun g => isReady (vec4Get c.grp g) && decide (vec4Get e g = top))

/-- Whether the oldest queued event can be taken now: its group is SY.FGRP's, in user mode or with IE = 1 (R198). -/
def eventReady (c : Core) (g : Nat) : Bool :=
  !c.events.isEmpty && decide (c.fgrp = g) && (!modeOf (vec4Get c.grp g) || ieOf (vec4Get c.grp g))

/-- Groups whose CFG waits, in issue order (R180). -/
def waitersCfg (c : Core) : List Nat :=
  c.cfgq.filter (fun g => decide ((vec4Get c.grp g).st ≠ .idle) && decide ((vec4Get c.grp g).st ≠ .stopped))

/-- A memory firing that no longer changes anything before its answer leaves: performed, or a queued wait for full
granules (R146). A queued access behind such a wait of the same element and granule is not settled: the save waits for it until
the granule is full (log 36). -/
def rqSettled (e : RqEntry) : Bool :=
  e.done || (!e.held && (decide (e.op = .loadFe) || decide (e.op = .loadFeClr)))
/-- A Frozen span that can be saved: every access has been performed and answered, every INVR acknowledged (R146, R392). -/
def spanSettled (s : State) (x : Span) : Bool :=
  x.clusters.all (fun c =>
    (amVals (getCl s c).elems).all (fun e => e.rq.all rqSettled)
    && (vec4List (getCl s c).core.grp).all (fun g => decide (g.st ≠ .frozen (some .invr))))

/-- The whole-load pin (R189): an operator number of all ones. -/
def pinAllKey : Nat := 2 ^ 64 - 1
/-- A rewiring of a pin's target is in progress, or the table writes of one that has completed (R189, R250, R251). -/
def pinBusy (op : Nat) (l : Load) : Bool :=
  decide (l.upd ≠ 0) ||
  (if op = pinAllKey then (amVals l.ops).any (fun o => decide (o.rewire ≠ 0)) else (amGet l.ops op).any (fun o => decide (o.rewire ≠ 0)))

/-- Whether the condition a Waiting group waits for holds (R165). Barriers and acknowledgements wake their waiters themselves. -/
def waitOver (s : State) (cl g : Nat) (w : Wait) : Bool :=
  let c := (getCl s cl).core
  let load := (spanAt s cl).bind (fun p => p.2.load)
  match w with
  | .cfg =>
    decide ((waitersCfg c).head? = some g) &&
    match load with
    | none => true
    | some l => decide (l.phase = .complete) && l.passed
  | .waitl _ =>
    match load with
    | none => true
    | some l => decide (l.phase = .complete)
  | .waitg h =>
    match (getPart s (partOfCl s cl)).pool.find? (fun e => decide (e.handle = h)) with
    | none => !(getPart s (partOfCl s cl)).spill.any (fun e => decide (e.handle = h))
    | some e => decide (e.st = 2)
  | .collw h =>
    match amGet s.hub.colls h with
    | none => true
    | some x => x.ended
  | .barrier _ _ => false
  | .wfi => decide (pendOf c &&& (vec4Get c.grp g).pmsk.toNat ≠ 0) || eventReady c g
  | .fence eng => !(eng && grpEngineBusy s cl g)
  | .load _ _ _ _ _ _ _ => false
  | .release => decide ((vec4Get c.grp g).stores = [])
  | .invr => false
  | .spill =>
    let p := getPart s (partOfCl s cl)
    decide (p.spill.length < c.lspn.toNat) || decide (p.pool.length < 256)
  | .stream scl port => decide ((getPort s scl port).q.length < 8)
  | .walk => !(getCl s cl).walks.any (fun r => decide (r.who = .group g))
  | .pin op _ =>
    !load.any (pinBusy op)
  | .save lead => (getSpan s lead).all (fun x => spanSettled s x)
  | .exit _ =>
    match spanAt s cl with
    | none => true
    | some (_, x) =>
      (match x.load with
        | none => true
        | some l => decide (l.phase = .complete) || !(decide (l.owner = g) && decide (l.ownerCl = relOf x cl)))
      && (vec4Get c.grp g).colls.all (fun h => (amGet s.hub.colls h).all (·.ended))

/-- LAYV of a load; 0 where it carries no Caldera block or there is none (R189). -/
def layvOf (l : Option Load) : Nat := (l.map (fun x => if x.caldera then x.layv else 0)).getD 0
/-- A waiting instruction of four bytes ends: xd ← v, and its group is Ready behind it. -/
def endWait (s : State) (cl g : Nat) (d : BitVec 5) (v : Nat) : State :=
  modGrp s cl g (fun x => advance 4 (xset d (BitVec.ofNat 64 v) { x with st := .ready, since := now s cl }))
/-- A Waiting group whose condition holds becomes Ready (R165) and executes its instruction again. WFI then completes (R199),
and so do WAITL, an acquire, with the count of the load that ended, and PIN with the LAYV of its load (R180, R189). Barriers
wake their waiters themselves (R187), and an exiting group ends (R197). -/
def wakeGroup (s : State) (cl g : Nat) : State :=
  match (getGrp s cl g).st with
  | .waiting (.exit _) => s
  | .waiting .wfi => if waitOver s cl g .wfi then endWait s cl g 0#5 0 else s
  | .waiting (.waitl d) =>
    if waitOver s cl g (.waitl d) then
      endWait (acquireGrp s cl g 1) cl g d ((((spanAt s cl).bind (fun p => p.2.load)).map (·.discarded)).getD 0)
    else s
  | .waiting (.pin op d) =>
    if waitOver s cl g (.pin op d) then endWait s cl g d (layvOf ((spanAt s cl).bind (fun p => p.2.load))) else s
  | .waiting w =>
    if waitOver s cl g w then modGrp s cl g (fun x => { x with st := .ready, since := now s cl }) else s
  | _ => s

/-- Every group of a core is looked at. -/
def wakeCore (s : State) (cl : Nat) : State :=
  wakeGroup (wakeGroup (wakeGroup (wakeGroup s cl 0) cl 1) cl 2) cl 3

/-- A core's groups act unless its span is frozen, freezing or saving (R391). -/
def coreActive (s : State) (cl : Nat) : Bool :=
  match spanAt s cl with
  | some (_, x) => spanActive x
  | none => true

/-- When a group issues, its aged class falls back, the round-robin mark of its class moves, and the core's issue of this
cycle is used (R166). -/
def markIssue (s : State) (cl g : Nat) : State :=
  let c := (getCl s cl).core
  let top := effClass c g
  modCore s cl (fun c => { c with
    lastIssued := vec4Set c.lastIssued top g
    lastGroup := g
    issuedAt := some (now s cl)
    grp := vec4Set c.grp g { vec4Get c.grp g with aged := 0, since := now s cl } })

/-- The classes that a group has gained at cycle `t`: one for every 2^16 consecutive cycles that it has stayed Ready without
issuing, up to 3 (R166). -/
def agedGroup (t : Nat) (g : Group) : Group :=
  let n := (t - g.since) / 2 ^ 16
  if isReady g && decide (n ≠ 0) then
    { g with aged := max (ownClass g) (min 3 (ownClass g + n)), since := g.since + n * 2 ^ 16 }
  else g
/-- AGING (R166). A Ready group's aged class rises by one for every 2^16 consecutive cycles it has stayed Ready without
issuing, up to 3. A core brings it up to date before it chooses a group. -/
def execAging (cl grp : Nat) (s : State) : Out := .next (modGrp s cl grp (agedGroup (now s cl)))
/-- The aged classes of a core's groups at this cycle. -/
def ageCore (s : State) (cl : Nat) : State :=
  modCore s cl (fun c => { c with grp := vec4Of (fun g => agedGroup (now s cl) (vec4Get c.grp g)) 0 })

/-- An event enters the trap entry of R196 as an asynchronous event: SY.EPC holds the next instruction. -/
def deliverEvent (s : State) (cl g : Nat) (r : FaultRec) : State :=
  modGrp s cl g (enterTrap (getCl s cl).core.tvec (getGrp s cl g).pc r)

/-- CFG joins the groups whose CFG waits, and leaves them again. -/
def joinCfg (g : Nat) (c : Core) : Core := if g ∈ c.cfgq then c else { c with cfgq := c.cfgq ++ [g] }
def leaveCfg (g : Nat) (c : Core) : Core := { c with cfgq := c.cfgq.filter (fun h => decide (h ≠ g)) }

/-- The oldest queued event is taken by group SY.FGRP, which is about to issue (R198); a held event then enters the queue
(R382). A CFG that the group was about to execute again is given up (R180). -/
def takeEvent (cl : Nat) (s : State) : State :=
  let g := (getCl s cl).core.fgrp
  match (getCl s cl).core.events with
  | [] => s
  | r :: rest =>
    let s1 := modGrp s cl g (fun x => { x with since := now s cl })
    deliverEvent (modCore s1 cl (fun c => leaveCfg g { c with events := rest ++ c.held.take 1, held := c.held.drop 1 })) cl g r

/-- The group that issues is named, and the marks of R166 move. -/
def issueAt (s : State) (cl g : Nat) : State :=
  { markIssue s cl g with cur := { s.cur with cl := cl, grp := g } }
/-- The core has issued in this cycle: it issues at most once a cycle (R166). -/
def hasIssued (s : State) (cl : Nat) : Bool := decide ((getCl s cl).core.issuedAt = some (now s cl))
/-- The group of a core that issues next, once aged classes and Waiting groups have been brought up to date (R166). -/
def nextGroup (s0 : State) (cl : Nat) : State × Option Nat :=
  if !coreActive s0 cl || hasIssued s0 cl then (s0, none)
  else
    let s := wakeCore (ageCore s0 cl) cl
    (s, chooseGroup (getCl s cl).core)

/-- EVENT_TAKEN (R198). The oldest queued event is taken by group SY.FGRP in place of the instruction that it would issue
next, in user mode or with IE = 1. -/
def execEventTaken (cl : Nat) (s : State) : Out :=
  match nextGroup s cl with
  | (t, some g) => .next (if eventReady (getCl t cl).core g then takeEvent cl (issueAt t cl g) else s)
  | (_, none) => .next s

end Sys2Proof.Machine
end

