-- ==== Sys2Proof/Machine/Requests.lean ====
section
/-! DEFINITION. Request tokens: their shapes and fields, and the check a unit makes at its head
(R156, R278, R280, R283, R288, R301 to R303). -/

namespace Sys2Proof.Machine

open Sys2Proof

def laneOf (t : Token) (i : Nat) : W32 := vec8Get t.lanes i
/-- Lanes 1:0 as one 64-bit value, lane 0 low. -/
def lane64 (t : Token) : W64 := laneOf t 1 ++ laneOf t 0
def lanesClear (t : Token) (l : List Nat) : Bool := l.all (fun i => decide (laneOf t i = 0#32))

/-- The shape of a request token: BUB = 0, FMT I32, LN 8 (R280, R288). -/
def reqShape (t : Token) : Bool := !hdrBUB t.hdr && decide (hdrFMT t.hdr = 0) && decide (hdrLN t.hdr = 8)
/-- The kind of a request token (R156); 16 for a token without the shape. -/
def reqKind (t : Token) : Nat := if reqShape t then field 31 28 (laneOf t 7) else 16
/-- OPX of a transfer request (R283). -/
def reqOpx (t : Token) : Nat := field 27 24 (laneOf t 7)
def reqCount (t : Token) : Nat := (laneOf t 3).toNat
def reqAddr (t : Token) : Nat := (lane64 t).toNat % 2 ^ 52
def countOk (t : Token) : Bool := decide (1 ≤ reqCount t ∧ reqCount t ≤ 16384)
/-- Lane 7 uses only the listed ranges below bit 24. -/
def lane7Only (t : Token) (m : Nat) : Bool := decide ((laneOf t 7).toNat % 2 ^ 24 &&& m = (laneOf t 7).toNat % 2 ^ 24)

/-! Address generators (R278, R280, R283). -/

def agMode (d : W64) : Nat := field 63 62 d
def agNB (d : W64) : Nat := field 49 48 d
def agROW (d : W64) : Nat := field 47 36 d
def agNR (d : W64) : Nat := field 35 24 d
def agSIZE (d : W64) : Nat := field 23 12 d
def agBASE (d : W64) : Nat := field 11 0 d

/-- A descriptor of R278 that is not reserved. -/
def descOk (d : W64) : Bool :=
  decide (field 61 50 d = 0) && decide (agBASE d + agSIZE d ≤ 4095)
  && (decide (agMode d ≠ 3) || (decide (1 ≤ agNR d ∧ agNR d ≤ 8) && decide (agROW d * agNR d ≤ agSIZE d + 1)
        && decide (1 ≤ agROW d)))
  && (decide (agMode d ≠ 2) || decide ((agSIZE d + 1) % (agNB d + 1) = 0))

/-- The tile transfer fields of FETCH and PUT. -/
def moveOk (t : Token) : Bool :=
  decide (reqAddr t % 16 = 0) && lanesClear t [4, 5, 6] && decide ((laneOf t 2).toNat % 16 = 0)
  && decide ((laneOf t 2).toNat < 65536) && decide (reqCount t % 16 = 0)
  && decide (16 ≤ reqCount t ∧ reqCount t ≤ 65536) && decide ((laneOf t 2).toNat + reqCount t ≤ 65536)

/-- Whether an address generator in mode `m` takes a transfer request (R283). `out`: its data output has a channel. -/
def agTakes (d : W64) (out : Bool) (t : Token) : Bool :=
  let m := agMode d
  match reqOpx t with
  | 0 => lanesClear t [2, 3, 4, 5, 6] && lane7Only t 0 && descOk (lane64 t)
  | 1 => (decide (m = 2) || decide (m = 3)) && out && lanesClear t [0, 1, 4, 5, 6]
      && decide ((laneOf t 2).toNat < 65536) && countOk t && lane7Only t 0x3FF
      && decide (field 4 3 (laneOf t 7) ≤ 2) && (decide (m = 3) || decide (field 9 8 (laneOf t 7) ≤ agNB d))
  | 2 => decide (m = 2) && lanesClear t [0, 1, 4, 5, 6] && decide ((laneOf t 2).toNat < 65536) && countOk t
      && lane7Only t 0x308 && decide (field 9 8 (laneOf t 7) ≤ agNB d)
  | 3 => moveOk t && lane7Only t 0xF
  | 4 => lanesClear t [1, 2, 3, 4, 5, 6] && decide (laneOf t 0 ≠ 0#32) && lane7Only t 0xF
  | 5 => moveOk t && lane7Only t 0
  | _ => false

/-- What a token at the head of a generator's input is (R280). -/
inductive HeadIs where
  | data
  | request
  | bad
  deriving DecidableEq, Repr

def agHead (g : AddrGen) (out : Bool) (t : Token) : HeadIs :=
  if g.job.any (fun j => decide (reqOpx j.tok = 2)) then .data
  else if agMode g.desc = 1 then .data
  else if reqKind t = 3 then (if agTakes g.desc out t then .request else .bad)
  else if agMode g.desc = 3 then .data
  else .bad

/-! Streamer ports (R285, R288). -/

/-- Whether a streamer port takes a transfer request (R283). -/
def portTakes (out : Bool) (t : Token) : Bool :=
  match reqOpx t with
  | 8 => out && lanesClear t [2, 4, 5, 6] && countOk t && lane7Only t 0x3C7
  | 9 => lanesClear t [2, 4, 5, 6] && countOk t && lane7Only t 0
  | _ => false

/-- A drain stream or a PUTS is running or waits: every token of the input is its data (R288). -/
def wantsData (p : SPort) : Bool := p.q.any (fun st => decide (st.kind = 1) || decide (st.kind = 4))

/-- What a token at the head of a port's input is; a token that is neither waits without a fault (R288). An
SREQ is checked further when it is taken (R285). -/
def portHead (p : SPort) (out : Bool) (t : Token) : Option HeadIs :=
  if wantsData p then some .data
  else if reqKind t = 3 then some (if portTakes out t then .request else .bad)
  else if reqKind t = 2 then some (if (laneOf t 7).toNat % 2 ^ 28 = 0 then .request else .bad)
  else none

/-! The matrix island (R299 to R303). -/

/-- The step P of an operand pair, or none for a reserved pair (R299). `wa`, `wb`: QG width is 8. -/
def pairStep (fa fb : Nat) (wa wb : Bool) : Option Nat :=
  if (fa = 2 ∧ fb = 2) ∨ (fa = 3 ∧ fb = 3) then some 2
  else if (fa = 4 ∨ fa = 5) ∧ (fb = 4 ∨ fb = 5) then some 4
  else if fa = 7 ∧ fb = 7 then (if wa ∧ wb then some 4 else if wa ∨ wb then none else some 8)
  else if fa = 6 ∧ fb = 6 then some 8
  else if (fa = 2 ∨ fa = 3) ∧ fb = 7 then some 2
  else none

/-- Bits of an element of an operand format. -/
def elBits (f : Nat) (w : Bool) : Nat :=
  match f with
  | 2 | 3 => 16
  | 4 | 5 => 8
  | 6 => 4
  | _ => if w then 8 else 4

/-- The fields of an MMA token (R301). -/
def mmaTA (t : Token) : Nat := field 20 16 (laneOf t 0)
def mmaOA (t : Token) : Nat := field 15 0 (laneOf t 0)
def mmaTB (t : Token) : Nat := field 20 16 (laneOf t 1)
def mmaOB (t : Token) : Nat := field 15 0 (laneOf t 1)
def mmaPB (t : Token) : Nat := field 31 16 (laneOf t 2)
def mmaPA (t : Token) : Nat := field 15 0 (laneOf t 2)
def mmaFA (t : Token) : Nat := field 31 29 (laneOf t 3)
def mmaFB (t : Token) : Nat := field 28 26 (laneOf t 3)
def mmaFEA (t : Token) : Bool := bitAt 25 (laneOf t 3)
def mmaFEB (t : Token) : Bool := bitAt 24 (laneOf t 3)
def mmaK (t : Token) : Nat := field 18 12 (laneOf t 3)
def mmaN (t : Token) : Nat := field 11 6 (laneOf t 3) + 1
def mmaM (t : Token) : Nat := field 5 0 (laneOf t 3) + 1
def mmaTC (t : Token) : Nat := field 20 16 (laneOf t 4)
def mmaOC (t : Token) : Nat := field 15 0 (laneOf t 4)
def mmaPC (t : Token) : Nat := field 15 0 (laneOf t 5)
def mmaCLRD (t : Token) : Bool := bitAt 7 (laneOf t 6)
def mmaDRN (t : Token) : Bool := bitAt 6 (laneOf t 6)
def mmaACC (t : Token) : Bool := bitAt 5 (laneOf t 6)
def mmaSCM (t : Token) : Nat := field 4 3 (laneOf t 6)
def mmaCPL (t : Token) : Bool := bitAt 2 (laneOf t 6)
/-- Widths of QG operands (R300). -/
def islWA (i : Island) : Bool := bitAt 16 i.mxsc
def islWB (i : Island) : Bool := bitAt 17 i.mxsc
def mmaP (i : Island) (t : Token) : Option Nat := pairStep (mmaFA t) (mmaFB t) (islWA i) (islWB i)

/-- The checks of R303 on an MMA token. -/
def mmaOk (i : Island) (t : Token) : Bool :=
  let ba := elBits (mmaFA t) (islWA i)
  let bb := elBits (mmaFB t) (islWB i)
  decide (field 31 21 (laneOf t 0) = 0) && decide (field 31 21 (laneOf t 1) = 0)
  && decide (field 23 19 (laneOf t 3) = 0) && decide (field 31 21 (laneOf t 4) = 0)
  && decide (field 31 16 (laneOf t 5) = 0) && decide (field 31 8 (laneOf t 6) = 0)
  && decide (field 1 0 (laneOf t 6) = 0) && lane7Only t 0 && decide (mmaSCM t ≤ 1)
  && (match mmaP i t with
      | none => false
      | some p => decide (mmaK t ≠ 0) && decide (mmaK t % p = 0))
  && decide (mmaK t ≤ 64)
  && [mmaOA t, mmaOB t, mmaOC t, mmaPA t, mmaPB t, mmaPC t].all (fun x => decide (x % 16 = 0))
  && decide (mmaOA t + (mmaM t - 1) * mmaPA t + mmaK t * ba / 8 ≤ 65536)
  && decide (mmaOB t + (mmaN t - 1) * mmaPB t + mmaK t * bb / 8 ≤ 65536)
  && (!mmaDRN t || decide (mmaOC t + (mmaM t - 1) * mmaPC t + 4 * mmaN t ≤ 65536))

/-- The checks of R300, R302 and R303 on a SETREG token. -/
def setregOk (t : Token) : Bool :=
  let v := lane64 t
  decide ((laneOf t 2).toNat ≤ 5) && lanesClear t [3, 4, 5, 6] && lane7Only t 0
  && (match (laneOf t 2).toNat with
      | 4 => decide (field 63 24 v = 0) && decide (field 19 18 v = 0) && decide (field 15 14 v = 0)
          && decide (field 7 6 v = 0) && decide (field 23 22 v ≠ 3) && decide (field 21 20 v ≠ 3)
      | 5 => decide (field 63 22 v = 0)
      | _ => decide (field 63 52 v = 0))

/-- Whether the island takes the token at the head of port 0 (R303). In Die-0 service only BF16 × BF16 is
allowed (R410). -/
def islandTakes (die0 : Bool) (i : Island) (t : Token) : Bool :=
  decide (reqKind t = 1) &&
  (match reqOpx t with
   | 0 => mmaOk i t && (!die0 || (decide (mmaFA t = 2) && decide (mmaFB t = 2)))
   | 1 => setregOk t
   | _ => false)

/-! Heads. -/

def genEnd (rel t a : Nat) : Endpoint := ⟨.gen rel t a, 0, false⟩
def portEnd (rel n : Nat) : Endpoint := ⟨.port rel n, 0, false⟩
def islandEnd (rel : Nat) : Endpoint := ⟨.island rel, 0, false⟩
/-- The same unit's control end. -/
def ctlEnd (e : Endpoint) : Endpoint := { e with ctl := true }
def hasOut (l : Load) (e : Endpoint) : Bool := (findOut l e).isSome
def hasIn (l : Load) (e : Endpoint) : Bool := (findIn l e).isSome

/-- The head token at a data port, which stands there since before cycle `t`. -/
def headAt (l : Load) (e : Endpoint) (t : Nat) : Option Token :=
  match findIn l e with
  | none => none
  | some p => ((branchOf l p).bind (fun b => headGroup b 1 t)).bind List.head?

/-- The head token at a data port, whenever it arrived: what the port checks as it reaches the head. -/
def headNow (l : Load) (e : Endpoint) : Option Token :=
  match findIn l e with
  | none => none
  | some p => ((branchOf l p).map (fun b => b.buf)).bind (fun q => q.head?.map (·.tok))

/-- Popping one token at a unit's data input. -/
def popUnit (s : State) (sp : Nat) (l : Load) (e : Endpoint) : State :=
  match findIn l e with
  | none => s
  | some (ch, br) => modBr s sp ch br (popN (spanNow s sp) 1)

/-- The location words of the engines (R195). -/
def genLoc (rel t a : Nat) : Nat := locWord rel (memTilePos t) 0 a 2
def portLoc (rel n : Nat) : Nat := locWord rel n 0 n 3
def islandLoc (rel : Nat) : Nat := locWord rel 56 0 0 4

/-- An engine stops with a fault and its event is delivered (R381). -/
def genFault (s : State) (cl t a : Nat) (r : FaultRec) : State :=
  postEvent (modGen s cl t a (fun g => { g with fault := some r })) cl r
def portFault (s : State) (cl n : Nat) (r : FaultRec) : State :=
  postEvent (modPort s cl n (fun p => { p with fault := some r })) cl r
def islandFault (s : State) (cl : Nat) (r : FaultRec) : State :=
  postEvent (modIsland s cl (fun i => { i with fault := some r })) cl r

/-- The check a unit makes on the token that has come to the head of its data input. -/
def headCheck (s : State) (sp : Nat) (e : Endpoint) : State :=
  match getSpan s sp with
  | none => s
  | some x =>
    match x.load with
    | none => s
    | some l =>
      match headNow l e, e.unit with
      | some t, .gen rel tile a =>
        match absOf x rel with
        | none => s
        | some cl =>
          let g := getGen s cl tile a
          if g.fault.isNone && g.job.isNone && decide (agHead g (hasOut l e) t = .bad) then
            genFault s cl tile a ⟨5, 0, 0, genLoc rel tile a⟩
          else s
      | some t, .port rel n =>
        match absOf x rel with
        | none => s
        | some cl =>
          let p := getPort s cl n
          if p.fault.isNone && decide (portHead p (hasOut l e) t = some .bad) then
            portFault s cl n ⟨5, 0, 0, portLoc rel n⟩
          else s
      | some t, .island rel =>
        match absOf x rel with
        | none => s
        | some cl =>
          let i := (getCl s cl).island
          if i.fault.isNone && !islandTakes (decide (s.hub.boot = .die0)) i t then islandFault s cl ⟨5, 0, 0, islandLoc rel⟩ else s
      | _, _ => s

/-- A unit takes the token at its head, and the next one is checked. -/
def takeHead (s : State) (sp : Nat) (l : Load) (e : Endpoint) : State := headCheck (popUnit s sp l e) sp e

end Sys2Proof.Machine
end

