-- ==== Sys2Proof/Machine/CoreSys.lean ====
section
/-! DEFINITION. Control core: traps, returns, exit, waits, barriers, system registers, counters
(R171, R187, R188, R191, R193 to R199). -/

namespace Sys2Proof.Machine

open Sys2Proof

/-- ILLEGAL_INSTRUCTION (R171). An instruction that cannot execute raises the trap with its subcode, at its address. -/
def execIllegalInstruction (sub : BitVec 8) (s : State) : Out :=
  .next (illegal s sub.toNat)

/-- A supervisor-only form: in user mode it raises subcode 5 (R171). -/
def superOnly (s : State) (t : State) : State := if modeOf (curGrp s) then t else illegal s 5

/-- ERET (R196). Control core returns from a trap. -/
def execEret (s : State) : Out :=
  .next (superOnly s (modCur s returnTrap))

/-- WFI (R199). Control core waits for a pending masked event. It completes at once when the condition holds already. -/
def execWfi (s : State) : Out :=
  .next (if waitOver s s.cur.cl s.cur.grp .wfi then skip s 4 else modCur s (waitFor .wfi))

/-- PRIO (R188). Control core sets the group's base class. -/
def execPrio (d : BitVec 5) (c : BitVec 2) (s : State) : Out :=
  let k := min c.toNat (getCl s s.cur.cl).core.maxc
  .next (finish (modCur s (fun g => { g with base := k })) 4 d (BitVec.ofNat 64 k))

/-! Barriers (R187): the last arrival completes the count; the completion wakes the waiters. -/

/-- Whether a barrier's count is complete. -/
def groupBarFull (c : Core) (m : Nat) : Bool := decide ((m, m) ∈ c.bars)
def clusterBarFull (x : Span) (id : Nat) : Bool :=
  match amGet x.bars id with
  | none => false
  | some b => decide (b.count ≤ b.arrived.length)

/-- A BAR of a barrier that a freeze cancelled, and that has not been executed again (R202). -/
def cutAt (k : Bool) (id : Nat) (g : Group) : Bool := g.cut.any (fun c => decide (c.clusterBar = k ∧ c.id = id) && !c.passed)
/-- A group that has arrived at a barrier: it waits there, or will execute its BAR again. -/
def waitsAt (k : Bool) (id : Nat) (g : Group) : Bool := decide (g.st = .waiting (.barrier k id)) || cutAt k id g
/-- A group that waits at a barrier becomes Ready past it; a BAR that will be executed again passes then. -/
def releaseFrom (t : Nat) (k : Bool) (id : Nat) (g0 : Group) : Group :=
  let g := if cutAt k id g0 then { g0 with cut := g0.cut.map (fun c => { c with passed := true }) } else g0
  if g.st = .waiting (.barrier k id) then advance 4 { g with st := .ready, since := t } else g
/-- The completion of a barrier is a release of each group of a core that has arrived at it, and an acquire (R232 to R234). -/
def releaseWaiters (s : State) (cl sc : Nat) (k : Bool) (id : Nat) : State :=
  (List.range 4).foldl (fun s g => if waitsAt k id (getGrp s cl g) then flushGrp s cl g sc else s) s

/-- A group barrier completes, a release and an acquire at cluster scope (R234): its waiters become Ready and it is empty
again. -/
def completeGroupBar (s : State) (cl m : Nat) : State :=
  modCore (releaseWaiters s cl 0 false m) cl (fun c => { c with
    bars := c.bars.filter (fun b => decide (b.1 ≠ m))
    grp := vec4Of (fun g => releaseFrom (now s cl) false m (vec4Get c.grp g)) 0 })

/-- A cluster barrier completes, a release and an acquire at span scope (R234): the waiters of every cluster of the span
become Ready. -/
def completeClusterBar (s : State) (sp id : Nat) : State :=
  match getSpan s sp with
  | none => s
  | some x =>
    let s0 := x.clusters.foldl (fun s k => releaseWaiters s k 1 true id) s
    let s1 := modSpan s0 sp (fun y => { y with bars := amDel y.bars id })
    x.clusters.foldl (fun s k => modCore s k (fun c => { c with
      grp := vec4Of (fun g => releaseFrom (now s k) true id (vec4Get c.grp g)) 0 })) s1

/-- A barrier that has reached its count completes before a later arrival is counted. -/
def settleGroupBar (s : State) (cl m : Nat) : State :=
  if groupBarFull (getCl s cl).core m then completeGroupBar s cl m else s
def settleClusterBar (s : State) (sp id : Nat) : State :=
  match getSpan s sp with
  | none => s
  | some x => if clusterBarFull x id then completeClusterBar s sp id else s

/-- Group g arrives at the barrier of mask m. -/
def arriveGroup (m g : Nat) (bars : List (Nat × Nat)) : List (Nat × Nat) :=
  if bars.any (fun b => decide (b.1 = m)) then
    bars.map (fun b => if b.1 = m then (m, b.2 ||| 2 ^ g) else b)
  else bars ++ [(m, 2 ^ g)]

/-- The BAR that a group executes is one that a freeze cancelled (R202); it passes at once where its barrier has completed. -/
def cutHere (g : Group) : Option CutBar := g.cut.filter (fun c => decide (c.pc = g.pc))
def passesCut (g : Group) : Bool := (cutHere g).any (·.passed)
def clearCut (g : Group) : Group := if (cutHere g).isSome then { g with cut := none } else g

/-- BAR_G (R187). Control core arrives at a group barrier of its core. -/
def execBarG (m : BitVec 4) (s : State) : Out :=
  let g := s.cur.grp
  let cl := s.cur.cl
  if !bitAt g m then .next (illegal s 11)
  else
    let s1 := settleGroupBar s cl m.toNat
    if passesCut (curGrp s1) then .next (skip (modCur s1 clearCut) 4)
    else
      let s2 := modCore (modCur s1 clearCut) cl (fun c => { c with bars := arriveGroup m.toNat g c.bars })
      .next (modCur s2 (waitFor (.barrier false m.toNat)))

/-- BAR_C (R187). Control core arrives at a cluster barrier of the span. -/
def execBarC (a : BitVec 5) (i : BitVec 6) (s : State) : Out :=
  let n := (xget (curGrp s) a).toNat
  let id := i.toNat
  match spanAt s s.cur.cl with
  | none => .next (illegal s 11)
  | some (sp, x0) =>
    if n = 0 ∨ x0.clusters.length < n then .next (illegal s 11)
    else
      let s1 := settleClusterBar s sp id
      if passesCut (curGrp s1) then .next (skip (modCur s1 clearCut) 4)
      else
        let bars := ((getSpan s1 sp).map (·.bars)).getD amEmpty
        let s2 := modCur s1 clearCut
        match amGet bars id with
        | some b =>
          if b.count ≠ n then .next (illegal s1 8)
          else
            let b1 := if s.cur.cl ∈ b.arrived then b else { b with arrived := b.arrived ++ [s.cur.cl] }
            .next (modCur (modSpan s2 sp (fun y => { y with bars := amPut y.bars id b1 })) (waitFor (.barrier true id)))
        | none =>
          .next (modCur (modSpan s2 sp (fun y => { y with bars := amPut y.bars id ⟨n, [s.cur.cl]⟩ }))
            (waitFor (.barrier true id)))

/-- BARRIER_COMPLETE (R187). A barrier completes and its waiters become Ready: a group barrier `id` (its mask)
of cluster `cl`'s core, or cluster barrier `id` of the span that holds `cl`. In a span that does not run it waits (R202). -/
def execBarrierComplete (cl id : Nat) (clusterBar : Bool) (s : State) : Out :=
  if !coreActive s cl then .next s
  else if clusterBar then
    match spanAt s cl with
    | none => .next s
    | some (sp, _) => .next (settleClusterBar s sp id)
  else .next (settleGroupBar s cl id)

/-! System registers (R193 to R195, R371, R426). -/

/-- The current load of the executing core's span (R180). -/
def curLoad (s : State) : Option Load := (spanAt s s.cur.cl).bind (fun p => p.2.load)

/-- The assigned register numbers. -/
def sysNumbers : List Nat :=
  [0x000, 0x001, 0x002, 0x003, 0x004, 0x005, 0x006, 0x007, 0x010, 0x011, 0x012, 0x013, 0x018, 0x019, 0x020,
   0x021, 0x022, 0x028, 0x029, 0x02A, 0x02B, 0x030, 0x031]
/-- The registers marked S. -/
def sysSuper : List Nat :=
  [0x000, 0x001, 0x002, 0x003, 0x004, 0x005, 0x006, 0x007, 0x012, 0x013, 0x021, 0x022, 0x029, 0x02A, 0x02B]

/-- SY.GID. -/
def gidWord (s : State) (cl g : Nat) : Nat :=
  g % 4 + (relCl s cl % 4096) * 2 ^ 2 + (cl % 4096) * 2 ^ 14 + (partOfCl s cl % 16) * 2 ^ 26

/-- The value a read gives. -/
def sysRead (s : State) (r : Nat) : W64 :=
  let cl := s.cur.cl
  let c := (getCl s cl).core
  let g := curGrp s
  match r with
  | 0x000 => g.status
  | 0x001 => g.cause
  | 0x002 => g.epc
  | 0x003 => g.tval
  | 0x004 => c.tvec
  | 0x005 => g.scr
  | 0x006 => BitVec.ofNat 64 (b2n c.esc)
  | 0x007 => c.eres
  | 0x010 => BitVec.ofNat 64 (gidWord s cl s.cur.grp)
  | 0x011 => BitVec.ofNat 64 (g.base + 4 * effClass c s.cur.grp)
  | 0x012 => BitVec.ofNat 64 c.maxc
  | 0x013 => BitVec.ofNat 64 c.fgrp
  | 0x018 => BitVec.ofNat 64 (layvOf (curLoad s))
  | 0x019 => BitVec.ofNat 64 (256 - (getPart s (partOfCl s cl)).pool.length)
  | 0x020 => BitVec.ofNat 64 (now s cl)
  | 0x021 => c.wdog
  | 0x022 => c.rcap
  | 0x028 => BitVec.ofNat 64 (g.asid % 65536)
  | 0x029 => c.ptbr
  | 0x02A => c.lspb
  | 0x02B => c.lspn
  | 0x030 => BitVec.ofNat 64 (pendOf c)
  | 0x031 => g.pmsk
  | _ => 0#64

/-- SY.ESC: writing 1 to bit 0 sets it and raises the partition interrupt (R193, R383). -/
def writeEsc (s : State) (v : W64) : State :=
  if bitAt 0 v then
    partitionInterrupt (modCore s s.cur.cl (fun c => { c with esc := true })) (partOfCl s s.cur.cl)
  else s

/-- Resuming a unit of the cluster: the fault goes, and a token still refused at its head is checked again. -/
def resumeGen (s : State) (cl rel t a : Nat) (sp : Nat) : State :=
  if (getGen s cl t a).fault.isSome then
    headCheck (modGen s cl t a (fun g => { g with fault := none })) sp (genEnd rel t a)
  else s
def resumePort (s : State) (cl rel n : Nat) (sp : Nat) : State :=
  if (getPort s cl n).fault.isSome then
    headCheck (modPort s cl n (fun p => { p with fault := none })) sp (portEnd rel n)
  else s
def resumeIsland (s : State) (cl rel : Nat) (sp : Nat) : State :=
  if (getCl s cl).island.fault.isSome then
    headCheck (modIsland s cl (fun i => { i with fault := none })) sp (islandEnd rel)
  else s
/-- The comparator whose branch A ends at an i port of an element, or at the distributor of the operator whose home it is
(R195, R243, R418). -/
def cmpAt (l : Load) (rel el port : Nat) (c : Cmp) : Bool :=
  (branchOf l (c.chA, c.brA)).any (fun b => match b.dst.unit with
    | .element r e => decide (r = rel ∧ e = el ∧ b.dst.port = port) && !b.dst.ctl
    | .dist op => decide (b.dst.port = port) && (amGet l.ops op).any (fun o => decide (o.home = (rel, el)))
    | _ => false)
def resumeCmp (s : State) (rel el port : Nat) (sp : Nat) : State :=
  modLoad s sp (fun l => { l with
    cmps := l.cmps.map (fun c => if c.stopped && cmpAt l rel el port c then { c with stopped := false, run := 0 } else c) })
/-- The memory tile at a router position. -/
def tileAtPos (p : Nat) : Option Nat :=
  let y := p / 8
  let x := p % 8
  if (x + y) % 2 = 1 then some (4 * y + x / 2) else none

/-- The stopped unit that a location word names goes on (R193, R195). -/
def resumeUnit (s : State) (v : W64) : State :=
  let cl := s.cur.cl
  match spanAt s cl with
  | none => s
  | some (sp, x) =>
    let rel := relOf x cl
    let pos := field 18 12 v
    let port := field 26 23 v
    if field 11 0 v ≠ rel ∨ field 63 30 v ≠ 0 then s
    else
      match field 29 27 v with
      | 0 => if (amGet (getCl s cl).elems pos).isSome then
               modEl s cl pos (fun e => { e with fault := none, badPorts := [] }) else s
      | 2 => match tileAtPos pos with
             | some t => if port < 4 then resumeGen s cl rel t port sp else s
             | none => s
      | 3 => if pos = port then resumePort s cl rel port sp else s
      | 4 => if pos = 56 ∧ port = 0 then resumeIsland s cl rel sp else s
      | 5 => resumeCmp s rel pos port sp
      | _ => s

/-- SY.ERES: the word is kept, and the unit it names is resumed. -/
def writeEres (s : State) (v : W64) : State :=
  resumeUnit (modCore s s.cur.cl (fun c => { c with eres := v })) v

/-- SY.RCAP: bounded by the partition's PRCAP (R426). -/
def boundedRcap (cap : Nat) (v : W64) : W64 :=
  let x := v.toNat % 2 ^ 32
  BitVec.ofNat 64 (if cap = 0 then x else if x = 0 then cap else min x cap)

/-- The effect of a write; writes to read-only registers and reserved fields are ignored (R2). -/
def sysWrite (s : State) (r : Nat) (v : W64) : State :=
  let cl := s.cur.cl
  match r with
  | 0x000 => modCur s (fun g => { g with status := BitVec.ofNat 64 (field 3 0 v) })
  | 0x001 => modCur s (fun g => { g with cause := setField 62 32 v 0 })
  | 0x002 => modCur s (fun g => { g with epc := v })
  | 0x003 => modCur s (fun g => { g with tval := v })
  | 0x004 => modCore s cl (fun c => { c with tvec := setField 1 0 v 0 })
  | 0x005 => modCur s (fun g => { g with scr := v })
  | 0x006 => writeEsc s v
  | 0x007 => writeEres s v
  | 0x012 => modCore s cl (fun c => { c with maxc := field 1 0 v })
  | 0x013 => modCore s cl (fun c => { c with fgrp := field 1 0 v })
  | 0x021 => modCore s cl (fun c => { c with wdog := v })
  | 0x022 => modCore s cl (fun c => { c with rcap := boundedRcap c.rcapMax v })
  | 0x029 => modCore s cl (fun c => { c with ptbr := BitVec.ofNat 64 (field 51 12 v * 4096) })
  | 0x02A => modCore s cl (fun c => { c with lspb := BitVec.ofNat 64 (field 51 5 v * 32) })
  | 0x02B => modCore s cl (fun c => { c with lspn := BitVec.ofNat 64 (field 31 0 v) })
  | 0x030 => modCore s cl (fun c => { c with pend := c.pend &&& ((2 ^ 64 - 1) ^^^ (v.toNat &&& 0x1C)) })
  | 0x031 => modCur s (fun g => { g with pmsk := v })
  | _ => s

/-- An access to a system register: subcode 10 for an unassigned number, 5 for a supervisor register in user mode. -/
def sysGuard (s : State) (r : Nat) (t : State) : State :=
  if r ∉ sysNumbers then illegal s 10
  else if r ∈ sysSuper ∧ !modeOf (curGrp s) then illegal s 5
  else t

/-- SYR (R193). Control core reads a system register. -/
def execSyr (d : BitVec 5) (r : BitVec 12) (s : State) : Out :=
  .next (sysGuard s r.toNat (finish s 4 d (sysRead s r.toNat)))

/-- SYW (R193). Control core writes a system register. -/
def execSyw (a : BitVec 5) (r : BitVec 12) (s : State) : Out :=
  .next (sysGuard s r.toNat (skip (sysWrite s r.toNat (xget (curGrp s) a)) 4))

/-- SY_ESC_WRITE (R193). Writing 1 to SY.ESC bit 0 sets it and raises the partition interrupt. -/
def execSyEscWrite (xa : BitVec 5) (s : State) : Out :=
  .next (superOnly s (skip (writeEsc s (xget (curGrp s) xa)) 4))

/-- SY_ERES_WRITE (R193). Writing a location word to SY.ERES resumes the named stopped unit. -/
def execSyEresWrite (xa : BitVec 5) (s : State) : Out :=
  .next (superOnly s (skip (writeEres s (xget (curGrp s) xa)) 4))

/-! Event counters (R191, R420). -/

/-- Whether a source code is assigned for a cluster counter, and for a die counter (R420). -/
def sourceOk (die : Bool) (c : Nat) : Bool :=
  decide (c = 0 ∨ c = 1 ∨ c = 0x10 ∨ (0x2000 ≤ c ∧ c ≤ 0x2002) ∨ c = 0x3000 ∨ c = 0x3001
    ∨ (0x6001 ≤ c ∧ c ≤ 0x6004) ∨ c = 0x6010 ∨ c = 0x7000 ∨ c = 0x7001 ∨ c = 0x8000)
  || (!die && decide (c = 0x11 ∨ (0x1000 ≤ c ∧ c ≤ 0x1FFF)))
  || (die && decide (c = 0x4000 ∨ c = 0x4001 ∨ c = 0x4002 ∨ (0x5000 ≤ c ∧ c ≤ 0x500F)))

/-- Counter n of a die. -/
def dieCounter (s : State) (d n : Nat) : Counter := amGetD s.hub.dctr (32 * d + n) ⟨0, 0#64, none, none⟩
def setDieCounter (s : State) (d n : Nat) (c : Counter) : State :=
  modHub s (fun h => { h with dctr := amPut h.dctr (32 * d + n) c })
def counterGet (s : State) (cl i : Nat) : Counter :=
  if i < 8 then vec8Get (getCl s cl).counters i else dieCounter s (dieOf cl) (i - 8)
/-- The counter that a CNT writes: a DCSEL write of the same cycle is ignored beside it (R421). -/
def counterAt (t : Nat) (c : Counter) : Counter :=
  match c.before with
  | some (u, src, v) => if u = t then { c with src := src, val := v } else c
  | none => c
/-- A CNT sets a counter; a die counter keeps the cycle (R421). -/
def counterSet (s : State) (cl i src : Nat) (v : W64) : State :=
  if i < 8 then modCl s cl (fun k => { k with counters := vec8Set k.counters i ⟨src, v, none, none⟩ })
  else setDieCounter s (dieOf cl) (i - 8) ⟨src, v, some (now s cl), none⟩

/-- CNT (R191). Control core reads, selects or clears an event counter. -/
def execCnt (d : BitVec 5) (a : BitVec 5) (o : BitVec 2) (i : BitVec 6) (s : State) : Out :=
  let cl := s.cur.cl
  let n := i.toNat
  let c := counterGet s cl n
  let src := field 15 0 (xget (curGrp s) a)
  if 40 ≤ n then .next (illegal s 11)
  else if (o = 1#2 ∨ o = 2#2) ∧ 8 ≤ n ∧ !modeOf (curGrp s) then .next (illegal s 5)
  else
    match o.toNat with
    | 0 => .next (finish s 4 d c.val)
    | 1 => if sourceOk (decide (8 ≤ n)) src then .next (finish (counterSet s cl n src 0#64) 4 d 0#64)
           else .next (illegal s 11)
    | 2 => .next (finish (counterSet s cl n (counterAt (now s cl) c).src 0#64) 4 d 0#64)
    | _ => .next (finish (counterSet s cl n (counterAt (now s cl) c).src 0#64) 4 d (counterAt (now s cl) c).val)

end Sys2Proof.Machine
end

