-- ==== Sys2Proof/Machine/ElemInt.lean ====
section
/-! DEFINITION. Element integer, logic, predicate, lane and vector-length instructions, 0x00 to 0x58 (R86 to R106). -/

namespace Sys2Proof.Machine

open Sys2Proof

/-- Sat into i32, n32 (R60). -/
def satI32 (x : Int) : W32 := BitVec.ofInt 32 (satInt (-2147483648) 2147483647 x)
def satN32 (x : Int) : W32 := BitVec.ofInt 32 (satInt 0 4294967295 x)

/-- Each `w`-bit sub-word computed on its own (R89). -/
def packLanes (w n : Nat) (f : Int → Int → Int) (a b : W32) : W32 :=
  BitVec.ofNat 32 ((List.range n).foldl (fun r e =>
    r + (f (sextNat w (a.toNat / 2 ^ (w * e))) (sextNat w (b.toNat / 2 ^ (w * e))) % 2 ^ w).toNat * 2 ^ (w * e)) 0)
def wrapAdd (x y : Int) : Int := x + y
def satAdd (w : Nat) (x y : Int) : Int := satInt (-(2 ^ (w - 1))) (2 ^ (w - 1) - 1) (x + y)

/-- Four products of 8-bit sub-words added to an accumulator (R90). -/
def dot8 (signed : Bool) (d a b : W32) : W32 :=
  let x (v : W32) (e : Nat) : Int := if signed then sextNat 8 (v.toNat / 2 ^ (8 * e)) else (v.toNat / 2 ^ (8 * e) % 256 : Nat)
  BitVec.ofInt 32 ((List.range 4).foldl (fun t e => t + x a e * x b e) d.toInt)

/-- Register shifts define every amount (R93). -/
def shlBy (a : W32) (c : Nat) : W32 := if c < 32 then a <<< c else 0#32
def shrBy (a : W32) (c : Nat) : W32 := if c < 32 then a >>> c else 0#32
def sarBy (a : W32) (c : Nat) : W32 := if c < 32 then a.sshiftRight c else if a.msb then 0xFFFFFFFF#32 else 0#32

/-- Position and length of a bit field, and its mask (R82, R96). -/
def bfPos (w : Slot) : Nat := imm10 w % 32
def bfLen (w : Slot) : Nat := imm10 w / 32 + 1
def bfMask (w : Slot) : W32 := BitVec.ofNat 32 ((2 ^ bfLen w - 1) * 2 ^ bfPos w)
def bfRaw (w : Slot) (a : W32) : Nat := a.toNat / 2 ^ bfPos w % 2 ^ bfLen w

/-- A lane of A at or beyond vl supplies zero (R101). -/
def sourceLane (v : Env) (j : Nat) : W32 := if j < v.vl then laneA v j else 0#32
/-- The shift amount or lane index of R82. -/
def immLow (v : Env) : Nat := imm10 v.w % 32

/-- A reduction over the guarded lanes (R103). -/
def redLanes (v : Env) (f : W32 → W32 → W32) : W32 :=
  match guarded v with
  | [] => 0#32
  | g :: gs => gs.foldl (fun r l => f r (laneA v l)) (laneA v g)

/-- The predicate bit of P-shape operands A and B. -/
def predA (v : Env) (l : Nat) : Bool := predL v v.w.a.toNat l
def predB (v : Env) (l : Nat) : Bool := predL v v.w.b.toNat l

/-- SETVL and SETVLI (R104): the granted length goes to vl and to every lane of D. -/
def setvlEffect (v : Env) (req : Nat) : Effect :=
  let n := min req (8 * v.lg)
  { laneEffect v v.lg n v.lg (header v (some 0) n v.lg) (fun _ => some (BitVec.ofNat 32 n)) with
    ctx := { v.c with vl := n } }

/-- SETPOL (R105). -/
def setpolCtx (i : Nat) (c : OpCtx) : OpCtx :=
  let lg := match i / 4 % 4 with
    | 0 => c.lg
    | 1 => 1
    | 2 => 2
    | _ => 4
  { c with
    lg := lg
    vl := if lg = c.lg then c.vl else min c.vl (8 * lg)
    mz := if i.testBit 5 then i.testBit 1 else c.mz
    tz := if i.testBit 4 then i.testBit 0 else c.tz }

/-- CLRF (R106). -/
def clrfCtx (i : Nat) (c : OpCtx) : OpCtx :=
  { c with mismatch := c.mismatch && !i.testBit 0, ffault := c.ffault && !i.testBit 1 }

/-- The word that RDF reads (R106). -/
def rdfWord (c : OpCtx) : W32 :=
  BitVec.ofNat 32 (b2n c.mismatch + 2 * b2n c.ffault + 4 * (c.gc.toNat % 8))

/-- ADD_I32 (R86). Element slot adds two i32 operands per guarded lane, wrapping. -/
def execAddI32 (w : Slot) (s : State) : Out :=
  laneFire s 0x00 w (some 0) 1 (fun v l => laneA v l + laneB v l)

/-- SUB_I32 (R86). Element slot subtracts i32 operands per guarded lane, wrapping. -/
def execSubI32 (w : Slot) (s : State) : Out :=
  laneFire s 0x01 w (some 0) 1 (fun v l => laneA v l - laneB v l)

/-- ADD_I32_SAT (R86). Element slot adds i32 operands with signed saturation. -/
def execAddI32Sat (w : Slot) (s : State) : Out :=
  laneFire s 0x02 w (some 0) 1 (fun v l => satI32 ((laneA v l).toInt + (laneB v l).toInt))

/-- SUB_I32_SAT (R86). Element slot subtracts i32 operands with signed saturation. -/
def execSubI32Sat (w : Slot) (s : State) : Out :=
  laneFire s 0x03 w (some 0) 1 (fun v l => satI32 ((laneA v l).toInt - (laneB v l).toInt))

/-- ADD_N32_SAT (R86). Element slot adds n32 operands with unsigned saturation. -/
def execAddN32Sat (w : Slot) (s : State) : Out :=
  laneFire s 0x04 w (some 0) 1 (fun v l => satN32 ((laneA v l).toNat + (laneB v l).toNat))

/-- SUB_N32_SAT (R86). Element slot subtracts n32 operands with unsigned saturation. -/
def execSubN32Sat (w : Slot) (s : State) : Out :=
  laneFire s 0x05 w (some 0) 1 (fun v l => satN32 ((laneA v l).toNat - (laneB v l).toNat))

/-- MUL_I32 (R87). Element slot writes the low 32 bits of the lane product. -/
def execMulI32 (w : Slot) (s : State) : Out :=
  laneFire s 0x06 w (some 0) 1 (fun v l => laneA v l * laneB v l)

/-- MULH_I32 (R87). Element slot writes the high 32 bits of the signed lane product. -/
def execMulhI32 (w : Slot) (s : State) : Out :=
  laneFire s 0x07 w (some 0) 1 (fun v l => BitVec.ofInt 32 ((laneA v l).toInt * (laneB v l).toInt / 2 ^ 32))

/-- MULH_N32 (R87). Element slot writes the high 32 bits of the unsigned lane product. -/
def execMulhN32 (w : Slot) (s : State) : Out :=
  laneFire s 0x08 w (some 0) 1 (fun v l => BitVec.ofNat 32 ((laneA v l).toNat * (laneB v l).toNat / 2 ^ 32))

/-- MAC_I32 (R87). Element slot adds the signed lane product into register D, wrapping. -/
def execMacI32 (w : Slot) (s : State) : Out :=
  laneFire s 0x09 w (some 0) 1 (fun v l => laneD v l + laneA v l * laneB v l)

/-- MIN_I32 (R88). Element slot writes the signed minimum per lane. -/
def execMinI32 (w : Slot) (s : State) : Out :=
  laneFire s 0x0A w none 1 (fun v l => if ltS (laneB v l) (laneA v l) then laneB v l else laneA v l)

/-- MAX_I32 (R88). Element slot writes the signed maximum per lane. -/
def execMaxI32 (w : Slot) (s : State) : Out :=
  laneFire s 0x0B w none 1 (fun v l => if ltS (laneA v l) (laneB v l) then laneB v l else laneA v l)

/-- MIN_N32 (R88). Element slot writes the unsigned minimum per lane. -/
def execMinN32 (w : Slot) (s : State) : Out :=
  laneFire s 0x0C w none 1 (fun v l => if ltU (laneB v l) (laneA v l) then laneB v l else laneA v l)

/-- MAX_N32 (R88). Element slot writes the unsigned maximum per lane. -/
def execMaxN32 (w : Slot) (s : State) : Out :=
  laneFire s 0x0D w none 1 (fun v l => if ltU (laneA v l) (laneB v l) then laneB v l else laneA v l)

/-- ABS_I32 (R88). Element slot writes the wrapped absolute value per lane. -/
def execAbsI32 (w : Slot) (s : State) : Out :=
  laneFire s 0x0E w (some 0) 1 (fun v l => if (laneA v l).msb then -(laneA v l) else laneA v l)

/-- ADD_I16 (R89). Element slot adds packed 16-bit sub-words, wrapping. -/
def execAddI16 (w : Slot) (s : State) : Out :=
  laneFire s 0x0F w (some 0) 1 (fun v l => packLanes 16 2 wrapAdd (laneA v l) (laneB v l))

/-- ADD_I16_SAT (R89). Element slot adds packed 16-bit sub-words with saturation. -/
def execAddI16Sat (w : Slot) (s : State) : Out :=
  laneFire s 0x10 w (some 0) 1 (fun v l => packLanes 16 2 (satAdd 16) (laneA v l) (laneB v l))

/-- ADD_I8 (R89). Element slot adds packed 8-bit sub-words, wrapping. -/
def execAddI8 (w : Slot) (s : State) : Out :=
  laneFire s 0x11 w (some 0) 1 (fun v l => packLanes 8 4 wrapAdd (laneA v l) (laneB v l))

/-- ADD_I8_SAT (R89). Element slot adds packed 8-bit sub-words with saturation. -/
def execAddI8Sat (w : Slot) (s : State) : Out :=
  laneFire s 0x12 w (some 0) 1 (fun v l => packLanes 8 4 (satAdd 8) (laneA v l) (laneB v l))

/-- DOT_I8 (R90). Element slot accumulates four signed 8-bit products into D. -/
def execDotI8 (w : Slot) (s : State) : Out :=
  laneFire s 0x13 w (some 0) 1 (fun v l => dot8 true (laneD v l) (laneA v l) (laneB v l))

/-- DOT_N8 (R90). Element slot accumulates four unsigned 8-bit products into D. -/
def execDotN8 (w : Slot) (s : State) : Out :=
  laneFire s 0x14 w (some 0) 1 (fun v l => dot8 false (laneD v l) (laneA v l) (laneB v l))

/-- ADDI_I32 (R91). Element slot adds a sign-extended 10-bit immediate per lane. -/
def execAddiI32 (w : Slot) (s : State) : Out :=
  laneFire s 0x15 w (some 0) 1 (fun v l => laneA v l + imm10s v.w)

/-- AND (R92). Element slot writes the bitwise AND of two operands. -/
def execElAnd (w : Slot) (s : State) : Out :=
  laneFire s 0x20 w none 1 (fun v l => laneA v l &&& laneB v l)

/-- OR (R92). Element slot writes the bitwise OR of two operands. -/
def execElOr (w : Slot) (s : State) : Out :=
  laneFire s 0x21 w none 1 (fun v l => laneA v l ||| laneB v l)

/-- XOR (R92). Element slot writes the bitwise XOR of two operands. -/
def execElXor (w : Slot) (s : State) : Out :=
  laneFire s 0x22 w none 1 (fun v l => laneA v l ^^^ laneB v l)

/-- ANDN (R92). Element slot writes A AND NOT B per lane. -/
def execElAndn (w : Slot) (s : State) : Out :=
  laneFire s 0x23 w none 1 (fun v l => laneA v l &&& ~~~(laneB v l))

/-- NOT (R92). Element slot writes the bitwise complement of A. -/
def execElNot (w : Slot) (s : State) : Out :=
  laneFire s 0x24 w none 1 (fun v l => ~~~(laneA v l))

/-- ANDI (R92). Element slot ANDs each lane with a sign-extended immediate. -/
def execAndi (w : Slot) (s : State) : Out :=
  laneFire s 0x2B w none 1 (fun v l => laneA v l &&& imm10s v.w)

/-- ORI (R92). Element slot ORs each lane with a sign-extended immediate. -/
def execOri (w : Slot) (s : State) : Out :=
  laneFire s 0x2C w none 1 (fun v l => laneA v l ||| imm10s v.w)

/-- SHL (R93). Element slot shifts left by a register amount; 32 or more gives zero. -/
def execShl (w : Slot) (s : State) : Out :=
  laneFire s 0x25 w none 1 (fun v l => shlBy (laneA v l) (laneB v l).toNat)

/-- SHR (R93). Element slot shifts right logically by a register amount. -/
def execShr (w : Slot) (s : State) : Out :=
  laneFire s 0x26 w none 1 (fun v l => shrBy (laneA v l) (laneB v l).toNat)

/-- SAR (R93). Element slot shifts right arithmetically by a register amount. -/
def execSar (w : Slot) (s : State) : Out :=
  laneFire s 0x27 w none 1 (fun v l => sarBy (laneA v l) (laneB v l).toNat)

/-- SHLI (R94). Element slot shifts left by an immediate amount. -/
def execShli (w : Slot) (s : State) : Out :=
  laneFire s 0x28 w none 1 (fun v l => shlBy (laneA v l) (immLow v))

/-- SHRI (R94). Element slot shifts right logically by an immediate amount. -/
def execShri (w : Slot) (s : State) : Out :=
  laneFire s 0x29 w none 1 (fun v l => shrBy (laneA v l) (immLow v))

/-- SARI (R94). Element slot shifts right arithmetically by an immediate amount. -/
def execSari (w : Slot) (s : State) : Out :=
  laneFire s 0x2A w none 1 (fun v l => sarBy (laneA v l) (immLow v))

/-- CLZ (R95). Element slot counts leading zero bits per lane. -/
def execClz (w : Slot) (s : State) : Out :=
  laneFire s 0x2D w (some 0) 1 (fun v l => BitVec.ofNat 32 (clzNat 32 (laneA v l).toNat))

/-- POPC (R95). Element slot counts one bits per lane. -/
def execPopc (w : Slot) (s : State) : Out :=
  laneFire s 0x2E w (some 0) 1 (fun v l => BitVec.ofNat 32 (popcNat 32 (laneA v l).toNat))

/-- BFXN (R96). Element slot extracts a zero-extended bit field. -/
def execBfxn (w : Slot) (s : State) : Out :=
  laneFire s 0x2F w (some 0) 1 (fun v l => BitVec.ofNat 32 (bfRaw v.w (laneA v l)))

/-- BFXI (R96). Element slot extracts a sign-extended bit field. -/
def execBfxi (w : Slot) (s : State) : Out :=
  laneFire s 0x30 w (some 0) 1 (fun v l => BitVec.ofInt 32 (sextNat (bfLen v.w) (bfRaw v.w (laneA v l))))

/-- BFI (R96). Element slot inserts a bit field of A into register D. -/
def execBfi (w : Slot) (s : State) : Out :=
  laneFire s 0x31 w none 1 (fun v l => (laneD v l &&& ~~~(bfMask v.w)) ||| (((laneA v l) <<< bfPos v.w) &&& bfMask v.w))

/-- MOVI (R97). Element slot writes a sign-extended 15-bit immediate. -/
def execMovi (w : Slot) (s : State) : Out :=
  laneFire s 0x32 w none 1 (fun v _ => imm15s v.w)

/-- MOVIH (R97). Element slot shifts D left 15 and ORs in a 15-bit immediate. -/
def execMovih (w : Slot) (s : State) : Out :=
  laneFire s 0x33 w none 1 (fun v l => ((laneD v l) <<< 15) ||| BitVec.ofNat 32 (imm15 v.w))

/-- CMPEQ_I32 (R98). Element slot compares lanes for bit equality. -/
def execCmpeqI32 (w : Slot) (s : State) : Out :=
  laneFire s 0x40 w (some 0) 1 (fun v l => b2w (laneA v l == laneB v l))

/-- CMPNE_I32 (R98). Element slot compares lanes for inequality. -/
def execCmpneI32 (w : Slot) (s : State) : Out :=
  laneFire s 0x41 w (some 0) 1 (fun v l => b2w (laneA v l != laneB v l))

/-- CMPLT_I32 (R98). Element slot compares lanes for signed less-than. -/
def execCmpltI32 (w : Slot) (s : State) : Out :=
  laneFire s 0x42 w (some 0) 1 (fun v l => b2w (ltS (laneA v l) (laneB v l)))

/-- CMPLE_I32 (R98). Element slot compares lanes for signed less-or-equal. -/
def execCmpleI32 (w : Slot) (s : State) : Out :=
  laneFire s 0x43 w (some 0) 1 (fun v l => b2w (leS (laneA v l) (laneB v l)))

/-- CMPLT_N32 (R98). Element slot compares lanes for unsigned less-than. -/
def execCmpltN32 (w : Slot) (s : State) : Out :=
  laneFire s 0x44 w (some 0) 1 (fun v l => b2w (ltU (laneA v l) (laneB v l)))

/-- CMPLE_N32 (R98). Element slot compares lanes for unsigned less-or-equal. -/
def execCmpleN32 (w : Slot) (s : State) : Out :=
  laneFire s 0x45 w (some 0) 1 (fun v l => b2w (leU (laneA v l) (laneB v l)))

/-- PAND (R99). Element slot writes the AND of two predicates per lane. -/
def execPand (w : Slot) (s : State) : Out :=
  laneFire s 0x46 w (some 0) 1 (fun v l => b2w (predA v l && predB v l))

/-- POR (R99). Element slot writes the OR of two predicates per lane. -/
def execPor (w : Slot) (s : State) : Out :=
  laneFire s 0x47 w (some 0) 1 (fun v l => b2w (predA v l || predB v l))

/-- PXOR (R99). Element slot writes the XOR of two predicates per lane. -/
def execPxor (w : Slot) (s : State) : Out :=
  laneFire s 0x48 w (some 0) 1 (fun v l => b2w (predA v l != predB v l))

/-- PNOT (R99). Element slot writes the negation of a predicate per lane. -/
def execPnot (w : Slot) (s : State) : Out :=
  laneFire s 0x49 w (some 0) 1 (fun v l => b2w (!predA v l))

/-- PCNT (R99). Element slot counts guarded lanes where a predicate is set. -/
def execPcnt (w : Slot) (s : State) : Out :=
  laneFire s 0x56 w (some 0) 1 (fun v _ => BitVec.ofNat 32 ((guarded v).countP (predA v)))

/-- SEL (R100). Element slot selects A or B per lane by a predicate. -/
def execSel (w : Slot) (s : State) : Out :=
  laneFire s 0x4A w none 1 (fun v l => if predL v (v.w.pw.toNat / 4) l then laneA v l else laneB v l)

/-- BCAST (R101). Element slot broadcasts one lane of A to all guarded lanes. -/
def execBcast (w : Slot) (s : State) : Out :=
  laneFire s 0x4B w none 1 (fun v _ => sourceLane v (immLow v))

/-- SHUF (R101). Element slot permutes lanes of A by indices in B. -/
def execShuf (w : Slot) (s : State) : Out :=
  laneFire s 0x4C w none 1 (fun v l => sourceLane v (laneB v l).toNat)

/-- ROTL (R102). Element slot rotates A within the active lanes. -/
def execRotl (w : Slot) (s : State) : Out :=
  laneFire s 0x4D w none 1 (fun v l => laneA v ((l + immLow v) % v.vl))

/-- SLIDEUP (R101). Element slot slides lanes of A upward by s. -/
def execSlideup (w : Slot) (s : State) : Out :=
  laneFire s 0x4E w none 1 (fun v l => if immLow v ≤ l then sourceLane v (l - immLow v) else 0#32)

/-- SLIDEDN (R101). Element slot slides lanes of A downward by s. -/
def execSlidedn (w : Slot) (s : State) : Out :=
  laneFire s 0x4F w none 1 (fun v l => sourceLane v (l + immLow v))

/-- REDADD_I32 (R103). Element slot sums guarded lanes, wrapping, into every guarded lane. -/
def execRedaddI32 (w : Slot) (s : State) : Out :=
  laneFire s 0x50 w (some 0) 1 (fun v _ => redLanes v (fun x y => x + y))

/-- REDMIN_I32 (R103). Element slot writes the signed minimum of guarded lanes. -/
def execRedminI32 (w : Slot) (s : State) : Out :=
  laneFire s 0x51 w (some 0) 1 (fun v _ => redLanes v (fun x y => if ltS y x then y else x))

/-- REDMAX_I32 (R103). Element slot writes the signed maximum of guarded lanes. -/
def execRedmaxI32 (w : Slot) (s : State) : Out :=
  laneFire s 0x52 w (some 0) 1 (fun v _ => redLanes v (fun x y => if ltS x y then y else x))

/-- SETVL (R104). Element slot grants a vector length from lane 0 of A. -/
def execSetvl (w : Slot) (s : State) : Out :=
  fireSlot s 0x53 w (fun v => setvlEffect v (laneA v 0).toNat)

/-- SETVLI (R104). Element slot grants a vector length from an immediate. -/
def execSetvli (w : Slot) (s : State) : Out :=
  fireSlot s 0x54 w (fun v => setvlEffect v (imm10 v.w))

/-- SETPOL (R105). Element slot sets the grouping factor and the tail and mask policies. -/
def execSetpol (w : Slot) (s : State) : Out :=
  fireSlot s 0x55 w (fun v => { baseEffect v v.lg with ctx := setpolCtx (imm10 v.w) v.c })

/-- CLRF (R106). Element slot clears the mismatch and/or first-fault flags. -/
def execClrf (w : Slot) (s : State) : Out :=
  fireSlot s 0x57 w (fun v => { baseEffect v v.lg with ctx := clrfCtx (imm10 v.w) v.c })

/-- RDF (R106). Element slot reads the flags and group configuration into lanes. -/
def execRdf (w : Slot) (s : State) : Out :=
  laneFire s 0x58 w (some 0) 1 (fun v _ => rdfWord v.c)

end Sys2Proof.Machine
end

