-- ==== Sys2Proof/Machine/Image.lean ====
section
/-! DEFINITION. Load images and graph images: reading them and check 14 (R271 to R276). -/

namespace Sys2Proof.Machine

open Sys2Proof

/-- Reading an image ends with a value, waits for a walk, faults, or rejects the load with a check code and SY.TVAL. -/
inductive LdEnd (α : Type) where
  | ok (a : α)
  | miss (va : Nat)
  | fault (cls va : Nat)
  | reject (sub tval : Nat)
  deriving DecidableEq, Repr

/-- A reading: how it ends, and the lines it has read. -/
structure Ld (α : Type) where
  lines : List Nat
  res : LdEnd α
  deriving DecidableEq, Repr

def Ld.ok {α : Type} (a : α) : Ld α := ⟨[], .ok a⟩
def Ld.miss {α : Type} (va : Nat) : Ld α := ⟨[], .miss va⟩
def Ld.fault {α : Type} (cls va : Nat) : Ld α := ⟨[], .fault cls va⟩
def Ld.reject {α : Type} (sub tval : Nat) : Ld α := ⟨[], .reject sub tval⟩

def ldBind {α β : Type} (x : Ld α) (f : α → Ld β) : Ld β :=
  match x.res with
  | .ok a => let r := f a; { r with lines := x.lines ++ r.lines }
  | .miss v => ⟨x.lines, .miss v⟩
  | .fault c v => ⟨x.lines, .fault c v⟩
  | .reject c v => ⟨x.lines, .reject c v⟩

/-- Rejects where a condition fails. -/
def ldUnless {α : Type} (ok : Bool) (sub tval : Nat) (k : Ld α) : Ld α := if ok then k else .reject sub tval

/-- `n` bytes of an image. -/
def rdBytes (s : State) (cl asid va n : Nat) : Ld (List Byte) :=
  match vaMap s cl asid 1 n va with
  | .ok pas => ⟨(pas.map (· / 64)).dedup, .ok (pas.map (s.seen cl))⟩
  | .miss v => .miss v
  | .fault c v => .fault c v

/-- The loader's reads of lines (R296). -/
def readLines (s : State) (cl : Nat) (ls : List Nat) : State :=
  ls.dedup.foldl (fun s l => performRead (l2Touch s cl (64 * l)) cl (64 * l) 64 .package) s

/-- The number in `k` bytes at an offset of a byte list. -/
def fieldAt (bs : List Byte) (off k : Nat) : Nat := natOfBytes ((bs.drop off).take k)

/-- An element record (R272). -/
structure ImgEl where
  addr : Nat
  rel : Nat
  el : Nat
  spare : Bool
  opn : Nat
  attr : W32
  gc : W32
  ht : Vec4 W32
  dth : W32
  est : Nat
  fam : W32
  kdp : Vec4 Nat
  mab : W64
  slots : Vec16 W64
  block : List Byte
  deriving DecidableEq, Repr

/-- The endpoint of a route, with its router position (R273). -/
structure ImgEnd where
  e : Endpoint
  pos : Nat
  deriving DecidableEq, Repr

/-- A route record (R273): each branch with its address and hops. -/
structure ImgRoute where
  addr : Nat
  num : Nat
  ctl : Bool
  ord : Bool
  src : ImgEnd
  depth : Nat
  qpos : Nat
  qrel : Nat
  branches : List (ImgEnd × List Nat)
  deriving DecidableEq, Repr

/-- An operator of the graph image (R276). -/
structure ImgOp where
  cls : Nat
  rated : Bool
  blk : Nat
  kl : Nat
  foot : List Nat
  comb : Nat
  rm : Nat
  ident : W32
  keySize : Nat
  keyBase : Nat
  keyTile : Nat
  keyCl : Nat
  deriving DecidableEq, Repr

/-- A whole image. -/
structure Image where
  caldera : Bool
  cpw : W64
  ltb : Nat
  gra : Nat
  els : List ImgEl
  routes : List ImgRoute
  pres : List (Nat × Token)
  exits : List (Nat × Nat)
  ops : List ImgOp
  deriving DecidableEq, Repr

/-! Geometry (R10, R11, R273). -/

/-- Position of cluster n of a die in its 16 × 16 grid. -/
def dieXY (n : Nat) : Nat × Nat :=
  (n % 2 + 2 * (n / 4 % 2) + 4 * (n / 16 % 2) + 8 * (n / 64 % 2),
   n / 2 % 2 + 2 * (n / 8 % 2) + 4 * (n / 32 % 2) + 8 * (n / 128 % 2))
/-- Position of a span-relative cluster in the span's grid of clusters. -/
def spanXY (shape dw rel : Nat) : Nat × Nat :=
  if shape < 5 then dieXY rel
  else
    let k := rel / 256
    let p := dieXY (rel % 256)
    (16 * (k % (dw + 1)) + p.1, 16 * (k / (dw + 1)) + p.2)
/-- The router of a position in the span's grid of tiles. -/
def routerXY (x : Span) (rel pos : Nat) : Nat × Nat :=
  let p := spanXY x.shape x.dw rel
  (8 * p.1 + pos % 8, 8 * p.2 + pos / 8)
/-- Width and height of the span in clusters. -/
def spanDims (x : Span) : Nat × Nat :=
  match x.shape with
  | 0 => (1, 1)
  | 1 => (2, 2)
  | 2 => (4, 4)
  | 3 => (8, 8)
  | 4 => (16, 16)
  | _ => (16 * (x.dw + 1), 16 * (x.dh + 1))

/-- One hop from a router: 0 N, 1 E, 2 S, 3 W; none where it leaves the span. -/
def hopFrom (x : Span) (p : Nat × Nat) (h : Nat) : Option (Nat × Nat) :=
  let d := spanDims x
  match h with
  | 0 => if p.2 = 0 then none else some (p.1, p.2 - 1)
  | 1 => if p.1 + 1 < 8 * d.1 then some (p.1 + 1, p.2) else none
  | 2 => if p.2 + 1 < 8 * d.2 then some (p.1, p.2 + 1) else none
  | 3 => if p.1 = 0 then none else some (p.1 - 1, p.2)
  | _ => none
/-- Cycles of a hop: 1, 2 more across a cluster seam, 6 more across a die-edge seam (R22). -/
def hopLat (p q : Nat × Nat) : Nat :=
  if p.1 / 8 = q.1 / 8 ∧ p.2 / 8 = q.2 / 8 then 1
  else if p.1 / 128 = q.1 / 128 ∧ p.2 / 128 = q.2 / 128 then 3
  else 7
/-- The links a route crosses, its latency and its end; none where it leaves the span. -/
def walkRoute (x : Span) : Nat × Nat → List Nat → Option (List (Nat × Nat × Nat) × Nat × (Nat × Nat))
  | p, [] => some ([], 0, p)
  | p, h :: hs =>
    match hopFrom x p h with
    | none => none
    | some q =>
      match walkRoute x q hs with
      | none => none
      | some (ls, n, e) => some ((p.1, p.2, h) :: ls, hopLat p q + n, e)

/-- The compute tile at a router position. -/
def compTileAt (pos : Nat) : Option Nat :=
  let y := pos / 8
  let x := pos % 8
  if (x + y) % 2 = 0 then some (4 * y + x / 2) else none
def memTileAt (pos : Nat) : Option Nat :=
  let y := pos / 8
  let x := pos % 8
  if (x + y) % 2 = 1 then some (4 * y + x / 2) else none

/-- An endpoint word as source or destination of a data or control route (R273, R298); none where it breaks R273. -/
def endpointOf (ncl : Nat) (src ctl : Bool) (w : Nat) : Option ImgEnd :=
  let rel := w % 4096
  let pos := w / 2 ^ 12 % 64
  let k := w / 2 ^ 18 % 4
  let kind := w / 2 ^ 20 % 8
  let port := w / 2 ^ 23 % 16
  if w / 2 ^ 27 ≠ 0 ∨ ncl ≤ rel then none
  else
    match kind with
    | 0 => if src || ctl || decide (4 ≤ port) then none
           else (compTileAt pos).map (fun t => ⟨⟨.element rel (4 * t + k), port, false⟩, pos⟩)
    | 1 => if !src || ctl || decide (4 ≤ port) then none
           else (compTileAt pos).map (fun t => ⟨⟨.element rel (4 * t + k), port, false⟩, pos⟩)
    | 2 => if src || !ctl || decide (4 ≤ port) then none
           else (compTileAt pos).map (fun t => ⟨⟨.element rel (4 * t + k), port, true⟩, pos⟩)
    | 3 => if !src || !ctl || decide (4 ≤ port) then none
           else (compTileAt pos).map (fun t => ⟨⟨.element rel (4 * t + k), port, true⟩, pos⟩)
    | 4 => if port = 0 then (memTileAt pos).map (fun t => ⟨⟨.gen rel t k, 0, ctl⟩, pos⟩) else none
    | 5 => if pos < 8 ∧ port = pos then some ⟨⟨.port rel port, 0, ctl⟩, pos⟩ else none
    | 6 => if pos = 56 ∧ port = 0 ∧ (src = ctl) then some ⟨⟨.island rel, 0, ctl⟩, pos⟩ else none
    | _ => if pos = 0 ∧ port < 2 then some ⟨⟨.core rel port, 0, ctl⟩, pos⟩ else none

/-! Records. -/

/-- EST of R272: legal as check 14 has it. -/
def estOk (est : Nat) : Bool :=
  let lgc := est / 2 ^ 8 % 4
  let lg := if lgc = 3 then 4 else lgc
  if est / 2 ^ 31 = 1 then
    decide (est % 2 ^ 31 / 2 ^ 12 = 0) && decide (est / 64 % 4 = 0) && decide (lgc ≠ 0) && decide (est % 64 ≤ 8 * lg)
  else decide (est = 0)

def vec4At (bs : List Byte) (off : Nat) : Vec4 W32 := vec4Of (fun i => BitVec.ofNat 32 (fieldAt bs (off + 4 * i) 4)) 0

/-- In Die-0 service an accept mask takes only formats 0 to 2 (R410). -/
def famOk (die0 : Bool) (fam : Nat) : Bool := !die0 || decide (fam &&& 0xF8F8F8F8 = 0)

/-- An element record at `a`, after the record of key `prev` (R272, R275). -/
def readEl (s : State) (cl asid ncl a : Nat) (prev : Option Nat) : Ld (ImgEl × Nat) :=
  ldBind (rdBytes s cl asid a 192) (fun bs =>
    let loc := fieldAt bs 0 4
    let rel := loc % 4096
    let el := loc / 4096 % 128
    let key := 128 * rel + el
    let blk := decide (loc / 2 ^ 20 % 2 = 1)
    let kdp := (bs.drop 44).take 4
    ldUnless (decide (loc / 2 ^ 21 = 0) && decide (rel < ncl) && prev.all (fun p => decide (p < key))) 14 a (
    ldUnless (decide (fieldAt bs 6 2 = 0)) 14 (a + 4) (
    ldUnless (estOk (fieldAt bs 36 4)) 14 (a + 36) (
    ldUnless (famOk (decide (s.hub.boot = .die0)) (fieldAt bs 40 4)) 14 (a + 40) (
    ldUnless (kdp.all (fun b => decide (b.toNat ≤ 64))) 14 (a + 44) (
    ldUnless (decide (fieldAt bs 56 8 = 0)) 14 (a + 56) (
    ldBind (if blk then rdBytes s cl asid (a + 192) 528 else .ok []) (fun sb =>
      ldUnless (!blk || decide (fieldAt sb 520 8 = 0)) 14 (a + 712) (
      .ok ({ addr := a, rel := rel, el := el, spare := decide (loc / 2 ^ 19 % 2 = 1), opn := fieldAt bs 4 2,
             attr := BitVec.ofNat 32 (fieldAt bs 8 4), gc := BitVec.ofNat 32 (fieldAt bs 12 4), ht := vec4At bs 16,
             dth := BitVec.ofNat 32 (fieldAt bs 32 4), est := fieldAt bs 36 4, fam := BitVec.ofNat 32 (fieldAt bs 40 4),
             kdp := vec4Of (fun i => ((kdp.getD i 0#8).toNat)) 0, mab := BitVec.ofNat 64 (fieldAt bs 48 8),
             slots := vec16Of (fun i => BitVec.ofNat 64 (fieldAt bs (64 + 8 * i) 8)) 0, block := sb },
           a + 192 + (if blk then 528 else 0)))))))))))

def readEls (s : State) (cl asid ncl : Nat) : Nat → Nat → Option Nat → Ld (List ImgEl)
  | 0, _, _ => .ok []
  | n + 1, a, prev =>
    ldBind (readEl s cl asid ncl a prev) (fun p =>
      ldBind (readEls s cl asid ncl n p.2 (some (128 * p.1.rel + p.1.el))) (fun l => .ok (p.1 :: l)))

/-- The hop codes of a branch, eight to a word. -/
def hopCodes (bs : List Byte) (n : Nat) : List Nat := (List.range n).map (fun i => fieldAt bs (i / 2) 1 / 16 ^ (i % 2) % 16)

/-- The branches of a route from router `from_` (R273, R275). -/
def readBranches (s : State) (x : Span) (cl asid : Nat) (ctl : Bool) (from_ : Nat × Nat) :
    Nat → Nat → Ld (List (ImgEnd × List Nat) × Nat)
  | 0, a => .ok ([], a)
  | n + 1, a =>
    ldBind (rdBytes s cl asid a 8) (fun bs =>
      let nh := fieldAt bs 4 2
      match endpointOf x.clusters.length false ctl (fieldAt bs 0 4) with
      | none => .reject 14 a
      | some e =>
        ldUnless (decide (fieldAt bs 6 2 = 0)) 14 (a + 4) (
        ldBind (rdBytes s cl asid (a + 8) (4 * ceilDiv nh 8)) (fun hb =>
          let hops := hopCodes hb nh
          let rel := match e.e.unit with
            | .element r _ | .gen r _ _ | .port r _ | .island r | .core r _ => r
            | _ => 0
          match hops.findIdx? (fun h => decide (4 ≤ h)) with
          | some i => .reject 14 (a + 8 + 4 * (i / 8))
          | none =>
            match walkRoute x from_ hops with
            | none => .reject 14 a
            | some (_, _, end_) =>
              ldUnless (decide (end_ = routerXY x rel e.pos)) 14 a (
              ldBind (readBranches s x cl asid ctl from_ n (a + 8 + 4 * ceilDiv nh 8)) (fun r =>
                .ok ((e, hops) :: r.1, r.2))))))

def unitRel (u : UnitRef) : Nat :=
  match u with
  | .element r _ | .gen r _ _ | .port r _ | .island r | .core r _ => r
  | .dist _ | .merge _ => 0

def readRoutes (s : State) (x : Span) (cl asid : Nat) : Nat → Nat → List Nat → Ld (List ImgRoute)
  | 0, _, _ => .ok []
  | n + 1, a, seen =>
    ldBind (rdBytes s cl asid a 12) (fun bs =>
      let w0 := fieldAt bs 0 4
      let q := fieldAt bs 8 4
      let ctl := decide (w0 / 2 ^ 16 % 2 = 1)
      let num := w0 % 65536
      let depth := q % 4096
      let qpos := q / 4096 % 64
      let qrel := q / 2 ^ 18 % 4096
      ldUnless (decide (w0 / 2 ^ 21 = 0) && decide (num ∉ seen)) 14 a (
      match endpointOf x.clusters.length true ctl (fieldAt bs 4 4) with
      | none => .reject 14 (a + 4)
      | some e =>
        ldUnless (decide (q / 2 ^ 30 = 0) && decide (depth ≤ 1365)
            && (decide (depth = 0) || ((memTileAt qpos).isSome && decide (qrel < x.clusters.length)))) 14 (a + 8) (
        ldBind (readBranches s x cl asid ctl (routerXY x (unitRel e.e.unit) e.pos) (w0 / 2 ^ 18 % 8 + 1) (a + 12)) (fun r =>
          ldBind (readRoutes s x cl asid n r.2 (num :: seen)) (fun l =>
            .ok (⟨a, num, ctl, decide (w0 / 2 ^ 17 % 2 = 1), e, depth, qpos, qrel, r.1⟩ :: l))))))

/-- Preload records: a channel number and a token, header first (R274). -/
def readPres (s : State) (cl asid : Nat) (nums : List Nat) : Nat → Nat → Ld (List (Nat × Token))
  | 0, _ => .ok []
  | n + 1, a =>
    ldBind (rdBytes s cl asid a 40) (fun bs =>
      let num := fieldAt bs 0 4
      ldUnless (decide (num ∈ nums)) 14 a (
      ldBind (readPres s cl asid nums n (a + 40)) (fun l =>
        .ok ((num, ⟨vec8Of (fun i => BitVec.ofNat 32 (fieldAt bs (8 + 4 * i) 4)) 0, BitVec.ofNat 32 (fieldAt bs 4 4)⟩) :: l))))

def readExits (s : State) (cl asid : Nat) (els : List ImgEl) : Nat → Nat → Ld (List (Nat × Nat))
  | 0, _ => .ok []
  | n + 1, a =>
    ldBind (rdBytes s cl asid a 4) (fun bs =>
      let loc := fieldAt bs 0 4
      let rel := loc % 4096
      let el := loc / 4096 % 128
      ldUnless (decide (loc / 2 ^ 21 = 0) && els.any (fun e => decide (e.rel = rel ∧ e.el = el))) 14 a (
      ldBind (readExits s cl asid els n (a + 4)) (fun l => .ok ((rel, el) :: l))))

/-- An operator entry of the graph image (R276). -/
def readOp (s : State) (cl asid a : Nat) : Ld ImgOp :=
  ldBind (rdBytes s cl asid a 32) (fun bs =>
    let w0 := fieldAt bs 0 4
    let w1 := fieldAt bs 4 4
    let w2 := fieldAt bs 8 4
    let kb := fieldAt bs 24 8
    ldUnless (decide (w0 % 8 ≤ 4) && decide (w0 / 16 % 16 = 0) && decide (w0 / 2 ^ 14 % 4 = 0) && decide (w0 / 2 ^ 19 = 0)) 14 a (
    ldUnless (decide (w1 / 2 ^ 21 = 0)) 14 (a + 4) (
    ldUnless (decide (w2 / 2 ^ 10 = 0)) 14 (a + 8) (
    ldUnless (decide (fieldAt bs 16 4 < 65536)) 14 (a + 16) (
    ldUnless (decide (fieldAt bs 20 4 = 0)) 14 (a + 20) (
    ldUnless (decide (kb / 2 ^ 33 = 0)) 14 (a + 24) (
    .ok { cls := w0 % 8, rated := decide (w0 / 8 % 2 = 1), blk := w0 / 256 % 64 + 1, kl := w0 / 2 ^ 16 % 8,
          foot := [w1 % 32, w1 / 32 % 16, w1 / 2 ^ 9 % 8, w1 / 2 ^ 12 % 8, w1 / 2 ^ 15 % 8, w1 / 2 ^ 18 % 8],
          comb := w2 % 256, rm := w2 / 256 % 4, ident := BitVec.ofNat 32 (fieldAt bs 12 4),
          keySize := fieldAt bs 16 4, keyBase := kb % 65536, keyTile := kb / 2 ^ 16 % 32, keyCl := kb / 2 ^ 21 % 4096 })))))))
def readOps (s : State) (cl asid : Nat) : Nat → Nat → Ld (List ImgOp)
  | 0, _ => .ok []
  | n + 1, a =>
    ldBind (readOp s cl asid a) (fun o => ldBind (readOps s cl asid n (a + 32)) (fun l => .ok (o :: l)))

/-- An operator of a load without a graph image: pinned, with an empty footprint. -/
def bareOp : ImgOp := ⟨4, false, 1, 0, [16, 8, 4, 4, 4, 4], 0, 0, 0#32, 0, 0, 0, 0⟩

/-- The graph image (R276). -/
def readGraph (s : State) (cl asid gra : Nat) (top : Nat) : Ld (List ImgOp) :=
  if gra = 0 then .ok (List.replicate (top + 1) bareOp)
  else
    ldUnless (decide (gra % 8 = 0)) 14 gra (
    ldBind (rdBytes s cl asid gra 32) (fun bs =>
      ldUnless (decide (fieldAt bs 0 4 = 0x48505247)) 14 gra (
      ldUnless (decide (fieldAt bs 10 2 = 0)) 14 (gra + 8) (
      ldUnless (decide (fieldAt bs 24 8 = 0)) 14 (gra + 24) (
      ldUnless (decide (top < fieldAt bs 4 2)) 14 (gra + 4) (
      readOps s cl asid (fieldAt bs 4 2) (gra + fieldAt bs 12 4)))))))

/-- A connected k port whose element record gives depth 0 fails check 14 (R275). -/
def badDepth (els : List ImgEl) (rs : List ImgRoute) : Option Nat :=
  rs.findSome? (fun r => r.branches.findSome? (fun b =>
    match b.1.e.unit, b.1.e.ctl with
    | .element rel el, true =>
      match els.find? (fun e => decide (e.rel = rel ∧ e.el = el)) with
      | none => some r.addr
      | some e => if vec4Get e.kdp b.1.e.port = 0 then some (e.addr + 44) else none
    | _, _ => none))

/-- The whole image at `img` (R271 to R276): check 14. -/
def readImage (s : State) (x : Span) (cl asid img : Nat) : Ld Image :=
  ldUnless (decide (img % 64 = 0)) 14 img (
  ldBind (rdBytes s cl asid img 64) (fun h =>
    let flg := fieldAt h 22 2
    let cpw := fieldAt h 24 8
    let ltb := fieldAt h 32 8
    let gra := fieldAt h 56 8
    let dims := fieldAt h 5 1
    ldUnless (decide (fieldAt h 0 4 = 0x31474643)) 14 img (
    ldUnless (decide (fieldAt h 4 1 = x.shape) && decide (dims / 16 = 0) && decide (fieldAt h 6 2 = 0)
      && (decide (x.shape ≠ 5) || decide (dims = x.dw + 4 * x.dh))) 14 (img + 4) (
    ldUnless (decide (fieldAt h 8 4 ≠ 0)) 14 (img + 8) (
    ldUnless (decide (flg ≤ 1)) 14 (img + 20) (
    ldUnless (decide (flg = 1) || decide (cpw = 0)) 14 (img + 24) (
    ldUnless (decide (flg = 1) || decide (ltb = 0)) 14 (img + 32) (
    ldUnless (decide (gra < 2 ^ 52) && (decide (flg = 0) || decide (gra ≠ 0))) 14 (img + 56) (
    ldBind (readEls s cl asid x.clusters.length (fieldAt h 8 4) (img + fieldAt h 40 4) none) (fun els =>
    ldBind (readRoutes s x cl asid (fieldAt h 12 4) (img + fieldAt h 44 4) []) (fun rs =>
    match badDepth els rs with
    | some a => .reject 14 a
    | none =>
    ldBind (readPres s cl asid (rs.map (·.num)) (fieldAt h 16 4) (img + fieldAt h 48 4)) (fun ps =>
    ldBind (readExits s cl asid els (fieldAt h 20 2) (img + fieldAt h 52 4)) (fun ex =>
    ldBind (readGraph s cl asid gra (els.foldl (fun m e => max m e.opn) 0)) (fun ops =>
      .ok { caldera := decide (flg = 1), cpw := BitVec.ofNat 64 cpw, ltb := ltb, gra := gra, els := els, routes := rs,
            pres := ps, exits := ex, ops := ops }))))))))))))))

end Sys2Proof.Machine
end

