-- ==== Sys2Proof/Machine/Loader.lean ====
section
/-! DEFINITION. The loader: checks 1 to 13 and 15, and building a fabric load
(R13, R14, R36, R80, R237, R238, R241, R274, R279, R345, R417). -/

namespace Sys2Proof.Machine

open Sys2Proof

/-! Checks 1 to 10, by element (R36, R80). -/

/-- The ports of an element that routes lead to, and those that routes leave from. -/
def connectedPorts (rs : List ImgRoute) (rel el : Nat) : List Endpoint × List Endpoint :=
  let here (e : Endpoint) : Bool := decide (e.unit = .element rel el)
  ((rs.flatMap (fun r => r.branches.map (fun b => b.1.e))).filter here, (rs.map (fun r => r.src.e)).filter here)

/-- The last two conditions of R36: a port that the slot names is not connected. -/
def slotUnconnected (ports : List Endpoint × List Endpoint) (rel el : Nat) (w : Slot) : Bool :=
  let no (es : List Endpoint) (n : Nat) (ctl : Bool) : Bool := decide ((⟨.element rel el, n, ctl⟩ : Endpoint) ∉ es)
  (List.range 4).any (fun n => (bitAt n w.ir && no ports.1 n false) || (bitAt (4 + n) w.ir && no ports.1 n true)
    || (bitAt n w.os && no ports.2 n false))
  || (match destOf w.d with
      | .y n => no ports.2 n true
      | _ => false)

/-- Check 9 on a slot's attribute bits. -/
def attrFails (attr : W32) (n : Nat) (w : W64) : Bool :=
  let hc := bitAt (16 + n) attr
  let tm := bitAt n attr
  let sl := slotOf w
  let sh := shapeOf (slotOpOf w)
  (hc || tm) && (!sl.valid || (hc && !decide (16 ≤ sl.d.toNat ∧ sl.d.toNat ≤ 19))
    || (tm && !(decide (sh = some .r) || decide (sh = some .rm))))

/-- Check 10 on templates, GC and MAB. -/
def wordsFail (e : ImgEl) : Bool :=
  (vec4List e.ht).any (fun h => bitAt 31 h || decide (field 24 19 h ≠ 0))
  || decide (field 31 3 e.gc ≠ 0) || decide (field 2 1 e.gc = 3) || decide (field 54 52 e.mab ≠ 0)

/-- The first failing check of an element, with its slot. -/
def elementFails (die0 : Bool) (ports : List Endpoint × List Endpoint) (e : ImgEl) : Option (Nat × Nat) :=
  let slots := List.range 16
  match slots.findSome? (fun n =>
      let w := vec16Get e.slots n
      (slotCheck (slotOpOf w) (slotOf w) die0 (slotUnconnected ports e.rel e.el (slotOf w))).map (fun k => (k, n))) with
  | some k => some k
  | none =>
    match slots.find? (fun n => attrFails e.attr n (vec16Get e.slots n)) with
    | some n => some (9, n)
    | none => if wordsFail e then some (10, 0) else none

/-- Checks 1 to 10: the code and the location word (R195). -/
def checkElements (die0 : Bool) (im : Image) : Option (Nat × Nat) :=
  im.els.findSome? (fun e =>
    (elementFails die0 (connectedPorts im.routes e.rel e.el) e).map (fun k => (k.1, locWord e.rel e.el k.2 0 0)))

/-! Checks 11 and 12 (R13, R80, R274, R279). -/

/-- The location word of a unit's port. -/
def endLoc (e : Endpoint) : Nat :=
  match e.unit with
  | .element rel el => locWord rel el 0 e.port 0
  | .gen rel t a => locWord rel (memTilePos t) 0 a 2
  | .port rel n => locWord rel n 0 n 3
  | .island rel => locWord rel 56 0 0 4
  | .core rel n => locWord rel 0 0 n 1
  | .dist _ | .merge _ => 0

/-- A preloaded token is as check 11 requires. -/
def presetOk (ctl : Bool) (t : Token) : Bool :=
  if ctl then decide (t.hdr = 0#32) && decide ((laneOf t 0).toNat < 2) && lanesClear t [1, 2, 3, 4, 5, 6, 7]
  else decide (hdrLN t.hdr ≤ 8) && decide (field 31 30 t.hdr = 0)

def checkPresets (im : Image) : Option (Nat × Nat) :=
  im.pres.findSome? (fun p =>
    match im.routes.find? (fun r => decide (r.num = p.1)) with
    | none => none
    | some r => if presetOk r.ctl p.2 then none else some (11, endLoc r.src.e))

/-- The links of a route, each branch counted where its hops part from those of the earlier branches. -/
def routeLinks (x : Span) (from_ : Nat × Nat) : List (List Nat) → List (List Nat) → List (Nat × Nat × Nat)
  | _, [] => []
  | seen, h :: hs =>
    let own := ((walkRoute x from_ h).map (fun w => w.1)).getD []
    let new := (List.range h.length).filter (fun k => !seen.any (fun g => decide (g.take (k + 1) = h.take (k + 1))))
    (new.filterMap (fun k => own[k]?)) ++ routeLinks x from_ (h :: seen) hs

/-- The first link that a list of crossings puts above four tracks. -/
def overLink : List ((Nat × Nat × Nat) × Nat) → List (Nat × Nat × Nat) → Option (Nat × Nat × Nat)
  | _, [] => none
  | use, l :: ls =>
    let n := ((use.find? (fun u => decide (u.1 = l))).map Prod.snd).getD 0
    if 4 ≤ n then some l
    else overLink ((l, n + 1) :: use.filter (fun u => decide (u.1 ≠ l))) ls

/-- The span-relative cluster at a position of the span's cluster grid. -/
def clusterAt (x : Span) (cx cy : Nat) : Nat :=
  ((List.range x.clusters.length).find? (fun r => decide (spanXY x.shape x.dw r = (cx, cy)))).getD 0

/-- The location word of a link or a seam port (R195, UNIT 1). -/
def linkLoc (x : Span) (l : Nat × Nat × Nat) : Nat :=
  let dir := match hopFrom x (l.1, l.2.1) l.2.2 with
    | some q => if hopLat (l.1, l.2.1) q = 1 then l.2.2 else 4
    | none => l.2.2
  locWord (clusterAt x (l.1 / 8) (l.2.1 / 8)) (8 * (l.2.1 % 8) + l.1 % 8) dir 0 1

/-- Check 12. R80 does not say which link its location word names where several need too many tracks: here the data network
comes before the control network, then the first link in excess in the order of the route records and their hops (log 81). -/
def checkTracks (x : Span) (im : Image) : Option (Nat × Nat) :=
  let links (ctl : Bool) : List (Nat × Nat × Nat) :=
    (im.routes.filter (fun r => r.ctl == ctl)).flatMap (fun r =>
      routeLinks x (routerXY x (unitRel r.src.e.unit) r.src.pos) [] (r.branches.map Prod.snd))
  match overLink [] (links false) with
  | some l => some (12, linkLoc x l)
  | none => (overLink [] (links true)).map (fun l => (12, linkLoc x l))

/-- The generators of a tile that the endpoints of the image name. -/
def namedGens (im : Image) (rel t : Nat) : List Nat :=
  im.routes.flatMap (fun r => (r.src.e :: r.branches.map (fun b => b.1.e)).filterMap (fun e =>
    match e.unit with
    | .gen a b k => if a = rel ∧ b = t then some k else none
    | _ => none))

/-- The place of each queue, in route-record order: channel number, cluster, tile, generator, first granule. -/
def placeQueues (im : Image) : List (Nat × Nat × Nat × Nat × Nat) → List ImgRoute →
    Except Nat (List (Nat × Nat × Nat × Nat × Nat))
  | done, [] => .ok done
  | done, r :: rs =>
    if r.depth = 0 then placeQueues im done rs
    else
      match memTileAt r.qpos with
      | none => placeQueues im done rs
      | some t =>
        let here := done.filter (fun q => decide (q.2.1 = r.qrel ∧ q.2.2.1 = t))
        let used := namedGens im r.qrel t ++ here.map (fun q => q.2.2.2.1)
        let top := here.foldl (fun m q => min m q.2.2.2.2) 4096
        match (List.range 4).find? (fun a => decide (a ∉ used)) with
        | some a =>
          if 3 * r.depth ≤ top then placeQueues im (done ++ [(r.num, r.qrel, t, a, top - 3 * r.depth)]) rs
          else .error (locWord r.qrel r.qpos 0 0 1)
        | none => .error (locWord r.qrel r.qpos 0 0 1)

/-! Check 13 (R238, R248). -/

/-- Whether a slot names only codes inside a footprint. -/
def insideFoot (foot : List Nat) (mab : W64) (op : Nat) (w : Slot) : Bool :=
  let nv := foot.getD 0 0
  let np := foot.getD 1 0
  let ni := foot.getD 2 0
  let no := foot.getD 3 0
  let nk := foot.getD 4 0
  let ny := foot.getD 5 0
  let sh := (shapeOf op).getD .n
  let code (c : BitVec 5) : Bool :=
    match operandOf c with
    | .v n => decide (n < nv)
    | .peek n | .pop n => decide (n < ni)
    | .k n => decide (n < nk)
    | .seq => decide (w.ts.toNat < ni)
    | _ => true
  (!usesA sh || code w.a) && (!usesB sh || code w.b)
  && (match destOf w.d with
      | .v n => decide (n < nv)
      | .o n => decide (n < no)
      | .y n => decide (n < ny)
      | .none => true)
  && decide (w.pm.toNat < 2 ^ np) && decide (w.ir.toNat % 16 < 2 ^ ni) && decide (w.ir.toNat / 16 < 2 ^ nk)
  && decide (w.os.toNat < 2 ^ no) && (!w.te || decide (w.ts.toNat < ni))
  && (decide (sh ≠ .q) || decide (w.pw.toNat / 4 < np))
  && (!(hasPw sh && decide (w.pw.toNat % 4 ≠ 0)) || decide (w.pw.toNat / 4 < np))
  && (decide (sh ≠ .p) || (decide (w.a.toNat < np) && (decide (op = 0x49 ∨ op = 0x56) || decide (w.b.toNat < np))))
  && (decide (sh ≠ .m) || decide (w.b.toNat < 2 ^ ni))
  && (!(isMemOp op && bitAt 57 mab) || decide (field 56 55 mab < ny))

/-- Check 13: the Caldera block, then the footprints. -/
def check13 (im : Image) : Option (Nat × Nat) :=
  let c := im.cpw
  if im.caldera && (decide (field 19 0 c ≠ 0) || !decide (10 ≤ field 23 20 c) || decide (field 47 40 c ≤ field 39 32 c)
      || decide (im.ltb % 64 ≠ 0) || decide (2 ^ 52 ≤ im.ltb)) then some (13, 0)
  else if im.gra = 0 then none
  else im.els.findSome? (fun e =>
    let foot := ((im.ops[e.opn]?).map (·.foot)).getD []
    ((List.range 16).find? (fun n =>
      let w := vec16Get e.slots n
      (slotOf w).valid && !insideFoot foot e.mab (slotOpOf w) (slotOf w))).map (fun n => (13, locWord e.rel e.el n 0 0)))

/-! Check 15: the comparators of the partition (R417). -/

/-- A branch of a data route that ends at an i port of an element. -/
def branchElement (im : Image) (ch br : Nat) : Option Nat :=
  match im.routes.find? (fun r => decide (r.num = ch)) with
  | none => none
  | some r =>
    if r.ctl || !r.ord then none
    else match r.branches[br]? with
      | some (e, _) =>
        match e.e.unit with
        | .element rel _ => some rel
        | _ => none
      | none => none

def cmpOf (idx chA brA chB brB : Nat) : Cmp :=
  { chA := chA, brA := brA, chB := chB, brB := brB, run := 0, stopped := false,
    entry := idx }

/-- The entries of the table that name this image. -/
def readCmps (s : State) (cl asid img : Nat) (im : Image) (base : Nat) : Nat → Nat → Ld (List Cmp)
  | 0, _ => .ok []
  | n + 1, i =>
    let a := base + 16 * i
    ldBind (rdBytes s cl asid a 16) (fun bs =>
      let w0 := fieldAt bs 0 8
      let w1 := fieldAt bs 8 8
      if w0 % 2 ^ 52 ≠ img then readCmps s cl asid img im base n (i + 1)
      else
        let chA := w1 % 65536
        let chB := w1 / 65536 % 65536
        let brA := w1 / 2 ^ 32 % 8
        let brB := w1 / 2 ^ 36 % 8
        let ok := decide (w0 < 2 ^ 52) && decide (w1 / 2 ^ 39 = 0) && decide (w1 / 2 ^ 35 % 2 = 0)
          && (match branchElement im chA brA, branchElement im chB brB with
              | some p, some q => decide (p = q)
              | _, _ => false)
        ldUnless ok 15 a (
        ldBind (readCmps s cl asid img im base n (i + 1)) (fun l => .ok (cmpOf i chA brA chB brB :: l))))

def partCmps (s : State) (cl asid img : Nat) (im : Image) : Ld (List Cmp) :=
  let c := (getPart s (partOfCl s cl)).cmpt
  if bitAt 63 c then readCmps s cl asid img im (field 51 0 c) (field 61 52 c) 0 else .ok []

/-! Building. -/

/-- A built image: its load, its elements, and the queues' generators. -/
def ctxOf (e : ImgEl) (exit : Option Nat) : OpCtx :=
  let v := decide (e.est / 2 ^ 31 = 1)
  let lgc := e.est / 2 ^ 8 % 4
  { opCtxReset with
    opn := e.opn, vl := if v then e.est % 64 else 8, lg := if v then (if lgc = 3 then 4 else lgc) else 1
    tz := decide (e.est / 2 ^ 10 % 2 = 1), mz := decide (e.est / 2 ^ 11 % 2 = 1)
    ht := e.ht, gc := e.gc, mab := e.mab, dth := e.dth, exit := exit }

/-- The last-taken arm of an MRGU slot: the highest of its mask (R152). -/
def armOf (w : W64) : Nat := if slotOpOf w = 0xC7 then Nat.log2 ((slotOf w).b.toNat % 16) else 0

/-- v0 to v15 and the predicates of a state block (R272). -/
def blockRegs (bs : List Byte) : Vec16 (Vec8 W32) :=
  vec16Of (fun r => vec8Of (fun l => BitVec.ofNat 32 (fieldAt bs (32 * r + 4 * l) 4)) 0) 0
def blockPreds (bs : List Byte) : Vec8 (BitVec 8) :=
  vec8Of (fun n => BitVec.ofNat 8 ((List.range 8).foldl (fun a l => a + fieldAt bs (512 + l) 1 / 2 ^ n % 2 * 2 ^ l) 0)) 0

def elemOf (exits : List (Nat × Nat)) (e : ImgEl) : Elem :=
  let k := exits.findIdx (fun p => decide (p = (e.rel, e.el)))
  { elemReset with
    slots := e.slots, attr := e.attr, fam := e.fam, kdp := e.kdp
    regs := if e.block = [] then elemReset.regs else blockRegs e.block
    preds := if e.block = [] then elemReset.preds else blockPreds e.block
    sh0 := ctxOf e (if k < exits.length then some k else none)
    arms := vec16Of (fun n => armOf (vec16Get e.slots n)) 0 }

/-- Whether every slot of a word group is invalid. -/
def allInvalid (sl : Vec16 W64) : Bool := (vec16List sl).all (fun w => !(slotOf w).valid)

/-- A branch without tokens. -/
def branchNew (dst : Endpoint) (lat depth : Nat) (q : Option QueueRegion) (reliefCap : Nat) (hops : List Nat) : Branch :=
  { dst := dst, lat := lat, depth := depth, flight := [], queue := q, relief := [], reliefCap := reliefCap, area := [], rhead := 0, rlen := 0, hold := [],
    buf := [], spots := [], arrAt := none, replay := [], failed := none, cmp := none, occSum := 0, popped := 0, popAt := (0, 0), fullAll := true, emptyAll := true, hops := hops }

/-- A channel of a route: the queue of a forked channel stands in its first branch's path in the tile; the
other branches keep the same depth (log 31). -/
def chanOf (x : Span) (qs : List (Nat × Nat × Nat × Nat × Nat)) (r : ImgRoute) : Chan :=
  let from_ := routerXY x (unitRel r.src.e.unit) r.src.pos
  let q := (qs.find? (fun q => decide (q.1 = r.num))).map (fun q =>
    ({ cl := q.2.1, tile := q.2.2.1, ag := q.2.2.2.1, base := q.2.2.2.2, cap := r.depth, head := 0, len := 0 } : QueueRegion))
  { num := r.num, ctl := r.ctl, ord := r.ord, src := r.src.e, out := [], nextSeq := 0, count := 0#32, winStart := 0#32,
    relAt := 0
    branches := (List.range r.branches.length).filterMap (fun k => (r.branches[k]?).map (fun b =>
      let lat := ((walkRoute x from_ b.2).map (fun w => w.2.1)).getD 0
      branchNew b.1.e lat r.depth (if k = 0 then q else none) (if k = 0 then 0 else r.depth) b.2)) }

/-- The class as treated (R241): what the image shows must hold, else ordered. `loops`: branches of the
operator's output channels that return to its own inputs. -/
def treatedClass (o : ImgOp) (allOrdered noCtl : Bool) (loops : Nat) : Nat :=
  if 3 ≤ o.cls then o.cls
  else if o.rated && allOrdered && noCtl && (decide (o.cls ≠ 2) || decide (loops = 1)) then o.cls else 3

/-- The branches of routes that lead from an element back to itself, by input port. -/
def loopPorts (im : Image) (rel el : Nat) : List Nat :=
  im.routes.flatMap (fun r =>
    if r.ctl || decide (r.src.e.unit ≠ .element rel el) then []
    else r.branches.filterMap (fun b => if b.1.e.unit = .element rel el then some b.1.e.port else none))

def opState (im : Image) (n : Nat) (o : ImgOp) : OpState :=
  let els := im.els.filter (fun e => decide (e.opn = n) && !(e.spare && allInvalid e.slots))
  let isEl (u : UnitRef) : Bool := els.any (fun e => decide (u = .element e.rel e.el))
  let ins := im.routes.filter (fun r => r.branches.any (fun b => isEl b.1.e.unit))
  let outs := im.routes.filter (fun r => isEl r.src.e.unit)
  let loops := els.flatMap (fun e => loopPorts im e.rel e.el)
  let cls := treatedClass o ((ins.filter (fun r => !r.ctl)).all (·.ord)) ((ins ++ outs).all (fun r => !r.ctl)) loops.length
  { cls := cls, rated := o.rated, blk := o.blk, kl := o.kl, foot := o.foot, comb := o.comb, rm := o.rm, ident := o.ident,
    keySize := o.keySize, keyBase := o.keyBase, keyTile := o.keyTile, keyCl := o.keyCl
    elems := els.map (fun e => (e.rel, e.el, 0)), home := ((els.head?).map (fun e => (e.rel, e.el))).getD (0, 0)
    pinned := false, rewire := 0, partner := 0, target := none, cloneRun := 0, loRun := 0, unRun := 0,
    dealt := [0, 0, 0, 0], firsts := [none, none, none, none], nexts := [(none, 0), (none, 0), (none, 0), (none, 0)], sqs := [false, false, false, false],
    reorderCap := [64, 64, 64, 64], areas := [], carry := [], lastOut := [], released := 0, loopPort := loops.head?, loopOut := 0, loopLn := [], loopFmt := [],
    loopCount := [] }

/-- The load that an image gives, before its preloaded tokens. -/
def loadOf (x : Span) (im : Image) (img asid owner ownerCl : Nat) (cmps : List Cmp)
    (qs : List (Nat × Nat × Nat × Nat × Nat)) : Load :=
  { phase := .ready, lid := x.lids + 1, img := img, asid := asid, owner := owner, ownerCl := ownerCl, passed := false,
    caldera := im.caldera, cpw := im.cpw, ltb := im.ltb, layv := 0, upd := 0
    chans := im.routes.foldl (fun m r => amPut m r.num (chanOf x qs r)) amEmpty
    ops := (List.range im.ops.length).foldl (fun m n =>
      match im.ops[n]? with
      | some o => amPut m n (opState im n o)
      | none => m) amEmpty
    spares := (im.els.filter (fun e => e.spare && allInvalid e.slots)).map (fun e => (e.rel, e.el))
    exits := im.exits.dedup.map (fun p => (p.1, p.2, false)), pinAll := false, relief := 0, stallRun := amEmpty, stallLim := amEmpty,
    goCycle := 0, winCycle := 0, wdogFrom := 0, wdogDone := false, discarded := 0, cmps := cmps, mcasts := amEmpty }

/-- Comparators stand at the branches they name. -/
def markCmps (l : Load) : Load :=
  (List.range l.cmps.length).foldl (fun l k =>
    match l.cmps[k]? with
    | none => l
    | some c =>
      let mark (l : Load) (ch br : Nat) : Load :=
        { l with chans := amMod l.chans ch (fun y => modBranch y br (fun b => { b with cmp := some k })) }
      mark (mark l c.chA c.brA) c.chB c.brB) l

/-- A preloaded token joins every branch: the consumer's buffer first, then the queue, then the route (R274). A comparator
before the consumer takes it in place of the buffer (R418). -/
def presetBranch (s : State) (x : Span) (sp ch br : Nat) (b : Branch) (t : Token) : State :=
  let behind := !b.flight.isEmpty || !b.relief.isEmpty
  let room := match b.cmp with
    | some _ => decide (b.hold = [])
    | none => decide (b.buf.length < bufCap s x b)
  let stand (b : Branch) : Branch := match b.cmp with
    | some _ => { b with hold := [t] }
    | none => { b with buf := b.buf ++ [⟨t, 0⟩] }
  match b.queue with
  | none =>
    if !behind && room then modBr s sp ch br stand
    else if b.flight.isEmpty && decide (b.relief.length < b.reliefCap) then
      modBr s sp ch br (fun b => { b with relief := b.relief ++ [(t, false)] })
    else modBr s sp ch br (fun b => { b with flight := b.flight ++ [⟨t, 0⟩] })
  | some q =>
    if !behind && decide (q.len = 0) && room then modBr s sp ch br stand
    else if !behind && decide (q.len < q.cap) then queuePush s x sp ch br q t false
    else modBr s sp ch br (fun b => { b with flight := b.flight ++ [⟨t, 0⟩] })

def presetToken (s : State) (sp : Nat) (p : Nat × Token) : State :=
  match getSpan s sp, getChan s sp p.1 with
  | some x, some c =>
    (List.range c.branches.length).foldl (fun s k =>
      match (getChan s sp p.1).bind (fun c => c.branches[k]?) with
      | some b => presetBranch s x sp p.1 k b (if c.ctl || c.ord then p.2 else { p.2 with hdr := withSeq p.2.hdr 0 })
      | none => s) s
  | _, _ => s

/-- The depth of the queue that stands behind a channel. -/
def queueDepth (im : Image) (num : Nat) : Nat := ((im.routes.find? (fun r => decide (r.num = num))).map (·.depth)).getD 1
/-- The granules of a queue read empty (R279). -/
def emptyRegion (base n : Nat) (t : Tile) : Tile :=
  { t with full := amFilter t.full (fun g _ => !(decide (base ≤ g) && decide (g < base + n))) }

/-- The units of the span take the image: elements, the queues' generators in FIFO mode, their regions empty, and then the
tokens. -/
def buildLoad (s : State) (sp : Nat) (x : Span) (im : Image) (l : Load) (qs : List (Nat × Nat × Nat × Nat × Nat)) : State :=
  let s1 := x.clusters.foldl (fun s c => modCl s c (fun k => { k with elems := amEmpty })) s
  let s2 := im.els.foldl (fun s e =>
    match absOf x e.rel with
    | some c => modCl s c (fun k => { k with elems := amPut k.elems e.el (elemOf im.exits.dedup e) })
    | none => s) s1
  let s3 := qs.foldl (fun s q =>
    match absOf x q.2.1 with
    | some c =>
      let n := 3 * queueDepth im q.1
      modGen (modTile s c q.2.2.1 (emptyRegion q.2.2.2.2 n)) c q.2.2.1 q.2.2.2.1 (fun g => { g with
        desc := BitVec.ofNat 64 (2 ^ 62 + (n - 1) * 2 ^ 12 + q.2.2.2.2), byQueue := true })
    | none => s) s2
  let s4 := modSpan s3 sp (fun y => { y with load := some (markCmps l), lids := l.lid })
  im.pres.foldl (fun s p => presetToken s sp p) s4

/-- The whole load of an image: read, checked, and built; or why not. Check 11 comes before check 12 (log 26). -/
def loadImage (s : State) (sp : Nat) (x : Span) (cl asid img owner : Nat) : Ld State :=
  ldBind (readImage s x cl asid img) (fun im =>
  ldBind (partCmps s cl asid img im) (fun cmps =>
    let fail (k : Option (Nat × Nat)) (next : Ld State) : Ld State :=
      match k with
      | some (c, v) => .reject c v
      | none => next
    fail (checkElements (decide (s.hub.boot = .die0)) im) (
    fail (checkPresets im) (
    fail (checkTracks x im) (
    match placeQueues im [] im.routes with
    | .error v => .reject 12 v
    | .ok qs =>
      fail (check13 im) (
      .ok (buildLoad s sp x im (loadOf x im img asid owner (relOf x cl) cmps qs) qs)))))))

end Sys2Proof.Machine
end

