-- ==== Sys2Proof/Machine/Tokens.lean ====
section
/-! DEFINITION. Tokens on their way: release, arrival, replay, comparators, and the nodes of a cloned
operator: distributor, reorder node, carry node (R23 to R26, R243 to R245, R345 to R347, R386, R387, R418). -/

namespace Sys2Proof.Machine

open Sys2Proof

/-! Combining (R245). -/

/-- One lane of a two-operand lane operation with its rounding mode. -/
def combineLane (op rm : Nat) (a b : W32) : W32 :=
  let m := RMode.ofCode rm
  match op with
  | 0x00 => a + b
  | 0x01 => a - b
  | 0x02 => satI32 (a.toInt + b.toInt)
  | 0x03 => satI32 (a.toInt - b.toInt)
  | 0x04 => satN32 (a.toNat + b.toNat)
  | 0x05 => satN32 (a.toNat - b.toNat)
  | 0x06 => a * b
  | 0x07 => BitVec.ofInt 32 (a.toInt * b.toInt / 2 ^ 32)
  | 0x08 => BitVec.ofNat 32 (a.toNat * b.toNat / 2 ^ 32)
  | 0x0A => if ltS b a then b else a
  | 0x0B => if ltS a b then b else a
  | 0x0C => if ltU b a then b else a
  | 0x0D => if ltU a b then b else a
  | 0x0F => packLanes 16 2 wrapAdd a b
  | 0x10 => packLanes 16 2 (satAdd 16) a b
  | 0x11 => packLanes 8 4 wrapAdd a b
  | 0x12 => packLanes 8 4 (satAdd 8) a b
  | 0x20 => a &&& b
  | 0x21 => a ||| b
  | 0x22 => a ^^^ b
  | 0x23 => a &&& ~~~b
  | 0x25 => shlBy a b.toNat
  | 0x26 => shrBy a b.toNat
  | 0x27 => sarBy a b.toNat
  | 0x40 => b2w (a == b)
  | 0x41 => b2w (a != b)
  | 0x42 => b2w (ltS a b)
  | 0x43 => b2w (leS a b)
  | 0x44 => b2w (ltU a b)
  | 0x45 => b2w (leU a b)
  | 0x60 => toF32 m (exAdd m (f32 a) (f32 b))
  | 0x61 => toF32 m (exSub m (f32 a) (f32 b))
  | 0x62 => toF32 m (exMul (f32 a) (f32 b))
  | 0x64 => minF a b
  | 0x65 => maxF a b
  | 0x68 => (a &&& 0x7FFFFFFF#32) ||| (b &&& 0x80000000#32)
  | 0x69 => b2w (exEq (f32 a) (f32 b))
  | 0x6A => b2w (exLt (f32 a) (f32 b))
  | 0x6B => b2w (exLe (f32 a) (f32 b))
  | 0x6C => b2w (isNaN32 a || isNaN32 b)
  | 0x6D => pack16 fmtBF16 m (fun _ p q => exAdd m p q) 0#32 a b
  | 0x6E => pack16 fmtBF16 m (fun _ p q => exMul p q) 0#32 a b
  | 0x70 => pack16 fmtF16 m (fun _ p q => exAdd m p q) 0#32 a b
  | 0x71 => pack16 fmtF16 m (fun _ p q => exMul p q) 0#32 a b
  | _ => Sys2Proof.Config.combineFree op a b

/-- The format of a combine's result (R346): an opcode whose result format is H.FMT carries the format of the loop's token
through (R88, R92, R93). -/
def combineFmt (op h : Nat) : Nat :=
  if (0x0A ≤ op ∧ op ≤ 0x0D) ∨ (0x20 ≤ op ∧ op ≤ 0x23) ∨ (0x25 ≤ op ∧ op ≤ 0x27) then h
  else if op = 0x60 ∨ op = 0x61 ∨ op = 0x62 ∨ op = 0x64 ∨ op = 0x65 ∨ op = 0x68 then 1
  else if op = 0x6D ∨ op = 0x6E then 2 else if op = 0x70 ∨ op = 0x71 then 3 else 0

/-- Token `r` of the loop: values below LN, zero above, every header field but FMT and LN zero (R346). -/
def loopToken (o : OpState) (r : Nat) (v : Nat → W32) : Token :=
  let ln := o.loopLn.getD r 0
  ⟨vec8Of (fun i => if i < ln then v i else 0#32) 0, mkHdr (combineFmt o.comb (o.loopFmt.getD r 0)) false false false ln 0 0⟩
def identToken (o : OpState) (r : Nat) : Token := loopToken o r (fun _ => o.ident)

/-! An operator's elements and nodes. -/

/-- The element context of an operator's place. -/
def placeCtx (s : State) (x : Span) (p : Nat × Nat × Nat) : OpCtx :=
  match absOf x p.1 with
  | none => opCtxReset
  | some cl => ctxOfShare (getEl s cl p.2.1) p.2.2
def opCtx0 (s : State) (x : Span) (o : OpState) : OpCtx :=
  match o.elems.head? with
  | none => opCtxReset
  | some p => placeCtx s x p
/-- LG of an operator. -/
def opLG (s : State) (x : Span) (o : OpState) : Nat := max 1 (opCtx0 s x o).lg

def distIn (op p : Nat) : Endpoint := ⟨.dist op, p, false⟩
def distOut (op p j : Nat) : Endpoint := ⟨.dist op, 16 * p + j, false⟩
def mergeIn (op o j : Nat) : Endpoint := ⟨.merge op, 16 * o + j, false⟩
def mergeOut (op o : Nat) : Endpoint := ⟨.merge op, o, false⟩

/-- Bucket of a key (R244). -/
def bucketOf (op : Nat) (q : W32) : Nat := (patHash32 (BitVec.ofNat 32 op) q 0#32).toNat % 64

/-- The clone that a group goes to: by block, or by the bucket of its key (R243, R244). -/
def cloneFor (op p : Nat) (o : OpState) (t : Token) : Nat :=
  let n := max 1 o.elems.length
  if o.cls = 1 then bucketOf op (vec8Get t.lanes (o.kl % 8)) % n else o.dealt.getD p 0 / max 1 o.blk % n

/-- The input whose SEQ an output carries: that of operand A where it is a channel, else of B (R76). -/
def seqPort (s : State) (x : Span) (o : OpState) (k : Nat) : Nat :=
  let slotsOf (p : Nat × Nat × Nat) : List W64 := match absOf x p.1 with
    | none => []
    | some cl => vec16List (getEl s cl p.2.1).slots
  let w := ((o.elems.head?).map slotsOf).getD [] |>.find? (fun w => (slotOf w).valid && decide ((slotOf w).d.toNat = 16 + k))
  match w with
  | none => 0
  | some w =>
    let sh := (shapeOf (slotOpOf w)).getD .n
    let code (used : Bool) (c : BitVec 5) : Option Nat := if used then portOf (some (operandOf c)) else none
    ((code (usesA sh) (slotOf w).a).orElse (fun _ => code (usesB sh) (slotOf w).b)).getD 0

/-- The groups dealt behind the last mark: those of the input that is furthest on. -/
def dealtMax (o : OpState) : Nat := o.dealt.foldl max 0
/-- A group of a block after clone `j`'s block number `k` has been dealt to it. -/
def laterDealt (o : OpState) (j k : Nat) : Bool :=
  decide (((k + 1) * max 1 o.elems.length + j) * max 1 o.blk < dealtMax o)
/-- Token number `n` of clone `j`'s loop: once a later block is dealt to the clone, a fresh identity token stands for one that
closes a block; the last block's stays (R346). -/
def loopTok (o : OpState) (lg j n : Nat) (t : Token) : Token :=
  if (n / lg + 1) % max 1 o.blk = 0 ∧ laterDealt o j (n / lg / max 1 o.blk) then identToken o (n % lg) else t
/-- Where a clone's loop ends. -/
def loopEnd (l : Load) (o : OpState) (j : Nat) : Option (Nat × Nat) :=
  match o.loopPort, o.elems[j]? with
  | some p, some e => findIn l ⟨.element e.1 e.2.1, p, false⟩
  | _, _ => none
/-- The tokens that stand in the clones' loops, after a group was dealt. -/
def freshLoops (s : State) (sp op lg : Nat) : State :=
  match (getLoad s sp).bind (fun l => (amGet l.ops op).map (fun o => (l, o))) with
  | none => s
  | some (l, o) =>
    if o.cls ≠ 2 then s
    else (List.range o.elems.length).foldl (fun s j =>
      match loopEnd l o j with
      | none => s
      | some (ch, br) =>
        let n := o.loopCount.getD j 0
        modBr s sp ch br (fun b => { b with buf := b.buf.mapIdx (fun i f =>
          if b.buf.length ≤ n + i then { f with tok := loopTok o lg j (n + i - b.buf.length) f.tok } else f) })) s

/-- A group of `o` is dealt at input `p`, whose first token carries SEQ `q` (R243). -/
def dealOne (s : State) (x : Span) (p q : Nat) (o : OpState) : OpState :=
  { o with
    dealt := o.dealt.modify p (· + 1)
    firsts := o.firsts.modify p (fun f => if f = none then some q else f)
    nexts := o.nexts.mapIdx (fun k n => if n.1 = none ∧ seqPort s x o k = p then (some q, 0) else n) }

/-- One group dealt at input `p`. Once a rewiring is marked, an input deals no further than the input that was furthest on,
so the marks of all inputs align (R242). -/
def distOne (s : State) (sp op p : Nat) : Option State :=
  match getSpan s sp with
  | none => none
  | some x =>
    match x.load with
    | none => none
    | some l =>
      match amGet l.ops op, findIn l (distIn op p) with
      | some o, some ib =>
        let lg := opLG s x o
        let grp := ((branchOf l ib).map (fun b => (b.buf.take lg).map (·.tok))).getD []
        if (o.rewire ≠ 0 ∧ dealtMax o ≤ o.dealt.getD p 0) ∨ grp.length ≠ lg then none
        else
          match findOut l (distOut op p (cloneFor op p o (grp.getD 0 tokenZero))) with
          | none => none
          | some ch =>
            match amGet l.chans ch with
            | none => none
            | some c =>
              if !outSpace s x c lg then none
              else
                let s1 := modChan (modBr s sp ib.1 ib.2 (popN (spanNow s sp) lg)) sp ch (emitAll (spanNow s sp) false grp)
                some (freshLoops (modOp s1 sp op (dealOne s x p (hdrSEQ (grp.getD 0 tokenZero).hdr))) sp op lg)
      | _, _ => none

def distPump : Nat → State → Nat → Nat → Nat → State
  | 0, s, _, _, _ => s
  | n + 1, s, sp, op, p =>
    match distOne s sp op p with
    | some t => distPump n t sp op p
    | none => s
/-! The mark of an operator that has clones (R242): groups dealt, but not yet popped by a clone, that stand behind the last
group popped go back to the inputs. -/

/-- The tokens of a branch, oldest first. -/
def branchTokens (s : State) (x : Span) (b : Branch) : List Token :=
  b.buf.map (·.tok) ++ b.hold
  ++ (match b.queue with
      | some q => match absOf x q.cl with
        | some cl => (List.range q.len).map (fun k => queueTok (getTile s cl q.tile) q.base ((q.head + k) % q.cap))
        | none => []
      | none => [])
  ++ b.relief.map (·.1)
  ++ (List.range b.rlen).filterMap (fun i => (areaPlace b (b.rhead + i)).bind (fun p =>
      (absOf x p.1.1).map (fun cl => queueTok (getTile s cl p.1.2.1) p.1.2.2 p.2)))
  ++ b.flight.map (·.tok)

/-- The tokens on a channel from the distributor to a clone, oldest first. -/
def clonePath (s : State) (x : Span) (c : Chan) : List Token := c.branches.flatMap (branchTokens s x) ++ c.out.map (·.tok)
/-- The first `n` tokens of a branch stay; its queue is no part of a clone's channel. -/
def keepBranch (n : Nat) (b : Branch) : Branch :=
  let n1 := n - b.buf.length
  let n2 := n1 - b.hold.length
  let n3 := n2 - b.relief.length
  let n4 := n3 - b.rlen
  { b with
    buf := b.buf.take n, hold := b.hold.take n1, relief := b.relief.take n2, rlen := min b.rlen n3, flight := b.flight.take n4
    replay := b.replay.take (b.replay.length - (inBranch b - n)) }
/-- The first `n` tokens of a clone's channel stay. -/
def keepPath (n : Nat) (c : Chan) : Chan :=
  { c with out := c.out.take (n - c.branches.foldl (fun k b => k + inBranch b) 0), branches := c.branches.map (keepBranch n) }
/-- The granules of tokens `i` to `rlen − 1` of a branch's stall relief become empty. -/
def clearAreaFrom (s : State) (x : Span) (b : Branch) (i : Nat) : State :=
  (List.range (b.rlen - i)).foldl (fun s k => match areaPlace b (b.rhead + i + k) with
    | none => s
    | some (r, n) => match absOf x r.1 with
      | none => s
      | some cl => modTile s cl r.2.1 (fun y => queueClear y r.2.2 n)) s
/-- The number of the group, of `d` dealt, whose first token carries SEQ `q`, where group 0 carried `f`. -/
def dealGroup (lg d f q : Nat) : Nat :=
  let w := 65536 / lg
  d - 1 - (d - 1 + w - (q + 65536 - f) % 65536 / lg % w) % w
/-- The groups of an input that no clone has popped: number, clone, tokens. -/
def unpopped (s : State) (x : Span) (l : Load) (op lg p : Nat) (o : OpState) : List (Nat × Nat × List Token) :=
  (List.range o.elems.length).flatMap (fun j =>
    match (findOut l (distOut op p j)).bind (fun ch => amGet l.chans ch) with
    | none => []
    | some c =>
      let ts := clonePath s x c
      (List.range (ts.length / lg)).map (fun i =>
        let g := (ts.drop (lg * i)).take lg
        (dealGroup lg (o.dealt.getD p 0) ((o.firsts.getD p none).getD 0) (hdrSEQ (g.getD 0 tokenZero).hdr), j, g)))
/-- One more than the number of the last group that is not among `l`. -/
def lastPopped (l : List Nat) : Nat → Nat
  | 0 => 0
  | d + 1 => if d ∈ l then lastPopped l d else d + 1
/-- Groups in the order of their numbers. -/
def insertGroup (g : Nat × Nat × List Token) : List (Nat × Nat × List Token) → List (Nat × Nat × List Token)
  | [] => [g]
  | h :: t => if g.1 ≤ h.1 then g :: h :: t else h :: insertGroup g t

/-- Behind group `m`, an input's groups return to it. -/
def takeBackAt (m op lg : Nat) (o : OpState) (x : Span) (sp : Nat) (s : State) (p : Nat) : State :=
  match getLoad s sp with
  | none => s
  | some l =>
    let mine := unpopped s x l op lg p o
    let back := (mine.filter (fun g => decide (m ≤ g.1))).foldr insertGroup []
    let s1 := (List.range o.elems.length).foldl (fun s j =>
      match (findOut l (distOut op p j)).bind (fun ch => (amGet l.chans ch).map (fun c => (ch, c))) with
      | none => s
      | some (ch, c) =>
        let n := lg * (mine.filter (fun g => decide (g.2.1 = j ∧ g.1 < m))).length
        modChan (c.branches.foldl (fun s b => clearAreaFrom s x b (keepBranch n b).rlen) s) sp ch (keepPath n)) s
    match findIn l (distIn op p) with
    | none => s1
    | some (ch, br) =>
      modBr s1 sp ch br (fun b => { b with
        buf := (back.flatMap (fun g => g.2.2)).map (fun k => ⟨k, spanNow s sp⟩) ++ b.buf })
def takeBack (s : State) (sp op : Nat) : State :=
  match getSpan s sp with
  | none => s
  | some x =>
    match (x.load).bind (fun l => (amGet l.ops op).map (fun o => (l, o))) with
    | none => s
    | some (l, o) =>
      let lg := opLG s x o
      let m := (List.range 4).foldl (fun m p => max m (lastPopped ((unpopped s x l op lg p o).map (·.1)) (o.dealt.getD p 0))) 0
      modOp ((List.range 4).foldl (takeBackAt m op lg o x sp) s) sp op (fun o => { o with dealt := o.dealt.map (min m) })

/-- Everything that can be dealt is dealt, input by input. -/
def distRun (s : State) (sp op : Nat) : State :=
  (List.range 4).foldl (fun s p => distPump 64 s sp op p) s

/-- Tokens that a firing emits on output `o`: one where every slot that writes it emits one token (R124, R148, R156). -/
def outTokens (s : State) (x : Span) (o : OpState) (k : Nat) : Nat :=
  let p := o.elems.getD 0 (0, 0, 0)
  match absOf x p.1 with
  | none => 1
  | some cl =>
    let ws := (vec16List (getEl s cl p.2.1).slots).filter (fun w =>
      (slotOf w).valid && decide ((slotOf w).d.toNat = 16 + k))
    if ws ≠ [] ∧ ws.all (fun w => oneOut (slotOpOf w)) then 1 else opLG s x o

/-- The output of the carry node for token `r` of a group: payload lanes below LN combined, carry first (R347). -/
def carryTok (o : OpState) (r : Nat) (t : Token) : Token :=
  let ln := hdrLN t.hdr
  { t with lanes := vec8Of (fun i =>
      if i < ln then combineLane o.comb o.rm (o.carry.getD (8 * r + i) 0#32) (vec8Get t.lanes i) else vec8Get t.lanes i) 0 }

/-- The carry after token `r` of `n`: at a block's last group the carry becomes its output (R245). -/
def carryNext (o : OpState) (r n : Nat) (t : Token) : OpState :=
  let last := (List.range (8 * max n (r + 1))).map (fun i =>
    if i / 8 = r then vec8Get t.lanes (i % 8) else o.lastOut.getD i 0#32)
  let o1 := { o with lastOut := last, released := if r + 1 = n then o.released + 1 else o.released }
  if r + 1 = n ∧ o1.released % max 1 o.blk = 0 then { o1 with carry := last } else o1

/-- The location word of a node of a cloned operator: its home element and the port (R243). -/
def nodeLoc (l : Load) (op port : Nat) : Nat :=
  match amGet l.ops op with
  | some o => locWord o.home.1 o.home.2 0 port 0
  | none => 0
/-- The cluster at whose router a port stands. -/
def endRel (l : Load) (e : Endpoint) : Nat :=
  match e.unit with
  | .dist op | .merge op => ((amGet l.ops op).map (fun o => o.home.1)).getD 0
  | u => unitRel u
/-- The location word of a consumer port. -/
def portLocOf (l : Load) (e : Endpoint) : Nat :=
  match e.unit with
  | .dist op => nodeLoc l op e.port
  | .merge op => nodeLoc l op (e.port / 16)
  | _ => endLoc e

/-- The consumer port of an ordered branch has found an error: the branch's tokens are sent again from the
window, or the gap is a fault (R386, R387). -/
def replayFrom (s : State) (x : Span) (sp ch br : Nat) (b : Branch) : State :=
  let m := b.flight.length + (match b.queue with | some q => q.len | none => 0) + b.relief.length + b.rlen
  let t := spanNow s sp
  let clearQueue (s : State) : State :=
    match b.queue with
    | none => s
    | some q =>
      match absOf x q.cl with
      | none => s
      | some cl => modTile s cl q.tile (fun y =>
          (List.range q.len).foldl (fun y k => queueClear y q.base ((q.head + k) % q.cap)) y)
  if m ≤ b.replay.length then
    modBr (clearAreaFrom (clearQueue s) x b 0) sp ch br (fun b => { b with
      rhead := 0, rlen := 0
      flight := (b.replay.drop (b.replay.length - m)).map (fun k => ⟨k, t⟩)
      queue := b.queue.map (fun q => { q with len := 0 }), relief := [] })
  else
    let s1 := modBr s sp ch br (fun b => { b with failed := some 0 })
    match b.dst.unit with
    | .element rel el =>
      match absOf x rel with
      | none => s1
      | some cl =>
        postEvent (modEl s1 cl el (fun e => { e with badPorts := e.badPorts ++ [b.dst.port + (if b.dst.ctl then 4 else 0)] })) cl
          ⟨0x0A, 0, 0, locWord rel el 0 b.dst.port 0⟩
    | .gen rel t a =>
      match absOf x rel with
      | none => s1
      | some cl => genFault s1 cl t a ⟨0x0A, 0, 0, genLoc rel t a⟩
    | .port rel n =>
      match absOf x rel with
      | none => s1
      | some cl => portFault s1 cl n ⟨0x0A, 0, 0, portLoc rel n⟩
    | .island rel =>
      match absOf x rel with
      | none => s1
      | some cl => islandFault s1 cl ⟨0x0A, 0, 0, islandLoc rel⟩
    | .core rel n =>
      match absOf x rel with
      | none => s1
      | some cl => postEvent s1 cl ⟨0x0A, 0, 0, locWord rel 0 0 n 0⟩
    | .dist _ | .merge _ =>
      match x.load with
      | none => s1
      | some l =>
        match absOf x (endRel l b.dst) with
        | none => s1
        | some cl => postEvent s1 cl ⟨0x0A, 0, 0, portLocOf l b.dst⟩

/-! The entries of a reorder node (R243). -/

/-- The places of an operator's extensions that its tokens take. -/
def spotsTaken (l : Load) (op : Nat) : List ((Nat × Nat × Nat) × Nat) :=
  (amVals l.chans).flatMap (fun c => c.branches.flatMap (fun b =>
    if b.dst.unit = .merge op then b.spots.filterMap id else []))
/-- The tokens of one output that stand in the node's own 64 entries. -/
def ownTaken (l : Load) (op k : Nat) : Nat :=
  (amVals l.chans).foldl (fun n c => c.branches.foldl (fun n b =>
    if b.dst.unit = .merge op ∧ b.dst.port / 16 = k then n + (b.spots.filter (·.isNone)).length else n) n) 0
/-- Where an arriving token stands: in an entry of the node, else in the first free place of the extensions. -/
def spotFor (l : Load) (op k : Nat) : Option ((Nat × Nat × Nat) × Nat) :=
  if ownTaken l op k < 64 then none
  else
    let taken := spotsTaken l op
    (((amGet l.ops op).map (·.areas)).getD []).findSome? (fun r =>
      ((List.range 64).find? (fun i => decide ((r, i) ∉ taken))).map (fun i => (r, i)))
/-- A change of the granules of a place. -/
def modSpot (s : State) (x : Span) (p : Option ((Nat × Nat × Nat) × Nat)) (f : Tile → Nat → Nat → Tile) : State :=
  match p.bind (fun q => (absOf x q.1.1).map (fun cl => (q, cl))) with
  | none => s
  | some ((r, i), cl) => modTile s cl r.2.1 (fun y => f y r.2.2 i)
/-- The token of a place as its granules hold it, and whether an error stands in them. -/
def spotTok (s : State) (x : Span) (p : Option ((Nat × Nat × Nat) × Nat)) (t : Token) : Token × Bool :=
  match p.bind (fun q => (absOf x q.1.1).map (fun cl => (q, cl))) with
  | none => (t, false)
  | some ((r, i), cl) => (queueTok (getTile s cl r.2.1) r.2.2 i, queueBad (getTile s cl r.2.1) r.2.2 i)
/-- An error in the tile space of a reorder node: its branch's tokens, from the one at the head on, are sent again (R386). -/
def replayMerge (s : State) (x : Span) (sp ch br : Nat) (b : Branch) : State :=
  let s1 := b.spots.foldl (fun s p => modSpot s x p queueClear) s
  replayFrom (modBr s1 sp ch br (fun b => { b with buf := [], spots := [] })) x sp ch br { b with flight := b.buf ++ b.flight }

/-- The reorder node of output `k` releases the token due, when a clone holds it and the output has room (R243). -/
def mergeOne (s : State) (sp op k : Nat) : Option State :=
  match getSpan s sp with
  | none => none
  | some x =>
    match x.load with
    | none => none
    | some l =>
      match amGet l.ops op, findOut l (mergeOut op k) with
      | some o, some ch =>
        match amGet l.chans ch, o.nexts.getD k (none, 0) with
        | some c, (some q, r) =>
          let due (b : Branch) : Bool := match b.buf with
            | f :: _ => decide (hdrSEQ f.tok.hdr = (q + r) % 65536)
            | [] => false
          let src := (List.range 16).filterMap (fun j =>
            (findIn l (mergeIn op k j)).bind (fun ib => (branchOf l ib).bind (fun b => if due b then some (ib, b) else none)))
          match src with
          | [] => none
          | (ib, b) :: _ =>
            let spot := (b.spots.head?).bind id
            let held := spotTok s x spot ((b.buf.head?.map (·.tok)).getD tokenZero)
            if !outSpace s x c 1 then none
            else if held.2 then some (replayMerge s x sp ib.1 ib.2 b)
            else
              let n := outTokens s x o k
              let t0 := held.1
              let s := modSpot s x spot queueClear
              let carried := decide (o.cls = 2) && decide (o.loopOut = k)
              let t := if carried then carryTok o r t0 else t0
              let s1 := modChan (modBr s sp ib.1 ib.2 (popN (spanNow s sp) 1)) sp ch (emitTok (spanNow s sp) (o.sqs.getD k false) t)
              some (modOp s1 sp op (fun y =>
                let y1 := if carried then carryNext y r n t else y
                { y1 with nexts := y1.nexts.modify k (fun _ =>
                    if r + 1 < n then (some q, r + 1) else (some ((q + opLG s x o) % 65536), 0)) }))
        | _, _ => none
      | _, _ => none

def mergePump : Nat → State → Nat → Nat → Nat → State
  | 0, s, _, _, _ => s
  | n + 1, s, sp, op, k =>
    match mergeOne s sp op k with
    | some t => mergePump n t sp op k
    | none => s
def mergeRun (s : State) (sp op : Nat) : State :=
  (List.range 4).foldl (fun s k => mergePump 64 s sp op k) s

/-! Release (R23, R25, R28). -/

/-- TOKEN_RELEASE (R25). A token leaves a producer's output buffer into its route or fork once every branch has
room, one a cycle and not before the cycle after its emission. An ordered edge keeps the last 64 tokens of each
branch for replay (R386). -/
def execTokenRelease (sp ch : Nat) (s : State) : Out :=
  match getSpan s sp with
  | none => .next s
  | some x =>
    match x.load with
    | none => .next s
    | some l =>
      match amGet l.chans ch with
      | none => .next s
      | some c =>
        match c.out with
        | [] => .next s
        | f :: rest =>
          let t := spanNow s sp
          if spanActive x && loadActive l && decide (f.at_ < t) && decide (c.relAt ≤ t) && c.branches.all (branchRoom s x) then
            let s1 := modChan s sp ch (fun c => { c with
              out := rest, count := c.count + 1#32, relAt := t + 1
              branches := c.branches.map (fun b => { b with
                flight := b.flight ++ [⟨f.tok, t⟩]
                replay := if c.ord then (b.replay ++ [f.tok]).drop (b.replay.length + 1 - 64) else [] }) })
            let s2 := if ch < 4096 then x.clusters.foldl (fun s k => countBoth s k (0x1000 + ch) 1) s1 else s1
            .next (match c.src.unit with
              | .dist op => distRun s2 sp op
              | .merge op => mergeRun s2 sp op
              | _ => s2)
          else .next s

/-! Arrival (R23, R24). -/

/-- A queue entry taken from the tile with its errors, if any granule of it is bad. -/
def popQueue (s : State) (x : Span) (sp ch br : Nat) (q : QueueRegion) : Option (Token × Bool × State) :=
  match absOf x q.cl with
  | none => none
  | some cl =>
    let bad := queueBad (getTile s cl q.tile) q.base q.head
    (queuePop s x sp ch br q).map (fun p => (p.1, bad, p.2))

/-- The next token before the queue: from stall relief, else arrived from the route. -/
def takeBefore (s : State) (x : Span) (sp ch br : Nat) (b : Branch) : Option (Token × Bool × State) :=
  match areaHead s x b with
  | some (t, bad) => some (t, bad, areaPop s x sp ch br b)
  | none =>
    match b.flight with
    | f :: rest =>
      if f.at_ + b.lat ≤ spanNow s sp then some (f.tok, false, modBr s sp ch br (fun b => { b with flight := rest })) else none
    | [] => none
/-- A token before the queue moves up into a free entry of the queue, with its error if it has one. -/
def moveUp (s : State) (x : Span) (sp ch br : Nat) : State :=
  match (getLoad s sp).bind (fun l => branchOf l (ch, br)) with
  | none => s
  | some b =>
    match b.queue with
    | some q =>
      if q.len < q.cap then
        match takeBefore s x sp ch br b with
        | none => s
        | some (t, bad, s1) =>
          queuePush s1 x sp ch br q t bad
      else s
    | none =>
      if b.relief.length < b.reliefCap then
        match takeBefore s x sp ch br b with
        | none => s
        | some (t, bad, s1) => modBr s1 sp ch br (fun b => { b with relief := b.relief ++ [(t, bad)] })
      else s
/-- The next token on the way to the consumer: from the queue, else from what stands before it. Relief follows into the
queue. -/
def takeUpstream (s : State) (x : Span) (sp ch br : Nat) (b : Branch) : Option (Token × Bool × State) :=
  let follow (p : Token × Bool × State) : Token × Bool × State := (p.1, p.2.1, if 0 < b.rlen then moveUp p.2.2 x sp ch br else p.2.2)
  match b.queue.filter (fun q => decide (0 < q.len)) with
  | some q => (popQueue s x sp ch br q).map follow
  | none =>
    match b.relief with
    | (t, bad) :: rest => some (follow (t, bad, modBr s sp ch br (fun b => { b with relief := rest })))
    | [] => takeBefore s x sp ch br b

/-- A token arrives in a clone's loop (R346). -/
def loopArrival (s : State) (x : Span) (sp : Nat) (c : Chan) (b : Branch) (t : Token) : Token × State :=
  match x.load, b.dst.unit with
  | some l, .element rel el =>
    if b.dst.ctl ∨ c.src.unit ≠ b.dst.unit then (t, s)
    else
      match l.ops.entries.find? (fun p => decide (p.2.cls = 2) && decide (1 < p.2.elems.length)
          && decide (p.2.loopPort = some b.dst.port) && p.2.elems.any (fun e => decide (e.1 = rel ∧ e.2.1 = el))) with
      | none => (t, s)
      | some (op, o) =>
        let j := o.elems.findIdx (fun e => decide (e.1 = rel ∧ e.2.1 = el))
        let lg := opLG s x o
        let n := o.loopCount.getD j 0
        (loopTok o lg j n t, modOp s sp op (fun y => { y with loopCount := y.loopCount.modify j (· + 1) }))
  | _, _ => (t, s)

/-- What an arrival sets going at its consumer. -/
def afterArrival (s : State) (sp : Nat) (e : Endpoint) : State :=
  match e.unit with
  | .dist op => distRun s sp op
  | .merge op => mergeRun s sp op
  | .gen _ _ _ | .port _ _ | .island _ => if e.ctl then s else headCheck s sp e
  | _ => s

/-- A token comes to stand at the consumer's port. -/
def standAt (s : State) (x : Span) (sp ch br : Nat) (c : Chan) (b : Branch) (t : Token) : State :=
  let p := loopArrival s x sp c b t
  let spots : List (Option ((Nat × Nat × Nat) × Nat)) :=
    match b.dst.unit, x.load with
    | .merge op, some l => [spotFor l op (b.dst.port / 16)]
    | _, _ => []
  let s1 := modSpot p.2 x ((spots.head?).bind id) (fun y base i => queuePutTok y base i p.1)
  afterArrival (modBr s1 sp ch br (fun b => { b with
    buf := b.buf ++ [⟨p.1, spanNow s sp⟩], spots := b.spots ++ spots, arrAt := some (spanNow s sp) })) sp b.dst

/-! Comparators (R418). -/

/-- Two tokens are equal but for ET. -/
def sameTok (a b : Token) : Bool := decide (withET a false = withET b false)

/-- The pair that a comparator holds is compared and released once both consumers have room. -/
def cmpPump (s : State) (sp k : Nat) : State :=
  match getSpan s sp with
  | none => s
  | some x =>
    match x.load with
    | none => s
    | some l =>
      match l.cmps[k]? with
      | none => s
      | some m =>
        match amGet l.chans m.chA, amGet l.chans m.chB, branchOf l (m.chA, m.brA), branchOf l (m.chB, m.brB) with
        | some cA, some cB, some bA, some bB =>
          match bA.hold, bB.hold with
          | [a], [b] =>
            let t := spanNow s sp
            if m.stopped || decide (bA.arrAt = some t) || decide (bB.arrAt = some t) || decide (hdrSEQ a.hdr ≠ hdrSEQ b.hdr) || decide (bufCap s x bA ≤ bA.buf.length)
                || decide (bufCap s x bB ≤ bB.buf.length) then s
            else
              let et := hdrET a.hdr || hdrET b.hdr
              let diff := !et && !sameTok a b
              let run := if et then m.run else if diff then m.run + 1 else 0
              let fault := diff && decide (run = 4)
              let s1 := modLoad s sp (fun l => { l with cmps := l.cmps.modify k (fun m => { m with run := run, stopped := fault }) })
              let s2 := modBr (modBr s1 sp m.chA m.brA (fun b => { b with hold := [] })) sp m.chB m.brB (fun b => { b with hold := [] })
              let s3 := standAt s2 x sp m.chA m.brA cA bA (if diff then withET a true else a)
              let s4 := standAt s3 x sp m.chB m.brB cB bB (if diff then withET b true else b)
              match absOf x (endRel l bA.dst) with
              | none => s4
              | some cl =>
                let s5 := if diff then clusterRecord s4 4 cl m.entry (hdrSEQ a.hdr) else s4
                if fault then
                  postEvent (clusterRecord s5 5 cl m.entry (hdrSEQ a.hdr)) cl ⟨8, 0, 0, portLocOf l bA.dst + 5 * 2 ^ 27⟩
                else s5
          | _, _ => s
        | _, _, _, _ => s

/-- The consumer's side has room for one more token: the comparator's place, or the buffer. -/
def consumerRoom (s : State) (x : Span) (b : Branch) : Bool :=
  match b.cmp with
  | some _ => decide (b.hold = [])
  | none => decide (b.buf.length < bufCap s x b)

/-! Free tile space (R243, R252, log 69). -/

/-- Two ranges of granules share one. -/
def overlaps (a n b m : Nat) : Bool := decide (a < b + m) && decide (b < a + n)
/-- The first granule of each queue and relief region of a load in a tile. -/
def regionBases (l : Load) (rel t : Nat) : List Nat :=
  let areas (as : List (Nat × Nat × Nat)) : List Nat := as.filterMap (fun r => if r.1 = rel ∧ r.2.1 = t then some r.2.2 else none)
  (amVals l.chans).flatMap (fun c => c.branches.flatMap (fun b =>
    (match b.queue with
      | some q => if q.cl = rel ∧ q.tile = t then [q.base] else []
      | none => []) ++ areas b.area))
  ++ (amVals l.ops).flatMap (fun o => areas o.areas)
/-- 192 granules that hold 64 tokens: below every queue and region of the tile, outside the regions of its generators and
the key records. -/
def freeRegion (s : State) (l : Load) (rel cl t : Nat) : Option (Nat × Nat × Nat) :=
  let top := (regionBases l rel t).foldl min 4096
  let base := top - 192
  let gens := (List.range 4).any (fun a =>
    let d := (getGen s cl t a).desc
    decide (agMode d ≠ 0) && overlaps base 192 (agBASE d) (agSIZE d + 1))
  let keys := (amVals l.ops).any (fun o =>
    decide (o.cls = 1 ∧ o.keySize ≠ 0 ∧ o.keyTile = t) && overlaps (16 * base) 3072 o.keyBase (64 * o.keySize))
  if 192 ≤ top ∧ !gens ∧ !keys then some (rel, t, base) else none
/-- The first such region of the span. -/
def findRegion (s : State) (x : Span) (l : Load) : Option (Nat × Nat × Nat) :=
  (List.range x.clusters.length).findSome? (fun rel => (absOf x rel).bind (fun cl =>
    (List.range 32).findSome? (freeRegion s l rel cl)))

/-- A reorder buffer that is full is extended by 64 tokens while RLIM and the span's tiles allow (R243). -/
def extendReorder (s : State) (x : Span) (sp : Nat) (b : Branch) : State :=
  match x.load, b.dst.unit with
  | some l, .merge op =>
    if b.flight ≠ [] ∧ bufCap s x b ≤ b.buf.length ∧ l.relief + 64 ≤ field 63 48 l.cpw then
      match findRegion s x l with
      | none => s
      | some r =>
        let s1 := modLoad s sp (fun l => { l with
          relief := l.relief + 64
          ops := amMod l.ops op (fun o => { o with
            reorderCap := o.reorderCap.modify (b.dst.port / 16) (· + 64), areas := o.areas ++ [r] }) })
        let s2 := match absOf x r.1 with
          | none => s1
          | some cl => modTile s1 cl r.2.1 (emptyRegion r.2.2 192)
        countBoth s2 sp 0x7001 1
    else s
  | _, _ => s

/-- A token that is under way moves up: into the queue behind the channel, or into stall relief. -/
def moveAhead (s : State) (x : Span) (sp ch br : Nat) (b : Branch) : State :=
  let room := match b.queue with
    | some q => decide (q.len < q.cap)
    | none => decide (b.relief.length < b.reliefCap)
  if room then moveUp s x sp ch br
  else
    match b.flight with
    | f :: rest =>
      if f.at_ + b.lat ≤ spanNow s sp ∧ b.rlen < extOf b then
        areaPut (modBr s sp ch br (fun b => { b with flight := rest })) x sp ch br b f.tok false
      else s
    | [] => s

/-- A token found bad in transit or in a channel buffer: its record (R419). -/
def transitError (s : State) (x : Span) (l : Load) (b : Branch) : State :=
  match absOf x (endRel l b.dst) with
  | none => s
  | some cl => softCluster s true cl (portLocOf l b.dst) 4

/-- A token is taken to the port: an error replays an ordered edge and tags a token of another (R386). -/
def deliver (s0 : State) (x : Span) (sp ch br : Nat) (l : Load) (c : Chan) (b : Branch) (found : Bool) : State :=
  match takeUpstream s0 x sp ch br b with
  | none => s0
  | some (t, qbad, s1) =>
    let rec_ (s : State) : State := if found then transitError s x l b else s
    if (found || qbad) && c.ord then rec_ (replayFrom s0 x sp ch br b)
    else
      let t1 := if (found || qbad) && !c.ctl then withET t true else t
      match b.cmp with
      | some k => cmpPump (modBr (rec_ s1) sp ch br (fun b => { b with hold := [t1] })) sp k
      | none => standAt (rec_ s1) x sp ch br c b t1

/-- TOKEN_ARRIVAL (R23). A token reaches a consumer port after the route latency, through the queue behind the
channel where there is one, at most one a cycle. `bad`: an uncorrectable error is found in it. -/
def execTokenArrival (sp ch br : Nat) (bad : Bool) (s : State) : Out :=
  match getSpan s sp with
  | none => .next s
  | some x =>
    match x.load with
    | none => .next s
    | some l =>
      match amGet l.chans ch, branchOf l (ch, br) with
      | some c, some b =>
        if !spanActive x || !loadActive l || b.failed.isSome then .next s
        else
          let s0 := match b.cmp with
            | some k => cmpPump s sp k
            | none => s
          match (getLoad s0 sp).bind (fun l => branchOf l (ch, br)) with
          | none => .next s0
          | some b0 =>
            if consumerRoom s0 x b0 ∧ (b0.cmp.isSome ∨ b0.arrAt ≠ some (spanNow s sp)) then .next (deliver s0 x sp ch br l c b0 bad)
            else .next (moveAhead (extendReorder s0 x sp b0) x sp ch br b0)
      | _, _ => .next s

end Sys2Proof.Machine
end

