-- ==== Sys2Proof/Machine/Caldera.lean ====
section
/-! DEFINITION. The Caldera: windows, measurements, cloning, folding, the layout table, stall relief
(R237 to R253, R345 to R348). -/

namespace Sys2Proof.Machine

open Sys2Proof

/-! The parameter block (R237). -/

def cpwRLIM (l : Load) : Nat := field 63 48 l.cpw
def cpwHW (l : Load) : Nat := field 47 40 l.cpw
def cpwLW (l : Load) : Nat := field 39 32 l.cpw
def cpwCWN (l : Load) : Nat := field 31 28 l.cpw + 1
def cpwCMAX (l : Load) : Nat := field 27 24 l.cpw + 1
/-- The length of a window: 2^WLOG cycles, or 4,096 without a block. -/
def winLen (l : Load) : Nat := if l.caldera then 2 ^ field 23 20 l.cpw else 4096

/-! Places and routes. -/

/-- The router of a unit: the nodes of a cloned operator stand at its home element's (R243). -/
def unitXY (x : Span) (l : Load) (u : UnitRef) : Nat × Nat :=
  let at_ (rel el : Nat) : Nat × Nat := routerXY x rel (compTilePos (el / 4))
  match u with
  | .element rel el => at_ rel el
  | .gen rel t _ => routerXY x rel (memTilePos t)
  | .port rel n => routerXY x rel n
  | .island rel => routerXY x rel 56
  | .core rel _ => routerXY x rel 0
  | .dist op | .merge op =>
    match amGet l.ops op with
    | some o => at_ o.home.1 o.home.2
    | none => (0, 0)

/-- A new route: first along the row, then along the column (log 41). -/
def xyHops (p q : Nat × Nat) : List Nat :=
  List.replicate (q.1 - p.1) 1 ++ List.replicate (p.1 - q.1) 3 ++ List.replicate (q.2 - p.2) 2 ++ List.replicate (p.2 - q.2) 0

/-- A branch along a new route. -/
def reroute (x : Span) (from_ to_ : Nat × Nat) (b : Branch) : Branch :=
  let h := xyHops from_ to_
  { b with hops := h, lat := ((walkRoute x from_ h).map (fun w => w.2.1)).getD 0 }

/-- No link of either network carries more than four tracks (R13). -/
def tracksOk (x : Span) (l : Load) : Bool :=
  let links (ctl : Bool) : List (Nat × Nat × Nat) :=
    ((amVals l.chans).filter (fun c => c.ctl == ctl)).flatMap (fun c =>
      routeLinks x (unitXY x l c.src.unit) [] (c.branches.map (·.hops)))
  (overLink [] (links false)).isNone && (overLink [] (links true)).isNone

/-! Measurements (R239). -/

/-- A port belongs to a share of an element: share 0 holds the ports below its own count (R248). -/
def portOfShare (e : Elem) (sh : Nat) (input ctl : Bool) (port : Nat) : Bool :=
  match e.sh1 with
  | none => decide (sh = 0)
  | some _ =>
    let off := e.foot.getD (if input then (if ctl then 4 else 2) else (if ctl then 5 else 3)) 4
    decide (sh = (if off ≤ port then 1 else 0))

/-- An endpoint of an operator: a port of an element it occupies. -/
def endOfOp (s : State) (x : Span) (o : OpState) (input : Bool) (e : Endpoint) : Bool :=
  match e.unit with
  | .element rel el =>
    o.elems.any (fun p => decide (p.1 = rel ∧ p.2.1 = el) &&
      (match absOf x rel with
        | none => false
        | some cl => portOfShare (getEl s cl el) p.2.2 input e.ctl e.port))
  | _ => false

/-- The accumulator loop of a reassociable operator, from its own output to its own input on one element, which is not
measured (R345). -/
def isLoop (s : State) (x : Span) (o : OpState) (c : Chan) (b : Branch) : Bool :=
  decide (o.cls = 2) && decide (c.src.unit = b.dst.unit) && !c.ctl && endOfOp s x o false c.src && endOfOp s x o true b.dst

/-- The branches that feed an operator, and those it feeds, without its loop. -/
def opIns (s : State) (x : Span) (l : Load) (op : Nat) (o : OpState) : List (Chan × Branch) :=
  (amVals l.chans).flatMap (fun c => c.branches.filterMap (fun b =>
    if isLoop s x o c b then none
    else if 1 < o.elems.length then (if b.dst.unit = .dist op then some (c, b) else none)
    else if endOfOp s x o true b.dst then some (c, b) else none))
def opOuts (s : State) (x : Span) (l : Load) (op : Nat) (o : OpState) : List (Chan × Branch) :=
  (amVals l.chans).flatMap (fun c => c.branches.filterMap (fun b =>
    if isLoop s x o c b then none
    else if 1 < o.elems.length then (if c.src.unit = .merge op then some (c, b) else none)
    else if endOfOp s x o false c.src then some (c, b) else none))

/-- Mean occupancy of a branch over `w` cycles, as a fraction (R24, R25, R239). -/
def occOf (s : State) (x : Span) (w : Nat) (p : Chan × Branch) : Nat × Nat :=
  (p.2.occSum, capacity s x p.1 p.2 * max 1 w)
def fracLe (a b : Nat × Nat) : Bool := decide (a.1 * b.2 ≤ b.1 * a.2)
def fracMax (a b : Nat × Nat) : Nat × Nat := if fracLe a b then b else a
/-- The input occupancy of an operator. -/
def inOcc (s : State) (x : Span) (l : Load) (w op : Nat) (o : OpState) : Nat × Nat :=
  ((opIns s x l op o).map (occOf s x w)).foldl fracMax (0, 1)
/-- At least HW, and at most LW. -/
def isHot (l : Load) (f : Nat × Nat) : Bool := fracLe (cpwHW l, 256) f
def isCool (l : Load) (f : Nat × Nat) : Bool := fracLe f (cpwLW l, 256)

/-! Conditions (R240, R241, R248). -/

def isFolded (s : State) (x : Span) (o : OpState) : Bool :=
  o.elems.any (fun p => match absOf x p.1 with
    | some cl => (getEl s cl p.2.1).sh1.isSome
    | none => false)
/-- The other operator of a fold. -/
def foldPartner (l : Load) (op : Nat) (o : OpState) : Option Nat :=
  (l.ops.entries.find? (fun p => decide (p.1 ≠ op) &&
    p.2.elems.any (fun a => o.elems.any (fun b => decide (a.1 = b.1 ∧ a.2.1 = b.2.1))))).map Prod.fst

def usedSlots (e : Elem) : List Nat := (List.range 16).filter (fun n => (slotOf (vec16Get e.slots n)).valid)
/-- Whether two footprints and two sets of slots fit on one element. -/
def fitsFold (a b : List Nat) (ea eb : Elem) : Bool :=
  let sum (k : Nat) : Nat := a.getD k 0 + b.getD k 0
  decide (sum 0 ≤ 16) && decide (sum 1 ≤ 8) && [2, 3, 4, 5].all (fun k => decide (sum k ≤ 4))
  && decide ((usedSlots ea).length + (usedSlots eb).length ≤ 16)

def opElem (s : State) (x : Span) (o : OpState) : Elem :=
  match o.elems.head? with
  | none => elemReset
  | some p => match absOf x p.1 with
    | none => elemReset
    | some cl => getEl s cl p.2.1
def foldable (s : State) (x : Span) (o : OpState) : Bool :=
  decide (o.cls ≤ 3) && decide (o.elems.length = 1) && !isFolded s x o
/-- Two operators on different elements of one compute tile. -/
def sameTile (a b : OpState) : Bool :=
  match a.elems.head?, b.elems.head? with
  | some p, some q => decide (p.1 = q.1) && decide (p.2.1 / 4 = q.2.1 / 4) && decide (p.2.1 ≠ q.2.1)
  | _, _ => false

def cloneCond (s : State) (x : Span) (l : Load) (w op : Nat) (o : OpState) : Bool :=
  decide (o.cls ≤ 2) && decide (1 ≤ o.elems.length) && !isFolded s x o && isHot l (inOcc s x l w op o)
  && (opOuts s x l op o).all (fun p => isCool l (occOf s x w p))
  && decide (o.elems.length < cpwCMAX l) && decide (l.spares ≠ [])
def coolCond (s : State) (x : Span) (l : Load) (w op : Nat) (o : OpState) : Bool :=
  decide (1 ≤ o.elems.length) && isCool l (inOcc s x l w op o)
def unfoldCond (s : State) (x : Span) (l : Load) (w op : Nat) (o : OpState) : Bool :=
  isFolded s x o && (isHot l (inOcc s x l w op o) ||
    (match foldPartner l op o with
      | some q => (amGet l.ops q).any (fun y => isHot l (inOcc s x l w q y))
      | none => false))

/-- The runs of windows in which the conditions have held. -/
def countRuns (s : State) (x : Span) (l : Load) (w : Nat) : Load :=
  { l with ops := amMap l.ops (fun op o =>
      if o.rewire ≠ 0 then { o with cloneRun := 0, loRun := 0, unRun := 0 }
      else { o with
        cloneRun := if cloneCond s x l w op o then o.cloneRun + 1 else 0
        loRun := if coolCond s x l w op o then o.loRun + 1 else 0
        unRun := if unfoldCond s x l w op o then o.unRun + 1 else 0 }) }

/-! Structure: what a rewiring does to the channels. -/

def chanNew (num : Nat) (src : Endpoint) (bs : List Branch) : Chan :=
  { num := num, ctl := false, ord := true, src := src, out := [], nextSeq := 0, count := 0#32, winStart := 0#32, relAt := 0, branches := bs }

/-- The input ports that end at the distributor, and the outputs that start at reorder nodes. -/
def distPorts (l : Load) (op : Nat) : List Nat :=
  ((amVals l.chans).flatMap (fun c => c.branches.filterMap (fun b => if b.dst.unit = .dist op then some b.dst.port else none))).dedup
def mergePorts (l : Load) (op : Nat) : List Nat :=
  ((amVals l.chans).filterMap (fun c => if c.src.unit = .merge op then some c.src.port else none)).dedup

/-- Comparators follow the branches of a channel that loses branch `k`. -/
def shiftCmps (ch k : Nat) (l : Load) : Load :=
  { l with cmps := l.cmps.map (fun m => { m with
      brA := if m.chA = ch ∧ k < m.brA then m.brA - 1 else m.brA
      brB := if m.chB = ch ∧ k < m.brB then m.brB - 1 else m.brB }) }

/-- The loop branch of an operator on its only element: channel and branch. -/
def loopAt (s : State) (x : Span) (l : Load) (o : OpState) (u : UnitRef) : Option (Nat × Nat) :=
  l.chans.entries.findSome? (fun p =>
    let k := p.2.branches.findIdx (fun b => isLoop s x o p.2 b && decide (p.2.src.unit = u))
    if k < p.2.branches.length then some (p.1, k) else none)

/-- A branch whose end, or whose channel's source, moves from one router to another takes a new route; between nodes of one
router its route stays. -/
def moveEnd (x : Span) (from_ to_ src dst : Nat × Nat) (b : Branch) : Branch := if from_ = to_ then b else reroute x src dst b
/-- The operator's channels end at its distributor and start at its reorder nodes, at its home element's router; its loop is
taken out. -/
def toNodes (s : State) (x : Span) (l : Load) (op : Nat) (o : OpState) (u : UnitRef) : Load :=
  let l1 := match loopAt s x l o u with
    | some (ch, k) => shiftCmps ch k { l with chans := amMod l.chans ch (fun c => { c with branches := c.branches.eraseIdx k }) }
    | none => l
  let from_ := unitXY x l u
  let to_ := unitXY x l (.dist op)
  { l1 with chans := amMap l1.chans (fun _ c =>
      let src := if c.src.unit = u ∧ !c.src.ctl then mergeOut op c.src.port else c.src
      { c with
        src := src
        branches := c.branches.map (fun b =>
          let dst := if b.dst.unit = u ∧ !b.dst.ctl then distIn op b.dst.port else b.dst
          if src = c.src ∧ dst = b.dst then b
          else { moveEnd x from_ to_ (unitXY x l src.unit) (unitXY x l dst.unit) b with dst := dst }) }) }

/-- The reverse, when one element is left; `ts` stand in the loop. -/
def fromNodes (x : Span) (l : Load) (op : Nat) (o : OpState) (u : UnitRef) (ts : List Token) : Load :=
  let from_ := unitXY x l (.dist op)
  let to_ := unitXY x l u
  let l1 := { l with chans := amMap l.chans (fun _ c =>
      let src := if c.src.unit = .merge op then ⟨u, c.src.port, false⟩ else c.src
      { c with
        src := src
        branches := c.branches.map (fun b =>
          let dst := if b.dst.unit = .dist op then ⟨u, b.dst.port, false⟩ else b.dst
          if src = c.src ∧ dst = b.dst then b
          else { moveEnd x from_ to_ (unitXY x l src.unit) (unitXY x l dst.unit) b with dst := dst }) }) }
  match o.loopPort, findOut l1 ⟨u, o.loopOut, false⟩ with
  | some p, some ch =>
    if o.cls = 2 then
      { l1 with chans := amMod l1.chans ch (fun c => { c with
          branches := c.branches ++ [{ branchNew ⟨u, p, false⟩ 0 0 none 0 [] with buf := ts.map (fun t => ⟨t, 0⟩) }] }) }
    else l1
  | _, _ => l1

/-- The channels between the nodes and the clones. -/
def addChan (l : Load) (src : Endpoint) (bs : List Branch) : Load :=
  let n := max 65536 (amFresh l.chans)
  { l with chans := amPut l.chans n (chanNew n src bs) }
def attachOne (x : Span) (op : Nat) (o : OpState) (ps qs : List Nat) (idents : List Token) (l : Load) (j : Nat) : Load :=
  let e := o.elems.getD j (0, 0, 0)
  let u := UnitRef.element e.1 e.2.1
  let h := unitXY x l (.dist op)
  let a := unitXY x l u
  let l1 := ps.foldl (fun l p =>
    addChan l (distOut op p j) [reroute x h a (branchNew ⟨u, p, false⟩ 0 0 none 0 [])]) l
  qs.foldl (fun l q =>
    let back := reroute x a h (branchNew (mergeIn op q j) 0 0 none 0 [])
    let loop := match o.loopPort with
      | some p => if o.cls = 2 ∧ o.loopOut = q then
          [{ branchNew ⟨u, p, false⟩ 0 0 none 0 [] with buf := idents.map (fun t => ⟨t, 0⟩) }] else []
      | none => []
    addChan l ⟨u, q, false⟩ (back :: loop)) l1
def attach (x : Span) (op : Nat) (o : OpState) (idents : List Token) (l : Load) : Load :=
  let ps := distPorts l op
  let qs := mergePorts l op
  (List.range o.elems.length).foldl (attachOne x op o ps qs idents) l
/-- The clones' channels go. -/
def detach (op : Nat) (l : Load) : Load :=
  { l with chans := amFilter l.chans (fun _ c =>
      !(decide (c.src.unit = .dist op) || c.branches.any (fun b => decide (b.dst.unit = .merge op)))) }

/-- The channels of a share's ports move to another element; `inOff`, `outOff` and the control offsets move the port
numbers (`up` adds them). -/
def movePorts (x : Span) (l : Load) (mine : Bool → Endpoint → Bool) (u : UnitRef) (renum : Bool → Endpoint → Nat) : Load :=
  let to_ := unitXY x l u
  { l with chans := amMap l.chans (fun _ c =>
      let c1 : Chan := if mine false c.src then
          { c with src := { c.src with unit := u, port := renum false c.src }
                   branches := c.branches.map (fun b => reroute x to_ (unitXY x l b.dst.unit) b) }
        else c
      { c1 with branches := c1.branches.map (fun b =>
          if mine true b.dst then
            { reroute x (unitXY x l c1.src.unit) to_ b with dst := { b.dst with unit := u, port := renum true b.dst } }
          else b) }) }

/-! Choosing a spare element (R348). -/

def spareFor (l : Load) (home : Nat) : Option (Nat × Nat) :=
  match l.spares.find? (fun p => decide (p.1 = home)) with
  | some p => some (l.spares.foldl (fun m q => if q.1 = home ∧ q.2 < m.2 then q else m) p)
  | none =>
    match l.spares with
    | [] => none
    | p :: ps => some (ps.foldl (fun m q => if q.1 < m.1 ∨ (q.1 = m.1 ∧ q.2 < m.2) then q else m) p)

/-- The load with an operator on one more, or one fewer, element. -/
def clonedLoad (s : State) (x : Span) (l : Load) (op : Nat) (o : OpState) (t : Nat × Nat) : Load :=
  let o1 := { o with elems := o.elems ++ [(t.1, t.2, 0)] }
  let p := o.elems.getD 0 (0, 0, 0)
  let l1 := { l with ops := amPut l.ops op o1, spares := l.spares.filter (fun q => decide (q ≠ t)) }
  let l2 := if 1 < o.elems.length then detach op l1 else toNodes s x l1 op o (.element p.1 p.2.1)
  attach x op o1 ((List.range o.loopLn.length).map (identToken o)) l2
def unclonedLoad (x : Span) (l : Load) (op : Nat) (o : OpState) (ts : List Token) : Load :=
  let o1 := { o with elems := o.elems.dropLast }
  let gone := o.elems.getLast?.map (fun p => (p.1, p.2.1))
  let l1 := detach op { l with ops := amPut l.ops op o1, spares := l.spares ++ gone.toList }
  if o1.elems.length = 1 then
    let p := o1.elems.getD 0 (0, 0, 0)
    fromNodes x l1 op o1 (.element p.1 p.2.1) ts
  else attach x op o1 ((List.range o.loopLn.length).map (identToken o)) l1

/-- The load with share 1 of an element moved to a spare one. -/
def unfoldedLoad (s : State) (x : Span) (l : Load) (rel el : Nat) (op : Nat) (o : OpState) (t : Nat × Nat) : Load :=
  match absOf x rel with
  | none => l
  | some cl =>
    let e := getEl s cl el
    let mine (input : Bool) (p : Endpoint) : Bool := decide (p.unit = .element rel el) && portOfShare e 1 input p.ctl p.port
    let renum (input : Bool) (p : Endpoint) : Nat :=
      p.port - e.foot.getD (if input then (if p.ctl then 4 else 2) else (if p.ctl then 5 else 3)) 0
    movePorts x { l with ops := amPut l.ops op { o with elems := [(t.1, t.2, 0)] }
                         spares := l.spares.filter (fun q => decide (q ≠ t)) } mine (.element t.1 t.2) renum
/-- The load with operator `b` moved onto the element of operator `a`. -/
def foldedLoad (x : Span) (l : Load) (a b : OpState) (opB : Nat) : Load :=
  let pa := a.elems.getD 0 (0, 0, 0)
  let pb := b.elems.getD 0 (0, 0, 0)
  let mine (_ : Bool) (p : Endpoint) : Bool := decide (p.unit = .element pb.1 pb.2.1)
  let renum (input : Bool) (p : Endpoint) : Nat :=
    p.port + a.foot.getD (if input then (if p.ctl then 4 else 2) else (if p.ctl then 5 else 3)) 0
  movePorts x { l with ops := amPut l.ops opB { b with elems := [(pa.1, pa.2.1, 1)] }, spares := l.spares ++ [(pb.1, pb.2.1)] }
    mine (.element pa.1 pa.2.1) renum

/-! Choosing a rewiring (R240, R251). -/

/-- A candidate: its score, operators, kind and new element. -/
structure Rewire where
  score : Nat × Nat
  op : Nat
  other : Nat
  kind : Nat
  target : Option (Nat × Nat)
  deriving DecidableEq, Repr

/-- The product of input occupancy and rate weight + 1, of one operator or the sum of two; RHINT sets the weight on every
element of its operator. -/
def scoreOf (s : State) (x : Span) (l : Load) (w op : Nat) (o : OpState) : Nat × Nat :=
  let f := inOcc s x l w op o
  (f.1 * ((opCtx0 s x o).weight + 1), f.2)
def fracAdd (a b : Nat × Nat) : Nat × Nat := (a.1 * b.2 + b.1 * a.2, a.2 * b.2)

/-- Nothing forbids a rewiring of the operator now: pins, hints (bit `h` of the placement hint), faults. -/
def mayRewire (s : State) (x : Span) (l : Load) (o : OpState) (h : Nat) : Bool :=
  decide (o.rewire = 0) && !o.pinned && !l.pinAll
  && o.elems.all (fun p => match absOf x p.1 with
      | none => false
      | some cl => (getEl s cl p.2.1).fault.isNone && (getEl s cl p.2.1).badPorts.isEmpty
          && !(placeCtx s x p).hint.testBit h)

/-- The load with every rewiring in progress as it will stand. -/
def planned (s : State) (x : Span) (l : Load) : Load :=
  l.ops.entries.foldl (fun m p =>
    let o := p.2
    match o.rewire, o.target, amGet l.ops o.partner with
    | 1, some t, _ => clonedLoad s x m p.1 o t
    | 2, _, _ => unclonedLoad x m p.1 o []
    | 3, _, some y => if p.1 < o.partner then foldedLoad x m o y o.partner else m
    | 4, some t, some _ =>
      let e := o.elems.getD 0 (0, 0, 0)
      if e.2.2 = 1 then unfoldedLoad s x m e.1 e.2.1 p.1 o t else m
    | _, _, _ => m) l

def cloneCands (s : State) (x : Span) (l : Load) (w home : Nat) : List Rewire :=
  l.ops.entries.filterMap (fun p =>
    let o := p.2
    if o.home.1 = home ∧ cpwCWN l ≤ o.cloneRun ∧ mayRewire s x l o 1 then
      match spareFor l home with
      | some t => if tracksOk x (clonedLoad s x (planned s x l) p.1 o t) then some ⟨scoreOf s x l w p.1 o, p.1, p.1, 1, some t⟩ else none
      | none => none
    else none)
def uncloneCands (s : State) (x : Span) (l : Load) (w home : Nat) : List Rewire :=
  l.ops.entries.filterMap (fun p =>
    let o := p.2
    if o.home.1 = home ∧ 2 ≤ o.elems.length ∧ cpwCWN l ≤ o.loRun ∧ mayRewire s x l o 1 then
      some ⟨scoreOf s x l w p.1 o, p.1, p.1, 2, none⟩
    else none)
/-- A Fold is decided by the Caldera of the home cluster of the lower-numbered operator of the pair, and an Unfold by that of the
operator whose run of windows is met: R240 names none for a pair (log 78). -/
def foldCands (s : State) (x : Span) (l : Load) (w home : Nat) : List Rewire :=
  l.ops.entries.flatMap (fun p => l.ops.entries.filterMap (fun q =>
    if p.1 < q.1 ∧ p.2.home.1 = home ∧ foldable s x p.2 ∧ foldable s x q.2 ∧ sameTile p.2 q.2
        ∧ cpwCWN l ≤ p.2.loRun ∧ cpwCWN l ≤ q.2.loRun ∧ mayRewire s x l p.2 0 ∧ mayRewire s x l q.2 0
        ∧ fitsFold p.2.foot q.2.foot (opElem s x p.2) (opElem s x q.2)
        ∧ tracksOk x (foldedLoad x (planned s x l) p.2 q.2 q.1) then
      some ⟨fracAdd (scoreOf s x l w p.1 p.2) (scoreOf s x l w q.1 q.2), p.1, q.1, 3, none⟩
    else none))
def unfoldCands (s : State) (x : Span) (l : Load) (w home : Nat) : List Rewire :=
  l.ops.entries.filterMap (fun p =>
    let o := p.2
    if o.home.1 = home ∧ cpwCWN l ≤ o.unRun ∧ mayRewire s x l o 0 then
      match foldPartner l p.1 o with
      | none => none
      | some q =>
        match amGet l.ops q with
        | none => none
        | some y =>
          let lead := o.elems.getD 0 (0, 0, 0)
          let m := if lead.2.2 = 1 then p.1 else q
          let mo := if lead.2.2 = 1 then o else y
          if !mayRewire s x l y 0 then none
          else match spareFor l mo.home.1 with
            | some t =>
              if tracksOk x (unfoldedLoad s x (planned s x l) lead.1 lead.2.1 m mo t) then some ⟨scoreOf s x l w p.1 o, p.1, q, 4, some t⟩ else none
            | none => none
    else none)

/-- The best candidate: the greatest score, then the lowest operator number or pair. -/
def bestRewire : List Rewire → Option Rewire
  | [] => none
  | c :: cs =>
    match bestRewire cs with
    | none => some c
    | some d => if fracLe d.score c.score then some c else some d

/-- The rewiring a Caldera starts at a window end. -/
def chooseRewire (s : State) (x : Span) (l : Load) (w home : Nat) : Option Rewire :=
  match bestRewire (cloneCands s x l w home) with
  | some c => some c
  | none =>
    match bestRewire (uncloneCands s x l w home) with
    | some c => some c
    | none =>
      match bestRewire (foldCands s x l w home) with
      | some c => some c
      | none => bestRewire (unfoldCands s x l w home)

/-- Step 1 of R242: the mark. Elements of an operator on one element stop; of clones, what stands behind the last group
popped goes back, and nothing is dealt behind it. -/
def stopElems (s : State) (x : Span) (o : OpState) (b : Bool) : State :=
  o.elems.foldl (fun s p => match absOf x p.1 with
    | none => s
    | some cl => modEl s cl p.2.1 (fun e => { e with rewiring := b })) s
def markOp (s : State) (sp op other kind : Nat) (t : Option (Nat × Nat)) : State :=
  match getSpan s sp with
  | none => s
  | some x =>
    match (getLoad s sp).bind (fun l => amGet l.ops op) with
    | none => s
    | some o =>
      let s1 := modOp s sp op (fun o => { o with rewire := kind, partner := other, target := t, cloneRun := 0, loRun := 0, unRun := 0 })
      if o.elems.length = 1 then stopElems s1 x o true else distRun (takeBack s1 sp op) sp op
/-- The target of a rewiring in progress is taken. -/
def startRewire (s : State) (sp : Nat) (c : Rewire) : State :=
  let s1 := markOp s sp c.op c.other c.kind c.target
  let s2 := if c.other ≠ c.op then markOp s1 sp c.other c.op c.kind c.target else s1
  match c.target with
  | some t => modLoad s2 sp (fun l => { l with spares := l.spares.filter (fun q => decide (q ≠ t)) })
  | none => s2

/-! The layout table (R249). -/

def tableEntry (s : State) (x : Span) (l : Load) (o : OpState) : List Byte :=
  let w0 := o.elems.length * 2 ^ 27 + o.cls * 2 ^ 24 + b2n (o.pinned || l.pinAll) * 2 ^ 23 + b2n (isFolded s x o) * 2 ^ 22
  let blkn := ceilDiv (o.dealt.foldl max 0) (max 1 o.blk)
  bytesOf 4 w0 ++ bytesOf 4 0 ++ bytesOf 4 blkn ++ bytesOf 4 0
  ++ (List.range 16).flatMap (fun j =>
    match o.elems[j]? with
    | some p => bytesOf 4 (p.1 * 2 ^ 20 + p.2.1 * 2 ^ 13 + p.2.2 * 2 ^ 12)
    | none => bytesOf 4 0)
def tableHead (l : Load) : List Byte :=
  bytesOf 4 l.layv ++ bytesOf 4 (l.ops.entries.length + b2n (decide (l.upd ≠ 0)) * 2 ^ 31) ++ bytesOf 8 0
def tableBytes (s : State) (x : Span) (l : Load) : List Byte := tableHead l ++ (amVals l.ops).flatMap (tableEntry s x l)

/-- Bytes of the table are written as engine accesses of the load, at system scope, so that a host reads them in the order in
which they are written (R250, log 77); where its pages are not mapped for writing nothing is written (log 42). -/
def writeTableBytes (s : State) (sp : Nat) (x : Span) (l : Load) (bs : List Byte) : State :=
  if !l.caldera then s
  else
    match hubWords s x.part (getCl s sp).core.ptbr l.asid 2 (bs.length / 4) l.ltb with
    | .ok pas => (List.range pas.length).foldl (fun s k => l2At s sp .system .done (pas.getD k 0) ((bs.drop (4 * k)).take 4)) s
    | _ => s
/-- The whole table is written. -/
def writeTable (s : State) (sp : Nat) : State :=
  match getSpan s sp with
  | none => s
  | some x =>
    match x.load with
    | none => s
    | some l => writeTableBytes s sp x l (tableBytes s x l)
/-- A rewiring's table writes begin: UPD reads 1, and LAYV the old version (R249, R250). -/
def beginTable (s : State) (sp : Nat) : State :=
  let s1 := modLoad s sp (fun l => { l with upd := l.upd + 1 })
  match getSpan s1 sp with
  | none => s1
  | some x =>
    match x.load with
    | none => s1
    | some l => writeTableBytes s1 sp x l (tableHead l)
/-- The picker grants operators whose rewiring has completed again. -/
def resumeOps (s : State) (sp : Nat) : State :=
  match getSpan s sp, getLoad s sp with
  | some x, some l => (amVals l.ops).foldl (fun s o => if o.rewire = 0 then stopElems s x o false else s) s
  | _, _ => s
/-- They end: the entries and the new version are written, LAYV advances with them by the rewirings completed, and the picker
resumes (R242). -/
def finishTable (s : State) (sp : Nat) : State :=
  if (getLoad s sp).any (fun l => decide (l.upd ≠ 0)) then
    resumeOps (writeTable (modLoad s sp (fun l => { l with layv := (l.layv + l.upd) % 2 ^ 32, upd := 0 })) sp) sp
  else s

/-! Completing a rewiring (R242 to R248, R346). -/

/-- Nothing of the operator is in progress: firings, queued memory firings, and for clones their channels. -/
def elemSettled (s : State) (sp : Nat) (x : Span) (p : Nat × Nat × Nat) : Bool :=
  match absOf x p.1 with
  | none => true
  | some cl =>
    let e := getEl s cl p.2.1
    !e.held && !e.walking && e.fault.isNone && e.badPorts.isEmpty && decide (e.busy ≤ spanNow s sp) && e.rq.all (fun q => decide (q.share ≠ p.2.2))
def chanEmpty (c : Chan) (loop : Branch → Bool) : Bool :=
  decide (c.out = []) && c.branches.all (fun b => loop b || decide (inBranch b = 0))
def clonesDrained (l : Load) (op : Nat) : Bool :=
  (amVals l.chans).all (fun c =>
    if c.src.unit = .dist op then chanEmpty c (fun _ => false)
    else if c.branches.any (fun b => decide (b.dst.unit = .merge op)) then chanEmpty c (fun b => decide (b.dst.unit = c.src.unit))
    else true)
def rewireReady (s : State) (sp : Nat) (x : Span) (l : Load) (op : Nat) (o : OpState) : Bool :=
  o.elems.all (elemSettled s sp x)
  && (decide (o.elems.length ≤ 1) || (clonesDrained l op && (distPorts l op).all (fun p => decide (o.dealt.getD p 0 = dealtMax o))))
  && (match amGet l.ops o.partner with
      | some y => y.elems.all (elemSettled s sp x)
      | none => true)

/-- The accumulator at the mark: the loop's first group (R346), or the carry the next block would have had. -/
def accTokens (s : State) (x : Span) (l : Load) (o : OpState) (lg : Nat) : List Token :=
  let p := o.elems.getD 0 (0, 0, 0)
  match loopAt s x l o (.element p.1 p.2.1) with
  | none => []
  | some (ch, k) =>
    match amGet l.chans ch, branchOf l (ch, k) with
    | some c, some b => (branchTokens s x b ++ c.out.map (·.tok)).take lg
    | _, _ => []
def laneList (ts : List Token) : List W32 := ts.flatMap (fun t => vec8List t.lanes)
def carryNow (o : OpState) : List W32 := if o.released % max 1 o.blk = 0 then o.carry else o.lastOut

/-- SQS of every template cleared, or set again from what the reorder nodes kept (R243). -/
def sqsOff (c : OpCtx) : OpCtx := { c with ht := vec4Of (fun i => setBit 30 (vec4Get c.ht i) false) 0 }
def sqsOn (k : List Bool) (c : OpCtx) : OpCtx := { c with ht := vec4Of (fun i => setBit 30 (vec4Get c.ht i) (k.getD i false)) 0 }

/-- A key record: its bytes and the full bits of its granules. -/
def copyRecord (s : State) (o : OpState) (b from_ to_ : Nat) : State :=
  if from_ = to_ then s
  else
    let a := o.keyBase + b * o.keySize
    let src := getTile s from_ o.keyTile
    let s1 := modTile s to_ o.keyTile (fun t => tileWrite t a (tileRead src a o.keySize))
    modTile s1 to_ o.keyTile (fun t =>
      ((List.range (o.keySize / 16 + 2)).map (a / 16 + ·)).foldl (fun t g =>
        if 16 * g < a + o.keySize ∧ a < 16 * g + 16 then setFull t g (granFull src g) else t) t)
/-- The cluster of the key record region that a clone in a cluster uses: the declared one in the home cluster, elsewhere its
own (R276, log 68). -/
def keyCluster (o : OpState) (rel : Nat) : Nat := if rel = o.home.1 then o.keyCl else rel
/-- Records of buckets whose owner changes move to the new owner's region (R244). -/
def moveRecords (s : State) (x : Span) (o : OpState) (old new : List (Nat × Nat × Nat)) : State :=
  if o.cls ≠ 1 ∨ o.keySize = 0 ∨ old = [] ∨ new = [] then s
  else
    (List.range 64).foldl (fun s b =>
      match absOf x (keyCluster o (old.getD (b % old.length) (0, 0, 0)).1),
        absOf x (keyCluster o (new.getD (b % new.length) (0, 0, 0)).1) with
      | some f, some t => copyRecord s o b f t
      | _, _ => s) s

/-- The windows behind the mark start anew. -/
def resetDeal (o : OpState) : OpState :=
  { o with dealt := [0, 0, 0, 0], firsts := [none, none, none, none], nexts := [(none, 0), (none, 0), (none, 0), (none, 0)], released := 0,
           loopCount := List.replicate 16 0, rewire := 0, target := none }

/-- An element takes what another holds. -/
def copyElem (s : State) (x : Span) (from_ to_ : Nat × Nat) (f : Elem → Elem) : State :=
  match absOf x from_.1, absOf x to_.1 with
  | some a, some b => modEl s b to_.2 (fun _ => f (getEl s a from_.2))
  | _, _ => s
def clearElem (s : State) (x : Span) (p : Nat × Nat) : State :=
  match absOf x p.1 with
  | some cl => modEl s cl p.2 (fun _ => elemReset)
  | none => s
def modPlace (s : State) (x : Span) (p : Nat × Nat × Nat) (f : Elem → Elem) : State :=
  match absOf x p.1 with
  | some cl => modEl s cl p.2.1 f
  | none => s

/-- Clone: one element more (R243 to R246). -/
def doClone (s : State) (sp : Nat) (x : Span) (l : Load) (op : Nat) (o : OpState) (t : Nat × Nat) : State :=
  let p0 := o.elems.getD 0 (0, 0, 0)
  let first := decide (o.elems.length = 1)
  let lg := opLG s x o
  let acc := if o.cls = 2 ∧ first then accTokens s x l o lg else []
  let loopCh := (loopAt s x l o (.element p0.1 p0.2.1)).bind (fun q => amGet l.chans q.1)
  let o1 := { o with
    carry := if first then laneList acc else carryNow o
    lastOut := if first then laneList acc else carryNow o
    loopLn := if first then acc.map (fun k => hdrLN k.hdr) else o.loopLn
    loopFmt := if first then acc.map (fun k => hdrFMT k.hdr) else o.loopFmt
    loopOut := if first then (loopCh.map (·.src.port)).getD 0 else o.loopOut
    sqs := if first then (List.range 4).map (fun i => bitAt 30 (vec4Get (placeCtx s x p0).ht i)) else o.sqs }
  let l1 := clonedLoad s x l op o1 t
  let l2 := { l1 with ops := amMod l1.ops op resetDeal }
  let s1 := modSpan s sp (fun y => { y with load := some l2 })
  let off (e : Elem) : Elem := { e with sh0 := sqsOff e.sh0, rewiring := false }
  let s2 := copyElem (modPlace s1 x p0 off) x (p0.1, p0.2.1) t off
  moveRecords s2 x o o.elems (o.elems ++ [(t.1, t.2, 0)])

/-- Unclone: one element fewer. -/
def doUnclone (s : State) (sp : Nat) (x : Span) (l : Load) (op : Nat) (o : OpState) : State :=
  let left := o.elems.dropLast
  let acc := carryNow o
  let ts := (List.range o.loopLn.length).map (fun r => loopToken o r (fun i => acc.getD (8 * r + i) 0#32))
  let l1 := unclonedLoad x l op { o with carry := acc, lastOut := acc } ts
  let l2 := { l1 with ops := amMod l1.ops op resetDeal }
  let s0 := moveRecords s x o o.elems left
  let s1 := modSpan s0 sp (fun y => { y with load := some l2 })
  let s2 := match o.elems.getLast? with
    | some g => clearElem s1 x (g.1, g.2.1)
    | none => s1
  if left.length = 1 then
    modPlace s2 x (left.getD 0 (0, 0, 0)) (fun e => { e with sh0 := sqsOn o.sqs e.sh0, rewiring := false })
  else s2

/-- Bits [16+n] and [n] of the attribute word follow the slots. -/
def attrOfSlots (src : Nat → Option (Elem × Nat)) : W32 :=
  BitVec.ofNat 32 ((List.range 16).foldl (fun a n =>
    match src n with
    | some (e, k) => a + b2n (bitAt k e.attr) * 2 ^ n + b2n (bitAt (16 + k) e.attr) * 2 ^ (16 + n)
    | none => a) 0)

/-- An element whose slots come from elsewhere. -/
def withSlots (src : Nat → Option (Elem × Nat)) (e : Elem) : Elem :=
  { e with
    slots := vec16Of (fun n => match src n with
      | some (g, k) => vec16Get g.slots k
      | none => 0#64) 0
    arms := vec16Of (fun n => match src n with
      | some (g, k) => vec16Get g.arms k
      | none => 0) 0
    attr := attrOfSlots src }

/-- The elements of a fold: share 0 keeps its registers, share 1's move into its window (R246, R248). -/
def foldElem (fa fb : List Nat) (a b : Elem) : Elem :=
  let sa := usedSlots a
  let sb := usedSlots b
  let nv := fa.getD 0 0
  let np := fa.getD 1 0
  let src (n : Nat) : Option (Elem × Nat) :=
    if n < sa.length then (sa[n]?).map (fun k => (a, k)) else (sb[n - sa.length]?).map (fun k => (b, k))
  let e := withSlots src a
  { e with
    sh1 := some b.sh0, split := sa.length, foot := fa
    regs := vec16Of (fun n => if nv ≤ n ∧ n < nv + fb.getD 0 0 then vec16Get b.regs (n - nv) else vec16Get a.regs n) 0
    preds := vec8Of (fun n => if np ≤ n ∧ n < np + fb.getD 1 0 then vec8Get b.preds (n - np) else vec8Get a.preds n) 0
    etR := BitVec.ofNat 16 ((List.range 16).foldl (fun m n =>
      m + b2n (if nv ≤ n ∧ n < nv + fb.getD 0 0 then bitAt (n - nv) b.etR else bitAt n a.etR) * 2 ^ n) 0)
    etP := BitVec.ofNat 8 ((List.range 8).foldl (fun m n =>
      m + b2n (if np ≤ n ∧ n < np + fb.getD 1 0 then bitAt (n - np) b.etP else bitAt n a.etP) * 2 ^ n) 0)
    fam := BitVec.ofNat 32 ((List.range 4).foldl (fun m p =>
      let ni := fa.getD 2 0
      m + (if ni ≤ p ∧ p < ni + fb.getD 2 0 then field (8 * (p - ni) + 7) (8 * (p - ni)) b.fam else field (8 * p + 7) (8 * p) a.fam) * 2 ^ (8 * p)) 0)
    kdp := vec4Of (fun p =>
      let nk := fa.getD 4 0
      if nk ≤ p ∧ p < nk + fb.getD 4 0 then vec4Get b.kdp (p - nk) else vec4Get a.kdp p) 0
    credit0 := 0, credit1 := 0, weight0 := 1, weight1 := 1, rewiring := false, walkFault := none }

/-- Share 1 alone, as it stands on its own element again. -/
def unfoldElem (e : Elem) : Elem :=
  let nv := e.foot.getD 0 0
  let np := e.foot.getD 1 0
  let ni := e.foot.getD 2 0
  let nk := e.foot.getD 4 0
  let src (n : Nat) : Option (Elem × Nat) := if n + e.split < 16 then some (e, n + e.split) else none
  let r := withSlots src elemReset
  { r with
    sh0 := e.sh1.getD e.sh0
    regs := vec16Of (fun n => vec16Get e.regs ((n + nv) % 16)) 0
    preds := vec8Of (fun n => vec8Get e.preds ((n + np) % 8)) 0
    etR := BitVec.ofNat 16 ((List.range 16).foldl (fun m n => m + b2n (bitAt ((n + nv) % 16) e.etR) * 2 ^ n) 0)
    etP := BitVec.ofNat 8 ((List.range 8).foldl (fun m n => m + b2n (bitAt ((n + np) % 8) e.etP) * 2 ^ n) 0)
    fam := BitVec.ofNat 32 ((List.range 4).foldl (fun m p =>
      let q := (p + ni) % 4
      m + field (8 * q + 7) (8 * q) e.fam * 2 ^ (8 * p)) 0)
    kdp := vec4Of (fun p => vec4Get e.kdp ((p + nk) % 4)) 0 }
/-- Share 0 alone again. -/
def unfoldRest (e : Elem) : Elem :=
  let src (n : Nat) : Option (Elem × Nat) := if n < e.split then some (e, n) else none
  { withSlots src e with sh1 := none, split := 16, foot := [], rewiring := false, credit0 := 0, credit1 := 0, weight0 := 1, weight1 := 1 }

def doFold (s : State) (sp : Nat) (x : Span) (l : Load) (opA opB : Nat) (a b : OpState) : State :=
  let pa := a.elems.getD 0 (0, 0, 0)
  let pb := b.elems.getD 0 (0, 0, 0)
  let l1 := foldedLoad x l a b opB
  let l2 := { l1 with ops := amMod (amMod l1.ops opA resetDeal) opB resetDeal }
  let s1 := modSpan s sp (fun y => { y with load := some l2 })
  clearElem (modPlace s1 x pa (fun e => foldElem a.foot b.foot e (opElem s x b))) x (pb.1, pb.2.1)

/-- Operator `opB` is share 1 and moves to the target. -/
def doUnfold (s : State) (sp : Nat) (x : Span) (l : Load) (opA opB : Nat) (b : OpState) (t : Nat × Nat) : State :=
  let p := b.elems.getD 0 (0, 0, 0)
  let l1 := unfoldedLoad s x l p.1 p.2.1 opB b t
  let l2 := { l1 with ops := amMod (amMod l1.ops opA resetDeal) opB resetDeal }
  let s1 := modSpan s sp (fun y => { y with load := some l2 })
  modPlace (copyElem s1 x (p.1, p.2.1) t unfoldElem) x p unfoldRest

/-- The divide and redirect of R242, by kind. -/
def completeRewire (s : State) (sp : Nat) (x : Span) (l : Load) (op : Nat) (o : OpState) : State :=
  match o.rewire, o.target, amGet l.ops o.partner with
  | 1, some t, _ => doClone s sp x l op o t
  | 2, _, _ => doUnclone s sp x l op o
  | 3, _, some y => if op < o.partner then doFold s sp x l op o.partner o y else doFold s sp x l o.partner op y o
  | 4, some t, some y =>
    if (o.elems.getD 0 (0, 0, 0)).2.2 = 1 then doUnfold s sp x l o.partner op o t else doUnfold s sp x l op o.partner y t
  | _, _, _ => s

/-- The elements of an operator, as it stands now, are not granted. -/
def holdOp (s : State) (sp op : Nat) : State :=
  match getSpan s sp, (getLoad s sp).bind (fun l => amGet l.ops op) with
  | some x, some o => stopElems s x o true
  | _, _ => s
/-- REWIRING_COMPLETE (R242). A rewiring whose operator's firings have finished divides state and redirects tokens; the
layout table is then updated, and once that is written, when the next cycle passes, LAYV advances and the picker resumes
(R249, R250). -/
def execRewiringComplete (sp op : Nat) (s : State) : Out :=
  match getSpan s sp with
  | none => .next s
  | some x =>
    match x.load with
    | none => .next s
    | some l =>
      match amGet l.ops op with
      | none => .next s
      | some o =>
        if o.rewire ≠ 0 && spanActive x && rewireReady s sp x l op o then
          let s1 := holdOp (holdOp (completeRewire s sp x l op o) sp op) sp o.partner
          let s2 := distRun (beginTable s1 sp) sp op
          .next (countBoth s2 ((absOf x o.home.1).getD sp) 0x7000 1)
        else .next s

/-! Stalls (R252, R253). -/

/-- The data and control inputs of a merging slot: an MRG, a two-input form or a JOIN. -/
def mergeInputs (e : Elem) (n : Nat) : List (Bool × Nat) :=
  let w0 := vec16Get e.slots n
  let op := slotOpOf w0
  let sh := shareOfSlot e n
  let w := if sh = 1 then renameSlot e.foot ((shapeOf op).getD .n) (slotOf w0) else slotOf w0
  let shp := (shapeOf op).getD .n
  if !w.valid then []
  else if op = 0xC6 then
    (onesOf 4 w.b.toNat).map (fun i => (false, i)) ++ (match operandOf w.a with
      | .k k => [(true, k)]
      | _ => [])
  else if op = 0xC8 then
    ((List.range 4).filter (fun i => bitAt i w.ir)).map (fun i => (false, i))
    ++ ((List.range 4).filter (fun i => bitAt (4 + i) w.ir)).map (fun i => (true, i))
  else if shp = .r ∨ shp = .rm then
    match portOf (some (operandOf w.a)), portOf (some (operandOf w.b)) with
    | some a, some b => if a ≠ b then [(false, a), (false, b)] else []
    | _, _ => []
  else []

/-- Whether a merging slot stood still this window: no pop, an input empty and another full throughout. -/
def stalled (l : Load) (rel el : Nat) (ins : List (Bool × Nat)) : Bool :=
  let bs := ins.filterMap (fun p => (findIn l ⟨.element rel el, p.2, p.1⟩).bind (branchOf l))
  decide (2 ≤ bs.length) && bs.all (fun b => decide (b.popped = 0)) && bs.any (·.emptyAll) && bs.any (·.fullAll)

/-- A branch's relief is extended by a region of 64 tokens: what it holds is laid out anew from the first, with its errors. -/
def extendArea (s : State) (x : Span) (sp ch br : Nat) (b : Branch) (r : Nat × Nat × Nat) : State :=
  let ts := (List.range b.rlen).filterMap (fun i => (areaPlace b (b.rhead + i)).bind (fun p =>
    (absOf x p.1.1).map (fun cl => (queueTok (getTile s cl p.1.2.1) p.1.2.2 p.2, queueBad (getTile s cl p.1.2.1) p.1.2.2 p.2))))
  let s1 := clearAreaFrom s x b 0
  let b1 := { b with area := b.area ++ [r], rhead := 0, rlen := 0 }
  let s2 := modBr s1 sp ch br (fun b => { b with area := b1.area, rhead := 0, rlen := 0 })
  let s3 := match absOf x r.1 with
    | none => s2
    | some cl => modTile s2 cl r.2.1 (emptyRegion r.2.2 192)
  (List.range ts.length).foldl (fun s i => areaPut s x sp ch br { b1 with rlen := i } (ts.getD i (tokenZero, false)).1 (ts.getD i (tokenZero, false)).2) s3

/-- The full inputs of a stalled slot are extended by 64 tokens each while RLIM and the span's tiles allow. -/
def relieve (s : State) (sp rel el cl : Nat) (ins : List (Bool × Nat)) : State :=
  ins.foldl (fun s p =>
    match getLoad s sp with
    | none => s
    | some l =>
      match findIn l ⟨.element rel el, p.2, p.1⟩ with
      | none => s
      | some (ch, br) =>
        match (branchOf l (ch, br)).filter (·.fullAll), (getSpan s sp).bind (fun x => (findRegion s x l).map (fun r => (x, r))) with
        | some b, some (x, r) =>
          if l.relief + 64 ≤ cpwRLIM l then
            countBoth (modLoad (extendArea s x sp ch br b r) sp (fun l => { l with relief := l.relief + 64 })) cl 0x7001 1
          else s
        | _, _ => s) s

/-- One merging slot at a window end. -/
def stallSlot (s : State) (sp rel el cl n : Nat) : State :=
  match getLoad s sp with
  | none => s
  | some l =>
    let ins := mergeInputs (getEl s cl el) n
    let key := (rel * 128 + el) * 16 + n
    if ins = [] then s
    else if !stalled l rel el ins then
      modLoad s sp (fun l => { l with stallRun := amDel l.stallRun key, stallLim := amDel l.stallLim key })
    else
      let run := amGetD l.stallRun key 0 + 1
      let s1 := modLoad s sp (fun l => { l with stallRun := amPut l.stallRun key run })
      let fault (s : State) : State :=
        if (getEl s cl el).fault.isNone then
          elemFault (modLoad s sp (fun l => { l with stallRun := amDel l.stallRun key, stallLim := amDel l.stallLim key })) cl el
            ⟨7, 0, 0, locWord rel el n 0 0⟩
        else s
      if run < 2 then s1
      else if !l.caldera then fault s1
      else if l.relief + 64 ≤ cpwRLIM l then relieve s1 sp rel el cl ins
      else
        let lim := amGetD l.stallLim key 0 + 1
        let s2 := modLoad s1 sp (fun l => { l with stallLim := amPut l.stallLim key lim })
        if 2 < lim then fault s2 else s2

/-- Every element of the load at a window end. -/
def stallAll (s : State) (sp : Nat) (x : Span) : State :=
  (List.range x.clusters.length).foldl (fun s rel =>
    match absOf x rel with
    | none => s
    | some cl =>
      (amKeys (getCl s cl).elems).foldl (fun s el => (List.range 16).foldl (fun s n => stallSlot s sp rel el cl n) s) s) s

/-! The window end (R239, R240, R247). -/

/-- The weights of the shares of every folded element: 1 + ⌊15 × input occupancy⌋. -/
def newWeights (s : State) (x : Span) (l : Load) (w : Nat) : State :=
  l.ops.entries.foldl (fun s p =>
    match p.2.elems.head? with
    | none => s
    | some q =>
      match absOf x q.1 with
      | none => s
      | some cl =>
        if (getEl s cl q.2.1).sh1.isNone then s
        else
          let f := inOcc s x l w p.1 p.2
          let k := 1 + 15 * f.1 / f.2
          modEl s cl q.2.1 (fun e => if q.2.2 = 1 then { e with weight1 := k } else { e with weight0 := k })) s

/-- The measurements start anew: the next window follows without gap. -/
def resetWindow (l : Load) : Load :=
  { l with
    winCycle := l.winCycle + winLen l
    chans := amMap l.chans (fun _ c => { c with
      winStart := c.count
      branches := c.branches.map (fun b => { b with occSum := 0, popped := 0, fullAll := true, emptyAll := true }) }) }

/-- Each Caldera of the span, in cluster order, starts at most one rewiring. -/
def startRewires (s : State) (sp : Nat) (x : Span) (w : Nat) : State :=
  (List.range x.clusters.length).foldl (fun s home =>
    match getLoad s sp with
    | none => s
    | some l =>
      match chooseRewire s x l w home with
      | some c => startRewire s sp c
      | none => s) s

/-- WINDOW_END (R240). At a window end of the load of the span that holds `cl`, the Calderas measure its channels, count
the windows in which conditions have held, relieve stalls, and start at most one rewiring each. No cycle passes beyond the
border until it has (log 66). -/
def execWindowEnd (cl : Nat) (s : State) : Out :=
  match spanAt s cl with
  | none => .next s
  | some (sp, x) =>
    match x.load with
    | none => .next s
    | some l =>
      let t := spanNow s sp
      if spanActive x && loadActive l && decide (l.winCycle + winLen l ≤ t) then
        let w := winLen l
        let s1 := if l.caldera then newWeights (modLoad s sp (fun l => countRuns s x l w)) x l w else s
        let s2 := if l.caldera then startRewires s1 sp x w else s1
        .next (modLoad (stallAll s2 sp x) sp resetWindow)
      else .next s

end Sys2Proof.Machine
end

