-- ==== Sys2Proof/Machine/Rate.lean ====
section
/-! DEFINITION. The rate limiter of a cluster's region (R190, R310, R428). -/

namespace Sys2Proof.Machine

open Sys2Proof

/-- The first cycle of the window that holds cycle `t`. -/
def winStartOf (l : Load) (t : Nat) : Nat := l.goCycle + (t - l.goCycle) / winLen l * winLen l

/-- A new window starts with the allowance untouched, at the setting made for it. -/
def rollLimiter (ws : Nat) (m : Limiter) : Limiter :=
  if m.win = ws then m else { m with limit := m.next.getD m.limit, next := none, used := 0, win := ws }

/-- The allowance: the setting, halved for each step of power limiting of the die, down to a sixteenth (R428). -/
def allowance (s : State) (cl : Nat) (m : Limiter) : Nat :=
  if m.limit = 0 then 0 else max 1 (m.limit / 2 ^ min 4 (amGetD s.hub.steps (dieOf cl) 0))

/-- Whether a charge is admitted now: no limit, covered, or more than the whole of an untouched allowance. -/
def admits (a cost : Nat) (m : Limiter) : Bool :=
  decide (a = 0) || decide (m.used + cost ≤ a) || (decide (m.used = 0) && decide (a < cost))

/-- A token of a port asks for its charge: it is admitted and charged, or it waits at its port. -/
def chargeLimiter (s : State) (sp cl port cost : Nat) : Bool × State :=
  match getLoad s sp with
  | none => (true, s)
  | some l =>
    let m := rollLimiter (winStartOf l (spanNow s sp)) (getCl s cl).limiter
    if admits (allowance s cl m) cost m then
      (true, modCl s cl (fun c => { c with limiter := { m with
        used := m.used + cost, held := if m.held.testBit port then m.held - 2 ^ port else m.held } }))
    else (false, modCl s cl (fun c => { c with limiter := { m with held := m.held ||| 2 ^ port } }))

/-- A new setting holds from the region's next window; with no load running, from the next GO. -/
def setLimiter (s : State) (sp cl n : Nat) : State :=
  match getLoad s sp with
  | some l =>
    if loadActive l then
      modCl s cl (fun c => { c with limiter := { rollLimiter (winStartOf l (spanNow s sp)) c.limiter with next := some n } })
    else modCl s cl (fun c => { c with limiter := { c.limiter with limit := n, next := none, used := 0 } })
  | none => modCl s cl (fun c => { c with limiter := { c.limiter with limit := n, next := none, used := 0 } })

/-- The setting granted under SY.RCAP. -/
def grantRate (cap n : Nat) : Nat := if cap = 0 then n else if n = 0 then cap else min n cap

end Sys2Proof.Machine
end

