-- ==== Sys2Proof/Machine/CoreFab.lean ====
section
/-! DEFINITION. Control core: fabric loads, layout, rate; and the end of a load (R30 to R32, R180, R181, R189, R190, R388). -/

namespace Sys2Proof.Machine

open Sys2Proof

/-- The span of the executing core, when this is its lead cluster's core. -/
def leadSpan (s : State) : Option (Nat × Span) := (spanAt s s.cur.cl).filter (fun p => decide (p.1 = s.cur.cl))

/-- The groups of a span's cores that wait in a PIN have waited for the load that ends here (R189). -/
def endPins (s : State) (x : Span) : State :=
  x.clusters.foldl (fun s c => (List.range 4).foldl (fun s g =>
    match (getGrp s c g).st with
    | .waiting (.pin _ _) => wakeGroup s c g
    | _ => s) s) s

/-- CFG on a span whose current load, if any, has passed its reconfiguration token. The image is read after the group's
earlier stores are performed (R175). -/
def cfgNow (s0 : State) (d a : BitVec 5) (sp : Nat) (x : Span) : State :=
  let s := releaseCur (modCore s0 s0.cur.cl (leaveCfg s0.cur.grp)) 3
  let g := curGrp s
  let r := loadImage s sp x s.cur.cl g.asid ((xget g a).toNat % 2 ^ 52) s.cur.grp
  match r.res with
  | .ok t => finish (readLines t s.cur.cl r.lines) 4 d (BitVec.ofNat 64 (x.lids + 1))
  | .miss va => waitWalk s0 va 1
  | .fault c va => takeTrap (readLines s s.cur.cl r.lines) ⟨c, 0, 0, va⟩
  | .reject c v => takeTrap (readLines s s.cur.cl r.lines) ⟨3, c, 0, v⟩

/-- CFG (R180). Control core waits for the previous load's reconfiguration token, then loads and checks a fabric load
image. Several waiting groups are served in issue order. -/
def execCfg (d : BitVec 5) (a : BitVec 5) (s : State) : Out :=
  match leadSpan s with
  | none => .next (illegal s 6)
  | some (sp, x) =>
    let mine := x.load.any (fun l => decide (l.phase = .ready) && decide (l.owner = s.cur.grp) && decide (l.ownerCl = 0))
    let free := x.load.all (fun l => decide (l.phase = .complete) && l.passed)
    let first := (waitersCfg (getCl s s.cur.cl).core).head?.all (fun g => decide (g = s.cur.grp))
    if mine then .next (illegal s 6)
    else if free && first then .next (cfgNow (modCore s s.cur.cl (joinCfg s.cur.grp)) d a sp x)
    else .next (modCur (modCore s s.cur.cl (joinCfg s.cur.grp)) (waitFor .cfg))

/-- The load starts: island registers, accumulators and scale caches are reset, heads are checked, the layout table is
written with LAYV 0 (R237, R249, R300, R307). -/
def startLoad (s : State) (sp : Nat) (x : Span) : State :=
  let t := spanNow s sp
  let s1 := x.clusters.foldl (fun s c => modIsland s c (fun _ => islandReset)) s
  let s2 := modLoad s1 sp (fun l => { l with phase := .running, goCycle := t, winCycle := t, wdogFrom := t, layv := 0 })
  let ends := ((getLoad s2 sp).map (fun l => (amVals l.chans).flatMap (fun c => c.branches.map (·.dst)))).getD []
  writeTable (ends.foldl (fun s e => if e.ctl then s else headCheck s sp e) s2) sp

/-- GO (R180, R181). Control core moves the Ready load to Running, as a release at span scope. -/
def execGo (s : State) : Out :=
  match leadSpan s with
  | none => .next (illegal s 6)
  | some (sp, x) =>
    if x.load.any (fun l => decide (l.phase = .ready)) then .next (skip (startLoad (releaseCur s 1) sp x) 4)
    else .next (illegal s 6)

/-- WAITL (R180, R233). Control core waits until the current load is Complete and reads the discarded count, as an acquire. -/
def execWaitl (d : BitVec 5) (s : State) : Out :=
  match (leadSpan s).bind (fun p => p.2.load) with
  | none => .next (illegal s 6)
  | some l =>
    if l.phase = .complete then .next (finish (acquireCur s 1) 4 d (BitVec.ofNat 64 l.discarded))
    else .next (modCur s (waitFor (.waitl d)))

/-- WAITL_NB (R180, R233). Control core tests without waiting whether the current load is Complete; where it is, this is an
acquire. -/
def execWaitlNb (d : BitVec 5) (s : State) : Out :=
  match (leadSpan s).bind (fun p => p.2.load) with
  | none => .next (illegal s 6)
  | some l => .next (finish (if l.phase = .complete then acquireCur s 1 else s) 4 d (BitVec.ofNat 64 (b2n (decide (l.phase = .complete)))))

/-! Layout (R189, R251). -/

/-- RDLAY (R189, R250). Control core reads LAYV of the current load, as an acquire at package scope. -/
def execRdlay (d : BitVec 5) (s : State) : Out :=
  .next (finish (acquireCur s 3) 4 d (BitVec.ofNat 64 (layvOf (curLoad s))))

/-- RDLAY_T (R189). Control core reads the layout table address of the current load. -/
def execRdlayT (d : BitVec 5) (s : State) : Out :=
  match curLoad s with
  | none => .next (illegal s 6)
  | some l => .next (finish s 4 d (BitVec.ofNat 64 (if l.caldera then l.ltb else 0)))

/-- A pin is set or removed on an operator, or on the whole load for all ones. -/
def setPin (b : Bool) (op : Nat) (l : Load) : Load :=
  if op = pinAllKey then { l with pinAll := b } else { l with ops := amMod l.ops op (fun o => { o with pinned := b }) }
/-- Whether a pin acts: the load is not Complete and has a Caldera block. -/
def pinActs (l : Load) : Bool := l.caldera && decide (l.phase ≠ .complete)

/-- The load's operators, for the check of a PIN's or UNPIN's number. -/
def pinTarget (op : Nat) (l : Load) : Bool := decide (op = pinAllKey) || (amGet l.ops op).isSome

/-- PIN (R189). Control core pins an operator or the load against rewiring after any in-progress rewiring. -/
def execPin (d : BitVec 5) (a : BitVec 5) (s : State) : Out :=
  let op := (xget (curGrp s) a).toNat
  match spanAt s s.cur.cl, curLoad s with
  | some (sp, _), some l =>
    if !pinTarget op l then .next (illegal s 11)
    else if !pinActs l then .next (finish s 4 d (BitVec.ofNat 64 (layvOf (some l))))
    else
      let s1 := modLoad s sp (setPin true op)
      if pinBusy op l then .next (modCur s1 (waitFor (.pin op d)))
      else .next (finish s1 4 d (BitVec.ofNat 64 l.layv))
  | _, _ => .next (illegal s 6)

/-- UNPIN (R189). Control core removes a pin. -/
def execUnpin (a : BitVec 5) (s : State) : Out :=
  let op := (xget (curGrp s) a).toNat
  match spanAt s s.cur.cl, curLoad s with
  | some (sp, _), some l =>
    if !pinTarget op l then .next (illegal s 11)
    else if !pinActs l then .next (skip s 4)
    else .next (skip (modLoad s sp (setPin false op)) 4)
  | _, _ => .next (illegal s 6)

/-- RATE (R190). Control core sets a region's rate limiter allowance. R190 gives no subcode for xb[63:32]: it is 11, as of the
other operand values that a fabric instruction refuses (log 82). -/
def execRate (d : BitVec 5) (a : BitVec 5) (b : BitVec 5) (s : State) : Out :=
  let g := curGrp s
  let v := (xget g b).toNat
  match spanAt s s.cur.cl with
  | none => .next (illegal s 11)
  | some (sp, x) =>
    match absOf x (xget g a).toNat with
    | none => .next (illegal s 11)
    | some cl =>
      if 2 ^ 32 ≤ v then .next (illegal s 11)
      else
        let n := grantRate (getCl s s.cur.cl).core.rcap.toNat v
        .next (finish (setLimiter s sp cl n) 4 d (BitVec.ofNat 64 n))

/-! The end of a load (R30 to R32, R280, R388). -/

/-- Whether a cluster has nothing in progress for the load: an access that has been performed may still await room for its
answer. -/
def clusterIdle (c : Cluster) : Bool :=
  (amVals c.elems).all (fun e => e.rq.all (·.done) && !e.held && !e.walking)
  && (amVals c.gens).all (fun g => g.job.isNone && decide (g.pend = 0))
  && (amVals c.ports).all (fun p => decide (p.q = []))
  && decide (c.island.ops = [])
  && (vec8List c.gctx).all (fun k => k.run.isNone)

/-- A Geyser request that was issued under a load and has not ended (R31). -/
def boundColl (x : Span) (l : Load) (c : Coll) : Bool := decide (c.key = x.key ∧ c.lid = l.lid) && !c.ended
/-- Every element memory firing and every engine request of the load has been performed, writes of the layout table among
them, and the events of its streams stand in their queues (R400). -/
def loadIdle (s : State) (x : Span) (l : Load) : Bool :=
  x.clusters.all (fun c => clusterIdle (getCl s c) && decide ((getCl s c).core.held = [])) && decide (l.mcasts.entries = [])
  && decide (l.upd = 0)
  && !(amVals s.hub.colls).any (boundColl x l)

/-- The tokens held in a load's channels: in output buffers once, in branches once for each (R25, R32). -/
def heldTokens (l : Load) : Nat :=
  (amVals l.chans).foldl (fun n c => c.branches.foldl (fun n b => n + inBranch b) (n + c.out.length)) 0

/-- The granules of the FIFO queues of a tile are left empty. -/
def fifoGranules (d : W64) : List Nat := if agMode d = 1 then (List.range (agSIZE d + 1)).map (agBASE d + ·) else []
/-- The relief regions of a load in a tile are left empty. -/
def emptyAreas (as : List (Nat × Nat × Nat)) (rel t : Nat) (y : Tile) : Tile :=
  as.foldl (fun y r => if r.1 = rel ∧ r.2.1 = t then emptyRegion r.2.2 192 y else y) y
/-- A word of a tile takes data; a tagged token leaves an error in its granule. -/
def putData (tag : Bool) (a : Nat) (w : W32) (y : Tile) : Tile :=
  let y1 := tilePutWord y a w
  if tag then { y1 with bad := amPutD y1.bad (a / 16) true false } else y1
/-- Words that a generator holds are written to its tile. -/
def putHeld (h : List Held) (y : Tile) : Tile := h.foldl (fun y x => putData x.bad x.key x.word y) y
/-- A cluster's units after the load: generators in mode 0, tags disarmed, ports and island without a request; the answers that
had no room are discarded. -/
def clusterDone (c : Cluster) : Cluster :=
  { c with
    tiles := amMap c.tiles (fun t y =>
      setFulls ((List.range 4).foldl (fun y a => putHeld (amGetD c.gens (4 * t + a) genReset).hold y) { y with armed := amEmpty }) false
        ((List.range 4).flatMap (fun a => fifoGranules (amGetD c.gens (4 * t + a) genReset).desc)))
    elems := amMap c.elems (fun _ e => { e with rq := [], rewiring := false })
    gens := amEmpty
    ports := amEmpty
    island := { c.island with fault := none }
    limiter := { c.limiter with held := 0 } }

/-- The tile space that a load's relief takes (R252). -/
def loadAreas (l : Load) : List (Nat × Nat × Nat) :=
  (amVals l.chans).flatMap (fun c => c.branches.flatMap (·.area)) ++ (amVals l.ops).flatMap (·.areas)
/-- The channels of a Complete load are empty; its pins are gone, and a rewiring that has not completed ends with it. -/
def emptyChan (c : Chan) : Chan :=
  { c with out := [], branches := c.branches.map (fun b => { b with
      flight := [], queue := b.queue.map (fun q => { q with len := 0 }), relief := [], area := [], rhead := 0, rlen := 0,
      hold := [], buf := [], spots := [], replay := [] }) }
def completeLoad (l : Load) : Load :=
  { l with phase := .complete, passed := true, discarded := heldTokens l, chans := amMap l.chans (fun _ c => emptyChan c),
           pinAll := false, ops := amMap l.ops (fun _ o => { o with pinned := false, areas := [], rewire := 0, target := none }), relief := 0 }

/-- LOAD_COMPLETE (R30). A Draining load reaches Complete once every access is performed, discarding channel tokens; its
reconfiguration token then passes, and SY.PEND[4] of the lead core is set (R193). A group that waits in a PIN has waited long
enough (R189). -/
def execLoadComplete (sp : Nat) (s : State) : Out :=
  match getSpan s sp with
  | none => .next s
  | some x =>
    match x.load with
    | none => .next s
    | some l =>
      if spanActive x && decide (l.phase = .draining) && loadIdle s x l then
        let as := loadAreas l
        let s1 := x.clusters.foldl (fun s c => modCl s c (fun k =>
          let k1 := clusterDone k
          { k1 with tiles := amMap k1.tiles (emptyAreas as (relOf x c)) })) s
        .next (endPins (setPend (modLoad s1 sp completeLoad) sp 4) x)
      else .next s

/-- WATCHDOG (R388). A load Running longer than SY.WDOG cycles raises a watchdog event, once until it is next restored. -/
def execWatchdog (sp : Nat) (s : State) : Out :=
  match getSpan s sp with
  | none => .next s
  | some x =>
    match x.load with
    | none => .next s
    | some l =>
      let w := (getCl s sp).core.wdog.toNat
      if spanActive x && decide (l.phase = .running) && !l.wdogDone && decide (w ≠ 0) && decide (l.wdogFrom + w < spanNow s sp) then
        .next (postEvent (modLoad s sp (fun l => { l with wdogDone := true })) sp ⟨0x0B, 0, 0, 0⟩)
      else .next s

end Sys2Proof.Machine
end

