-- ==== Sys2Proof/Machine/ElemMem.lean ====
section
/-! DEFINITION. Element memory firings, 0xA0 to 0xAD: issue, performance, the response queue (R133 to R146). -/

namespace Sys2Proof.Machine

open Sys2Proof

/-! The binding (R133, R134). -/

def mabSP (c : OpCtx) : Bool := bitAt 63 c.mab
def mabMT (c : OpCtx) : Nat := field 62 58 c.mab
def mabBase (c : OpCtx) : Nat := field 51 0 c.mab
/-- The physical control output of completion tokens, where CE = 1 (R133, R248). -/
def mabCY (v : Env) : Option Nat :=
  if bitAt 57 v.c.mab then
    some (if v.share = 1 then (field 56 55 v.c.mab + v.e.foot.getD 5 0) % 4 else field 56 55 v.c.mab)
  else none

/-- Addr(x) (R134): a byte of the tile MT, as MT times 65,536 plus its offset, or a virtual byte. -/
def memAddr (c : OpCtx) (x : W32) : Nat :=
  if mabSP c then mabMT c * 65536 + (mabBase c % 65536 + x.toNat) % 65536 / 4 * 4
  else (mabBase c + x.toNat) % 2 ^ 52 / 4 * 4

/-- The granule of an access: of a tile, or 16 bytes of memory (R293). -/
def accGran (a : LaneAcc) : Bool × Nat := (a.sp, a.addr / 16)

def memWrites (op : MemOp) : Bool :=
  match op with
  | .load | .loadFe | .loadFeClr => false
  | _ => true
/-- Whether a store or load form reads the word, so that an error in it tags the firing. -/
def accReads (op : MemOp) : Bool :=
  match op with
  | .store | .storeFull => false
  | _ => true

def isFe (op : MemOp) : Bool :=
  match op with
  | .loadFe | .loadFeClr => true
  | _ => false
/-- On the virtual space ld.fe acts as ld and st.full as st (R140). -/
def virtualOp (op : MemOp) : MemOp :=
  match op with
  | .loadFe | .loadFeClr => .load
  | .storeFull => .store
  | o => o

/-! Translation of the guarded lanes (R145). -/

/-- The outcome of translating the lanes in ascending order. -/
inductive LaneTrans where
  | ok (accs : List LaneAcc)
  | miss (va : Nat)
  | fault (lane cls va : Nat)
  deriving DecidableEq, Repr

/-- One lane: the cluster's cache, or the fault that the element's last walk ended in. -/
def elemTranslate (s : State) (e : Elem) (cl asid va need : Nat) : Trans :=
  match translate s cl asid va need with
  | .miss =>
    match e.walkFault with
    | some (a, c) => if a = va then .fault c else .miss
    | none => .miss
  | t => t

def transLanes (s : State) (e : Elem) (cl asid need : Nat) : List LaneAcc → LaneTrans
  | [] => .ok []
  | a :: l =>
    match elemTranslate s e cl asid a.addr need with
    | .miss => .miss a.addr
    | .fault c => .fault a.lane c a.addr
    | .hit pa =>
      match transLanes s e cl asid need l with
      | .ok r => .ok ({ a with addr := pa, via := viaOf s cl 3 asid a.addr } :: r)
      | t => t

/-- The lanes a firing accesses, before translation. -/
def memAccs (v : Env) (off data cmp : Nat → W32) : List LaneAcc :=
  (guarded v).map (fun l => ⟨l, mabSP v.c, memAddr v.c (off l), data l, cmp l, ⟨3, 0, 0, 0, false⟩⟩)

/-! Issue (R135 to R138). -/

/-- Control ports that a memory firing pops: those it names and those of IR[7:4] (R137). -/
def memPopsK (v : Env) : List Nat := (popsK v ++ (List.range 4).filter (fun i => bitAt (4 + i) v.w.ir)).dedup

/-- The entry of a firing: `v` as it stands after a first-fault truncation. -/
def rqOf (v : Env) (op : MemOp) (trunc : Bool) (accs : List LaneAcc) : RqEntry :=
  let held := decide (v.w.d.toNat < 16)
  let fill := (List.range (8 * v.lg)).map (fun l => if v.c.mz then 0#32 else maskSource v l)
  let hdrs := match destOf v.w.d with
    | .o n => (List.range v.lg).map (fun j => header v (some (hdrFMT (template v n))) v.vl v.lg j)
    | _ => []
  { held := held, slotNo := v.slotNo, share := v.share, op := op, dest := v.w.d.toNat, vl := v.vl, lg := v.lg,
    trunc := trunc, mz := v.c.mz, fill := fill, hdrs := hdrs, sqs := stampsSeq v (outNo v), tagged := readsTagged v,
    cmpl := mabCY v, accs := accs, pkts := [], done := !held && decide (accs = []), results := [], swapped := [],
    sink := readsTagged v && memWrites op, poison := false }

/-- What a queued firing changes at issue: pops, PW modes 10 and 11, and vl after a truncation. -/
def issueEffect (v : Env) (lg : Nat) : Effect :=
  { baseEffect v lg with
    preds := if v.w.pw.toNat % 4 = 1 then v.e.preds else predWrite v (fun _ => false)
    wroteP := if v.w.pw.toNat % 4 = 1 then [] else predWritten v
    popK := memPopsK v }

/-- The access is issued: a held firing waits for its answer, a queued one completes here. -/
def memBegin (s : State) (v : Env) (op : MemOp) (trunc : Bool) (accs : List LaneAcc) : State :=
  let en := rqOf v op trunc accs
  if en.held then
    modEl s v.cl v.el (fun e =>
      { chargeCredits v.share v.lg (addCredits e) with rq := e.rq ++ [en], held := true, busy := v.t + v.lg, walkFault := none })
  else
    modEl (applyEffect s v (issueEffect v v.lg)) v.cl v.el (fun e => { e with rq := e.rq ++ [en] })

/-- `v` with vl ← f and the first-fault flag set (R141). -/
def truncEnv (v : Env) (f : Nat) : Env := { v with vl := f, c := { v.c with vl := f, ffault := true } }

/-- A memory firing of an eligible slot: all guarded lanes are translated and checked first (R145). -/
def memIssue (s : State) (v : Env) (op : MemOp) (first : Bool) (off data cmp : Nat → W32) : State :=
  let accs := memAccs v off data cmp
  if mabSP v.c then memBegin s v op false accs
  else
    let asid := ((getLoad s v.sp).map (·.asid)).getD 0
    let need := if !memWrites op then 1 else if accReads op then 3 else 2
    match transLanes s v.e v.cl asid need accs with
    | .ok l => memBegin s v (virtualOp op) false l
    | .miss va =>
      modEl (startWalk s v.cl asid va need (.element v.el)) v.cl v.el (fun e => { e with walking := true })
    | .fault lane c va =>
      if first && decide (0 < lane) then
        match transLanes s v.e v.cl asid need (accs.filter (fun a => decide (a.lane < lane))) with
        | .ok l => memBegin s (truncEnv v lane) (virtualOp op) true l
        | _ => s
      else elemFault (modEl s v.cl v.el (fun e => { e with walkFault := none, faultSlot := v.slotNo })) v.cl v.el ⟨c, 0, 0, va⟩

/-- The slot fires as a memory firing when it is eligible. -/
def memFire (s : State) (op : Nat) (w : Slot) (m : Env → MemOp) (first : Bool)
    (off data cmp : Env → Nat → W32) : Out :=
  match fireEnv s op w with
  | none => .next s
  | some v => .next (memIssue s v (m v) first (off v) (data v) (cmp v))

/-- Offsets and data of the forms (R139, R142, R143). -/
def unitOff (v : Env) (l : Nat) : W32 := laneA v 0 + laneB v 0 + BitVec.ofNat 32 (4 * l)
def storeOff (v : Env) (l : Nat) : W32 := laneA v 0 + BitVec.ofNat 32 (4 * l)
def gathOff (v : Env) (l : Nat) : W32 := laneA v l + laneB v l
def noData (_v : Env) (_l : Nat) : W32 := 0#32

/-! Performing accesses (R140, R142 to R144). -/

/-- The new word and the old word returned, for a word that reads `old`. -/
def accNew (op : MemOp) (old : W32) (a : LaneAcc) : Option W32 :=
  match op with
  | .load | .loadFe | .loadFeClr => none
  | .store | .storeFull => some a.data
  | .amoAdd => some (old + a.data)
  | .amoMin => some (if ltS a.data old then a.data else old)
  | .amoMax => some (if ltS old a.data then a.data else old)
  | .amoSwap => some a.data
  | .amoCas => some (if old = a.cmp then a.data else old)
  | .amoAddF m => some (toF32 (RMode.ofCode m) (exAdd (RMode.ofCode m) (f32 old) (f32 a.data)))

def accRead (s : State) (cl : Nat) (a : LaneAcc) : W32 :=
  if a.sp then tileWord (getTile s cl (a.addr / 65536)) (a.addr % 65536)
  else BitVec.ofNat 32 (readPAn s a.addr 4)
def accWrite (s : State) (cl : Nat) (a : LaneAcc) (x : W32) : State :=
  if a.sp then modTile s cl (a.addr / 65536) (fun t => tilePutWord t (a.addr % 65536) x)
  else l2Write s cl a.addr (bytesOf 4 x.toNat)
def accBad (s : State) (cl : Nat) (a : LaneAcc) : Bool :=
  if a.sp then granBad (getTile s cl (a.addr / 65536)) (a.addr % 65536 / 16) else paBad s a.addr 4
/-- A word that the firing reads with an uncorrectable error tags it, and makes a firing that writes a sink (R384). -/
def tagBad (s : State) (cl : Nat) (e : RqEntry) (a : LaneAcc) : RqEntry :=
  let bad := accReads e.op && accBad s cl a
  { e with poison := e.poison || bad, sink := e.sink || (bad && memWrites e.op) }
/-- One lane's access, its old value recorded; a sink writes no byte (R384), and its compare succeeds where it would have
without the tag (log 35). -/
def performLane (cl : Nat) (p : State × RqEntry) (a : LaneAcc) : State × RqEntry :=
  let e := p.2
  let s1 := if a.sp || !accReads e.op then p.1 else if memWrites e.op then l2Own p.1 cl a.addr 4 .package else l2Read p.1 cl a.addr
  let old := accRead s1 cl a
  let e1 := tagBad s1 cl e a
  let s2 := match accNew e.op old a with
    | some x => if e1.sink then s1 else accWrite s1 cl a x
    | none => s1
  (s2, { e1 with
    results := e1.results ++ [(a.lane, old)]
    swapped := if e.op = .amoCas ∧ old = a.cmp then e1.swapped ++ [a.lane] else e1.swapped })

/-- Full/empty effects on a tile granule, and the end of an error that a whole write overwrote. -/
def performGran (s : State) (cl : Nat) (e : RqEntry) (g : Bool × Nat) (n : Nat) : State :=
  if !g.1 || e.sink then s
  else modTile s cl (g.2 / 4096) (fun t =>
    let t1 := match e.op with
      | .storeFull => setFull t (g.2 % 4096) true
      | .loadFeClr => setFull t (g.2 % 4096) false
      | _ => t
    if memWrites e.op && !accReads e.op && decide (n = 4) then
      { t1 with bad := amDel t1.bad (g.2 % 4096) } else t1)

/-- The answer of an access outside the scratchpad sets out through the tree network, with the next age (R29). -/
def sendAnswer (s : State) (e : RqEntry) (g : Bool × Nat) (lane : Nat) : State × RqEntry :=
  if g.1 then (s, e) else (arrive s, { e with pkts := e.pkts ++ [⟨lane, s.serial, false⟩] })
/-- All lanes of one granule, ascending, as one access (R144). Errors in any word still to be read tag the firing before it
writes a byte (R384). -/
def performGranule (s : State) (cl : Nat) (e : RqEntry) (g : Bool × Nat) : State × RqEntry :=
  let mine := e.accs.filter (fun a => decide (accGran a = g))
  let e0 := e.accs.foldl (tagBad s cl) e
  let r := mine.foldl (performLane cl) (s, e0)
  sendAnswer (performGran r.1 cl r.2 g (mine.map (·.addr)).dedup.length)
    { r.2 with accs := e.accs.filter (fun a => decide (accGran a ≠ g)) } g ((mine.map (·.lane)).headD 0)

/-- No older entry of the element still has an access to the granule (R144, R293). -/
def granFree (rq : List RqEntry) (idx : Nat) (g : Bool × Nat) : Bool :=
  (rq.take idx).all (fun e => e.accs.all (fun a => decide (accGran a ≠ g)))

/-- The results of a firing by lane. -/
def rqResult (e : RqEntry) (l : Nat) : Option W32 := (e.results.find? (fun p => decide (p.1 = l))).map Prod.snd

/-- What a held firing changes when its answer arrives: pops, register and predicate writes (R135). The element fires again
in a later cycle (R35). -/
def answerEffect (v : Env) (e : RqEntry) : Effect :=
  let res (l : Nat) : Option W32 := if guardL v l then some ((rqResult e l).getD 0#32) else none
  let bits (l : Nat) : Bool := if e.op = .amoCas then decide (l ∈ e.swapped) else bitAt 0 ((res l).getD 0#32)
  { laneEffect v (max v.e.busy (v.t + 1) - v.t) v.vl v.lg (fun _ => 0#32) res with
    preds := predWrite v bits, popK := memPopsK v, tag := e.tagged || e.poison, granted := false }

/-- The answer of a held firing: the element may fire again (R135, R145); a sink of a held atomic raises its event here
(R384). -/
def heldAnswer (s0 : State) (cl el idx : Nat) (e : RqEntry) : State :=
  let w := vec16Get (getEl s0 cl el).slots e.slotNo
  let s := { s0 with cur := { s0.cur with cl := cl, el := el, slot := e.slotNo } }
  match envAt s (slotOpOf w) (slotOf w) with
  | none => s
  | some (v0, _, _) =>
    let v := if e.trunc then truncEnv v0 e.vl else v0
    let s1 := applyEffect s v (answerEffect v e)
    let s2 := modEl s1 cl el (fun x =>
      { chargeCredits e.share (v.t + 1 - v0.e.busy) x with
        held := false, rq := x.rq.modify idx (fun y => { y with done := true }) })
    if e.sink || (e.poison && !memWrites e.op) then elemFault s2 cl el ⟨9, 0, 0, slotLoc v⟩ else s2

def putRq (s : State) (cl el idx : Nat) (e : RqEntry) : State :=
  modEl s cl el (fun x => { x with rq := x.rq.modify idx (fun _ => e) })

/-- An entry whose accesses are all performed and answered is done; a held one completes its firing. -/
def rqDone (s : State) (cl el idx : Nat) (e : RqEntry) : State :=
  if e.accs ≠ [] ∨ e.pkts ≠ [] then putRq s cl el idx e
  else if e.held then heldAnswer (putRq s cl el idx e) cl el idx e
  else putRq s cl el idx { e with done := true }

/-! The tree network (R22, R29, R368). -/

/-- Packets of an entry in flight, and those that its receiving port holds. -/
def inFlight (e : RqEntry) : List Packet := e.pkts.filter (fun p => !p.inBuf)
def portHolds (s : State) (cl : Nat) : Nat :=
  (amVals (getCl s cl).elems).foldl (fun n e => e.rq.foldl (fun n q => n + (q.pkts.filter (·.inBuf)).length) n) 0
/-- An older packet is in the network. -/
def olderInFlight (s : State) (age : Nat) : Bool :=
  s.net.any (fun p => decide (p.age < age)) || (amVals s.clusters).any (fun c => (amVals c.elems).any (fun e => e.rq.any (fun q =>
    (inFlight q).any (fun p => decide (p.age < age)))))

/-- A packet comes to the receiving port of its cluster. An older packet that contends for the port wins, and a full share of
16 entries refuses it: it is deflected, which the die counts (R420), keeps its age and tries again. The share is that of the
one partition whose span holds the cluster. -/
def packetArrives (s : State) (cl el idx : Nat) (e : RqEntry) (p : Packet) : State :=
  let f := takeFree s
  let lost := olderInFlight s p.age && Config.contends f.1
  if lost || decide (16 ≤ portHolds s cl) then countBoth f.2 cl 0x4002 1
  else putRq f.2 cl el idx { e with pkts := e.pkts.map (fun q => if q = p then { p with inBuf := true } else q) }

/-- MEMORY_ANSWER (R29, R135, R144). For response-queue entry `idx`, the access to the granule of lane `lane` moves on: it is
performed, once no older access of the element overlaps it; outside the scratchpad its answer then comes to the cluster's
port, and the element takes it out. With the last one the answer of a held firing arrives. A firing with no guarded lane
answers without an access. -/
def execMemoryAnswer (cl el idx lane : Nat) (s : State) : Out :=
  let rq := (getEl s cl el).rq
  match rq[idx]? with
  | none => .next s
  | some e =>
    if e.done || (isFe e.op && e.accs ≠ []) then .next s
    else if e.accs = [] ∧ e.pkts = [] then .next (rqDone s cl el idx e)
    else
      match e.accs.find? (fun a => decide (a.lane = lane)), e.pkts.find? (fun p => decide (p.lane = lane)) with
      | some a, _ =>
        if granFree rq idx (accGran a) then
          let r := performGranule s cl e (accGran a)
          .next (rqDone r.1 cl el idx r.2)
        else .next s
      | none, some p =>
        .next (if p.inBuf then rqDone s cl el idx { e with pkts := e.pkts.erase p } else packetArrives s cl el idx e p)
      | none, none => .next s

/-- FE_WAIT_END (R140). A waiting full/empty read proceeds once every granule it touches is full, one access per
granule, each clearing its bit for ld.fe.clr. A halted element's waits go on after the restore (R146). -/
def execFeWaitEnd (cl el idx : Nat) (s : State) : Out :=
  let rq := (getEl s cl el).rq
  match rq[idx]? with
  | none => .next s
  | some e =>
    let gs := (e.accs.map accGran).dedup
    if e.done || !isFe e.op || decide (gs = []) || !(spanAt s cl).all (fun p => spanActive p.2) then .next s
    else if gs.all (fun g => granFree rq idx g && granFull (getTile s cl (g.2 / 4096)) (g.2 % 4096)) then
      let r := gs.foldl (fun p g => performGranule p.1 cl p.2 g) (s, e)
      .next (rqDone r.1 cl el idx r.2)
    else .next s

/-! Leaving the queue (R135, R136). -/

/-- The channel at an output of an element. -/
def outAt (s : State) (sp rel el n : Nat) (ctl : Bool) : Option (Nat × Chan) :=
  (getLoad s sp).bind (fun l => outChan l rel el n ctl)

/-- Whether the front entry can leave: its output has room for its group, and y(CY) for its completion. -/
def leaveRoom (s : State) (x : Span) (sp rel el : Nat) (e : RqEntry) : Bool :=
  let d := destOf (BitVec.ofNat 5 e.dest)
  (match d with
    | .o n =>
      match outAt s sp rel el n false with
      | some (_, c) => outSpace s x c e.lg
      | none => true
    | .y n =>
      match outAt s sp rel el n true with
      | some (_, c) => ctlSpace s x c (if e.cmpl = some n then 2 else 1)
      | none => true
    | _ => true)
  && (match e.cmpl with
    | some y =>
      match outAt s sp rel el y true with
      | some (_, c) => ctlSpace s x c 1
      | none => true
    | none => true)

/-- The payload an entry emits. -/
def rqPay (e : RqEntry) (l : Nat) : W32 := if l < e.vl then (rqResult e l).getD (e.fill.getD l 0#32) else 0#32

/-- Emission on a channel of an element's load. -/
def emitFrom (s : State) (sp rel el n : Nat) (ctl stamp : Bool) (ts : List Token) : State :=
  match outAt s sp rel el n ctl with
  | some (ch, _) => modChan s sp ch (emitAll (spanNow s sp) stamp ts)
  | none => s

/-- RESPONSE_QUEUE_LEAVE (R135, R136, R384). The front entry leaves: its answer and its completion token are
emitted, and the sink of a queued tagged firing raises its event. A fault that pends at the element stops its slots, not its
response queue; but a queued sink waits, since an element has at most one event pending (R198, log 63). -/
def execResponseQueueLeave (cl el : Nat) (s : State) : Out :=
  match spanAt s cl, (getEl s cl el).rq with
  | some (sp, x), e :: rest =>
    let rel := relOf x cl
    if e.done && spanActive x && leaveRoom s x sp rel el e && (!e.sink || e.held || (getEl s cl el).fault.isNone) then
      let s1 := modEl s cl el (fun y => { y with rq := rest, rqLeft := countAt (spanNow s sp) 1 y.rqLeft })
      let tag := e.tagged || e.poison
      let s2 := match destOf (BitVec.ofNat 5 e.dest) with
        | .o n => emitFrom s1 sp rel el n false e.sqs
            ((tokensOf e.lg (rqPay e) (fun j => e.hdrs.getD j 0#32)).map (fun t => if tag then withET t true else t))
        | .y n => emitFrom s1 sp rel el n true false [bitToken (bitAt 0 ((rqResult e 0).getD 0#32))]
        | _ => s1
      let s3 := match e.cmpl with
        | some y => emitFrom s2 sp rel el y true false [bitToken true]
        | none => s2
      .next (if e.sink && !e.held then elemFault s3 cl el ⟨9, 0, 0, locWord rel el e.slotNo 0 0⟩ else s3)
    else .next s
  | _, _ => .next s

/-- LD (R139). Element memory firing loads vl consecutive words. -/
def execLd (w : Slot) (s : State) : Out :=
  memFire s 0xA0 w (fun _ => .load) false unitOff noData noData

/-- LD_FE (R139). Element memory firing loads after every touched granule is full. -/
def execLdFe (w : Slot) (s : State) : Out :=
  memFire s 0xA1 w (fun _ => .loadFe) false unitOff noData noData

/-- LD_FE_CLR (R139). Element memory firing loads full granules and clears their bits. -/
def execLdFeClr (w : Slot) (s : State) : Out :=
  memFire s 0xA2 w (fun _ => .loadFeClr) false unitOff noData noData

/-- LDFF (R141). Element memory firing loads with first-fault truncation of vl. -/
def execLdff (w : Slot) (s : State) : Out :=
  memFire s 0xA3 w (fun _ => .load) true unitOff noData noData

/-- ST (R139). Element memory firing stores vl consecutive words. -/
def execSt (w : Slot) (s : State) : Out :=
  memFire s 0xA4 w (fun _ => .store) false storeOff laneB noData

/-- ST_FULL (R139). Element memory firing stores words and sets their granules full. -/
def execStFull (w : Slot) (s : State) : Out :=
  memFire s 0xA5 w (fun _ => .storeFull) false storeOff laneB noData

/-- GATH (R142). Element memory firing reads one word per lane at lane addresses. -/
def execGath (w : Slot) (s : State) : Out :=
  memFire s 0xA6 w (fun _ => .load) false gathOff noData noData

/-- SCAT (R142). Element memory firing writes one word per lane at lane addresses. -/
def execScat (w : Slot) (s : State) : Out :=
  memFire s 0xA7 w (fun _ => .store) false laneA laneB noData

/-- AMOADD_I32 (R143). Element atomic adds to a word per lane and returns the old value. -/
def execAmoaddI32 (w : Slot) (s : State) : Out :=
  memFire s 0xA8 w (fun _ => .amoAdd) false laneA laneB noData

/-- AMOMIN_I32 (R143). Element atomic signed minimum per lane. -/
def execAmominI32 (w : Slot) (s : State) : Out :=
  memFire s 0xA9 w (fun _ => .amoMin) false laneA laneB noData

/-- AMOMAX_I32 (R143). Element atomic signed maximum per lane. -/
def execAmomaxI32 (w : Slot) (s : State) : Out :=
  memFire s 0xAA w (fun _ => .amoMax) false laneA laneB noData

/-- AMOSWP (R143). Element atomic swap per lane. -/
def execAmoswp (w : Slot) (s : State) : Out :=
  memFire s 0xAB w (fun _ => .amoSwap) false laneA laneB noData

/-- AMOCAS (R143). Element atomic compare-and-swap per lane. -/
def execAmocas (w : Slot) (s : State) : Out :=
  memFire s 0xAC w (fun _ => .amoCas) false laneA laneB laneD

/-- AMOADD_F32 (R143). Element atomic F32 add per lane with rounding. -/
def execAmoaddF32 (w : Slot) (s : State) : Out :=
  memFire s 0xAD w (fun v => .amoAddF (rmCode v)) false laneA laneB noData

end Sys2Proof.Machine
end

