-- ==== Sys2Proof/Machine/Units.lean ====
section
/-! DEFINITION. Memory-tile units: engine accesses, address generators, tag counters (R277 to R284, R291, R385). -/

namespace Sys2Proof.Machine

open Sys2Proof

/-! Engine accesses (R375, R381): a unit whose walk ended in a fault meets it at its next try. -/

def engTrans (s : State) (cl asid need : Nat) (wf : Option (Nat × Nat)) (va : Nat) : Trans :=
  match translate s cl asid va need with
  | .miss =>
    match wf with
    | some (a, c) => if a = va then .fault c else .miss
    | none => .miss
  | t => t

/-- The physical addresses of `n` words at the given virtual addresses. -/
def engWords (s : State) (cl asid need : Nat) (wf : Option (Nat × Nat)) : List Nat → VAcc (List Nat)
  | [] => .ok []
  | va :: l =>
    match engTrans s cl asid need wf va with
    | .miss => .miss va
    | .fault c => .fault c va
    | .hit pa =>
      match engWords s cl asid need wf l with
      | .ok r => .ok (pa :: r)
      | t => t

/-- `n` word addresses from `va`. -/
def wordsFrom (va n : Nat) : List Nat := (List.range n).map (fun i => (va + 4 * i) % 2 ^ 52)
def readWord (s : State) (pa : Nat) : W32 := BitVec.ofNat 32 (readPAn s pa 4)

/-- An engine that reads a bad word reads it once more, and whether that is correct is left open; what is still bad carries
ET (R385). -/
def reread (s : State) (bad : Bool) : Bool × State :=
  if bad then (!Sys2Proof.Config.rereadOk (takeFree s).1, (takeFree s).2) else (false, s)

/-- Elements that follow one another in one granule, each at an address of its own, are one access (R223): `r` is the access
so far, at addresses `key`, and `x` the element after it. -/
def joins {α : Type} (key : α → Nat) (r : List α) (x : α) : Bool :=
  r.all (fun y => decide (key y / 16 = key x / 16) && decide (key y ≠ key x))
def runAdd {α : Type} (key : α → Nat) (r : List α) (x : α) : List α := if joins key r x then r ++ [x] else [x]
/-- The last access of a list of elements. -/
def lastRun {α : Type} (key : α → Nat) (l : List α) : List α := l.foldl (runAdd key) []
/-- The elements of the access that begins with element `i` of `n`, where `ad` gives the address of each. -/
def runFrom (ad : Nat → Nat) (n i : Nat) : List Nat :=
  i :: ([1, 2, 3].takeWhile (fun d => decide (i + d < n) && joins ad ((List.range d).map (i + ·)) (i + d))).map (i + ·)

/-- The word of element `i` among those held. -/
def heldAt (h : List Held) (i : Nat) : Option Held := h.find? (fun x => decide (x.key = i))
/-- Elements `i` to `i + k − 1` of a transfer that reads: what is held, and the whole of each granule that is read now. -/
def readRuns (ad : Nat → Nat) (n : Nat) (rd : Nat → W32 × Bool) : Nat → Nat → List Held → List Held
  | 0, _, h => h
  | k + 1, i, h =>
    let h1 := if (heldAt h i).isSome then h
      else h ++ (runFrom ad n i).map (fun j => ⟨j, (rd (ad j)).1, (rd (ad j)).2⟩)
    readRuns ad n rd k (i + 1) h1

/-- A cluster whose units act: its span, load and span-relative number. -/
def unitSite (s : State) (cl : Nat) : Option (Nat × Span × Load × Nat) :=
  match spanAt s cl with
  | none => none
  | some (sp, x) =>
    match x.load with
    | none => none
    | some l => if spanActive x && loadActive l then some (sp, x, l, relOf x cl) else none

/-! Completion tokens (R27, R278). -/

/-- A completion token that is due leaves once its channel has room; without a channel it is discarded. -/
def flushGen (s : State) (cl t a : Nat) : State :=
  match unitSite s cl with
  | none => s
  | some (sp, x, l, rel) =>
    let e := ctlEnd (genEnd rel t a)
    let g := getGen s cl t a
    if g.pend = 0 then s
    else if !hasOut l e then modGen s cl t a (fun g => { g with pend := 0 })
    else if completionRoom s sp x l e then emitCompletion (modGen s cl t a (fun g => { g with pend := g.pend - 1 })) sp e
    else s
def oweGen (s : State) (cl t a : Nat) : State := flushGen (modGen s cl t a (fun g => { g with pend := g.pend + 1 })) cl t a

/-! Tag counters (R291). -/

/-- Where a counter is at or above an armed target, the target is subtracted, the tag disarmed, and a completion token due. -/
def tagFire (s : State) (cl t tag : Nat) : State :=
  let y := getTile s cl t
  match amGet y.armed tag with
  | none => s
  | some (n, a) =>
    let c := amGetD y.tags tag 0
    if n ≤ c then
      oweGen (modTile s cl t (fun y => { y with tags := amPutD y.tags tag (c - n) 0, armed := amDel y.armed tag })) cl t a
    else s
def tagCount (s : State) (cl t tag n : Nat) : State :=
  tagFire (modTile s cl t (fun y => { y with tags := amPutD y.tags tag (amGetD y.tags tag 0 + n) 0 })) cl t tag

/-! Requests of a generator. -/

/-- The head of a generator's input when it is a request with this OPX, or data. -/
def genAsks (s : State) (sp : Nat) (l : Load) (rel cl t a opx : Nat) : Option Token :=
  let g := getGen s cl t a
  let e := genEnd rel t a
  if g.fault.isSome || g.job.isSome || g.byQueue then none
  else
    match headAt l e (spanNow s sp) with
    | none => none
    | some k => if agHead g (hasOut l e) k = .request ∧ reqOpx k = opx then some k else none
def genData (s : State) (sp : Nat) (l : Load) (rel cl t a : Nat) : Option Token :=
  let g := getGen s cl t a
  let e := genEnd rel t a
  if g.fault.isSome || g.byQueue then none
  else
    match headAt l e (spanNow s sp) with
    | none => none
    | some k => if agHead g (hasOut l e) k = .data then some k else none

/-- A request is taken and served from now on. -/
def takeJob (s : State) (sp : Nat) (l : Load) (rel cl t a : Nat) (k : Token) : State :=
  takeHead (modGen s cl t a (fun g => { g with job := some ⟨k, 0, []⟩ })) sp l (genEnd rel t a)
/-- A request ends, and the token that now heads the input is checked. -/
def endJob (s : State) (sp rel cl t a : Nat) : State :=
  headCheck (modGen s cl t a (fun g => { g with job := none, wf := none })) sp (genEnd rel t a)
def stepJob (s : State) (cl t a pos : Nat) (hold : List Held) : State :=
  modGen s cl t a (fun g => { g with job := g.job.map (fun j => { j with pos := pos, hold := hold }), wf := none })
/-- The request being served, of this OPX. -/
def jobOf (g : AddrGen) (opx : Nat) : Option Job := g.job.filter (fun j => decide (reqOpx j.tok = opx))

/-- SETUP (R278, R280). An address generator takes a SETUP request and sets its mode; the granules of a new FIFO queue read
empty. -/
def execAgSetup (cl tile ag : Nat) (s : State) : Out :=
  match unitSite s cl with
  | none => .next s
  | some (sp, _, l, rel) =>
    match genAsks s sp l rel cl tile ag 0 with
    | none => .next s
    | some k =>
      let d := lane64 k
      let s0 := modTile s cl tile (putHeld (getGen s cl tile ag).hold)
      let s1 := if agMode d = 1 then modTile s0 cl tile (emptyRegion (agBASE d) (agSIZE d + 1)) else s0
      .next (takeHead (modGen s1 cl tile ag (fun g =>
        { genReset with desc := lane64 k, row := agNR (lane64 k) - 1, pend := g.pend })) sp l (genEnd rel tile ag))

/-- ARM (R291). An address generator arms a tag counter; a second ARM replaces target and binding. -/
def execAgArm (cl tile ag : Nat) (s0 : State) : Out :=
  let s := flushGen s0 cl tile ag
  match unitSite s cl with
  | none => .next s
  | some (sp, _, l, rel) =>
    match genAsks s sp l rel cl tile ag 4 with
    | none => .next s
    | some k =>
      let tag := field 3 0 (laneOf k 7)
      let s1 := modTile s cl tile (fun y => { y with armed := amPut y.armed tag ((laneOf k 0).toNat, ag) })
      .next (tagFire (takeHead s1 sp l (genEnd rel tile ag)) cl tile tag)

/-! Operand store and line buffer (R281, R282). -/

/-- Byte `i`-th element of a READ or WRITE in an operand-store buffer: offsets wrap within the buffer. -/
def storeAddr (d : W64) (k : Token) (i : Nat) : Nat :=
  let size := (agSIZE d + 1) / (agNB d + 1) * 16
  16 * agBASE d + field 9 8 (laneOf k 7) * size + (((laneOf k 2).toNat + 4 * i) % size) / 4 * 4
/-- Element `i` of the `r`-th oldest row held (R282): addresses wrap within the region. -/
def lineAddr (g : AddrGen) (r i : Nat) : Nat :=
  let nr := max 1 (agNR g.desc)
  let place := (g.row + nr + 1 + r - g.rows) % nr
  16 * agBASE g.desc + (place * agROW g.desc * 16 + 4 * i) % (16 * (agSIZE g.desc + 1))

/-- Emission on a generator's data output. -/
def genEmit (s : State) (sp : Nat) (l : Load) (rel t a : Nat) (k : Token) : State :=
  match findOut l (genEnd rel t a) with
  | none => s
  | some ch => modChan s sp ch (fun c => emitTok (spanNow s sp) c.ord k c)
def genRoom (s : State) (x : Span) (l : Load) (rel t a : Nat) : Bool :=
  match (findOut l (genEnd rel t a)).bind (fun ch => amGet l.chans ch) with
  | some c => outSpace s x c 1
  | none => false

/-- One token of an operand-store READ. FEM 1 and 2 wait until every granule of the READ is full; FEM 2 empties
each granule as it is read. Each granule is read whole. -/
def readStore (s : State) (sp : Nat) (x : Span) (l : Load) (rel cl t a : Nat) (g : AddrGen) (j : Job) : State :=
  let y := getTile s cl t
  let n := reqCount j.tok
  let fem := field 4 3 (laneOf j.tok 7)
  let ads := (List.range n).map (storeAddr g.desc j.tok)
  if !genRoom s x l rel t a || (decide (fem ≠ 0) && decide (j.pos = 0) && !ads.all (fun b => granFull y (b / 16))) then s
  else
    let k := min 8 (n - j.pos)
    let ad := storeAddr g.desc j.tok
    let fresh := (List.range k).filter (fun i => (heldAt j.hold (j.pos + i)).isNone)
    let h := readRuns ad n (fun b => (tileWord y b, granBad y (b / 16))) k j.pos j.hold
    let mine := h.filter (fun x => decide (x.key < j.pos + k))
    let r := reread s (mine.any (·.bad))
    let tok : Token := ⟨vec8Of (fun i => if i < k then ((heldAt h (j.pos + i)).map (·.word)).getD 0#32 else 0#32) 0,
      mkHdr (field 7 5 (laneOf j.tok 7)) (decide (j.pos + k = n)) false false k (field 2 0 (laneOf j.tok 7)) 0⟩
    let s1 := if fem = 2 then modTile r.2 cl t (setFulls · false (fresh.map (fun i => ad (j.pos + i) / 16))) else r.2
    let s2 := genEmit s1 sp l rel t a (withET tok r.1)
    if j.pos + k = n then endJob s2 sp rel cl t a
    else stepJob s2 cl t a (j.pos + k) (h.filter (fun x => decide (j.pos + k ≤ x.key)))

/-- A word of the tile as a generator that still holds words of its newest row sees it. -/
def lineWord (g : AddrGen) (y : Tile) (b : Nat) : Held :=
  (heldAt g.hold b).getD ⟨b, tileWord y b, granBad y (b / 16)⟩
/-- The words behind `b` in its granule. -/
def behind (b : Nat) : List Nat := [b + 4, b + 8, b + 12].filter (fun a => decide (a / 16 = b / 16))
/-- The words at these addresses, out of what is held or the granule that is read now; and what is then held. -/
def pullLine (rd : Nat → Held) (ads : List Nat) (h : List Held) : List Held × List Held :=
  (ads.map (fun b => (heldAt h b).getD (rd b)),
   h.filter (fun x => decide (x.key ∉ ads)) ++ ads.flatMap (fun b => if (heldAt h b).isSome then [] else (behind b).map rd))
/-- One token of a line-buffer READ: lane r holds the element of the r-th oldest row. -/
def readLine (s : State) (sp : Nat) (x : Span) (l : Load) (rel cl t a : Nat) (g : AddrGen) (j : Job) : State :=
  let y := getTile s cl t
  let n := reqCount j.tok
  if !genRoom s x l rel t a then s
  else
    let col := (laneOf j.tok 2).toNat + j.pos
    let ads := (List.range (min g.rows 8)).map (fun r => lineAddr g r col)
    let p := pullLine (lineWord g y) ads j.hold
    let tok : Token := ⟨vec8Of (fun r => ((p.1[r]?).map (·.word)).getD 0#32) 0,
      mkHdr (field 7 5 (laneOf j.tok 7)) (decide (j.pos + 1 = n)) false false (min 8 (agNR g.desc)) (field 2 0 (laneOf j.tok 7)) 0⟩
    let r := reread s (p.1.any (·.bad))
    let s1 := genEmit r.2 sp l rel t a (withET tok r.1)
    if j.pos + 1 = n then endJob s1 sp rel cl t a else stepJob s1 cl t a (j.pos + 1) p.2

/-- The oldest token of a FIFO that a SETUP made goes to the output. -/
def fifoOut (s : State) (sp : Nat) (x : Span) (l : Load) (rel cl t a : Nat) (g : AddrGen) : State :=
  if g.len = 0 || !genRoom s x l rel t a then s
  else
    let y := getTile s cl t
    let tok := queueTok y (agBASE g.desc) g.head
    let r := reread s (queueBad y (agBASE g.desc) g.head)
    let s1 := modTile r.2 cl t (fun y => queueClear y (agBASE g.desc) g.head)
    let s2 := modGen s1 cl t a (fun g => { g with head := (g.head + 1) % max 1 ((agSIZE g.desc + 1) / 3), len := g.len - 1 })
    genEmit s2 sp l rel t a (if r.1 then withET tok true else tok)

/-- READ (R281 to R283). An address generator emits tokens from an operand store or line buffer, one a step; in FIFO mode
its oldest token. -/
def execAgRead (cl tile ag : Nat) (s0 : State) : Out :=
  let s := flushGen s0 cl tile ag
  match unitSite s cl with
  | none => .next s
  | some (sp, x, l, rel) =>
    let g := getGen s cl tile ag
    if g.fault.isSome || g.byQueue then .next s
    else if agMode g.desc = 1 then .next (fifoOut s sp x l rel cl tile ag g)
    else
      match jobOf g 1 with
      | some j =>
        .next (if agMode g.desc = 3 then readLine s sp x l rel cl tile ag g j else readStore s sp x l rel cl tile ag g j)
      | none =>
        match genAsks s sp l rel cl tile ag 1 with
        | none => .next s
        | some k => .next (takeJob s sp l rel cl tile ag k)

/-- What a writer has, in order, as what it writes now and what it holds: its last access is held where `more` of it is to
come. -/
def putSplit {α : Type} (key : α → Nat) (more : List α → Bool) (l : List α) : List α × List α :=
  let r := lastRun key l
  if more r then (l.take (l.length - r.length), r) else (l, [])

/-- One data token of a WRITE: its LN lanes, up to the count. A granule is written whole, once its last word is there. -/
def writeStore (s : State) (sp : Nat) (l : Load) (rel cl t a : Nat) (g : AddrGen) (j : Job) (k : Token) : State :=
  let n := reqCount j.tok
  let m := if hdrBUB k.hdr then 0 else min (min 8 (hdrLN k.hdr)) (n - j.pos)
  let ad := storeAddr g.desc j.tok
  let h := j.hold ++ (List.range m).map (fun i => ⟨j.pos + i, laneOf k i, hdrET k.hdr⟩)
  let next := j.pos + m
  let w := putSplit (fun x : Held => ad x.key) (fun r => decide (r ≠ []) && decide (next < n) && joins ad (r.map (·.key)) next) h
  let s1 := modTile s cl t (fun y =>
    let y1 := w.1.foldl (fun y x => putData x.bad (ad x.key) x.word y) y
    if bitAt 3 (laneOf j.tok 7) then setFulls y1 true (w.1.map (fun x => ad x.key / 16)) else y1)
  let s2 := popUnit s1 sp l (genEnd rel t a)
  if j.pos + m = n then endJob s2 sp rel cl t a else stepJob s2 cl t a (j.pos + m) w.2

/-- The rest of a short row's last granule. -/
def padLine (h : List Held) : List Held :=
  match h.getLast? with
  | none => []
  | some x => (behind x.key).map (fun b => ⟨b, 0#32, false⟩)
/-- One token of row data (R282): a granule of the row is written whole, once its last word is there or the row ends. -/
def writeLine (s : State) (sp : Nat) (l : Load) (rel cl t a : Nat) (k : Token) : State :=
  let g := getGen s cl t a
  let nr := max 1 (agNR g.desc)
  let bub := hdrBUB k.hdr
  let starts := g.fresh && (!bub || hdrLR k.hdr)
  let g1 := if starts then { g with row := (g.row + 1) % nr, rows := min nr (g.rows + 1), col := 0, fresh := false } else g
  let base := 16 * agBASE g.desc + g1.row * agROW g.desc * 16
  let width := 4 * agROW g.desc
  let m := if bub then 0 else min 8 (hdrLN k.hdr)
  let h := g1.hold ++ ((List.range m).filter (fun i => decide (g1.col + i < width))).map (fun i =>
    ⟨base + 4 * (g1.col + i), laneOf k i, hdrET k.hdr⟩)
  let w := putSplit (·.key) (fun r => !hdrLR k.hdr && r.getLast?.any (fun x => decide (behind x.key ≠ []))) h
  let s1 := modTile s cl t (fun y =>
    let y0 := if starts then tileWrite y base (List.replicate (4 * width) 0#8) else y
    putHeld (w.1 ++ if hdrLR k.hdr then padLine h else []) y0)
  let s2 := modGen s1 cl t a (fun _ => { g1 with col := g1.col + m, fresh := g1.fresh || hdrLR k.hdr, hold := w.2 })
  takeHead s2 sp l (genEnd rel t a)

/-- A token enters a FIFO that a SETUP made. -/
def fifoIn (s : State) (sp : Nat) (l : Load) (rel cl t a : Nat) (k : Token) : State :=
  let g := getGen s cl t a
  let cap := (agSIZE g.desc + 1) / 3
  if g.len < cap then
    let s1 := modTile s cl t (fun y => queuePutTok y (agBASE g.desc) ((g.head + g.len) % cap) k)
    popUnit (modGen s1 cl t a (fun g => { g with len := g.len + 1 })) sp l (genEnd rel t a)
  else s

/-- WRITE (R280 to R283). An address generator writes following input tokens into an operand-store buffer, one a step;
in line-buffer mode row data, in FIFO mode every token. -/
def execAgWrite (cl tile ag : Nat) (s0 : State) : Out :=
  let s := flushGen s0 cl tile ag
  match unitSite s cl with
  | none => .next s
  | some (sp, _, l, rel) =>
    let g := getGen s cl tile ag
    match genAsks s sp l rel cl tile ag 2 with
    | some k => .next (takeJob s sp l rel cl tile ag k)
    | none =>
      match genData s sp l rel cl tile ag with
      | none => .next s
      | some k =>
        match jobOf g 2 with
        | some j => .next (writeStore s sp l rel cl tile ag g j k)
        | none =>
          if agMode g.desc = 1 then .next (fifoIn s sp l rel cl tile ag k)
          else if agMode g.desc = 3 ∧ g.job = none then .next (writeLine s sp l rel cl tile ag k)
          else .next s

/-! FETCH and PUT (R283). -/

def moveVA (k : Token) (pos : Nat) : Nat := (reqAddr k + pos) % 2 ^ 52
def moveOff (k : Token) (pos : Nat) : Nat := (laneOf k 2).toNat + pos

/-- A fault ends the request; its event goes to SY.FGRP (R381). -/
def failJob (s : State) (sp rel cl t a c va : Nat) : State := postEvent (endJob s sp rel cl t a) cl ⟨c, 0, 0, va⟩

/-- One granule of a FETCH: written whole, full, and counted on the tag. -/
def fetchGranule (s : State) (sp rel cl t a asid : Nat) (g : AddrGen) (j : Job) : State :=
  let va := moveVA j.tok j.pos
  match engWords s cl asid 1 g.wf (wordsFrom va 4) with
  | .miss v => startWalk s cl asid v 1 (.gen t a)
  | .fault c v => failJob s sp rel cl t a c v
  | .ok pas =>
    let s0 := touchRead s cl pas
    let bs := wordsRead s0 pas
    let (bad, s0) := reread s0 (pas.any (fun pa => paBad s pa 4))
    let o := moveOff j.tok j.pos
    let s1 := modTile s0 cl t (fun y =>
      let y1 := setFull (tileWrite y o bs) (o / 16) true
      { y1 with bad := amPutD y1.bad (o / 16) bad false })
    let s2 := if j.pos + 16 = reqCount j.tok then endJob s1 sp rel cl t a else stepJob s1 cl t a (j.pos + 16) []
    tagCount s2 cl t (field 3 0 (laneOf j.tok 7)) 4

/-- One granule of a PUT; with the last one its completion token is due. -/
def putGranule (s : State) (sp rel cl t a asid : Nat) (g : AddrGen) (j : Job) : State :=
  let va := moveVA j.tok j.pos
  match engWords s cl asid 2 g.wf (wordsFrom va 4) with
  | .miss v => startWalk s cl asid v 2 (.gen t a)
  | .fault c v => failJob s sp rel cl t a c v
  | .ok pas =>
    let y := getTile s cl t
    let o := moveOff j.tok j.pos
    let s1 := writeEach s cl ((List.range 4).map (fun i => (pas.getD i 0, tileWord y (o + 4 * i))))
    let r := reread s1 (granBad y (o / 16))
    let s2 := if r.1 then pas.foldl (fun s pa => { s with bad := amPut s.bad (pa / 16) 2 }) r.2 else r.2
    if j.pos + 16 = reqCount j.tok then oweGen (endJob s2 sp rel cl t a) cl t a else stepJob s2 cl t a (j.pos + 16) []

/-- The step of a FETCH or PUT: the request is taken, or its next granule moves. -/
def moveStep (opx cl tile ag : Nat) (s0 : State) (f : State → Nat → Nat → Nat → Nat → Nat → Nat → AddrGen → Job → State) : State :=
  let s := flushGen s0 cl tile ag
  match unitSite s cl with
  | none => s
  | some (sp, _, l, rel) =>
    let g := getGen s cl tile ag
    if g.fault.isSome then s
    else
      match jobOf g opx with
      | some j => f s sp rel cl tile ag l.asid g j
      | none =>
        match genAsks s sp l rel cl tile ag opx with
        | none => s
        | some k => takeJob s sp l rel cl tile ag k

/-- FETCH (R283). An address generator copies virtual memory into its tile and counts words on a tag, a granule a step. -/
def execAgFetch (cl tile ag : Nat) (s : State) : Out := .next (moveStep 3 cl tile ag s fetchGranule)

/-- PUT (R283). An address generator copies its tile to virtual memory and emits a completion token, a granule a step. -/
def execAgPut (cl tile ag : Nat) (s : State) : Out := .next (moveStep 5 cl tile ag s putGranule)

end Sys2Proof.Machine
end

