-- ==== Sys2Proof/Machine/Streams.lean ====
section
/-! DEFINITION. Streamer ports and multicast fills: STRM, MCAST, PATLD, streams, GET and PUTS (R182, R183, R205, R218 to
R220, R283, R285 to R289, R292, R399). -/

namespace Sys2Proof.Machine

open Sys2Proof

/-! Stream control blocks (R285). -/

def scb (st : Stream) (i : Nat) : W64 := st.words.getD i 0#64
def scbKind (w : List W64) : Nat := field 61 60 (w.getD 0 0#64)
def scbFMT (st : Stream) : Nat := field 58 56 (scb st 0)
def scbBASE (st : Stream) : Nat := field 51 0 (scb st 0)
def scbIXE (st : Stream) : Bool := bitAt 52 (scb st 1)
def scbIXB (st : Stream) : Nat := field 51 0 (scb st 1)
def scbIXS (st : Stream) : Int := sextNat 32 (field 63 32 (scb st 2))
def scbNX (st : Stream) : Nat := field 31 0 (scb st 2)
def scbSTR (st : Stream) (j : Nat) : Int := sextNat 32 (field 63 32 (scb st (3 + j)))
def scbN (st : Stream) (j : Nat) : Nat := max 1 (field 23 0 (scb st (3 + j)))
def scbPVAL (st : Stream) : Bool := bitAt 4 (scb st 8)
def scbPDIR (w : List W64) : Bool := bitAt 3 (w.getD 8 0#64)
def scbGCTX (w : List W64) : Nat := field 2 0 (w.getD 8 0#64)
def scbTAG (st : Stream) : Nat := field 10 8 (scb st 9)
def scbCPL (st : Stream) : Bool := bitAt 0 (scb st 9)

/-- Words 0 to 9 with no reserved bit set. -/
def scbOk (w : List W64) : Bool :=
  let v (i : Nat) : W64 := w.getD i 0#64
  decide (field 63 62 (v 0) = 0) && decide (scbKind w ≠ 3) && !bitAt 59 (v 0) && decide (field 55 52 (v 0) = 0)
  && decide (field 63 53 (v 1) = 0) && [3, 4, 5, 6, 7].all (fun j => decide (field 31 24 (v j) = 0))
  && decide (field 31 5 (v 8) = 0) && decide (field 63 11 (v 9) = 0) && decide (field 7 1 (v 9) = 0)

/-- The 64-bit words of a byte list. -/
def words64 (bs : List Byte) (n : Nat) : List W64 :=
  (List.range n).map (fun i => BitVec.ofNat 64 (natOfBytes ((bs.drop (8 * i)).take 8)))

/-- The load wires a port the way a stream needs it. -/
def wiredFor (l : Load) (rel n kind : Nat) : Bool :=
  if kind = 1 then hasIn l (portEnd rel n) else hasOut l (portEnd rel n)

/-- Why a block starts nothing: refused, or a transposed start on a binding that is not invertible (R218). -/
inductive StartIs where
  | ok (bind : Option Binding)
  | refused
  | notInvertible
  deriving DecidableEq, Repr

/-- The binding that a start from cluster `who` takes: a PATLD of the same cycle does not reach it (R205). The cycles of two
dies are never the same one: their counters are not compared (R5, log 79). -/
def bindingAt (s : State) (who cl k : Nat) : Option Binding :=
  let c := getCtx s cl k
  if c.boundAt = (dieOf who, now s who) then c.prev else c.bound

def startCheck (s : State) (l : Load) (who rel cl n : Nat) (w : List W64) : StartIs :=
  if !scbOk w || !wiredFor l rel n (scbKind w) then .refused
  else if scbKind w = 2 then
    match bindingAt s who cl (scbGCTX w) with
    | none => .refused
    | some b => if scbPDIR w && !b.inv then .notInvertible else .ok (some b)
  else .ok none

/-- A stream at its beginning. -/
def streamNew (blk : Nat) (w : List W64) (asid ticket kind : Nat) (bind : Option Binding) : Stream :=
  { blk := blk, words := w, asid := asid, ticket := ticket, ord := 0, kind := kind, bind := bind, began := false, x := 0,
    ib := none, i := [0, 0, 0, 0, 0], done := 0, hold := [], fin := false, flt := none, tail := false }

/-- A stream joins a port's queue, as the latest to arrive. -/
def pushStream (s : State) (cl n : Nat) (st : Stream) : State :=
  arrive (modPort s cl n (fun p => { p with q := p.q ++ [{ st with ord := s.serial }] }))
/-- The stream at the front of a port's queue changes, or leaves. -/
def modFront (s : State) (cl n : Nat) (f : Stream → Stream) : State :=
  modPort s cl n (fun p => { p with q := p.q.modify 0 f, wf := none })
def dropFront (s : State) (sp rel cl n : Nat) : State :=
  headCheck (modPort s cl n (fun p => { p with q := p.q.drop 1, wf := none })) sp (portEnd rel n)

/-- A ticket of the span for the executing group's engine work (R178). -/
def takeTicket (s : State) (sp : Nat) : Nat × State :=
  match getSpan s sp with
  | none => (0, s)
  | some x => (x.ticket, modCur (modSpan s sp (fun x => { x with ticket := x.ticket + 1 }))
      (fun g => { g with tickets := g.tickets ++ [x.ticket] }))

/-- STRM (R182, R205, R218). Control core starts a stream on a streamer port, as a release at span scope. -/
def execStrm (a : BitVec 5) (b : BitVec 5) (s : State) : Out :=
  let g := curGrp s
  let blk := (xget g a).toNat % 2 ^ 52
  let v := xget g b
  let n := field 2 0 v
  match spanAt s s.cur.cl, curLoad s with
  | some (sp, x), some l =>
    if l.phase ≠ .ready ∧ l.phase ≠ .running then .next (illegal s 6)
    else
      match absOf x (field 14 3 v) with
      | none => .next (illegal s 11)
      | some cl =>
        let rel := field 14 3 v
        if field 63 15 v ≠ 0 ∨ blk % 32 ≠ 0 ∨ (!hasIn l (portEnd rel n) && !hasOut l (portEnd rel n)) then .next (illegal s 11)
        else
          let s := releaseCur s 1
          match vaWords s s.cur.cl g.asid 1 20 blk with
          | .miss va => .next (waitWalk s va 1)
          | .fault c va => .next (takeTrap s ⟨c, 0, 0, va⟩)
          | .ok pas =>
            let s := touchRead s s.cur.cl pas
            let w := words64 (wordsRead s pas) 10
            match startCheck s l s.cur.cl rel cl n w with
            | .refused => .next (illegal s 11)
            | .notInvertible => .next (takeTrap s ⟨6, 0, 0, blk⟩)
            | .ok bind =>
              if 8 ≤ (getPort s cl n).q.length then .next (modCur s (waitFor (.stream cl n)))
              else
                let p := takeTicket s sp
                .next (skip (pushStream p.2 cl n (streamNew blk w g.asid p.1 (scbKind w) bind)) 4)
  | _, _ => .next (illegal s 6)

/-- STREAM_START (R285). A port accepts an SREQ token and queues the stream it names; a block that STRM would refuse
raises the port's fault and the token stays. -/
def execStreamStart (cl port : Nat) (s : State) : Out :=
  match unitSite s cl with
  | none => .next s
  | some (sp, _, l, rel) =>
    let p := getPort s cl port
    let e := portEnd rel port
    match headAt l e (spanNow s sp) with
    | none => .next s
    | some k =>
      if p.fault.isSome || decide (portHead p (hasOut l e) k ≠ some .request) || decide (reqKind k ≠ 2)
          || decide (8 ≤ p.q.length) then .next s
      else
        let blk := reqAddr k
        if 2 ^ 52 ≤ (lane64 k).toNat ∨ blk % 32 ≠ 0 then .next (portFault s cl port ⟨5, 0, 0, portLoc rel port⟩)
        else
          match engWords s cl l.asid 1 p.wf (wordsFrom blk 20) with
          | .miss va => .next (startWalk s cl l.asid va 1 (.stream port))
          | .fault c va =>
            .next (postEvent (takeHead (modPort s cl port (fun p => { p with wf := none })) sp l e) cl ⟨c, 0, 0, va⟩)
          | .ok pas =>
            let s := touchRead s cl pas
            let w := words64 (wordsRead s pas) 10
            match startCheck s l cl rel cl port w with
            | .refused => .next (portFault s cl port ⟨5, 0, 0, portLoc rel port⟩)
            | .notInvertible => .next (portFault s cl port ⟨6, 0, 0, portLoc rel port⟩)
            | .ok bind =>
              let s1 := modPort s cl port (fun p => { p with wf := none })
              .next (takeHead (pushStream s1 cl port (streamNew blk w l.asid 0 (scbKind w) bind)) sp l e)

/-! The visit of R286. -/

/-- The index units of the visit. -/
def visitX (st : Stream) : Nat := if scbIXE st then scbNX st else 1
/-- The address at the current indices. -/
def elemVA (st : Stream) : Nat :=
  let sum := (List.range 5).foldl (fun (a : Int) j => a + (st.i.getD j 0 : Nat) * scbSTR st j) ((scbBASE st + st.ib.getD 0 : Nat) : Int)
  (sum % 2 ^ 52).toNat / 4 * 4
/-- Indices one element on: `j` is the level that counts. -/
def bumpIdx (st : Stream) : List Nat → Nat → Option (List Nat)
  | [], _ => none
  | a :: l, j => if a + 1 < scbN st j then some ((a + 1) :: l) else (bumpIdx st l (j + 1)).map (fun r => 0 :: r)
/-- One element further. -/
def nextElem (st : Stream) : Stream :=
  match bumpIdx st st.i 0 with
  | some i => { st with i := i }
  | none =>
    if st.x + 1 < visitX st then { st with x := st.x + 1, ib := none, i := [0, 0, 0, 0, 0] }
    else { st with fin := true }
def skipElems : Nat → Stream → Stream
  | 0, st => st
  | n + 1, st => if st.fin then st else skipElems n (nextElem st)

/-- The elements of a token from the current position: up to 8 of one innermost row (R286). -/
def tokLen (st : Stream) : Nat := min 8 (scbN st 0 - st.i.getD 0 0)

/-- The outcome of visiting elements: their virtual and physical addresses, the index words read on the way, and the position
after them; or the miss or fault met, a miss with the permission needed. -/
inductive Visit where
  | ok (els : List (Nat × Nat)) (idx : List Nat) (st : Stream)
  | miss (va need : Nat)
  | fault (cls va : Nat)
  deriving DecidableEq, Repr

/-- A word as the agents of a cluster see it. -/
def seenWord (s : State) (cl pa : Nat) : W32 := BitVec.ofNat 32 (natOfBytes (readBy s cl pa 4))
/-- One element more, before what `r` says of the others. -/
def visitCons (e : Nat × Nat) (idx : List Nat) (r : Visit) : Visit :=
  match r with
  | .ok els ix st => .ok (e :: els) (idx ++ ix) st
  | t => t
/-- What an index read returns: the word that the stream itself wrote last to that address, in stream order, where it is still
to be performed; else memory's (R229). -/
def overWord (s : State) (cl : Nat) (ov : List (Nat × W32)) (pa : Nat) : W32 :=
  ((ov.find? (fun x => decide (x.1 = pa))).map Prod.snd).getD (seenWord s cl pa)
/-- Up to `n` elements from the current position; index words are read on the way, and everything is translated first. `ov` are
the words, latest first, that the stream writes before the next element, and `ws` those it writes to the elements visited. -/
def visitElems (s : State) (cl need : Nat) (wf : Option (Nat × Nat)) (ov : List (Nat × W32)) (ws : List W32) : Nat → Stream → Visit
  | 0, st => .ok [] [] st
  | n + 1, st =>
    if st.fin then .ok [] [] st
    else
      let got (idx : List Nat) (st : Stream) : Visit :=
        match engTrans s cl st.asid need wf (elemVA st) with
        | .miss => .miss (elemVA st) need
        | .fault c => .fault c (elemVA st)
        | .hit pa => 
          visitCons (elemVA st, pa) idx (visitElems s cl need wf ((ws.take 1).map (fun w => (pa, w)) ++ ov) (ws.drop 1) n (nextElem st))
      if scbIXE st ∧ st.ib = none then
        let va := (scbIXB st + 4 * st.x) % 2 ^ 52 / 4 * 4
        match engTrans s cl st.asid 1 wf va with
        | .miss => .miss va 1
        | .fault c => .fault c va
        | .hit pa =>
          let off := (scbIXS st * ((overWord s cl ov pa).toNat : Int)) % 2 ^ 52
          got [pa] { st with ib := some off.toNat }
      else got [] st
/-- The next elements, up to `n`, that belong to the access `r` (R223). An index word that is still to be read ends it. -/
def goesOn : Nat → List (Nat × Nat) → Stream → List (Nat × Nat)
  | 0, _, _ => []
  | n + 1, r, st =>
    match r.head? with
    | none => []
    | some e =>
      let x := (elemVA st, e.2 / 16 * 16 + elemVA st % 16)
      if st.fin ∨ (scbIXE st ∧ st.ib = none) ∨ !joins Prod.fst r x then [] else x :: goesOn n (r ++ [x]) (nextElem st)

/-- What a reader holds after taking elements `i` to `i + k − 1`, whose addresses and those of the rest of the last access `ps`
gives. -/
def takeRuns (s : State) (cl i k : Nat) (ps : List Nat) (h : List Held) : List Held :=
  readRuns (fun j => ps.getD (j - i) 0) (i + ps.length) (fun pa => (seenWord s cl pa, paBad s pa 4)) k i h
/-- The words of those elements, and the addresses read now. -/
def runWords (i k : Nat) (h : List Held) : List W32 := (List.range k).map (fun j => ((heldAt h (i + j)).map (·.word)).getD 0#32)
def runBad (i k : Nat) (h : List Held) : Bool := (List.range k).any (fun j => ((heldAt h (i + j)).map (·.bad)).getD false)
def runNew (i k : Nat) (ps : List Nat) (h : List Held) : List Nat :=
  ((List.range k).filter (fun j => (heldAt h (i + j)).isNone)).map (fun j => ps.getD j 0)
def runLeft (i : Nat) (h : List Held) : List Held := h.filter (fun x => decide (i ≤ x.key))

/-- The words that a writer has for memory, in stream order: virtual address, physical address, word. -/
abbrev PutWord := Nat × Nat × W32
/-- What a stream holds, with the physical addresses `ps` that it has now. -/
def heldPuts (st : Stream) (ps : List Nat) : List PutWord := (st.hold.zip ps).map (fun x => (x.1.key, x.2, x.1.word))
def writePuts (s : State) (cl : Nat) (l : List PutWord) : State := writeEach s cl (l.map Prod.snd)
def holdPuts (l : List PutWord) : List Held := l.map (fun x => ⟨x.1, x.2.2, false⟩)
def overPuts (l : List PutWord) : List (Nat × W32) := (l.map Prod.snd).reverse

/-! Emission at a port. -/

def portRoomFor (s : State) (x : Span) (l : Load) (rel n k : Nat) : Bool :=
  match (findOut l (portEnd rel n)).bind (fun ch => amGet l.chans ch) with
  | some c => outSpace s x c k
  | none => false
def portRoom (s : State) (x : Span) (l : Load) (rel n : Nat) : Bool := portRoomFor s x l rel n 1
def portEmit (s : State) (sp : Nat) (l : Load) (rel n : Nat) (k : Token) : State :=
  match findOut l (portEnd rel n) with
  | none => s
  | some ch => modChan s sp ch (fun c => emitTok (spanNow s sp) c.ord k c)

/-- A token enters the fabric at a port, if the region's limiter admits it (R190); `f` is what else happens then. -/
def admitToken (s : State) (sp : Nat) (l : Load) (rel cl n : Nat) (k : Token) (f : State → State) : State :=
  match chargeLimiter s sp cl n 1 with
  | (true, t) => f (portEmit t sp l rel n k)
  | (false, t) => t

/-- A data token of words with its header fields. -/
def dataToken (fmt : Nat) (lr ls : Bool) (tag : Nat) (ws : List W32) : Token :=
  ⟨vec8Of (fun i => ws.getD i 0#32) 0, mkHdr fmt lr ls false ws.length tag 0⟩
/-- The bubble that closes a feed or pattern stream after a fault, and the one of an empty feed: FMT and TAG are the block's
(R286, R289). -/
def closingBubble (st : Stream) : Token :=
  withET ⟨lanesZero, mkHdr (scbFMT st) true true true 0 (if st.kind = 2 then 0 else scbTAG st) 0⟩ true
def emptyFeed (st : Stream) : Token := ⟨lanesZero, mkHdr (scbFMT st) false true true 0 (scbTAG st) 0⟩

/-- A stream stops at a fault (R289). -/
def streamFault (s : State) (cl n c va : Nat) : State :=
  postEvent (modFront s cl n (fun st => { st with flt := some (c, va), tail := true })) cl ⟨c, 0, 0, va⟩

/-! Feed, drain and pattern streams (R286, R287, R289, R384). -/

/-- The elements of the following token that lie in the last access of a feed's token, read with it (R223), where every element
of that token is translated too (R289). -/
def feedAhead (s : State) (cl : Nat) (wf : Option (Nat × Nat)) (els : List (Nat × Nat)) (held : Bool) (st : Stream) : Visit :=
  let r := if held then [] else goesOn (min 3 (tokLen st)) (lastRun Prod.fst els) st
  if r = [] then .ok [] [] st
  else
    match visitElems s cl 1 wf [] [] (tokLen st) st with
    | .miss va need => .miss va need
    | .fault _ _ => .ok [] [] st
    | .ok _ _ _ => .ok r [] st

/-- A feed's token. What it reads of the following token waits for room for that one as well (R399). -/
def feedStep (s : State) (sp : Nat) (x : Span) (l : Load) (rel cl n : Nat) (st : Stream) : State :=
  if !portRoom s x l rel n then s
  else if st.tail then
    admitToken s sp l rel cl n (closingBubble st) (fun t => modFront t cl n (fun st => { st with tail := false, fin := true }))
  else if visitX st = 0 then
    admitToken s sp l rel cl n (emptyFeed st) (fun t => modFront t cl n (fun st => { st with fin := true }))
  else
    let k := tokLen st
    let wf := (getPort s cl n).wf
    match visitElems s cl 1 wf [] [] k st with
    | .miss va need => startWalk s cl st.asid va need (.stream n)
    | .fault c va => streamFault s cl n c va
    | .ok els idx st1 =>
      let i := st.done
      match feedAhead s cl wf els (heldAt st.hold (i + k - 1)).isSome st1 with
      | .miss va need => startWalk s cl st.asid va need (.stream n)
      | .fault c va => streamFault s cl n c va
      | .ok more _ _ =>
        if more ≠ [] ∧ !portRoomFor s x l rel n 2 then s
        else
          let ps := (els ++ more).map Prod.snd
          let h := takeRuns s cl i k ps st.hold
          let lr := decide (st1.i.getD 0 0 = 0) || st1.fin
          let r := reread s (runBad i k h || idx.any (fun pa => paBad s pa 4))
          let tok := dataToken (scbFMT st) lr st1.fin (scbTAG st) (runWords i k h)
          admitToken r.2 sp l rel cl n (withET tok r.1) (fun t =>
            modFront (touchRead t cl (idx ++ runNew i k ps st.hold)) cl n
              (fun _ => { st1 with done := i + k, hold := runLeft (i + k) h }))

/-- The elements that a drain skips of a token, at most those that are left. -/
def skipped : Nat → Stream → Nat
  | 0, _ => 0
  | n + 1, st => if st.fin then 0 else 1 + skipped n (nextElem st)
/-- The next element of a drain belongs to its last access. -/
def drainGoesOn (st : Stream) (r : List PutWord) : Bool :=
  decide (goesOn 1 (r.map (fun x => (x.1, x.2.1))) st ≠ [])
/-- What a port does with one data token of a drain stream. A granule is written whole, once its last word is there; words that
are held for it are translated as they are written. -/
def drainStep (s : State) (sp : Nat) (l : Load) (rel cl n : Nat) (st : Stream) : State :=
  let e := portEnd rel n
  let wf := (getPort s cl n).wf
  if !st.tail && decide (visitX st = 0) then modFront s cl n (fun st => { st with fin := true })
  else
    match headAt l e (spanNow s sp) with
    | none => s
    | some k =>
      let ls := hdrLS k.hdr
      let pop (s : State) : State := popUnit s sp l e
      let fails (s : State) (st : Stream) (c va : Nat) : State :=
        let s1 := streamFault (modFront s cl n (fun _ => st)) cl n c va
        if ls then pop (modFront s1 cl n (fun st => { st with tail := false, fin := true })) else pop s1
      if st.tail then pop (modFront s cl n (fun st => { st with tail := !ls, fin := ls }))
      else
        let m := if hdrBUB k.hdr then 0 else min 8 (hdrLN k.hdr)
        match engWords s cl st.asid 2 wf (st.hold.map (·.key)) with
        | .miss va => startWalk s cl st.asid va 2 (.stream n)
        | .fault c va => fails s { st with done := st.done - st.hold.length, hold := [] } c va
        | .ok ps =>
          let old := heldPuts st ps
          let go (s : State) (l : List PutWord) (st1 : Stream) : State :=
            let w := putSplit Prod.fst (fun r => !ls && drainGoesOn st1 r) l
            pop (modFront (writePuts s cl w.1) cl n (fun _ => { st1 with hold := holdPuts w.2, fin := st1.fin || ls }))
          if hdrET k.hdr && decide (0 < m) then
            portFault (go s old { skipElems m st with done := st.done + skipped m st }) cl n ⟨9, 0, 0, portLoc rel n⟩
          else
            match visitElems s cl 2 wf (overPuts old) ((List.range m).map (laneOf k)) m st with
            | .miss va need => startWalk s cl st.asid va need (.stream n)
            | .fault c va => fails (writePuts s cl old) { st with hold := [] } c va
            | .ok els idx st1 =>
              let new := (List.range els.length).map (fun i => ((els.getD i (0, 0)).1, (els.getD i (0, 0)).2, laneOf k i))
              go (touchRead s cl idx) (old ++ new) { st1 with done := st.done + els.length }

/-- A stream that reached a context before `st` waits for it. -/
def waitsBefore (c : Cluster) (st : Stream) : Bool :=
  (amVals c.ports).any (fun p => p.q.any (fun y =>
    decide (y.kind = 2 ∧ y.ord < st.ord ∧ scbGCTX y.words = scbGCTX st.words) && !y.began && !y.fin))
/-- A stream begins on a free context, in the order in which streams reached it (R204, R205). -/
def beginPattern (s : State) (cl n : Nat) (st : Stream) : State :=
  let k := scbGCTX st.words
  if (getCtx s cl k).run.isSome || waitsBefore (getCl s cl) st then s
  else
    let s1 := modCtx s cl k (fun c => { genCtxReset with
      bound := c.bound, prev := c.prev, boundAt := c.boundAt, run := st.bind, port := n, rb := BitVec.ofNat 32 (field 63 32 (scb st 8)), dir := scbPDIR st.words })
    modFront s1 cl n (fun st => { st with began := true })

/-- The context's run is over. -/
def endPattern (s : State) (cl k : Nat) : State :=
  modCtx s cl k (fun c => { genCtxReset with bound := c.bound, prev := c.prev, boundAt := c.boundAt })

/-- A coordinate token, and the coordinates it holds. -/
def isCoord (k : Token) : Bool := !hdrBUB k.hdr && decide (hdrTAG k.hdr = 0)

/-- The values of a token, at these virtual and physical addresses, out of what is left of the granule read last or the granule
that is read now, whole (R223); then what is left of the last one. -/
def pullWords (rd : Nat → W32 × Bool) : List (Nat × Nat) → List Held → List Held × List Held
  | [], h => ([], h)
  | (va, pa) :: l, h =>
    match heldAt h va with
    | some x => let r := pullWords rd l (h.filter (fun y => decide (y.key ≠ va))); (x :: r.1, r.2)
    | none =>
      let g := [0, 4, 8, 12].map (fun o => (va / 16 * 16 + o, rd (pa / 16 * 16 + o)))
      let r := pullWords rd l ((g.filter (fun y => decide (y.1 ≠ va))).map (fun y => ⟨y.1, y.2.1, y.2.2⟩))
      (⟨va, (rd pa).1, (rd pa).2⟩ :: r.1, r.2)
/-- One token of a pattern stream: unchanged, or under PVAL the words at its ranks. -/
def patternStep (s : State) (sp : Nat) (x : Span) (l : Load) (rel cl n : Nat) (st : Stream) : State :=
  let k := scbGCTX st.words
  if st.tail then
    if portRoom s x l rel n then
      admitToken s sp l rel cl n (closingBubble st) (fun t => modFront t cl n (fun st => { st with tail := false, fin := true }))
    else s
  else if !st.began then beginPattern s cl n st
  else
    match (getCtx s cl k).out with
    | [] => s
    | tok :: rest =>
      let ls := hdrLS tok.hdr
      let take (d : Nat) (t : State) : State :=
        let t1 := modCtx t cl k (fun c => { c with out := rest })
        modFront (if ls then endPattern t1 cl k else t1) cl n (fun st => { st with done := st.done + d, fin := ls })
      if !portRoom s x l rel n then s
      else if scbPVAL st && isCoord tok then
        let m := hdrLN tok.hdr
        let vas := (List.range m).map (fun i => (scbBASE st + 4 * (laneOf tok i).toNat) % 2 ^ 52 / 4 * 4)
        match engWords s cl st.asid 1 (getPort s cl n).wf vas with
        | .miss va => startWalk s cl st.asid va 1 (.stream n)
        | .fault c va => streamFault (endPattern s cl k) cl n c va
        | .ok pas =>
          let p := pullWords (fun pa => (seenWord s cl pa, paBad s pa 4)) (vas.zip pas) st.hold
          let t := dataToken (scbFMT st) (hdrLR tok.hdr) ls 0 (p.1.map (·.word))
          let r := reread s (p.1.any (·.bad))
          let new := ((vas.zip pas).filter (fun x => (heldAt st.hold x.1).isNone)).map Prod.snd
          admitToken r.2 sp l rel cl n (withET t r.1) (fun t =>
            modFront (take m (touchRead t cl new)) cl n (fun st => { st with hold := p.2 }))
      else
        admitToken s sp l rel cl n tok (take (if isCoord tok then hdrLN tok.hdr / 2 else 0))

/-- FEED_TOKEN (R286, R287, R399). The stream at the front of a port's queue moves its next token: a feed translates and
reads it when the port's output buffer has room, a drain writes it, a pattern stream passes it on. -/
def execFeedToken (cl port : Nat) (s : State) : Out :=
  match unitSite s cl with
  | none => .next s
  | some (sp, x, l, rel) =>
    let p := getPort s cl port
    match p.q with
    | [] => .next s
    | st :: _ =>
      if p.fault.isSome || st.fin then .next s
      else
        match st.kind with
        | 0 => .next (feedStep s sp x l rel cl port st)
        | 1 => .next (drainStep s sp l rel cl port st)
        | 2 => .next (patternStep s sp x l rel cl port st)
        | _ => .next s

/-- Words 10 and 11 of an ended stream (R285). -/
def statusBytes (st : Stream) : List Byte :=
  let code := if st.flt.isSome then 2 else 1
  bytesOf 8 (code * 2 ^ 62 + st.done % 2 ^ 40) ++ bytesOf 8 ((st.flt.map Prod.snd).getD 0)

/-- STREAM_END (R288). A stream writes its status words and emits its completion token; a fault on that write drops it
and is reported. -/
def execStreamEnd (cl port : Nat) (s : State) : Out :=
  match unitSite s cl with
  | none => .next s
  | some (sp, x, l, rel) =>
    let p := getPort s cl port
    let e := ctlEnd (portEnd rel port)
    match p.q with
    | [] => .next s
    | st :: _ =>
      if !st.fin || decide (3 ≤ st.kind) || (scbCPL st && !completionRoom s sp x l e) then .next s
      else
        let leave (t : State) : State :=
          let t1 := dropFront t sp rel cl port
          if scbCPL st then emitCompletion t1 sp e else t1
        match engWords s cl st.asid 2 p.wf (wordsFrom (st.blk + 80) 4) with
        | .miss va => .next (startWalk s cl st.asid va 2 (.stream port))
        | .fault c va => .next (leave (postEvent s cl ⟨c, 0, 0, va⟩))
        | .ok pas =>
          let bs := statusBytes st
          .next (leave (writeEach s cl ((List.range 4).map (fun i =>
            (pas.getD i 0, BitVec.ofNat 32 (natOfBytes ((bs.drop (4 * i)).take 4)))))))

/-! GET and PUTS (R283, R288). -/

def xferVA (st : Stream) (i : Nat) : Nat := ((scb st 0).toNat + 4 * (st.done + i)) % 2 ^ 52 / 4 * 4
def xferCount (st : Stream) : Nat := (scb st 1).toNat
/-- The request as a queue entry: its address, count and lane 7. -/
def xferStream (k : Token) (asid kind : Nat) : Stream :=
  streamNew 0 [lane64 k, BitVec.ofNat 64 (reqCount k), BitVec.ofNat 64 (laneOf k 7).toNat] asid 0 kind none

/-- A GET or PUTS at the head joins the queue. -/
def takeXfer (s : State) (sp : Nat) (l : Load) (rel cl port opx kind : Nat) : State :=
  let p := getPort s cl port
  let e := portEnd rel port
  match headAt l e (spanNow s sp) with
  | none => s
  | some k =>
    if p.fault.isSome || decide (portHead p (hasOut l e) k ≠ some .request) || decide (reqKind k ≠ 3)
        || decide (reqOpx k ≠ opx) || decide (8 ≤ p.q.length) then s
    else takeHead (pushStream s cl port (xferStream k l.asid kind)) sp l e

/-- The entry at the front of the queue, of this kind. -/
def frontOf (p : SPort) (kind : Nat) : Option Stream := p.q.head?.filter (fun st => decide (st.kind = kind))

/-- GET (R283). A streamer port emits tokens of consecutive words from virtual memory: it takes the request, or moves
its next token. -/
def execPortGet (cl port : Nat) (s : State) : Out :=
  match unitSite s cl with
  | none => .next s
  | some (sp, x, l, rel) =>
    let p := getPort s cl port
    match frontOf p 3 with
    | none => .next (takeXfer s sp l rel cl port 8 3)
    | some st =>
      if p.fault.isSome || !portRoom s x l rel port then .next (takeXfer s sp l rel cl port 8 3)
      else
        let k := min 8 (xferCount st - st.done)
        match engWords s cl st.asid 1 p.wf ((List.range k).map (xferVA st)) with
        | .miss va => .next (startWalk s cl st.asid va 1 (.stream port))
        | .fault c va => .next (postEvent (dropFront s sp rel cl port) cl ⟨c, 0, 0, va⟩)
        | .ok pas =>
          let last := decide (st.done + k = xferCount st)
          let f := scb st 2
          let i := st.done
          let end_ := xferVA st (k - 1)
          let ahead := (List.range (min 3 (xferCount st - i - k))).filterMap (fun j =>
            if (end_ + 4 * (j + 1)) / 16 = end_ / 16 then some (pas.getD (k - 1) 0 + 4 * (j + 1)) else none)
          let ps := pas ++ ahead
          let h := takeRuns s cl i k ps st.hold
          let r := reread s (runBad i k h)
          let tok := dataToken (field 9 7 f) last (last && bitAt 6 f) (field 2 0 f) (runWords i k h)
          .next (admitToken r.2 sp l rel cl port (withET tok r.1) (fun t =>
            let t1 := touchRead t cl (runNew i k ps st.hold)
            if last then dropFront t1 sp rel cl port
            else modFront t1 cl port (fun st => { st with done := i + k, hold := runLeft (i + k) h })))

/-- PUTS (R283). A streamer port writes following input tokens to consecutive words: it takes the request, or writes
its next token. -/
def execPortPuts (cl port : Nat) (s : State) : Out :=
  match unitSite s cl with
  | none => .next s
  | some (sp, _, l, rel) =>
    let p := getPort s cl port
    let e := portEnd rel port
    match frontOf p 4, headAt l e (spanNow s sp) with
    | some st, some k =>
      if p.fault.isSome then .next s
      else
        let m := if hdrBUB k.hdr then 0 else min (min 8 (hdrLN k.hdr)) (xferCount st - st.done)
        let more := decide (st.done + m ≠ xferCount st) && decide (xferVA st m % 16 ≠ 0)
        let finish (l1 : List PutWord) : State :=
          let w := putSplit Prod.fst (fun r => more && decide (r ≠ [])) l1
          let t1 := popUnit (writePuts s cl w.1) sp l e
          if st.done + m = xferCount st then dropFront t1 sp rel cl port
          else modFront t1 cl port (fun st => { st with done := st.done + m, hold := holdPuts w.2 })
        match engWords s cl st.asid 2 p.wf (st.hold.map (·.key)) with
        | .miss va => .next (startWalk s cl st.asid va 2 (.stream port))
        | .fault c va => .next (postEvent (dropFront s sp rel cl port) cl ⟨c, 0, 0, va⟩)
        | .ok ps =>
          let old := heldPuts st ps
          if hdrET k.hdr && decide (0 < m) then .next (portFault (finish old) cl port ⟨9, 0, 0, portLoc rel port⟩)
          else
            let vas := (List.range m).map (xferVA st)
            match engWords s cl st.asid 2 p.wf vas with
            | .miss va => .next (startWalk s cl st.asid va 2 (.stream port))
            | .fault c va => .next (postEvent (dropFront (writePuts s cl old) sp rel cl port) cl ⟨c, 0, 0, va⟩)
            | .ok pas => .next (finish (old ++ (List.range m).map (fun i => (vas.getD i 0, pas.getD i 0, laneOf k i))))
    | _, _ => .next (takeXfer s sp l rel cl port 9 4)

/-! Pattern bindings (R183, R219, R220). -/

/-- The image at `va`: its binding, or the check it fails. Every word of the image is read before one is checked, so a
translation fault on a later word comes before an earlier word's failed check, which R220 leaves open (log 80). -/
def readBinding (s : State) (cl asid va : Nat) : Ld Binding :=
  ldUnless (decide (va % 16 = 0)) 16 va (
  ldBind (rdBytes s cl asid va 16) (fun h =>
    let w := fieldAt h 0 4
    let ni := w % 512
    let np := w / 2 ^ 16 % 256
    ldUnless (decide (w / 2 ^ 24 = 0) && decide (w / 2 ^ 9 % 2 ^ 7 = 0) && decide (1 ≤ ni ∧ ni ≤ 256) && decide (np ≤ 16)) 16 va (
    ldUnless (decide (fieldAt h 4 4 = 0)) 16 (va + 4) (
    ldUnless (decide (fieldAt h 8 4 = 0)) 16 (va + 8) (
    ldUnless (decide (fieldAt h 12 4 = 0)) 16 (va + 12) (
    ldBind (rdBytes s cl asid (va + 16) (4 * (ni + np))) (fun bs =>
      let ws := (List.range ni).map (fun i => BitVec.ofNat 32 (fieldAt bs (4 * i) 4))
      let ps := (List.range np).map (fun i => BitVec.ofNat 32 (fieldAt bs (4 * (ni + i)) 4))
      match patWords np ni patWalk0 0 ws with
      | .error (c, i) => .reject c (va + 16 + 4 * i)
      | .ok k => .ok ⟨va, ws, ps, k.inv⟩)))))))

/-- A context takes a binding from the executing core; a start of this cycle still takes the one before (R205). -/
def bindCtx (s : State) (cl n : Nat) (k : Binding) : State :=
  let t := (dieOf s.cur.cl, now s s.cur.cl)
  modCtx s cl n (fun c => { c with bound := some k, prev := if c.boundAt = t then c.prev else c.bound, boundAt := t })

/-- PATLD (R183, R220). Control core checks and binds a Bramble image to a generator context, as a release at span scope. -/
def execPatld (a : BitVec 5) (b : BitVec 5) (s : State) : Out :=
  let g := curGrp s
  let v := xget g b
  match (spanAt s s.cur.cl).bind (fun p => absOf p.2 (field 14 3 v)) with
  | none => .next (illegal s 11)
  | some cl =>
    if field 63 15 v ≠ 0 then .next (illegal s 11)
    else
      let s := releaseCur s 1
      let r := readBinding s s.cur.cl g.asid ((xget g a).toNat % 2 ^ 52)
      let s1 := readLines s s.cur.cl r.lines
      match r.res with
      | .miss va => .next (waitWalk s va 1)
      | .fault c va => .next (takeTrap s1 ⟨c, 0, 0, va⟩)
      | .reject c va => .next (takeTrap s1 ⟨3, c, 0, va⟩)
      | .ok k => .next (skip (bindCtx s1 cl (field 2 0 v) k) 4)

/-! Multicast fills (R182, R292). -/

def mcOk (w : List W64) (va mask : Nat) (x : Span) : Bool :=
  let v (i : Nat) : W64 := w.getD i 0#64
  let len := field 16 0 (v 1)
  decide (va % 32 = 0) && decide (field 63 52 (v 0) = 0) && decide (field 63 57 (v 1) = 0) && decide (field 31 17 (v 1) = 0)
  && decide (field 63 12 (v 2) = 0) && decide (v 3 = 0#64) && decide (field 3 0 (v 0) = 0) && decide (field 35 32 (v 1) = 0)
  && decide (len % 16 = 0) && decide (16 ≤ len ∧ len ≤ 65536) && decide (field 47 32 (v 1) + len ≤ 65536) && decide (mask ≠ 0)
  && (onesOf 64 mask).all (fun i => decide (field 11 0 (v 2) + i < x.clusters.length))

/-- The lines of a source, and the part of it that line `k` holds. -/
def mcLines (src len : Nat) : Nat := (src + len - 1) / 64 - src / 64 + 1
def mcLo (src k : Nat) : Nat := max src (64 * (src / 64 + k))
def mcHi (src len k : Nat) : Nat := min (src + len) (64 * (src / 64 + k + 1))

/-- MCAST (R182, R292). Control core starts a multicast fill to a cluster mask, as a release at span scope. -/
def execMcast (a : BitVec 5) (b : BitVec 5) (s : State) : Out :=
  let g := curGrp s
  let va := (xget g a).toNat % 2 ^ 52
  let mask := (xget g b).toNat
  match spanAt s s.cur.cl, curLoad s with
  | some (sp, x), some l =>
    if l.phase ≠ .ready ∧ l.phase ≠ .running then .next (illegal s 6)
    else if va % 32 ≠ 0 then .next (illegal s 11)
    else
      let s := releaseCur s 1
      match vaWords s s.cur.cl g.asid 1 8 va with
      | .miss v => .next (waitWalk s v 1)
      | .fault c v => .next (takeTrap s ⟨c, 0, 0, v⟩)
      | .ok pas =>
        let s := touchRead s s.cur.cl pas
        let w := words64 (wordsRead s pas) 4
        if !mcOk w va mask x then .next (illegal s 11)
        else
          let v (i : Nat) : W64 := w.getD i 0#64
          let p := takeTicket s sp
          let src := field 51 0 (v 0)
          let len := field 16 0 (v 1)
          let cls := (onesOf 64 mask).filterMap (fun i => absOf x (field 11 0 (v 2) + i))
          let m : Mcast := {
            src := src, tag := field 56 53 (v 1), mt := field 52 48 (v 1), doff := field 47 32 (v 1), len := len,
            asid := g.asid, cl := s.cur.cl, ticket := p.1, data := amEmpty, badLines := []
            owed := (List.range (mcLines src len)).flatMap (fun k => cls.map (fun c => (k, c))), wf := none }
          .next (skip (modLoad p.2 sp (fun l => { l with mcasts := amPut l.mcasts (amFresh l.mcasts) m })) 4)
  | _, _ => .next (illegal s 6)

/-- A line arrives at a tile: each granule is written whole, full, and counts 4 words on the tag. -/
def deliverLine (s : State) (cl : Nat) (m : Mcast) (k : Nat) (bs : List Byte) (bad : Bool) : State :=
  let lo := mcLo m.src k
  let o := m.doff + (lo - m.src)
  (List.range (bs.length / 16)).foldl (fun s i =>
    let s1 := modTile s cl m.mt (fun y =>
      let y1 := setFull (tileWrite y (o + 16 * i) ((bs.drop (16 * i)).take 16)) ((o + 16 * i) / 16) true
      { y1 with bad := amPutD y1.bad ((o + 16 * i) / 16 % 4096) bad false })
    tagCount s1 cl m.mt m.tag 4) s

/-- MULTICAST_DELIVERY (R292). A source line of a multicast fill, read once, is delivered to a named tile. -/
def execMulticastDelivery (sp idx cl line : Nat) (s : State) : Out :=
  match getSpan s sp with
  | none => .next s
  | some x =>
    match x.load.bind (fun l => (amGet l.mcasts idx).map (fun m => (l, m))) with
    | none => .next s
    | some (l, m) =>
      if !spanActive x || !loadActive l || decide ((line, cl) ∉ m.owed) then .next s
      else
        let lo := mcLo m.src line
        let vas := wordsFrom lo ((mcHi m.src m.len line - lo) / 4)
        let drop (s : State) : State := modLoad s sp (fun l => { l with mcasts := amDel l.mcasts idx })
        let go (s : State) (bs : List Byte) (bad : Bool) : State :=
          let s1 := deliverLine s cl m line bs bad
          let owed := m.owed.filter (fun p => decide (p ≠ (line, cl)))
          if owed = [] then drop s1
          else modLoad s1 sp (fun l => { l with mcasts := amMod l.mcasts idx (fun m => { m with owed := owed, wf := none }) })
        match amGet m.data line with
        | some bs => .next (go s bs (decide (line ∈ m.badLines)))
        | none =>
          match engWords s m.cl m.asid 1 m.wf vas with
          | .miss va => .next (startWalk s m.cl m.asid va 1 (.mcast sp idx))
          | .fault c va => .next (postEvent (drop s) m.cl ⟨c, 0, 0, va⟩)
          | .ok pas =>
            let pa := pas.getD 0 0
            let r := reread (performRead (l2Touch s m.cl pa) m.cl pa (4 * pas.length) .package) (pas.any (fun pa => paBad s pa 4))
            let bs := wordsRead r.2 pas
            let s1 := modLoad r.2 sp (fun l => { l with
              mcasts := amMod l.mcasts idx (fun m => { m with
                data := amPut m.data line bs, badLines := if r.1 then line :: m.badLines else m.badLines }) })
            .next (go s1 bs r.1)

end Sys2Proof.Machine
end

