-- ==== Sys2Proof/Machine/Island.lean ====
section
/-! DEFINITION. The matrix island: accepting, staging, the array, draining (R298 to R311). -/

namespace Sys2Proof.Machine

open Sys2Proof

/-- A cluster whose island finishes what is in the array, also while its span freezes (R311). -/
def islandSite (s : State) (cl : Nat) : Option (Nat × Span × Load × Nat) :=
  match spanAt s cl with
  | none => none
  | some (sp, x) =>
    match x.load with
    | none => none
    | some l =>
      if (spanActive x || decide (x.phase = .freezing)) && loadActive l then some (sp, x, l, relOf x cl) else none

def getIsland (s : State) (cl : Nat) : Island := (getCl s cl).island
/-- A fault of a scale fetch or of the self-check stops the island, not only its port (R381). -/
def islandStopped (i : Island) : Bool := i.fault.any (fun r => decide (r.cls = 1 ∨ r.cls = 2 ∨ r.cls = 8))
/-- The port of the island at its region's rate limiter. -/
def islandPort : Nat := 8

/-- The token at the head of port 0 when the island takes it with this MOP (R303). -/
def islandAsks (s : State) (sp cl : Nat) (l : Load) (rel mop : Nat) : Option Token :=
  let i := getIsland s cl
  if i.fault.isSome then none
  else (headAt l (islandEnd rel) (spanNow s sp)).filter (fun k =>
    islandTakes (decide (s.hub.boot = .die0)) i k && decide (reqOpx k = mop))

/-- The self-check interval and rotation of MXCHK (R300). -/
def chkN (i : Island) : Nat := field 15 0 i.mxchk
def chkROT (i : Island) : Nat := field 21 16 i.mxchk

/-- MMA (R301). The island accepts a checked MMA operation token at port 0. -/
def execMma (cl : Nat) (s : State) : Out :=
  match unitSite s cl with
  | none => .next s
  | some (sp, _, l, rel) =>
    let i := getIsland s cl
    match islandAsks s sp cl l rel 0 with
    | none => .next s
    | some k =>
      if 2 ≤ i.ops.length ∨ i.ops.any (fun o => decide (o.phase = 0)) then .next s
      else
        let num := i.count + 1
        let checked := decide (chkN i ≠ 0) && decide (num % chkN i = 0)
        let steps := mmaK k / (mmaP i k).getD 1
        match chargeLimiter s sp cl islandPort (if checked then 2 * steps else steps) with
        | (false, s1) => .next s1
        | (true, s1) =>
          let o : IslandOp := {
            tok := k, phase := 0, num := num, checked := checked, scb := i.scb, va := i.va, mxsc := i.mxsc,
            rot := chkROT i, aScale := [], bScale := [], aBytes := [], bBytes := [], row := 0 }
          let s2 := countBoth (modIsland s1 cl (fun i => { i with ops := i.ops ++ [o], count := num })) cl 0x2000 1
          .next (takeHead s2 sp l (islandEnd rel))

/-- The write of a SETREG (R300, R302). -/
def setIslandReg (n : Nat) (v : W64) (i : Island) : Island :=
  match n with
  | 0 => { i with scb := vec2Set i.scb 0 v }
  | 1 => { i with scb := vec2Set i.scb 1 v }
  | 2 => { i with va := vec2Set i.va 0 v }
  | 3 => { i with va := vec2Set i.va 1 v }
  | 4 => { i with mxsc := v }
  | _ => { i with mxchk := v }

/-- SETREG (R302). The island writes an island register from a SETREG token. -/
def execSetreg (cl : Nat) (s : State) : Out :=
  match unitSite s cl with
  | none => .next s
  | some (sp, _, l, rel) =>
    match islandAsks s sp cl l rel 1 with
    | none => .next s
    | some k =>
      match chargeLimiter s sp cl islandPort 1 with
      | (false, s1) => .next s1
      | (true, s1) =>
        let s2 := modIsland s1 cl (setIslandReg (field 3 0 (laneOf k 2)) (lane64 k))
        .next (takeHead s2 sp l (islandEnd rel))

/-! Operands. `b` says operand B; rows of A and columns of B are called lines. -/

def opFmt (o : IslandOp) (b : Bool) : Nat := if b then mmaFB o.tok else mmaFA o.tok
def opWide (o : IslandOp) (b : Bool) : Bool := bitAt (if b then 17 else 16) o.mxsc
/-- Bits of an element. -/
def opBits (o : IslandOp) (b : Bool) : Nat := elBits (opFmt o b) (opWide o b)
def opLines (o : IslandOp) (b : Bool) : Nat := if b then mmaN o.tok else mmaM o.tok
def opTile (o : IslandOp) (b : Bool) : Nat := if b then mmaTB o.tok else mmaTA o.tok
/-- The tile offset of a line. -/
def opLine (o : IslandOp) (b : Bool) (i : Nat) : Nat :=
  if b then mmaOB o.tok + i * mmaPB o.tok else mmaOA o.tok + i * mmaPA o.tok
def opFE (o : IslandOp) (b : Bool) : Bool := if b then mmaFEB o.tok else mmaFEA o.tok
/-- Granules of one line. -/
def opGrans (o : IslandOp) (b : Bool) : Nat := ceilDiv (mmaK o.tok * opBits o b / 8) 16
/-- Whether an operand uses records located under R54. -/
def opScaled (o : IslandOp) (b : Bool) : Bool := decide (mmaSCM o.tok = 0) && decide (opFmt o b = 6 ∨ opFmt o b = 7)
/-- The step P of R63. -/
def opStep (o : IslandOp) : Nat :=
  max 1 ((pairStep (mmaFA o.tok) (mmaFB o.tok) (opWide o false) (opWide o true)).getD 1)
/-- Bytes of a record (R54). -/
def recSize (f : Nat) : Nat := if f = 6 then 1 else 4
/-- The address of the record of element kk of a line (R54, R300). -/
def recAddr (o : IslandOp) (b : Bool) (i kk : Nat) : Nat :=
  let x := if b then 1 else 0
  let a := ((vec2Get o.va x).toNat + opLine o b i + kk * opBits o b / 8) % 2 ^ 52
  let scs := if b then field 13 8 o.mxsc else field 5 0 o.mxsc
  ((vec2Get o.scb x).toNat + a / 2 ^ scs * recSize (opFmt o b)) % 2 ^ 52

/-! Stage (R304, R305, R307). -/

/-- The place of a record of this size at an address in the scale cache: one byte and four there are two records. -/
def recKey (a size : Nat) : Nat := 2 * a + (if size = 1 then 0 else 1)
/-- A record enters the scale cache of 256 records. -/
def cacheRecord (s : State) (cl a v : Nat) : State :=
  let i := getIsland s cl
  if i.scaleCache.entries.length < 256 then modIsland s cl (fun i => { i with scaleCache := amPut i.scaleCache a v })
  else
    let (n, s1) := takeFree s
    let m : AMap Nat := ⟨i.scaleCache.entries.eraseIdx (Config.victim n % 256)⟩
    modIsland s1 cl (fun i => { i with scaleCache := amPut m a v })

/-- The records of a line: from the cache, or read from memory. A record that is rewritten while it is cached is used as it
was read, until the cache loses it (log 70). -/
def fetchRecords (s : State) (cl asid : Nat) (wf : Option (Nat × Nat)) (size : Nat) : List Nat → VAcc (List Nat × State)
  | [] => .ok ([], s)
  | a :: l =>
    match amGet (getIsland s cl).scaleCache (recKey a size) with
    | some v =>
      match fetchRecords s cl asid wf size l with
      | .ok (r, t) => .ok (v :: r, t)
      | e => e
    | none =>
      match engWords s cl asid 1 wf ((List.range size).map (fun k => (a + k) % 2 ^ 52)) with
      | .miss v => .miss v
      | .fault c _ => .fault c a
      | .ok pas =>
        let v := natOfBytes (pas.map (s.seen cl))
        match fetchRecords (cacheRecord (touchRead s cl (pas.take 1 ++ pas.drop 3)) cl (recKey a size) v) cl asid wf size l with
        | .ok (r, t) => .ok (v :: r, t)
        | e => e

/-- The operation that is staging is changed. -/
def modStaging (s : State) (cl : Nat) (f : IslandOp → IslandOp) : State :=
  modIsland s cl (fun i => { i with wf := none, ops := i.ops.map (fun o => if o.phase = 0 then f o else o) })

/-- The next line of records of an operand. -/
def stageScale (s : State) (cl asid : Nat) (o : IslandOp) (b : Bool) : State :=
  let i := (if b then o.bScale else o.aScale).length
  match fetchRecords s cl asid (getIsland s cl).wf (recSize (opFmt o b))
      ((List.range (mmaK o.tok)).map (recAddr o b i)) with
  | .miss v => startWalk s cl asid v 1 .island
  | .fault c a => islandFault (modIsland s cl (fun i => { i with wf := none })) cl ⟨c, 0, 0, a⟩
  | .ok (r, s1) =>
    modStaging s1 cl (fun o => if b then { o with bScale := o.bScale ++ [r] } else { o with aScale := o.aScale ++ [r] })

/-- The next granule of an operand: read whole, and with FE = 1 only when it is full (R305). -/
def stageGranule (s : State) (cl : Nat) (o : IslandOp) (b : Bool) : State :=
  let n := (if b then o.bBytes else o.aBytes).length
  let g := opGrans o b
  let off := opLine o b (n / g) + 16 * (n % g)
  let y := getTile s cl (opTile o b)
  if opFE o b && !granFull y (off / 16) then s
  else
    let bs := tileRead y off 16
    modStaging s cl (fun o => if b then { o with bBytes := o.bBytes ++ [bs] } else { o with aBytes := o.aBytes ++ [bs] })

def scalesDone (o : IslandOp) (b : Bool) : Bool :=
  !opScaled o b || decide (opLines o b ≤ (if b then o.bScale else o.aScale).length)
def bytesDone (o : IslandOp) (b : Bool) : Bool :=
  decide (opLines o b * opGrans o b ≤ (if b then o.bBytes else o.aBytes).length)
/-- Every operand read of an operation is performed before it enters the array (R306). -/
def staged (o : IslandOp) : Bool := scalesDone o false && scalesDone o true && bytesDone o false && bytesDone o true

/-- ISLAND_STAGE (R304). The island fetches scales and stages operand rows and columns, a line of records or a granule a
step. -/
def execIslandStage (cl : Nat) (s : State) : Out :=
  match unitSite s cl with
  | none => .next s
  | some (_, _, l, _) =>
    let i := getIsland s cl
    match i.ops.find? (fun o => decide (o.phase = 0)) with
    | none => .next s
    | some o =>
      .next (if islandStopped i then s
        else if !scalesDone o false then stageScale s cl l.asid o false
        else if !scalesDone o true then stageScale s cl l.asid o true
        else if !bytesDone o false then stageGranule s cl o false
        else if !bytesDone o true then stageGranule s cl o true
        else s)

/-! The array (R63, R64, R304, R308, R309). -/

/-- Val of element kk of a line (R45, R50, R51); with SCM = 01 every scale is 1 and every zero point 0. -/
def opVal (o : IslandOp) (b : Bool) (i kk : Nat) : Exact :=
  let w := opBits o b
  let off := kk * w / 8
  let gran := (if b then o.bBytes else o.aBytes).getD (i * opGrans o b + off / 16) []
  let code := natOfBytes ((gran.drop (off % 16)).take 2) / 2 ^ (kk * w % 8) % 2 ^ w
  let rec_ := ((if b then o.bScale else o.aScale).getD i []).getD kk 0
  match opFmt o b with
  | 6 => valMX4 (if opScaled o b then rec_ else 127) code
  | 7 => if opScaled o b then valQG (rec_ % 2 ^ 16) code (rec_ / 2 ^ 16 % 2 ^ w) else valQG 0x3C00 code 0
  | f => fval (fmtOfCode f) code

/-- The exact sum of a step, kk rising from `kk` (R63). -/
def stepSum (o : IslandOp) (i j : Nat) : Nat → Nat → Exact → Exact
  | 0, _, t => t
  | n + 1, kk, t => stepSum o i j n (kk + 1) (exAdd .rne t (exMul (opVal o false i kk) (opVal o true j kk)))
/-- The steps of one output element, one rounding each. -/
def sumSteps (o : IslandOp) (i j : Nat) : Nat → Nat → W32 → W32
  | 0, _, acc => acc
  | n + 1, st, acc =>
    sumSteps o i j n (st + 1) (toF32 .rne (exAdd .rne (f32 acc) (stepSum o i j (opStep o) (st * opStep o) (.zero false))))
/-- C[i][j] from its starting accumulator. -/
def mmaElement (o : IslandOp) (i j : Nat) (acc : W32) : W32 := sumSteps o i j (mmaK o.tok / opStep o) 0 acc

/-- Accumulators outside the shape are unchanged (R304). -/
def arrayResult (o : IslandOp) (acc : AMap W32) : AMap W32 :=
  (List.range (mmaM o.tok * mmaN o.tok)).foldl (fun m k =>
    let i := k / mmaN o.tok
    let j := k % mmaN o.tok
    amPutD m (64 * i + j) (mmaElement o i j (amGetD acc (64 * i + j) 0#32)) 0#32) acc

/-- The granules of the drain region. -/
def drainGrans (o : IslandOp) (i : Nat) : List Nat :=
  let off := mmaOC o.tok + i * mmaPC o.tok
  (List.range (ceilDiv (4 * mmaN o.tok) 16)).map (fun g => off / 16 + g)
def drainTile (o : IslandOp) : Nat := mmaTC o.tok

/-- The operation enters: the drain region is set empty with CLRD, and with ACC = 0 every accumulator becomes +0. -/
def enterArray (s : State) (cl : Nat) (o : IslandOp) : State :=
  let s1 := if mmaCLRD o.tok then
      modTile s cl (drainTile o) (setFulls · false ((List.range (mmaM o.tok)).flatMap (drainGrans o)))
    else s
  let s2 := if mmaACC o.tok then s1 else modIsland s1 cl (fun i => { i with acc := amEmpty })
  if o.checked then countBoth s2 cl 0x2001 1 else s2

/-- The word of R309 for a mismatch at row i, column j. -/
def mismatchWord (rel i j rot : Nat) : Nat := rel % 4096 + i * 2 ^ 12 + j * 2 ^ 18 + (i + rot) % 64 * 2 ^ 24

/-- ISLAND_ARRAY (R304). An operation enters the array and passes its steps, twice if self-checked. `miss` is an input:
1 + 64 i + j where the passes of a checked operation differ first at (i, j), 0 where they agree. -/
def execIslandArray (cl : Nat) (miss : Nat) (s : State) : Out :=
  match islandSite s cl with
  | none => .next s
  | some (_, x, _, rel) =>
    let i := getIsland s cl
    match i.ops with
    | [] => .next s
    | o :: rest =>
      let fresh := decide (o.phase = 0) && staged o && spanActive x
      if islandStopped i || !(fresh || decide (o.phase = 1)) then .next s
      else
        let s1 := if o.phase = 0 then enterArray s cl o else s
        let r := (miss - 1) / 64
        let c := (miss - 1) % 64
        if o.checked && decide (miss ≠ 0) && decide (r < mmaM o.tok) && decide (c < mmaN o.tok) then
          let w := mismatchWord rel r c o.rot
          let s2 := modIsland s1 cl (fun i => { i with ops := { o with phase := 1 } :: rest })
          let s3 := clusterRecord (countBoth s2 cl 0x2002 1) 3 cl w (o.rot * 2 ^ 42 + o.num % 2 ^ 32)
          .next (islandFault s3 cl ⟨8, 0, 0, w⟩)
        else
          .next (modIsland s1 cl (fun i =>
            { i with acc := arrayResult o i.acc, ops := { o with phase := 2 } :: rest }))

/-! Drain (R304, R306). -/

/-- One row is written: every granule of it whole, its full bit set in the same access. -/
def drainRow (s : State) (cl : Nat) (o : IslandOp) : State :=
  let off := mmaOC o.tok + o.row * mmaPC o.tok
  let acc := (getIsland s cl).acc
  modTile s cl (drainTile o) (fun y =>
    let y1 := (List.range (mmaN o.tok)).foldl
      (fun y j => tilePutWord y (off + 4 * j) (amGetD acc (64 * o.row + j) 0#32)) y
    setFulls y1 true (drainGrans o o.row))

/-- ISLAND_DRAIN (R306). The island drains result rows to a tile, a row a step, and may emit a completion token. -/
def execIslandDrain (cl : Nat) (s : State) : Out :=
  match islandSite s cl with
  | none => .next s
  | some (sp, x, l, rel) =>
    match (getIsland s cl).ops with
    | [] => .next s
    | o :: rest =>
      if o.phase ≠ 2 then .next s
      else if mmaDRN o.tok ∧ o.row < mmaM o.tok then
        .next (modIsland (drainRow s cl o) cl (fun i => { i with ops := { o with row := o.row + 1 } :: rest }))
      else if !mmaCPL o.tok then .next (modIsland s cl (fun i => { i with ops := rest }))
      else if completionRoom s sp x l (ctlEnd (islandEnd rel)) then
        .next (emitCompletion (modIsland s cl (fun i => { i with ops := rest })) sp (ctlEnd (islandEnd rel)))
      else .next s

end Sys2Proof.Machine
end

