-- ==== Sys2Proof/Machine/Launch.lean ====
section
/-! DEFINITION. Launching and ending: launch records, the pool and the spill queue, launch queues, the
dispatcher, exits and completions (R184 to R186, R197, R361 to R367). -/

namespace Sys2Proof.Machine

open Sys2Proof

/-! Launch records (R184). -/

def recOf (bs : List Byte) : LRecord :=
  let w (i : Nat) : Nat := natOfBytes ((bs.drop (8 * i)).take 8)
  { entry := w 0 % 2 ^ 52, param := BitVec.ofNat 64 (w 1), cls := w 2 / 256 % 4, shape := w 2 % 8,
    dw := w 2 / 16 % 4, dh := w 2 / 64 % 4, user := BitVec.ofNat 64 (w 3) }

/-- The reserved rules of a record. -/
def recOk (bs : List Byte) : Bool :=
  let w (i : Nat) : Nat := natOfBytes ((bs.drop (8 * i)).take 8)
  decide (w 0 < 2 ^ 52) && decide (w 0 % 4 = 0) && decide (w 1 < 2 ^ 52) && decide (w 2 / 1024 = 0)
  && decide (w 2 / 8 % 2 = 0) && decide (w 2 / 64 % 4 ≠ 3) && decide (w 2 % 8 ≤ 5)

/-- A record as its 32 bytes. -/
def recBytes (r : LRecord) : List Byte :=
  bytesOf 8 r.entry ++ bytesOf 8 r.param.toNat
  ++ bytesOf 8 (r.shape + 16 * r.dw + 64 * r.dh + 256 * r.cls) ++ bytesOf 8 r.user.toNat

/-! The pool and the spill queue (R185). -/

def poolFree (p : Partition) : Nat := 256 - p.pool.length

/-- The head of the pool: the queued record of the highest class, the earliest enqueued among those. -/
def poolHead (p : Partition) : Option PoolEntry :=
  (p.pool.filter (fun e => decide (e.st = 0))).foldl (fun h e =>
    match h with
    | none => some e
    | some x => if x.record.cls < e.record.cls ∨ (x.record.cls = e.record.cls ∧ e.order < x.order) then some e else h) none

/-- The head keeps the cycle since which it waits as a head (R367). -/
def rehead (t : Nat) (p : Partition) : Partition :=
  match poolHead p with
  | none => p
  | some h => { p with pool := p.pool.map (fun e =>
      if e.order = h.order then { e with since := some (e.since.getD t) }
      else if e.st = 0 then { e with since := none } else e) }

/-- The pool is refilled from the spill queue, oldest first, as entries beyond the 16 reserved ones free. -/
def refillPool : Nat → Partition → Partition
  | 0, p => p
  | n + 1, p =>
    match p.spill with
    | [] => p
    | x :: rest =>
      if 16 < poolFree p then
        refillPool n { p with
          spill := rest
          spillHead := p.spillHead + 1
          pool := p.pool ++ [⟨x.handle, x.detached, x.record, x.asid, 0, 0#64, none, x.order, x.launcher⟩] }
      else p

/-- The pool after an entry has come or gone. -/
def settlePool (s : State) (part : Nat) : State :=
  modPart s part (fun p => rehead (hubNow s) (refillPool 256 p))

/-- The launching core as a launch record keeps it: its span's key and its span-relative cluster. -/
def launcherOf (s : State) (cl : Nat) : Option (Nat × Nat) := (spanAt s cl).map (fun p => (p.2.key, relOf p.2 cl))

/-- A record is written to its place in the spill queue, which the core reaches through its own translation (R174, R185). -/
def spillRecord (s : State) (cl pa : Nat) (r : LRecord) : State :=
  l2Write (l2Write s cl pa ((recBytes r).take 16)) cl (pa + 16) ((recBytes r).drop 16)

/-- LAUNCH (R185). Control core enqueues a launch record in the pool or spill queue. It acts as a release at package scope (R181). -/
def execLaunch (d : BitVec 5) (a : BitVec 5) (q : BitVec 1) (p : BitVec 1) (s : State) : Out :=
  let cl := s.cur.cl
  let g := curGrp s
  let va := (xget g a).toNat % 2 ^ 52
  if va % 32 ≠ 0 then .next (illegal s 11)
  else
    let s := releaseCur s 3
    match vaWords s cl g.asid 1 8 va with
    | .miss v => .next (waitWalk s v 1)
    | .fault c v => .next (takeTrap s ⟨c, 0, 0, v⟩)
    | .ok pas =>
      let s := touchRead s cl pas
      let bs := wordsRead s pas
      if !recOk bs then .next (illegal s 11)
      else
        let r0 := recOf bs
        let r := { r0 with cls := min r0.cls (getCl s cl).core.maxc }
        let part := partOfCl s cl
        let P := getPart s part
        let h := P.lastHandle + 1
        let det := decide (q = 1#1)
        let by_ := launcherOf s cl
        let c := (getCl s cl).core
        if (P.spill = [] ∧ 16 < poolFree P) ∨ (p = 1#1 ∧ 0 < poolFree P) then
          let s2 := modPart s part (fun x => { x with
            lastHandle := h, nextOrder := x.nextOrder + 1
            pool := x.pool ++ [⟨h, det, r, g.asid, 0, 0#64, none, x.nextOrder, by_⟩] })
          .next (finish (settlePool s2 part) 4 d (BitVec.ofNat 64 (if det then 0 else h)))
        else if P.spill.length < c.lspn.toNat then
          let at_ := (c.lspb.toNat + 32 * ((P.spillHead + P.spill.length) % c.lspn.toNat)) % 2 ^ 52
          match translate s cl g.asid at_ 2 with
          | .miss => .next (waitWalk s at_ 2)
          | .fault k => .next (takeTrap s ⟨k, 0, 0, at_⟩)
          | .hit pa =>
            let s3 := modPart (spillRecord s cl pa r) part (fun x => { x with
              lastHandle := h, nextOrder := x.nextOrder + 1
              spill := x.spill ++ [⟨h, det, g.asid, pa, by_, r, x.nextOrder⟩] })
            .next (finish s3 4 d (BitVec.ofNat 64 (if det then 0 else h)))
        else .next (modCur s (waitFor .spill))

/-- WAITG (R186). Control core waits for a launched child to end and retires its handle. -/
def execWaitg (d : BitVec 5) (a : BitVec 5) (s : State) : Out :=
  let part := partOfCl s s.cur.cl
  let P := getPart s part
  let h := (xget (curGrp s) a).toNat
  if h = 0 then .next (illegal s 7)
  else
    match P.pool.find? (fun e => decide (e.handle = h) && !e.detached) with
    | some e =>
      if e.st = 2 then
        let s1 := modPart s part (fun x => { x with pool := x.pool.filter (fun e => decide (e.handle ≠ h)) })
        .next (finish (acquireCur (settlePool s1 part) 3) 4 d e.status)
      else .next (modCur s (waitFor (.waitg h)))
    | none =>
      if P.spill.any (fun e => decide (e.handle = h) && !e.detached) then .next (modCur s (waitFor (.waitg h)))
      else .next (illegal s 7)

/-! Launch queues (R363 to R366). -/

def qEN (q : LQueue) : Bool := bitAt 63 q.qcfg
def qLOGN (q : LQueue) : Nat := field 59 56 q.qcfg
def qCLASS (q : LQueue) : Nat := field 49 48 q.qcfg
def qMSIV (q : LQueue) : Nat := field 41 32 q.qcfg
def qASID (q : LQueue) : Nat := field 15 0 q.qcfg
def qTAIL (q : LQueue) : Nat := field 15 0 q.qtail
def qReady (q : LQueue) : Bool := qEN q && decide (q.qhead ≠ qTAIL q)

def getQueue (s : State) (part q : Nat) : LQueue := amGetD (getPart s part).queues q queueReset
def modQueue (s : State) (part q : Nat) (f : LQueue → LQueue) : State :=
  modPart s part (fun p => { p with queues := amPut p.queues q (f (amGetD p.queues q queueReset)) })

/-- A queue stops with an error: QERR is set and EN cleared (R364, R366). -/
def stopQueue (q : LQueue) : LQueue := { q with qerr := true, qcfg := setBit 63 q.qcfg false }

/-- An error of a queue is reported: it stops, and its vector is raised. -/
def failQueue (s : State) (part q : Nat) : State :=
  raiseVec (modQueue s part q stopQueue) (part + 1) (qMSIV (getQueue s part q))

/-- The completion entry of record i (R366). -/
def completionBytes (logn i kind : Nat) (status : W64) : List Byte :=
  bytesOf 8 status.toNat ++ bytesOf 8 (i % 65536 + ((i / 2 ^ logn + 1) % 2) * 2 ^ 16 + kind * 2 ^ 20)

/-- Words of the hub's at system scope. -/
def publishWords (s : State) : List Nat → List Byte → State
  | [], _ => s
  | pa :: l, bs => publishWords (publish s pa (bs.take 4)) l (bs.drop 4)
/-- The entry is written at system scope, then the vector raised; a fault drops it and stops the queue. -/
def writeCompletion (s : State) (part q i kind : Nat) (status : W64) : State :=
  let Q := getQueue s part q
  let P := getPart s part
  let va := Q.cqbase.toNat % 2 ^ 52 + 16 * (i % 2 ^ qLOGN Q)
  match hubWords s part P.cptbr (qASID Q) 2 4 va with
  | .ok pas =>
    raiseVec (publishWords s pas (completionBytes (qLOGN Q) i kind status)) (part + 1) (qMSIV Q)
  | _ => failQueue s part q

/-! Starting (R164, R277, R362, R367). -/

/-- A core of a span that starts, with the partition's settings (R362, R426). -/
def startCore (P : Partition) (c : Core) : Core :=
  { coreReset with
    esc := c.esc
    eres := c.eres
    tvec := BitVec.ofNat 64 (field 51 2 P.ctvec * 4)
    maxc := field 3 2 P.csup
    fgrp := field 1 0 P.csup
    wdog := BitVec.ofNat 64 (field 63 32 P.csup)
    rcap := BitVec.ofNat 64 (field 31 0 P.prcap)
    rcapMax := field 31 0 P.prcap
    ptbr := BitVec.ofNat 64 (field 51 12 P.cptbr * 4096)
    lspb := BitVec.ofNat 64 (field 51 5 P.clspb * 32)
    lspn := BitVec.ofNat 64 (field 31 0 P.clspn) }

/-- A cluster of a span that starts: tiles zeroed and empty, units at rest; cached translations and event
counters stay. -/
def startCluster (sp : Nat) (P : Partition) (c : Cluster) : Cluster :=
  { clusterReset with span := some sp, core := startCore P c.core, counters := c.counters, tcache := c.tcache, walks := c.walks }

/-- The group that runs the child (R164). -/
def startGroup (r : LRecord) (cls asid : Nat) (x3 : W64) (key : Nat) (t : Nat) : Group :=
  let x0 := vec32Fill 0#64
  { groupReset with
    x := vec32Set (vec32Set (vec32Set x0 1 r.param) 2 r.user) 3 x3
    pc := BitVec.ofNat 52 (r.entry / 4 * 4), base := cls, asid := asid, st := .ready, since := t, launchKey := some key }

/-- A span is taken by a launch, and group 0 of its lead core starts the child. -/
def startSpan (s : State) (part : Nat) (cls : List Nat) (r : LRecord) (cap asid key : Nat) (x3 : W64)
    (fromQ : Option (Nat × Nat)) : State :=
  match cls with
  | [] => s
  | lead :: _ =>
    let P := getPart s part
    let s1 := cls.foldl (fun s c => modCl s c (startCluster lead P)) s
    let y : Span := {
      part := part, shape := r.shape, dw := if r.shape = 5 then r.dw else 0, dh := if r.shape = 5 then r.dh else 0,
      clusters := cls, phase := .running, freezeAt := 0, saveArea := 0, saveBy := none, load := none, lids := 0, bars := amEmpty,
      key := key, fromQueue := fromQ, ticket := 1 }
    let s2 := { s1 with spans := amPut s1.spans lead y }
    modGrp s2 lead 0 (fun _ => startGroup r (min (min r.cls cap) (field 3 2 P.csup)) asid x3 key (now s lead))

/-! Placement (R9, R10, R367). -/

/-- Clusters of an aligned subtree shape. -/
def shapeSize (shape : Nat) : Nat := 4 ^ shape
/-- The clusters of the k-th place of a shape, in span-relative order, or none when there is no such place. -/
def placeOf (shape dw dh k : Nat) : Option (List Nat) :=
  if shape < 5 then
    if k * shapeSize shape < 3072 then some ((List.range (shapeSize shape)).map (fun i => k * shapeSize shape + i)) else none
  else
    let row := k / 4
    let col := k % 4
    if k < 12 ∧ row + dh < 3 ∧ col + dw < 4 then
      some ((List.range ((dw + 1) * (dh + 1))).flatMap (fun j =>
        (List.range 256).map (fun n => 256 * (4 * (row + j / (dw + 1)) + col + j % (dw + 1)) + n)))
    else none
def placeCount (shape : Nat) : Nat := if shape < 5 then 3072 / shapeSize shape else 12

/-- The partition owns a cluster's quad. -/
def ownsCl (P : Partition) (cl : Nat) : Bool := bitAt (cl % 256 / 4) (amGetD P.pqmsk (dieOf cl) 0#64)
def holdsDie (P : Partition) (d : Nat) : Bool := bitAt (16 + d) P.pctl
/-- Owned throughout. -/
def ownedAll (P : Partition) (cls : List Nat) : Bool := cls.all (ownsCl P)
/-- Owned on dies without HOLD. -/
def openAll (P : Partition) (cls : List Nat) : Bool := cls.all (fun c => ownsCl P c && !holdsDie P (dieOf c))
def freeAll (s : State) (cls : List Nat) : Bool := cls.all (fun c => (getCl s c).span.isNone)
/-- Reserved by a record other than `k`. -/
def reservedByOther (P : Partition) (k : Nat) (cls : List Nat) : Bool :=
  P.reserved.any (fun r => decide (r.1 ≠ k) && r.2.any (fun c => c ∈ cls))

/-- Whether the partition owns any span of the shape. -/
def fitsSomewhere (P : Partition) (shape dw dh : Nat) : Bool :=
  (List.range (placeCount shape)).any (fun k =>
    match placeOf shape dw dh k with
    | some cls => ownedAll P cls
    | none => false)

/-- The lowest place of a record that passes a test and that no other record has reserved. -/
def firstPlace (P : Partition) (k : Nat) (r : LRecord) (test : List Nat → Bool) : Option (List Nat) :=
  (List.range (placeCount r.shape)).findSome? (fun i =>
    match placeOf r.shape r.dw r.dh i with
    | some cls => if openAll P cls && !reservedByOther P k cls && test cls then some cls else none
    | none => none)
/-- The place where a record can start now: its reserved place when that is free, else the lowest free one. -/
def findPlace (s : State) (P : Partition) (k : Nat) (r : LRecord) : Option (List Nat) :=
  match P.reserved.find? (fun x => decide (x.1 = k)) with
  | some x => if freeAll s x.2 && openAll P x.2 then some x.2 else none
  | none => firstPlace P k r (freeAll s)
/-- The lowest subtree able to hold a record. -/
def lowestPlace (P : Partition) (k : Nat) (r : LRecord) : Option (List Nat) := firstPlace P k r (fun _ => true)
/-- Reservations of heads that still wait, on places that the partition can still use. -/
def liveReserved (P : Partition) (keys : List Nat) : List (Nat × List Nat) :=
  P.reserved.filter (fun r => decide (r.1 ∈ keys) && openAll P r.2)

/-! The dispatcher (R367). -/

/-- A head that the dispatcher considers: its class, the pool's or a queue's, its record, its key. -/
structure Cand where
  cls : Nat
  queue : Option Nat
  rank : Nat
  rcd : LRecord
  ok : Bool
  key : Nat
  deriving DecidableEq, Repr

/-- The effective class of a head that has waited since `since` (R166, R367). -/
def agedClass (cls since t : Nat) : Nat := max cls (min 3 (cls + (t - since) / 2 ^ 16))

/-- The words of the record at a queue's head, or the fault that reading it meets (R364). -/
def headWords (s : State) (part : Nat) (Q : LQueue) : VAcc (List Nat) :=
  hubWords s part (getPart s part).cptbr (qASID Q) 1 8 (Q.qbase.toNat % 2 ^ 52 + 32 * (Q.qhead % 2 ^ qLOGN Q))
/-- The record at a queue's head, or none where reading it faults. -/
def headRecord (s : State) (part : Nat) (Q : LQueue) : Option (List Byte) :=
  match headWords s part Q with
  | .ok pas => some (wordsRead s pas)
  | _ => none

/-- The queues whose head record cannot be read stop (R364). -/
def failUnreadable (s : State) (part : Nat) : State :=
  (List.range 32).foldl (fun s q =>
    let Q := getQueue s part q
    if qReady Q && (headRecord s part Q).isNone then failQueue s part q else s) s

/-- The partition's ASIDs (R357, R361). -/
def asidOwned (P : Partition) (a : Nat) : Bool :=
  decide (field 15 0 P.asid ≤ a) && decide (a < field 15 0 P.asid + field 31 16 P.asid)

/-- The candidates of a partition. One whose ASID the partition does not hold is refused, as a record that breaks a
reserved rule is (R361). -/
def candidates (s : State) (part : Nat) : List Cand :=
  let P := getPart s part
  let t := hubNow s
  let pool := match poolHead P with
    | some e => [⟨agedClass e.record.cls (e.since.getD t) t, none, 0, e.record, asidOwned P e.asid, 2 * e.order⟩]
    | none => []
  let qs := (List.range 32).filterMap (fun q =>
    let Q := getQueue s part q
    if qReady Q then
      match headRecord s part Q with
      | some bs =>
        let r0 := recOf bs
        let r := { r0 with cls := min r0.cls (qCLASS Q) }
        some ⟨agedClass r.cls Q.since t, some q, 1 + (q + 32 - (P.lastQueue + 1)) % 32, r,
          recOk bs && asidOwned P (qASID Q),
          2 * (q * 65536 + Q.qhead) + 1⟩
      | none => none
    else none)
  pool ++ qs

/-- The best of two candidates: the higher class, then the pool, then the queues in round-robin order. -/
def better (a b : Cand) : Bool := decide (b.cls < a.cls) || (decide (a.cls = b.cls) && decide (a.rank < b.rank))
/-- Candidates in the order in which the dispatcher takes them. -/
def insertCand (a : Cand) : List Cand → List Cand
  | [] => [a]
  | b :: l => if better a b then a :: b :: l else b :: insertCand a l
def sortCands : List Cand → List Cand
  | [] => []
  | a :: l => insertCand a (sortCands l)

/-- A queue's record is taken, read at system scope: QHEAD moves on. -/
def takeRecord (s0 : State) (part q : Nat) : State :=
  let s := match headWords s0 part (getQueue s0 part q) with
    | .ok pas => pas.foldl (fun s pa => showHost s pa 4) s0
    | _ => s0
  modPart (modQueue s part q (fun Q => { Q with qhead := (Q.qhead + 1) % 65536, since := hubNow s })) part
    (fun P => { P with lastQueue := q })

/-- A candidate starts on its clusters. -/
def startCand (s : State) (part : Nat) (c : Cand) (cls : List Nat) : State :=
  let P := getPart s part
  let s0 := modPart s part (fun x => { x with reserved := x.reserved.filter (fun r => decide (r.1 ≠ c.key)) })
  match c.queue with
  | some q =>
    let Q := getQueue s part q
    let key := P.nextOrder
    let s1 := modPart (takeRecord s0 part q) part (fun x => { x with nextOrder := x.nextOrder + 1 })
    startSpan s1 part cls c.rcd 3 (qASID Q) key (BitVec.ofNat 64 (q * 65536 + Q.qhead)) (some (q, Q.qhead))
  | none =>
    match poolHead P with
    | none => s0
    | some e =>
      let s1 := modPart s0 part (fun x => { x with
        pool := x.pool.map (fun y => if y.order = e.order then { y with st := 1, since := none } else y) })
      startSpan (settlePool s1 part) part cls c.rcd 3 e.asid e.order (BitVec.ofNat 64 (if e.detached then 0 else e.handle)) none

/-- The span of a launch key in a partition. -/
def spanOfKey (s : State) (part key : Nat) : Option (Nat × Span) :=
  s.spans.entries.find? (fun p => decide (p.2.part = part) && decide (p.2.key = key))

/-- A pending bit of a core named by its span's key and its span-relative cluster, in the saved span if it is Saved. -/
def tellCore (s : State) (part key rel bit : Nat) : State :=
  match spanOfKey s part key with
  | some (_, y) =>
    match absOf y rel with
    | none => s
    | some c => setPend s c bit
  | none => modHub s (fun h => { h with saves := h.saves.map (fun v =>
      if v.span.part = part ∧ v.span.key = key then
        { v with records := v.records.modify rel (fun c => { c with core := { c.core with pend := c.core.pend ||| 2 ^ bit } }) }
      else v) })
/-- SY.PEND[2] of the launching core (R193). -/
def tellLauncher (s : State) (part : Nat) (l : Option (Nat × Nat)) : State :=
  match l with
  | none => s
  | some (key, rel) => tellCore s part key rel 2

/-- A pool entry ends with a status: it keeps it for WAITG or is released. -/
def endPool (s : State) (part order : Nat) (status : W64) : State :=
  match (getPart s part).pool.find? (fun e => decide (e.order = order)) with
  | none => s
  | some e =>
    let s1 := modPart s part (fun p => { p with
      pool := if e.detached then p.pool.filter (fun y => decide (y.order ≠ order))
              else p.pool.map (fun y => if y.order = order then { y with st := 2, status := status, since := none } else y) })
    tellLauncher (settlePool s1 part) part e.launcher

/-- A record that is refused is not started: a queue's is completed with its KIND, the pool's ends with status 0 (log 64). -/
def refuseCand (s : State) (part kind : Nat) (c : Cand) : State :=
  match c.queue with
  | some q => writeCompletion (takeRecord s part q) part q (getQueue s part q).qhead kind 0#64
  | none => endPool s part (c.key / 2) 0#64

/-- The dispatcher's turn over the candidates, best first. -/
def tryCands (s : State) (part : Nat) : List Cand → State
  | [] => s
  | c :: l =>
    let P := getPart s part
    if !c.ok then refuseCand s part 1 c
    else if !fitsSomewhere P c.rcd.shape c.rcd.dw c.rcd.dh then
      match c.queue with
      | some _ => refuseCand s part 2 c
      | none => tryCands s part l
    else
      match findPlace s P c.key c.rcd with
      | some cls => startCand s part c cls
      | none =>
        if c.cls = 3 ∧ !P.reserved.any (fun r => decide (r.1 = c.key)) then
          match lowestPlace P c.key c.rcd with
          | some cls => tryCands (modPart s part (fun x => { x with reserved := x.reserved ++ [(c.key, cls)] })) part l
          | none => tryCands s part l
        else tryCands s part l

/-- A partition is enabled; in Die-0 service only partition 0 may be (R410). -/
def partEnabled (h : Hub) (p : Nat) : Bool :=
  bitAt 0 (amGetD h.parts p partitionReset).pctl && (decide (h.boot ≠ .die0) || decide (p = 0))
/-- The partition whose turn is next: the next enabled one after the last served (R367). -/
def turnOf (h : Hub) : Option Nat :=
  ((List.range 16).map (fun k => (h.lastPart + 1 + k) % 16)).find? (partEnabled h)

/-- The hub serves partitions in Die-0 service and Full service (R407). -/
def inService (h : Hub) : Bool := (decide (h.boot = .die0) || decide (h.boot = .full)) && !h.off

/-- DISPATCH (R367). The hub dispatcher starts a record on a free span of a partition, at that partition's turn. -/
def execDispatch (part : Nat) (s : State) : Out :=
  if inService s.hub ∧ turnOf s.hub = some part then
    let s1 := modHub s (fun h => { h with lastPart := part })
    let s2 := failUnreadable s1 part
    let cs := sortCands (candidates s2 part)
    .next (tryCands (modPart s2 part (fun P => { P with reserved := liveReserved P (cs.map (·.key)) })) part cs)
  else .next s

/-! Ending (R186, R197). -/

/-- A span that a group of one of the clusters is saving is Frozen again: the group is gone. -/
def dropSaves (cls : List Nat) (y : Span) : Span :=
  if y.saveBy.any (fun w => decide (w.1 ∈ cls)) then { y with phase := .frozen, saveBy := none } else y
/-- The clusters of a span are free again. -/
def freeSpan (s : State) (sp : Nat) (x : Span) : State :=
  let s1 := x.clusters.foldl (fun s c => modCl s c (fun k => { k with span := none, core := { k.core with
    grp := vec4Of (fun g => { vec4Get k.core.grp g with st := .idle, launchKey := none }) 0 } })) s
  { s1 with spans := amMap (amDel s1.spans sp) (fun _ y => dropSaves x.clusters y), net := dropUsers x.clusters s1.net }

/-- A launch ends with a status: a pool entry keeps it for WAITG or is released, a queue's record is completed. -/
def endLaunch (s : State) (part : Nat) (x : Span) (status : W64) : State :=
  match x.fromQueue with
  | some (q, i) => writeCompletion s part q i 0 status
  | none => endPool s part x.key status

/-- Every store of a core's groups is performed, and what they have seen, at package scope. -/
def flushCore (s : State) (cl : Nat) : State :=
  flushGrp (flushGrp (flushGrp (flushGrp s cl 0 3) cl 1 3) cl 2 3) cl 3 3
/-- A group ends with a status and becomes Idle, its stores performed (R232); the group that a launch started
ends that launch and frees its span. -/
def endGroup (s : State) (cl g : Nat) (status : W64) : State :=
  let s1 := modGrp (flushGrp s cl g 3) cl g (fun x => { x with st := .idle, launchKey := none })
  match spanAt s cl with
  | none => s1
  | some (sp, x) =>
    if (getGrp s cl g).launchKey = some x.key then
      let s2 := x.clusters.foldl (fun s c => flushCore s c) s1
      freeSpan (endLaunch s2 x.part x status) sp x
    else s1

/-- Whether no load that the group configured is short of Complete and its collectives are done (R197). -/
def exitReady (s : State) (cl g : Nat) : Bool := waitOver s cl g (.exit 0#64)

/-- CORE_TRAP (R197). Control core exits the group with code 0 or raises a TRAP instruction trap. -/
def execCoreTrap (a : BitVec 5) (c : BitVec 16) (s : State) : Out :=
  if c = 0#16 then
    let v := xget (curGrp s) a
    .next (if exitReady s s.cur.cl s.cur.grp then endGroup s s.cur.cl s.cur.grp v else modCur s (waitFor (.exit v)))
  else .next (takeTrap s ⟨0x10, 0, c.toNat, 0⟩)

/-- CHILD_EXIT (R186). An exiting child ends once its loads and collectives finish, and its completion is written. -/
def execChildExit (cl grp : Nat) (s : State) : Out :=
  match (getGrp s cl grp).st with
  | .waiting (.exit v) =>
    let active := match spanAt s cl with
      | some (_, x) => decide (x.phase = .running)
      | none => true
    .next (if active && exitReady s cl grp then endGroup s cl grp v else s)
  | _ => .next s

end Sys2Proof.Machine
end

