-- ==== Sys2Proof/Machine/Walks.lean ====
section
/-! DEFINITION. Walks and invalidation by range (R374 to R380, R200). -/

namespace Sys2Proof.Machine

open Sys2Proof

/-! Walks. -/

/-- A leaf enters a cluster's cache of 256 entries; a full one loses an entry the manual does not name (R375). -/
def installEntry (s : State) (cl : Nat) (e : TEntry) : State :=
  let t := (getCl s cl).tcache
  if t.length < 256 then modCl s cl (fun c => { c with tcache := c.tcache ++ [e] })
  else
    let (n, s1) := takeFree s
    modCl s1 cl (fun c => { c with tcache := c.tcache.eraseIdx (Config.victim n % 256) ++ [e] })

/-- The requester goes on: with no fault it makes its access again, with a fault it meets it there (R381). -/
def endWalk (s : State) (cl va : Nat) (who : Walker) (f : Option Nat) : State :=
  let wf := f.map (fun c => (va, c))
  match who with
  | .group g =>
    match f with
    | none => if (getGrp s cl g).st = .waiting .walk then wakeGroup s cl g else s
    | some c =>
      if (getGrp s cl g).st = .waiting .walk then
        trapGroup (modGrp (modCore s cl (leaveCfg g)) cl g (fun x => { x with since := now s cl })) cl g ⟨c, 0, 0, va⟩
      else s
  | .element el => modEl s cl el (fun e => { e with walking := false, walkFault := wf })
  | .stream n => modPort s cl n (fun p => { p with wf := wf })
  | .gen t a => modGen s cl t a (fun g => { g with wf := wf })
  | .island => modIsland s cl (fun i => { i with wf := wf })
  | .mcast sp idx => modLoad s sp (fun l => { l with mcasts := amMod l.mcasts idx (fun m => { m with wf := wf }) })

/-- The outcome of a walk for an access that needs a permission. -/
def walkFor (s : State) (part : Nat) (ptbr : W64) (r : WalkReq) : WalkEnd :=
  match walkTables s part ptbr r.asid r.va with
  | .leaf e => if permits e r.need then .leaf e else .fault 2
  | w => w

/-- The walks of a die that arrived before a place in the order of arrival. -/
def walksBefore (s : State) (die ord : Nat) : Nat :=
  s.clusters.entries.foldl (fun n p =>
    if dieOf p.1 = die then n + (p.2.walks.filter (fun r => decide (r.ord < ord))).length else n) 0

/-- WALK (R374, R375). A translation walk ends with a leaf translation, which enters the cluster's cache, or a fault. The
walk is the `idx`-th of those the cluster waits for, among the 16 of its die that arrived first, which the die's walkers
serve; the tables are read, through the die's L2 (R296), as it ends. -/
def execWalk (cl idx : Nat) (s : State) : Out :=
  match ((getCl s cl).walks[idx]?).filter (fun r => decide (walksBefore s (dieOf cl) r.ord < 16)) with
  | none => .next s
  | some r =>
    let s0 := (walkReads s (partOfCl s cl) (getCl s cl).core.ptbr r.asid r.va).foldl (fun s a => l2Touch s cl a) s
    let s1 := countBoth (modCl s0 cl (fun c => { c with walks := c.walks.eraseIdx idx })) cl 0x3001 1
    match walkFor s (partOfCl s cl) (getCl s cl).core.ptbr r with
    | .leaf e => .next (endWalk (installEntry s1 cl e) cl r.va r.who none)
    | .fault c => .next (endWalk s1 cl r.va r.who (some c))

/-! Invalidation (R376 to R378). -/

/-- A cached translation of the ASID whose page overlaps the range. -/
def invalHits (v : Inval) (e : TEntry) : Bool :=
  decide (e.asid = v.asid) && decide (e.va < v.lo + v.n) && decide (v.lo < e.va + e.size)

/-- An access whose translation is removed is marked, whether or not the cache still held its entry (R376). -/
def markVia (v : Inval) (x : Via) : Via :=
  if x.asid = v.asid ∧ x.va < v.lo + v.n ∧ v.lo < x.va + x.size then { x with stale := true } else x
def markGroup (v : Inval) (g : Group) : Group :=
  { g with
    stores := g.stores.map (fun p => { p with via := markVia v p.via })
    st := match g.st with
      | .waiting (.load d pa n sg len via acq) => .waiting (.load d pa n sg len (markVia v via) acq)
      | .frozen (some (.load d pa n sg len via acq)) => .frozen (some (.load d pa n sg len (markVia v via) acq))
      | t => t }
def markElem (v : Inval) (e : Elem) : Elem :=
  { e with rq := e.rq.map (fun q => { q with accs := q.accs.map (fun a => { a with via := markVia v a.via }) }) }
def markCluster (v : Inval) (c : Cluster) : Cluster :=
  { c with
    tcache := c.tcache.filter (fun e => !invalHits v e)
    core := { c.core with grp := vec4Of (fun g => markGroup v (vec4Get c.core.grp g)) 0 }
    elems := amMap c.elems (fun _ e => markElem v e) }

/-- Every matching entry of every cache is removed; the accesses that used one are marked, and the walks in
progress are kept in mind. -/
def removeEntries (s : State) (v : Inval) : State × Inval :=
  let ws := s.clusters.entries.flatMap (fun p =>
    (p.2.walks.filter (fun w => decide (w.asid = v.asid))).map (fun w => (p.1, w)))
  ({ s with
      near := s.near.map (fun n => { n with via := markVia v n.via })
      clusters := amMap s.clusters (fun _ c => markCluster v c) }, { v with removed := true, walks := ws })

/-- A marked access of a group, and of an element, that is still to be performed. -/
def groupStale (g : Group) : Bool :=
  g.stores.any (fun p => p.via.stale)
  || (match g.st with
      | .waiting (.load _ _ _ _ _ via _) => via.stale
      | .frozen (some (.load _ _ _ _ _ via _)) => via.stale
      | _ => false)
def elemStale (e : Elem) : Bool :=
  e.rq.any (fun q => q.accs.any (fun a => !a.sp && a.via.stale && decide (a.lane ∉ q.results.map Prod.fst)))
/-- What an acknowledgement waits for: the accesses that used a removed translation are performed at package scope, and the walks of the ASID
that were in progress have ended (R376, R380, R404). -/
def invalSettled (s : State) (v : Inval) : Bool :=
  s.near.all (fun n => !n.via.stale)
  && (amVals s.clusters).all (fun c => (vec4List c.core.grp).all (fun g => !groupStale g) && (amVals c.elems).all (fun e => !elemStale e))
  && v.walks.all (fun p => decide (p.2 ∉ (getCl s p.1).walks))

/-- The requester of an acknowledged invalidation goes on. -/
def ackInval (s : State) (v : Inval) : State :=
  if v.dropped then s
  else match v.who with
  | none => modHub s (fun h => { h with invGo := false })
  | some (cl, g) => modGrp s cl g (fun x =>
      if x.st = .waiting .invr then advance 4 { x with st := .ready, since := now s cl }
      else if x.st = .frozen (some .invr) then advance 4 { x with st := .frozen none }
      else x)

/-- INVALIDATION_ACK (R376). The agent serves its oldest invalidation: first the matching entries go, then, once walks and
accesses have settled, it acknowledges. -/
def execInvalidationAck (s : State) : Out :=
  match s.hub.invals with
  | [] => .next s
  | v :: rest =>
    if !v.removed then
      let (s1, v1) := removeEntries s v
      .next (modHub s1 (fun h => { h with invals := v1 :: rest }))
    else if invalSettled s v then .next (ackInval (modHub s (fun h => { h with invals := rest })) v)
    else .next s

/-- A request joins the agent's queue. -/
def askInval (s : State) (asid lo n : Nat) (who : Option (Nat × Nat)) : State :=
  modHub s (fun h => { h with invals := h.invals ++ [⟨asid, lo, n, who, false, [], false⟩] })

/-- INVR (R200, R377). Control core invalidates translations of an ASID range and waits for the acknowledgement, which
moves it on. It acts as a release at package scope. -/
def execInvr (d : BitVec 5) (a : BitVec 5) (b : BitVec 5) (s : State) : Out :=
  let g := curGrp s
  let asid := field 15 0 (xget g d)
  let lo := (xget g a).toNat
  let n := (xget g b).toNat
  .next (superOnly s (
    if !asidOwned (getPart s (partOfCl s s.cur.cl)) asid ∨ 2 ^ 52 < lo + n then illegal s 11
    else if n = 0 then skip (releaseCur s 3) 4
    else modCur (askInval (releaseCur s 3) asid lo n (some (s.cur.cl, s.cur.grp))) (waitFor .invr)))

/-- INVALIDATION (R378). A PF GO write starts an invalidation by range of INVA and INVN; a write while GO reads 1 is ignored,
and a length of 0 completes at once. -/
def execInvalidation (v : W64) (s : State) : Out :=
  let h := s.hub
  if h.invGo || !regsLive h then .next s
  else
    let s1 := modHub s (fun h => { h with invasid := field 15 0 v })
    let lo := field 51 0 h.inva
    let n := field 51 0 h.invn
    if bitAt 63 v ∧ n ≠ 0 then .next (askInval (modHub s1 (fun h => { h with invGo := true })) (field 15 0 v) lo n none)
    else .next s1

end Sys2Proof.Machine
end

