-- ==== Sys2Proof/Machine/Preempt.lean ====
section
/-! DEFINITION. Pre-emption: freeze, save, restore, thaw, group areas (R202, R390 to R398). -/

namespace Sys2Proof.Machine

open Sys2Proof

/-! The command register (R390). -/

def preOP (v : W64) : Nat := field 62 60 v
def prePART (v : W64) : Nat := field 59 56 v
def preLEAD (v : W64) : Nat := field 11 0 v
/-- The writable fields of the command register but GO. -/
def preFields (v : W64) : W64 := BitVec.ofNat 64 (preOP v * 2 ^ 60 + prePART v * 2 ^ 56 + preLEAD v)
/-- A refused command writes ERR and changes nothing else. -/
def preRefuse (s : State) (e : Nat) : State := modHub s (fun h => { h with preErr := e, preGo := false })
/-- The command is done. -/
def preDone (s : State) : State := modHub s (fun h => { h with preGo := false })
/-- A write of the command register: ignored while GO reads 1; with GO = 1 the operation starts. -/
def preWrite (s : State) (v : W64) (start : State → State) : State :=
  if s.hub.preGo || !regsLive s.hub then s
  else
    let s1 := modHub s (fun h => { h with preCmd := preFields v })
    if !bitAt 63 v then s1
    else if field 55 12 v ≠ 0 then preRefuse s1 4
    else start (modHub s1 (fun h => { h with preGo := true }))

/-- The span that a command names, when it stands in the given state. -/
def preSpan (s : State) (part lead : Nat) (ph : SpanPhase) : Option Span :=
  (getSpan s lead).filter (fun x => decide (x.part = part) && decide (x.phase = ph))

/-! Freezing (R202, R392). -/

/-- FREEZE (R390). PF OP 1 starts the freeze broadcast of a span. -/
def execSpanFreeze (v : W64) (s : State) : Out :=
  if preOP v ≠ 1 then .next s
  else .next (preWrite s v (fun s =>
    match preSpan s (prePART v) (preLEAD v) .running with
    | none => preRefuse s 1
    | some _ => modSpan s (preLEAD v) (fun x => { x with phase := .freezing, freezeAt := now s (preLEAD v) })))

/-- An operation of the island that a freeze need not wait for (R311). -/
def opHalted (i : Island) (o : IslandOp) : Bool :=
  decide (o.phase = 0) || (decide (o.phase = 1) && islandStopped i)
  || (decide (o.phase = 2) && (!mmaDRN o.tok || decide (mmaM o.tok ≤ o.row)))
/-- Every unit of a cluster has halted. -/
def clusterHalted (t : Nat) (c : Cluster) : Bool :=
  (amVals c.elems).all (fun e => decide (e.busy ≤ t)) && c.island.ops.all (opHalted c.island)

/-- A held read that the memory has not performed counts as not begun (R146). One of which some granules are performed goes on,
and the save waits for the rest (log 36). -/
def cancelled (q : RqEntry) : Bool := q.held && !q.done && !memWrites q.op && decide (q.results = []) && decide (q.accs ≠ [])
def freezeElem (e : Elem) : Elem :=
  { e with
    rq := e.rq.filter (fun q => !cancelled q), held := e.held && !e.rq.any cancelled, walking := false, walkFault := none }
def freezeGroup (t : Nat) (g : Group) : Group :=
  match g.st with
  | .ready => { g with st := .frozen none }
  | .waiting (.load _ _ _ _ _ _ _) => { g with st := .frozen none, since := t }
  | .waiting w => { g with st := .frozen (some w) }
  | _ => g
/-- A staging operation is staged again (R311). -/
def restage (o : IslandOp) : IslandOp :=
  if o.phase = 0 then { o with aScale := [], bScale := [], aBytes := [], bBytes := [] } else o
/-- A cluster halts: translations in progress are given up. -/
def freezeCluster (t : Nat) (c : Cluster) : Cluster :=
  { c with
    elems := amMap c.elems (fun _ e => freezeElem e)
    gens := amMap c.gens (fun _ g => { g with wf := none })
    ports := amMap c.ports (fun _ p => { p with wf := none })
    island := { c.island with ops := c.island.ops.map restage, wf := none }
    core := { c.core with grp := vec4Of (fun g => freezeGroup t (vec4Get c.core.grp g)) 0 }
    walks := [] }
/-- The clusters halt: the stores their cores have issued are performed. -/
def haltClusters (s : State) (cls : List Nat) : State :=
  cls.foldl (fun s c => modCl (flushCore s c) c (freezeCluster (now s c))) s

/-- FREEZE_COMPLETE (R392). Every unit of a Freezing span has halted and the span is Frozen; HALT holds the cycles it took,
and the layout table gets its block numbers (R249). -/
def execFreezeComplete (sp : Nat) (s : State) : Out :=
  match getSpan s sp with
  | none => .next s
  | some x =>
    if x.phase ≠ .freezing ∨ !x.clusters.all (fun c => clusterHalted (spanNow s sp) (getCl s c)) then .next s
    else
      let s1 := writeTable (haltClusters s x.clusters) sp
      let halt := now s sp - x.freezeAt
      let s2 := modSpan s1 sp (fun y => { y with
        phase := .frozen, freezeAt := now s sp
        load := y.load.map (fun l => { l with mcasts := amMap l.mcasts (fun _ m => { m with wf := none }) }) })
      .next (preDone (modHub s2 (fun h => { h with preHalt := halt })))

/-! Thawing. A frozen span keeps every count of cycles (R411), so its time stamps move by the cycles it lay frozen. -/

def shiftT (d : Int) (t : Nat) : Nat := (t + d).toNat
def shiftFlit (d : Int) (f : Flit) : Flit := { f with at_ := shiftT d f.at_ }
def shiftChan (d : Int) (c : Chan) : Chan :=
  { c with
    out := c.out.map (shiftFlit d), relAt := shiftT d c.relAt
    branches := c.branches.map (fun b => { b with
      flight := b.flight.map (shiftFlit d), buf := b.buf.map (shiftFlit d), arrAt := b.arrAt.map (shiftT d)
      popAt := (shiftT d b.popAt.1, b.popAt.2) }) }
def shiftLoad (d : Int) (l : Load) : Load :=
  { l with
    goCycle := shiftT d l.goCycle, winCycle := shiftT d l.winCycle, wdogFrom := shiftT d l.wdogFrom
    chans := amMap l.chans (fun _ c => shiftChan d c) }
/-- A group that was Ready keeps the cycles it has waited; one that waited begins to. A BAR is executed again, and its arrival
stands (R202). -/
def thawGroup (d : Int) (t : Nat) (g : Group) : Group :=
  let g1 := { g with since := if g.st = .frozen none then shiftT d g.since else t }
  match g.st with
  | .frozen (some (.barrier k i)) => { g1 with st := .ready, cut := some ⟨g.pc, k, i, false⟩ }
  | .frozen (some (.exit v)) => { g1 with st := .waiting (.exit v) }
  | .frozen (some .invr) => { g1 with st := .waiting .invr }
  | .frozen _ => { g1 with st := .ready }
  | _ => g1
def thawCluster (d : Int) (t : Nat) (c : Cluster) : Cluster :=
  { c with
    elems := amMap c.elems (fun _ e => { e with busy := shiftT d e.busy, rqLeft := (shiftT d e.rqLeft.1, e.rqLeft.2) })
    gctx := vec8Of (fun n => let g := vec8Get c.gctx n; { g with prev := g.bound }) 0
    core := { c.core with
      grp := vec4Of (fun g => thawGroup d t (vec4Get c.core.grp g)) 0, issuedAt := c.core.issuedAt.map (shiftT d) }
    limiter := { c.limiter with win := shiftT d c.limiter.win } }

/-- A Frozen span runs on. -/
def thawSpan (s : State) (sp : Nat) (x : Span) : State :=
  let d : Int := (now s sp : Int) - x.freezeAt
  let s1 := x.clusters.foldl (fun s c => modCl s c (thawCluster d (now s c))) s
  modSpan s1 sp (fun y => { y with phase := .running, load := y.load.map (shiftLoad d) })

/-- THAW (R390). PF OP 4 sets a Frozen span Running. -/
def execSpanThaw (v : W64) (s : State) : Out :=
  if preOP v ≠ 4 then .next s
  else .next (preWrite s v (fun s =>
    match preSpan s (prePART v) (preLEAD v) .frozen with
    | none => preRefuse s 1
    | some x => preDone (thawSpan s (preLEAD v) x)))

/-! Save areas (R394, R395). -/

def areaMagic : Nat := 0x56415343
def areaCSZ : Nat := 0x280000
/-- The 4 KiB header. -/
def headerBytes (shape dims part lead ncl lid crc : Nat) : List Byte :=
  bytesOf 4 areaMagic ++ bytesOf 2 1 ++ bytesOf 1 1 ++ bytesOf 1 0 ++ bytesOf 1 shape ++ bytesOf 1 dims ++ bytesOf 1 part
  ++ bytesOf 1 0 ++ bytesOf 2 lead ++ bytesOf 2 ncl ++ bytesOf 4 areaCSZ ++ bytesOf 4 crc ++ bytesOf 4 lid
  ++ List.replicate 4068 0#8

/-- The full bits of a tile: bit g of its bytes for granule g. -/
def fullBytes (y : Tile) : List Byte :=
  (List.range 512).map (fun k => BitVec.ofNat 8 ((List.range 8).foldl (fun n b => n + b2n (granFull y (8 * k + b)) * 2 ^ b) 0))
/-- The sections that software may read: tiles, then full bits. -/
def openSections (c : Cluster) : List Byte :=
  let y (t : Nat) : Tile := amGetD c.tiles t tileReset
  (List.range 32).flatMap (fun t => tileRead (y t) 0 65536) ++ (List.range 32).flatMap (fun t => fullBytes (y t))
def openSize : Nat := 0x204000
/-- The bytes of the part's own sections of record k: their layout is not given (R395). -/
def privateBytes (seed k : Nat) : List Byte :=
  (List.range (areaCSZ - openSize)).map (fun i => Config.saveByte (seed * 2 ^ 48 + k * 2 ^ 24 + i))
def recordsBytes (seed : Nat) (l : List Cluster) : List Byte :=
  (List.range l.length).flatMap (fun k => openSections (l.getD k clusterReset) ++ privateBytes seed k)
/-- The whole area of a span. -/
def areaBytes (sp : Nat) (x : Span) (seed : Nat) (l : List Cluster) : List Byte :=
  let body := recordsBytes seed l
  headerBytes x.shape (x.dw + 4 * x.dh) x.part sp l.length x.lids (crc32 body) ++ body

/-- A span is saved: the area is given, its clusters and their cached translations are let go. -/
def releaseSaved (s : State) (sp : Nat) (x : Span) : List Byte × State :=
  let (seed, s1) := takeFree s
  let l := x.clusters.map (getCl s)
  let bs := areaBytes sp x seed l
  let s2 := x.clusters.foldl (fun s c => modCl s c (fun _ => clusterReset)) s1
  (bs, modHub { s2 with spans := amMap (amDel s2.spans sp) (fun _ y => dropSaves x.clusters y), net := dropUsers x.clusters s2.net } (fun h => { h with saves := h.saves ++ [⟨seed, x, l⟩] }))

/-- The header of an area whose save is not done: its CRC is not written (R398). -/
def openHeader (sp : Nat) (x : Span) : List Byte :=
  headerBytes x.shape (x.dw + 4 * x.dh) x.part sp x.clusters.length x.lids 0

/-- SAVE (R390). PF OP 2 starts saving a frozen span to the area PRA. -/
def execSpanSave (v : W64) (s : State) : Out :=
  if preOP v ≠ 2 then .next s
  else .next (preWrite s v (fun s =>
    let pra := field 51 0 s.hub.pra
    match preSpan s (prePART v) (preLEAD v) .frozen with
    | none => preRefuse s 1
    | some x =>
      if pra % 4096 ≠ 0 ∨ 6 * 2 ^ 40 < pra + 4096 + x.clusters.length * areaCSZ then preRefuse s 2
      else modSpan (writePA s pra (openHeader (preLEAD v) x)) (preLEAD v) (fun y => { y with phase := .saving, saveArea := pra, saveBy := none })))

/-- SAVE_DONE (R391). The save area is written and the span's clusters are released. -/
def execSaveDone (sp : Nat) (s : State) : Out :=
  match getSpan s sp with
  | none => .next s
  | some x =>
    if x.phase ≠ .saving ∨ x.saveBy.isSome ∨ !spanSettled s x then .next s
    else
      let (bs, s1) := releaseSaved s sp x
      .next (preDone (writePA s1 x.saveArea bs))

/-! Restoring (R396). -/

/-- The fields of a header. -/
def hdrNat (bs : List Byte) (o n : Nat) : Nat := natOfBytes ((bs.drop o).take n)
def hdrKIND (bs : List Byte) : Nat := hdrNat bs 6 1
def hdrSPAN (bs : List Byte) : Nat := hdrNat bs 8 1
def hdrDW (bs : List Byte) : Nat := hdrNat bs 9 1 % 4
def hdrDH (bs : List Byte) : Nat := hdrNat bs 9 1 / 4 % 4
def hdrPART (bs : List Byte) : Nat := hdrNat bs 10 1
def hdrGRP (bs : List Byte) : Nat := hdrNat bs 11 1
def hdrLEAD (bs : List Byte) : Nat := hdrNat bs 12 2
def hdrNCL (bs : List Byte) : Nat := hdrNat bs 14 2
/-- Magic, version and kind. -/
def hdrOk (bs : List Byte) (kind : Nat) : Bool :=
  decide (hdrNat bs 0 4 = areaMagic) && decide (hdrNat bs 4 2 = 1) && decide (hdrKIND bs = kind)
/-- A span header, with the number of clusters its shape gives. -/
def spanHdrOk (bs : List Byte) : Bool :=
  hdrOk bs 1 && decide (hdrNat bs 16 4 = areaCSZ) && decide (hdrSPAN bs ≤ 5)
  && decide (hdrNCL bs = if hdrSPAN bs = 5 then 256 * (hdrDW bs + 1) * (hdrDH bs + 1) else shapeSize (hdrSPAN bs))
def crcOk (hdr body : List Byte) : Bool := decide (hdrNat hdr 20 4 = crc32 body)

/-- The open sections of a record give the tiles back. -/
def tileOfBytes (y : Tile) (bs full : List Byte) : Tile :=
  let y1 := tileWrite { y with bytes := amEmpty, full := amEmpty } 0 bs
  setFulls y1 true ((List.range 4096).filter (fun g => bitAt (g % 8) (full.getD (g / 8) 0#8)))
def clusterOfRecord (c : Cluster) (r : List Byte) : Cluster :=
  { c with
    tiles := ⟨(List.range 32).map (fun t => (t, tileOfBytes (amGetD c.tiles t tileReset)
      ((r.drop (65536 * t)).take 65536) ((r.drop (2 ^ 21 + 512 * t)).take 512)))⟩
    tcache := [], walks := [] }
/-- The private sections of the body are those of this save. -/
def savedAs (body : List Byte) (v : Saved) : Bool :=
  (List.range v.records.length).all (fun k =>
    decide ((body.drop (k * areaCSZ + openSize)).take (areaCSZ - openSize) = privateBytes v.seed k))

/-- Package cluster numbers follow the span to its new place. -/
def moveLoad (old new : List Nat) (l : Load) : Load :=
  let f (c : Nat) : Nat := new.getD (old.findIdx (· == c)) c
  { l with
    wdogDone := false
    mcasts := amMap l.mcasts (fun _ m => { m with cl := f m.cl, owed := m.owed.map (fun p => (p.1, f p.2)) }) }

/-- The span stands Frozen on its new clusters; its watchdog counts from here (R388). -/
def placeSaved (s : State) (v : Saved) (cls : List Nat) (body : List Byte) : State :=
  match cls with
  | [] => s
  | lead :: _ =>
    let old := v.span.clusters
    let f (c : Nat) : Nat := cls.getD (old.findIdx (· == c)) c
    let x := v.span
    let y : Span := { x with
      clusters := cls, phase := .frozen, saveBy := none
      load := x.load.map (fun l => { moveLoad old cls l with wdogFrom := x.freezeAt })
      bars := amMap x.bars (fun _ b => { b with arrived := b.arrived.map f }) }
    let s1 := (List.range cls.length).foldl (fun s k => modCl s (cls.getD k lead) (fun _ =>
      { clusterOfRecord (v.records.getD k clusterReset) ((body.drop (k * areaCSZ)).take areaCSZ) with span := some lead })) s
    modHub { s1 with spans := amPut s1.spans lead y } (fun h => { h with saves := h.saves.filter (fun w => decide (w.seed ≠ v.seed)) })

/-- The tokens that the tiles of a span hold, in the queues and relief of its channels, in reorder nodes and in the FIFO queues
that a SETUP made. -/
def tileTokens (x : Span) (tile : Nat → Nat → Tile) (l : Load) : List Token :=
  (amVals l.chans).flatMap (fun c => c.branches.flatMap (fun b =>
    (match b.queue with
      | some q => (List.range q.len).map (fun k => queueTok (tile q.cl q.tile) q.base ((q.head + k) % q.cap))
      | none => [])
    ++ (List.range b.rlen).filterMap (fun i => (areaPlace b (b.rhead + i)).map (fun p => queueTok (tile p.1.1 p.1.2.1) p.1.2.2 p.2))
    ++ b.spots.filterMap (fun p => p.map (fun q => queueTok (tile q.1.1 q.1.2.1) q.1.2.2 q.2))))
def fifoTokens (c : Cluster) (tile : Nat → Tile) : List Token :=
  c.gens.entries.flatMap (fun p =>
    if agMode p.2.desc = 1 then (List.range p.2.len).map (fun k =>
      queueTok (tile (p.1 / 4)) (agBASE p.2.desc) ((p.2.head + k) % max 1 ((agSIZE p.2.desc + 1) / 3))) else [])
/-- Check 11 of R80 on a save area: the tokens in its tile sections have LN ≤ 8 and no reserved header bit (R76). -/
def restoredOk (v : Saved) (body : List Byte) : Bool :=
  let cl (k : Nat) : Cluster := clusterOfRecord (v.records.getD k clusterReset) ((body.drop (k * areaCSZ)).take areaCSZ)
  let tile (k t : Nat) : Tile := amGetD (cl k).tiles t tileReset
  ((v.span.load.elim [] (tileTokens v.span tile))
    ++ (List.range v.records.length).flatMap (fun k => fifoTokens (cl k) (tile k))).all (presetOk false)

/-- What a restore finds: 1 no such span, 2 the area malformed, 3 the target not free. -/
inductive Restore where
  | err (n : Nat)
  | ok (s : State)
  deriving DecidableEq, Repr

/-- The checks of R396, in its order, for a target lead cluster; a token that check 11 of R80 refuses makes the area malformed. -/
def tryRestore (s : State) (part target : Nat) (hdr body : List Byte) : Restore :=
  if !spanHdrOk hdr || !crcOk hdr body || decide (hdrPART hdr ≠ part) then .err 2
  else
    match s.hub.saves.find? (savedAs body) with
    | none => .err 1
    | some v =>
      if !restoredOk v body then .err 2
      else match (List.range (placeCount (hdrSPAN hdr))).findSome? (fun k =>
        (placeOf (hdrSPAN hdr) (hdrDW hdr) (hdrDH hdr) k).filter (fun c => decide (c.head? = some target))) with
      | none => .err 3
      | some cls =>
        if !freeAll s cls || !ownedAll (getPart s part) cls || decide (cls.length ≠ v.records.length) then .err 3
        else .ok (placeSaved s v cls body)

/-- RESTORE (R396). PF OP 3 checks a save area and restores it Frozen on a free span. -/
def execSpanRestore (v : W64) (s : State) : Out :=
  if preOP v ≠ 3 then .next s
  else .next (preWrite s v (fun s =>
    let pra := field 51 0 s.hub.pra
    let hdr := readPA s pra 4096
    if pra % 4096 ≠ 0 ∨ !spanHdrOk hdr ∨ 6 * 2 ^ 40 < pra + 4096 + hdrNCL hdr * areaCSZ then preRefuse s 2
    else
      match tryRestore s (prePART v) (preLEAD v) hdr (readPA s (pra + 4096) (hdrNCL hdr * areaCSZ)) with
      | .err n => preRefuse s n
      | .ok t => preDone t))

/-! CTXSV and CTXLD (R200, R397). The area is virtual memory of the executing group (log 44). -/

/-- The bytes of the group's virtual space that an engine reads by its own walks. -/
def areaWords (s : State) (need va bytes : Nat) : VAcc (List Nat) :=
  hubWords s (partOfCl s s.cur.cl) (getCl s s.cur.cl).core.ptbr (curGrp s).asid need (bytes / 4) va

/-- The lines that translating and reading an area takes into the die's L2 (R296). -/
def areaTouch (s : State) (va bytes : Nat) (pas : List Nat) : State :=
  touchLines s s.cur.cl ((List.range ((bytes + 4095) / 4096)).flatMap (fun k =>
    walkReads s (partOfCl s s.cur.cl) (getCl s s.cur.cl).core.ptbr (curGrp s).asid ((va + 4096 * k) % 2 ^ 52)) ++ pas)

/-- The span that the executing group saves: a Frozen one, or the one whose save it has begun (R391). -/
def saveSpan (s : State) (lead : Nat) : Option Span :=
  let part := partOfCl s s.cur.cl
  match preSpan s part lead .frozen with
  | some x => some x
  | none => (preSpan s part lead .saving).filter (fun x => decide (x.saveBy = some (s.cur.cl, s.cur.grp)))
/-- The span stands in Saving while its area is written. -/
def beginSave (s : State) (lead : Nat) : State :=
  modSpan s lead (fun y => { y with phase := .saving, saveBy := some (s.cur.cl, s.cur.grp) })
/-- The instruction is not begun: the span is Frozen. -/
def undoSave (s : State) (lead : Nat) : State := modSpan s lead (fun y => { y with phase := .frozen, saveBy := none })

/-- CTXSV (R200). Control core saves a frozen span to a save area, whose header names the span; the span stands in Saving
until it is settled and its area is written. -/
def execCtxsv (a : BitVec 5) (s : State) : Out :=
  let va := (xget (curGrp s) a).toNat % 2 ^ 52
  .next (superOnly s (
    if va % 4096 ≠ 0 then illegal s 11
    else
      let s := releaseCur s 3
      match areaWords s 1 va 4096 with
      | .miss v => takeTrap s ⟨1, 0, 0, v⟩
      | .fault c v => takeTrap s ⟨c, 0, 0, v⟩
      | .ok pas =>
        let s := areaTouch s va 4096 pas
        let lead := hdrLEAD (wordsRead s pas)
        match saveSpan s lead with
        | none => illegal s 6
        | some x =>
          match areaWords s 2 va (4096 + x.clusters.length * areaCSZ) with
          | .miss v => takeTrap (undoSave s lead) ⟨1, 0, 0, v⟩
          | .fault c v => takeTrap (undoSave s lead) ⟨c, 0, 0, v⟩
          | .ok pas =>
            let s := areaTouch s va (4096 + x.clusters.length * areaCSZ) []
            if !spanSettled s x then
              modCur (writeWords (beginSave s lead) (pas.take 1024) (openHeader lead x)) (waitFor (.save lead))
            else
              let (bs, s1) := releaseSaved s lead x
              skip (writeWords s1 pas bs) 4))

/-- A group area: x0 to x31, PC, STATUS, EPC, CAUSE, TVAL, SCR and the base class, 8 bytes each. -/
def groupOfBytes (bs : List Byte) (t : Nat) (g : Group) : Group :=
  let w (i : Nat) : W64 := BitVec.ofNat 64 (hdrNat bs (8 * i) 8)
  { g with
    x := vec32Of w, pc := BitVec.ofNat 52 ((w 32).toNat / 4 * 4), status := BitVec.ofNat 64 (field 3 0 (w 33)), epc := w 34
    cause := setField 62 32 (w 35) 0, tval := w 36, scr := w 37, base := field 1 0 (w 38), aged := 0, since := t, st := .ready }

/-- The Stopped group that a group area names goes on. -/
def restoreGroup (s : State) (hdr body : List Byte) : State :=
  let lead := hdrLEAD hdr
  let g := hdrGRP hdr
  if !crcOk hdr body || decide (hdrPART hdr ≠ partOfCl s s.cur.cl) || decide (4 ≤ g) then illegal s 11
  else if (getGrp s lead g).st ≠ .stopped ∨ partOfCl s lead ≠ partOfCl s s.cur.cl then illegal s 6
  else skip (modGrp s lead g (groupOfBytes body (now s lead))) 4

/-- CTXLD (R200). Control core restores a span, on the lead cluster its area names, or a Stopped group from a save area. -/
def execCtxld (a : BitVec 5) (s : State) : Out :=
  let va := (xget (curGrp s) a).toNat % 2 ^ 52
  .next (superOnly s (
    if va % 4096 ≠ 0 then illegal s 11
    else
      let s := releaseCur s 3
      match areaWords s 1 va 4096 with
      | .miss v => takeTrap s ⟨1, 0, 0, v⟩
      | .fault c v => takeTrap s ⟨c, 0, 0, v⟩
      | .ok pas =>
        let s := areaTouch s va 4096 pas
        let hdr := wordsRead s pas
        let size := if hdrOk hdr 2 then 312 else hdrNCL hdr * areaCSZ
        if !hdrOk hdr 2 && !spanHdrOk hdr then illegal s 11
        else
          match areaWords s 1 (va + 4096) size with
          | .miss v => takeTrap s ⟨1, 0, 0, v⟩
          | .fault c v => takeTrap s ⟨c, 0, 0, v⟩
          | .ok body =>
            let s := areaTouch s (va + 4096) size body
            if hdrOk hdr 2 then restoreGroup s hdr (wordsRead s body)
            else
              match tryRestore s (partOfCl s s.cur.cl) (hdrLEAD hdr) hdr (wordsRead s body) with
              | .err 2 => illegal s 11
              | .err _ => illegal s 6
              | .ok t => skip t 4))

end Sys2Proof.Machine
end

