-- ==== Sys2Proof/Machine/HostRegs.lean ====
section
/-! DEFINITION. The host's side: memory accesses, partition and queue registers, slices, counters, exclusions
(R354 to R369, R378, R383, R414, R421 to R426). -/

namespace Sys2Proof.Machine

open Sys2Proof

/-! Memory (R296, R297, R355). -/

/-- One byte as the host sees it. -/
def State.hostByte (s : State) (pa : Nat) : Byte := (alGet s.lag pa).getD (s.byte pa)
def hostBytes (s : State) (pa n : Nat) : List Byte := (List.range n).map (fun k => s.hostByte (pa + k))

/-- A committed HDM decoder holds a host address. -/
def inHdm (a : Nat) (d : Hdm) : Bool := decide (d.base ≤ a ∧ a < d.base + d.size)
/-- The physical address of a host address: an HDM decoder makes it device memory, or it is the host's own (R354, R355). -/
def hostPA (h : Hub) (a : Nat) : Nat :=
  match (amVals h.hdm).find? (inHdm a) with
  | some d => d.dpa + (a - d.base)
  | none => 2 ^ 51 + a
/-- What an access touches of each of its 64-byte lines: the first host address and the count of bytes. -/
def linePieces (a n : Nat) : List (Nat × Nat) :=
  (linesOf a n).map (fun l => (max a (64 * l), min (a + n) (64 * l + 64) - max a (64 * l)))
/-- A host write: every copy is back-invalidated, then it is performed at system scope (R235, R355). -/
def hostWrite (s : State) (pa : Nat) (bs : List Byte) : State := hubWrite s pa bs

/-- A decoder of 256 MiB granularity that maps to existing device memory and overlaps no other (R354, R355). -/
def hdmOk (h : Hub) (i : Nat) (d : Hdm) : Bool :=
  decide (i < 16) && decide (d.base % 2 ^ 28 = 0) && decide (d.size % 2 ^ 28 = 0) && decide (d.dpa % 2 ^ 28 = 0)
  && decide (d.base + d.size ≤ 2 ^ 51) && decide (d.dpa + d.size ≤ 6 * 2 ^ 40)
  && h.hdm.entries.all (fun e => decide (e.1 = i) || decide (e.2.base + e.2.size ≤ d.base) || decide (d.base + d.size ≤ e.2.base))

/-- Only configuration space, DOE and BSTAT answer in Locked (R407). -/
def answers (h : Hub) : Bool := decide (h.boot ≠ .locked)
/-- The answer to a host request. -/
def respond (s : State) (bs : List Byte) : State := modHub s (fun h => { h with responses := h.responses ++ [bs] })

/-- The host reads `n` bytes at its address `a`. -/
def hostRead (a n : Nat) (s : State) : Out :=
  let ps := (linePieces a n).map (fun p => (hostPA s.hub p.1, p.2))
  if n = 0 then .next s
  else if !ps.all (fun p => paExists p.1) then .fault (.noSuchAddress a)
  else .next (respond s (ps.flatMap (fun p => if answers s.hub || decide (2 ^ 51 ≤ p.1) then hostBytes s p.1 p.2 else List.replicate p.2 0#8)))
/-- The host writes bytes at its address `a`. -/
def hostStore (a : Nat) (data : List Byte) (s : State) : Out :=
  let ps := (linePieces a data.length).map (fun p => (hostPA s.hub p.1, (data.drop (p.1 - a)).take p.2))
  if data = [] then .next s
  else if !ps.all (fun p => paExists p.1) then .fault (.noSuchAddress a)
  else .next (ps.foldl (fun s p => if answers s.hub || decide (2 ^ 51 ≤ p.1) then hostWrite s p.1 p.2 else s) s)
/-- The host commits an HDM decoder; one of size 0 is taken back. -/
def hostDecoder (i base size dpa : Nat) (s : State) : Out :=
  if !answers s.hub || !hdmOk s.hub i ⟨base, size, dpa⟩ then .next s
  else .next (modHub s (fun h => { h with hdm := if size = 0 then amDel h.hdm i else amPut h.hdm i ⟨base, size, dpa⟩ }))

/-- HOST_COHERENCE_REQUEST (R297). A host coherence request acts on a host line cached in a home slice: an exclusive one
invalidates it, a shared one leaves it. One of a line of device memory is served alike (log 47). -/
def execHostCoherenceRequest (line : Nat) (excl : Bool) (s : State) : Out :=
  if !paExists (64 * line) then .fault (.noSuchAddress (64 * line))
  else .next (if excl then dirClear s line else s)

/-! Launch queues (R363, R364). -/

def vfOk (vf q : Nat) : Bool := decide (1 ≤ vf ∧ vf ≤ 16) && decide (q < 32)

/-- More records than the ring holds. -/
def overRun (Q : LQueue) : Bool := decide (2 ^ qLOGN Q < (qTAIL Q + 65536 - Q.qhead) % 65536)
/-- A queue that becomes ready waits as a head from now on. -/
def headFrom (t : Nat) (old : Bool) (Q : LQueue) : LQueue := if qReady Q && !old then { Q with since := t } else Q

/-- DOORBELL (R364). A QTAIL write marks launch records ready; a partition that is not enabled takes none. -/
def execDoorbell (vf q : Nat) (v : W64) (s : State) : Out :=
  if !vfOk vf q || !regsLive s.hub || !partEnabled s.hub (vf - 1) then .next s
  else
    .next (modQueue s (vf - 1) q (fun Q =>
      let Q1 := { Q with qtail := BitVec.ofNat 64 (field 15 0 v) }
      if overRun Q1 then stopQueue Q1 else headFrom (hubNow s) (qReady Q) Q1))

/-- What R363 asks of a write with EN = 1. -/
def qcfgOk (P : Partition) (Q : LQueue) (v : W64) : Bool :=
  decide (field 62 60 v = 0) && decide (field 55 50 v = 0) && decide (field 47 42 v = 0) && decide (field 31 16 v = 0)
  && decide (4 ≤ field 59 56 v ∧ field 59 56 v ≤ 12) && decide (field 41 32 v ≤ 119) && asidOwned P (field 15 0 v)
  && decide (Q.qbase.toNat % (32 * 2 ^ field 59 56 v) = 0) && decide (Q.cqbase.toNat % (16 * 2 ^ field 59 56 v) = 0)
/-- The fields of the queue configuration register. -/
def qcfgMask (v : W64) : W64 :=
  BitVec.ofNat 64 (field 63 63 v * 2 ^ 63 + field 59 56 v * 2 ^ 56 + field 49 48 v * 2 ^ 48 + field 41 32 v * 2 ^ 32 + field 15 0 v)

/-- QUEUE_ENABLE (R363). A write of the queue configuration enables or disables a launch queue. -/
def execQueueEnable (vf q : Nat) (v : W64) (s : State) : Out :=
  if !vfOk vf q || !regsLive s.hub then .next s
  else
    let P := getPart s (vf - 1)
    .next (modQueue s (vf - 1) q (fun Q =>
      if bitAt 63 v && !qcfgOk P Q v then stopQueue { Q with qcfg := qcfgMask v }
      else headFrom (hubNow s) (qReady Q) { Q with qcfg := qcfgMask v }))

/-! The partition block (R357 to R362). -/

/-- A write is refused: the register keeps its value and PSTAT.ERR says why. -/
def refuse (s : State) (p e : Nat) : State := modPart s p (fun P => { P with perr := e })
/-- A span of the partition is resident on a die (DRES). -/
def residentOn (s : State) (p d : Nat) : Bool :=
  (amVals s.spans).any (fun x => decide (x.part = p) && x.clusters.any (fun c => decide (dieOf c = d)))
/-- Units of a die may be assigned: it has trained, and in Die-0 service it is die 0 (R406, R410). -/
def trained (h : Hub) (d : Nat) : Bool := h.dtrn.testBit d && (decide (h.boot ≠ .die0) || decide (d = 0))
/-- HOLD is set and no span is resident. -/
def heldFree (s : State) (p d : Nat) : Bool := holdsDie (getPart s p) d && !residentOn s p d
/-- What other partitions hold under a key of one of their maps. -/
def othersHold (s : State) (p : Nat) (f : Partition → AMap W64) (key : Nat) (m : W64) : Bool :=
  (List.range 16).any (fun q => decide (q ≠ p) && decide (amGetD (f (getPart s q)) key 0#64 &&& m ≠ 0#64))

def sliceSt (h : Hub) (d i : Nat) : SliceSt := amGetD h.slices (sliceKey d i) .clean
def setSlice (s : State) (d i : Nat) (x : SliceSt) : State :=
  modHub s (fun h => { h with slices := amPutD h.slices (sliceKey d i) x .clean })

/-- A slice removed from a partition on a die is not yet Clean. -/
def unclean (h : Hub) (p d : Nat) : Bool :=
  (List.range 192).any (fun i => decide (sliceSt h d i = .dirty p) || decide (sliceSt h d i = .flushing p))

/-- PCTL of a partition takes a value, or the write is refused (R357, R358, R410). -/
def writePctl (s : State) (part : Nat) (v : W64) : State :=
  let P := getPart s part
  let cleared := (List.range 12).filter (fun d => holdsDie P d && !bitAt (16 + d) v)
  if field 63 28 v ≠ 0 ∨ field 15 1 v ≠ 0 then refuse s part 4
  else if s.hub.boot = .die0 ∧ bitAt 0 v ∧ part ≠ 0 then refuse s part 4
  else if cleared.any (unclean s.hub part) then refuse s part 6
  else if cleared.any (fun d => decide (amGetD P.pqmsk d 0#64 ≠ 0#64) && decide (slicesOf P d = [])) then refuse s part 4
  else modPart s part (fun P => { P with pctl := v })

/-- PCTL_WRITE (R357, R358, R410). A PCTL write sets HOLD and EN of a partition. -/
def execPctlWrite (part : Nat) (v : W64) (s : State) : Out :=
  .next (if !regsLive s.hub || decide (16 ≤ part) then s else writePctl s part v)

/-- A directory mask without some slices of a die. -/
def maskWithout (d : Nat) (l : List Nat) (m : Nat) : Nat :=
  l.foldl (fun m i => if m.testBit (sliceKey d i) then m - 2 ^ sliceKey d i else m) m
/-- The lines that slices of a die hold are written back and invalidated. -/
def dropSlices (s : State) (d : Nat) (l : List Nat) : State :=
  { s with dir := amFilter (amMap s.dir (fun _ m => maskWithout d l m)) (fun _ m => decide (m ≠ 0)) }

/-- PSLC_WRITE (R357 to R359, R425). A PSLC write writes back kept slices and changes the partition's slice list. -/
def execPslcWrite (part die word : Nat) (v : W64) (s : State) : Out :=
  if !regsLive s.hub || decide (16 ≤ part) || decide (12 ≤ die) || decide (3 ≤ word) then .next s
  else
    let P := getPart s part
    let key := 4 * die + word
    let old := amGetD P.pslc key 0#64
    let add := v &&& ~~~old
    let gone := old &&& ~~~v
    let P1 := { P with pslc := amPutD P.pslc key v 0#64 }
    if !trained s.hub die then .next (refuse s part 4)
    else if !heldFree s part die then .next (refuse s part 3)
    else if othersHold s part (·.pslc) key add then .next (refuse s part 1)
    else if (onesOf 64 add.toNat).any (fun i => decide (sliceSt s.hub die (64 * word + i) ≠ .clean)) then .next (refuse s part 2)
    else if amGetD s.hub.xslc key 0#64 &&& add ≠ 0#64 then .next (refuse s part 4)
    else if amGetD P.pqmsk die 0#64 ≠ 0#64 ∧ slicesOf P1 die = [] then .next (refuse s part 4)
    else
      let s1 := (onesOf 64 add.toNat).foldl (fun s i => setSlice s die (64 * word + i) (.owned part))
        (dropSlices s die ((slicesOf P die).filter (fun i => i ∈ slicesOf P1 die)))
      let s2 := (onesOf 64 gone.toNat).foldl (fun s i => setSlice s die (64 * word + i) (.dirty part)) s1
      .next (modPart s2 part (fun P => { P with pslc := amPutD P.pslc key v 0#64 }))

/-- PARTITION_BLOCK_WRITE (R357, R361, R425). A PF write to PQMSK, SEED, a window or the ASID range takes effect or is
refused with PSTAT.ERR. -/
def execPartitionBlockWrite (part off : Nat) (v : W64) (s : State) : Out :=
  if !regsLive s.hub || decide (16 ≤ part) || decide (off % 8 ≠ 0) then .next s
  else
    let P := getPart s part
    if off < 0x60 then
      let d := off / 8
      let add := v &&& ~~~(amGetD P.pqmsk d 0#64)
      if !trained s.hub d then .next (refuse s part 4)
      else if !heldFree s part d then .next (refuse s part 3)
      else if othersHold s part (·.pqmsk) d v then .next (refuse s part 1)
      else if amGetD s.hub.xqmsk d 0#64 &&& add ≠ 0#64 then .next (refuse s part 4)
      else .next (modPart s part (fun P => { P with pqmsk := amPutD P.pqmsk d v 0#64 }))
    else if 0x100 ≤ off ∧ off < 0x280 ∧ (off - 0x100) % 32 = 24 then
      let d := (off - 0x100) / 32
      if field 63 32 v ≠ 0 then .next (refuse s part 4)
      else if !heldFree s part d then .next (refuse s part 3)
      else .next (modPart s part (fun P => { P with seed := amPutD P.seed d v 0#64 }))
    else if 0x300 ≤ off ∧ off < 0x400 then
      let w := (off - 0x300) / 16
      if off % 16 = 0 then
        if field 63 52 v ≠ 0 ∨ field 29 1 v ≠ 0 then .next (refuse s part 4)
        else .next (modPart s part (fun P => { P with wbase := amPutD P.wbase w v 0#64 }))
      else if v.toNat < 1 ∨ 6144 < v.toNat then .next (refuse s part 4)
      else .next (modPart s part (fun P => { P with wsize := amPutD P.wsize w v 0#64 }))
    else if off = 0x400 then
      let b := field 15 0 v
      let n := field 31 16 v
      let clash := (List.range 16).any (fun q =>
        let R := getPart s q
        decide (q ≠ part) && decide (n ≠ 0) && decide (field 31 16 R.asid ≠ 0)
          && decide (b < field 15 0 R.asid + field 31 16 R.asid) && decide (field 15 0 R.asid < b + n))
      if field 63 32 v ≠ 0 ∨ 65536 < b + n then .next (refuse s part 4)
      else if clash then .next (refuse s part 5)
      else .next (modPart s part (fun P => { P with asid := v }))
    else .next s

/-! Slices (R359, R360). -/

def slcmdOf (h : Hub) (d : Nat) : W64 := amGetD h.slcmd d 0#64
def slcGO (h : Hub) (d : Nat) : Bool := bitAt 63 (slcmdOf h d)
def slcSL (h : Hub) (d : Nat) : Nat := field 7 0 (slcmdOf h d)

/-- SLICE_FLUSH (R360). SLCMD GO starts a flush of a Dirty slice; a write while GO reads 1 is ignored. -/
def execSliceFlush (die : Nat) (v : W64) (s : State) : Out :=
  if !regsLive s.hub || decide (12 ≤ die) || slcGO s.hub die then .next s
  else
    let sl := field 7 0 v
    let put (go : Bool) : State := modHub s (fun h => { h with slcmd := amPutD h.slcmd die (BitVec.ofNat 64 (b2n go * 2 ^ 63 + sl)) 0#64 })
    match bitAt 63 v && decide (sl < 192), sliceSt s.hub die sl with
    | true, .dirty p => .next (setSlice (put true) die sl (.flushing p))
    | _, _ => .next (put false)

/-- FLUSH_DONE (R359). A flushing slice becomes Clean: its lines have reached memory and are invalidated, and GO clears. -/
def execFlushDone (die : Nat) (s : State) : Out :=
  if !slcGO s.hub die then .next s
  else
    let sl := slcSL s.hub die
    .next (modHub (setSlice (dropSlices s die [sl]) die sl .clean) (fun h => { h with slcmd := amPutD h.slcmd die (BitVec.ofNat 64 sl) 0#64 }))

/-! Other registers. -/

/-- PARTITION_INTERRUPT_ACK (R383). A PIACK write acknowledges the partition interrupt and clears SY.ESC of every core of
the partition: those of its quads, of its spans and of its saved spans. -/
def execPartitionInterruptAck (vf : Nat) (v : W64) (s : State) : Out :=
  if !vfOk vf 0 || !regsLive s.hub || !bitAt 0 v then .next s
  else
    let p := vf - 1
    let P := getPart s p
    let mine (c : Nat) : Bool := (getCl s c).span.any (fun sp => (getSpan s sp).any (fun x => decide (x.part = p)))
    let s1 := { s with clusters := amMap s.clusters (fun k c =>
      if ownsCl P k || mine k then { c with core := { c.core with esc := false } } else c) }
    .next (modHub (modPart s1 p (fun P => { P with intr := false })) (fun h => { h with saves := h.saves.map (fun w =>
      if w.span.part = p then { w with records := w.records.map (fun c => { c with core := { c.core with esc := false } }) } else w) }))

/-- DCSEL_WRITE (R421). A DCSEL write selects a die counter source and clears the counter; a source that is reserved or no
die's is ignored, and so is a write in the cycle in which a CNT sets the counter: one that comes first in that cycle is undone
by the CNT. -/
def execDcselWrite (die n : Nat) (v : W64) (s : State) : Out :=
  let src := field 15 0 v
  let t := cycleOf s die
  let c := dieCounter s die n
  if !regsLive s.hub || decide (12 ≤ die) || decide (32 ≤ n) || !sourceOk true src || decide (c.setAt = some t) then .next s
  else
    let b := counterAt t c
    .next (setDieCounter s die n ⟨src, 0#64, none, some (t, b.src, b.val)⟩)

/-- EXCLUSION_WRITE (R425). An XQMSK or XSLC write excludes units and writes a record for each; exclusions stay until a
package reset. -/
def execExclusionWrite (off : Nat) (v : W64) (s : State) : Out :=
  if !regsLive s.hub || decide (off % 8 ≠ 0) then .next s
  else if 0x500 ≤ off ∧ off < 0x560 then
    let d := (off - 0x500) / 8
    let old := amGetD s.hub.xqmsk d 0#64
    let s1 := modHub s (fun h => { h with xqmsk := amPutD h.xqmsk d (old ||| v) 0#64 })
    .next ((onesOf 64 (v &&& ~~~old).toNat).foldl (fun s q => fleetRecord s 7 0xFF d 0xFFF (1 + 256 * q) 0 0) s1)
  else if 0x600 ≤ off ∧ off < 0x780 ∧ (off - 0x600) % 32 < 24 then
    let d := (off - 0x600) / 32
    let j := (off - 0x600) % 32 / 8
    let old := amGetD s.hub.xslc (4 * d + j) 0#64
    let s1 := modHub s (fun h => { h with xslc := amPutD h.xslc (4 * d + j) (old ||| v) 0#64 })
    .next ((onesOf 64 (v &&& ~~~old).toNat).foldl (fun s i => fleetRecord s 7 0xFF d 0xFFF (2 + 256 * (64 * j + i)) 0 0) s1)
  else .next s

/-- The partition registers without behaviour of their own, whose reserved bits are ignored (R2, R357, R362, R383, R417, R426). -/
def writePartReg (s : State) (p off : Nat) (v : W64) : State :=
  match off with
  | 0x410 => modPart s p (fun P => { P with perr := P.perr &&& (15 ^^^ field 63 60 v) })
  | 0x418 => modPart s p (fun P => { P with rsta := v &&& 0xFFFFFFFFFFFFF#64 })
  | 0x420 => if 119 < field 6 0 v then refuse s p 4 else modPart s p (fun P => { P with pivec := v &&& 0x7F#64 })
  | 0x428 => modPart s p (fun P => { P with cmpt := v &&& 0xBFFFFFFFFFFFFFFF#64 })
  | 0x430 => modPart s p (fun P => { P with prcap := v &&& 0xFFFFFFFF#64 })
  | 0x438 => modPart s p (fun P => { P with cptbr := v &&& 0xFFFFFFFFFF000#64 })
  | 0x440 => modPart s p (fun P => { P with ctvec := v &&& 0xFFFFFFFFFFFFC#64 })
  | 0x448 => modPart s p (fun P => { P with clspb := v &&& 0xFFFFFFFFFFFE0#64 })
  | 0x450 => modPart s p (fun P => { P with clspn := v &&& 0xFFFFFFFF#64 })
  | 0x458 => modPart s p (fun P => { P with csup := v &&& 0xFFFFFFFF0000000F#64 })
  | _ => s

/-- The command register without a start: its fields are stored, and a reserved OP is refused (R390). -/
def writePreReg (s : State) (v : W64) : State :=
  if bitAt 63 v && decide (1 ≤ preOP v ∧ preOP v ≤ 4) then s
  else preWrite s v (fun s => preRefuse s 4)

/-- The other PF registers that only store (R2, R378, R390, R414, R422 to R424). -/
def writePfReg (s : State) (off : Nat) (v : W64) : State :=
  let va := BitVec.ofNat 64 (field 51 0 v)
  match off with
  | 0x200 => modHub s (fun h => if h.invGo then h else { h with inva := va })
  | 0x208 => modHub s (fun h => if h.invGo then h else { h with invn := va })
  | 0x400 => writePreReg s v
  | 0x408 => modHub s (fun h => { h with pra := va })
  | 0x410 => modHub s (fun h => { h with preErr := h.preErr &&& (15 ^^^ field 63 60 v) })
  | 0x800 => modHub s (fun h => { h with frbase := va })
  | 0x808 => modHub s (fun h => { h with frctl := BitVec.ofNat 64 (field 63 63 v * 2 ^ 63 + field 47 40 v * 2 ^ 40 + field 3 0 v) })
  | 0x810 => modHub s (fun h => { h with frhead := field 31 0 v })
  | 0x818 => modHub s (fun h => { h with frlost := h.frlost &&& (0xFFFFFFFF ^^^ field 63 32 v) })
  | 0x2180 => modHub s (fun h => { h with lthr := BitVec.ofNat 32 (field 31 0 v) })
  | o =>
    if 0x2000 ≤ o ∧ o < 0x2180 then
      let n := (o - 0x2000) / 8
      let k := amGetD s.hub.links n linkReset
      modHub s (fun h => { h with links := amPut h.links n { k with fdn := bitAt 57 v } })
    else if 0x3000 ≤ o ∧ o < 0x4000 ∧ o % 256 = 8 then
      let g := (o - 0x3000) / 256
      modHub s (fun h =>
        let G := amGetD h.groups g cgroupReset
        if G.en then h else { h with groups := amPut h.groups g { G with lmsk := BitVec.ofNat 64 (field 47 0 v) } })
    else if 0x10000 ≤ o ∧ o < 0x20000 then writePartReg s ((o - 0x10000) / 4096) (o % 4096) v
    else s

/-- The queue registers of a VF that only store (R363). -/
def writeVfReg (s : State) (p off : Nat) (v : W64) : State :=
  let q := off / 256
  if 32 ≤ q then s
  else
    match off % 256 with
    | 0x00 => modQueue s p q (fun Q => { Q with qbase := BitVec.ofNat 64 (field 51 0 v) })
    | 0x10 => modQueue s p q (fun Q => { Q with cqbase := BitVec.ofNat 64 (field 51 0 v) })
    | 0x20 => modQueue s p q (fun Q => { Q with qerr := Q.qerr && !bitAt 63 v })
    | _ => s

/-- REGISTER_WRITE (R2). A write to a register with no behaviour of its own stores its value: function 0 is the PF, 1 to 16
are the VFs; an offset that names no such register is ignored. -/
def execRegisterWrite (fn off : Nat) (v : W64) (s : State) : Out :=
  if !regsLive s.hub || decide (off % 8 ≠ 0) then .next s
  else if fn = 0 then .next (writePfReg s off v)
  else if fn ≤ 16 then .next (writeVfReg s (fn - 1) off v)
  else .next s

/-! VF reset (R369). -/

/-- A queue after the reset: disabled, empty. -/
def resetQueue (Q : LQueue) : LQueue :=
  { Q with qcfg := setBit 63 Q.qcfg false, qtail := 0#64, qhead := 0 }

/-- An element's stores that have been issued are performed (R146). -/
def plainStore (e : Elem) (q : RqEntry) : Bool :=
  memWrites q.op && !accReads q.op && decide (slotOpOf (vec16Get e.slots q.slotNo) ≠ 0xA7)
def performRest (s : State) (cl : Nat) (q : RqEntry) : State :=
  (((q.accs.map accGran).dedup).foldl (fun p g => performGranule p.1 cl p.2 g) (s, q)).1
def flushStores (s : State) (cl : Nat) (e : Elem) : State :=
  (e.rq.filter (plainStore e)).foldl (fun s q => performRest s cl q) s

/-- A scatter or atomic that was under way. -/
def partWrite (e : Elem) (q : RqEntry) : Bool := memWrites q.op && !plainStore e q && decide (q.accs ≠ [])
/-- An entry of the reset record. -/
def recEntry (cl unit n applied mask : Nat) : List Byte :=
  bytesOf 4 (cl % 256 + dieOf cl * 2 ^ 12 + unit * 2 ^ 16 + n * 2 ^ 23) ++ bytesOf 4 applied ++ bytesOf 4 mask ++ bytesOf 4 0
/-- The entries of a cluster: its elements in order, then its ports; a stream's writes stop at the last whole granule. -/
def clusterEntries (s : State) (cl : Nat) : List (List Byte) :=
  let c := getCl s cl
  c.elems.entries.flatMap (fun p =>
    (p.2.rq.filter (partWrite p.2)).map (fun q =>
      let lanes := if q.sink then [] else q.results.map Prod.fst
      recEntry cl p.1 q.slotNo lanes.length (lanes.foldl (fun m l => m ||| 2 ^ l) 0)))
  ++ c.ports.entries.flatMap (fun p =>
    (p.2.q.take 1).filterMap (fun st =>
      if st.kind = 1 ∨ st.kind = 4 then some (recEntry cl 0x7F p.1 (st.done - st.hold.length) 0) else none))
/-- The reset record: a 64-byte header with the count, then the entries. -/
def resetRecord (es : List (List Byte)) : List Byte := bytesOf 4 es.length ++ List.replicate 60 0#8 ++ es.flatten

/-- A span is frozen and discarded; the child that a queue started gets its entry. An INVR in progress runs to its
acknowledgement (R202), for which nobody waits any more; a command of the PF that freezes or saves the span is over. -/
def discardSpan (s : State) (p sp : Nat) (x : Span) : State :=
  let s1 := x.clusters.foldl (fun s c =>
    (amVals (getCl s c).elems).foldl (fun s e => flushStores s c e) (flushCore s c)) s
  let s2 := modHub s1 (fun h => { h with invals := h.invals.map (fun v =>
    if v.who.any (fun w => decide (w.1 ∈ x.clusters)) then { v with dropped := true } else v) })
  let s3 := { s2 with spans := amMap (amDel s2.spans sp) (fun _ y => dropSaves x.clusters y), net := dropUsers x.clusters s2.net }
  let s4 := x.clusters.foldl (fun s c => modCl s c (fun k => { clusterReset with tcache := k.tcache, counters := k.counters })) s3
  let s5 := if decide (x.phase = .freezing) || (decide (x.phase = .saving) && x.saveBy.isNone) then preDone s4 else s4
  match x.fromQueue with
  | some (q, i) => writeCompletion s5 p q i 3 0#64
  | none => s5
/-- A Saved span of the partition ends in the same way. -/
def discardSaved (s : State) (p : Nat) (w : Saved) : State :=
  match w.span.fromQueue with
  | some (q, i) => writeCompletion s p q i 3 0#64
  | none => s

/-- What one partition holds is discarded; its transactions are pending until the reset record is written. -/
def discardPart (s : State) (p : Nat) : State :=
    let s1 := modPart s p (fun P => { P with queues := amMap P.queues (fun _ Q => resetQueue Q), pool := [], spill := [], reserved := [] })
    let mine := s1.spans.entries.filter (fun e => decide (e.2.part = p))
    let es := mine.flatMap (fun e => e.2.clusters.flatMap (clusterEntries s1))
    let s2 := mine.foldl (fun s e => discardSpan s p e.1 e.2) s1
    let s3 := (s2.hub.saves.filter (fun w => decide (w.span.part = p))).foldl (fun s w => discardSaved s p w) s2
    let s4 := modHub s3 (fun h => { h with
      saves := h.saves.filter (fun w => decide (w.span.part ≠ p)), colls := amFilter h.colls (fun _ c => decide (c.part ≠ p))
      served := amFilter h.served (fun _ c => decide (c.part ≠ p)) })
    modPart s4 p (fun P => { P with owed := some (resetRecord es) })
/-- The reset record is written, then the VF's pending-transactions bit clears. -/
def writeRecord (s : State) (p : Nat) (bs : List Byte) : State :=
  modPart (publish s (field 51 6 (getPart s p).rsta * 64) bs) p (fun P => { P with owed := none })

/-- VF_RESET (R369). A function-level reset discards one partition's queues and spans, and then writes the reset record: the
VF's transactions are pending between the two. -/
def execVfReset (vf : Nat) (s : State) : Out :=
  if !vfOk vf 0 then .next s
  else
    match (getPart s (vf - 1)).owed with
    | none => .next (discardPart s (vf - 1))
    | some bs => .next (writeRecord s (vf - 1) bs)

end Sys2Proof.Machine
end

