-- ==== Sys2Proof/Machine/Geyser.lean ====
section
/-! DEFINITION. Links, link tables, epochs, tree sets (R321 to R326, R422 to R424). -/

namespace Sys2Proof.Machine

open Sys2Proof

/-! What this package sends: a message kind, the rank it goes to (all ones for a flood), and its bytes. -/

def msgUpdate : Nat := 0
def msgPartial : Nat := 1
def msgResult : Nat := 2
def msgMarks : Nat := 3
def msgDone : Nat := 4
def msgStatus : Nat := 5
def msgParameters : Nat := 6
def msgCrc : Nat := 7
def toAll : Nat := 0xFFFF

/-! Link tables (R322, R323). -/

def groupOf (h : Hub) (g : Nat) : CGroup := amGetD h.groups g cgroupReset
def modGroup (s : State) (g : Nat) (f : CGroup → CGroup) : State :=
  modHub s (fun h => { h with groups := amPut h.groups g (f (amGetD h.groups g cgroupReset)) })

/-- An entry of which nothing is known: down, its far end not in the group. -/
def entryReset : W64 := BitVec.ofNat 64 (0xFFFF * 2 ^ 32)
def entryAt (G : CGroup) (rank link : Nat) : W64 := amGetD G.table (48 * rank + link) entryReset
def entState (e : W64) : Nat := field 63 62 e
def entPEER (e : W64) : Nat := field 47 32 e
def entPLINK (e : W64) : Nat := field 25 20 e
def setEntState (e : W64) (st : Nat) : W64 := setField 63 62 e st

/-! Messages, and the flits that carry them (R420). -/

/-- The member links of a group that are up or degraded. -/
def liveLinks (h : Hub) (g : Nat) : List Nat :=
  (List.range 48).filter (fun l => bitAt l (groupOf h g).lmsk && decide ((amGetD h.links l linkReset).st ≠ 0))
/-- The lowest of them that leads to a rank. -/
def linkTo (h : Hub) (g rank : Nat) : List Nat :=
  ((liveLinks h g).filter (fun l => decide (entPEER (entryAt (groupOf h g) (groupOf h g).rank l) = rank))).take 1
/-- A counter of a link's die takes `n` flits: `way` 0 sent, 1 received, 2 replayed. -/
def countFlits (h : Hub) (link way n : Nat) : Hub :=
  { h with dctr := amMap h.dctr (fun k c =>
      if k / 32 = link / 4 ∧ c.src = 0x5000 + 4 * way + link % 4 then { c with val := c.val + BitVec.ofNat 64 n } else c) }
/-- A message passes over links; how many flits carry it is not given. -/
def carry (s : State) (way : Nat) (links : List Nat) : State :=
  links.foldl (fun s l => let (n, s1) := takeFree s; modHub s1 (fun h => countFlits h l way (Config.flits n))) s
/-- This package sends a message to a group: to a rank, or over every live link. -/
def send (s : State) (g kind dst : Nat) (bs : List Byte) : State :=
  modHub (carry s 0 (if dst = toAll then liveLinks s.hub g else linkTo s.hub g dst)) (fun h => { h with sent := h.sent ++ [(kind, dst, bs)] })
/-- A message of a group arrives from a rank, over the lowest live link that leads to it, or else the lowest of all. -/
def receive (s : State) (g rank : Nat) : State :=
  carry s 1 (match linkTo s.hub g rank with
    | [] => (liveLinks s.hub g).take 1
    | l => l)

/-- Link l of rank a as an edge, with whether both ends are up. -/
def edgeAt (G : CGroup) (a l : Nat) : Option (Edge × Bool) :=
  let e := entryAt G a l
  let b := entPEER e
  let f := entryAt G b (entPLINK e)
  if a < b ∧ b ≤ G.gm1 ∧ (entState e = 1 ∨ entState e = 2) ∧ (entState f = 1 ∨ entState f = 2) ∧ entPEER f = a ∧ entPLINK f = l then
    some (⟨48 * a + l, a, b⟩, decide (entState e = 1) && decide (entState f = 1))
  else none
/-- The edge order: both ends up first, in ascending index. -/
def edgeOrder (G : CGroup) : List Edge :=
  let all := (List.range (48 * (G.gm1 + 1))).filterMap (fun i => edgeAt G (i / 48) (i % 48))
  (all.filter (·.2)).map (·.1) ++ (all.filter (fun p => !p.2)).map (·.1)

/-! Deriving the trees (R325). `w` says which forest holds an edge. -/

/-- The other end of an edge. -/
def Edge.far (e : Edge) (v : Nat) : Nat := if e.a = v then e.b else e.a
def Edge.meets (e : Edge) (v : Nat) : Bool := decide (e.a = v) || decide (e.b = v)
/-- The path between two ranks in a forest. -/
def forestPath : Nat → List Edge → Nat → Nat → Option (List Edge)
  | 0, _, _, _ => none
  | n + 1, es, a, b =>
    if a = b then some []
    else (es.filter (·.meets a)).findSome? (fun e =>
      (forestPath n (es.filter (fun f => decide (f ≠ e))) (e.far a) b).map (fun p => e :: p))
def inForest (es : List Edge) (w : AMap Nat) (i : Nat) : List Edge := es.filter (fun e => decide (amGet w e.idx = some i))

/-- The chain of moves that lets edge `e` enter: z goes to forest t, and its predecessor to the forest it leaves. -/
def shiftEdges (pred : AMap Nat) (e : Nat) : Nat → AMap Nat → Nat → Nat → AMap Nat
  | 0, w, _, _ => w
  | n + 1, w, z, t =>
    if z = e then amPut w z t
    else shiftEdges pred e n (amPut w z t) (amGetD pred z e) ((amGet w z).getD t)

/-- Where an assignment stands: done, or its queue, visited edges and predecessors. -/
structure Search where
  done : Option (AMap Nat)
  queue : List Edge
  seen : List Nat
  pred : AMap Nat
  deriving DecidableEq, Repr

def insertEdge (e : Edge) : List Edge → List Edge
  | [] => [e]
  | f :: l => if e.idx ≤ f.idx then e :: f :: l else f :: insertEdge e l
def sortEdges : List Edge → List Edge
  | [] => []
  | e :: l => insertEdge e (sortEdges l)

/-- Edge x is tried in forest i. -/
def tryForest (es : List Edge) (w : AMap Nat) (e x : Edge) (q : Search) (i : Nat) : Search :=
  if q.done.isSome || decide (amGet w x.idx = some i) then q
  else
    match forestPath (es.length + 1) (inForest es w i) x.a x.b with
    | none => { q with done := some (shiftEdges q.pred e.idx (es.length + 1) w x.idx i) }
    | some p =>
      let new := (sortEdges p).filter (fun y => decide (y.idx ∉ q.seen))
      { q with queue := q.queue ++ new, seen := q.seen ++ new.map (·.idx)
               pred := new.foldl (fun m y => amPut m y.idx x.idx) q.pred }
def searchLoop (es : List Edge) (w : AMap Nat) (e : Edge) (k : Nat) : Nat → Search → AMap Nat
  | 0, _ => w
  | n + 1, q =>
    match q.queue with
    | [] => w
    | x :: rest =>
      let q1 := (List.range k).foldl (tryForest es w e x) { q with queue := rest }
      match q1.done with
      | some r => r
      | none => searchLoop es w e k n q1
/-- Assign(e, k). -/
def assignEdge (es : List Edge) (k : Nat) (w : AMap Nat) (e : Edge) : AMap Nat :=
  searchLoop es w e k (es.length + 1) ⟨none, [e], [e.idx], amEmpty⟩
def forests (es : List Edge) (k : Nat) : List (List Edge) :=
  let w := es.foldl (assignEdge es k) amEmpty
  (List.range k).map (fun i => sortEdges (inForest es w i))
/-- The largest k, from k down, whose forests all span. -/
def treesFrom (es : List Edge) (V : Nat) : Nat → Option (List (List Edge))
  | 0 => none
  | k + 1 =>
    let f := forests es (k + 1)
    if f.all (fun t => decide (t.length = V - 1)) then some f else treesFrom es V k
/-- The tree set of the table at the current epoch. -/
def treeSet (G : CGroup) : Option (List (List Edge)) :=
  let es := edgeOrder G
  treesFrom es (G.gm1 + 1) (min 8 (es.length / G.gm1))

/-! Parents and children (R326). -/

def parentOf (t : List Edge) (root v : Nat) : Option Nat :=
  (forestPath (t.length + 1) t v root).bind (fun p => p.head?.map (fun e => e.far v))
/-- The children, in ascending index of their edges. -/
def childrenOf (t : List Edge) (root v : Nat) : List Nat :=
  ((t.filter (·.meets v)).map (fun e => e.far v)).filter (fun u => decide (parentOf t root v ≠ some u))

/-! Links (R422, R423). -/

def linkOf (h : Hub) (l : Nat) : Link := amGetD h.links l linkReset
/-- The state that the judgement gives; no outer link is up in Die-0 service (R410). -/
def judged (h : Hub) (k : Link) : Nat :=
  if h.boot ≠ .full ∨ k.fdn ∨ !k.trainOk ∨ k.lanes < 4 then 0
  else if k.lanes < 8 ∨ h.lthr.toNat < k.rpl.toNat then 2
  else 1
/-- The link status register. -/
def lstat (k : Link) : Nat := k.st * 2 ^ 62 + k.lanes * 2 ^ 58 + b2n k.fdn * 2 ^ 57 + k.rpl.toNat

/-- The epoch after an epoch. -/
def nextEpoch (e : Nat) : Nat := (e + 1) % 2 ^ 32
/-- A collective that may still move data: it runs, or it is done here and other members may need its results (R332). -/
def Coll.serves (c : Coll) : Bool := !c.ended || c.complete
/-- The transfers of a group's collectives stop; a recovery under way starts again with the next epoch (R332). -/
def stopColls (g : Nat) (m : AMap Coll) : AMap Coll :=
  amMap m (fun _ c => if c.gid = g ∧ c.serves then { c with stopped := true, newTrees := none } else c)
/-- The interval in which updates of an epoch are gathered: 20 µs, in cycles of 1.5 GHz (R5, log 49). -/
def gatherCycles : Nat := 30000
/-- The interval of the next epoch's updates is over at hub cycle `t`. -/
def gathered (t : Nat) (G : CGroup) : Bool :=
  (decide (G.updates ≠ []) || G.trial.isSome) && decide (G.firstAt + gatherCycles < t)
/-- The epoch an update of epoch `e` is gathered for: one that comes after the interval of its epoch starts the epoch after it
(R324); of other epochs, and of what is gathered or in force already, nothing. -/
def epochOf (t : Nat) (G : CGroup) (e : Nat) (u : Nat × Nat × Nat) : Option Nat :=
  let n := nextEpoch G.epoch
  if e = n then (if u ∈ G.updates ∨ u ∈ G.tried then none else if gathered t G then (if u ∈ G.later then none else some (nextEpoch n)) else some n)
  else if e = nextEpoch n then (if u ∈ G.later then none else some e)
  else if e = G.epoch then (if u ∈ G.applied ∨ u ∈ G.updates ∨ u ∈ G.tried then none
    else if gathered t G then (if u ∈ G.later then none else some (nextEpoch n)) else some n)
  else none
/-- An update is gathered, for the next epoch or for the one after it; one to down or degraded stops the group's transfers
(R324, R332). -/
def gather (s : State) (g e rank link st : Nat) : State :=
  let t := hubNow s
  let s1 := modGroup s g (fun G =>
    if e = nextEpoch G.epoch then
      { G with updates := G.updates ++ [(rank, link, st)], firstAt := if G.updates = [] ∧ G.trial.isNone then t else G.firstAt }
    else { G with later := G.later ++ [(rank, link, st)], laterAt := if G.later = [] then t else G.laterAt })
  if st = 1 then s1 else modHub s1 (fun h => { h with colls := stopColls g h.colls, served := stopColls g h.served })
/-- The bytes of an update. -/
def updateBytes (e rank link st : Nat) : List Byte := bytesOf 4 e ++ bytesOf 2 rank ++ bytesOf 1 link ++ bytesOf 1 st
/-- It is gathered and flooded. -/
def floodUpdate (s : State) (g e rank link st : Nat) : State :=
  send (gather s g e rank link st) g msgUpdate toAll (updateBytes e rank link st)

/-- A change of a link is reported to the Geyser, which floods it to every group that has the link. -/
def reportLink (s : State) (l st : Nat) : State :=
  (List.range 16).foldl (fun s g =>
    let G := groupOf s.hub g
    if G.en && bitAt l G.lmsk then
      floodUpdate s g (if gathered (hubNow s) G then nextEpoch (nextEpoch G.epoch) else nextEpoch G.epoch) G.rank l st
    else s) s

/-- LINK_JUDGEMENT (R423). At the end of each window of 2^24 cycles of the hub die the link agent judges each link's state,
once a window, with `rpl` flits replayed in it; a change writes a record and is reported. -/
def execLinkJudgement (link rpl : Nat) (s : State) : Out :=
  let k := linkOf s.hub link
  if 48 ≤ link ∨ hubNow s / 2 ^ 24 ≤ k.judged then .next s
  else
    let k1 := { k with rpl := BitVec.ofNat 32 rpl, trainOk := k.trainOk && !k.fdn, judged := k.judged + 1 }
    let st := judged s.hub k1
    let k2 := { k1 with st := st }
    let s1 := modHub s (fun h => countFlits { h with links := amPut h.links link k2 } link 2 rpl)
    if st = k.st then .next s1
    else .next (reportLink (fleetRecord s1 6 0xFF (link / 4) 0xFFF (link + k.st * 64 + st * 256) (lstat k2) 0) link st)

/-- LINK_TRAINING (R423). An outer link trains, retrains after FDN is cleared, fails training or loses lanes, which changes
LANES. -/
def execLinkTraining (link lanes : Nat) (ok : Bool) (s : State) : Out :=
  if 48 ≤ link ∨ 8 < lanes then .next s
  else
    let k := linkOf s.hub link
    .next (modHub s (fun h => { h with links := amPut h.links link { k with lanes := lanes, trainOk := ok && !k.fdn } }))

/-! Groups (R424). -/

/-- The row a group starts with for this package: the states of its links. -/
def ownRow (h : Hub) (G : CGroup) (row : List W64) : List W64 :=
  (List.range 48).map (fun l => setEntState ((row.getD l entryReset) &&& BitVec.ofNat 64 (0xFFFF * 2 ^ 32 + 63 * 2 ^ 20))
    (if bitAt l G.lmsk then (linkOf h l).st else 0))

/-- GROUP_ENABLE (R424). Enabling a collective group starts the rank exchange that sets RDY; while EN = 1 the write is
ignored. A rank beyond the group or a group of one is not enabled. -/
def execGroupEnable (g : Nat) (v : W64) (s : State) : Out :=
  let rank := field 41 32 v
  let gm1 := field 9 0 v
  if 16 ≤ g ∨ !regsLive s.hub ∨ (groupOf s.hub g).en then .next s
  else .next (modGroup s g (fun G =>
    let r : CGroup := { cgroupReset with lmsk := G.lmsk, rank := rank, gm1 := gm1 }
    { r with en := bitAt 63 v && decide (1 ≤ gm1) && decide (rank ≤ gm1) }))

/-- A row of the table arrives: RDY is set, with epoch 0, once every rank's row is known. -/
def putRow (rank : Nat) (row : List W64) (G : CGroup) : CGroup :=
  let known := if rank ∈ G.known then G.known else G.known ++ [rank]
  let t := (List.range 48).foldl (fun t l => amPut t (48 * rank + l) (row.getD l entryReset)) G.table
  let rdy := (List.range (G.gm1 + 1)).all (fun r => decide (r ∈ known))
  { G with table := t, known := known, rdy := G.rdy || rdy }

/-- ROW_EXCHANGE (R424). A member link's exchange arrives and fills this package's own row, or another Geyser's row
arrives; with all rows known RDY is set. -/
def execRowExchange (g rank : Nat) (row : List W64) (s : State) : Out :=
  let G := groupOf s.hub g
  if 16 ≤ g ∨ !G.en ∨ G.gm1 < rank ∨ G.rdy then .next s
  else .next (modGroup (receive s g rank) g (putRow rank (if rank = G.rank then ownRow s.hub G row else row)))

/-- LINK_STATE_UPDATE (R324). A flooded link-state update reaches a Geyser: one of the next epoch, or of the epoch after it, is
gathered and flooded on, and one that comes after the interval of its epoch is so for the epoch that follows; one that is
gathered or in force already, or of another epoch, is dropped. -/
def execLinkStateUpdate (g epoch rank link st : Nat) (s : State) : Out :=
  let G := groupOf s.hub g
  let e := epoch % 2 ^ 32
  if 16 ≤ g ∨ !G.en ∨ G.gm1 < rank ∨ 48 ≤ link ∨ 3 ≤ st then .next s
  else
    match epochOf (hubNow s) G e (rank, link, st) with
    | some f => .next (floodUpdate (receive s g rank) g f rank link st)
    | none => .next (receive s g rank)

/-- The table with the gathered updates applied together; in the interval after a first mismatch it is the table that was
compared then. -/
def nextTable (G : CGroup) : AMap W64 :=
  G.updates.foldl (fun t u =>
    amPut t (48 * u.1 + u.2.1) (setEntState (amGetD t (48 * u.1 + u.2.1) entryReset) u.2.2)) (G.trial.getD G.table)
/-- One of the updates gathered for the next epoch is to down or degraded. -/
def worsens (G : CGroup) : Bool := G.worse || G.updates.any (fun u => decide (u.2.2 ≠ 1))
/-- The next epoch is in force. -/
def enterEpoch (G : CGroup) : CGroup :=
  { G with
    table := nextTable G, updates := G.later, later := [], firstAt := G.laterAt, applied := G.tried ++ G.updates, tried := []
    told := false, worse := false, trial := none, epoch := nextEpoch G.epoch }
/-- The CRCs disagree for the first time at hub cycle `t`: one more interval is gathered, and the epoch in force stays. -/
def tryAgain (t : Nat) (G : CGroup) : CGroup :=
  { G with trial := some (nextTable G), updates := [], tried := G.updates, firstAt := t, told := false, worse := worsens G }
/-- The CRC-32 of the table: its rows in order, 48 little-endian words each. -/
def tableCrc (G : CGroup) (t : AMap W64) : Nat :=
  crc32 ((List.range (48 * (G.gm1 + 1))).flatMap (fun i => bytesOf 8 (amGetD t i entryReset).toNat))

end Sys2Proof.Machine
end

