-- ==== Sys2Proof/Machine/Collect.lean ====
section
/-! DEFINITION. Collectives of this package (R192, R327 to R335). -/

namespace Sys2Proof.Machine

open Sys2Proof

/-! The descriptor (R327, R328). -/

def elemSize (dt : Nat) : Nat := if dt = 1 then 2 else 4

/-- What R328 refuses, but for the group. -/
def descriptorOk (w : List W64) : Bool :=
  let v (i : Nat) : W64 := w.getD i 0#64
  let src := field 51 0 (v 0)
  let dst := field 51 0 (v 1)
  let len := field 39 0 (v 3)
  decide (field 63 52 (v 0) = 0) && decide (field 63 52 (v 1) = 0) && decide (field 63 52 (v 2) = 0)
  && decide (field 63 52 (v 3) = 0) && decide (field 47 40 (v 3) = 0) && decide (field 55 42 (v 4) = 0)
  && decide (field 31 0 (v 4) = 0) && decide (v 7 = 0#64)
  && decide (field 63 61 (v 4) ≤ 1) && decide (field 58 57 (v 4) ≠ 3)
  && (decide (field 63 61 (v 4) = 1) || decide (field 60 59 (v 4) ≠ 3))
  && decide (src % 16 = 0) && decide (dst % 16 = 0) && decide (field 51 0 (v 2) % 8 = 0)
  && decide (len ≠ 0) && decide (len % elemSize (field 58 57 (v 4)) = 0)
  && (decide (src = dst) || decide (dst + len ≤ src) || decide (src + len ≤ dst))

def descColl (w : List W64) (G : CGroup) (desc part key rel lid asid : Nat) (ptbr : W64) : Coll :=
  let v (i : Nat) : W64 := w.getD i 0#64
  { gid := field 51 48 (v 3), seq := G.started, desc := desc, src := field 51 0 (v 0), dst := field 51 0 (v 1)
    mrk := field 51 0 (v 2), len := field 39 0 (v 3), kind := field 63 61 (v 4), op := field 60 59 (v 4)
    dt := field 58 57 (v 4), res := bitAt 56 (v 4), rootR := field 41 32 (v 4), part := part, key := key, rel := rel
    lid := lid, asid := asid, ptbr := ptbr, size := G.gm1 + 1, rank := G.rank, agreed := [], trees := [], chunks := amEmpty
    stopped := worsens G || G.later.any (fun u => decide (u.2.2 ≠ 1)), reissue := bitAt 56 (v 4), newTrees := none
    marks := amEmpty, stale := [], doneKids := [], reported := [], ended := false, complete := false, word5 := 0#64 }

/-! Chunks and marks (R329). -/

def chunkCount (c : Coll) : Nat := ceilDiv c.len 65536
def chunkLen (c : Coll) (k : Nat) : Nat := min 65536 (c.len - 65536 * k)
def treeOf (c : Coll) (k : Nat) : List Edge := c.trees.getD (k % max 1 c.trees.length) []
/-- The root of tree i of a collective (R326). -/
def treeRoot (c : Coll) (i : Nat) : Nat := if c.kind = 1 then c.rootR else i % c.size
/-- A chunk as it begins on the current trees. -/
def chunkStart (c : Coll) (k : Nat) : Chunk :=
  ⟨treeRoot c (k % max 1 c.trees.length), if c.kind = 1 then 1 else 0, amEmpty, none⟩
def chunkOf (c : Coll) (k : Nat) : Chunk := amGetD c.chunks k (chunkStart c k)

/-- The collective of a handle that has not been retired. -/
def getColl (s : State) (h : Nat) : Option Coll := amGet s.hub.colls h
/-- A collective that may still move data, retired or not. -/
def liveColl (s : State) (h : Nat) : Option Coll :=
  ((getColl s h).or (amGet s.hub.served h)).filter (·.serves)
def modColl (s : State) (h : Nat) (f : Coll → Coll) : State :=
  modHub s (fun x => { x with colls := amMod x.colls h f, served := amMod x.served h f })
/-- The parameters in which a collective's members must agree (R328), as one word. -/
def parameters (c : Coll) : Nat := c.kind * 2 ^ 61 + c.op * 2 ^ 59 + c.dt * 2 ^ 57 + b2n c.res * 2 ^ 56 + c.rootR * 2 ^ 40 + c.len
/-- Every other member's parameters are known to agree. -/
def allAgree (c : Coll) : Bool := (List.range c.size).all (fun r => decide (r = c.rank) || decide (r ∈ c.agreed))
/-- What every message of a collective begins with. -/
def collId (c : Coll) : List Byte := bytesOf 1 c.gid ++ bytesOf 4 c.seq
def putChunk (s : State) (h k : Nat) (x : Chunk) : State := modColl s h (fun c => { c with chunks := amPut c.chunks k x })

/-! The Geyser's accesses, by its own walks (R371). -/

/-- The physical addresses of `n` bytes. -/
def hubBytes (s : State) (part : Nat) (ptbr : W64) (asid need : Nat) : Nat → Nat → VAcc (List Nat)
  | 0, _ => .ok []
  | n + 1, va =>
    match hubTranslate s part ptbr asid (va % 2 ^ 52) need with
    | .miss => .miss (va % 2 ^ 52)
    | .fault c => .fault c (va % 2 ^ 52)
    | .hit pa =>
      match hubBytes s part ptbr asid need n (va + 1) with
      | .ok l => .ok (pa :: l)
      | t => t
/-- What an access meets: status 3 for a translation or permission fault, 5 for an uncorrectable error, at an address. -/
inductive Meets (α : Type) where
  | ok (a : α)
  | bad (st faddr : Nat)
  deriving DecidableEq, Repr

def collRead (s : State) (c : Coll) (n va : Nat) : Meets (List Byte) :=
  match hubBytes s c.part c.ptbr c.asid 1 n va with
  | .miss v | .fault _ v => .bad 3 v
  | .ok pas =>
    match (List.range n).find? (fun i => paBad s (pas.getD i 0) 1) with
    | some i => .bad 5 ((va + i) / 4 * 4)
    | none => .ok (pas.map s.byte)
def writeBytes (s : State) : List Nat → List Byte → State
  | pa :: l, b :: bs => writeBytes (writePA s pa [b]) l bs
  | _, _ => s
def collWrite (s : State) (c : Coll) (va : Nat) (bs : List Byte) : Meets State :=
  match hubBytes s c.part c.ptbr c.asid 2 bs.length va with
  | .miss v | .fault _ v => .bad 3 v
  | .ok pas => .ok (writeBytes s pas bs)
def putMark (s : State) (c : Coll) (k m : Nat) : Meets State := collWrite s c (c.mrk + k) [BitVec.ofNat 8 m]

/-! The end (R331, R334). -/

/-- Words 5 and 6 are written, the handle holds its status, and SY.PEND[3] of the issuing core is set. -/
def finishColl (s : State) (h : Nat) (c : Coll) (st faddr : Nat) : State :=
  let ep := (groupOf s.hub c.gid).epoch % 2 ^ 32
  let w5 (n : Nat) : W64 := BitVec.ofNat 64 (n * 2 ^ 56 + ep)
  let (s1, w) :=
    match collWrite s c (c.desc + 40) (bytesOf 8 (w5 st).toNat ++ bytesOf 8 faddr) with
    | .ok t => (t, w5 st)
    | .bad _ _ => (s, w5 3)
  tellCore (modColl s1 h (fun c => { c with ended := true, complete := decide (st = 0), word5 := w, chunks := amEmpty, marks := amEmpty })) c.part c.key c.rel 3
/-- This package met an error: every member's collective ends with it. -/
def failColl (s : State) (h : Nat) (c : Coll) (st faddr : Nat) : State :=
  send (finishColl s h c st faddr) c.gid msgStatus toAll (collId c ++ bytesOf 1 st ++ bytesOf 8 faddr)

/-- The children of this package over all trees. -/
def allKids (c : Coll) : List Nat :=
  (List.range c.trees.length).flatMap (fun i => childrenOf (c.trees.getD i []) (treeRoot c i) c.rank)
/-- Every mark here is 3. -/
def allMarked (c : Coll) : Bool := c.ended || (List.range (chunkCount c)).all (fun k => decide ((chunkOf c k).phase = 2))
/-- The trees on which this package can report done to its parent now. -/
def dueReports (c : Coll) : List Nat :=
  (List.range c.trees.length).filter (fun i =>
    decide (i ∉ c.reported) && (childrenOf (c.trees.getD i []) (treeRoot c i) c.rank).all (fun u => decide (u ∈ c.doneKids)))
/-- Reports that are due are sent, and a collective that is done ends with status 0. -/
def settleColl (s : State) (h : Nat) : State :=
  match liveColl s h with
  | none => s
  | some c =>
    if c.stopped || !allMarked c then s
    else
      let s1 := (dueReports c).foldl (fun s i =>
        match parentOf (c.trees.getD i []) (treeRoot c i) c.rank with
        | some p => send s c.gid msgDone p (collId c)
        | none => s) s
      let s2 := modColl s1 h (fun c => { c with reported := c.reported ++ dueReports c })
      if !c.ended && (allKids c).all (fun u => decide (u ∈ c.doneKids)) then finishColl s2 h c 0 0 else s2

/-! Reduction (R330). -/

/-- a ⊕ b on one element. -/
def combineElem (op dt : Nat) (a b : Nat) : Nat :=
  let x (n : Nat) : W32 := BitVec.ofNat 32 n
  if dt = 2 then
    (match op with
      | 0 => (x a + x b).toNat
      | 1 => if (x a).toInt < (x b).toInt then b else a
      | _ => if (x b).toInt < (x a).toInt then b else a)
  else
    let f := if dt = 0 then fmtF32 else fmtBF16
    let sh := if dt = 0 then 1 else 65536
    match op with
    | 0 => fround f .rne (exAdd .rne (fval f a) (fval f b))
    | 1 => (maxF (x (a * sh)) (x (b * sh))).toNat / sh
    | _ => (minF (x (a * sh)) (x (b * sh))).toNat / sh
/-- a ⊕ b on the elements of a chunk. -/
def combineBytes (c : Coll) (a b : List Byte) : List Byte :=
  let n := elemSize c.dt
  ((pieces (a.length / n) n a).zip (pieces (a.length / n) n b)).flatMap (fun p =>
    bytesOf n (combineElem c.op c.dt (natOfBytes p.1) (natOfBytes p.2)))

/-- This package reduces a chunk whose children's partials are all here, and passes its partial on; the root holds the
result. -/
def reduceChunk (s : State) (h : Nat) (c : Coll) (k : Nat) : State :=
  let x := chunkOf c k
  let t := treeOf c k
  let kids := childrenOf t x.root c.rank
  if !kids.all (fun u => (amGet x.parts u).isSome) then putChunk s h k x
  else
    match collRead s c (chunkLen c k) (c.src + 65536 * k) with
    | .bad st a => failColl s h c st a
    | .ok own =>
      let acc := kids.foldl (fun acc u => combineBytes c acc (amGetD x.parts u [])) own
      match putMark s c k 1 with
      | .bad st a => failColl s h c st a
      | .ok s1 =>
        match parentOf t x.root c.rank with
        | none => putChunk s1 h k { x with phase := 1, held := some acc }
        | some p => putChunk (send s1 c.gid msgPartial p (collId c ++ bytesOf 4 k ++ acc)) h k { x with phase := 1 }

/-- CHUNK_PARTIAL (R330). A package receives a child's partial of a chunk; with the last one it reduces the chunk. With the
package's own rank as `child` a package without children reduces it. -/
def execChunkPartial (h chunk child : Nat) (data : List Byte) (s : State) : Out :=
  match getColl s h with
  | none => .next s
  | some c =>
    let x := chunkOf c chunk
    if c.ended || c.stopped || decide (chunkCount c ≤ chunk) || decide (x.phase ≠ 0) then .next s
    else if child = c.rank then .next (reduceChunk s h c chunk)
    else if child ∈ childrenOf (treeOf c chunk) x.root c.rank ∧ data.length = chunkLen c chunk then
      let y := { x with parts := amPut x.parts child data }
      .next (reduceChunk (receive s c.gid child) h { c with chunks := amPut c.chunks chunk y } chunk)
    else .next s

/-- The result as this package holds it, as the root of the chunk's tree. -/
def heldResult (s : State) (c : Coll) (k : Nat) (x : Chunk) : Meets (List Byte) :=
  match x.held with
  | some d => .ok d
  | none =>
    if c.kind = 1 ∧ c.rank = c.rootR then collRead s c (chunkLen c k) (c.src + 65536 * k)
    else collRead s c (chunkLen c k) (c.dst + 65536 * k)
/-- The mark becomes 2, DST is written, then the mark becomes 3. -/
def takeResult (s : State) (c : Coll) (k : Nat) (d : List Byte) : Meets State :=
  match putMark s c k 2 with
  | .bad st a => .bad st a
  | .ok s1 =>
    match collWrite s1 c (c.dst + 65536 * k) d with
    | .bad st a => .bad st a
    | .ok s2 => putMark s2 c k 3

/-- CHUNK_RESULT (R332). A package receives a chunk's result, writes DST and forwards it to its children; the root takes
the result it holds. Nothing is written before every member's descriptor is known to agree (R328), nor by a package that is
done, which only forwards. -/
def execChunkResult (h chunk : Nat) (data : List Byte) (s : State) : Out :=
  match liveColl s h with
  | none => .next s
  | some c =>
    let x := chunkOf c chunk
    if c.stopped || decide (chunkCount c ≤ chunk) || decide (x.phase ≠ 1) || !(c.ended || allAgree c) then .next s
    else
      match (if c.rank = x.root then heldResult s c chunk x else .ok data) with
      | .bad st a => .next (if c.ended then s else failColl s h c st a)
      | .ok d =>
        if d.length ≠ chunkLen c chunk then .next s
        else
          match (if c.ended then .ok s else takeResult s c chunk d) with
          | .bad st a => .next (failColl s h c st a)
          | .ok s1 =>
            let up := ((parentOf (treeOf c chunk) x.root c.rank).map (receive s1 c.gid)).getD s1
            let s2 := (childrenOf (treeOf c chunk) x.root c.rank).foldl (fun s u =>
              send s c.gid msgResult u (collId c ++ bytesOf 4 chunk ++ d)) up
            .next (settleColl (putChunk s2 h chunk { x with phase := 2 }) h)

/-- DONE_REPORT (R331). A child package reports that it is done, which lets a collective become done on its parent. -/
def execDoneReport (h child : Nat) (s : State) : Out :=
  match liveColl s h with
  | none => .next s
  | some c =>
    if child ∈ c.doneKids then .next s
    else .next (settleColl (modColl (receive s c.gid child) h (fun c => { c with doneKids := c.doneKids ++ [child] })) h)

/-- MEMBER_STATUS (R334). Another member's ending status arrives (descriptor disagreement, or status 3 or 5 with its FADDR)
and ends the collective here. With status 0 it is the member's parameters, in `faddr`: where they differ from this
package's, every member's collective ends with status 1 (R328). -/
def execMemberStatus (h rank st : Nat) (faddr : W64) (s : State) : Out :=
  match getColl s h with
  | none => .next s
  | some c =>
    if c.ended || decide (5 < st) || decide (c.size ≤ rank) then .next s
    else
      let s1 := receive s c.gid rank
      if st ≠ 0 then .next (finishColl s1 h c st faddr.toNat)
      else if faddr.toNat ≠ parameters c then .next (failColl s1 h c 1 0)
      else .next (modColl s1 h (fun c => { c with agreed := c.agreed ++ [rank] }))

/-! Recovery and resume (R332). -/

/-- Marks are read here and exchanged over new trees: every chunk waits to be classified. A package that is done has every
mark at 3. -/
def beginMarks (s : State) (h : Nat) (c : Coll) (ts : List (List Edge)) : State :=
  match (if c.ended then .ok (List.replicate (chunkCount c) 3#8) else collRead s c (chunkCount c) c.mrk) with
  | .bad st a => failColl s h c st a
  | .ok m =>
    let mine := m.map (·.toNat)
    send (modColl s h (fun c => { c with
      stopped := true, newTrees := some ts, marks := amPut amEmpty c.rank mine
      chunks := amMap c.chunks (fun _ x => { x with parts := amEmpty }) })) c.gid msgMarks toAll (collId c ++ m)

/-- The classes of R332. -/
inductive Class where
  | done
  | reducedUp (holder : Nat)
  | pending
  deriving DecidableEq, Repr

/-- The class of a chunk from the marks of all ranks, on a failure and on a reissue; a chunk that the reissue found reduced
keeps the second table, since old marks of 1 and 2 stand beside its marks of 3. -/
def classify (reissue : Bool) (root : Nat) (m : List Nat) : Class :=
  if m.all (fun x => decide (x = 3)) then .done
  else if reissue then
    (if 3 ∈ m then .reducedUp (m.findIdx (· == 3)) else .pending)
  else if 1 ≤ m.getD root 0 ∨ 2 ∈ m then
    .reducedUp (if m.any (fun x => decide (2 ≤ x)) then m.findIdx (fun x => decide (2 ≤ x)) else root)
  else .pending

/-- A chunk goes on as its class says: a pending one has its mark set to 0; on a reissue the holder's DST holds the result. -/
def resumeChunk (ts : List (List Edge)) (c : Coll) (k : Nat) (p : Meets (State × AMap Chunk)) : Meets (State × AMap Chunk) :=
  match p with
  | .bad st a => .bad st a
  | .ok (s, m) =>
    let old := chunkOf c k
    let again := c.reissue || decide (k ∈ c.stale)
    match classify again old.root ((List.range c.size).map (fun r => (amGetD c.marks r []).getD k 0)) with
    | .done => .ok (s, amPut m k { old with phase := 2 })
    | .reducedUp r =>
      if r = c.rank ∧ (again ∨ c.ended) then
        match collRead s c (chunkLen c k) (c.dst + 65536 * k) with
        | .bad st a => if c.ended then .ok (s, amPut m k ⟨r, 1, amEmpty, none⟩) else .bad st a
        | .ok d => .ok (s, amPut m k ⟨r, 1, amEmpty, some d⟩)
      else .ok (s, amPut m k ⟨r, 1, amEmpty, if r = c.rank then old.held else none⟩)
    | .pending =>
      match putMark s c k 0 with
      | .bad st a => .bad st a
      | .ok s1 => .ok (s1, amPut m k (chunkStart { c with trees := ts } k))

/-- The chunks of which marks may be old: those that a reissue classes reduced-up. -/
def staleChunks (c : Coll) : List Nat :=
  if !c.reissue then c.stale
  else (List.range (chunkCount c)).filter (fun k =>
    match classify true (chunkOf c k).root ((List.range c.size).map (fun r => (amGetD c.marks r []).getD k 0)) with
    | .reducedUp _ => true
    | _ => false)
/-- With the marks of every rank here, the chunks are classified and run on over the new trees. -/
def resumeColl (s : State) (h : Nat) (c : Coll) (ts : List (List Edge)) : State :=
  match (List.range (chunkCount c)).foldl (fun p k => resumeChunk ts c k p) (.ok (s, amEmpty)) with
  | .bad st a => failColl s h c st a
  | .ok (s1, m) =>
    settleColl (modColl s1 h (fun c => { c with
      trees := ts, chunks := m, stopped := false, stale := staleChunks c, reissue := false, newTrees := none, marks := amEmpty
      doneKids := [], reported := [] })) h

/-- A retired collective whose every chunk every member has done is needed no more. -/
def dropServed (s : State) (h : Nat) (c : Coll) : State :=
  if (List.range c.size).all (fun r => (amGetD c.marks r []).all (fun m => decide (m = 3))) then
    modHub s (fun x => { x with served := amDel x.served h })
  else s

/-- MARK_EXCHANGE (R332). Marks from other packages arrive over the new trees, so that each chunk can be classified done,
reduced-up or pending. -/
def execMarkExchange (h rank : Nat) (marks : List Nat) (s : State) : Out :=
  match liveColl s h with
  | none => .next s
  | some c =>
    match c.newTrees with
    | none => .next s
    | some ts =>
      if decide (c.size ≤ rank) || decide (rank = c.rank) || decide (marks.length ≠ chunkCount c) then .next s
      else
        let c1 := { c with marks := amPut c.marks rank marks }
        let s1 := modColl (receive s c.gid rank) h (fun _ => c1)
        if (List.range c.size).all (fun r => (amGet c1.marks r).isSome) then .next (dropServed (resumeColl s1 h c1 ts) h c1) else .next s1

/-- The handles of a group's running collectives. -/
def runningColls (s : State) (g : Nat) : List Nat :=
  (s.hub.colls.entries.filter (fun p => decide (p.2.gid = g) && !p.2.ended)).map (·.1)
/-- Every running collective of a group ends with a status. -/
def endGroupColls (s : State) (g st : Nat) : State :=
  (runningColls s g).foldl (fun s h =>
    match getColl s h with
    | some c => finishColl s h c st 0
    | none => s) s
/-- The handles of a group's collectives that may still move data. -/
def liveColls (s : State) (g : Nat) : List Nat :=
  ((s.hub.colls.entries ++ s.hub.served.entries).filter (fun p => decide (p.2.gid = g) && p.2.serves)).map (·.1)
/-- Collectives recompute their trees from the table, those that are done here among them, since other members may need what
they hold; with no tree the running ones end with status 2. -/
def recompute (s : State) (g : Nat) : State :=
  match treeSet (groupOf s.hub g) with
  | none => endGroupColls s g 2
  | some ts => (liveColls s g).foldl (fun s h =>
      match liveColl s h with
      | some c => beginMarks s h c ts
      | none => s) s

/-- EPOCH_APPLY (R324). After the gather interval a Geyser applies the updates and compares table CRCs: it sends its own, and
then, with those of all other members here as `crcs`, compares. When they agree the next epoch is in force. A first mismatch
is followed by one more interval under the old epoch; a second ends the group's collectives with status 4. -/
def execEpochApply (g : Nat) (crcs : List Nat) (s : State) : Out :=
  let G := groupOf s.hub g
  let crc := tableCrc G (nextTable G)
  if 16 ≤ g ∨ !G.en ∨ !gathered (hubNow s) G then .next s
  else if !G.told then .next (send (modGroup s g (fun G => { G with told := true })) g msgCrc toAll (bytesOf 4 (nextEpoch G.epoch) ++ bytesOf 4 crc))
  else if crcs.length ≠ G.gm1 then .next s
  else
    let s1 := modGroup s g enterEpoch
    if crcs.all (fun x => decide (x = crc)) then .next (if worsens G then recompute s1 g else s1)
    else if G.trial.isNone then .next (modGroup s g (tryAgain (hubNow s)))
    else .next (endGroupColls s1 g 4)

/-- GROUP_DISABLE (R424). Clearing EN of a collective group ends its collectives with status 2. -/
def execGroupDisable (g : Nat) (v : W64) (s : State) : Out :=
  let G := groupOf s.hub g
  if 16 ≤ g ∨ !regsLive s.hub ∨ !G.en ∨ bitAt 63 v then .next s
  else
    let s1 := modGroup (endGroupColls s g 2) g (fun G => { G with en := false, rdy := false })
    .next (modHub s1 (fun h => { h with served := amFilter h.served (fun _ c => decide (c.gid ≠ g)) }))

/-! COLL and COLLW (R192). -/

/-- Marks before any data moves (R329), and the trees (R325). -/
def beginColl (s : State) (h : Nat) (c : Coll) : State :=
  match (if s.hub.boot = .die0 then none else treeSet (groupOf s.hub c.gid)) with
  | none => finishColl s h c 2 0
  | some ts =>
    if c.res then beginMarks s h c ts
    else
      let m : Byte := if c.kind = 1 ∧ c.rank = c.rootR then 1#8 else 0#8
      match collWrite s c c.mrk (List.replicate (chunkCount c) m) with
      | .bad st a => failColl s h c st a
      | .ok s1 => modColl s1 h (fun c => { c with trees := ts })
/-- Its parameters are told to the other members (R328). -/
def tellParameters (s : State) (c : Coll) : State := send s c.gid msgParameters toAll (collId c ++ bytesOf 8 (parameters c))
/-- The load that is resident on the executing core's span: a Geyser request it issues is bound to it (R31). -/
def curLid (s : State) : Nat := (((spanAt s s.cur.cl).bind (fun p => p.2.load)).map (·.lid)).getD 0

/-- A collective of a checked descriptor starts under the next handle. -/
def startColl (s : State) (d : BitVec 5) (w : List W64) (va : Nat) : State :=
  let cl := s.cur.cl
  let g := curGrp s
  let gid := field 51 48 (w.getD 3 0#64)
  let G := groupOf s.hub gid
  let h := s.hub.lastColl + 1
  let own := (launcherOf s cl).getD (0, 0)
  let c := descColl w G va (partOfCl s cl) own.1 own.2 (curLid s) g.asid (getCl s cl).core.ptbr
  let s1 := modHub s (fun x => { x with lastColl := h, colls := amPut x.colls h c })
  let s2 := modGroup s1 gid (fun G => { G with started := G.started + 1 })
  let s3 := modCur s2 (fun g => { g with colls := g.colls ++ [h] })
  finish (beginColl (tellParameters s3 c) h c) 4 d (BitVec.ofNat 64 h)

/-- COLL (R192). Control core starts a collective from a descriptor, as a release at system scope. -/
def execColl (d : BitVec 5) (a : BitVec 5) (s : State) : Out :=
  let va := (xget (curGrp s) a).toNat % 2 ^ 52
  if va % 64 ≠ 0 then .next (illegal s 11)
  else
    let s := releaseCur s 4
    match vaWords s s.cur.cl (curGrp s).asid 1 16 va with
    | .miss v => .next (waitWalk s v 1)
    | .fault c v => .next (takeTrap s ⟨c, 0, 0, v⟩)
    | .ok pas =>
      let s := touchRead s s.cur.cl pas
      let w := words64 (wordsRead s pas) 8
      let G := groupOf s.hub (field 51 48 (w.getD 3 0#64))
      let known := G.en && (G.rdy || decide (s.hub.boot = .die0))
      let rootOk := decide (field 63 61 (w.getD 4 0#64) ≠ 1) || decide (field 41 32 (w.getD 4 0#64) ≤ G.gm1)
      if descriptorOk w && known && rootOk then .next (startColl s d w va) else .next (illegal s 11)

/-- The handle retires; a collective that is done here may still serve the other members (R332). -/
def retireColl (s : State) (h : Nat) (c : Coll) : State :=
  modHub s (fun x => { x with
    colls := amDel x.colls h, served := if c.complete then amPut x.served h c else x.served })

/-- COLLW (R192). Control core waits for a collective to be done and reads its status, as an acquire at system scope; the
handle retires. -/
def execCollw (d : BitVec 5) (a : BitVec 5) (s : State) : Out :=
  let h := (xget (curGrp s) a).toNat
  match (getColl s h).filter (fun c => decide (c.part = partOfCl s s.cur.cl)) with
  | none => .next (illegal s 7)
  | some c =>
    if !c.ended then .next (modCur s (waitFor (.collw h)))
    else
      .next (finish (modCur (acquireCur (retireColl s h c) 4) (fun g => { g with colls := g.colls.filter (fun k => decide (k ≠ h)) })) 4 d c.word5)

end Sys2Proof.Machine
end

