-- ==== Sys2Proof/Machine/P256.lean ====
section
/-! DEFINITION. ECDSA over P-256 (R409, R412), as its public standard gives it (log 50). -/

namespace Sys2Proof.Machine

open Sys2Proof

def p256p : Nat := 0xffffffff00000001000000000000000000000000ffffffffffffffffffffffff
def p256n : Nat := 0xffffffff00000000ffffffffffffffffbce6faada7179e84f3b9cac2fc632551
def p256b : Nat := 0x5ac635d8aa3a93e7b3ebbd55769886bc651d06b0cc53b0f63bce3c3e27d2604b
/-- A point of the curve in Jacobian coordinates: (X / Z², Y / Z³), at infinity where Z = 0. -/
structure Point where
  x : Nat
  y : Nat
  z : Nat
  deriving DecidableEq, Repr
def p256g : Point := ⟨0x6b17d1f2e12c4247f8bce6e563a440f277037d812deb33a0f4a13945d898c296,
  0x4fe342e2fe1a7f9b8ee7eb4a7c0f9e162bce33576b315ececbb6406837bf51f5, 1⟩
def infinity : Point := ⟨1, 1, 0⟩

/-- r · x^e modulo m, over the low `n` bits of e. -/
def powMod (m x e : Nat) : Nat → Nat → Nat
  | 0, r => r
  | n + 1, r => forced (if e.testBit n then r * r % m * x % m else r * r % m) (powMod m x e n)
/-- The inverse modulo a prime. -/
def invMod (m x : Nat) : Nat := powMod m x (m - 2) 256 1

def onCurve (x y : Nat) : Bool :=
  decide (x < p256p) && decide (y < p256p) && decide ((x * x * x + (p256p - 3) * x + p256b) % p256p = y * y % p256p)

/-- A difference modulo p. -/
def subP (a b : Nat) : Nat := (a + p256p - b % p256p) % p256p
def point {α : Type} (x y z : Nat) (f : Point → α) : α := forced x (fun x => forced y (fun y => forced z (fun z => f ⟨x, y, z⟩)))

/-- Twice a point. -/
def doublePoint {α : Type} (a : Point) (f : Point → α) : α :=
  forced (a.y * a.y % p256p) (fun yy => forced (a.z * a.z % p256p) (fun zz => forced (4 * a.x * yy % p256p) (fun s =>
    forced (3 * subP a.x zz * (a.x + zz) % p256p) (fun m => forced (subP (m * m) (2 * s)) (fun x =>
      point x (subP (m * subP s x) (8 * yy * yy)) (2 * a.y * a.z % p256p) f)))))
/-- The sum of two points. -/
def addPoint {α : Type} (a b : Point) (f : Point → α) : α :=
  if a.z = 0 then f b
  else if b.z = 0 then f a
  else
    forced (a.z * a.z % p256p) (fun za => forced (b.z * b.z % p256p) (fun zb => forced (a.x * zb % p256p) (fun u =>
      forced (subP (b.x * za) u) (fun h => forced (a.y * zb % p256p * b.z % p256p) (fun s =>
        forced (subP (b.y * za % p256p * a.z) s) (fun r =>
          if h = 0 then (if r = 0 then doublePoint a f else f infinity)
          else
            forced (h * h % p256p) (fun hh => forced (h * hh % p256p) (fun hhh => forced (u * hh % p256p) (fun v =>
              forced (subP (r * r) (hhh + 2 * v)) (fun x =>
                point x (subP (r * subP v x) (s * hhh)) (h * a.z % p256p * b.z % p256p) f))))))))))

/-- `r` doubled and added through the low `n` bits of k: k times `q`, from infinity. -/
def mulPoint {α : Type} (k : Nat) (q : Point) (f : Point → α) : Nat → Point → α
  | 0, r => f r
  | n + 1, r => doublePoint r (fun d => if k.testBit n then addPoint d q (mulPoint k q f n) else mulPoint k q f n d)

/-- The signature (r, s) of digest `e` verifies under the public key (x, y). -/
def ecdsaVerify (x y e r s : Nat) : Bool :=
  onCurve x y && decide (1 ≤ r ∧ r < p256n) && decide (1 ≤ s ∧ s < p256n) &&
  forced (invMod p256n s) (fun w => forced (e * w % p256n) (fun u1 => forced (r * w % p256n) (fun u2 =>
    mulPoint u1 p256g (fun a => mulPoint u2 ⟨x, y, 1⟩ (fun b => addPoint a b (fun c =>
      decide (c.z ≠ 0) && forced (invMod p256p c.z) (fun i => decide (c.x * (i * i % p256p) % p256p % p256n = r)))) 256 infinity) 256 infinity)))

/-- A coordinate x or y, by the power of 1/Z, of a point not at infinity. -/
def affine (pow c z : Nat) : Nat := forced (invMod p256p z) (fun i => c * powMod p256p i pow 2 1 % p256p)

/-- A point of the curve from a multiple of the base point, as its two coordinates. -/
def basePointTimes (k : Nat) : Nat × Nat := mulPoint k p256g (fun c => (affine 2 c.x c.z, affine 3 c.y c.z)) 256 infinity

/-- The signature (r, s) of digest `e` under the private key `d`, made with the secret number `k`. -/
def ecdsaSign (d k e : Nat) : Nat × Nat :=
  forced ((basePointTimes k).1 % p256n) (fun r => (r, invMod p256n k * ((e + r * d) % p256n) % p256n))

end Sys2Proof.Machine
end

