-- ==== Sys2Proof/Machine/BringUp.lean ====
section
/-! DEFINITION. Bring-up, firmware and attestation; soft errors; power (R406 to R413, R419, R428). -/

namespace Sys2Proof.Machine

open Sys2Proof

/-! The measurement log (R413). -/

def zeros (n : Nat) : List Byte := List.replicate n 0#8
def entryOf (h : Hub) (i : Nat) : LogEntry := amGetD h.log i ⟨1, zeros 32⟩
/-- An entry is written whole, once per reset. -/
def logEntry (s : State) (i status : Nat) (content : List Byte) : State :=
  modHub s (fun h => if (amGet h.log i).isSome then h else { h with log := amPut h.log i ⟨status, sha256 content⟩ })
/-- The log as a response holds it. -/
def logBytes (h : Hub) : List Byte :=
  (List.range 16).flatMap (fun k =>
    bytesOf 4 (k + 1) ++ bytesOf 4 (entryOf h (k + 1)).status ++ zeros 24 ++ (entryOf h (k + 1)).digest)

/-- A number from 1 to the order of the base point less one. -/
def scalar (n : Nat) : Nat := 1 + n % (p256n - 1)
/-- The 64 bytes of a signature by the identity key over the SHA-256 digest of a message (R412). -/
def identitySign (n : Nat) (msg : List Byte) : List Byte :=
  let (r, t) := ecdsaSign (scalar Config.identityKey) (scalar (Config.signNonce n)) (natOfBE (sha256 msg))
  beBytes 32 r ++ beBytes 32 t
/-- The identity key's public half. -/
def identityPublic : Nat × Nat := basePointTimes (scalar Config.identityKey)

/-- GET_MEASUREMENTS (R413). An SPDM request returns the measurement log and a signature over it and the nonce. -/
def execGetMeasurements (nonce : List Byte) (s : State) : Out :=
  let (n, s1) := takeFree s
  let es := logBytes s.hub
  .next (modHub s1 (fun h => { h with responses := h.responses ++ [es ++ identitySign n (es ++ nonce)] }))

/-- GET_CERTIFICATE (R412). An SPDM request returns the identity key's certificate chain; slot 0 alone has one. -/
def execGetCertificate (slot : Nat) (s : State) : Out :=
  .next (modHub s (fun h => { h with responses := h.responses ++ [if slot = 0 then Config.certChain identityPublic.1 identityPublic.2 else []] }))

/-! Firmware (R408, R409). -/

def imgNat (img : List Byte) (o n : Nat) : Nat := natOfBytes ((img.drop o).take n)
def imgSVN (img : List Byte) : Nat := imgNat img 8 4
def imgLEN (img : List Byte) : Nat := imgNat img 12 4
def imgPUBK (img : List Byte) : List Byte := (img.drop 16).take 64
/-- Header and body. -/
def imgWhole (img : List Byte) : List Byte := img.take (192 + imgLEN img)
def imgBE (img : List Byte) (o : Nat) : Nat := natOfBE ((img.drop o).take 32)
/-- The first check of R409 that a slot fails; 0 when it passes them all. -/
def imgCheck (h : Hub) (img : List Byte) : Nat :=
  let len := imgLEN img
  if imgNat img 0 4 ≠ 0x314D4657 ∨ imgNat img 4 2 ≠ 1 ∨ imgNat img 6 2 ≠ 0 ∨ (img.drop 80).take 48 ≠ zeros 48
      ∨ len % 16 ≠ 0 ∨ len < 16 ∨ 2 ^ 24 < len ∨ img.length < 192 + len then 1
  else if sha256 (imgPUBK img) ≠ h.fuseKey then 2
  else if !ecdsaVerify (imgBE img 16) (imgBE img 48)
      (natOfBE (sha256 (img.take 128 ++ (img.drop 192).take len))) (imgBE img 128) (imgBE img 160) then 3
  else if imgSVN img < h.fuseMin then 4
  else 0

/-- A verified image runs: its version is raised into the fuses, and the log tells of it and of the other slot, with the check
that one fails. -/
def runImage (s : State) (img other : List Byte) (status err : Nat) : State :=
  let s1 := logEntry (logEntry s 2 0 (imgWhole img)) 3 status (imgWhole other)
  let s2 := modHub s1 (fun h => { h with svn := imgSVN img % 256, berr := err, fuseMin := max h.fuseMin (imgSVN img), fw := true })
  logEntry s2 4 0 (Config.fuseRecord s2.hub.fuseKey s2.hub.fuseMin)

/-- The log status of a slot refused by a check. -/
def refusedBy (check : Nat) : Nat := 2 + 256 * check

/-- BOOT_VERIFY (R409). From Reset the device enters Verifying. There the boot ROM checks flash slots A and B in order and
runs the first image that passes, or locks. -/
def execBootVerify (s : State) : Out :=
  let h := s.hub
  if h.boot = .reset then .next (logEntry (modHub s (fun h => { h with boot := .verifying })) 1 0 h.romImage)
  else if h.boot ≠ .verifying ∨ h.fw then .next s
  else
    let a := imgCheck h h.slotA
    let b := imgCheck h h.slotB
    if a = 0 then .next (runImage s h.slotA h.slotB (if b = 0 then 0 else refusedBy b) 0)
    else if b = 0 then .next (runImage s h.slotB h.slotA (refusedBy a) 1)
    else
      let s1 := logEntry (logEntry s 2 (refusedBy a) (imgWhole h.slotA)) 3 (refusedBy b) (imgWhole h.slotB)
      .next (logEntry (modHub s1 (fun h => { h with boot := .locked, berr := 2 })) 4 0 (Config.fuseRecord h.fuseKey h.fuseMin))

/-- DIE_TRAINING_END (R407). A compute die ends memory training, passed or failed; with die 0 trained Die-0 service begins. -/
def execDieTrainingEnd (die : Nat) (ok : Bool) (s : State) : Out :=
  let h := s.hub
  if 12 ≤ die ∨ !h.fw ∨ h.ended.testBit die ∨ (h.boot ≠ .verifying ∧ h.boot ≠ .die0) ∨ (h.boot = .verifying ∧ die ≠ 0) then .next s
  else
    let s1 := modHub s (fun h => { h with
      ended := h.ended ||| 2 ^ die, dtrn := if ok then h.dtrn ||| 2 ^ die else h.dtrn
      berr := if ok then h.berr else 3, boot := if ok && decide (die = 0) then .die0 else h.boot })
    .next (if ok then logEntry s1 (5 + die) 0 (amGetD h.dieImage die []) else s1)

/-- A span of die 0 that the switch freezes and thaws, in no time by any count of cycles. -/
def refreeze (s : State) (sp : Nat) (x : Span) : State :=
  let s1 := writeTable (haltClusters s x.clusters) sp
  thawSpan (modSpan s1 sp (fun y => { y with phase := .frozen, freezeAt := now s sp })) sp { x with freezeAt := now s sp }

/-- The switch held die 0 in every partition; now it clears that HOLD, but where a removed slice is not yet Clean (R358). -/
def letGoDie0 (s : State) : State :=
  (List.range 16).foldl (fun s p =>
    if !holdsDie (getPart s p) 0 then s
    else if unclean s.hub p 0 then refuse s p 6
    else modPart s p (fun P => { P with pctl := setBit 16 P.pctl false })) s

/-- CLOCK_SWITCH (R411). The management core raises die 0 to 1.5 GHz and enters Full service, once every other die has ended
training: the spans of die 0 are frozen and thawed, and HOLD of die 0 is cleared. -/
def execClockSwitch (s : State) : Out :=
  let h := s.hub
  let mine := s.spans.entries.filter (fun p => p.2.clusters.any (fun c => decide (dieOf c = 0)))
  let calm := mine.all (fun p => decide (p.2.phase = .frozen)
    || (decide (p.2.phase = .running) && p.2.clusters.all (fun c => clusterHalted (spanNow s p.1) (getCl s c))))
  if h.boot ≠ .die0 ∨ h.ended % 4096 ≠ 4095 ∨ !calm then .next s
  else
    let s1 := mine.foldl (fun s p => if p.2.phase = .running then refreeze s p.1 p.2 else s) s
    .next (modHub (letGoDie0 s1) (fun h => { h with boot := .full, clock0 := true }))

/-- PACKAGE_RESET (R407). A package reset returns the device to Reset; flash, fuses, the images and memory contents stay. -/
def execPackageReset (s : State) : Out :=
  let h := s.hub
  .next { State.reset with
    agenda := s.agenda, tick := s.tick, free := s.free, serial := s.serial, mem := s.mem
    bad := amFilter s.bad (fun _ code => decide (code = 1))
    hub := { hubReset with
      slotA := h.slotA, slotB := h.slotB, fuseKey := h.fuseKey, fuseMin := h.fuseMin, romImage := h.romImage
      dieImage := h.dieImage, msix := h.msix, responses := h.responses, sent := h.sent } }

/-! Soft errors (R419). -/

/-- A die's counters of a source advance. -/
def countDie (s : State) (d src : Nat) : State :=
  modHub s (fun h => { h with dctr := amMap h.dctr (fun k c => if k / 32 = d ∧ c.src = src then { c with val := c.val + 1#64 } else c) })
/-- The same in memory or L2: the home die of the address. -/
def softMemory (s : State) (multi : Bool) (pa code : Nat) : State :=
  let d := Config.homeDie pa % 12
  fleetRecord (countDie s d (if multi then 0x6010 else 0x6000 + code)) (if multi then 2 else 1) 0xFF d 0xFFF pa code 0

/-- PATROL (R419). An error is found in the structure of `code`, by the patrol engine or at an access: a single-bit error is
corrected, a multi-bit one is uncorrectable. `place` is a physical address for memory and L2; for a tile granule
(cluster · 32 + tile) · 4096 + granule; for an element's words (cluster · 128 + element) · 16 + slot. -/
def execPatrol (code place : Nat) (multi : Bool) (s : State) : Out :=
  match code with
  | 1 =>
    if !paExists place then .next s
    else if multi then
      let s1 := softMemory s true place 1
      .next { s1 with bad := amPut (amPut s1.bad (place / 32 * 2) 1) (place / 32 * 2 + 1) 1 }
    else .next (softMemory s false place 1)
  | 2 =>
    if !paExists place then .next s
    else if !multi then .next (softMemory s false place 2)
    else
      let (n, s1) := takeFree s
      let s2 := softMemory s1 true place 2
      .next (if Config.lineClean n then s2 else { s2 with bad := amPut s2.bad (place / 16) 2 })
  | 3 =>
    let cl := place / 4096 / 32
    let t := place / 4096 % 32
    if 3072 ≤ cl then .next s
    else if multi then
      .next (softCluster (modTile s cl t (fun y => { y with bad := amPutD y.bad (place % 4096) true false })) true cl place 3)
    else .next (softCluster s false cl place 3)
  | 4 =>
    let cl := place / 16 / 128
    let el := place / 16 % 128
    if 3072 ≤ cl then .next s
    else
      let s1 := softCluster s true cl place 4
      match amGet (getCl s cl).elems el with
      | none => .next s1
      | some e => .next (if e.fault.isNone then elemFault s1 cl el ⟨9, 0, 0, locWord (relCl s cl) el (place % 16) 0 0⟩ else s1)
  | _ => .next s

/-! Power (R427, R428). -/

/-- A KIND 8 record: an action on a die, and its power. -/
def powerRecord (s : State) (die action watts : Nat) : State := fleetRecord s 8 0xFF die 0xFFF action watts 0

/-- The measurements of a die that are due: one for each 2^20 of its cycles. -/
def measureDue (s : State) (die : Nat) : Bool := decide (amGetD s.hub.measured die 0 < cycleOf s die / 2 ^ 20)

/-- POWER_MEASUREMENT (R428). The management core measures die power in watts and temperature in °C, once in 2^20 cycles of
the die, and limits or restores the die's tokens by one step, down to 1/16; at 105 °C it decides to remove power. -/
def execPowerMeasurement (die watts temp : Nat) (s0 : State) : Out :=
  if 12 ≤ die ∨ s0.hub.off ∨ !measureDue s0 die then .next s0
  else
    let s := modHub s0 (fun h => { h with measured := amPutD h.measured die (amGetD h.measured die 0 + 1) 0 })
    let n := amGetD s.hub.steps die 0
    let set (k : Nat) (s : State) : State := modHub s (fun h => { h with steps := amPutD h.steps die k 0 })
    let s1 :=
      if 1100 < watts ∨ 95 < temp then (if n < 4 then powerRecord (set (n + 1) s) die 1 watts else s)
      else if watts < 1000 ∧ temp < 90 ∧ 0 < n then powerRecord (set (n - 1) s) die 2 watts
      else s
    if 105 ≤ temp ∧ s.hub.powerOffAt.isNone then
      .next (modHub (powerRecord s1 die 3 watts) (fun h => { h with powerOffAt := some (hubNow s + 2 ^ 16) }))
    else .next s1

/-- POWER_REMOVAL (R428). 2^16 cycles after a 105 °C shutdown record, power is removed from the dies; only a package reset
follows. -/
def execPowerRemoval (s : State) : Out :=
  match s.hub.powerOffAt with
  | none => .next s
  | some t =>
    if t ≤ hubNow s then
      .next (modHub { s with near := [], clusters := amEmpty, spans := amEmpty, dir := amEmpty } (fun h => { h with off := true, powerOffAt := none }))
    else .next s

end Sys2Proof.Machine
end

