-- ==== Sys2Proof/Machine/CoreBranch.lean ====
section
/-! DEFINITION. Control core: branches, jumps and the EXT pair (R168, R169, R179). -/

namespace Sys2Proof.Machine

open Sys2Proof

/-- The pc moves by `off` words from the instruction when the branch is taken, else past it (R179). -/
def branchTo (s : State) (len : Nat) (off : W64) (taken : Bool) : State :=
  modCur s (fun g => if taken then { g with pc := g.pc + (off * 4#64).setWidth 52 } else advance len g)

/-- A conditional branch on two registers. -/
def coreBranch (s : State) (len : Nat) (a b : BitVec 5) (off : W64) (rel : W64 → W64 → Bool) : State :=
  branchTo s len off (rel (xget (curGrp s) a) (xget (curGrp s) b))

/-- JALR (R179): the target is formed before xd is written. -/
def coreJalr (s : State) (len : Nat) (d a : BitVec 5) (imm : W64) : State :=
  modCur s (fun g =>
    let target := BitVec.ofNat 52 ((xget g a + imm).toNat % 2 ^ 52 / 4 * 4)
    { xset d ((g.pc + BitVec.ofNat 52 len).setWidth 64) g with pc := target })

/-- BEQ (R179). Control core branches if equal. -/
def execBeq (a : BitVec 5) (b : BitVec 5) (o : BitVec 16) (s : State) : Out :=
  .next (coreBranch s 4 a b (immS o) (fun x y => x == y))

/-- BNE (R179). Control core branches if not equal. -/
def execBne (a : BitVec 5) (b : BitVec 5) (o : BitVec 16) (s : State) : Out :=
  .next (coreBranch s 4 a b (immS o) (fun x y => x != y))

/-- BLT (R179). Control core branches if signed less. -/
def execBlt (a : BitVec 5) (b : BitVec 5) (o : BitVec 16) (s : State) : Out :=
  .next (coreBranch s 4 a b (immS o) (fun x y => ltS x y))

/-- BGE (R179). Control core branches if signed greater or equal. -/
def execBge (a : BitVec 5) (b : BitVec 5) (o : BitVec 16) (s : State) : Out :=
  .next (coreBranch s 4 a b (immS o) (fun x y => !ltS x y))

/-- BLTU (R179). Control core branches if unsigned less. -/
def execBltu (a : BitVec 5) (b : BitVec 5) (o : BitVec 16) (s : State) : Out :=
  .next (coreBranch s 4 a b (immS o) (fun x y => ltU x y))

/-- BGEU (R179). Control core branches if unsigned greater or equal. -/
def execBgeu (a : BitVec 5) (b : BitVec 5) (o : BitVec 16) (s : State) : Out :=
  .next (coreBranch s 4 a b (immS o) (fun x y => !ltU x y))

/-- J (R179). Control core jumps unconditionally. -/
def execJump (o : BitVec 26) (s : State) : Out :=
  .next (branchTo s 4 (o.signExtend 64) true)

/-- JAL (R179). Control core jumps and links into x31. -/
def execJal (o : BitVec 26) (s : State) : Out :=
  .next (branchTo (modCur s (fun g => xset 31#5 ((g.pc + 4#52).setWidth 64) g)) 4 (o.signExtend 64) true)

/-- JALR (R179). Control core jumps to a register target and links. -/
def execJalr (d : BitVec 5) (a : BitVec 5) (i : BitVec 16) (s : State) : Out :=
  .next (coreJalr s 4 d a (immS i))

/-- One instruction word of the virtual space, with execute permission (R169). -/
def fetchWord (s : State) (cl asid va : Nat) : VAcc W32 :=
  match translate s cl asid va 4 with
  | .miss => .miss va
  | .fault c => .fault c va
  | .hit pa => .ok (BitVec.ofNat 32 (natOfBytes (readBy s cl pa 4)))

/-- The fetch of a word reaches the die's L2 (R174, R296). -/
def fetchTouch (s : State) (cl asid va : Nat) : State :=
  match translate s cl asid va 4 with
  | .hit pa => l2Touch s cl pa
  | _ => s

/-- The opcodes that accept an EXT prefix (R170). -/
def acceptsExt (opc : Nat) : Bool :=
  decide (1 ≤ opc ∧ opc ≤ 4) || decide (8 ≤ opc ∧ opc ≤ 10) || decide (0x10 ≤ opc ∧ opc ≤ 0x16)
  || decide (0x18 ≤ opc ∧ opc ≤ 0x1B) || decide (0x20 ≤ opc ∧ opc ≤ 0x25) || decide (opc = 0x28)

/-- The 39-bit offset of an extended load or store (R175). -/
def off39 (h : BitVec 26) (o : BitVec 13) : W64 := (h ++ o : BitVec 39).signExtend 64

/-- The second word of an EXT pair with its extended immediate, eight bytes long (R168). -/
def extPair (s : State) (h : BitVec 26) (i : Instr) : Option State :=
  match i with
  | .addi d a i => some (aluRI s 8 d a (imm42S h i) (fun x y => x + y))
  | .coreAndi d a i => some (aluRI s 8 d a (imm42Z h i) (fun x y => x &&& y))
  | .coreOri d a i => some (aluRI s 8 d a (imm42Z h i) (fun x y => x ||| y))
  | .xori d a i => some (aluRI s 8 d a (imm42Z h i) (fun x y => x ^^^ y))
  | .slti d a i => some (aluRI s 8 d a (imm42S h i) (fun x y => setIf (ltS x y)))
  | .sltiu d a i => some (aluRI s 8 d a (imm42S h i) (fun x y => setIf (ltU x y)))
  | .liu d i => some (aluRI s 8 d 0#5 (imm42S h i) (fun _ y => y <<< 32))
  | .ldI8 d a sc o => some (coreLoad s 8 d a sc.toNat (off39 h o) 1 true false)
  | .ldN8 d a sc o => some (coreLoad s 8 d a sc.toNat (off39 h o) 1 false false)
  | .ldI16 d a sc o => some (coreLoad s 8 d a sc.toNat (off39 h o) 2 true false)
  | .ldN16 d a sc o => some (coreLoad s 8 d a sc.toNat (off39 h o) 2 false false)
  | .ldI32 d a sc o => some (coreLoad s 8 d a sc.toNat (off39 h o) 4 true false)
  | .ldN32 d a sc o => some (coreLoad s 8 d a sc.toNat (off39 h o) 4 false false)
  | .ld64 d a sc o => some (coreLoad s 8 d a sc.toNat (off39 h o) 8 false false)
  | .st8 d a sc o => some (coreStore s 8 d a sc.toNat (off39 h o) 1 false)
  | .st16 d a sc o => some (coreStore s 8 d a sc.toNat (off39 h o) 2 false)
  | .st32 d a sc o => some (coreStore s 8 d a sc.toNat (off39 h o) 4 false)
  | .st64 d a sc o => some (coreStore s 8 d a sc.toNat (off39 h o) 8 false)
  | .beq a b o => some (coreBranch s 8 a b (imm42S h o) (fun x y => x == y))
  | .bne a b o => some (coreBranch s 8 a b (imm42S h o) (fun x y => x != y))
  | .blt a b o => some (coreBranch s 8 a b (imm42S h o) (fun x y => ltS x y))
  | .bge a b o => some (coreBranch s 8 a b (imm42S h o) (fun x y => !ltS x y))
  | .bltu a b o => some (coreBranch s 8 a b (imm42S h o) (fun x y => ltU x y))
  | .bgeu a b o => some (coreBranch s 8 a b (imm42S h o) (fun x y => !ltU x y))
  | .jalr d a i => some (coreJalr s 8 d a (imm42S h i))
  | _ => none

/-- The pair an EXT word makes with the word at pc + 4 (R168): one instruction, or the subcode 4 trap at
the EXT address; a fault on fetching the second word names its address in SY.TVAL. -/
def extStep (h : BitVec 26) (s : State) : State :=
  let g := curGrp s
  let va := (g.pc + 4#52).toNat
  match fetchWord s s.cur.cl g.asid va with
  | .miss v => waitWalk s v 4
  | .fault c v => takeTrap s ⟨c, 0, 0, v⟩
  | .ok w =>
    let s := fetchTouch s s.cur.cl g.asid va
    if !acceptsExt (field 31 26 w) then illegal s 4
    else
      match coreRow w with
      | none => illegal s (coreSub w).toNat
      | some i => (extPair s h i).getD (illegal s 4)

/-- EXT (R168). Prefix word that extends the next instruction's immediate to 42 bits. -/
def execExt (h : BitVec 26) (s : State) : Out :=
  .next (extStep h s)

end Sys2Proof.Machine
end

