-- ==== Sys2Proof/Machine/ElemChannel.lean ====
section
/-! DEFINITION. Element channel, order, template, request, delta and system instructions, 0xC0 to 0xE3 (R147 to R163). -/

namespace Sys2Proof.Machine

open Sys2Proof

/-! Passing and marking (R147 to R149). -/

/-- PASS, MKROW and MKEND: a copy of A whose last header gains LR and LS (R147). -/
def passEffect (v : Env) (lr ls : Bool) : Effect :=
  let hdr (j : Nat) : W32 :=
    let h := header v none v.vl v.lg j
    if j + 1 = v.lg then setBit 26 (setBit 25 h (hdrLS h || ls)) (hdrLR h || lr) else h
  laneEffect v v.lg v.vl v.lg hdr (guardedRes v (laneA v))

/-- A firing whose result is zero in every lane as far as PW goes. -/
def zeroEffect (v : Env) (cyc : Nat) : Effect :=
  { baseEffect v cyc with preds := predWrite v (fun _ => false), wroteP := predWritten v }

/-- BUBL: one token with BUB = 1, LN = 0 and a zero payload, from the template (R148). -/
def bublEffect (v : Env) : Effect :=
  let t := template v (outNo v)
  { zeroEffect v 1 with toks := [⟨lanesZero, mkHdr (hdrFMT t) (hdrLR t) (hdrLS t) true 0 (hdrTAG t) (hdrSEQ t)⟩] }

/-- DEQ: A and B are popped and discarded, and do not tag the firing (R149). -/
def deqEffect (v : Env) : Effect := { zeroEffect v v.lg with tag := predTagged v }

/-! Steering, merging, joining (R150 to R153). -/

/-- A group that passes whole under its own header. With HC = 1 the template is the header source (R76); LN and BUB say what
the payload is, and stay (log 62). -/
def wholeGroup (v : Env) (out : Nat) (g : List Token) : List Token :=
  if v.hc then
    let t := template v out
    g.mapIdx (fun j x =>
      let last := decide (j + 1 = g.length)
      { x with hdr := mkHdr (hdrFMT t) (last && hdrLR t) (last && hdrLS t) (hdrBUB x.hdr) (hdrLN x.hdr) (hdrTAG t) (hdrSEQ t) })
  else g
/-- STEER: the group passes whole to o(D − 16) or o(D − 15) by the control bit (R150). A predicate that is written takes 0 (log 58). -/
def steerEffect (v : Env) : Effect :=
  let bit := match operandOf v.w.b with
    | .k n => (vec4Get v.ctl n).getD false
    | _ => false
  let out := outNo v + b2n bit
  { zeroEffect v v.lg with toks := wholeGroup v out ((groupA v).getD []), out := out }

/-- MRG and MRGU: the chosen arm's group passes whole, and MRGU remembers the arm (R151, R152). A predicate
that is written takes 0 (log 58). -/
def mergeEffect (v : Env) (keep : Bool) : Effect :=
  match mergeArm v with
  | none => zeroEffect v v.lg
  | some a =>
    let g := (vec4Get v.ins a).getD []
    let b := zeroEffect v v.lg
    { b with
      toks := wholeGroup v (outNo v) g, popI := b.popI ++ [(a, v.lg)], tag := b.tag || groupTagged (some g)
      arm := if keep then some a else none }

/-- JOIN: one group is popped from every channel of IR; the AND of the control bits goes to y(D − 20) (R153). -/
def joinEffect (v : Env) : Effect :=
  let ks := (List.range 4).filter (fun i => bitAt (4 + i) v.w.ir)
  let is := (List.range 4).filter (fun i => bitAt i v.w.ir)
  let all := ks.all (fun n => (vec4Get v.ctl n).getD false)
  let y := match destOf v.w.d with
    | .y n => n
    | _ => 0
  { baseEffect v v.lg with
    preds := predWrite v (fun _ => all), wroteP := predWritten v
    bit := some (y, guardL v 0 && all)
    popI := is.map (fun n => (n, v.lg)), popK := ks
    tag := readsTagged v || is.any (fun n => groupTagged (vec4Get v.ins n)) }

/-! Templates (R154, R155). -/

/-- HTn of the firing operator, n = IMM10[9:8], changed by `f`. -/
def withTemplate (v : Env) (f : W32 → W32) : OpCtx :=
  let n := imm10 v.w / 256 % 4
  { v.c with ht := vec4Set v.c.ht n (f (vec4Get v.c.ht n)) }
def tagsetHdr (i : Nat) (h : W32) : W32 := setField 18 16 h (if i.testBit 3 then (hdrTAG h + 1) % 8 else i % 8)
def hdrwHdr (i seq : Nat) (h : W32) : W32 :=
  setField 15 0 (setField 18 16 (setField 25 25 (setField 26 26 (setField 29 27 h (i / 32 % 8)) (i / 16 % 2)) (i / 8 % 2)) (i % 8)) seq

/-! Requests (R156). -/

/-- MXTOK, SREQ, XREQ: one request token of a kind. -/
def requestEffect (v : Env) (kind : Nat) : Effect :=
  let lane (i : Nat) : W32 :=
    if i < 4 then laneA v i else if i < 7 then laneB v (i - 4)
    else BitVec.ofNat 32 (kind * 2 ^ 28 + (laneB v 3).toNat % 2 ^ 28)
  { zeroEffect v 1 with toks := [⟨vec8Of lane 0, setField 22 19 (header v (some 0) v.vl 1 0) 8⟩] }

/-! Temporal delta (R158, R159). -/

/-- RoundD: the nearest F32 pattern with bits [4:0] zero, ties to bit 5 = 0, ±∞ from 2^128 − 2^108 on. -/
def roundD (d : Exact) : W32 :=
  match d with
  | .nan => nanF32
  | _ => BitVec.ofNat 32 (fround fmtRoundD .rne d * 32)
def deltaOf (v : Env) (l : Nat) : Exact := exSub .rne (f32 (laneA v l)) (f32 (laneB v l))
/-- Whether a lane's change is sent. -/
def deltaSent (v : Env) (l : Nat) : Bool :=
  let d := deltaOf v l
  guardL v l && (exIsNaN d || exLt (f32 v.c.dth) (exAbs d))

/-- DELTA: the pairs in ⌈c/8⌉ tokens, LR and LS of A's group on the last; where A is no channel, or HC = 1, they come from
R76's header source, B's group or the template. Of two channels A's group alone counts (log 22). -/
def deltaEffect (v : Env) : Effect :=
  let pairs := ((List.range v.vl).filter (deltaSent v)).map (fun l => roundD (deltaOf v l) ||| BitVec.ofNat 32 l)
  let c := pairs.length
  let t := template v (outNo v)
  let grp := if v.hc then none else if (groupA v).isSome then groupA v else groupB v
  let lr := match grp with
    | some g => g.any (fun x => hdrLR x.hdr)
    | none => hdrLR t
  let ls := match grp with
    | some g => g.any (fun x => hdrLS x.hdr)
    | none => hdrLS t
  let n := ceilDiv c 8
  let hdr (j : Nat) : W32 :=
    let h := header v (some 1) v.vl n j
    let last := decide (j + 1 = n)
    mkHdr (hdrFMT h) (last && lr) (last && ls) false (min 8 (c - 8 * j)) (hdrTAG h) (hdrSEQ h)
  let bubble : List Token :=
    if (groupA v).isSome && (((groupA v).getD []).any (fun x => hdrLR x.hdr || hdrLS x.hdr)) then
      let h := header v (some 1) v.vl 1 0
      [⟨lanesZero, mkHdr (hdrFMT h) lr ls true 0 (hdrTAG h) (hdrSEQ h)⟩]
    else []
  { baseEffect v v.lg with
    preds := predWrite v (deltaSent v), wroteP := predWritten v
    toks := if c = 0 then bubble else tokensOf n (fun l => pairs.getD l 0#32) hdr }

/-- One pair applied to register group D (R159). -/
def residStep (v : Env) (d : Nat) (b : W32) (p : Vec16 (Vec8 W32) × List Nat) (a : W32) : Vec16 (Vec8 W32) × List Nat :=
  let i := a.toNat % 32
  let t := i - b.toNat
  if b.toNat ≤ i ∧ t < 8 * v.lg ∧ guardL v t then
    let r := (d + t / 8) % 16
    let old := vec8Get (vec16Get p.1 r) (t % 8)
    let new := toF32 .rne (exAdd .rne (f32 old) (f32 (a &&& 0xFFFFFFE0#32)))
    (vec16Set p.1 r (vec8Set (vec16Get p.1 r) (t % 8) new), p.2 ++ [r])
  else p

/-- RESID: the valid lanes of one token of A, ascending; untargeted lanes keep their values. -/
def residEffect (v : Env) : Effect :=
  let tok := ((groupA v).getD []).getD 0 tokenZero
  match destOf v.w.d with
  | .v d =>
    let r := ((List.range (min 8 (hdrLN tok.hdr))).map (fun j => vec8Get tok.lanes j)).foldl
      (residStep v d (laneB v 0)) (v.e.regs, [])
    { zeroEffect v 1 with regs := r.1, wrote := r.2 }
  | _ => zeroEffect v 1

/-! System (R160 to R162). -/

/-- TRAP completes, then the element stops with an element trap (R161). -/
def trapFire (s : State) (w : Slot) : Out :=
  match fireEnv s 0xE1 w with
  | none => .next s
  | some v => .next (elemFault (applyEffect s v (baseEffect v 1)) v.cl v.el ⟨0x11, 0, imm10 w, slotLoc v⟩)

/-- PASS (R147). Element slot copies a channel token group to the destination. -/
def execPass (w : Slot) (s : State) : Out :=
  fireSlot s 0xC0 w (fun v => passEffect v false false)

/-- MKROW (R147). Element slot copies a token group and marks last-in-row. -/
def execMkrow (w : Slot) (s : State) : Out :=
  fireSlot s 0xC3 w (fun v => passEffect v true false)

/-- MKEND (R147). Element slot copies a token group and marks last-in-row and last-in-stream. -/
def execMkend (w : Slot) (s : State) : Out :=
  fireSlot s 0xC4 w (fun v => passEffect v true true)

/-- BUBL (R148). Element slot emits one bubble token. -/
def execBubl (w : Slot) (s : State) : Out :=
  fireSlot s 0xC2 w (fun v => bublEffect v)

/-- DEQ (R149). Element slot pops and discards tokens. -/
def execDeq (w : Slot) (s : State) : Out :=
  fireSlot s 0xC1 w (fun v => deqEffect v)

/-- STEER (R150). Element slot routes a token group to one of two outputs by a control bit. -/
def execSteer (w : Slot) (s : State) : Out :=
  fireSlot s 0xC5 w (fun v => steerEffect v)

/-- MRG (R151). Element slot merges two arms in the order a control stream dictates. -/
def execMrg (w : Slot) (s : State) : Out :=
  fireSlot s 0xC6 w (fun v => mergeEffect v false)

/-- MRGU (R152). Element slot takes a group from the next ready arm in cyclic order. -/
def execMrgu (w : Slot) (s : State) : Out :=
  fireSlot s 0xC7 w (fun v => mergeEffect v true)

/-- JOIN (R153). Element slot pops named channels and emits the AND of control bits. -/
def execJoin (w : Slot) (s : State) : Out :=
  fireSlot s 0xC8 w (fun v => joinEffect v)

/-- TAGSET (R154). Element slot sets or increments an output template's TAG. -/
def execTagset (w : Slot) (s : State) : Out :=
  fireSlot s 0xC9 w (fun v => { baseEffect v 1 with ctx := withTemplate v (tagsetHdr (imm10 v.w)) })

/-- HDRW (R155). Element slot writes an output header template. -/
def execHdrw (w : Slot) (s : State) : Out :=
  fireSlot s 0xCA w (fun v => { baseEffect v 1 with ctx := withTemplate v (hdrwHdr (imm10 v.w) ((laneA v 0).toNat % 65536)) })

/-- MXTOK (R156). Element slot forms a matrix island request token. -/
def execMxtok (w : Slot) (s : State) : Out :=
  fireSlot s 0xCB w (fun v => requestEffect v 1)

/-- SREQ (R156). Element slot forms a stream start request token. -/
def execSreq (w : Slot) (s : State) : Out :=
  fireSlot s 0xCC w (fun v => requestEffect v 2)

/-- XREQ (R156). Element slot forms a transfer request token. -/
def execXreq (w : Slot) (s : State) : Out :=
  fireSlot s 0xCD w (fun v => requestEffect v 3)

/-- DELTA (R158). Element slot emits (index, delta) pairs for lanes that pass the threshold. -/
def execDelta (w : Slot) (s : State) : Out :=
  fireSlot s 0xCE w (fun v => deltaEffect v)

/-- RESID (R159). Element slot applies one pair token to kept state. -/
def execResid (w : Slot) (s : State) : Out :=
  fireSlot s 0xCF w (fun v => residEffect v)

/-- HALT (R160). Element slot ends the firing operator for the configuration period. -/
def execHalt (w : Slot) (s : State) : Out :=
  fireOperator s 0xE0 w (fun v => zeroEffect v v.lg) (fun _ c => { c with halted := true })

/-- RHINT (R162). Element slot sets the operator's rate weight. -/
def execRhint (w : Slot) (s : State) : Out :=
  fireOperator s 0xE2 w (fun v => baseEffect v 1) (fun v c => { c with weight := imm10 v.w })

/-- FHINT (R162). Element slot sets the operator's placement hint. -/
def execFhint (w : Slot) (s : State) : Out :=
  fireOperator s 0xE3 w (fun v => baseEffect v 1) (fun v c => { c with hint := imm10 v.w % 4 })

/-- TRAP (R161). Element slot completes, stops the element and delivers an element trap. -/
def execElTrap (w : Slot) (s : State) : Out :=
  trapFire s w

end Sys2Proof.Machine
end

