-- ==== Sys2Proof/Machine/HostRead.lean ====
section
/-! DEFINITION. What a host read of a register returns (R2, R406, R407 and the register tables of R357 to R426), and the host
access. -/

namespace Sys2Proof.Machine

open Sys2Proof

/-! The hub's registers. -/

/-- The STATE code of BSTAT (R406). -/
def stateCode (b : Boot) : Nat :=
  match b with
  | .reset => 0
  | .verifying => 1
  | .die0 => 2
  | .full => 3
  | .locked => 15
/-- BSTAT (R406). -/
def bstat (h : Hub) : Nat := stateCode h.boot * 2 ^ 60 + h.dtrn % 4096 * 2 ^ 48 + h.svn % 256 * 2 ^ 32 + h.berr % 256 * 2 ^ 8

/-- The state code of a slice (R360). -/
def sliceCode (x : SliceSt) : Nat :=
  match x with
  | .clean => 0
  | .owned _ => 1
  | .dirty _ => 2
  | .flushing _ => 3

/-- PSTAT (R357): ERR and DRES. -/
def pstat (s : State) (p : Nat) : Nat :=
  (getPart s p).perr % 16 * 2 ^ 60 + (List.range 12).foldl (fun n d => n + b2n (residentOn s p d) * 2 ^ d) 0

/-- A register of the partition block of partition p (R357, R362, R383, R417, R426). -/
def readPart (s : State) (p off : Nat) : Nat :=
  let P := getPart s p
  if off < 0x60 then (amGetD P.pqmsk (off / 8) 0#64).toNat
  else if 0x100 ≤ off ∧ off < 0x280 then
    let d := (off - 0x100) / 32
    let j := (off - 0x100) % 32 / 8
    if j = 3 then (amGetD P.seed d 0#64).toNat else (amGetD P.pslc (4 * d + j) 0#64).toNat
  else if 0x300 ≤ off ∧ off < 0x400 then
    (amGetD (if off % 16 = 0 then P.wbase else P.wsize) ((off - 0x300) / 16) 0#64).toNat
  else
    match off with
    | 0x400 => P.asid.toNat
    | 0x408 => P.pctl.toNat
    | 0x410 => pstat s p
    | 0x418 => P.rsta.toNat
    | 0x420 => P.pivec.toNat
    | 0x428 => P.cmpt.toNat
    | 0x430 => P.prcap.toNat
    | 0x438 => P.cptbr.toNat
    | 0x440 => P.ctvec.toNat
    | 0x448 => P.clspb.toNat
    | 0x450 => P.clspn.toNat
    | 0x458 => P.csup.toNat
    | _ => 0

/-- A register of the pre-emption block (R390). -/
def readPre (h : Hub) (off : Nat) : Nat :=
  match off with
  | 0x400 => b2n h.preGo * 2 ^ 63 + h.preCmd.toNat % 2 ^ 63
  | 0x408 => h.pra.toNat
  | 0x410 => h.preErr % 16 * 2 ^ 60 + h.preHalt % 2 ^ 32
  | _ => 0
/-- A register of the invalidation agent (R378). -/
def readInval (h : Hub) (off : Nat) : Nat :=
  match off with
  | 0x200 => h.inva.toNat
  | 0x208 => h.invn.toNat
  | 0x210 => b2n h.invGo * 2 ^ 63 + h.invasid % 65536
  | _ => 0
/-- A register of the fleet record ring (R414). -/
def readRing (h : Hub) (off : Nat) : Nat :=
  match off with
  | 0x800 => h.frbase.toNat
  | 0x808 => h.frctl.toNat
  | 0x810 => h.frhead % 2 ^ 32
  | 0x818 => h.frlost % 2 ^ 32 * 2 ^ 32 + h.frtail % 2 ^ 32
  | _ => 0
/-- A register of a collective group (R424). -/
def readGroup (h : Hub) (off : Nat) : Nat :=
  let G := groupOf h ((off - 0x3000) / 256)
  match off % 256 with
  | 0 => b2n G.en * 2 ^ 63 + G.rank % 1024 * 2 ^ 32 + G.gm1 % 1024
  | 8 => G.lmsk.toNat
  | 16 => b2n G.rdy
  | _ => 0
/-- A register of the PF's BAR0; what names no register reads 0. -/
def readPf (s : State) (off : Nat) : Nat :=
  let h := s.hub
  if off = 0 then bstat h
  else if 0x100 ≤ off ∧ off < 0x1C0 then
    let d := (off - 0x100) / 16
    if off % 16 = 0 then (slcmdOf h d).toNat else sliceCode (sliceSt h d (slcSL h d))
  else if 0x200 ≤ off ∧ off < 0x218 then readInval h off
  else if 0x400 ≤ off ∧ off < 0x418 then readPre h off
  else if 0x500 ≤ off ∧ off < 0x560 then (amGetD h.xqmsk ((off - 0x500) / 8) 0#64).toNat
  else if 0x600 ≤ off ∧ off < 0x780 then (amGetD h.xslc (4 * ((off - 0x600) / 32) + (off - 0x600) % 32 / 8) 0#64).toNat
  else if 0x800 ≤ off ∧ off < 0x820 then readRing h off
  else if 0x2000 ≤ off ∧ off < 0x2180 then lstat (linkOf h ((off - 0x2000) / 8))
  else if off = 0x2180 then h.lthr.toNat
  else if 0x3000 ≤ off ∧ off < 0x4000 then readGroup h off
  else if 0x4000 ≤ off ∧ off < 0x5800 then
    let c := dieCounter s ((off - 0x4000) / 512) ((off - 0x4000) % 512 / 16)
    if off % 16 = 0 then c.src % 65536 else c.val.toNat
  else if 0x10000 ≤ off ∧ off < 0x20000 then readPart s ((off - 0x10000) / 4096) (off % 4096)
  else 0

/-- A register of the BAR0 of the VF that serves partition p (R363, R383). -/
def readVf (s : State) (p off : Nat) : Nat :=
  if off = 0x2000 then b2n (getPart s p).intr
  else if 0x2000 < off then 0
  else
    let Q := getQueue s p (off / 256)
    match off % 256 with
    | 0x00 => Q.qbase.toNat
    | 0x08 => Q.qcfg.toNat
    | 0x10 => Q.cqbase.toNat
    | 0x18 => Q.qtail.toNat
    | 0x20 => b2n Q.qerr * 2 ^ 63 + Q.qhead % 65536
    | _ => 0

/-- What a read of a register of a function returns. In Locked only BSTAT answers; every other register reads 0 (R407). -/
def readReg (s : State) (fn off : Nat) : Nat :=
  if off % 8 ≠ 0 then 0
  else if !answers s.hub then (if fn = 0 ∧ off = 0 then bstat s.hub else 0)
  else if fn = 0 then readPf s off
  else if fn ≤ 16 then readVf s (fn - 1) off
  else 0

/-- The host reads a register. One that shows an invalidation acknowledged is an acquire at system scope (R402). -/
def hostRegister (fn off : Nat) (s : State) : Out :=
  let s1 := if fn = 0 ∧ off = 0x210 ∧ answers s.hub ∧ !s.hub.invGo then showAll s else s
  .next (respond s1 (bytesOf 8 (readReg s fn off)))

/-- HOST_ACCESS (R355). The host reads or writes memory over CXL, through an HDM decoder or its own, reads a register, or
commits a decoder. -/
def execHostAccess (a n : Nat) (op : HostOp) (data : List Byte) (s : State) : Out :=
  match op with
  | .read => hostRead a n s
  | .write => hostStore a data s
  | .register => hostRegister a n s
  | .decoder i dpa => hostDecoder i a n dpa s

end Sys2Proof.Machine
end

