-- ==== Sys2Proof/Machine/Dispatch.lean ====
section
/-! DEFINITION. The meaning of every instruction, one arm per constructor. -/

namespace Sys2Proof.Machine

open Sys2Proof

/-- The one meaning of an instruction in a state. -/
def exec (i : Instr) (s : State) : Host.Outcome State Fault Refusal :=
  match i with
  | .addI32 w => Sys2Proof.Machine.execAddI32 w s
  | .subI32 w => Sys2Proof.Machine.execSubI32 w s
  | .addI32Sat w => Sys2Proof.Machine.execAddI32Sat w s
  | .subI32Sat w => Sys2Proof.Machine.execSubI32Sat w s
  | .addN32Sat w => Sys2Proof.Machine.execAddN32Sat w s
  | .subN32Sat w => Sys2Proof.Machine.execSubN32Sat w s
  | .mulI32 w => Sys2Proof.Machine.execMulI32 w s
  | .mulhI32 w => Sys2Proof.Machine.execMulhI32 w s
  | .mulhN32 w => Sys2Proof.Machine.execMulhN32 w s
  | .macI32 w => Sys2Proof.Machine.execMacI32 w s
  | .minI32 w => Sys2Proof.Machine.execMinI32 w s
  | .maxI32 w => Sys2Proof.Machine.execMaxI32 w s
  | .minN32 w => Sys2Proof.Machine.execMinN32 w s
  | .maxN32 w => Sys2Proof.Machine.execMaxN32 w s
  | .absI32 w => Sys2Proof.Machine.execAbsI32 w s
  | .addI16 w => Sys2Proof.Machine.execAddI16 w s
  | .addI16Sat w => Sys2Proof.Machine.execAddI16Sat w s
  | .addI8 w => Sys2Proof.Machine.execAddI8 w s
  | .addI8Sat w => Sys2Proof.Machine.execAddI8Sat w s
  | .dotI8 w => Sys2Proof.Machine.execDotI8 w s
  | .dotN8 w => Sys2Proof.Machine.execDotN8 w s
  | .addiI32 w => Sys2Proof.Machine.execAddiI32 w s
  | .elAnd w => Sys2Proof.Machine.execElAnd w s
  | .elOr w => Sys2Proof.Machine.execElOr w s
  | .elXor w => Sys2Proof.Machine.execElXor w s
  | .elAndn w => Sys2Proof.Machine.execElAndn w s
  | .elNot w => Sys2Proof.Machine.execElNot w s
  | .andi w => Sys2Proof.Machine.execAndi w s
  | .ori w => Sys2Proof.Machine.execOri w s
  | .shl w => Sys2Proof.Machine.execShl w s
  | .shr w => Sys2Proof.Machine.execShr w s
  | .sar w => Sys2Proof.Machine.execSar w s
  | .shli w => Sys2Proof.Machine.execShli w s
  | .shri w => Sys2Proof.Machine.execShri w s
  | .sari w => Sys2Proof.Machine.execSari w s
  | .clz w => Sys2Proof.Machine.execClz w s
  | .popc w => Sys2Proof.Machine.execPopc w s
  | .bfxn w => Sys2Proof.Machine.execBfxn w s
  | .bfxi w => Sys2Proof.Machine.execBfxi w s
  | .bfi w => Sys2Proof.Machine.execBfi w s
  | .movi w => Sys2Proof.Machine.execMovi w s
  | .movih w => Sys2Proof.Machine.execMovih w s
  | .cmpeqI32 w => Sys2Proof.Machine.execCmpeqI32 w s
  | .cmpneI32 w => Sys2Proof.Machine.execCmpneI32 w s
  | .cmpltI32 w => Sys2Proof.Machine.execCmpltI32 w s
  | .cmpleI32 w => Sys2Proof.Machine.execCmpleI32 w s
  | .cmpltN32 w => Sys2Proof.Machine.execCmpltN32 w s
  | .cmpleN32 w => Sys2Proof.Machine.execCmpleN32 w s
  | .pand w => Sys2Proof.Machine.execPand w s
  | .por w => Sys2Proof.Machine.execPor w s
  | .pxor w => Sys2Proof.Machine.execPxor w s
  | .pnot w => Sys2Proof.Machine.execPnot w s
  | .pcnt w => Sys2Proof.Machine.execPcnt w s
  | .sel w => Sys2Proof.Machine.execSel w s
  | .bcast w => Sys2Proof.Machine.execBcast w s
  | .shuf w => Sys2Proof.Machine.execShuf w s
  | .rotl w => Sys2Proof.Machine.execRotl w s
  | .slideup w => Sys2Proof.Machine.execSlideup w s
  | .slidedn w => Sys2Proof.Machine.execSlidedn w s
  | .redaddI32 w => Sys2Proof.Machine.execRedaddI32 w s
  | .redminI32 w => Sys2Proof.Machine.execRedminI32 w s
  | .redmaxI32 w => Sys2Proof.Machine.execRedmaxI32 w s
  | .setvl w => Sys2Proof.Machine.execSetvl w s
  | .setvli w => Sys2Proof.Machine.execSetvli w s
  | .setpol w => Sys2Proof.Machine.execSetpol w s
  | .clrf w => Sys2Proof.Machine.execClrf w s
  | .rdf w => Sys2Proof.Machine.execRdf w s
  | .addF32 w => Sys2Proof.Machine.execAddF32 w s
  | .subF32 w => Sys2Proof.Machine.execSubF32 w s
  | .mulF32 w => Sys2Proof.Machine.execMulF32 w s
  | .fmaF32 w => Sys2Proof.Machine.execFmaF32 w s
  | .minF32 w => Sys2Proof.Machine.execMinF32 w s
  | .maxF32 w => Sys2Proof.Machine.execMaxF32 w s
  | .negF32 w => Sys2Proof.Machine.execNegF32 w s
  | .absF32 w => Sys2Proof.Machine.execAbsF32 w s
  | .sgnjF32 w => Sys2Proof.Machine.execSgnjF32 w s
  | .cmpeqF32 w => Sys2Proof.Machine.execCmpeqF32 w s
  | .cmpltF32 w => Sys2Proof.Machine.execCmpltF32 w s
  | .cmpleF32 w => Sys2Proof.Machine.execCmpleF32 w s
  | .cmpunF32 w => Sys2Proof.Machine.execCmpunF32 w s
  | .addBf16 w => Sys2Proof.Machine.execAddBf16 w s
  | .mulBf16 w => Sys2Proof.Machine.execMulBf16 w s
  | .fmaBf16 w => Sys2Proof.Machine.execFmaBf16 w s
  | .addF16 w => Sys2Proof.Machine.execAddF16 w s
  | .mulF16 w => Sys2Proof.Machine.execMulF16 w s
  | .fmaF16 w => Sys2Proof.Machine.execFmaF16 w s
  | .dotBf16 w => Sys2Proof.Machine.execDotBf16 w s
  | .redaddF32 w => Sys2Proof.Machine.execRedaddF32 w s
  | .redmaxF32 w => Sys2Proof.Machine.execRedmaxF32 w s
  | .cvt w => Sys2Proof.Machine.execCvt w s
  | .cvtSat w => Sys2Proof.Machine.execCvtSat w s
  | .cvtiF32 w => Sys2Proof.Machine.execCvtiF32 w s
  | .cvtnF32 w => Sys2Proof.Machine.execCvtnF32 w s
  | .cvtfI32 w => Sys2Proof.Machine.execCvtfI32 w s
  | .cvtfN32 w => Sys2Proof.Machine.execCvtfN32 w s
  | .grpcfg w => Sys2Proof.Machine.execGrpcfg w s
  | .qntQg w => Sys2Proof.Machine.execQntQg w s
  | .dqntQg w => Sys2Proof.Machine.execDqntQg w s
  | .qntMx4 w => Sys2Proof.Machine.execQntMx4 w s
  | .dqntMx4 w => Sys2Proof.Machine.execDqntMx4 w s
  | .scaleMx w => Sys2Proof.Machine.execScaleMx w s
  | .rcpF32 w => Sys2Proof.Machine.execRcpF32 w s
  | .rsqF32 w => Sys2Proof.Machine.execRsqF32 w s
  | .ex2F32 w => Sys2Proof.Machine.execEx2F32 w s
  | .lg2F32 w => Sys2Proof.Machine.execLg2F32 w s
  | .tanhF32 w => Sys2Proof.Machine.execTanhF32 w s
  | .sigmF32 w => Sys2Proof.Machine.execSigmF32 w s
  | .ld w => Sys2Proof.Machine.execLd w s
  | .ldFe w => Sys2Proof.Machine.execLdFe w s
  | .ldFeClr w => Sys2Proof.Machine.execLdFeClr w s
  | .ldff w => Sys2Proof.Machine.execLdff w s
  | .st w => Sys2Proof.Machine.execSt w s
  | .stFull w => Sys2Proof.Machine.execStFull w s
  | .gath w => Sys2Proof.Machine.execGath w s
  | .scat w => Sys2Proof.Machine.execScat w s
  | .amoaddI32 w => Sys2Proof.Machine.execAmoaddI32 w s
  | .amominI32 w => Sys2Proof.Machine.execAmominI32 w s
  | .amomaxI32 w => Sys2Proof.Machine.execAmomaxI32 w s
  | .amoswp w => Sys2Proof.Machine.execAmoswp w s
  | .amocas w => Sys2Proof.Machine.execAmocas w s
  | .amoaddF32 w => Sys2Proof.Machine.execAmoaddF32 w s
  | .pass w => Sys2Proof.Machine.execPass w s
  | .mkrow w => Sys2Proof.Machine.execMkrow w s
  | .mkend w => Sys2Proof.Machine.execMkend w s
  | .bubl w => Sys2Proof.Machine.execBubl w s
  | .deq w => Sys2Proof.Machine.execDeq w s
  | .steer w => Sys2Proof.Machine.execSteer w s
  | .mrg w => Sys2Proof.Machine.execMrg w s
  | .mrgu w => Sys2Proof.Machine.execMrgu w s
  | .join w => Sys2Proof.Machine.execJoin w s
  | .tagset w => Sys2Proof.Machine.execTagset w s
  | .hdrw w => Sys2Proof.Machine.execHdrw w s
  | .mxtok w => Sys2Proof.Machine.execMxtok w s
  | .sreq w => Sys2Proof.Machine.execSreq w s
  | .xreq w => Sys2Proof.Machine.execXreq w s
  | .delta w => Sys2Proof.Machine.execDelta w s
  | .resid w => Sys2Proof.Machine.execResid w s
  | .halt w => Sys2Proof.Machine.execHalt w s
  | .elTrap w => Sys2Proof.Machine.execElTrap w s
  | .rhint w => Sys2Proof.Machine.execRhint w s
  | .fhint w => Sys2Proof.Machine.execFhint w s
  | .add d a b => Sys2Proof.Machine.execAdd d a b s
  | .sub d a b => Sys2Proof.Machine.execSub d a b s
  | .aluAnd d a b => Sys2Proof.Machine.execAluAnd d a b s
  | .aluOr d a b => Sys2Proof.Machine.execAluOr d a b s
  | .aluXor d a b => Sys2Proof.Machine.execAluXor d a b s
  | .aluAndn d a b => Sys2Proof.Machine.execAluAndn d a b s
  | .sll d a b => Sys2Proof.Machine.execSll d a b s
  | .srl d a b => Sys2Proof.Machine.execSrl d a b s
  | .sra d a b => Sys2Proof.Machine.execSra d a b s
  | .slt d a b => Sys2Proof.Machine.execSlt d a b s
  | .sltu d a b => Sys2Proof.Machine.execSltu d a b s
  | .mul d a b => Sys2Proof.Machine.execMul d a b s
  | .mulh d a b => Sys2Proof.Machine.execMulh d a b s
  | .mulhu d a b => Sys2Proof.Machine.execMulhu d a b s
  | .div d a b => Sys2Proof.Machine.execDiv d a b s
  | .divu d a b => Sys2Proof.Machine.execDivu d a b s
  | .rem d a b => Sys2Proof.Machine.execRem d a b s
  | .remu d a b => Sys2Proof.Machine.execRemu d a b s
  | .min d a b => Sys2Proof.Machine.execMin d a b s
  | .max d a b => Sys2Proof.Machine.execMax d a b s
  | .minu d a b => Sys2Proof.Machine.execMinu d a b s
  | .maxu d a b => Sys2Proof.Machine.execMaxu d a b s
  | .aluClz d a => Sys2Proof.Machine.execAluClz d a s
  | .aluPopc d a => Sys2Proof.Machine.execAluPopc d a s
  | .addi d a i_ => Sys2Proof.Machine.execAddi d a i_ s
  | .coreAndi d a i_ => Sys2Proof.Machine.execCoreAndi d a i_ s
  | .coreOri d a i_ => Sys2Proof.Machine.execCoreOri d a i_ s
  | .xori d a i_ => Sys2Proof.Machine.execXori d a i_ s
  | .slli d a c => Sys2Proof.Machine.execSlli d a c s
  | .srli d a c => Sys2Proof.Machine.execSrli d a c s
  | .srai d a c => Sys2Proof.Machine.execSrai d a c s
  | .slti d a i_ => Sys2Proof.Machine.execSlti d a i_ s
  | .sltiu d a i_ => Sys2Proof.Machine.execSltiu d a i_ s
  | .liu d i_ => Sys2Proof.Machine.execLiu d i_ s
  | .ext h => Sys2Proof.Machine.execExt h s
  | .ldI8 d a s_ o => Sys2Proof.Machine.execLdI8 d a s_ o s
  | .ldN8 d a s_ o => Sys2Proof.Machine.execLdN8 d a s_ o s
  | .ldI16 d a s_ o => Sys2Proof.Machine.execLdI16 d a s_ o s
  | .ldN16 d a s_ o => Sys2Proof.Machine.execLdN16 d a s_ o s
  | .ldI32 d a s_ o => Sys2Proof.Machine.execLdI32 d a s_ o s
  | .ldN32 d a s_ o => Sys2Proof.Machine.execLdN32 d a s_ o s
  | .ld64 d a s_ o => Sys2Proof.Machine.execLd64 d a s_ o s
  | .st8 d a s_ o => Sys2Proof.Machine.execSt8 d a s_ o s
  | .st16 d a s_ o => Sys2Proof.Machine.execSt16 d a s_ o s
  | .st32 d a s_ o => Sys2Proof.Machine.execSt32 d a s_ o s
  | .st64 d a s_ o => Sys2Proof.Machine.execSt64 d a s_ o s
  | .amoAdd d a b s_ r w => Sys2Proof.Machine.execAmoAdd d a b s_ r w s
  | .amoAnd d a b s_ r w => Sys2Proof.Machine.execAmoAnd d a b s_ r w s
  | .amoOr d a b s_ r w => Sys2Proof.Machine.execAmoOr d a b s_ r w s
  | .amoXor d a b s_ r w => Sys2Proof.Machine.execAmoXor d a b s_ r w s
  | .amoMin d a b s_ r w => Sys2Proof.Machine.execAmoMin d a b s_ r w s
  | .amoMax d a b s_ r w => Sys2Proof.Machine.execAmoMax d a b s_ r w s
  | .amoMinu d a b s_ r w => Sys2Proof.Machine.execAmoMinu d a b s_ r w s
  | .amoMaxu d a b s_ r w => Sys2Proof.Machine.execAmoMaxu d a b s_ r w s
  | .amoSwp d a b s_ r w => Sys2Proof.Machine.execAmoSwp d a b s_ r w s
  | .amoCas d a b s_ r w => Sys2Proof.Machine.execAmoCas d a b s_ r w s
  | .lda d a s_ w => Sys2Proof.Machine.execLda d a s_ w s
  | .stl a b s_ w => Sys2Proof.Machine.execStl a b s_ w s
  | .fence e s_ => Sys2Proof.Machine.execFence e s_ s
  | .beq a b o => Sys2Proof.Machine.execBeq a b o s
  | .bne a b o => Sys2Proof.Machine.execBne a b o s
  | .blt a b o => Sys2Proof.Machine.execBlt a b o s
  | .bge a b o => Sys2Proof.Machine.execBge a b o s
  | .bltu a b o => Sys2Proof.Machine.execBltu a b o s
  | .bgeu a b o => Sys2Proof.Machine.execBgeu a b o s
  | .jump o => Sys2Proof.Machine.execJump o s
  | .jal o => Sys2Proof.Machine.execJal o s
  | .jalr d a i_ => Sys2Proof.Machine.execJalr d a i_ s
  | .cfg d a => Sys2Proof.Machine.execCfg d a s
  | .go => Sys2Proof.Machine.execGo s
  | .waitl d => Sys2Proof.Machine.execWaitl d s
  | .waitlNb d => Sys2Proof.Machine.execWaitlNb d s
  | .strm a b => Sys2Proof.Machine.execStrm a b s
  | .mcast a b => Sys2Proof.Machine.execMcast a b s
  | .launch d a q p => Sys2Proof.Machine.execLaunch d a q p s
  | .waitg d a => Sys2Proof.Machine.execWaitg d a s
  | .barG m => Sys2Proof.Machine.execBarG m s
  | .barC a i_ => Sys2Proof.Machine.execBarC a i_ s
  | .prio d c => Sys2Proof.Machine.execPrio d c s
  | .rdlay d => Sys2Proof.Machine.execRdlay d s
  | .rdlayT d => Sys2Proof.Machine.execRdlayT d s
  | .pin d a => Sys2Proof.Machine.execPin d a s
  | .unpin a => Sys2Proof.Machine.execUnpin a s
  | .rate d a b => Sys2Proof.Machine.execRate d a b s
  | .patld a b => Sys2Proof.Machine.execPatld a b s
  | .coll d a => Sys2Proof.Machine.execColl d a s
  | .collw d a => Sys2Proof.Machine.execCollw d a s
  | .cnt d a o i_ => Sys2Proof.Machine.execCnt d a o i_ s
  | .coreTrap a c => Sys2Proof.Machine.execCoreTrap a c s
  | .eret => Sys2Proof.Machine.execEret s
  | .wfi => Sys2Proof.Machine.execWfi s
  | .invr d a b => Sys2Proof.Machine.execInvr d a b s
  | .ctxsv a => Sys2Proof.Machine.execCtxsv a s
  | .ctxld a => Sys2Proof.Machine.execCtxld a s
  | .syr d r => Sys2Proof.Machine.execSyr d r s
  | .syw a r => Sys2Proof.Machine.execSyw a r s
  | .syEscWrite xa => Sys2Proof.Machine.execSyEscWrite xa s
  | .syEresWrite xa => Sys2Proof.Machine.execSyEresWrite xa s
  | .illegalInstruction sub => Sys2Proof.Machine.execIllegalInstruction sub s
  | .band g l h => Sys2Proof.Machine.execBand g l h s
  | .dil g d => Sys2Proof.Machine.execDil g d s
  | .bdiag g r c => Sys2Proof.Machine.execBdiag g r c s
  | .kron g a b => Sys2Proof.Machine.execKron g a b s
  | .patHash g p k t => Sys2Proof.Machine.execPatHash g p k t s
  | .offs g r c => Sys2Proof.Machine.execOffs g r c s
  | .clip g r c => Sys2Proof.Machine.execClip g r c s
  | .patUnion g a b => Sys2Proof.Machine.execPatUnion g a b s
  | .isect g a b => Sys2Proof.Machine.execIsect g a b s
  | .patSwap g => Sys2Proof.Machine.execPatSwap g s
  | .brambleCnt g => Sys2Proof.Machine.execBrambleCnt g s
  | .emit g => Sys2Proof.Machine.execEmit g s
  | .patLoop j n b => Sys2Proof.Machine.execPatLoop j n b s
  | .patEnd => Sys2Proof.Machine.execPatEnd s
  | .tokenRelease sp ch => Sys2Proof.Machine.execTokenRelease sp ch s
  | .tokenArrival sp ch br bad => Sys2Proof.Machine.execTokenArrival sp ch br bad s
  | .memoryAnswer cl el idx lane => Sys2Proof.Machine.execMemoryAnswer cl el idx lane s
  | .responseQueueLeave cl el => Sys2Proof.Machine.execResponseQueueLeave cl el s
  | .feWaitEnd cl el idx => Sys2Proof.Machine.execFeWaitEnd cl el idx s
  | .loadComplete sp => Sys2Proof.Machine.execLoadComplete sp s
  | .watchdog sp => Sys2Proof.Machine.execWatchdog sp s
  | .windowEnd cl => Sys2Proof.Machine.execWindowEnd cl s
  | .rewiringComplete sp op => Sys2Proof.Machine.execRewiringComplete sp op s
  | .mma cl => Sys2Proof.Machine.execMma cl s
  | .setreg cl => Sys2Proof.Machine.execSetreg cl s
  | .islandStage cl => Sys2Proof.Machine.execIslandStage cl s
  | .islandArray cl miss => Sys2Proof.Machine.execIslandArray cl miss s
  | .islandDrain cl => Sys2Proof.Machine.execIslandDrain cl s
  | .agSetup cl tile ag => Sys2Proof.Machine.execAgSetup cl tile ag s
  | .agRead cl tile ag => Sys2Proof.Machine.execAgRead cl tile ag s
  | .agWrite cl tile ag => Sys2Proof.Machine.execAgWrite cl tile ag s
  | .agFetch cl tile ag => Sys2Proof.Machine.execAgFetch cl tile ag s
  | .agArm cl tile ag => Sys2Proof.Machine.execAgArm cl tile ag s
  | .agPut cl tile ag => Sys2Proof.Machine.execAgPut cl tile ag s
  | .portGet cl port => Sys2Proof.Machine.execPortGet cl port s
  | .portPuts cl port => Sys2Proof.Machine.execPortPuts cl port s
  | .streamStart cl port => Sys2Proof.Machine.execStreamStart cl port s
  | .feedToken cl port => Sys2Proof.Machine.execFeedToken cl port s
  | .streamEnd cl port => Sys2Proof.Machine.execStreamEnd cl port s
  | .walk cl idx => Sys2Proof.Machine.execWalk cl idx s
  | .multicastDelivery sp idx cl line => Sys2Proof.Machine.execMulticastDelivery sp idx cl line s
  | .barrierComplete cl id clusterBar => Sys2Proof.Machine.execBarrierComplete cl id clusterBar s
  | .aging cl grp => Sys2Proof.Machine.execAging cl grp s
  | .eventTaken cl => Sys2Proof.Machine.execEventTaken cl s
  | .dispatch part => Sys2Proof.Machine.execDispatch part s
  | .childExit cl grp => Sys2Proof.Machine.execChildExit cl grp s
  | .hostAccess a n op data => Sys2Proof.Machine.execHostAccess a n op data s
  | .doorbell vf q v => Sys2Proof.Machine.execDoorbell vf q v s
  | .queueEnable vf q v => Sys2Proof.Machine.execQueueEnable vf q v s
  | .pctlWrite part v => Sys2Proof.Machine.execPctlWrite part v s
  | .pslcWrite part die word v => Sys2Proof.Machine.execPslcWrite part die word v s
  | .sliceFlush die v => Sys2Proof.Machine.execSliceFlush die v s
  | .flushDone die => Sys2Proof.Machine.execFlushDone die s
  | .invalidation v => Sys2Proof.Machine.execInvalidation v s
  | .invalidationAck => Sys2Proof.Machine.execInvalidationAck s
  | .spanFreeze v => Sys2Proof.Machine.execSpanFreeze v s
  | .freezeComplete sp => Sys2Proof.Machine.execFreezeComplete sp s
  | .spanSave v => Sys2Proof.Machine.execSpanSave v s
  | .saveDone sp => Sys2Proof.Machine.execSaveDone sp s
  | .spanRestore v => Sys2Proof.Machine.execSpanRestore v s
  | .spanThaw v => Sys2Proof.Machine.execSpanThaw v s
  | .vfReset vf => Sys2Proof.Machine.execVfReset vf s
  | .partitionInterruptAck vf v => Sys2Proof.Machine.execPartitionInterruptAck vf v s
  | .dcselWrite die n v => Sys2Proof.Machine.execDcselWrite die n v s
  | .exclusionWrite off v => Sys2Proof.Machine.execExclusionWrite off v s
  | .groupEnable g v => Sys2Proof.Machine.execGroupEnable g v s
  | .groupDisable g v => Sys2Proof.Machine.execGroupDisable g v s
  | .registerWrite fn off v => Sys2Proof.Machine.execRegisterWrite fn off v s
  | .linkStateUpdate g epoch rank link st => Sys2Proof.Machine.execLinkStateUpdate g epoch rank link st s
  | .epochApply g crcs => Sys2Proof.Machine.execEpochApply g crcs s
  | .chunkPartial h chunk child data => Sys2Proof.Machine.execChunkPartial h chunk child data s
  | .chunkResult h chunk data => Sys2Proof.Machine.execChunkResult h chunk data s
  | .linkJudgement link rpl => Sys2Proof.Machine.execLinkJudgement link rpl s
  | .packageReset => Sys2Proof.Machine.execPackageReset s
  | .bootVerify => Sys2Proof.Machine.execBootVerify s
  | .dieTrainingEnd die ok => Sys2Proof.Machine.execDieTrainingEnd die ok s
  | .clockSwitch => Sys2Proof.Machine.execClockSwitch s
  | .getMeasurements nonce => Sys2Proof.Machine.execGetMeasurements nonce s
  | .getCertificate slot => Sys2Proof.Machine.execGetCertificate slot s
  | .patrol code place multi => Sys2Proof.Machine.execPatrol code place multi s
  | .powerMeasurement die watts temp => Sys2Proof.Machine.execPowerMeasurement die watts temp s
  | .powerRemoval => Sys2Proof.Machine.execPowerRemoval s
  | .coreAccessPerformed cl grp idx => Sys2Proof.Machine.execCoreAccessPerformed cl grp idx s
  | .partitionBlockWrite part off v => Sys2Proof.Machine.execPartitionBlockWrite part off v s
  | .linkTraining link lanes ok => Sys2Proof.Machine.execLinkTraining link lanes ok s
  | .rowExchange g rank row => Sys2Proof.Machine.execRowExchange g rank row s
  | .markExchange h rank marks => Sys2Proof.Machine.execMarkExchange h rank marks s
  | .doneReport h child => Sys2Proof.Machine.execDoneReport h child s
  | .memberStatus h rank st faddr => Sys2Proof.Machine.execMemberStatus h rank st faddr s
  | .hostCoherenceRequest line excl => Sys2Proof.Machine.execHostCoherenceRequest line excl s

end Sys2Proof.Machine
end

