-- ==== Sys2Proof/Machine/Picker.lean ====
section
/-! DEFINITION. An element's choice of slot: the lowest eligible slot, and the fold arbiter (R35, R37, R247). -/

namespace Sys2Proof.Machine

open Sys2Proof

/-- The state with a slot of an element named for execution. -/
def atSlot (s : State) (cl el n : Nat) : State := { s with cur := { s.cur with cl := cl, el := el, slot := n } }

/-- Whether slot n of an element is eligible (R33). -/
def slotEligible (s : State) (cl el n : Nat) : Bool :=
  let w := vec16Get (getEl s cl el).slots n
  (shapeOf (slotOpOf w)).isSome && (fireEnv (atSlot s cl el n) (slotOpOf w) (slotOf w)).isSome

/-- The lowest eligible slot of a share. -/
def lowestOf (s : State) (cl el sh : Nat) : Option Nat :=
  (List.range 16).find? (fun n => decide (shareOfSlot (getEl s cl el) n = sh) && slotEligible s cl el n)

/-- The slot that fires: with a fold, that of the preferred share, else the other's (R247). -/
def pickSlot (s : State) (cl el : Nat) : Option Nat :=
  let e := getEl s cl el
  if e.sh1.isSome then
    let pref := if e.credit0 < e.credit1 then 1 else 0
    match lowestOf s cl el pref with
    | some n => some n
    | none => lowestOf s cl el (1 - pref)
  else lowestOf s cl el 0

/-- The data inputs whose head has a format that the port does not accept, and that have raised no fault yet (R21). -/
def badHeads (s : State) (sp rel cl el : Nat) (l : Load) : List Nat :=
  let e := getEl s cl el
  (List.range 4).filter (fun n => !decide (n ∈ e.badPorts) &&
    match inGroup l rel el n 1 (spanNow s sp) with
    | some (t :: _) => !acceptsFmt e n (hdrFMT t.hdr)
    | _ => false)

/-- Each such port raises a stream-mismatch fault that names it; the token stays (R21). -/
def raiseBadHeads (s : State) (cl el : Nat) : State :=
  match spanAt s cl with
  | none => s
  | some (sp, x) =>
    match x.load with
    | none => s
    | some l =>
      if spanActive x && loadActive l then
        (badHeads s sp (relOf x cl) cl el l).foldl (fun s n =>
          postEvent (modEl s cl el (fun e => { e with badPorts := e.badPorts ++ [n] })) cl
            ⟨5, 0, 0, locWord (relOf x cl) el 0 n 0⟩) s
      else s

end Sys2Proof.Machine
end

