-- ==== Sys2Proof/Machine/Time.lean ====
section
/-! DEFINITION. What passing cycles do: the cycle counters of the dies (R5), the counters that count cycles (R420), the
Caldera's sums of occupancies (R239, R252), the credits of fold arbiters (R247), the end of layout table writes (R249). -/

namespace Sys2Proof.Machine

open Sys2Proof

/-- A counter of cycles advances; `held` tokens wait at rate-limiter ports. -/
def tickCounter (dt held : Nat) (c : Counter) : Counter :=
  if c.src = 1 then { c with val := c.val + BitVec.ofNat 64 dt }
  else if c.src = 0x8000 then { c with val := c.val + BitVec.ofNat 64 (dt * held) } else c

/-- A die's counter of the cycles that one of its four outer links spends degraded (R420, R422). -/
def tickLink (h : Hub) (die dt : Nat) (c : Counter) : Counter :=
  if 0x500C ≤ c.src ∧ c.src ≤ 0x500F ∧ (amGetD h.links (4 * die + (c.src - 0x500C)) linkReset).st = 2 then
    { c with val := c.val + BitVec.ofNat 64 dt }
  else c

/-- The tokens that wait at the limiters of a die. -/
def heldOnDie (s : State) (d : Nat) : Nat :=
  s.clusters.entries.foldl (fun n p => if dieOf p.1 = d then n + popcNat 16 p.2.limiter.held else n) 0

/-! Which cycles pass. -/

/-- The cycles left in the window of a span's running load; none where no load runs. -/
def windowLeft (s : State) (sp : Nat) (x : Span) : Option Nat :=
  match x.load with
  | none => none
  | some l => if spanActive x && loadActive l then some (l.winCycle + winLen l - spanNow s sp) else none
/-- No cycle passes beyond a window border of a load on its lead's die before that window's end has been taken (R239,
log 66). -/
def clipDt (s : State) (dt : Vec16 Nat) : Vec16 Nat :=
  vec16Of (fun d => s.spans.entries.foldl (fun n p =>
    if dieOf p.1 = d then min n ((windowLeft s p.1 p.2).getD n) else n) (vec16Get dt d)) 0

/-! Channels. -/

/-- A branch over `dt` cycles in which it holds what it holds now: tokens in the producer's output buffer
count for every branch (R25). -/
def sampleBranch (s : State) (x : Span) (dt : Nat) (c : Chan) (b : Branch) : Branch :=
  { b with
    occSum := b.occSum + dt * (c.out.length + inBranch b)
    fullAll := b.fullAll && branchFull s x c b
    emptyAll := b.emptyAll && b.buf.isEmpty }
/-- The channels of a load that runs are sampled. -/
def sampleLoad (s : State) (x : Span) (dt : Nat) (l : Load) : Load :=
  if dt ≠ 0 && spanActive x && loadActive l then
    { l with chans := amMap l.chans (fun _ c => { c with branches := c.branches.map (sampleBranch s x dt c) }) }
  else l
def sampleSpan (s : State) (dt : Nat) (x : Span) : Span := { x with load := x.load.map (sampleLoad s x dt) }

/-! Elements. -/

/-- The credits of `n` free cycles in which no slot fired (R247). -/
def freeCredits (n : Nat) (e : Elem) : Elem :=
  if e.sh1.isSome then
    { e with credit0 := satCredit (e.credit0 + n * e.weight0), credit1 := satCredit (e.credit1 + n * e.weight1) }
  else e
/-- The cycles from `t0` to before `t1` in which an element is free. -/
def freeCycles (t0 t1 : Nat) (e : Elem) : Nat := if e.held then 0 else t1 - max t0 e.busy
def anyEligible (s : State) (cl el : Nat) : Bool := (List.range 16).any (slotEligible s cl el)
/-- The free cycles without an eligible slot (R420): `s` is the state in cycle `t0`, `s1` in the cycles after it. -/
def idleCycles (s s1 : State) (t0 t1 cl el : Nat) (e : Elem) : Nat :=
  let first := decide (freeCycles t0 t1 e ≠ 0) && decide (e.busy ≤ t0)
  let rest := freeCycles (t0 + 1) t1 e
  b2n (first && !anyEligible s cl el) + (if rest ≠ 0 && !anyEligible s1 cl el then rest else 0)

/-- The counters of element cycles with no eligible slot advance (R420). -/
def addIdle (n : Nat) (c : Cluster) : Cluster :=
  { c with counters := vec8Of (fun i =>
      let k := vec8Get c.counters i
      if k.src = 0x0011 then { k with val := k.val + BitVec.ofNat 64 n } else k) 0 }
/-- The elements of a cluster: those of a running load take credits, and the cycles without an eligible slot are counted; every
other element has none. -/
def elemsTime (s s1 : State) (cl : Nat) (c : Cluster) : Cluster :=
  match spanAt s cl with
  | none => addIdle (128 * (now s1 cl - now s cl)) c
  | some (sp, x) =>
    if !spanActive x then c
    else if x.load.any loadActive then
      let t0 := spanNow s sp
      let t1 := spanNow s1 sp
      let idle := if (vec8List c.counters).any (fun k => decide (k.src = 0x0011)) then
          c.elems.entries.foldl (fun n p => n + idleCycles s s1 t0 t1 cl p.1 p.2) ((128 - c.elems.entries.length) * (t1 - t0))
        else 0
      addIdle idle { c with elems := amMap c.elems (fun _ e => freeCredits (freeCycles t0 t1 e) e) }
    else addIdle (128 * (now s1 cl - now s cl)) c

/-- `dt` cycles pass, on each die its number of them. -/
def advanceTime (dt : Vec16 Nat) (s : State) : State :=
  let s1 := { s with cycles := vec16Of (fun i => vec16Get s.cycles i + vec16Get dt i) 0 }
  let s2 := { s1 with
    clusters := amMap s.clusters (fun cl c0 =>
      let c := elemsTime s s1 cl c0
      { c with counters := vec8Of (fun i =>
          tickCounter (vec16Get dt (dieOf cl)) (popcNat 16 c.limiter.held) (vec8Get c.counters i)) 0 })
    spans := amMap s.spans (fun sp x => sampleSpan s (vec16Get dt (dieOf sp)) x)
    hub := { s.hub with dctr := amMap s.hub.dctr (fun k c =>
      let n := vec16Get dt (k / 32)
      tickLink s.hub (k / 32) n (tickCounter n (heldOnDie s (k / 32)) c)) } }
  s.spans.entries.foldl (fun t p => if vec16Get dt (dieOf p.1) ≠ 0 then finishTable t p.1 else t) s2

/-- The cycles of a move pass, as far as no window border stops them (log 66); on each die as many as the move says (log 5). -/
def passTime (dt : Vec16 Nat) (s : State) : State :=
  let d := clipDt s dt
  if d = vec16Fill 0 then s else advanceTime d s

end Sys2Proof.Machine
end

