-- ==== Sys2Proof/Machine/Turns.lean ====
section
/-! DEFINITION. The parts of a step: the next move, what a core or an element is about to do, which
instructions are events, and how an instruction is placed for the host's probe. -/

namespace Sys2Proof.Machine

open Sys2Proof

/-- The next move: the agenda's first, else the device's own (log 1). -/
def nextMove (s : State) : Sched :=
  match s.agenda with
  | m :: _ => m
  | [] => Sys2Proof.Config.schedule s.tick
def takeMove (s : State) : State :=
  match s.agenda with
  | _ :: l => { s with agenda := l }
  | [] => { s with tick := s.tick + 1 }

/-- What an agent is about to do. -/
inductive Ready where
  | idle (s : State)
  | event (s : State)
  | instr (i : Instr) (s : State)
  | illegal (sub : BitVec 8) (s : State)
  deriving DecidableEq

/-- The word at the group's pc, decoded; a fetch may wait for a walk or fault (R169, R171). -/
def fetchDecode (s : State) : Ready :=
  let g := curGrp s
  match fetchWord s s.cur.cl g.asid g.pc.toNat with
  | .miss v => .idle (waitWalk s v 4)
  | .fault c v => .idle (takeTrap s ⟨c, 0, 0, v⟩)
  | .ok w =>
    let t := fetchTouch s s.cur.cl g.asid g.pc.toNat
    match decodeCore w with
    | .ok i => .instr i t
    | .error sub => .illegal sub t

/-- A core's turn up to the instruction it executes (R166, R198). -/
def coreReady (s0 : State) (cl : Nat) : Ready :=
  match nextGroup s0 cl with
  | (s, none) => .idle s
  | (s, some g) =>
    let t := issueAt s cl g
    if eventReady (getCl s cl).core g then .event t else fetchDecode t

/-- An element's turn up to the slot it fires. -/
def elementReady (s0 : State) (cl el : Nat) : Ready :=
  let s := raiseBadHeads s0 cl el
  match pickSlot s cl el with
  | none => .idle s
  | some n =>
    match decodeSlot (vec16Get (getEl s cl el).slots n) with
    | some i => .instr i (atSlot s cl el n)
    | none => .idle s

/-- The events of the table: what happens in the device, and what arrives from outside. Element, core and
pattern instructions run only where their agents decode them. -/
def isEvent (i : Instr) : Bool :=
  match i with
  | .addI32 _ => false
  | .subI32 _ => false
  | .addI32Sat _ => false
  | .subI32Sat _ => false
  | .addN32Sat _ => false
  | .subN32Sat _ => false
  | .mulI32 _ => false
  | .mulhI32 _ => false
  | .mulhN32 _ => false
  | .macI32 _ => false
  | .minI32 _ => false
  | .maxI32 _ => false
  | .minN32 _ => false
  | .maxN32 _ => false
  | .absI32 _ => false
  | .addI16 _ => false
  | .addI16Sat _ => false
  | .addI8 _ => false
  | .addI8Sat _ => false
  | .dotI8 _ => false
  | .dotN8 _ => false
  | .addiI32 _ => false
  | .elAnd _ => false
  | .elOr _ => false
  | .elXor _ => false
  | .elAndn _ => false
  | .elNot _ => false
  | .andi _ => false
  | .ori _ => false
  | .shl _ => false
  | .shr _ => false
  | .sar _ => false
  | .shli _ => false
  | .shri _ => false
  | .sari _ => false
  | .clz _ => false
  | .popc _ => false
  | .bfxn _ => false
  | .bfxi _ => false
  | .bfi _ => false
  | .movi _ => false
  | .movih _ => false
  | .cmpeqI32 _ => false
  | .cmpneI32 _ => false
  | .cmpltI32 _ => false
  | .cmpleI32 _ => false
  | .cmpltN32 _ => false
  | .cmpleN32 _ => false
  | .pand _ => false
  | .por _ => false
  | .pxor _ => false
  | .pnot _ => false
  | .pcnt _ => false
  | .sel _ => false
  | .bcast _ => false
  | .shuf _ => false
  | .rotl _ => false
  | .slideup _ => false
  | .slidedn _ => false
  | .redaddI32 _ => false
  | .redminI32 _ => false
  | .redmaxI32 _ => false
  | .setvl _ => false
  | .setvli _ => false
  | .setpol _ => false
  | .clrf _ => false
  | .rdf _ => false
  | .addF32 _ => false
  | .subF32 _ => false
  | .mulF32 _ => false
  | .fmaF32 _ => false
  | .minF32 _ => false
  | .maxF32 _ => false
  | .negF32 _ => false
  | .absF32 _ => false
  | .sgnjF32 _ => false
  | .cmpeqF32 _ => false
  | .cmpltF32 _ => false
  | .cmpleF32 _ => false
  | .cmpunF32 _ => false
  | .addBf16 _ => false
  | .mulBf16 _ => false
  | .fmaBf16 _ => false
  | .addF16 _ => false
  | .mulF16 _ => false
  | .fmaF16 _ => false
  | .dotBf16 _ => false
  | .redaddF32 _ => false
  | .redmaxF32 _ => false
  | .cvt _ => false
  | .cvtSat _ => false
  | .cvtiF32 _ => false
  | .cvtnF32 _ => false
  | .cvtfI32 _ => false
  | .cvtfN32 _ => false
  | .grpcfg _ => false
  | .qntQg _ => false
  | .dqntQg _ => false
  | .qntMx4 _ => false
  | .dqntMx4 _ => false
  | .scaleMx _ => false
  | .rcpF32 _ => false
  | .rsqF32 _ => false
  | .ex2F32 _ => false
  | .lg2F32 _ => false
  | .tanhF32 _ => false
  | .sigmF32 _ => false
  | .ld _ => false
  | .ldFe _ => false
  | .ldFeClr _ => false
  | .ldff _ => false
  | .st _ => false
  | .stFull _ => false
  | .gath _ => false
  | .scat _ => false
  | .amoaddI32 _ => false
  | .amominI32 _ => false
  | .amomaxI32 _ => false
  | .amoswp _ => false
  | .amocas _ => false
  | .amoaddF32 _ => false
  | .pass _ => false
  | .mkrow _ => false
  | .mkend _ => false
  | .bubl _ => false
  | .deq _ => false
  | .steer _ => false
  | .mrg _ => false
  | .mrgu _ => false
  | .join _ => false
  | .tagset _ => false
  | .hdrw _ => false
  | .mxtok _ => false
  | .sreq _ => false
  | .xreq _ => false
  | .delta _ => false
  | .resid _ => false
  | .halt _ => false
  | .elTrap _ => false
  | .rhint _ => false
  | .fhint _ => false
  | .add _ _ _ => false
  | .sub _ _ _ => false
  | .aluAnd _ _ _ => false
  | .aluOr _ _ _ => false
  | .aluXor _ _ _ => false
  | .aluAndn _ _ _ => false
  | .sll _ _ _ => false
  | .srl _ _ _ => false
  | .sra _ _ _ => false
  | .slt _ _ _ => false
  | .sltu _ _ _ => false
  | .mul _ _ _ => false
  | .mulh _ _ _ => false
  | .mulhu _ _ _ => false
  | .div _ _ _ => false
  | .divu _ _ _ => false
  | .rem _ _ _ => false
  | .remu _ _ _ => false
  | .min _ _ _ => false
  | .max _ _ _ => false
  | .minu _ _ _ => false
  | .maxu _ _ _ => false
  | .aluClz _ _ => false
  | .aluPopc _ _ => false
  | .addi _ _ _ => false
  | .coreAndi _ _ _ => false
  | .coreOri _ _ _ => false
  | .xori _ _ _ => false
  | .slli _ _ _ => false
  | .srli _ _ _ => false
  | .srai _ _ _ => false
  | .slti _ _ _ => false
  | .sltiu _ _ _ => false
  | .liu _ _ => false
  | .ext _ => false
  | .ldI8 _ _ _ _ => false
  | .ldN8 _ _ _ _ => false
  | .ldI16 _ _ _ _ => false
  | .ldN16 _ _ _ _ => false
  | .ldI32 _ _ _ _ => false
  | .ldN32 _ _ _ _ => false
  | .ld64 _ _ _ _ => false
  | .st8 _ _ _ _ => false
  | .st16 _ _ _ _ => false
  | .st32 _ _ _ _ => false
  | .st64 _ _ _ _ => false
  | .amoAdd _ _ _ _ _ _ => false
  | .amoAnd _ _ _ _ _ _ => false
  | .amoOr _ _ _ _ _ _ => false
  | .amoXor _ _ _ _ _ _ => false
  | .amoMin _ _ _ _ _ _ => false
  | .amoMax _ _ _ _ _ _ => false
  | .amoMinu _ _ _ _ _ _ => false
  | .amoMaxu _ _ _ _ _ _ => false
  | .amoSwp _ _ _ _ _ _ => false
  | .amoCas _ _ _ _ _ _ => false
  | .lda _ _ _ _ => false
  | .stl _ _ _ _ => false
  | .fence _ _ => false
  | .beq _ _ _ => false
  | .bne _ _ _ => false
  | .blt _ _ _ => false
  | .bge _ _ _ => false
  | .bltu _ _ _ => false
  | .bgeu _ _ _ => false
  | .jump _ => false
  | .jal _ => false
  | .jalr _ _ _ => false
  | .cfg _ _ => false
  | .go => false
  | .waitl _ => false
  | .waitlNb _ => false
  | .strm _ _ => false
  | .mcast _ _ => false
  | .launch _ _ _ _ => false
  | .waitg _ _ => false
  | .barG _ => false
  | .barC _ _ => false
  | .prio _ _ => false
  | .rdlay _ => false
  | .rdlayT _ => false
  | .pin _ _ => false
  | .unpin _ => false
  | .rate _ _ _ => false
  | .patld _ _ => false
  | .coll _ _ => false
  | .collw _ _ => false
  | .cnt _ _ _ _ => false
  | .coreTrap _ _ => false
  | .eret => false
  | .wfi => false
  | .invr _ _ _ => false
  | .ctxsv _ => false
  | .ctxld _ => false
  | .syr _ _ => false
  | .syw _ _ => false
  | .band _ _ _ => false
  | .dil _ _ => false
  | .bdiag _ _ _ => false
  | .kron _ _ _ => false
  | .patHash _ _ _ _ => false
  | .offs _ _ _ => false
  | .clip _ _ _ => false
  | .patUnion _ _ _ => false
  | .isect _ _ _ => false
  | .patSwap _ => false
  | .brambleCnt _ => false
  | .emit _ => false
  | .patLoop _ _ _ => false
  | .patEnd => false
  | .syEscWrite _ => false
  | .syEresWrite _ => false
  | .illegalInstruction _ => false
  | .tokenRelease _ _ => true
  | .tokenArrival _ _ _ _ => true
  | .memoryAnswer _ _ _ _ => true
  | .responseQueueLeave _ _ => true
  | .feWaitEnd _ _ _ => true
  | .loadComplete _ => true
  | .watchdog _ => true
  | .windowEnd _ => true
  | .rewiringComplete _ _ => true
  | .mma _ => true
  | .setreg _ => true
  | .islandStage _ => true
  | .islandArray _ _ => true
  | .islandDrain _ => true
  | .agSetup _ _ _ => true
  | .agRead _ _ _ => true
  | .agWrite _ _ _ => true
  | .agFetch _ _ _ => true
  | .agArm _ _ _ => true
  | .agPut _ _ _ => true
  | .portGet _ _ => true
  | .portPuts _ _ => true
  | .streamStart _ _ => true
  | .feedToken _ _ => true
  | .streamEnd _ _ => true
  | .walk _ _ => true
  | .multicastDelivery _ _ _ _ => true
  | .barrierComplete _ _ _ => true
  | .aging _ _ => true
  | .eventTaken _ => true
  | .dispatch _ => true
  | .childExit _ _ => true
  | .hostAccess _ _ _ _ => true
  | .doorbell _ _ _ => true
  | .queueEnable _ _ _ => true
  | .pctlWrite _ _ => true
  | .pslcWrite _ _ _ _ => true
  | .sliceFlush _ _ => true
  | .flushDone _ => true
  | .invalidation _ => true
  | .invalidationAck => true
  | .spanFreeze _ => true
  | .freezeComplete _ => true
  | .spanSave _ => true
  | .saveDone _ => true
  | .spanRestore _ => true
  | .spanThaw _ => true
  | .vfReset _ => true
  | .partitionInterruptAck _ _ => true
  | .dcselWrite _ _ _ => true
  | .exclusionWrite _ _ => true
  | .groupEnable _ _ => true
  | .groupDisable _ _ => true
  | .registerWrite _ _ _ => true
  | .linkStateUpdate _ _ _ _ _ => true
  | .epochApply _ _ => true
  | .chunkPartial _ _ _ _ => true
  | .chunkResult _ _ _ => true
  | .linkJudgement _ _ => true
  | .packageReset => true
  | .bootVerify => true
  | .dieTrainingEnd _ _ => true
  | .clockSwitch => true
  | .getMeasurements _ => true
  | .getCertificate _ => true
  | .patrol _ _ _ => true
  | .powerMeasurement _ _ _ => true
  | .powerRemoval => true
  | .coreAccessPerformed _ _ _ => true
  | .partitionBlockWrite _ _ _ => true
  | .linkTraining _ _ _ => true
  | .rowExchange _ _ _ => true
  | .markExchange _ _ _ => true
  | .doneReport _ _ => true
  | .memberStatus _ _ _ _ => true
  | .hostCoherenceRequest _ _ => true

/-! The tree network (R22, R29, R368): a request goes out to its line's slice, and its answer comes back to the port of its
cluster, before the unit's access is made. -/

/-- A unit's packet in the network. -/
def packetOf (s : State) (u : NetUser) : Option NetPkt := s.net.find? (fun p => decide (p.user = u))
/-- The packet has come through. -/
def dropPacket (s : State) (u : NetUser) : State := { s with net := s.net.filter (fun p => decide (p.user ≠ u)) }
/-- The packet is deflected: it keeps its age and tries again, and the die counts it (R420). -/
def deflect (s : State) (u : NetUser) (back : Bool) : State :=
  let c := countBoth s u.home 0x4002 1
  match packetOf s u with
  | some p => { dropPacket c u with net := (dropPacket c u).net ++ [{ p with back := back }] }
  | none => arrive { c with net := c.net ++ [⟨u, back, s.serial⟩] }
/-- One way of a packet: it comes through unless an older one wins a port that both contend for, or its receiving port
refuses it. -/
def packetLeg (s : State) (u : NetUser) (back refused : Bool) : State × Bool :=
  let older := olderInFlight s ((packetOf s u).elim s.serial (·.age))
  let f := takeFree s
  let s1 := if older then f.2 else s
  if refused || (older && Config.contends f.1) then (deflect s1 u back, false) else (s1, true)
/-- The request and, where `twoWay`, the answer of a unit come through: the answer is refused while the share of the cluster's
partition is full. -/
def packetPass (s : State) (u : NetUser) (twoWay : Bool) : State × Bool :=
  let out := if (packetOf s u).any (·.back) then (s, true) else packetLeg s u false false
  if !out.2 then out
  else if twoWay then
    let r := packetLeg out.1 u true (decide (16 ≤ portHolds out.1 u.home))
    if r.2 then (dropPacket r.1 u, true) else r
  else (dropPacket out.1 u, true)

/-- The unit whose packets an event awaits, and whether they go both ways: an element's answer comes back by itself. -/
def eventPackets (s : State) (i : Instr) : Option (NetUser × Bool) :=
  match i with
  | .memoryAnswer cl el idx lane =>
    if ((getEl s cl el).rq[idx]?).any (fun e => e.accs.any (fun a => decide (a.lane = lane) && !a.sp)) then
      some (.element cl el lane, false)
    else none
  | .coreAccessPerformed cl g idx =>
    if idx < (getGrp s cl g).stores.length then some (.access cl g, true)
    else
      match (getGrp s cl g).st with
      | .waiting (.load _ _ _ _ _ _ _) => if idx = (getGrp s cl g).stores.length then some (.access cl g, true) else none
      | _ => none
  | .streamStart cl n | .feedToken cl n | .streamEnd cl n => if (getPort s cl n).q = [] then none else some (.port cl n, true)
  | .agFetch cl t a | .agPut cl t a => if (getGen s cl t a).job.isSome then some (.gen cl t a, true) else none
  | .islandStage cl => if (getCl s cl).island.ops = [] then none else some (.island cl, true)
  | .walk cl idx => if ((getCl s cl).walks[idx]?).isSome then some (.walk cl, true) else none
  | .multicastDelivery _ idx cl _ => some (.fill cl idx, true)
  | .chunkPartial idx _ _ _ | .chunkResult idx _ _ => some (.link idx, true)
  | _ => none
/-- The unit whose packets a move awaits. -/
def turnPackets (s : State) (t : Turn) : Option (NetUser × Bool) :=
  match t with
  | .core cl => if (nextGroup s cl).2.isSome then some (.core cl, true) else none
  | .element _ _ => none
  | .bramble _ _ => none
  | .event i => eventPackets s i
/-- Whether the packets that a move awaits have come through. -/
def packetsThrough (s : State) (t : Turn) : State × Bool :=
  match turnPackets s t with
  | none => (s, true)
  | some (u, two) => packetPass s u two

/-! Placing an instruction (log 2). -/

/-- Group 0 of cluster 0 Ready at address 0, whose page is cached with all permissions. -/
def placeCore (s : State) (w : W32) : State :=
  let s1 := { s with mem := memPutAll s.mem 0 (bytesOf 4 w.toNat), agenda := ⟨vec16Fill 0, .core 0⟩ :: s.agenda }
  modCl s1 0 (fun c => { c with
    tcache := ⟨0, 0, 4096, 0, 7⟩ :: c.tcache
    core := { c.core with grp := vec4Set c.core.grp 0 { vec4Get c.core.grp 0 with st := .ready, pc := 0#52 }, issuedAt := none } })

/-- A running load on the span of cluster 0 alone. -/
def probeLoad : Load :=
  { phase := .running, lid := 1, img := 0, asid := 0, owner := 0, ownerCl := 0, passed := false, caldera := false,
    cpw := 0#64, ltb := 0, layv := 0, upd := 0, chans := amEmpty, ops := amEmpty, spares := [], exits := [], pinAll := false,
    relief := 0, stallRun := amEmpty, stallLim := amEmpty, goCycle := 0, winCycle := 0, wdogFrom := 0, wdogDone := false, discarded := 0, cmps := [],
    mcasts := amEmpty }
def probeSpan : Span :=
  { part := 0, shape := 0, dw := 0, dh := 0, clusters := [0], phase := .running, freezeAt := 0, saveArea := 0, saveBy := none,
    load := some probeLoad, lids := 1, bars := amEmpty, key := 0, fromQueue := none, ticket := 0 }

/-- Slot 0 of element 0 of a running load holds the word. -/
def placeSlot (s : State) (w : W64) : State :=
  let s1 := { s with spans := amPut s.spans 0 probeSpan, agenda := ⟨vec16Fill 0, .element 0 0⟩ :: s.agenda }
  let s2 := modCl s1 0 (fun c => { c with span := some 0 })
  modEl s2 0 0 (fun e => { e with slots := vec16Set e.slots 0 w })

/-- Context 0 of cluster 0 runs a program of the one word. -/
def placePattern (s : State) (w : W32) : State :=
  let s1 := { s with agenda := ⟨vec16Fill 0, .bramble 0 0⟩ :: s.agenda, spans := amPut s.spans 0 probeSpan }
  modCtx (modCl s1 0 (fun c => { c with span := some 0 })) 0 0
    (fun c => { c with run := some ⟨0, [w], [], true⟩, ip := 0, out := [], finished := false })

end Sys2Proof.Machine
end

