-- ==== Sys2Proof/Machine/Step.lean ====
section
/-! DEFINITION. One step of the machine: the next move, the cycles that pass, and what its agent does. -/

namespace Sys2Proof.Machine

open Sys2Proof

/-- A control core issues: the chosen group takes a pending event, or fetches, decodes and executes. -/
def coreTurn (s : State) (cl : Nat) : Host.Outcome State Fault Refusal :=
  match coreReady s cl with
  | .idle t => .next t
  | .event t => .next (takeEvent cl t)
  | .instr i t => exec i t
  | .illegal sub t => execIllegalInstruction sub t

/-- An element looks at its slots and fires at most one. -/
def elementTurn (s : State) (cl el : Nat) : Host.Outcome State Fault Refusal :=
  match elementReady s cl el with
  | .idle t => .next t
  | .event t => .next t
  | .instr i t => exec i t
  | .illegal _ t => .next t

/-- What the agent of a move does with power on. -/
def actOn (s : State) (t : Turn) : Host.Outcome State Fault Refusal :=
  match t with
  | .core cl => coreTurn s cl
  | .element cl el => elementTurn s cl el
  | .bramble cl ctx => brambleStep s cl ctx
  | .event i => if isEvent i then exec i s else .next s

/-- Without power nothing acts but the package reset that restores it (R428). -/
def powerOnly (t : Turn) : Bool :=
  match t with
  | .event i => decide (i = .packageReset)
  | .core _ => false
  | .element _ _ => false
  | .bramble _ _ => false

/-- What the agent of a move does, once the packets of its accesses have come through the tree network. -/
def act (s : State) (t : Turn) : Host.Outcome State Fault Refusal :=
  if s.hub.off && !powerOnly t then .next s
  else if (packetsThrough s t).2 then actOn (packetsThrough s t).1 t
  else .next (packetsThrough s t).1

/-- One step of the machine. -/
def step (s : State) : Host.Outcome State Fault Refusal :=
  act (passTime (nextMove s).dt (takeMove s)) (nextMove s).turn

/-- `s` with an instruction placed where the next step fetches it: a slot word in slot 0 of element 0 of a
running load, a control-core word at address 0 of a Ready group, a pattern word in a running context. -/
def State.withFetchWord (s : State) (nbits w : Nat) : State :=
  if nbits = 64 then placeSlot s (BitVec.ofNat 64 w)
  else if (coreRow (BitVec.ofNat 32 w)).isSome || (decodePatOp (BitVec.ofNat 32 w)).isNone then placeCore s (BitVec.ofNat 32 w)
  else placePattern s (BitVec.ofNat 32 w)

end Sys2Proof.Machine
end

