-- ==== Sys2Proof/WellFormed.lean ====
section
/-! DEFINITION. Well-formed instructions: what the loader (R80) and the pattern checks (R220) let run. -/

namespace Sys2Proof

/-- Whether an instruction can stand in a checked program: an element slot passes checks 1 to 8 of R80
as far as its word decides, LOOP's back is not 0 (check 19 of R220); control-core words and events
carry no condition of their own. -/
def Instr.wellFormed (i : Instr) : Bool :=
  match slotParts i with
  | some p => decide (Machine.slotCheck p.1 p.2 false false = none)
  | none =>
    match i with
    | .patLoop _ _ b => decide (b ≠ 0#10)
    | _ => true

end Sys2Proof
end

