-- ==== Sys2Proof/Certificates/Slice0/Terms.lean ====
section
/-! DEFINITION. The terms that the statements are written in: what a firing leaves in registers, on outputs and at
inputs; what an instruction of a control core leaves; what stays as it was. -/

namespace Sys2Proof.Claims

open Sys2Proof Sys2Proof.Machine

/-! Element slots. -/

/-- An element instruction that gives a value to every guarded lane: its constructor, its opcode (R66) and the value. -/
structure LaneForm where
  instr : Slot → Instr
  op : Nat
  lane : Env → Nat → W32

/-- The lanes of a firing's destination register group: guarded lanes take the result, lanes below vl that are not
guarded follow the mask policy, lanes from vl on the tail policy (R81). -/
def registerLane (v : Env) (d : Nat) (f : Nat → W32) (l : Nat) : W32 :=
  if l < v.vl then (if guardL v l then f l else if v.c.mz then 0#32 else regLane v.e d l)
  else if v.c.tz then 0#32 else regLane v.e d l

/-- The lanes of what a firing emits (R81): an unguarded lane under MK carries lane l of A where the shape reads A. -/
def payloadLane (v : Env) (f : Nat → W32) (l : Nat) : W32 :=
  if l < v.vl then (if guardL v l then f l else if v.c.mz then 0#32 else maskSource v l) else 0#32

/-- Output n of the firing element gained `k` tokens with lanes `pay`, after what its buffer held. -/
def Emitted (s t : State) (v : Env) (n k : Nat) (pay : Nat → W32) : Prop :=
  ∀ ch c, outAt s v.sp v.rel v.el n false = some (ch, c) → ∃ c', getChan t v.sp ch = some c' ∧
    c'.out.take c.out.length = c.out ∧ c'.out.length = c.out.length + k ∧
    ∀ l, l < 8 * k → groupLane ((c'.out.drop c.out.length).map (·.tok)) l = pay l

/-- Output n of the firing element gained the tokens `toks`, each with ET where the firing is tagged (R384) and with SEQ
stamped where the output's template says so and zero where the channel is not ordered (R20). -/
def EmittedTokens (s t : State) (v : Env) (n : Nat) (toks : List Token) (tag : Bool) : Prop :=
  ∀ ch c, outAt s v.sp v.rel v.el n false = some (ch, c) → ∃ c', getChan t v.sp ch = some c' ∧
    c'.out = (emitAll v.t (stampsSeq v n) (toks.map (fun x => if tag then withET x true else x)) c).out

/-- Control output n gained one token that carries a bit. -/
def EmittedBit (s t : State) (v : Env) (n : Nat) (b : Bool) : Prop :=
  ∀ ch c, outAt s v.sp v.rel v.el n true = some (ch, c) → ∃ c', getChan t v.sp ch = some c' ∧
    ∃ f, c'.out = c.out ++ [f] ∧ tokenBit f.tok = b

/-- A firing whose guarded lanes receive `f`, wherever its destination code points. -/
def LaneFiring (i : Instr) (s : State) (v : Env) (f : Nat → W32) : Prop :=
  ∃ t, exec i s = .next t ∧
    (∀ d, destOf v.w.d = .v d → ∀ l, l < 8 * v.lg → regLane (getEl t v.cl v.el) d l = registerLane v d f l) ∧
    (∀ n, destOf v.w.d = .o n → Emitted s t v n v.lg (payloadLane v f)) ∧
    (∀ n, destOf v.w.d = .y n → EmittedBit s t v n
      (if isCompare v.op then (List.range v.vl).any (fun l => guardL v l && bitAt 0 (f l)) else guardL v 0 && bitAt 0 (f 0)))

/-! Control cores. -/

/-- The byte at a physical address as a group sees it: its latest store to it that is not yet performed, else what its
cluster sees (R175, R224). `ps` is oldest first. -/
def seenByte (s : State) (cl : Nat) (ps : List PStore) (pa : Nat) : Byte :=
  ps.foldl (fun b p => if p.pa ≤ pa ∧ pa < p.pa + p.bytes.length then p.bytes.getD (pa - p.pa) b else b) (s.seen cl pa)
/-- The `n` bytes at a physical address as the group sees them, as a number. -/
def seenNat (s : State) (cl : Nat) (ps : List PStore) (pa n : Nat) : Nat :=
  natOfBytes ((List.range n).map (fun k => seenByte s cl ps (pa + k)))

/-- Everything in the machine but the executing group is as it was. -/
def OnlyGroup (s t : State) : Prop :=
  t = { s with clusters := t.clusters } ∧ (∀ c, c ≠ s.cur.cl → getCl t c = getCl s c) ∧
  ∃ g : Group, getCl t s.cur.cl = { getCl s s.cur.cl with
    core := { (getCl s s.cur.cl).core with grp := vec4Set (getCl s s.cur.cl).core.grp s.cur.grp g } }

end Sys2Proof.Claims
end

