-- ==== Sys2Proof/Certificates/Slice0/Obligations.lean ====
section
/-! DEFINITION. The statements for the provers, from the spec's numbered rules. -/

/-! Element slots: what a firing computes. A hypothesis `fireEnv s op w = some v` says that the slot with opcode `op`
and fields `w` is eligible in `s` (R33); `v` holds what the firing reads (R83). -/

namespace Sys2Proof.Claims

open Sys2Proof Sys2Proof.Machine

/-- The firings of a list of forms complete, each with its lane values. -/
def LanesOf (forms : List LaneForm) : Prop :=
  ∀ F ∈ forms, ∀ (w : Slot) (s : State) (v : Env), fireEnv s F.op w = some v → LaneFiring (F.instr w) s v (F.lane v)

/-- R86 to R91. -/
def integerForms : List LaneForm :=
  [⟨.addI32, 0x00, fun v l => laneA v l + laneB v l⟩,
   ⟨.subI32, 0x01, fun v l => laneA v l - laneB v l⟩,
   ⟨.addI32Sat, 0x02, fun v l => BitVec.ofInt 32 (max (-2147483648) (min 2147483647 ((laneA v l).toInt + (laneB v l).toInt)))⟩,
   ⟨.subI32Sat, 0x03, fun v l => BitVec.ofInt 32 (max (-2147483648) (min 2147483647 ((laneA v l).toInt - (laneB v l).toInt)))⟩,
   ⟨.addN32Sat, 0x04, fun v l => BitVec.ofNat 32 (min 4294967295 ((laneA v l).toNat + (laneB v l).toNat))⟩,
   ⟨.subN32Sat, 0x05, fun v l => BitVec.ofNat 32 ((laneA v l).toNat - (laneB v l).toNat)⟩,
   ⟨.mulI32, 0x06, fun v l => laneA v l * laneB v l⟩,
   ⟨.mulhI32, 0x07, fun v l => BitVec.ofInt 32 ((laneA v l).toInt * (laneB v l).toInt / 4294967296)⟩,
   ⟨.mulhN32, 0x08, fun v l => BitVec.ofNat 32 ((laneA v l).toNat * (laneB v l).toNat / 4294967296)⟩,
   ⟨.macI32, 0x09, fun v l => laneD v l + laneA v l * laneB v l⟩,
   ⟨.minI32, 0x0A, fun v l => if (laneB v l).toInt < (laneA v l).toInt then laneB v l else laneA v l⟩,
   ⟨.maxI32, 0x0B, fun v l => if (laneA v l).toInt < (laneB v l).toInt then laneB v l else laneA v l⟩,
   ⟨.minN32, 0x0C, fun v l => if (laneB v l).toNat < (laneA v l).toNat then laneB v l else laneA v l⟩,
   ⟨.maxN32, 0x0D, fun v l => if (laneA v l).toNat < (laneB v l).toNat then laneB v l else laneA v l⟩,
   ⟨.absI32, 0x0E, fun v l => if (laneA v l).toInt < 0 then -(laneA v l) else laneA v l⟩,
   ⟨.addI16, 0x0F, fun v l => packLanes 16 2 wrapAdd (laneA v l) (laneB v l)⟩,
   ⟨.addI16Sat, 0x10, fun v l => packLanes 16 2 (satAdd 16) (laneA v l) (laneB v l)⟩,
   ⟨.addI8, 0x11, fun v l => packLanes 8 4 wrapAdd (laneA v l) (laneB v l)⟩,
   ⟨.addI8Sat, 0x12, fun v l => packLanes 8 4 (satAdd 8) (laneA v l) (laneB v l)⟩,
   ⟨.dotI8, 0x13, fun v l => dot8 true (laneD v l) (laneA v l) (laneB v l)⟩,
   ⟨.dotN8, 0x14, fun v l => dot8 false (laneD v l) (laneA v l) (laneB v l)⟩,
   ⟨.addiI32, 0x15, fun v l => laneA v l + imm10s v.w⟩]

/-- R92 to R97. -/
def logicForms : List LaneForm :=
  [⟨.elAnd, 0x20, fun v l => laneA v l &&& laneB v l⟩,
   ⟨.elOr, 0x21, fun v l => laneA v l ||| laneB v l⟩,
   ⟨.elXor, 0x22, fun v l => laneA v l ^^^ laneB v l⟩,
   ⟨.elAndn, 0x23, fun v l => laneA v l &&& ~~~(laneB v l)⟩,
   ⟨.elNot, 0x24, fun v l => ~~~(laneA v l)⟩,
   ⟨.shl, 0x25, fun v l => if (laneB v l).toNat < 32 then laneA v l <<< (laneB v l).toNat else 0#32⟩,
   ⟨.shr, 0x26, fun v l => if (laneB v l).toNat < 32 then laneA v l >>> (laneB v l).toNat else 0#32⟩,
   ⟨.sar, 0x27, fun v l => if (laneB v l).toNat < 32 then (laneA v l).sshiftRight (laneB v l).toNat
      else if (laneA v l).msb then 0xFFFFFFFF#32 else 0#32⟩,
   ⟨.shli, 0x28, fun v l => laneA v l <<< (imm10 v.w % 32)⟩,
   ⟨.shri, 0x29, fun v l => laneA v l >>> (imm10 v.w % 32)⟩,
   ⟨.sari, 0x2A, fun v l => (laneA v l).sshiftRight (imm10 v.w % 32)⟩,
   ⟨.andi, 0x2B, fun v l => laneA v l &&& imm10s v.w⟩,
   ⟨.ori, 0x2C, fun v l => laneA v l ||| imm10s v.w⟩,
   ⟨.clz, 0x2D, fun v l => BitVec.ofNat 32 (clzNat 32 (laneA v l).toNat)⟩,
   ⟨.popc, 0x2E, fun v l => BitVec.ofNat 32 (popcNat 32 (laneA v l).toNat)⟩,
   ⟨.bfxn, 0x2F, fun v l => BitVec.ofNat 32 ((laneA v l).toNat / 2 ^ bfPos v.w % 2 ^ bfLen v.w)⟩,
   ⟨.bfxi, 0x30, fun v l => BitVec.ofInt 32 (sextNat (bfLen v.w) ((laneA v l).toNat / 2 ^ bfPos v.w % 2 ^ bfLen v.w))⟩,
   ⟨.bfi, 0x31, fun v l => (laneD v l &&& ~~~(bfMask v.w)) ||| ((laneA v l <<< bfPos v.w) &&& bfMask v.w)⟩,
   ⟨.movi, 0x32, fun v _ => imm15s v.w⟩,
   ⟨.movih, 0x33, fun v l => (laneD v l <<< 15) ||| BitVec.ofNat 32 (imm15 v.w)⟩]

/-- R98 to R100. -/
def compareForms : List LaneForm :=
  [⟨.cmpeqI32, 0x40, fun v l => if laneA v l = laneB v l then 1#32 else 0#32⟩,
   ⟨.cmpneI32, 0x41, fun v l => if laneA v l = laneB v l then 0#32 else 1#32⟩,
   ⟨.cmpltI32, 0x42, fun v l => if (laneA v l).toInt < (laneB v l).toInt then 1#32 else 0#32⟩,
   ⟨.cmpleI32, 0x43, fun v l => if (laneA v l).toInt ≤ (laneB v l).toInt then 1#32 else 0#32⟩,
   ⟨.cmpltN32, 0x44, fun v l => if (laneA v l).toNat < (laneB v l).toNat then 1#32 else 0#32⟩,
   ⟨.cmpleN32, 0x45, fun v l => if (laneA v l).toNat ≤ (laneB v l).toNat then 1#32 else 0#32⟩,
   ⟨.pand, 0x46, fun v l => if predL v v.w.a.toNat l = true ∧ predL v v.w.b.toNat l = true then 1#32 else 0#32⟩,
   ⟨.por, 0x47, fun v l => if predL v v.w.a.toNat l = true ∨ predL v v.w.b.toNat l = true then 1#32 else 0#32⟩,
   ⟨.pxor, 0x48, fun v l => if predL v v.w.a.toNat l = predL v v.w.b.toNat l then 0#32 else 1#32⟩,
   ⟨.pnot, 0x49, fun v l => if predL v v.w.a.toNat l = true then 0#32 else 1#32⟩,
   ⟨.pcnt, 0x56, fun v _ => BitVec.ofNat 32 (((List.range v.vl).filter (fun l => guardL v l && predL v v.w.a.toNat l)).length)⟩,
   ⟨.sel, 0x4A, fun v l => if predL v (v.w.pw.toNat / 4) l = true then laneA v l else laneB v l⟩]

/-- R101 to R103, R106, R147. -/
def moveForms : List LaneForm :=
  [⟨.bcast, 0x4B, fun v _ => if imm10 v.w % 32 < v.vl then laneA v (imm10 v.w % 32) else 0#32⟩,
   ⟨.shuf, 0x4C, fun v l => if (laneB v l).toNat < v.vl then laneA v (laneB v l).toNat else 0#32⟩,
   ⟨.rotl, 0x4D, fun v l => laneA v ((l + imm10 v.w % 32) % v.vl)⟩,
   ⟨.slideup, 0x4E, fun v l => if imm10 v.w % 32 ≤ l ∧ l - imm10 v.w % 32 < v.vl then laneA v (l - imm10 v.w % 32) else 0#32⟩,
   ⟨.slidedn, 0x4F, fun v l => if l + imm10 v.w % 32 < v.vl then laneA v (l + imm10 v.w % 32) else 0#32⟩,
   ⟨.redaddI32, 0x50, fun v _ => (((List.range v.vl).filter (guardL v)).map (laneA v)).foldl (fun x y => x + y) 0#32⟩,
   ⟨.redminI32, 0x51, fun v _ => redLanes v (fun x y => if y.toInt < x.toInt then y else x)⟩,
   ⟨.redmaxI32, 0x52, fun v _ => redLanes v (fun x y => if x.toInt < y.toInt then y else x)⟩,
   ⟨.rdf, 0x58, fun v _ => BitVec.ofNat 32 (b2n v.c.mismatch + 2 * b2n v.c.ffault + 4 * (v.c.gc.toNat % 8))⟩,
   ⟨.pass, 0xC0, fun v l => laneA v l⟩,
   ⟨.mkrow, 0xC3, fun v l => laneA v l⟩,
   ⟨.mkend, 0xC4, fun v l => laneA v l⟩]

/-- The order of R111: by value, with −0 below +0. -/
def below (x y : W32) : Prop := exLt (f32 x) (f32 y) = true ∨ (x = 0x80000000#32 ∧ y = 0#32)
/-- The lesser and the greater of two patterns, bit for bit, numbers before NaNs (R111). -/
def lesser (x y z : W32) : Prop :=
  (f32 x = .nan → z = if f32 y = .nan then 0x7FC00000#32 else y) ∧ (f32 x ≠ .nan → f32 y = .nan → z = x) ∧
  (f32 x ≠ .nan → f32 y ≠ .nan → (below x y → z = x) ∧ (below y x → z = y) ∧ (x = y → z = x))
def greater (x y z : W32) : Prop :=
  (f32 x = .nan → z = if f32 y = .nan then 0x7FC00000#32 else y) ∧ (f32 x ≠ .nan → f32 y = .nan → z = x) ∧
  (f32 x ≠ .nan → f32 y ≠ .nan → (below x y → z = y) ∧ (below y x → z = x) ∧ (x = y → z = x))
/-- The guarded lanes, ascending. -/
def guardedLanes (v : Env) : List Nat := (List.range v.vl).filter (guardL v)
/-- The sum of R114: the lanes' values in ascending order, rounded once per addition; the bits of it, a NaN canonical. -/
def laneSum (v : Env) : W32 :=
  match guardedLanes v with
  | [] => 0#32
  | g :: gs => toF32 (rmOf v) (gs.foldl (fun r l => f32 (toF32 (rmOf v) (exAdd (rmOf v) r (f32 (laneA v l))))) (f32 (laneA v g)))
/-- The greatest of R115: the bits of a guarded lane that no guarded lane is above, or the canonical NaN where all are NaN. -/
def greatest (v : Env) (z : W32) : Prop :=
  ((∀ l ∈ guardedLanes v, f32 (laneA v l) = .nan) → z = 0x7FC00000#32) ∧
  ((∃ l ∈ guardedLanes v, f32 (laneA v l) ≠ .nan) → (∃ l ∈ guardedLanes v, z = laneA v l ∧ f32 z ≠ .nan) ∧
    ∀ l ∈ guardedLanes v, ¬ below z (laneA v l))

/-- R110, R112 to R114; `f32` is the value of a pattern, `toF32` its one rounding. -/
def floatForms : List LaneForm :=
  [⟨.addF32, 0x60, fun v l => toF32 (rmOf v) (exAdd (rmOf v) (f32 (laneA v l)) (f32 (laneB v l)))⟩,
   ⟨.subF32, 0x61, fun v l => toF32 (rmOf v) (exSub (rmOf v) (f32 (laneA v l)) (f32 (laneB v l)))⟩,
   ⟨.mulF32, 0x62, fun v l => toF32 (rmOf v) (exMul (f32 (laneA v l)) (f32 (laneB v l)))⟩,
   ⟨.fmaF32, 0x63, fun v l => toF32 (rmOf v) (exAdd (rmOf v) (exMul (f32 (laneA v l)) (f32 (laneB v l))) (f32 (laneD v l)))⟩,
   ⟨.negF32, 0x66, fun v l => laneA v l ^^^ 0x80000000#32⟩,
   ⟨.absF32, 0x67, fun v l => laneA v l &&& 0x7FFFFFFF#32⟩,
   ⟨.sgnjF32, 0x68, fun v l => (laneA v l &&& 0x7FFFFFFF#32) ||| (laneB v l &&& 0x80000000#32)⟩,
   ⟨.cmpeqF32, 0x69, fun v l => if exEq (f32 (laneA v l)) (f32 (laneB v l)) = true then 1#32 else 0#32⟩,
   ⟨.cmpltF32, 0x6A, fun v l => if exLt (f32 (laneA v l)) (f32 (laneB v l)) = true then 1#32 else 0#32⟩,
   ⟨.cmpleF32, 0x6B, fun v l => if exLe (f32 (laneA v l)) (f32 (laneB v l)) = true then 1#32 else 0#32⟩,
   ⟨.cmpunF32, 0x6C, fun v l => if f32 (laneA v l) = .nan ∨ f32 (laneB v l) = .nan then 1#32 else 0#32⟩,
   ⟨.redaddF32, 0x74, fun v _ => laneSum v⟩]

/-- R116 to R121, R127. -/
def packedForms : List LaneForm :=
  [⟨.addBf16, 0x6D, fun v l => pack16 fmtBF16 (rmOf v) (fun _ a b => exAdd (rmOf v) a b) (laneD v l) (laneA v l) (laneB v l)⟩,
   ⟨.mulBf16, 0x6E, fun v l => pack16 fmtBF16 (rmOf v) (fun _ a b => exMul a b) (laneD v l) (laneA v l) (laneB v l)⟩,
   ⟨.fmaBf16, 0x6F, fun v l => pack16 fmtBF16 (rmOf v) (fun d a b => exAdd (rmOf v) (exMul a b) d) (laneD v l) (laneA v l) (laneB v l)⟩,
   ⟨.addF16, 0x70, fun v l => pack16 fmtF16 (rmOf v) (fun _ a b => exAdd (rmOf v) a b) (laneD v l) (laneA v l) (laneB v l)⟩,
   ⟨.mulF16, 0x71, fun v l => pack16 fmtF16 (rmOf v) (fun _ a b => exMul a b) (laneD v l) (laneA v l) (laneB v l)⟩,
   ⟨.fmaF16, 0x72, fun v l => pack16 fmtF16 (rmOf v) (fun d a b => exAdd (rmOf v) (exMul a b) d) (laneD v l) (laneA v l) (laneB v l)⟩,
   ⟨.dotBf16, 0x73, fun v l => dotBf16 (rmOf v) (laneD v l) (laneA v l) (laneB v l)⟩,
   ⟨.cvt, 0x80, fun v l => cvtLane false (rmOf v) v.w.b.toNat (laneA v l)⟩,
   ⟨.cvtSat, 0x81, fun v l => cvtLane true (rmOf v) v.w.b.toNat (laneA v l)⟩,
   ⟨.cvtiF32, 0x82, fun v l => BitVec.ofInt 32 (roundIntSat (rmOf v) (-2147483648) 2147483647 (f32 (laneA v l)))⟩,
   ⟨.cvtnF32, 0x83, fun v l => BitVec.ofInt 32 (roundIntSat (rmOf v) 0 4294967295 (f32 (laneA v l)))⟩,
   ⟨.cvtfI32, 0x84, fun v l => toF32 (rmOf v) (exOfInt (laneA v l).toInt)⟩,
   ⟨.cvtfN32, 0x85, fun v l => toF32 (rmOf v) (exOfInt (laneA v l).toNat)⟩,
   ⟨.scaleMx, 0x8A, fun v _ => scaleMx v⟩]

/-! Special functions (R130 to R132), over the real numbers. -/

/-- Exponent and fraction of an F32 pattern (R45). -/
def expOf (x : W32) : Nat := x.toNat / 2 ^ 23 % 256
def fracOf (x : W32) : Nat := x.toNat % 2 ^ 23
def negative (x : W32) : Bool := bitAt 31 x
/-- The value of a finite F32 pattern (R45). -/
noncomputable def realOf (x : W32) : ℝ :=
  (if negative x then -1 else 1) *
    (if expOf x = 0 then (fracOf x : ℝ) * 2 ^ (-149 : ℤ) else (2 ^ 23 + (fracOf x : ℝ)) * 2 ^ ((expOf x : ℤ) - 150))
/-- `r` is Round(y, F32, RNE) of R59: an infinity from the middle between the greatest finite value and 2^128 on, else a nearest
finite pattern, at a tie the one with fraction bit 0 clear; the sign is that of y. -/
def RoundsTo (y : ℝ) (r : W32) : Prop :=
  (negative r = true ↔ y < 0) ∧
  (2 ^ 128 - 2 ^ 103 ≤ |y| → r = 0x7F800000#32 ∨ r = 0xFF800000#32) ∧
  (|y| < 2 ^ 128 - 2 ^ 103 → expOf r < 255 ∧ ∀ p : W32, expOf p < 255 → |realOf r - y| ≤ |realOf p - y| ∧
    (|realOf r - y| = |realOf p - y| → realOf p ≠ realOf r → bitAt 0 r = false))

/-- A special function: constructor, opcode, the function, and its results for a NaN, −∞, −0, +0 and +∞ and, where they are
NaN, for the negative numbers (R131). -/
structure SpecialForm where
  instr : Slot → Instr
  op : Nat
  fn : ℝ → ℝ
  ninf : W32
  nzero : W32
  pzero : W32
  pinf : W32
  noNeg : Bool
noncomputable def rcpForm : SpecialForm := ⟨.rcpF32, 0x8B, fun x => 1 / x, 0x80000000#32, 0xFF800000#32, 0x7F800000#32, 0#32, false⟩
noncomputable def rsqForm : SpecialForm := ⟨.rsqF32, 0x8C, fun x => 1 / Real.sqrt x, 0x7FC00000#32, 0xFF800000#32, 0x7F800000#32, 0#32, true⟩
noncomputable def ex2Form : SpecialForm := ⟨.ex2F32, 0x8D, fun x => (2 : ℝ) ^ x, 0#32, 0x3F800000#32, 0x3F800000#32, 0x7F800000#32, false⟩
noncomputable def lg2Form : SpecialForm := ⟨.lg2F32, 0x8E, fun x => Real.logb 2 x, 0x7FC00000#32, 0xFF800000#32, 0xFF800000#32, 0x7F800000#32, true⟩
noncomputable def tanhForm : SpecialForm := ⟨.tanhF32, 0x8F, Real.tanh, 0xBF800000#32, 0x80000000#32, 0#32, 0x3F800000#32, false⟩
noncomputable def sigmForm : SpecialForm := ⟨.sigmF32, 0x90, fun x => 1 / (1 + Real.exp (-x)), 0#32, 0x3F000000#32, 0x3F000000#32, 0x3F800000#32, false⟩

/-- A finite input outside the table of special values. -/
def Ordinary (F : SpecialForm) (x : W32) : Prop := expOf x < 255 ∧ x ≠ 0#32 ∧ x ≠ 0x80000000#32 ∧ (F.noNeg = true → negative x = false)
/-- The table of R131. -/
def TableHolds (F : SpecialForm) (g : W32 → W32) : Prop :=
  (∀ x, expOf x = 255 → fracOf x ≠ 0 → g x = 0x7FC00000#32) ∧
  g 0xFF800000#32 = F.ninf ∧ g 0x7F800000#32 = F.pinf ∧ g 0x80000000#32 = F.nzero ∧ g 0#32 = F.pzero ∧
  (F.noNeg = true → ∀ x, expOf x < 255 → negative x = true → x ≠ 0x80000000#32 → g x = 0x7FC00000#32)
/-- A firing gives every guarded lane g of its operand. -/
def FiresAs (F : SpecialForm) (g : W32 → W32) : Prop :=
  ∀ (w : Slot) (s : State) (v : Env), fireEnv s F.op w = some v → LaneFiring (F.instr w) s v (fun l => g (laneA v l))

/-- An instruction that changes its operator's own state alone: constructor, opcode, the state it leaves. -/
structure ContextForm where
  instr : Slot → Instr
  op : Nat
  next : Env → OpCtx

/-- The request token of R156: A's lanes 0 to 3, B's lanes 0 to 2, and in lane 7 the kind over 28 bits of B's lane 3. -/
def requestLane (v : Env) (kind i : Nat) : W32 :=
  if i < 4 then laneA v i else if i < 7 then laneB v (i - 4) else BitVec.ofNat 32 (kind * 2 ^ 28 + (laneB v 3).toNat % 2 ^ 28)

/-- A group that passes whole, under its own headers, or with HC = 1 under the template's fields (R76); LN and BUB stay, as log 62 reads it. -/
def underHeader (v : Env) (n : Nat) (g : List Token) : List Token :=
  let h := template v n
  let last (j : Nat) : Bool := decide (j + 1 = g.length)
  if v.hc then
    g.mapIdx (fun j x => ⟨x.lanes, mkHdr (hdrFMT h) (last j && hdrLR h) (last j && hdrLS h) (hdrBUB x.hdr) (hdrLN x.hdr) (hdrTAG h) (hdrSEQ h)⟩)
  else g
/-- The arm that MRG takes (R151): of the two that B[3:0] names, the lower-numbered at control bit 0 and the higher at 1. -/
def MrgTakes (v : Env) (a : Nat) : Prop :=
  a < 4 ∧ v.w.b.toNat.testBit a = true ∧ ∃ k b, operandOf v.w.a = .k k ∧ vec4Get v.ctl k = some b ∧
    ∀ i, i < 4 → v.w.b.toNat.testBit i = true → i ≠ a → (∀ j, j < 4 → v.w.b.toNat.testBit j = true → j = a ∨ j = i) →
      (b = false ↔ a < i)
/-- The arm that MRGU takes (R152): of the named arms that hold a group it is the first after the arm taken last, in cyclic
order; `physIn` gives the port's number on the element (R248). -/
def MrguTakes (v : Env) (a : Nat) : Prop :=
  a < 4 ∧ v.w.b.toNat.testBit a = true ∧ portReady v a = true ∧
  ∀ i, i < 4 → v.w.b.toNat.testBit i = true → portReady v i = true →
    (a + 3 - physIn v (vec16Get v.e.arms v.slotNo) % 4) % 4 ≤ (i + 3 - physIn v (vec16Get v.e.arms v.slotNo) % 4) % 4

/-- The element of a firing. -/
def elemOf (t : State) (v : Env) : Elem := getEl t v.cl v.el

/-- A lane holds c codes, the lowest-numbered in its lowest bits (R124). -/
def Packs (c : Nat) (code : Nat → Nat) (l : Nat) (x : W32) : Prop :=
  ∀ k, k < c → x.toNat / 2 ^ (32 / c * k) % 2 ^ (32 / c) = code (c * l + k)
/-- What a quantising firing leaves, c codes a lane: in a register group, the others of its lanes under the tail policy; on an
output one token, zero beyond its code lanes. -/
def Quantises (s t : State) (v : Env) (c : Nat) (code : Nat → Nat) : Prop :=
  (∀ d, destOf v.w.d = .v d → ∀ l, l < 8 * v.lg → if l < ceilDiv v.vl c then Packs c code l (regLane (elemOf t v) d l)
    else regLane (elemOf t v) d l = if v.c.tz then 0#32 else regLane v.e d l) ∧
  (∀ n, destOf v.w.d = .o n → ∃ pay, Emitted s t v n 1 pay ∧
    ∀ l, l < 8 → if l < ceilDiv v.vl c then Packs c code l (pay l) else pay l = 0#32)
/-- The width of a QG code (R122), and scale and zero point of the record in lane 0 of B (R52, R125). -/
def qgBits (v : Env) : Nat := if bitAt 0 v.c.gc then 8 else 4
def recordScale (v : Env) : Exact := fval fmtF16 ((laneB v 0).toNat % 65536)
def recordZero (v : Env) : Nat := (laneB v 0).toNat / 65536 % 2 ^ qgBits v
/-- A code of QNT.QG (R125): the exact quotient rounded to an integer, the zero point added, saturated to the code's width; the
zero point where the position is not quantised. -/
def qgCode (v : Env) (e : Nat) : Nat :=
  match recordScale v with
  | .fin n p q =>
    if e < v.vl ∧ guardL v e = true then
      match f32 (laneA v e) with
      | .nan => recordZero v
      | .zero _ => recordZero v
      | .inf m => if m = n then 2 ^ qgBits v - 1 else 0
      | .fin m a b => (max 0 (min (2 ^ qgBits v - 1) (signedNum (m != n) (roundQuot (rmOf v) (m != n) (a * q) (b * p)) + recordZero v))).toNat
    else recordZero v
  | _ => recordZero v
/-- A code of QNT.MX4 (R128): the exact quotient by 2^(e − 127), rounded to E2M1. -/
def mx4Code (v : Env) (e : Nat) : Nat :=
  if e < v.vl ∧ guardL v e = true ∧ (laneB v 0).toNat % 256 ≠ 0xFF then
    fround fmtE2M1 (rmOf v) (exDiv (f32 (laneA v e)) (exPow2 (((laneB v 0).toNat % 256 : Nat) - (127 : Int))))
  else 0
/-- Code position l of the one token or register that a dequantising firing reads (R124). -/
def codeOf (v : Env) (c l : Nat) : Nat := (laneA v (l / c)).toNat / 2 ^ (32 / c * (l % c)) % 2 ^ (32 / c)
/-- The values of a dequantising firing, in a register group or in tokens. -/
def DequantResult (s t : State) (v : Env) (f : Nat → W32) : Prop :=
  (∀ d, destOf v.w.d = .v d → ∀ l, l < 8 * v.lg → regLane (elemOf t v) d l = registerLane v d f l) ∧
  (∀ n, destOf v.w.d = .o n → Emitted s t v n v.lg (fun l => if guardL v l then f l else 0#32))

/-- A memory firing: constructor, opcode, operation on a tile word, byte offset, data and comparand of a lane. -/
structure MemForm where
  instr : Slot → Instr
  op : Nat
  act : Env → MemOp
  off : Env → Nat → W32
  data : Env → Nat → W32
  cmp : Env → Nat → W32

/-- R139, R141 to R143. -/
def memForms : List MemForm :=
  let unit (v : Env) (l : Nat) : W32 := laneA v 0 + laneB v 0 + BitVec.ofNat 32 (4 * l)
  let base (v : Env) (l : Nat) : W32 := laneA v 0 + BitVec.ofNat 32 (4 * l)
  let zero (_ : Env) (_ : Nat) : W32 := 0#32
  [⟨.ld, 0xA0, fun _ => .load, unit, zero, zero⟩, ⟨.ldFe, 0xA1, fun _ => .loadFe, unit, zero, zero⟩,
   ⟨.ldFeClr, 0xA2, fun _ => .loadFeClr, unit, zero, zero⟩, ⟨.ldff, 0xA3, fun _ => .load, unit, zero, zero⟩,
   ⟨.st, 0xA4, fun _ => .store, base, laneB, zero⟩, ⟨.stFull, 0xA5, fun _ => .storeFull, base, laneB, zero⟩,
   ⟨.gath, 0xA6, fun _ => .load, fun v l => laneA v l + laneB v l, zero, zero⟩,
   ⟨.scat, 0xA7, fun _ => .store, laneA, laneB, zero⟩, ⟨.amoaddI32, 0xA8, fun _ => .amoAdd, laneA, laneB, zero⟩,
   ⟨.amominI32, 0xA9, fun _ => .amoMin, laneA, laneB, zero⟩, ⟨.amomaxI32, 0xAA, fun _ => .amoMax, laneA, laneB, zero⟩,
   ⟨.amoswp, 0xAB, fun _ => .amoSwap, laneA, laneB, zero⟩, ⟨.amocas, 0xAC, fun _ => .amoCas, laneA, laneB, laneD⟩,
   ⟨.amoaddF32, 0xAD, fun v => .amoAddF (v.w.pw.toNat % 4), laneA, laneB, zero⟩]

/-- The accesses of a memory firing as issued: a tile word per guarded lane, or a translated physical word (R134, R145). -/
def issuedAccs (s : State) (v : Env) (op : MemOp) (off data cmp : Nat → W32) : LaneTrans :=
  let accs := ((List.range v.vl).filter (guardL v)).map
    (fun l => ⟨l, bitAt 63 v.c.mab, memAddr v.c (off l), data l, cmp l, ⟨3, 0, 0, 0, false⟩⟩)
  if bitAt 63 v.c.mab then .ok accs
  else transLanes s v.e v.cl (((getLoad s v.sp).map (·.asid)).getD 0)
    (if !memWrites op then 1 else if accReads op then 3 else 2) accs
/-- The operation it performs: on the virtual space full and empty bits play no part (R140). -/
def issuedOp (v : Env) (op : MemOp) : MemOp := if bitAt 63 v.c.mab then op else virtualOp op

end Sys2Proof.Claims

open Sys2Proof Sys2Proof.Machine Sys2Proof.Claims

/-- R86 to R91: integer arithmetic. Every guarded lane receives the value; saturation clamps the exact sum. -/
def Sys2Proof.Claims.IntegerLanes : Prop := LanesOf integerForms

/-- R92 to R97: logic, shifts, counts, bit fields and immediates. -/
def Sys2Proof.Claims.LogicAndShiftLanes : Prop := LanesOf logicForms

/-- R98 to R100: compares write 1 or 0, predicate logic reads the predicates A and B, SEL chooses by one. -/
def Obligations.CompareAndPredicateLanes : Prop := LanesOf compareForms

/-- R101 to R103, R106, R147: moves between lanes read zero from lanes at or beyond vl, reductions run over the guarded
lanes, PASS, MKROW and MKEND copy A. -/
def Obligations.LaneMovesAndReductions : Prop := LanesOf moveForms

/-- R110 to R115: F32 arithmetic with one rounding, compares and sums; the lesser, the greater and the greatest of operands,
numbers before NaNs and −0 below +0. -/
def Obligations.FloatLanes : Prop :=
  LanesOf floatForms ∧ ∀ (w : Slot) (s : State) (v : Env),
    (fireEnv s 0x64 w = some v → ∃ f, LaneFiring (.minF32 w) s v f ∧ ∀ l, lesser (laneA v l) (laneB v l) (f l)) ∧
    (fireEnv s 0x65 w = some v → ∃ f, LaneFiring (.maxF32 w) s v f ∧ ∀ l, greater (laneA v l) (laneB v l) (f l)) ∧
    (fireEnv s 0x75 w = some v → ∃ z, LaneFiring (.redmaxF32 w) s v (fun _ => z) ∧ (guardedLanes v ≠ [] → greatest v z))

/-- R116 to R121 and R127: packed BF16 and F16 arithmetic, the dot product, conversions, the block scale. -/
def Sys2Proof.Claims.PackedAndConversionLanes : Prop := LanesOf packedForms

/-- R130 to R132: the special functions. Each result is a fixed function of the input's bits. The special values are those of
the table. 1/x and 1/√x are correctly rounded; a result of the other four is the correctly rounded value of a number within
2^−900 of the exact one, relatively, which is R130's own wherever no boundary of rounding lies between the two (log 12). The
inputs of R132 have their results, and tanh and rcp are odd. -/
def Sys2Proof.Claims.SpecialFunctions : Prop :=
  (∀ F, F = rcpForm ∨ F = rsqForm → ∃ g, FiresAs F g ∧ TableHolds F g ∧ (∀ x, Ordinary F x → RoundsTo (F.fn (realOf x)) (g x)) ∧
    (F = rcpForm → ∀ x, Ordinary F x → g (x ^^^ 0x80000000#32) = g x ^^^ 0x80000000#32)) ∧
  (∀ F, F = ex2Form ∨ F = lg2Form ∨ F = tanhForm ∨ F = sigmForm → ∃ g, FiresAs F g ∧ TableHolds F g ∧
    (∀ x, Ordinary F x → ∃ z : ℝ, |z - F.fn (realOf x)| ≤ 2 ^ (-900 : ℤ) * |F.fn (realOf x)| ∧ RoundsTo z (g x)) ∧
    (F = ex2Form → ∀ x, Ordinary F x → (128 ≤ realOf x → g x = 0x7F800000#32) ∧ (realOf x ≤ -150 → g x = 0#32) ∧
      ∀ n : ℤ, realOf x = n → -149 ≤ n → n ≤ 127 → realOf (g x) = 2 ^ n) ∧
    (F = lg2Form → ∀ x (k : ℤ), Ordinary F x → realOf x = 2 ^ k → realOf (g x) = k) ∧
    (F = tanhForm → ∀ x, Ordinary F x → g (x ^^^ 0x80000000#32) = g x ^^^ 0x80000000#32 ∧
      (9.5 ≤ |realOf x| → g x = if negative x then 0xBF800000#32 else 0x3F800000#32) ∧ (|realOf x| < 2 ^ (-12 : ℤ) → g x = x)) ∧
    (F = sigmForm → ∀ x, Ordinary F x → (18 ≤ realOf x → g x = 0x3F800000#32) ∧ (realOf x ≤ -104 → g x = 0#32)))

/-- R124 to R126, R128, R129: quantising writes code words in the lanes below ⌈vl / codes per lane⌉ and fills the others
under the tail policy, dequantising reads one token or register and writes a value per guarded lane; on an output QNT emits
one token, and DQNT's unguarded lanes carry zero. -/
def Obligations.QuantisationResults : Prop :=
  ∀ (w : Slot) (s : State) (v : Env),
    (fireEnv s 0x86 w = some v → ∃ t, exec (.qntQg w) s = .next t ∧ Quantises s t v (32 / qgBits v) (qgCode v)) ∧
    (fireEnv s 0x88 w = some v → ∃ t, exec (.qntMx4 w) s = .next t ∧ Quantises s t v 8 (mx4Code v)) ∧
    (fireEnv s 0x87 w = some v → ∃ t, exec (.dqntQg w) s = .next t ∧
      DequantResult s t v (fun l => toF32 .rne
        (valQG ((laneB v 0).toNat % 65536) (codeOf v (32 / qgBits v) l) (recordZero v)))) ∧
    (fireEnv s 0x89 w = some v → ∃ t, exec (.dqntMx4 w) s = .next t ∧
      DequantResult s t v (fun l => toF32 .rne (valMX4 ((laneB v 0).toNat % 256) (codeOf v 8 l))))

/-- SETVL and SETVLI grant the length `n` (R104): it is the new vl, every lane of a register group and every payload lane below
it of LG tokens receives it, and a control output carries its bit 0 where lane 0 was guarded (R68). -/
def GrantsLength (s t : State) (v : Env) (n : Nat) : Prop :=
  ctxOfShare (elemOf t v) v.share = { v.c with vl := n } ∧
  (∀ d, destOf v.w.d = .v d → ∀ l, l < 8 * v.lg → regLane (elemOf t v) d l = BitVec.ofNat 32 n) ∧
  (∀ o, destOf v.w.d = .o o → Emitted s t v o v.lg (fun l => if l < n then BitVec.ofNat 32 n else 0#32) ∧
    ∀ ch c, outAt s v.sp v.rel v.el o false = some (ch, c) → ∃ c', getChan t v.sp ch = some c' ∧
      ∀ j f, j < v.lg → c'.out[c.out.length + j]? = some f → hdrLN f.tok.hdr = min 8 (n - 8 * j)) ∧
  (∀ y, destOf v.w.d = .y y → EmittedBit s t v y (guardL v 0 && bitAt 0 (BitVec.ofNat 32 n)))

/-- R104, R105, R106, R123, R154, R155, R160, R162: instructions that change the firing operator's own state leave it so,
and write no vector register but SETVL's and SETVLI's destination; SETVL and SETVLI grant their length. -/
def Sys2Proof.Claims.OperatorStateInstructions : Prop :=
  (∀ F ∈ [(⟨.setpol, 0x55, fun v => setpolCtx (imm10 v.w) v.c⟩ : ContextForm),
      ⟨.clrf, 0x57, fun v => { v.c with mismatch := v.c.mismatch && !(imm10 v.w).testBit 0, ffault := v.c.ffault && !(imm10 v.w).testBit 1 }⟩,
      ⟨.grpcfg, 0x91, fun v => { v.c with gc := setField 2 0 v.c.gc (imm10 v.w % 8) }⟩,
      ⟨.tagset, 0xC9, fun v => withTemplate v (tagsetHdr (imm10 v.w))⟩,
      ⟨.hdrw, 0xCA, fun v => withTemplate v (hdrwHdr (imm10 v.w) ((laneA v 0).toNat % 65536))⟩,
      ⟨.halt, 0xE0, fun v => { v.c with halted := true }⟩,
      ⟨.rhint, 0xE2, fun v => { v.c with weight := imm10 v.w }⟩,
      ⟨.fhint, 0xE3, fun v => { v.c with hint := imm10 v.w % 4 }⟩],
    ∀ (w : Slot) (s : State) (v : Env), fireEnv s F.op w = some v → ∃ t, exec (F.instr w) s = .next t ∧
      ctxOfShare (elemOf t v) v.share = F.next v ∧ (elemOf t v).regs = v.e.regs ∧ (F.op ≠ 0xE0 → (elemOf t v).preds = v.e.preds)) ∧
  (∀ (w : Slot) (s : State) (v : Env), fireEnv s 0x53 w = some v → ∃ t, exec (.setvl w) s = .next t ∧
    GrantsLength s t v (min (laneA v 0).toNat (8 * v.lg))) ∧
  (∀ (w : Slot) (s : State) (v : Env), fireEnv s 0x54 w = some v → ∃ t, exec (.setvli w) s = .next t ∧
    GrantsLength s t v (min (imm10 v.w) (8 * v.lg)))

/-- R76, R148 to R153, R156, R158, R159: what the channel, order, request and delta instructions emit or write. A group that
STEER, MRG or MRGU passes whole under HC = 1 takes the template's FMT, LS, TAG and SEQ and keeps each token's LN and BUB: that
is the model's reading (log 62), R76 alone gives LN by vl. -/
def Obligations.ChannelInstructions : Prop :=
  ∀ (w : Slot) (s : State) (v : Env),
    (fireEnv s 0xC2 w = some v → ∃ t, exec (.bubl w) s = .next t ∧ ∀ n, destOf v.w.d = .o n →
      EmittedTokens s t v n [⟨lanesZero, mkHdr (hdrFMT (template v n)) (hdrLR (template v n)) (hdrLS (template v n)) true 0
        (hdrTAG (template v n)) (hdrSEQ (template v n))⟩] (readsTagged v)) ∧
    (fireEnv s 0xC1 w = some v → ∃ t, exec (.deq w) s = .next t ∧ (elemOf t v).regs = v.e.regs ∧
      ∀ ch c, getChan s v.sp ch = some c → ∃ c', getChan t v.sp ch = some c' ∧ c'.out = c.out) ∧
    (fireEnv s 0xC5 w = some v → ∃ t, exec (.steer w) s = .next t ∧
      ∀ n k b, destOf v.w.d = .o n → operandOf v.w.b = .k k → vec4Get v.ctl k = some b →
        EmittedTokens s t v (if b then n + 1 else n) (underHeader v (if b then n + 1 else n) ((groupA v).getD [])) (readsTagged v)) ∧
    (fireEnv s 0xC6 w = some v → ∃ t a g, exec (.mrg w) s = .next t ∧ MrgTakes v a ∧ vec4Get v.ins a = some g ∧
      ∀ n, destOf v.w.d = .o n → EmittedTokens s t v n (underHeader v n g) (readsTagged v || groupTagged (some g))) ∧
    (fireEnv s 0xC7 w = some v → ∃ t a g, exec (.mrgu w) s = .next t ∧ MrguTakes v a ∧ vec4Get v.ins a = some g ∧
      physIn v (vec16Get (elemOf t v).arms v.slotNo) = a ∧
      ∀ n, destOf v.w.d = .o n → EmittedTokens s t v n (underHeader v n g) (readsTagged v || groupTagged (some g))) ∧
    (fireEnv s 0xC8 w = some v → ∃ t, exec (.join w) s = .next t ∧ ∀ n, destOf v.w.d = .y n → EmittedBit s t v n
      (guardL v 0 && (List.range 4).all (fun k => !bitAt (4 + k) v.w.ir || (vec4Get v.ctl k).getD false))) ∧
    (∀ p ∈ [((Instr.mxtok w, 0xCB, 1) : Instr × Nat × Nat), (.sreq w, 0xCC, 2), (.xreq w, 0xCD, 3)],
      fireEnv s p.2.1 w = some v → ∃ t, exec p.1 s = .next t ∧
        ∀ n, destOf v.w.d = .o n → Emitted s t v n 1 (requestLane v p.2.2)) ∧
    (fireEnv s 0xCE w = some v → ∃ t, exec (.delta w) s = .next t ∧ ∀ n ps, destOf v.w.d = .o n →
      ps = ((List.range v.vl).filter (deltaSent v)).map (fun l => roundD (deltaOf v l) ||| BitVec.ofNat 32 l) → ps ≠ [] →
        Emitted s t v n (ceilDiv ps.length 8) (fun l => ps.getD l 0#32)) ∧
    (fireEnv s 0xCE w = some v → ∃ t, exec (.delta w) s = .next t ∧ ∀ n, destOf v.w.d = .o n →
      (List.range v.vl).filter (deltaSent v) = [] →
        if ((groupA v).getD []).any (fun x => hdrLR x.hdr || hdrLS x.hdr) then Emitted s t v n 1 (fun _ => 0#32) ∧
          ∀ ch c, outAt s v.sp v.rel v.el n false = some (ch, c) → ∃ c' f, getChan t v.sp ch = some c' ∧ c'.out = c.out ++ [f] ∧
            hdrBUB f.tok.hdr = true ∧ hdrLN f.tok.hdr = 0
        else ∀ ch c, outAt s v.sp v.rel v.el n false = some (ch, c) → ∃ c', getChan t v.sp ch = some c' ∧ c'.out = c.out) ∧
    (fireEnv s 0xCF w = some v → ∃ t, exec (.resid w) s = .next t ∧ ∀ d tok, destOf v.w.d = .v d → groupA v = some [tok] →
      (elemOf t v).regs = (((List.range (min 8 (hdrLN tok.hdr))).map (vec8Get tok.lanes)).foldl
        (residStep v d (laneB v 0)) (v.e.regs, [])).1)

/-- R161, R195, R198, R382: TRAP completes, then its element has stopped with an element trap that carries the code, with port 0 in
its location word (log 25), and the event stands last in its cluster's queue, where the queue has room. -/
def Sys2Proof.Claims.ElementTrapStops : Prop :=
  ∀ (w : Slot) (s : State) (v : Env), fireEnv s 0xE1 w = some v → ∃ t, exec (.elTrap w) s = .next t ∧
    (elemOf t v).fault = some ⟨0x11, 0, imm10 w, slotLoc v⟩ ∧
    ((getCl s v.cl).core.events.length < 128 → (getCl s v.cl).core.held = [] →
      (getCl t v.cl).core.events = (getCl s v.cl).core.events ++ [⟨0x11, 0, imm10 w, slotLoc v⟩])

/-- R134, R135, R139 to R145: a memory firing whose guarded lanes all translate enters the response queue with one access per
guarded lane, writes no register and no byte of memory yet, and holds its element where D is a register. -/
def Sys2Proof.Claims.MemoryFiringsIssue : Prop :=
  ∀ F ∈ memForms, ∀ (w : Slot) (s : State) (v : Env) (l : List LaneAcc), fireEnv s F.op w = some v →
    issuedAccs s v (F.act v) (F.off v) (F.data v) (F.cmp v) = .ok l →
    ∃ t, exec (F.instr w) s = .next t ∧
      (elemOf t v).rq = v.e.rq ++ [rqOf v (issuedOp v (F.act v)) false l] ∧
      (elemOf t v).regs = v.e.regs ∧ (elemOf t v).held = decide (v.w.d.toNat < 16) ∧ ∀ a, t.byte a = s.byte a

/-- R141, R145: where the first lane that does not translate meets a fault, LDFF after lane 0 enters the queue with the lanes
before it and vl cut to them; every other memory firing, and LDFF at lane 0, stops its element with the class and the address
of the fault and enters nothing. -/
def Sys2Proof.Claims.MemoryFiringsFault : Prop :=
  ∀ F ∈ memForms, ∀ (w : Slot) (s : State) (v : Env) (lane cls va : Nat), fireEnv s F.op w = some v →
    issuedAccs s v (F.act v) (F.off v) (F.data v) (F.cmp v) = .fault lane cls va →
    (F.op ≠ 0xA3 ∨ lane = 0 → ∃ t, exec (F.instr w) s = .next t ∧ (elemOf t v).fault = some ⟨cls, 0, 0, va⟩ ∧
      (elemOf t v).faultSlot = v.slotNo ∧
      (elemOf t v).rq = v.e.rq ∧ ∀ a, t.byte a = s.byte a) ∧
    (F.op = 0xA3 → 0 < lane → ∃ t en, exec (F.instr w) s = .next t ∧ (elemOf t v).rq = v.e.rq ++ [en] ∧
      en.vl = lane ∧ en.trunc = true ∧ en.accs.map (·.lane) = ((List.range v.vl).filter (guardL v)).filter (fun k => decide (k < lane)))

/-! Control cores. The executing group is `s.cur.grp` of cluster `s.cur.cl`; a core has four groups (R164). -/

namespace Sys2Proof.Claims

open Sys2Proof Sys2Proof.Machine

/-- The instruction completes after what leads from `s` to `s0`: from there all that changes in the whole machine is the executing
group's register d, unless d is x0 (R164), and its pc, which moves on by the instruction's length (R169). -/
def WritesAfter (i : Instr) (s s0 : State) (len : Nat) (d : BitVec 5) (v : W64) : Prop :=
  ∃ t, exec i s = .next t ∧ OnlyGroup s0 t ∧
    (∀ r, xget (curGrp t) r = if r = d ∧ d ≠ 0#5 then v else xget (curGrp s) r) ∧
    curGrp t = { curGrp s0 with x := (curGrp t).x, pc := (curGrp s).pc + BitVec.ofNat 52 len }
/-- The same with nothing before it. -/
def WritesRegister (i : Instr) (s : State) (len : Nat) (d : BitVec 5) (v : W64) : Prop := WritesAfter i s s len d v

/-- The instruction completes after what leads from `s` to `s0`: from there all that changes is the executing group's pc and,
where a link register is named, that register. -/
def JumpsAfter (i : Instr) (s s0 : State) (link : Option (BitVec 5 × W64)) (pc : Addr) : Prop :=
  ∃ t, exec i s = .next t ∧ OnlyGroup s0 t ∧
    (∀ r, xget (curGrp t) r = match link with
      | some (d, v) => if r = d ∧ d ≠ 0#5 then v else xget (curGrp s) r
      | none => xget (curGrp s) r) ∧
    curGrp t = { curGrp s0 with x := (curGrp t).x, pc := pc }
/-- The same with nothing before it. -/
def Jumps (i : Instr) (s : State) (link : Option (BitVec 5 × W64)) (pc : Addr) : Prop := JumpsAfter i s s link pc

/-- The executing group in user mode enters the trap of R196: EPC, CAUSE and TVAL are written, PMODE and PIE save MODE and
IE, MODE becomes 1 and IE 0, the pc goes to SY.TVEC, and nothing else in the machine changes. -/
def EntersTrap (s t : State) (cls sub info tval : Nat) : Prop :=
  OnlyGroup s t ∧ curGrp t = { curGrp s with
    epc := (curGrp s).pc.setWidth 64
    cause := BitVec.ofNat 64 (info % 65536 * 65536 + sub % 256 * 256 + cls % 256)
    tval := BitVec.ofNat 64 tval
    status := BitVec.ofNat 64 (1 + (if bitAt 0 (curGrp s).status then 2 else 0) + (if bitAt 2 (curGrp s).status then 8 else 0))
    pc := BitVec.ofNat 52 ((getCl s s.cur.cl).core.tvec.toNat / 4 * 4)
    st := .ready }

/-- The executing group in supervisor mode stops by a double fault (R201): CAUSE has DF = 1, EPC and STATUS stay, and the
partition's interrupt is raised, on the vector of PIVEC where the function has it: a VF has 120 (R354). -/
def StopsDouble (s t : State) (cls sub info tval : Nat) : Prop :=
  curGrp t = { curGrp s with
    cause := BitVec.ofNat 64 (2 ^ 63 + (info % 65536 * 65536 + sub % 256 * 256 + cls % 256))
    tval := BitVec.ofNat 64 tval
    st := .stopped } ∧ t.mem = s.mem ∧ t.spans = s.spans ∧
  t.hub.msix = s.hub.msix ++ (if field 6 0 (getPart s (partOfCl s s.cur.cl)).pivec < 120 then
    [(partOfCl s s.cur.cl + 1, field 6 0 (getPart s (partOfCl s s.cur.cl)).pivec)] else [])

/-- Two-register arithmetic of R172. -/
def aluForms : List ((BitVec 5 → BitVec 5 → BitVec 5 → Instr) × (W64 → W64 → W64)) :=
  [(.add, fun x y => x + y), (.sub, fun x y => x - y), (.aluAnd, fun x y => x &&& y), (.aluOr, fun x y => x ||| y),
   (.aluXor, fun x y => x ^^^ y), (.aluAndn, fun x y => x &&& ~~~y),
   (.sll, fun x y => x <<< (y.toNat % 64)), (.srl, fun x y => x >>> (y.toNat % 64)),
   (.sra, fun x y => x.sshiftRight (y.toNat % 64)),
   (.slt, fun x y => if x.toInt < y.toInt then 1#64 else 0#64), (.sltu, fun x y => if x.toNat < y.toNat then 1#64 else 0#64),
   (.mul, fun x y => x * y), (.mulh, fun x y => BitVec.ofInt 64 (x.toInt * y.toInt / 2 ^ 64)),
   (.mulhu, fun x y => BitVec.ofNat 64 (x.toNat * y.toNat / 2 ^ 64)),
   (.div, fun x y => if y = 0#64 then -1#64 else BitVec.ofInt 64 (x.toInt.tdiv y.toInt)),
   (.divu, fun x y => if y = 0#64 then -1#64 else BitVec.ofNat 64 (x.toNat / y.toNat)),
   (.rem, fun x y => if y = 0#64 then x else BitVec.ofInt 64 (x.toInt.tmod y.toInt)),
   (.remu, fun x y => if y = 0#64 then x else BitVec.ofNat 64 (x.toNat % y.toNat)),
   (.min, fun x y => if y.toInt < x.toInt then y else x), (.max, fun x y => if x.toInt < y.toInt then y else x),
   (.minu, fun x y => if y.toNat < x.toNat then y else x), (.maxu, fun x y => if x.toNat < y.toNat then y else x)]

/-- Immediate arithmetic of R173, and whether its immediate is sign-extended. -/
def immForms : List ((BitVec 5 → BitVec 5 → BitVec 16 → Instr) × Bool × (W64 → W64 → W64)) :=
  [(.addi, true, fun x y => x + y), (.coreAndi, false, fun x y => x &&& y), (.coreOri, false, fun x y => x ||| y),
   (.xori, false, fun x y => x ^^^ y), (.slti, true, fun x y => if x.toInt < y.toInt then 1#64 else 0#64),
   (.sltiu, true, fun x y => if x.toNat < y.toNat then 1#64 else 0#64)]
/-- An immediate of any width in a register's width. -/
def extend {n : Nat} (signed : Bool) (i : BitVec n) : W64 := if signed then i.signExtend 64 else i.setWidth 64

/-- Branches of R179 and their relations. -/
def branchForms : List ((BitVec 5 → BitVec 5 → BitVec 16 → Instr) × (W64 → W64 → Bool)) :=
  [(.beq, fun x y => decide (x = y)), (.bne, fun x y => decide (x ≠ y)), (.blt, fun x y => decide (x.toInt < y.toInt)),
   (.bge, fun x y => decide (y.toInt ≤ x.toInt)), (.bltu, fun x y => decide (x.toNat < y.toNat)),
   (.bgeu, fun x y => decide (y.toNat ≤ x.toNat))]

/-- Loads of R175: constructor, bytes, whether the value is sign-extended. -/
def loadForms : List ((BitVec 5 → BitVec 5 → BitVec 3 → BitVec 13 → Instr) × Nat × Bool) :=
  [(.ldI8, 1, true), (.ldN8, 1, false), (.ldI16, 2, true), (.ldN16, 2, false), (.ldI32, 4, true), (.ldN32, 4, false), (.ld64, 8, false)]
/-- Stores of R175. -/
def storeForms : List ((BitVec 5 → BitVec 5 → BitVec 3 → BitVec 13 → Instr) × Nat) :=
  [(.st8, 1), (.st16, 2), (.st32, 4), (.st64, 8)]
/-- Atomics of R176 with the new word, of `w` bits, from the old word, xb and xd. -/
def atomicForms : List ((BitVec 5 → BitVec 5 → BitVec 5 → BitVec 3 → BitVec 2 → BitVec 1 → Instr) × (Nat → Nat → Nat → Nat → Nat)) :=
  [(.amoAdd, fun w old b _ => (old + b) % 2 ^ w), (.amoAnd, fun _ old b _ => old &&& b), (.amoOr, fun _ old b _ => old ||| b),
   (.amoXor, fun _ old b _ => old ^^^ b), (.amoMin, fun w old b _ => if sextNat w b < sextNat w old then b else old),
   (.amoMax, fun w old b _ => if sextNat w old < sextNat w b then b else old), (.amoMinu, fun _ old b _ => min old b),
   (.amoMaxu, fun _ old b _ => max old b), (.amoSwp, fun _ _ b _ => b), (.amoCas, fun _ old b d => if old = d then b else old)]

/-- The value a load leaves in a register. -/
def loadedValue (n : Nat) (signed : Bool) (v : Nat) : W64 :=
  if signed then BitVec.ofInt 64 (sextNat (8 * n) v) else BitVec.ofNat 64 v

/-- The granule of a byte holds no store that is hidden from the cluster: one performed at a narrower scope that does not take
the cluster in (R224). A write to a granule makes what it holds visible first (R228). -/
def NoneHidden (s : State) (cl a : Nat) : Prop := ∀ x ∈ s.near, x.pa / 16 = a / 16 → x.reach.sees cl = true

/-- The data of a load of group `g` of cluster `cl`, of scope code `sc`, arrive from `s` to `u`: xd holds the bytes at `pa` as
the cluster sees them once the stores that the load follows are performed, which are those that the group sees; the pc moves on
and the group is Ready. No other register and no other group changes, and what the group sees of memory stays. Of the group's
stores those that touch the bytes are performed; with an acquire all of them are, and at package scope or wider memory then
holds what the cluster sees (R236, log 67). -/
def DataArrive (s u : State) (cl g : Nat) (d : BitVec 5) (pa n : Nat) (signed : Bool) (len sc : Nat) (acq : Bool) : Prop :=
  let v := natOfBytes (readBy (beforeRead s cl g acq pa n) cl pa n)
  (∀ r, xget (getGrp u cl g) r = if r = d ∧ d ≠ 0#5 then loadedValue n signed v else xget (getGrp s cl g) r) ∧
  ((∀ k, k < n → NoneHidden s cl (pa + k)) → v = seenNat s cl (getGrp s cl g).stores pa n) ∧
  getGrp u cl g = { getGrp s cl g with
    x := (getGrp u cl g).x, pc := (getGrp s cl g).pc + BitVec.ofNat 52 len, st := .ready, since := now s cl, stores := (getGrp u cl g).stores } ∧
  (∀ a, NoneHidden s cl a → seenByte u cl (getGrp u cl g).stores a = seenByte s cl (getGrp s cl g).stores a) ∧
  (acq = false → (∀ q ∈ (getGrp u cl g).stores, q ∈ (getGrp s cl g).stores ∧ touches q pa n = false) ∧
    (∀ a, u.seen cl a = (beforeRead s cl g false pa n).seen cl a) ∧
    ((∀ q ∈ (getGrp s cl g).stores, touches q pa n = false) →
      (getGrp u cl g).stores = (getGrp s cl g).stores ∧ ∀ a, u.seen cl a = s.seen cl a)) ∧
  (acq = true → (getGrp u cl g).stores = [] ∧ (3 ≤ sc → ∀ a, u.byte a = u.seen cl a)) ∧
  u.spans = s.spans ∧ ∀ c h, h < 4 → (c ≠ cl ∨ h ≠ g) → getGrp u c h = getGrp s c h
/-- From `s` to `u` group `g` of cluster `cl` has released at scope `sc` (R232): every agent of the scope's instance sees the
bytes of the group's stores, and of memory all that the cluster sees, in every granule that hid no store from the cluster; at
package scope or wider memory holds it, and at system scope the host sees it (log 67). Other bytes are as they were, and of the
units nothing changes but the group's list of stores and what counters have counted. -/
def Released (s u : State) (cl g sc : Nat) : Prop :=
  getGrp u cl g = { getGrp s cl g with stores := [] } ∧
  (∀ a, NoneHidden s cl a → u.seen cl a = seenByte s cl (getGrp s cl g).stores a) ∧
  (∀ a c, NoneHidden s cl a → (instOf s cl sc).sees c = true → u.seen c a = u.seen cl a) ∧
  (3 ≤ sc → ∀ a, u.byte a = u.seen cl a) ∧ (4 ≤ sc → u.lag = []) ∧
  (∀ a, (∀ x ∈ s.near, x.pa / 16 ≠ a / 16) → (∀ q ∈ (getGrp s cl g).stores, ¬(q.pa ≤ a ∧ a < q.pa + q.bytes.length)) →
    u.byte a = s.byte a) ∧
  u.cur = s.cur ∧ u.spans = s.spans ∧ u.cycles = s.cycles ∧ u.hub = { s.hub with dctr := u.hub.dctr } ∧
  (∀ c, getCl u c = { getCl s c with
    core := { (getCl s c).core with grp := (getCl u c).core.grp }, counters := (getCl u c).counters }) ∧
  ∀ c h, h < 4 → (c ≠ cl ∨ h ≠ g) → getGrp u c h = getGrp s c h

/-- A load is issued and its group waits for the data (R165), nothing else changing; they can arrive at once. The access carries
its scope code (R222), and the page that translates it. -/
def Loads (i : Instr) (s : State) (len : Nat) (d : BitVec 5) (ea pa n : Nat) (signed : Bool) (sc : Nat) (acq : Bool) : Prop :=
  ∃ t u, exec i s = .next t ∧ OnlyGroup s t ∧
    curGrp t = { curGrp s with st := .waiting (.load d pa n signed len (viaOf s s.cur.cl sc (curGrp s).asid ea) acq) } ∧
    exec (.coreAccessPerformed s.cur.cl s.cur.grp (curGrp s).stores.length) t = .next u ∧ u.cur = s.cur ∧
    (s.memOk → DataArrive t u s.cur.cl s.cur.grp d pa n signed len sc acq)

/-- A store is issued at its scope: it stands last among the group's stores, no register and no byte of memory changes yet. -/
def Stores (i : Instr) (s s0 : State) (len : Nat) (ea pa : Nat) (bs : List Byte) (sc : Nat) (rel : Bool) : Prop :=
  ∃ t, exec i s = .next t ∧ OnlyGroup s0 t ∧
    curGrp t = { curGrp s0 with
      stores := (curGrp s0).stores ++ [⟨pa, bs, viaOf s0 s.cur.cl sc (curGrp s).asid ea, rel⟩], pc := (curGrp s0).pc + BitVec.ofNat 52 len }

end Sys2Proof.Claims

open Sys2Proof Sys2Proof.Machine Sys2Proof.Claims

/-- R172: two-register arithmetic, CLZ and POPC. Division never traps. FN values from 0x018 on are unassigned, and CLZ and POPC
have no xb. -/
def Obligations.CoreArithmetic : Prop :=
  ∀ (s : State) (d a b : BitVec 5), s.cur.grp < 4 →
    (∀ p ∈ aluForms, WritesRegister (p.1 d a b) s 4 d (p.2 (xget (curGrp s) a) (xget (curGrp s) b))) ∧
    WritesRegister (.aluClz d a) s 4 d (BitVec.ofNat 64 (clzNat 64 (xget (curGrp s) a).toNat)) ∧
    WritesRegister (.aluPopc d a) s 4 d (BitVec.ofNat 64 (popcNat 64 (xget (curGrp s) a).toNat)) ∧
    ∀ w : W32, field 31 26 w = 0 → (0x18 ≤ field 10 0 w → decodeCore w = .error 2#8) ∧
      (field 10 0 w = 0x16 ∨ field 10 0 w = 0x17 → field 15 11 w ≠ 0 → coreRow w = none)

/-- R173: arithmetic with an immediate, shifts by an immediate, LIU. -/
def Obligations.CoreImmediates : Prop :=
  ∀ (s : State) (d a : BitVec 5) (i : BitVec 16) (c : BitVec 6), s.cur.grp < 4 →
    (∀ p ∈ immForms, WritesRegister (p.1 d a i) s 4 d (p.2.2 (xget (curGrp s) a) (extend p.2.1 i))) ∧
    WritesRegister (.slli d a c) s 4 d (xget (curGrp s) a <<< c.toNat) ∧
    WritesRegister (.srli d a c) s 4 d (xget (curGrp s) a >>> c.toNat) ∧
    WritesRegister (.srai d a c) s 4 d ((xget (curGrp s) a).sshiftRight c.toNat) ∧
    WritesRegister (.liu d i) s 4 d (i.signExtend 64 <<< 32)

/-- R168, R170: an EXT word and the word after it are one instruction of eight bytes with a 42-bit immediate (39 bits for a
load's or a store's offset); before a word that takes no prefix, EXT raises the illegal-instruction trap with subcode 4. The
fetch of that word reaches the die's L2 (`fetchTouch`, R296). -/
def Obligations.ExtPairs : Prop :=
  ∀ (s s0 : State) (h : BitVec 26) (w : W32) (i : Instr), s.cur.grp < 4 →
    s0 = fetchTouch s s.cur.cl (curGrp s).asid ((curGrp s).pc + 4#52).toNat →
    fetchWord s s.cur.cl (curGrp s).asid ((curGrp s).pc + 4#52).toNat = .ok w →
    (acceptsExt (field 31 26 w) = true → coreRow w = some i → ∀ (d a b : BitVec 5) (m : BitVec 16) (sc : BitVec 3) (o : BitVec 13),
      (∀ p ∈ immForms, i = p.1 d a m → WritesAfter (.ext h) s s0 8 d (p.2.2 (xget (curGrp s) a) (extend p.2.1 (h ++ m : BitVec 42)))) ∧
      (i = .liu d m → WritesAfter (.ext h) s s0 8 d ((h ++ m : BitVec 42).signExtend 64 <<< 32)) ∧
      (∀ p ∈ branchForms, i = p.1 a b m → JumpsAfter (.ext h) s s0 none
        (if p.2 (xget (curGrp s) a) (xget (curGrp s) b) then (curGrp s).pc + ((h ++ m : BitVec 42).signExtend 64 * 4#64).setWidth 52
         else (curGrp s).pc + 8#52)) ∧
      (i = .jalr d a m → JumpsAfter (.ext h) s s0 (some (d, ((curGrp s).pc + 8#52).setWidth 64))
        (BitVec.ofNat 52 ((xget (curGrp s) a + (h ++ m : BitVec 42).signExtend 64).toNat % 2 ^ 52 / 4 * 4))) ∧
      (∀ p ∈ loadForms, i = p.1 d a sc o →
        exec (.ext h) s = .next (coreLoad s0 8 d a sc.toNat ((h ++ o : BitVec 39).signExtend 64) p.2.1 p.2.2 false)) ∧
      (∀ p ∈ storeForms, i = p.1 d a sc o →
        exec (.ext h) s = .next (coreStore s0 8 d a sc.toNat ((h ++ o : BitVec 39).signExtend 64) p.2 false))) ∧
    (acceptsExt (field 31 26 w) = false → bitAt 0 (curGrp s).status = false →
      ∃ t, exec (.ext h) s = .next t ∧ EntersTrap s0 t 4 4 0 0)

/-- R179: branches and jumps; the offset counts words from the instruction, and JALR forms its target before it writes xd. -/
def Obligations.BranchesAndJumps : Prop :=
  ∀ (s : State) (d a b : BitVec 5) (o : BitVec 16) (j : BitVec 26), s.cur.grp < 4 →
    (∀ p ∈ branchForms, Jumps (p.1 a b o) s none
      (if p.2 (xget (curGrp s) a) (xget (curGrp s) b) then (curGrp s).pc + (o.signExtend 64 * 4#64).setWidth 52
       else (curGrp s).pc + 4#52)) ∧
    Jumps (.jump j) s none ((curGrp s).pc + (j.signExtend 64 * 4#64).setWidth 52) ∧
    Jumps (.jal j) s (some (31#5, ((curGrp s).pc + 4#52).setWidth 64)) ((curGrp s).pc + (j.signExtend 64 * 4#64).setWidth 52) ∧
    Jumps (.jalr d a o) s (some (d, ((curGrp s).pc + 4#52).setWidth 64))
      (BitVec.ofNat 52 ((xget (curGrp s) a + o.signExtend 64).toNat % 2 ^ 52 / 4 * 4))

/-- R165, R174, R175, R177, R222: a load at an assigned scope whose page is cached with read permission waits for the bytes at
the effective address, its low bits cleared, and then holds them; LDA is a load at offset 0, zero-extended, and an acquire: as
log 67 reads R236, everything its group has stored is performed with it. -/
def Obligations.CoreLoads : Prop :=
  ∀ (s : State) (d a : BitVec 5) (sc : BitVec 3) (o : BitVec 13) (w : BitVec 1) (ea pa : Nat), s.cur.grp < 4 → sc.toNat < 5 →
    translate s s.cur.cl (curGrp s).asid ea 1 = .hit pa →
    (∀ p ∈ loadForms, ea = (xget (curGrp s) a + o.signExtend 64).toNat % 2 ^ 52 / p.2.1 * p.2.1 →
      Loads (p.1 d a sc o) s 4 d ea pa p.2.1 p.2.2 sc.toNat false) ∧
    (ea = (xget (curGrp s) a).toNat % 2 ^ 52 / (if w = 1#1 then 8 else 4) * (if w = 1#1 then 8 else 4) →
      Loads (.lda d a sc w) s 4 d ea pa (if w = 1#1 then 8 else 4) false sc.toNat true)

/-- R175, R177, R222, R231, R232: a store is issued at its scope with the low bytes of its register; STL is a release, which
first performs the group's earlier stores (`releaseCur`). That it does so as it issues, and with them every narrow store its
cluster sees, is the model's (logs 6 and 67). -/
def Obligations.CoreStores : Prop :=
  ∀ (s : State) (v a : BitVec 5) (sc : BitVec 3) (o : BitVec 13) (w : BitVec 1) (ea pa : Nat), s.cur.grp < 4 → sc.toNat < 5 →
    translate s s.cur.cl (curGrp s).asid ea 2 = .hit pa →
    (∀ p ∈ storeForms, ea = (xget (curGrp s) a + o.signExtend 64).toNat % 2 ^ 52 / p.2 * p.2 →
      Stores (p.1 v a sc o) s s 4 ea pa (bytesOf p.2 (xget (curGrp s) v).toNat) sc.toNat false) ∧
    (ea = (xget (curGrp s) a).toNat % 2 ^ 52 / (if w = 1#1 then 8 else 4) * (if w = 1#1 then 8 else 4) →
      Stores (.stl a v sc w) s (releaseCur s sc.toNat) 4 ea pa (bytesOf (if w = 1#1 then 8 else 4) (xget (curGrp s) v).toNat) sc.toNat true)

/-- R175, R224, R231: a store that is performed, and that no older store of its group overlaps, is seen by the agents of its
cluster, which see every other byte as before, but in its granules where these hold a store that was hidden from the cluster
and comes before it (R228); at package scope or wider memory holds it; it is no longer among the group's stores. -/
def Sys2Proof.Claims.StoresArePerformed : Prop :=
  ∀ (s : State) (cl g idx : Nat) (p : PStore), s.memOk → g < 4 → (getGrp s cl g).stores[idx]? = some p →
    (∀ q ∈ (getGrp s cl g).stores.take idx, q.pa + q.bytes.length ≤ p.pa ∨ p.pa + p.bytes.length ≤ q.pa) →
    ∃ t, exec (.coreAccessPerformed cl g idx) s = .next t ∧
      (∀ k, k < p.bytes.length → t.seen cl (p.pa + k) = p.bytes.getD k 0#8) ∧
      (∀ a, a < p.pa ∨ p.pa + p.bytes.length ≤ a →
        NoneHidden s cl a ∨ a / 16 < p.pa / 16 ∨ (p.pa + p.bytes.length - 1) / 16 < a / 16 → t.seen cl a = s.seen cl a) ∧
      (3 ≤ p.via.sc → ∀ k, k < p.bytes.length → t.byte (p.pa + k) = p.bytes.getD k 0#8) ∧
      (getGrp t cl g).stores = (getGrp s cl g).stores.eraseIdx idx ∧ (getGrp t cl g).x = (getGrp s cl g).x

/-- R165, R175: a group that waits for the data of a load gets the bytes as they are, with its own stores, when they arrive; the
event that performs the load is the one after the group's stores. -/
def Sys2Proof.Claims.DataOfLoadsArrive : Prop :=
  ∀ (s : State) (cl g : Nat) (d : BitVec 5) (pa n len : Nat) (signed acq : Bool) (via : Via), s.memOk → g < 4 →
    (getGrp s cl g).st = .waiting (.load d pa n signed len via acq) →
    ∃ u, exec (.coreAccessPerformed cl g (getGrp s cl g).stores.length) s = .next u ∧ DataArrive s u cl g d pa n signed len via.sc acq

/-- R175, R231: a load of the bytes a group has just stored returns them, whether or not the store has been performed. -/
def Sys2Proof.Claims.LoadSeesOwnStore : Prop :=
  ∀ (s : State) (v a d b : BitVec 5) (sc : BitVec 3) (pa : Nat), s.memOk → s.cur.grp < 4 → sc.toNat < 5 → d ≠ 0#5 →
    xget (curGrp s) b = xget (curGrp s) a →
    translate s s.cur.cl (curGrp s).asid ((xget (curGrp s) a).toNat % 2 ^ 52 / 8 * 8) 2 = .hit pa →
    translate s s.cur.cl (curGrp s).asid ((xget (curGrp s) a).toNat % 2 ^ 52 / 8 * 8) 1 = .hit pa →
    ∃ t u r, exec (.st64 v a sc 0#13) s = .next t ∧ exec (.ld64 d b sc 0#13) t = .next u ∧
      exec (.coreAccessPerformed s.cur.cl s.cur.grp ((curGrp s).stores.length + 1)) u = .next r ∧ xget (curGrp r) d = xget (curGrp s) v

/-- R175, R176, R231, R232: an atomic returns the old word, sign-extended where it is a 32-bit one: the word once the accesses it
follows are performed (`beforeAmo`) and every store that its granule holds is at package scope, which is the word as the group
sees it unless a store there was hidden from its cluster. It leaves the new word in memory, seen by every agent of its cluster,
and the group's view of every other byte as it was. It follows, with release order, all of the group's earlier stores, otherwise
those that touch the word; with acquire order all of them are performed by its end (R236). That it is performed as it issues, and
at package scope at the least, is the model's (logs 6 and 67). -/
def Obligations.CoreAtomics : Prop :=
  ∀ (s : State) (d a b : BitVec 5) (sc : BitVec 3) (r : BitVec 2) (w : BitVec 1) (pa n old : Nat), s.memOk → s.cur.grp < 4 → sc.toNat < 5 →
    n = (if w = 1#1 then 8 else 4) →
    translate s s.cur.cl (curGrp s).asid ((xget (curGrp s) a).toNat % 2 ^ 52 / n * n) 3 = .hit pa →
    old = natOfBytes (readPA (widenAll (beforeAmo s sc.toNat (bitAt 1 r) (bitAt 0 r) pa n) pa n .package) pa n) →
    ((∀ k, k < n → NoneHidden s s.cur.cl (pa + k)) → old = seenNat s s.cur.cl (curGrp s).stores pa n) ∧
    ∀ p ∈ atomicForms, ∃ t, exec (p.1 d a b sc r w) s = .next t ∧
      (∀ q, xget (curGrp t) q = if q = d ∧ d ≠ 0#5 then (if w = 1#1 then BitVec.ofNat 64 old else BitVec.ofInt 64 (sextNat 32 old))
        else xget (curGrp s) q) ∧
      natOfBytes (readPA t pa n) = p.2 (8 * n) old ((xget (curGrp s) b).toNat % 2 ^ (8 * n)) ((xget (curGrp s) d).toNat % 2 ^ (8 * n)) ∧
      readBy t s.cur.cl pa n = readPA t pa n ∧
      (∀ k, k < pa ∨ pa + n ≤ k → NoneHidden s s.cur.cl k →
        seenByte t s.cur.cl (curGrp t).stores k = seenByte s s.cur.cl (curGrp s).stores k) ∧
      (curGrp t).pc = (curGrp s).pc + 4#52 ∧
      (bitAt 1 r = true ∨ bitAt 0 r = true → (curGrp t).stores = [] ∧ (3 ≤ sc.toNat → ∀ k, t.byte k = t.seen s.cur.cl k)) ∧
      (∀ q ∈ (curGrp t).stores, q ∈ (curGrp s).stores ∧ (q.pa + q.bytes.length ≤ pa ∨ pa + n ≤ q.pa)) ∧
      (bitAt 1 r = false → bitAt 0 r = false → (∀ q ∈ (curGrp s).stores, touches q pa n = false) →
        (curGrp t).stores = (curGrp s).stores ∧
        ∀ k, k < pa ∨ pa + n ≤ k → NoneHidden s s.cur.cl k → t.seen s.cur.cl k = s.seen s.cur.cl k)

/-- Every form of an access with its scope code `sc`: the instruction, its effective address and the permission it needs. -/
def Sys2Proof.Claims.accessForms (s : State) (d a b : BitVec 5) (sc : BitVec 3) (o : BitVec 13) (r : BitVec 2) (w : BitVec 1) : List (Instr × Nat × Nat) :=
  let ea (off : W64) (n : Nat) : Nat := (xget (curGrp s) a + off).toNat % 2 ^ 52 / n * n
  let m := if w = 1#1 then 8 else 4
  loadForms.map (fun p => (p.1 d a sc o, ea (o.signExtend 64) p.2.1, 1)) ++ [(.lda d a sc w, ea 0#64 m, 1)] ++
  storeForms.map (fun p => (p.1 d a sc o, ea (o.signExtend 64) p.2, 2)) ++ atomicForms.map (fun p => (p.1 d a b sc r w, ea 0#64 m, 3))

/-- R171, R174 to R177: a load, a store, an atomic, LDA or STL with an unassigned scope code raises the illegal-instruction trap
with subcode 9; where the address's cached page lacks the permission (read for loads, write for stores, both for atomics) it
raises the fault, with the address in SY.TVAL. That STL's earlier stores are performed by then is the model's (logs 6 and 67). -/
def Obligations.CoreAccessTraps : Prop :=
  ∀ (s : State) (d a b : BitVec 5) (sc : BitVec 3) (o : BitVec 13) (r : BitVec 2) (w : BitVec 1),
    s.cur.grp < 4 → bitAt 0 (curGrp s).status = false →
    (5 ≤ sc.toNat →
      (∀ p ∈ accessForms s d a b sc o r w, ∃ t, exec p.1 s = .next t ∧ EntersTrap s t 4 9 0 0) ∧
      ∃ t, exec (.stl a b sc w) s = .next t ∧ EntersTrap s t 4 9 0 0) ∧
    (sc.toNat < 5 → ∀ cls,
      (∀ p ∈ accessForms s d a b sc o r w, translate s s.cur.cl (curGrp s).asid p.2.1 p.2.2 = .fault cls →
        ∃ t, exec p.1 s = .next t ∧ EntersTrap s t cls 0 0 p.2.1) ∧
      (∀ ea, ea = (xget (curGrp s) a).toNat % 2 ^ 52 / (if w = 1#1 then 8 else 4) * (if w = 1#1 then 8 else 4) →
        translate s s.cur.cl (curGrp s).asid ea 2 = .fault cls →
        ∃ t, exec (.stl a b sc w) s = .next t ∧ EntersTrap (releaseCur s sc.toNat) t cls 0 0 ea))

/-- R178, R232: FENCE performs the group's earlier stores and moves on; with ENG, while engine work of the group is in
progress it waits with its stores performed. `releaseCur`, the release of every instruction that is one, makes the group's
stores visible in the scope's instance, with all that its cluster sees, as log 67 reads R232. -/
def Obligations.FenceReleases : Prop :=
  (∀ (s : State) (sc : Nat), s.memOk → s.cur.grp < 4 → Released s (releaseCur s sc) s.cur.cl s.cur.grp sc) ∧
  ∀ (s : State) (e : BitVec 1) (sc : BitVec 3), s.cur.grp < 4 → sc.toNat < 5 →
    (e = 0#1 ∨ grpEngineBusy (releaseCur s sc.toNat) s.cur.cl s.cur.grp = false →
      ∃ t, exec (.fence e sc) s = .next t ∧ t.mem = (releaseCur s sc.toNat).mem ∧ t.near = (releaseCur s sc.toNat).near ∧ (curGrp t).stores = [] ∧
        (curGrp t).pc = (curGrp s).pc + 4#52 ∧ (curGrp t).x = (curGrp s).x) ∧
    (e = 1#1 → grpEngineBusy (releaseCur s sc.toNat) s.cur.cl s.cur.grp = true →
      ∃ t, exec (.fence e sc) s = .next t ∧ t.mem = (releaseCur s sc.toNat).mem ∧ t.near = (releaseCur s sc.toNat).near ∧ (curGrp t).stores = [] ∧ (curGrp t).pc = (curGrp s).pc ∧ (curGrp t).st = .waiting (.fence true))

/-- R171, R196, R197, R201: an illegal instruction and a TRAP with a code other than 0 enter the trap in user mode and stop
the group by a double fault in supervisor mode. -/
def Sys2Proof.Claims.TrapEntry : Prop :=
  ∀ (s : State) (sub : BitVec 8) (a : BitVec 5) (c : BitVec 16), s.cur.grp < 4 →
    (bitAt 0 (curGrp s).status = false →
      (∃ t, exec (.illegalInstruction sub) s = .next t ∧ EntersTrap s t 4 sub.toNat 0 0) ∧
      (c ≠ 0#16 → ∃ t, exec (.coreTrap a c) s = .next t ∧ EntersTrap s t 0x10 0 c.toNat 0)) ∧
    (bitAt 0 (curGrp s).status = true →
      (∃ t, exec (.illegalInstruction sub) s = .next t ∧ StopsDouble s t 4 sub.toNat 0 0) ∧
      (c ≠ 0#16 → ∃ t, exec (.coreTrap a c) s = .next t ∧ StopsDouble s t 0x10 0 c.toNat 0))

/-- R196: ERET in supervisor mode restores the pc, MODE and IE; in user mode it raises subcode 5 (R171). -/
def Sys2Proof.Claims.ReturnFromTrap : Prop :=
  ∀ (s : State), s.cur.grp < 4 →
    (bitAt 0 (curGrp s).status = true → ∃ t, exec .eret s = .next t ∧ OnlyGroup s t ∧ curGrp t = { curGrp s with
      pc := BitVec.ofNat 52 ((curGrp s).epc.toNat / 4 * 4), status := (curGrp t).status } ∧
      (∀ k, bitAt k (curGrp t).status = if k = 0 ∨ k = 1 then bitAt 1 (curGrp s).status
        else if k = 2 ∨ k = 3 then bitAt 3 (curGrp s).status else false)) ∧
    (bitAt 0 (curGrp s).status = false → ∃ t, exec .eret s = .next t ∧ EntersTrap s t 4 5 0 0)

/-- R196: returning right after a trap that user code took finds the pc of the instruction, and MODE and IE as they were. -/
def Sys2Proof.Claims.TrapThenReturn : Prop :=
  ∀ (s : State) (sub : BitVec 8), s.cur.grp < 4 → bitAt 0 (curGrp s).status = false → (curGrp s).pc.toNat % 4 = 0 →
    ∃ t u, exec (.illegalInstruction sub) s = .next t ∧ exec .eret t = .next u ∧ (curGrp u).pc = (curGrp s).pc ∧
      bitAt 0 (curGrp u).status = false ∧ bitAt 2 (curGrp u).status = bitAt 2 (curGrp s).status ∧ (curGrp u).x = (curGrp s).x

/-! System registers, counters, barriers, fabric loads, launches, engines (R180 to R200). -/

namespace Sys2Proof.Claims

open Sys2Proof Sys2Proof.Machine

/-- The instruction completes: xd holds `v`, the other registers of the executing group and its memory requests are as they
were, its pc moves on by 4, and `q` holds of the next state. -/
def Answers (i : Instr) (s : State) (d : BitVec 5) (v : W64) (q : State → Prop) : Prop :=
  ∃ t, exec i s = .next t ∧ (∀ r, xget (curGrp t) r = if r = d ∧ d ≠ 0#5 then v else xget (curGrp s) r) ∧
    (curGrp t).pc = (curGrp s).pc + 4#52 ∧ q t

/-- The instruction waits: the executing group is Waiting, its registers and its pc are as they were, and `q` holds. -/
def Waits (i : Instr) (s : State) (w : Wait) (q : State → Prop) : Prop :=
  ∃ t, exec i s = .next t ∧ (curGrp t).st = .waiting w ∧ (curGrp t).x = (curGrp s).x ∧ (curGrp t).pc = (curGrp s).pc ∧ q t

/-- The executing group reads `n` words at a virtual address, each in the cached translations with read permission: the bytes
are those its cluster sees (`touchRead` performs the reads at package scope). -/
def Reads (s : State) (n va : Nat) (bs : List Byte) : Prop :=
  ∃ pas, vaWords s s.cur.cl (curGrp s).asid 1 n va = .ok pas ∧ bs = wordsRead (touchRead s s.cur.cl pas) pas

/-- The executing core and the executing group. -/
def curCore (s : State) : Core := (getCl s s.cur.cl).core

/-- The registers of R193: number, whether supervisor only, the value that a read gives. -/
def sysValues (s : State) : List (Nat × Bool × W64) :=
  [(0x000, true, (curGrp s).status), (0x001, true, (curGrp s).cause), (0x002, true, (curGrp s).epc), (0x003, true, (curGrp s).tval),
   (0x004, true, (curCore s).tvec), (0x005, true, (curGrp s).scr), (0x006, true, if (curCore s).esc then 1#64 else 0#64), (0x007, true, (curCore s).eres),
   (0x010, false, BitVec.ofNat 64 (s.cur.grp % 4 + relCl s s.cur.cl % 4096 * 2 ^ 2 + s.cur.cl % 4096 * 2 ^ 14
     + partOfCl s s.cur.cl % 16 * 2 ^ 26)),
   (0x011, false, BitVec.ofNat 64 ((curGrp s).base + 4 * effClass (curCore s) s.cur.grp)),
   (0x012, true, BitVec.ofNat 64 (curCore s).maxc), (0x013, true, BitVec.ofNat 64 (curCore s).fgrp),
   (0x018, false, BitVec.ofNat 64 (match curLoad s with | some l => if l.caldera then l.layv else 0 | none => 0)),
   (0x019, false, BitVec.ofNat 64 (256 - (getPart s (partOfCl s s.cur.cl)).pool.length)),
   (0x020, false, BitVec.ofNat 64 (now s s.cur.cl)), (0x021, true, (curCore s).wdog), (0x022, true, (curCore s).rcap),
   (0x028, false, BitVec.ofNat 64 ((curGrp s).asid % 65536)), (0x029, true, (curCore s).ptbr), (0x02A, true, (curCore s).lspb),
   (0x02B, true, (curCore s).lspn), (0x030, false, BitVec.ofNat 64 (pendOf (curCore s))), (0x031, false, (curGrp s).pmsk)]

/-- The registers that exist once per group and the read-only ones: what a write does to the group. -/
def sysGroupWrites : List (Nat × Bool × (Group → W64 → Group)) :=
  [(0x000, true, fun g v => { g with status := (v.setWidth 4).setWidth 64 }),
   (0x001, true, fun g v => { g with cause := v &&& 0x80000000FFFFFFFF#64 }),
   (0x002, true, fun g v => { g with epc := v }), (0x003, true, fun g v => { g with tval := v }),
   (0x005, true, fun g v => { g with scr := v }), (0x031, false, fun g v => { g with pmsk := v }),
   (0x010, false, fun g _ => g), (0x011, false, fun g _ => g), (0x018, false, fun g _ => g), (0x019, false, fun g _ => g),
   (0x020, false, fun g _ => g), (0x028, false, fun g _ => g)]

/-- The registers of a core: what a write does to the core. -/
def sysCoreWrites : List (Nat × (Core → W64 → Core)) :=
  [(0x004, fun c v => { c with tvec := v &&& ~~~3#64 }), (0x012, fun c v => { c with maxc := v.toNat % 4 }),
   (0x013, fun c v => { c with fgrp := v.toNat % 4 }), (0x021, fun c v => { c with wdog := v }),
   (0x022, fun c v => { c with rcap := if c.rcapMax = 0 then v &&& 0xFFFFFFFF#64
     else if v.toNat % 2 ^ 32 = 0 then BitVec.ofNat 64 c.rcapMax else BitVec.ofNat 64 (min (v.toNat % 2 ^ 32) c.rcapMax) }),
   (0x029, fun c v => { c with ptbr := v &&& 0x000FFFFFFFFFF000#64 }), (0x02A, fun c v => { c with lspb := v &&& 0x000FFFFFFFFFFFE0#64 }),
   (0x02B, fun c v => { c with lspn := v &&& 0xFFFFFFFF#64 })]

end Sys2Proof.Claims

/-- R193: a read gives the register; a supervisor register read in user mode raises subcode 5 and an unassigned number
subcode 10. -/
def Obligations.SystemRegisterReads : Prop :=
  ∀ (s : State) (d : BitVec 5) (n : BitVec 12), s.cur.grp < 4 →
    (∀ p ∈ sysValues s, n.toNat = p.1 → (p.2.1 = true → bitAt 0 (curGrp s).status = true) → WritesRegister (.syr d n) s 4 d p.2.2) ∧
    (∀ p ∈ sysValues s, n.toNat = p.1 → p.2.1 = true → bitAt 0 (curGrp s).status = false →
      ∃ t, exec (.syr d n) s = .next t ∧ EntersTrap s t 4 5 0 0) ∧
    ((∀ p ∈ sysValues s, n.toNat ≠ p.1) → bitAt 0 (curGrp s).status = false → ∃ t, exec (.syr d n) s = .next t ∧ EntersTrap s t 4 10 0 0)

/-- R193, R194, R195, R362, R371, R426: a write leaves the writable fields of the register and changes nothing else; read-only
registers and reserved fields ignore it. SY.PEND clears the bits 2 to 4 that are written with 1; SY.RCAP stays within the
partition's PRCAP. A supervisor register written in user mode raises subcode 5 and an unassigned number subcode 10. What SY.ESC
and SY.ERES do is stated in `CountersAndEscalation`. -/
def Obligations.SystemRegisterWrites : Prop :=
  ∀ (s : State) (a : BitVec 5) (n : BitVec 12), s.cur.grp < 4 →
    (∀ p ∈ sysGroupWrites, n.toNat = p.1 → (p.2.1 = true → bitAt 0 (curGrp s).status = true) →
      ∃ t, exec (.syw a n) s = .next t ∧ OnlyGroup s t ∧
        curGrp t = { p.2.2 (curGrp s) (xget (curGrp s) a) with pc := (curGrp s).pc + 4#52 }) ∧
    (∀ p ∈ sysCoreWrites, n.toNat = p.1 → bitAt 0 (curGrp s).status = true →
      Answers (.syw a n) s 0#5 0#64 (fun t => curCore t = { p.2 (curCore s) (xget (curGrp s) a) with grp := (curCore t).grp } ∧
        t = { s with clusters := t.clusters } ∧ ∀ g, g < 4 → g ≠ s.cur.grp → getGrp t s.cur.cl g = getGrp s s.cur.cl g)) ∧
    (n = 0x030#12 → Answers (.syw a n) s 0#5 0#64 (fun t => t = { s with clusters := t.clusters } ∧
      ∀ k, k < 5 → (pendOf (curCore t)).testBit k = ((pendOf (curCore s)).testBit k && (decide (k < 2) || !bitAt k (xget (curGrp s) a))))) ∧
    (∀ p ∈ sysValues s, n.toNat = p.1 → p.2.1 = true → bitAt 0 (curGrp s).status = false →
      ∃ t, exec (.syw a n) s = .next t ∧ EntersTrap s t 4 5 0 0) ∧
    ((∀ p ∈ sysValues s, n.toNat ≠ p.1) → bitAt 0 (curGrp s).status = false → ∃ t, exec (.syw a n) s = .next t ∧ EntersTrap s t 4 10 0 0)

/-- R193, R383: writing 1 to bit 0 of SY.ESC sets it and raises the partition interrupt; SY.ERES keeps the word, and a word
that names an element of the cluster clears the element's fault. -/
def Sys2Proof.Claims.EscalationAndResume : Prop :=
  ∀ (s : State) (a : BitVec 5), s.cur.grp < 4 → bitAt 0 (curGrp s).status = true →
    (∀ i ∈ [Instr.syEscWrite a, Instr.syw a 0x006#12], Answers i s 0#5 0#64 (fun t =>
      (bitAt 0 (xget (curGrp s) a) = true → (curCore t).esc = true ∧
        t.hub.msix = s.hub.msix ++ (if field 6 0 (getPart s (partOfCl s s.cur.cl)).pivec < 120 then
          [(partOfCl s s.cur.cl + 1, field 6 0 (getPart s (partOfCl s s.cur.cl)).pivec)] else [])) ∧
      (bitAt 0 (xget (curGrp s) a) = false → (curCore t).esc = (curCore s).esc ∧ t.hub = s.hub) ∧ t.mem = s.mem ∧ t.spans = s.spans)) ∧
    (∀ i ∈ [Instr.syEresWrite a, Instr.syw a 0x007#12], Answers i s 0#5 0#64 (fun t =>
      (curCore t).eres = xget (curGrp s) a ∧ t.mem = s.mem ∧
      (spanAt s s.cur.cl ≠ none → field 11 0 (xget (curGrp s) a) = relCl s s.cur.cl → field 63 27 (xget (curGrp s) a) = 0 →
        (amGet (getCl s s.cur.cl).elems (field 18 12 (xget (curGrp s) a))).isSome = true →
        (getEl t s.cur.cl (field 18 12 (xget (curGrp s) a))).fault = none)))

/-- R191: CNT reads, selects, clears, or reads and clears a counter of the cluster (0 to 7) or of its die (8 to 39); ops 1
and 2 on a die counter are for supervisor mode. What a DCSEL write of the same cycle has made of the counter is ignored where
the CNT sets it (`counterAt`, R421). -/
def Sys2Proof.Claims.CounterInstruction : Prop :=
  ∀ (s : State) (d a : BitVec 5) (i : BitVec 6), s.cur.grp < 4 → i.toNat < 40 →
    WritesRegister (.cnt d a 0#2 i) s 4 d (counterGet s s.cur.cl i.toNat).val ∧
    Answers (.cnt d a 3#2 i) s d (counterAt (now s s.cur.cl) (counterGet s s.cur.cl i.toNat)).val
      (fun t => (counterGet t s.cur.cl i.toNat).src = (counterAt (now s s.cur.cl) (counterGet s s.cur.cl i.toNat)).src ∧
        (counterGet t s.cur.cl i.toNat).val = 0#64 ∧
        ∀ k, k < 40 → k ≠ i.toNat → counterGet t s.cur.cl k = counterGet s s.cur.cl k) ∧
    (i.toNat < 8 ∨ bitAt 0 (curGrp s).status = true →
      Answers (.cnt d a 2#2 i) s d 0#64 (fun t =>
        (counterGet t s.cur.cl i.toNat).src = (counterAt (now s s.cur.cl) (counterGet s s.cur.cl i.toNat)).src ∧
        (counterGet t s.cur.cl i.toNat).val = 0#64) ∧
      (sourceOk (decide (8 ≤ i.toNat)) ((xget (curGrp s) a).toNat % 65536) = true →
        Answers (.cnt d a 1#2 i) s d 0#64 (fun t => (counterGet t s.cur.cl i.toNat).src = (xget (curGrp s) a).toNat % 65536 ∧
          (counterGet t s.cur.cl i.toNat).val = 0#64))) ∧
    (8 ≤ i.toNat → bitAt 0 (curGrp s).status = false →
      ∀ o ∈ [1#2, 2#2], ∃ t, exec (.cnt d a o i) s = .next t ∧ EntersTrap s t 4 5 0 0)

/-- R188, R199: PRIO grants the class it asks for up to SY.MAXC, and no word with another field set is PRIO; WFI completes at once
where a pending event is masked in or an asynchronous event can be taken by the group, and waits otherwise, also where events
stand that the group cannot take (log 60). -/
def Obligations.PriorityAndWaitForEvent : Prop :=
  ∀ (s : State) (d : BitVec 5) (c : BitVec 2), s.cur.grp < 4 →
    Answers (.prio d c) s d (BitVec.ofNat 64 (min c.toNat (curCore s).maxc))
      (fun t => OnlyGroup s t ∧ (curGrp t).base = min c.toNat (curCore s).maxc) ∧
    (∀ w : W32, field 31 26 w = 0x36 → (coreRow w ≠ none ↔ field 20 16 w = 0 ∧ field 15 2 w = 0)) ∧
    ((pendOf (curCore s) &&& (curGrp s).pmsk.toNat ≠ 0 ∨ ((curCore s).events ≠ [] ∧ (curCore s).fgrp = s.cur.grp ∧
        (bitAt 0 (curGrp s).status = false ∨ bitAt 2 (curGrp s).status = true))) → Answers .wfi s 0#5 0#64 (OnlyGroup s)) ∧
    (pendOf (curCore s) &&& (curGrp s).pmsk.toNat = 0 → ((curCore s).events = [] ∨ (curCore s).fgrp ≠ s.cur.grp ∨
        (bitAt 0 (curGrp s).status = true ∧ bitAt 2 (curGrp s).status = false)) → Waits .wfi s .wfi (OnlyGroup s))

namespace Sys2Proof.Claims

open Sys2Proof Sys2Proof.Machine

/-- A barrier has completed from `s` to `u` for the clusters `cls` (R187, R232, R234). The groups that have arrived have released:
each of these clusters' agents sees what it saw with the stores of all of them on top, group after group, in every granule that
hid no store from one of the clusters; other bytes of memory are as they were. A waiter is Ready behind its BAR; a group that a
freeze took from the barrier will pass its BAR; no other group changes. -/
def BarrierDone (s u : State) (cls : List Nat) (k : Bool) (id : Nat) : Prop :=
  let ws := cls.flatMap (fun c => ((List.range 4).filter (fun h => waitsAt k id (getGrp s c h))).map (fun h => (c, h)))
  (∀ a c, c ∈ cls → (∀ e ∈ cls, NoneHidden s e a) → u.seen c a = seenByte s c (ws.flatMap (fun w => (getGrp s w.1 w.2).stores)) a) ∧
  (∀ a, (∀ x ∈ s.near, x.pa / 16 ≠ a / 16) →
    (∀ w ∈ ws, ∀ q ∈ (getGrp s w.1 w.2).stores, ¬(q.pa ≤ a ∧ a < q.pa + q.bytes.length)) → u.byte a = s.byte a) ∧
  (∀ w ∈ ws, (getGrp u w.1 w.2).stores = [] ∧ (getGrp u w.1 w.2).x = (getGrp s w.1 w.2).x) ∧
  (∀ c ∈ cls, ∀ h, h < 4 → (getGrp s c h).st = .waiting (.barrier k id) →
    (getGrp u c h).st = .ready ∧ (getGrp u c h).pc = (getGrp s c h).pc + 4#52) ∧
  (∀ c ∈ cls, ∀ h, h < 4 → cutAt k id (getGrp s c h) = true → (getGrp s c h).st ≠ .waiting (.barrier k id) →
    getGrp u c h = { getGrp s c h with stores := [], cut := (getGrp s c h).cut.map (fun b => { b with passed := true }) }) ∧
  ∀ c h, h < 4 → c ∉ cls ∨ waitsAt k id (getGrp s c h) = false → getGrp u c h = getGrp s c h

end Sys2Proof.Claims

/-- R187, R202, R232, R234: BAR.G arrives and waits; the arrival that completes a group barrier's mask, and the completion that
follows it, move every group that waits at it past its BAR, a release and an acquire at cluster scope. A BAR.G that a freeze
took from its barrier, and whose barrier has completed since, passes when it is executed again; a mask without the issuing group
raises subcode 11. The release is log 67's reading of R232. -/
def Sys2Proof.Claims.GroupBarrier : Prop :=
  (∀ (s : State) (m : BitVec 4), s.cur.grp < 4 → s.memOk → bitAt s.cur.grp m = true → groupBarFull (curCore s) m.toNat = false →
    (passesCut (curGrp s) = false → ∃ t, exec (.barG m) s = .next t ∧ t = { s with clusters := t.clusters } ∧
      curGrp t = { curGrp s with cut := (curGrp t).cut, st := .waiting (.barrier false m.toNat) } ∧
      (curCore t).bars = arriveGroup m.toNat s.cur.grp (curCore s).bars ∧
      (∀ h, h < 4 → h ≠ s.cur.grp → getGrp t s.cur.cl h = getGrp s s.cur.cl h) ∧
      (coreActive s s.cur.cl = true → (∀ p ∈ (curCore s).bars, p.1 = m.toNat → p.2 ||| 2 ^ s.cur.grp = p.1) →
        ((∀ p ∈ (curCore s).bars, p.1 ≠ m.toNat) → m.toNat = 2 ^ s.cur.grp) →
        ∃ u, exec (.barrierComplete s.cur.cl m.toNat false) t = .next u ∧ (∀ p ∈ (curCore u).bars, p.1 ≠ m.toNat) ∧
          BarrierDone t u [s.cur.cl] false m.toNat ∧ (curGrp u).st = .ready ∧ (curGrp u).pc = (curGrp s).pc + 4#52)) ∧
    (passesCut (curGrp s) = true → Answers (.barG m) s 0#5 0#64 (fun t => OnlyGroup s t ∧ (curGrp t).cut = none))) ∧
  (∀ (s : State) (cl m : Nat), s.memOk → coreActive s cl = true → groupBarFull (getCl s cl).core m = true →
    ∃ u, exec (.barrierComplete cl m false) s = .next u ∧ (∀ p ∈ (getCl u cl).core.bars, p.1 ≠ m) ∧ BarrierDone s u [cl] false m) ∧
  ∀ (s : State) (m : BitVec 4), s.cur.grp < 4 → bitAt s.cur.grp m = false → bitAt 0 (curGrp s).status = false →
    ∃ t, exec (.barG m) s = .next t ∧ EntersTrap s t 4 11 0 0

/-- R187, R202, R232, R234: BAR.C arrives and waits; the first arrival at a cluster barrier fixes its count, a later one with another
count raises subcode 8, and a second arrival of a cluster adds nothing; the last arrival and the completion after it move the
waiters of every cluster of the span past their BAR, a release and an acquire at span scope. A BAR.C that a freeze took from its
barrier, and whose barrier has completed since, passes when it is executed again. The release is log 67's reading of R232. -/
def Sys2Proof.Claims.ClusterBarrier : Prop :=
  (∀ (s : State) (a : BitVec 5) (id : BitVec 6) (sp : Nat) (x : Span) (n : Nat) (old : List Nat), s.cur.grp < 4 → s.memOk →
    (∀ k ∈ x.clusters, spanAt s k = some (sp, x)) → x.clusters.Nodup → s.cur.cl ∈ x.clusters →
    n = (xget (curGrp s) a).toNat → 1 ≤ n → n ≤ x.clusters.length →
    (amGet x.bars id.toNat = none ∧ old = [] ∨ amGet x.bars id.toNat = some ⟨n, old⟩ ∧ old.length < n) →
    (passesCut (curGrp s) = false → ∃ t y, exec (.barC a id) s = .next t ∧
      curGrp t = { curGrp s with cut := (curGrp t).cut, st := .waiting (.barrier true id.toNat) } ∧
      t.mem = s.mem ∧ t.near = s.near ∧ getSpan t sp = some y ∧
      y = { x with bars := amPut x.bars id.toNat ⟨n, if s.cur.cl ∈ old then old else old ++ [s.cur.cl]⟩ } ∧
      (s.cur.cl ∉ old → old.length + 1 = n → x.phase = .running →
        ∃ u, exec (.barrierComplete s.cur.cl id.toNat true) t = .next u ∧ BarrierDone t u x.clusters true id.toNat ∧
          (curGrp u).st = .ready ∧ (curGrp u).pc = (curGrp s).pc + 4#52)) ∧
    (passesCut (curGrp s) = true → Answers (.barC a id) s 0#5 0#64 (fun t => OnlyGroup s t ∧ (curGrp t).cut = none)) ∧
    (∀ b : Bar, passesCut (curGrp s) = false → b.count ≠ n → b.arrived.length < b.count → bitAt 0 (curGrp s).status = false →
      ∃ t, exec (.barC a id) (modSpan s sp (fun y => { y with bars := amPut y.bars id.toNat b })) = .next t ∧
        EntersTrap (modSpan s sp (fun y => { y with bars := amPut y.bars id.toNat b })) t 4 8 0 0)) ∧
  ∀ (s : State) (cl id sp : Nat) (x : Span), s.memOk → (∀ k ∈ x.clusters, spanAt s k = some (sp, x)) → x.clusters.Nodup →
    cl ∈ x.clusters → x.phase = .running → clusterBarFull x id = true →
    ∃ u y, exec (.barrierComplete cl id true) s = .next u ∧ BarrierDone s u x.clusters true id ∧
      getSpan u sp = some y ∧ amGet y.bars id = none

/-! CFG: the checks of R80, R271 and R275 on what the image says. -/

/-- A route leads to this port, and a route leaves from it. -/
def LedTo (rs : List ImgRoute) (e : Endpoint) : Prop := ∃ r ∈ rs, ∃ b ∈ r.branches, b.1.e = e
def LeftFrom (rs : List ImgRoute) (e : Endpoint) : Prop := ∃ r ∈ rs, r.src.e = e

/-- Check 3: A, B and PW against the shape of R71. -/
def BreaksShape (op : Nat) (w : Slot) : Shape → Prop
  | .r => w.pw.toNat % 4 = 0 ∧ w.pw ≠ 0
  | .u => w.b ≠ 28 ∨ (w.pw.toNat % 4 = 0 ∧ w.pw ≠ 0)
  | .n => w.a ≠ 28 ∨ w.b ≠ 28 ∨ (w.pw.toNat % 4 = 0 ∧ w.pw ≠ 0)
  | .p => 8 ≤ w.a.toNat ∨ 8 ≤ w.b.toNat ∨ ((op = 0x49 ∨ op = 0x56) ∧ w.b ≠ 0) ∨ (w.pw.toNat % 4 = 0 ∧ w.pw ≠ 0)
  | .q => w.pw.toNat % 4 ≠ 0
  | .m => 16 ≤ w.b.toNat ∨ (w.pw.toNat % 4 = 0 ∧ w.pw ≠ 0)
  | .rm | .sm => 4 ≤ w.pw.toNat
  | .um => w.b ≠ 28 ∨ 4 ≤ w.pw.toNat
  | .i | .l => False

/-- Check 4: the rows of R74, in its order. -/
def BreaksRestriction (op : Nat) (w : Slot) : Prop :=
  (op ∈ [0x09, 0x13, 0x14, 0x31, 0x33, 0x63, 0x6F, 0x72, 0x73, 0xAC, 0xCF] ∧ 16 ≤ w.d.toNat) ∨
  (op ∈ [0xA4, 0xA5, 0xA7, 0xC1, 0x55, 0x57, 0x91, 0xC9, 0xCA, 0xE0, 0xE1, 0xE2, 0xE3] ∧ w.d ≠ 24) ∨
  (op ∈ [0xC2, 0xC3, 0xC4, 0xC6, 0xC7, 0xCB, 0xCC, 0xCD, 0xCE] ∧ ¬ (16 ≤ w.d.toNat ∧ w.d.toNat ≤ 19)) ∨
  (op = 0xC5 ∧ ¬ ((w.d = 16 ∧ bitAt 0 w.os ∧ bitAt 1 w.os) ∨ (w.d = 17 ∧ bitAt 1 w.os ∧ bitAt 2 w.os) ∨
    (w.d = 18 ∧ bitAt 2 w.os ∧ bitAt 3 w.os))) ∨
  (op = 0xC8 ∧ ¬ (20 ≤ w.d.toNat ∧ w.d.toNat ≤ 23 ∧ 16 ≤ w.ir.toNat)) ∨
  (op ∈ [0x54, 0x55, 0x57, 0x91, 0xC9, 0xE1, 0xE2, 0xE3, 0xC7] ∧ w.a ≠ 28) ∨
  (op ∈ [0xC0, 0xC3, 0xC4, 0xC5, 0xCF] ∧ ¬ (16 ≤ w.a.toNat ∧ w.a.toNat ≤ 23)) ∨
  (op = 0xC6 ∧ ¬ (24 ≤ w.a.toNat ∧ w.a.toNat ≤ 27)) ∨ (op = 0xC5 ∧ ¬ (24 ≤ w.b.toNat ∧ w.b.toNat ≤ 27)) ∨
  (op = 0xC1 ∧ ¬ (20 ≤ w.a.toNat ∧ w.a.toNat ≤ 27 ∧ 20 ≤ w.b.toNat ∧ w.b.toNat ≤ 28)) ∨
  (op = 0xC6 ∧ w.b.toNat % 16 ∉ [3, 5, 6, 9, 10, 12]) ∨ (op = 0xC7 ∧ w.b.toNat % 16 ∈ [0, 1, 2, 4, 8]) ∨
  (0xA0 ≤ op ∧ op ≤ 0xAD ∧ w.pw.toNat % 4 = 1 ∧ 16 ≤ w.d.toNat)

/-- Check 5: selector and immediate values that the instructions' descriptions reserve. -/
def BreaksImmediate (op : Nat) (w : Slot) : Prop :=
  (op ∈ [0x28, 0x29, 0x2A, 0x4B, 0x4D, 0x4E, 0x4F] ∧ 32 ≤ imm10 w) ∨
  (op ∈ [0x2F, 0x30, 0x31] ∧ 32 < imm10 w % 32 + (imm10 w / 32 + 1)) ∨ (op = 0x55 ∧ 64 ≤ imm10 w) ∨
  (op ∈ [0x57, 0xE3] ∧ 4 ≤ imm10 w) ∨ (op ∈ [0x80, 0x81] ∧ w.b.toNat ∈ [2, 3, 6, 7, 18, 19, 22, 23]) ∨
  (op = 0x91 ∧ (8 ≤ imm10 w ∨ imm10 w / 2 % 4 = 3)) ∨
  (op = 0xC9 ∧ (imm10 w / 16 % 16 ≠ 0 ∨ (imm10 w / 8 % 2 = 1 ∧ imm10 w % 8 ≠ 0)))

/-- The operand codes that a slot word uses in A and B (R71). -/
def UsesCode (op : Nat) (w : Slot) (c : Nat) : Prop :=
  ∃ sh, shapeOf op = some sh ∧ ((sh ∈ [.r, .u, .n, .q, .m, .rm, .um, .sm, .i] ∧ w.a.toNat = c) ∨
    (sh ∈ [.r, .u, .n, .q, .rm, .um] ∧ w.b.toNat = c))

/-- Check 8: the contradictions of R36. -/
def Contradicts (rs : List ImgRoute) (rel el op : Nat) (w : Slot) : Prop :=
  (∃ n < 4, (UsesCode op w (16 + n) ∨ UsesCode op w (20 + n)) ∧ bitAt n w.ir = false) ∨
  (∃ n < 4, UsesCode op w (24 + n) ∧ bitAt (4 + n) w.ir = false) ∨
  ((UsesCode op w 31 ∨ w.te = true) ∧ bitAt w.ts.toNat w.ir = false) ∨
  (∃ n < 4, w.d.toNat = 16 + n ∧ bitAt n w.os = false) ∨
  (∃ n < 4, (bitAt n w.os = true ∧ ¬ LeftFrom rs ⟨.element rel el, n, false⟩) ∨
    (bitAt n w.ir = true ∧ ¬ LedTo rs ⟨.element rel el, n, false⟩) ∨
    (bitAt (4 + n) w.ir = true ∧ ¬ LedTo rs ⟨.element rel el, n, true⟩)) ∨
  (∃ n < 4, w.d.toNat = 20 + n ∧ ¬ LeftFrom rs ⟨.element rel el, n, true⟩)

/-- A slot word of element `el` of cluster `rel` breaks check k of R80, k from 1 to 8; check 5 also refuses what Die-0 service
does not run (R410). -/
def BreaksCheck (die0 : Bool) (rs : List ImgRoute) (rel el op : Nat) (w : Slot) : Nat → Prop
  | 1 => shapeOf op = none
  | 2 => 25 ≤ w.d.toNat
  | 3 => ∃ sh, shapeOf op = some sh ∧ BreaksShape op w sh
  | 4 => BreaksRestriction op w
  | 5 => BreaksImmediate op w ∨ (die0 = true ∧ (op ∈ [0x70, 0x71, 0x72, 0x81, 0x86, 0x87, 0x88, 0x89] ∨
      (op = 0x80 ∧ w.b.toNat ∉ [0, 1, 16, 17])))
  | 6 => (w.pm = 0 ∧ w.q = true) ∨ ∃ n < 8, bitAt n w.pv = true ∧ bitAt n w.pm = false
  | 7 => w.te = false ∧ ¬ UsesCode op w 31 ∧ (w.ts ≠ 0 ∨ w.tv ≠ 0)
  | 8 => Contradicts rs rel el op w
  | _ => False

/-- Slot n of an element of the image breaks check k first of checks 1 to 8; a slot with V = 0 breaks none. -/
def SlotBreaks (die0 : Bool) (im : Image) (e : ImgEl) (n k : Nat) : Prop :=
  (slotOf (vec16Get e.slots n)).valid = true ∧
  BreaksCheck die0 im.routes e.rel e.el (slotOpOf (vec16Get e.slots n)) (slotOf (vec16Get e.slots n)) k ∧
  ∀ j < k, ¬ BreaksCheck die0 im.routes e.rel e.el (slotOpOf (vec16Get e.slots n)) (slotOf (vec16Get e.slots n)) j
def SlotPasses (die0 : Bool) (im : Image) (e : ImgEl) (n : Nat) : Prop := ∀ k, ¬ SlotBreaks die0 im e n k

/-- Check 9 on slot n: HC and TM bits of the attribute word. -/
def AttributeBreaks (e : ImgEl) (n : Nat) : Prop :=
  let w := vec16Get e.slots n
  (bitAt (16 + n) e.attr = true ∧ ((slotOf w).valid = false ∨ ¬ (16 ≤ (slotOf w).d.toNat ∧ (slotOf w).d.toNat ≤ 19))) ∨
  (bitAt n e.attr = true ∧ ((slotOf w).valid = false ∨ shapeOf (slotOpOf w) ∉ [some .r, some .rm]))
/-- Check 10: reserved bits of the templates, of GC and of MAB. -/
def TemplatesBreak (e : ImgEl) : Prop :=
  (∃ n < 4, bitAt 31 (vec4Get e.ht n) = true ∨ field 24 19 (vec4Get e.ht n) ≠ 0) ∨ field 31 3 e.gc ≠ 0 ∨ field 2 1 e.gc = 3 ∨
  field 54 52 e.mab ≠ 0

/-- An element of the image fails with check k at slot n (0 for check 10): its first failing check in R80's order. -/
def ElementBreaks (die0 : Bool) (im : Image) (e : ImgEl) (k n : Nat) : Prop :=
  (n < 16 ∧ SlotBreaks die0 im e n k ∧ ∀ m < n, SlotPasses die0 im e m) ∨
  ((∀ m < 16, SlotPasses die0 im e m) ∧
    ((k = 9 ∧ n < 16 ∧ AttributeBreaks e n ∧ ∀ m < n, ¬ AttributeBreaks e m) ∨
     (k = 10 ∧ n = 0 ∧ TemplatesBreak e ∧ ∀ m < 16, ¬ AttributeBreaks e m)))
def ElementPasses (die0 : Bool) (im : Image) (e : ImgEl) : Prop := ∀ k n, ¬ ElementBreaks die0 im e k n

/-- The rules of R271 and R275 on the header's words, by offset. -/
def headerOffsets : List Nat := [0, 4, 8, 20, 24, 32, 56]
def HeaderRule (x : Span) (h : List Byte) (off : Nat) : Prop :=
  let w (o k : Nat) : Nat := natOfBytes ((h.drop o).take k)
  (off = 0 → w 0 4 = 0x31474643) ∧
  (off = 4 → w 4 1 = x.shape ∧ w 5 1 < 16 ∧ w 6 2 = 0 ∧ (x.shape = 5 → w 5 1 = x.dw + 4 * x.dh)) ∧
  (off = 8 → w 8 4 ≠ 0) ∧ (off = 20 → w 22 2 ≤ 1) ∧ (off = 24 → w 22 2 = 0 → w 24 8 = 0) ∧
  (off = 32 → w 22 2 = 0 → w 32 8 = 0) ∧ (off = 56 → w 56 8 < 2 ^ 52 ∧ (w 22 2 = 1 → w 56 8 ≠ 0))

/-- Check 11 of R80 on a preloaded token of a route. -/
def PresetPasses (ctl : Bool) (t : Token) : Prop :=
  if ctl then t.hdr = 0#32 ∧ (laneOf t 0).toNat < 2 ∧ ∀ l, 0 < l → l < 8 → laneOf t l = 0#32
  else hdrLN t.hdr ≤ 8 ∧ bitAt 31 t.hdr = false ∧ bitAt 30 t.hdr = false

/-- CFG in user mode raises the configuration fault with a check code and SY.TVAL; the span's load and its LID count stay as they were,
and the lines read are all that is left of the reading (R296). `s1`: the state when it reads. -/
def Rejects (s s1 : State) (d a : BitVec 5) (x : Span) (k tval : Nat) : Prop :=
  bitAt 0 (curGrp s).status = false →
    ∃ t ls, exec (.cfg d a) s = .next t ∧ EntersTrap (readLines s1 s.cur.cl ls) t 3 k 0 tval ∧ getSpan t s.cur.cl = some x

/-- R180, R80, R271, R275, R195: CFG of a lead cluster's core, whose span's load has passed its reconfiguration
token and for which no other group waits, performs the group's earlier stores at package scope (log 6) and reads the image.
A header word that breaks R271 or R275 rejects the load with check 14 at that word. Where the image reads well (`im`), the
first element in its order that breaks one of checks 1 to 10 rejects it with that check and the location word of R195; a
preloaded token that breaks check 11 rejects it with 11. Where every check passes, the span's load is Ready under the next
number, which xd takes. That the header's SPAN is the launched shape is log 26's reading of R275, and the slot and port fields of
the location word of checks 9 and 10 are log 25's. -/
def Obligations.ConfigureLoad : Prop :=
  ∀ (s s1 : State) (d a : BitVec 5) (x : Span) (img : Nat) (im : Image) (cmps : List Cmp),
    s.cur.grp < 4 → spanAt s s.cur.cl = some (s.cur.cl, x) →
    (∀ l, x.load = some l → l.phase = .complete ∧ l.passed = true) → (curCore s).cfgq = [] →
    s1 = releaseCur (modCore s s.cur.cl (fun c => { c with cfgq := [] })) 3 → img = (xget (curGrp s) a).toNat % 2 ^ 52 →
    (img % 64 ≠ 0 → Rejects s s1 d a x 14 img) ∧
    (∀ h off, img % 64 = 0 → (rdBytes s1 s.cur.cl (curGrp s).asid img 64).res = .ok h → off ∈ headerOffsets →
      ¬ HeaderRule x h off → (∀ o ∈ headerOffsets, o < off → HeaderRule x h o) → Rejects s s1 d a x 14 (img + off)) ∧
    ((readImage s1 x s.cur.cl (curGrp s).asid img).res = .ok im → (partCmps s1 s.cur.cl (curGrp s).asid img im).res = .ok cmps →
      (∀ p e k n, im.els[p]? = some e → ElementBreaks (decide (s.hub.boot = .die0)) im e k n →
        (∀ f ∈ im.els.take p, ElementPasses (decide (s.hub.boot = .die0)) im f) →
        Rejects s s1 d a x k (e.rel % 2 ^ 12 + e.el * 2 ^ 12 + n * 2 ^ 19)) ∧
      ((∀ e ∈ im.els, ElementPasses (decide (s.hub.boot = .die0)) im e) →
        (∀ p ∈ im.pres, ∀ r, im.routes.find? (fun r => decide (r.num = p.1)) = some r → ¬ PresetPasses r.ctl p.2 →
          ∃ v, Rejects s s1 d a x 11 v) ∧
        ((∀ p ∈ im.pres, ∀ r ∈ im.routes, r.num = p.1 → PresetPasses r.ctl p.2) → checkTracks x im = none →
          (∃ qs, placeQueues im [] im.routes = .ok qs) → check13 im = none →
          Answers (.cfg d a) s d (BitVec.ofNat 64 (x.lids + 1)) (fun t => ∃ y l, getSpan t s.cur.cl = some y ∧ y.load = some l ∧
            y.lids = x.lids + 1 ∧ l.phase = .ready ∧ l.lid = x.lids + 1 ∧ l.img = img ∧ l.asid = (curGrp s).asid ∧
            l.passed = false))))

/-- R180, R181, R232, R233: GO moves a Ready load to Running and performs the group's earlier stores at span scope; WAITL waits
until the load is Complete and then gives the tokens discarded, as an acquire (`acquireCur`: what the group has accessed is
performed first, log 67's reading of R236); WAITL.NB gives whether it is Complete, as an acquire where it is. A core that is not the lead cluster's, or a span without
such a load, raises subcode 6. -/
def Sys2Proof.Claims.LoadControl : Prop :=
  ∀ (s : State) (d : BitVec 5) (x : Span) (l : Load), s.cur.grp < 4 → spanAt s s.cur.cl = some (s.cur.cl, x) → x.load = some l →
    (l.phase = .ready → Answers .go s 0#5 0#64 (fun t => (curGrp t).stores = [] ∧
      (l.caldera = false → t.mem = (releaseCur s 1).mem ∧ t.near = (releaseCur s 1).near) ∧
      ∃ m, getLoad t s.cur.cl = some m ∧ m.phase = .running ∧ m.goCycle = spanNow s s.cur.cl ∧ m.layv = 0)) ∧
    (l.phase = .complete → WritesAfter (.waitl d) s (acquireCur s 1) 4 d (BitVec.ofNat 64 l.discarded)) ∧
    (l.phase ≠ .complete → Waits (.waitl d) s (.waitl d) (OnlyGroup s)) ∧
    (l.phase = .complete → WritesAfter (.waitlNb d) s (acquireCur s 1) 4 d 1#64) ∧
    (l.phase ≠ .complete → WritesRegister (.waitlNb d) s 4 d 0#64) ∧
    (l.phase ≠ .ready → bitAt 0 (curGrp s).status = false → ∃ t, exec .go s = .next t ∧ EntersTrap s t 4 6 0 0)

/-- R180, R189, R190: on a span that has had no load, or for FAB on a core other than the lead cluster's, the forms raise
subcode 6; RDLAY answers 0. -/
def Sys2Proof.Claims.NoLoadTraps : Prop :=
  ∀ (s : State) (d a : BitVec 5), s.cur.grp < 4 → bitAt 0 (curGrp s).status = false →
    (curLoad s = none → ∀ i ∈ [Instr.go, .waitl d, .waitlNb d, .rdlayT d, .pin d a, .unpin a, .strm a d, .mcast a d],
      ∃ t, exec i s = .next t ∧ EntersTrap s t 4 6 0 0) ∧
    (curLoad s = none → WritesAfter (.rdlay d) s (acquireCur s 3) 4 d 0#64) ∧
    ((∀ x, spanAt s s.cur.cl ≠ some (s.cur.cl, x)) → ∀ i ∈ [Instr.cfg d a, .go, .waitl d, .waitlNb d],
      ∃ t, exec i s = .next t ∧ EntersTrap s t 4 6 0 0)

/-- R189, R233: RDLAY, an acquire, and RDLAY.T read LAYV and LTB; PIN of an operator (or of the load, all ones) that no rewiring is in progress
for sets its pin and gives LAYV, and UNPIN removes it. -/
def Sys2Proof.Claims.LayoutInstructions : Prop :=
  ∀ (s : State) (d a : BitVec 5) (sp : Nat) (x : Span) (l : Load), s.cur.grp < 4 → spanAt s s.cur.cl = some (sp, x) → x.load = some l →
    WritesAfter (.rdlay d) s (acquireCur s 3) 4 d (BitVec.ofNat 64 (if l.caldera then l.layv else 0)) ∧
    WritesRegister (.rdlayT d) s 4 d (BitVec.ofNat 64 (if l.caldera then l.ltb else 0)) ∧
    (l.caldera = true → l.phase ≠ .complete →
      (∀ o, amGet l.ops (xget (curGrp s) a).toNat = some o → (xget (curGrp s) a).toNat ≠ 2 ^ 64 - 1 →
        (o.rewire = 0 → Answers (.pin d a) s d (BitVec.ofNat 64 l.layv) (fun t => ∃ m, getLoad t sp = some m ∧
          amGet m.ops (xget (curGrp s) a).toNat = some { o with pinned := true })) ∧
        (o.rewire ≠ 0 → Waits (.pin d a) s (.pin (xget (curGrp s) a).toNat d) (fun t => ∃ m, getLoad t sp = some m ∧
          amGet m.ops (xget (curGrp s) a).toNat = some { o with pinned := true })) ∧
        Answers (.unpin a) s 0#5 0#64 (fun t => ∃ m, getLoad t sp = some m ∧
          amGet m.ops (xget (curGrp s) a).toNat = some { o with pinned := false })) ∧
      ((xget (curGrp s) a).toNat = 2 ^ 64 - 1 →
        ((amVals l.ops).all (fun o => decide (o.rewire = 0)) = true → Answers (.pin d a) s d (BitVec.ofNat 64 l.layv)
          (fun t => getLoad t sp = some { l with pinAll := true })) ∧
        Answers (.unpin a) s 0#5 0#64 (fun t => getLoad t sp = some { l with pinAll := false })))

/-- R190: RATE grants xb, within SY.RCAP where that is not 0, for the region of cluster xa: from its next window while a load
runs, and at once with none (log 33); a cluster outside the span raises subcode 11. -/
def Sys2Proof.Claims.RateInstruction : Prop :=
  ∀ (s : State) (d a b : BitVec 5) (sp : Nat) (x : Span), s.cur.grp < 4 → spanAt s s.cur.cl = some (sp, x) →
    (∀ cl n, x.clusters[(xget (curGrp s) a).toNat]? = some cl → (xget (curGrp s) b).toNat < 2 ^ 32 →
      n = (if (curCore s).rcap = 0#64 then (xget (curGrp s) b).toNat else if (xget (curGrp s) b).toNat = 0 then (curCore s).rcap.toNat
        else min (xget (curGrp s) b).toNat (curCore s).rcap.toNat) →
      Answers (.rate d a b) s d (BitVec.ofNat 64 n) (fun t =>
        t = { s with clusters := t.clusters } ∧
        ((∃ l, x.load = some l ∧ (l.phase = .running ∨ l.phase = .draining)) → (getCl t cl).limiter.next = some n) ∧
        ((∀ l, x.load = some l → l.phase ≠ .running ∧ l.phase ≠ .draining) →
          (getCl t cl).limiter.limit = n ∧ (getCl t cl).limiter.next = none))) ∧
    (x.clusters.length ≤ (xget (curGrp s) a).toNat → bitAt 0 (curGrp s).status = false →
      ∃ t, exec (.rate d a b) s = .next t ∧ EntersTrap s t 4 11 0 0)

/-- R184 to R186: a LAUNCH whose record obeys the reserved rules, with more than 16 pool entries free and the spill queue
empty, puts it in the pool under a new handle that is not 0, its class limited to SY.MAXC, and gives the handle, or 0 when
detached; the group's earlier stores are performed at package scope. WAITG gives the exit status of a child that has ended and
retires the handle, which is then no longer found, waits for one that has not, and raises subcode 7 for
a handle that is not outstanding. -/
def Sys2Proof.Claims.LaunchAndWait : Prop :=
  ∀ (s : State) (d a : BitVec 5) (q p : BitVec 1) (bs : List Byte) (P : Partition), s.cur.grp < 4 →
    P = getPart s (partOfCl s s.cur.cl) → P.lastHandle + 1 < 2 ^ 64 →
    ((xget (curGrp s) a).toNat % 2 ^ 52 % 32 = 0 → Reads (releaseCur s 3) 8 ((xget (curGrp s) a).toNat % 2 ^ 52) bs →
      recOk bs = true → P.spill = [] → P.pool.length < 240 → BitVec.ofNat 64 (P.lastHandle + 1) ≠ 0#64 ∧
      Answers (.launch d a q p) s d (if q = 1#1 then 0#64 else BitVec.ofNat 64 (P.lastHandle + 1)) (fun t =>
        (curGrp t).stores = [] ∧ t.mem = (releaseCur s 3).mem ∧ t.near = (releaseCur s 3).near ∧
        (getPart t (partOfCl s s.cur.cl)).lastHandle = P.lastHandle + 1 ∧ (getPart t (partOfCl s s.cur.cl)).pool.length = P.pool.length + 1 ∧
        ∃ e ∈ (getPart t (partOfCl s s.cur.cl)).pool, e.handle = P.lastHandle + 1 ∧ e.st = 0 ∧ e.asid = (curGrp s).asid ∧
          e.detached = decide (q = 1#1) ∧ e.record = { recOf bs with cls := min (recOf bs).cls (curCore s).maxc })) ∧
    (∀ e ∈ P.pool, e.handle = (xget (curGrp s) a).toNat → e.handle ≠ 0 → e.detached = false →
      (∀ f ∈ P.pool, f.handle = e.handle → f = e) →
      (e.st = 2 → Answers (.waitg d a) s d e.status (fun t =>
        ((∀ f ∈ P.spill, f.handle ≠ e.handle) → ∀ f ∈ (getPart t (partOfCl s s.cur.cl)).pool, f.handle ≠ e.handle) ∧
        t.mem = (acquireCur s 3).mem)) ∧
      (e.st ≠ 2 → Waits (.waitg d a) s (.waitg e.handle) (OnlyGroup s))) ∧
    ((∀ e ∈ P.pool, e.handle = (xget (curGrp s) a).toNat → e.detached = true) →
      (∀ e ∈ P.spill, e.handle = (xget (curGrp s) a).toNat → e.detached = true) → bitAt 0 (curGrp s).status = false →
      ∃ t, exec (.waitg d a) s = .next t ∧ EntersTrap s t 4 7 0 0)

/-- R186, R197, R232: `trap xa, 0` of a group whose collectives are done and that configured no load short of Complete ends the
group: it is Idle, its stores are performed at package scope, and those of all the groups of its span where it ends the launch;
otherwise the exit waits with the status xa. -/
def Sys2Proof.Claims.GroupExit : Prop :=
  ∀ (s : State) (a : BitVec 5), s.cur.grp < 4 →
    (exitReady s s.cur.cl s.cur.grp = true → ∃ t, exec (.coreTrap a 0#16) s = .next t ∧ (curGrp t).st = .idle ∧ (curGrp t).stores = [] ∧
      (curGrp t).x = (curGrp s).x ∧ (curGrp t).launchKey = none ∧
      ((∀ sp x, spanAt s s.cur.cl = some (sp, x) → (curGrp s).launchKey ≠ some x.key) →
        t.mem = (releaseCur s 3).mem ∧ t.near = (releaseCur s 3).near) ∧
      (∀ sp x, spanAt s s.cur.cl = some (sp, x) → (curGrp s).launchKey = some x.key → x.fromQueue = none →
        t.mem = (x.clusters.foldl (fun s c => flushCore s c)
          (modCur (releaseCur s 3) (fun g => { g with st := .idle, launchKey := none }))).mem)) ∧
    (exitReady s s.cur.cl s.cur.grp = false →
      Waits (.coreTrap a 0#16) s (.exit (xget (curGrp s) a)) (OnlyGroup s))

/-- R181, R182, R205, R232, R285, R288: STRM whose block passes the checks puts the stream last in the port's queue of eight, bound
to the load, and the group's earlier stores are performed at span scope; with eight streams queued the group waits. -/
def Sys2Proof.Claims.StartStream : Prop :=
  ∀ (s : State) (a b : BitVec 5) (sp cl rel n : Nat) (x : Span) (l : Load) (bs : List Byte) (bind : Option Binding), s.cur.grp < 4 →
    spanAt s s.cur.cl = some (sp, x) → x.load = some l → l.phase = .ready ∨ l.phase = .running →
    (xget (curGrp s) b).toNat = n + 8 * rel → n < 8 → rel < 4096 → x.clusters[rel]? = some cl →
    (xget (curGrp s) a).toNat % 2 ^ 52 % 32 = 0 →
    s.memOk → Reads (releaseCur s 1) 20 ((xget (curGrp s) a).toNat % 2 ^ 52) bs →
    (hasIn l (portEnd rel n) || hasOut l (portEnd rel n)) = true →
    startCheck (releaseCur s 1) l s.cur.cl rel cl n (words64 bs 10) = .ok bind →
    ((getPort s cl n).q.length < 8 → Answers (.strm a b) s 0#5 0#64 (fun t => (curGrp t).stores = [] ∧
      (∀ k, t.seen s.cur.cl k = (releaseCur s 1).seen s.cur.cl k) ∧
      (curGrp t).tickets = (curGrp s).tickets ++ [x.ticket] ∧
      (getPort t cl n).q = (getPort s cl n).q ++ [{ streamNew ((xget (curGrp s) a).toNat % 2 ^ 52) (words64 bs 10) (curGrp s).asid
        x.ticket (scbKind (words64 bs 10)) bind with ord := s.serial }])) ∧
    (8 ≤ (getPort s cl n).q.length → Waits (.strm a b) s (.stream cl n) (fun t => (curGrp t).stores = [] ∧ t.spans = s.spans ∧
      (∀ k, t.seen s.cur.cl k = (releaseCur s 1).seen s.cur.cl k) ∧ getPort t cl n = getPort s cl n))

/-- R181 to R183, R232, R292: MCAST whose descriptor passes the checks adds a fill to the load that owes every source line to every
named cluster; PATLD whose image passes the checks binds it to the context. Both perform the group's earlier stores at span
scope. -/
def Sys2Proof.Claims.MulticastAndBinding : Prop :=
  ∀ (s : State) (a b : BitVec 5) (sp : Nat) (x : Span) (l : Load) (bs : List Byte), s.cur.grp < 4 → s.memOk →
    spanAt s s.cur.cl = some (sp, x) →
    (x.load = some l → l.phase = .ready ∨ l.phase = .running → (xget (curGrp s) a).toNat % 2 ^ 52 % 32 = 0 →
      Reads (releaseCur s 1) 8 ((xget (curGrp s) a).toNat % 2 ^ 52) bs →
      mcOk (words64 bs 4) ((xget (curGrp s) a).toNat % 2 ^ 52) (xget (curGrp s) b).toNat x = true →
      Answers (.mcast a b) s 0#5 0#64 (fun t => (curGrp t).stores = [] ∧
        (∀ k, t.seen s.cur.cl k = (releaseCur s 1).seen s.cur.cl k) ∧ ∃ m k f, getLoad t sp = some m ∧ amGet l.mcasts k = none ∧
        amGet m.mcasts k = some f ∧ f.ticket = x.ticket ∧ f.src = field 51 0 ((words64 bs 4).getD 0 0#64) ∧
        (∀ j c, (j, c) ∈ f.owed ↔ j < mcLines f.src f.len ∧
          ∃ i, bitAt i (xget (curGrp s) b) = true ∧ x.clusters[field 11 0 ((words64 bs 4).getD 2 0#64) + i]? = some c))) ∧
    (∀ cl rel c k, (xget (curGrp s) b).toNat = c + 8 * rel → c < 8 → rel < 4096 → x.clusters[rel]? = some cl →
      (readBinding (releaseCur s 1) s.cur.cl (curGrp s).asid ((xget (curGrp s) a).toNat % 2 ^ 52)).res = .ok k →
      Answers (.patld a b) s 0#5 0#64 (fun t => (curGrp t).stores = [] ∧ (getCtx t cl c).bound = some k ∧
        ∀ k, t.seen s.cur.cl k = (releaseCur s 1).seen s.cur.cl k))

/-- R181, R192, R232, R328: COLL of a good descriptor on an enabled and ready group gives a handle that is not 0, under which the
collective stands, the group's earlier stores performed at system scope; COLLW waits for its end, gives its status and retires
the handle, which is then no longer found, and a handle that is not outstanding raises subcode 7. That the host then sees every
byte as the package does is log 67's wide release. -/
def Obligations.CollectiveInstructions : Prop :=
  ∀ (s : State) (d a : BitVec 5), s.cur.grp < 4 →
    (∀ bs w, (xget (curGrp s) a).toNat % 2 ^ 52 % 64 = 0 → s.hub.lastColl + 1 < 2 ^ 64 →
      Reads (releaseCur s 4) 16 ((xget (curGrp s) a).toNat % 2 ^ 52) bs → w = words64 bs 8 → descriptorOk w = true →
      (groupOf s.hub (field 51 48 (w.getD 3 0#64))).en = true → (groupOf s.hub (field 51 48 (w.getD 3 0#64))).rdy = true →
      (field 63 61 (w.getD 4 0#64) = 1 → field 41 32 (w.getD 4 0#64) ≤ (groupOf s.hub (field 51 48 (w.getD 3 0#64))).gm1) →
      BitVec.ofNat 64 (s.hub.lastColl + 1) ≠ 0#64 ∧
      Answers (.coll d a) s d (BitVec.ofNat 64 (s.hub.lastColl + 1)) (fun t => t.hub.lastColl = s.hub.lastColl + 1 ∧
        (curGrp t).stores = [] ∧ t.mem = (releaseCur s 4).mem ∧ t.lag = [] ∧ (curGrp t).colls = (curGrp s).colls ++ [s.hub.lastColl + 1] ∧
        ∃ c, getColl t (s.hub.lastColl + 1) = some c ∧ c.part = partOfCl s s.cur.cl ∧ c.len = field 39 0 (w.getD 3 0#64))) ∧
    (∀ c, getColl s (xget (curGrp s) a).toNat = some c → c.part = partOfCl s s.cur.cl →
      (c.ended = true → Answers (.collw d a) s d c.word5 (fun t => t.mem = (acquireCur s 4).mem ∧
        getColl t (xget (curGrp s) a).toNat = none ∧ (curGrp t).colls = (curGrp s).colls.filter (fun k => decide (k ≠ (xget (curGrp s) a).toNat)))) ∧
      (c.ended = false → Waits (.collw d a) s (.collw (xget (curGrp s) a).toNat) (OnlyGroup s))) ∧
    (getColl s (xget (curGrp s) a).toNat = none → bitAt 0 (curGrp s).status = false →
      ∃ t, exec (.collw d a) s = .next t ∧ EntersTrap s t 4 7 0 0)

/-- R200, R232, R377: INVR of one of the partition's ASIDs asks the hub's agent and waits for the acknowledgement, or completes at
once for a length of 0. -/
def Sys2Proof.Claims.InvalidateByRange : Prop :=
  ∀ (s : State) (d a b : BitVec 5), s.cur.grp < 4 → bitAt 0 (curGrp s).status = true →
    asidOwned (getPart s (partOfCl s s.cur.cl)) ((xget (curGrp s) d).toNat % 65536) = true →
    (xget (curGrp s) a).toNat + (xget (curGrp s) b).toNat ≤ 2 ^ 52 →
    (xget (curGrp s) b = 0#64 → Answers (.invr d a b) s 0#5 0#64 (fun t => (curGrp t).stores = [] ∧ t.mem = (releaseCur s 3).mem ∧
      t.hub.invals = s.hub.invals)) ∧
    (xget (curGrp s) b ≠ 0#64 → Waits (.invr d a b) s .invr (fun t => (curGrp t).stores = [] ∧ t.mem = (releaseCur s 3).mem ∧
      t.hub.invals = s.hub.invals ++ [⟨(xget (curGrp s) d).toNat % 65536, (xget (curGrp s) a).toNat, (xget (curGrp s) b).toNat,
        some (s.cur.cl, s.cur.grp), false, [], false⟩]))

/-- R200, R391, R397: CTXSV saves a Frozen span of the partition whose accesses are settled and lets its clusters go; while they are
not settled the group waits and the span is Saving; CTXLD makes
the Stopped group that a good group area names Ready with the area's registers. The supervisor-only forms raise subcode 5 in
user mode. That the area lies in the group's virtual space is log 44, that CTXSV and CTXLD release at package scope log 6, and
that the span stands in Saving while accesses are not settled log 45. -/
def Sys2Proof.Claims.ContextSaveAndLoad : Prop :=
  ∀ (s : State) (a b d : BitVec 5), s.cur.grp < 4 →
    (bitAt 0 (curGrp s).status = true → (xget (curGrp s) a).toNat % 2 ^ 52 % 4096 = 0 →
      ∀ r pas, r = releaseCur s 3 → areaWords r 1 ((xget (curGrp s) a).toNat % 2 ^ 52) 4096 = .ok pas →
      (∀ x out lead, lead = hdrLEAD (wordsRead r pas) → getSpan s lead = some x → x.part = partOfCl s s.cur.cl → x.phase = .frozen →
        s.cur.cl ∉ x.clusters →
        areaWords r 2 ((xget (curGrp s) a).toNat % 2 ^ 52) (4096 + x.clusters.length * areaCSZ) = .ok out →
        (spanSettled r x = true → Answers (.ctxsv a) s 0#5 0#64 (fun t => getSpan t lead = none ∧
          ∃ v ∈ t.hub.saves, v.span = x ∧ v.records = x.clusters.map (getCl s))) ∧
        (spanSettled r x = false → Waits (.ctxsv a) s (.save lead) (fun t => ∃ y, getSpan t lead = some y ∧ y.phase = .saving ∧
          y.saveBy = some (s.cur.cl, s.cur.grp) ∧ y.clusters = x.clusters))) ∧
      (∀ body hdr bs, hdr = wordsRead r pas → hdrOk hdr 2 = true →
        areaWords r 1 ((xget (curGrp s) a).toNat % 2 ^ 52 + 4096) 312 = .ok body → bs = wordsRead r body → crcOk hdr bs = true →
        hdrPART hdr = partOfCl s s.cur.cl → hdrGRP hdr < 4 → (getGrp s (hdrLEAD hdr) (hdrGRP hdr)).st = .stopped →
        partOfCl s (hdrLEAD hdr) = partOfCl s s.cur.cl → (hdrLEAD hdr ≠ s.cur.cl ∨ hdrGRP hdr ≠ s.cur.grp) →
        Answers (.ctxld a) s 0#5 0#64 (fun t => (getGrp t (hdrLEAD hdr) (hdrGRP hdr)).st = .ready ∧ t.mem = r.mem ∧
          ∀ q : BitVec 5, xget (getGrp t (hdrLEAD hdr) (hdrGRP hdr)) q = if q = 0#5 then 0#64 else BitVec.ofNat 64 (hdrNat bs (8 * q.toNat) 8)))) ∧
    (bitAt 0 (curGrp s).status = false → ∀ i ∈ [Instr.invr d a b, .ctxsv a, .ctxld a, .syEscWrite a, .syEresWrite a],
      ∃ t, exec i s = .next t ∧ EntersTrap s t 4 5 0 0)

/-! Patterns (R203 to R221). The executing context is `s.cur.ctx` of cluster `s.cur.cl`'s Bramble; a Bramble has eight (R204). -/

namespace Sys2Proof.Claims

open Sys2Proof Sys2Proof.Machine

/-- Everything in the machine but the executing context is as it was. -/
def OnlyContext (s t : State) : Prop :=
  t = { s with clusters := t.clusters } ∧ (∀ c, c ≠ s.cur.cl → getCl t c = getCl s c) ∧
  getCl t s.cur.cl = { getCl s s.cur.cl with gctx := vec8Set (getCl s s.cur.cl).gctx s.cur.ctx (curCtx t) }

/-- The instruction writes pattern register g and moves on: (r, c) is a member just where `m` says, and the extent is `e`. -/
def WritesPattern (i : Instr) (s : State) (g : BitVec 3) (e : Option Extent) (m : Int → Int → Prop) : Prop :=
  ∃ t, exec i s = .next t ∧ OnlyContext s t ∧ curCtx t = { curCtx s with g := (curCtx t).g, ip := (curCtx s).ip + 1 } ∧
    (∀ h, h ≠ g → gReg (curCtx t) h = gReg (curCtx s) h) ∧ (gReg (curCtx t) g).ext = e ∧
    ∀ r c, patMem (gReg (curCtx t) g).set r c = true ↔ m r c

/-- Membership in a register of the executing context, its extent, and the inside of an extent. -/
def Member (s : State) (g : BitVec 3) (r c : Int) : Prop := patMem (gReg (curCtx s) g).set r c = true
def extentOf (s : State) (g : BitVec 3) : Option Extent := (gReg (curCtx s) g).ext
def Inside (e : Extent) (r c : Int) : Prop := e.r0 ≤ r ∧ r < e.r0 + e.nr ∧ e.c0 ≤ c ∧ c < e.c0 + e.nc

/-- The token that EMIT forms of the members `rest` that are left of a line, in a context with registers `c`: an empty line is a
bubble; else the token holds the first of them, with their ranks from RB on (under PVAL the ranks alone); LR is set with the
line's last. -/
def LineToken (c : GenCtx) (g : BitVec 3) (e : Extent) (pval : Bool) (rest : List (Int × Int)) (k : Token) : Prop :=
  hdrFMT k.hdr = 0 ∧ hdrTAG k.hdr = 0 ∧ hdrLS k.hdr = false ∧ hdrBUB k.hdr = decide (rest = []) ∧
  hdrLR k.hdr = decide (rest.length ≤ if pval then 8 else 4) ∧
  hdrLN k.hdr = (if pval then min 8 rest.length else 2 * min 4 rest.length) ∧
  (pval = true → ∀ i q, i < 8 → rest[i]? = some q → laneOf k i = c.rb + BitVec.ofNat 32 (patRank (gReg c g).set e q.1 q.2)) ∧
  (pval = false → ∀ i q, i < 4 → rest[i]? = some q → laneOf k (2 * i) = (BitVec.ofInt 16 q.1 ++ BitVec.ofInt 16 q.2 : BitVec 32) ∧
    laneOf k (2 * i + 1) = c.rb + BitVec.ofNat 32 (patRank (gReg c g).set e q.1 q.2))

/-- Where an EMIT at position `p` goes on after a token of at most `n` of the members `rest`: at the next member of the line, at
the first position of the next line (row or, transposed, column), or nowhere. -/
def EmitGoesOn (c : GenCtx) (e : Extent) (n : Nat) (p : Int × Int) (rest : List (Int × Int)) (q : Option (Int × Int)) : Prop :=
  (∀ m, rest[n]? = some m → q = some m) ∧
  (rest.length ≤ n → c.dir = false → q = if p.1 + 1 < e.r0 + e.nr then some (p.1 + 1, e.c0) else none) ∧
  (rest.length ≤ n → c.dir = true → q = if p.2 + 1 < e.c0 + e.nc then some (e.r0, p.2 + 1) else none)

end Sys2Proof.Claims

/-- R207: BAND, BDIAG and HASH write unclipped patterns with the members their tests give. -/
def Sys2Proof.Claims.PatternGenerators : Prop :=
  ∀ (s : State) (g : BitVec 3) (l h : BitVec 12) (p k : BitVec 4) (n : BitVec 16), s.cur.ctx < 8 →
    WritesPattern (.band g l h) s g none (fun r c => -(l.toNat : Int) ≤ c - r ∧ c - r ≤ h.toNat) ∧
    WritesPattern (.bdiag g l h) s g none (fun r c => r / ((l.toNat : Int) + 1) = c / ((h.toNat : Int) + 1)) ∧
    (∀ b, (curCtx s).run = some b → WritesPattern (.patHash g p k n) s g none (fun r c =>
      (patHash32 (b.params.getD p.toNat 0#32) (BitVec.ofInt 32 r) (BitVec.ofInt 32 c)).toNat % 2 ^ (k.toNat + 1) < n.toNat))

/-- R208, R210: DIL spreads a band, OFFS moves a pattern and its extent, CLIP bounds it, SWAP transposes it. -/
def Sys2Proof.Claims.PatternTransforms : Prop :=
  ∀ (s : State) (g : BitVec 3) (a b : BitVec 12), s.cur.ctx < 8 →
    (∀ lo hi sft, (gReg (curCtx s) g).set = .band lo hi sft → WritesPattern (.dil g a) s g (extentOf s g) (fun r c =>
      ∃ q : Int, c - r - sft = q * ((a.toNat : Int) + 1) ∧ -(lo : Int) ≤ q ∧ q ≤ hi)) ∧
    WritesPattern (.offs g a b) s g ((extentOf s g).map (fun e => { e with r0 := e.r0 + a.toInt, c0 := e.c0 + b.toInt }))
      (fun r c => Member s g (r - a.toInt) (c - b.toInt)) ∧
    (∀ r0 c0 : Int, (∀ e, extentOf s g = some e → r0 = e.r0 ∧ c0 = e.c0) → (extentOf s g = none → r0 = 0 ∧ c0 = 0) →
      WritesPattern (.clip g a b) s g (some ⟨r0, c0, a.toNat + 1, b.toNat + 1⟩)
        (fun r c => Inside ⟨r0, c0, a.toNat + 1, b.toNat + 1⟩ r c ∧ Member s g r c)) ∧
    WritesPattern (.patSwap g) s g ((extentOf s g).map (fun e => ⟨e.c0, e.r0, e.nc, e.nr⟩)) (fun r c => Member s g c r)

/-- R211, R212: KRON of two clipped patterns, UNION and ISECT with gA's extent. -/
def Sys2Proof.Claims.PatternCombinations : Prop :=
  ∀ (s : State) (g a b : BitVec 3), s.cur.ctx < 8 →
    (∀ x y, extentOf s a = some x → extentOf s b = some y →
      WritesPattern (.kron g a b) s g (some ⟨0, 0, x.nr * y.nr, x.nc * y.nc⟩) (fun r c =>
        Inside ⟨0, 0, x.nr * y.nr, x.nc * y.nc⟩ r c ∧ Member s a (x.r0 + r / (y.nr : Int)) (x.c0 + c / (y.nc : Int)) ∧
        Member s b (y.r0 + r % (y.nr : Int)) (y.c0 + c % (y.nc : Int)))) ∧
    WritesPattern (.patUnion g a b) s g (extentOf s a) (fun r c => (∀ e, extentOf s a = some e → Inside e r c) ∧ (Member s a r c ∨ Member s b r c)) ∧
    WritesPattern (.isect g a b) s g (extentOf s a) (fun r c => Member s a r c ∧ Member s b r c)

/-- R213: the members left of a line are the members of the pattern in its row from the current column on, columns ascending; in a
transposed EMIT, those in its column from the current row on, rows ascending. -/
def Sys2Proof.Claims.LinesHoldMembers : Prop :=
  ∀ (p : PatSet) (e : Extent) (dir : Bool) (a : Int × Int), Inside e a.1 a.2 →
    (∀ q, q ∈ lineFrom p e dir a ↔ patMem p q.1 q.2 = true ∧ Inside e q.1 q.2 ∧ if dir then q.2 = a.2 ∧ a.1 ≤ q.1 else q.1 = a.1 ∧ a.2 ≤ q.2) ∧
    (lineFrom p e dir a).Pairwise (fun u v => if dir then u.1 < v.1 else u.2 < v.2)

/-- R213 to R215: CNT emits the number of members in lane 0; EMIT forms one token of the next members of its line, each with
its rank from RB on, and goes on behind them; under PVAL (R287) the token holds up to eight ranks, for the port; LOOP counts its
register and branches back; END sends the held token with LS = 1, or an empty one. -/
def Sys2Proof.Claims.PatternStream : Prop :=
  ∀ (s : State) (g : BitVec 3) (j : BitVec 2) (n : BitVec 12) (b : BitVec 10), s.cur.ctx < 8 →
    (∀ e, extentOf s g = some e →
      (∃ t k, exec (.brambleCnt g) s = .next t ∧ OnlyContext s t ∧ (curCtx t).out = (curCtx s).out ++ (curCtx s).last.toList ∧
        (curCtx t).last = some k ∧ laneOf k 0 = BitVec.ofNat 32 (patCount (gReg (curCtx s) g).set e) ∧
        hdrTAG k.hdr = 1 ∧ hdrLN k.hdr = 1 ∧ hdrLR k.hdr = false ∧ hdrBUB k.hdr = false ∧ (curCtx t).ip = (curCtx s).ip + 1) ∧
      (∀ pval p rest, pval = pvalOf s s.cur.cl (curCtx s) → p = (curCtx s).cur.getD (e.r0, e.c0) →
        rest = lineFrom (gReg (curCtx s) g).set e (curCtx s).dir p → ∃ t k, exec (.emit g) s = .next t ∧ OnlyContext s t ∧ (curCtx t).out = (curCtx s).out ++ (curCtx s).last.toList ∧
        (curCtx t).last = some k ∧ (curCtx t).g = (curCtx s).g ∧
        LineToken (curCtx s) g e pval rest k ∧ EmitGoesOn (curCtx s) e (if pval then 8 else 4) p rest (curCtx t).cur ∧
        (curCtx t).inEmit = (curCtx t).cur.isSome ∧
        ((curCtx t).inEmit = false → (curCtx t).ip = (curCtx s).ip + 1 ∧
          (curCtx t).rb = (curCtx s).rb + BitVec.ofNat 32 (patCount (gReg (curCtx s) g).set e)) ∧
        ((curCtx t).inEmit = true → (curCtx t).ip = (curCtx s).ip ∧ (curCtx t).rb = (curCtx s).rb))) ∧
    (∃ t, exec (.patLoop j n b) s = .next t ∧ OnlyContext s t ∧ curCtx t = { curCtx s with l := (curCtx t).l, ip := (curCtx t).ip } ∧
      (vec4Get (curCtx s).l j.toNat < n.toNat → vec4Get (curCtx t).l j.toNat = vec4Get (curCtx s).l j.toNat + 1 ∧
        (curCtx t).ip = (curCtx s).ip - b.toNat) ∧
      (n.toNat ≤ vec4Get (curCtx s).l j.toNat → vec4Get (curCtx t).l j.toNat = 0 ∧ (curCtx t).ip = (curCtx s).ip + 1)) ∧
    (∃ t k, exec .patEnd s = .next t ∧ OnlyContext s t ∧ (curCtx t).finished = true ∧ (curCtx t).out = (curCtx s).out ++ [k] ∧
      hdrLS k.hdr = true ∧ (∀ m, (curCtx s).last = some m → k.lanes = m.lanes ∧ hdrLN k.hdr = hdrLN m.hdr ∧ hdrLR k.hdr = hdrLR m.hdr) ∧ ((curCtx s).last = none → hdrBUB k.hdr = true ∧ hdrLR k.hdr = false ∧ hdrLN k.hdr = 0))

/-- R216: the rank of a position of a clipped pattern is the number of members of its extent before it, in row order. -/
def Sys2Proof.Claims.RankCountsMembersBefore : Prop :=
  ∀ (p : PatSet) (e : Extent) (r c : Int), Inside e r c →
    patRank p e r c = ((List.range (e.nr * e.nc)).filter (fun k : Nat =>
      decide ((k : Int) < (r - e.r0) * e.nc + (c - e.c0)) && patMem p (e.r0 + ((k / e.nc : Nat) : Int)) (e.c0 + ((k % e.nc : Nat) : Int)))).length

/-! The fabric's own moves: tokens, answers, engines, the island, loads (R23 to R32, R135 to R146, R240 to R311, R386). -/

namespace Sys2Proof.Claims

open Sys2Proof Sys2Proof.Machine

/-- The instruction completes and `q` holds of the next state. -/
def Does (i : Instr) (s : State) (q : State → Prop) : Prop := ∃ t, exec i s = .next t ∧ q t

/-- One token has been popped at a data input of a load. -/
def Popped (l : Load) (t : State) (sp : Nat) (e : Endpoint) : Prop :=
  ∀ ch br c b, findIn l e = some (ch, br) → amGet l.chans ch = some c → c.branches[br]? = some b →
    ∃ c' b', getChan t sp ch = some c' ∧ c'.branches[br]? = some b' ∧ b'.buf = b.buf.drop 1

/-- One token of which `p` holds has been emitted at a data output of a load. -/
def FedOne (l : Load) (t : State) (sp : Nat) (e : Endpoint) (p : Token → Prop) : Prop :=
  ∀ ch c, findOut l e = some ch → amGet l.chans ch = some c →
    ∃ c' f, getChan t sp ch = some c' ∧ c'.out = c.out ++ [f] ∧ p f.tok
/-- One token whose lanes below n are `w` has been emitted at a data output of a load. -/
def Fed (l : Load) (t : State) (sp : Nat) (e : Endpoint) (n : Nat) (w : Nat → W32) : Prop :=
  FedOne l t sp e (fun k => ∀ i, i < n → laneOf k i = w i)

/-- Branch `br` of a channel of a load. -/
def branchIn (t : State) (sp ch br : Nat) : Option Branch := (getChan t sp ch).bind (fun c => c.branches[br]?)

/-- The agents of a cluster see every byte as before, but those of `n` bytes at `pa`; outside the granules of these, memory is
as it was. A write first makes visible what its granules hold hidden from the cluster (R228): there the other bytes may differ. -/
def SeesElse (s t : State) (cl pa n : Nat) : Prop :=
  (∀ k, k < pa ∨ pa + n ≤ k → NoneHidden s cl k ∨ k / 16 < pa / 16 ∨ (pa + n - 1) / 16 < k / 16 → t.seen cl k = s.seen cl k) ∧
  ∀ k, k / 16 < pa / 16 ∨ (pa + n - 1) / 16 < k / 16 → t.byte k = s.byte k

/-- R23, R25: the oldest token of an output leaves, to every branch at once, when the span is Running, the token was emitted
in an earlier cycle, none was released in this one, and every branch has room; no branch receives it otherwise. -/
def TokenReleases : Prop :=
  ∀ (s : State) (sp ch : Nat) (x : Span) (l : Load) (c : Chan) (f : Flit) (rest : List Flit), getSpan s sp = some x → x.load = some l →
    amGet l.chans ch = some c → c.out = f :: rest → (∀ op, c.src.unit ≠ .dist op ∧ c.src.unit ≠ .merge op) →
    (spanActive x = true → loadActive l = true → f.at_ < spanNow s sp → c.relAt ≤ spanNow s sp → (∀ b ∈ c.branches, branchRoom s x b = true) →
      Does (.tokenRelease sp ch) s (fun t => t.mem = s.mem ∧ (∃ c', getChan t sp ch = some c' ∧ c'.out = rest ∧ c'.relAt = spanNow s sp + 1) ∧
        ∀ k b, c.branches[k]? = some b → ∃ b', branchIn t sp ch k = some b' ∧ b'.flight = b.flight ++ [⟨f.tok, spanNow s sp⟩] ∧ b'.buf = b.buf)) ∧
    ((∃ b ∈ c.branches, branchRoom s x b = false) → exec (.tokenRelease sp ch) s = .next s)

/-- R23, R386, R384: the oldest token of a route that has travelled its latency stands last at the consumer's port, one a cycle;
found bad, it is tagged on an unordered edge, and on an ordered one the tokens under way are sent again from the replay
window. -/
def TokenArrivals : Prop :=
  ∀ (s : State) (sp ch br rel el : Nat) (x : Span) (l : Load) (c : Chan) (b : Branch) (f : Flit) (rest : List Flit), getSpan s sp = some x →
    x.load = some l → amGet l.chans ch = some c → c.branches[br]? = some b → spanActive x = true → loadActive l = true →
    b.failed = none → b.cmp = none → b.queue = none → b.relief = [] → b.rlen = 0 → b.dst.unit = .element rel el →
    c.src.unit ≠ b.dst.unit → b.flight = f :: rest → f.at_ + b.lat ≤ spanNow s sp → b.buf.length < bufCap s x b →
    (b.arrAt ≠ some (spanNow s sp) →
      Does (.tokenArrival sp ch br false) s (fun t => t.mem = s.mem ∧ ∃ b', branchIn t sp ch br = some b' ∧ b'.flight = rest ∧
        b'.buf = b.buf ++ [⟨f.tok, spanNow s sp⟩] ∧ b'.arrAt = some (spanNow s sp)) ∧
      (c.ord = false → c.ctl = false → Does (.tokenArrival sp ch br true) s (fun t => ∃ b', branchIn t sp ch br = some b' ∧ b'.flight = rest ∧
        b'.buf = b.buf ++ [⟨withET f.tok true, spanNow s sp⟩])) ∧
      (c.ord = true → b.flight.length ≤ b.replay.length → Does (.tokenArrival sp ch br true) s (fun t => ∃ b', branchIn t sp ch br = some b' ∧
        b'.flight.map (·.tok) = b.replay.drop (b.replay.length - b.flight.length) ∧ b'.buf = b.buf))) ∧
    (b.arrAt = some (spanNow s sp) → ∀ bad, Does (.tokenArrival sp ch br bad) s (fun t => ∃ b', branchIn t sp ch br = some b' ∧ b'.buf = b.buf))

/-- R135, R140, R144, R29: an access of a queued firing to the virtual space is performed: a load keeps the word that the
agents of the cluster see, a store, an addition and a swap leave the new word and no other byte changes for them, an addition
from the word that stands once what the granule hides from them is visible (R228); its answer is then under way with the next
age. That the answer, and no request, is a packet of the tree network is log 57. -/
def MemoryAnswers : Prop :=
  ∀ (s : State) (cl el idx : Nat) (e : RqEntry) (a : LaneAcc), s.memOk → (getEl s cl el).rq[idx]? = some e → e.done = false →
    e.accs = [a] → a.sp = false → e.sink = false → a.addr % 4 = 0 → paBad s a.addr 4 = false → granFree (getEl s cl el).rq idx (accGran a) = true →
    (e.op = .load → Does (.memoryAnswer cl el idx a.lane) s (fun t => (∀ k, t.seen cl k = s.seen cl k) ∧
      ∃ e', (getEl t cl el).rq[idx]? = some e' ∧ e'.accs = [] ∧ e'.done = false ∧ e'.pkts = e.pkts ++ [⟨a.lane, s.serial, false⟩] ∧
        e'.results = e.results ++ [(a.lane, seenWord s cl a.addr)])) ∧
    (NoneHidden s cl a.addr → seenWord (widenAll s a.addr 4 .package) cl a.addr = seenWord s cl a.addr) ∧
    (∀ p ∈ [(MemOp.store, a.data), (.amoAdd, seenWord (widenAll s a.addr 4 .package) cl a.addr + a.data), (.amoSwap, a.data)], e.op = p.1 →
      Does (.memoryAnswer cl el idx a.lane) s (fun t => seenWord t cl a.addr = p.2 ∧ SeesElse s t cl a.addr 4 ∧
        ∃ e', (getEl t cl el).rq[idx]? = some e' ∧ e'.accs = [] ∧ e'.pkts = e.pkts ++ [⟨a.lane, s.serial, false⟩]))

/-- R29, R368, R420: an answer of an element's firing, the one kind of packet in the share of 16 (log 57), comes to its cluster's port where no older answer is under way and the partition's
share of 16 entries there is not full; where it is full the answer is turned away and counted, and stays under way with its
age. What the port holds the element takes, and with the last answer a queued firing is done. -/
def TreePackets : Prop :=
  ∀ (s : State) (cl el idx : Nat) (e : RqEntry) (p : Packet), (getEl s cl el).rq[idx]? = some e → e.done = false → e.accs = [] →
    e.pkts = [p] →
    (p.inBuf = false → portHolds s cl < 16 → olderInFlight s p.age = false → Does (.memoryAnswer cl el idx p.lane) s (fun t => t.mem = s.mem ∧
      (getEl t cl el).rq[idx]? = some { e with pkts := [{ p with inBuf := true }] })) ∧
    (p.inBuf = false → 16 ≤ portHolds s cl → Does (.memoryAnswer cl el idx p.lane) s (fun t => t.mem = s.mem ∧ (getEl t cl el).rq[idx]? = some e ∧
      ∀ i, i < 8 → (vec8Get (getCl t cl).counters i).val = (vec8Get (getCl s cl).counters i).val +
        (if (vec8Get (getCl s cl).counters i).src = 0x4002 then 1#64 else 0#64))) ∧
    (p.inBuf = true → e.held = false → Does (.memoryAnswer cl el idx p.lane) s (fun t => t.mem = s.mem ∧
      (getEl t cl el).rq[idx]? = some { e with pkts := [], done := true }))

/-- R140: a full/empty read of a tile proceeds when its granule is full; ld.fe.clr leaves it empty. -/
def FullEmptyWaits : Prop :=
  ∀ (s : State) (cl el idx : Nat) (e : RqEntry) (a : LaneAcc), (getEl s cl el).rq[idx]? = some e → e.done = false → e.held = false →
    e.pkts = [] → e.accs = [a] → a.sp = true → e.sink = false → granBad (getTile s cl (a.addr / 65536)) (a.addr % 65536 / 16) = false →
    granFree (getEl s cl el).rq idx (accGran a) = true → e.op = .loadFe ∨ e.op = .loadFeClr → (∀ p, spanAt s cl = some p → spanActive p.2 = true) →
    (granFull (getTile s cl (a.addr / 65536)) (a.addr % 65536 / 16) = true →
      Does (.feWaitEnd cl el idx) s (fun t => (∃ e', (getEl t cl el).rq[idx]? = some e' ∧ e'.done = true ∧
        e'.results = e.results ++ [(a.lane, tileWord (getTile s cl (a.addr / 65536)) (a.addr % 65536))]) ∧
        (e.op = .loadFe → getTile t cl (a.addr / 65536) = getTile s cl (a.addr / 65536)) ∧
        (e.op = .loadFeClr → granFull (getTile t cl (a.addr / 65536)) (a.addr % 65536 / 16) = false))) ∧
    (granFull (getTile s cl (a.addr / 65536)) (a.addr % 65536 / 16) = false → exec (.feWaitEnd cl el idx) s = .next s)

/-- R135, R136: the front entry of a response queue leaves when it is done and its outputs have room, also while a fault pends at
the element (log 63): its answer is emitted. -/
def AnswersLeave : Prop :=
  ∀ (s : State) (cl el sp n : Nat) (x : Span) (e : RqEntry) (rest : List RqEntry), spanAt s cl = some (sp, x) → (getEl s cl el).rq = e :: rest →
    e.done = true → spanActive x = true → leaveRoom s x sp (relOf x cl) el e = true → (e.sink = false ∨ e.held = true) →
    destOf (BitVec.ofNat 5 e.dest) = .o n → e.lg ≤ 4 →
    Does (.responseQueueLeave cl el) s (fun t => (getEl t cl el).rq = rest ∧ t.mem = s.mem ∧
      ∀ ch c, outAt s sp (relOf x cl) el n false = some (ch, c) → ∃ c', getChan t sp ch = some c' ∧ c'.out.take c.out.length = c.out ∧
        c'.out.length = c.out.length + e.lg + (if e.cmpl.any (fun y => (outAt s sp (relOf x cl) el y true).any (fun p => decide (p.1 = ch))) then 1 else 0) ∧
        ∀ i, i < 8 * e.lg → groupLane ((c'.out.drop c.out.length).map (·.tok)) i = rqPay e i)

/-- R30, R32, R193, R388: a Draining load with nothing in progress becomes Complete, its tokens discarded and counted, its
reconfiguration token passed, SY.PEND[4] set; a load Running past SY.WDOG raises one watchdog event. -/
def LoadEnds : Prop :=
  ∀ (s : State) (sp : Nat) (x : Span) (l : Load), getSpan s sp = some x → x.load = some l → spanActive x = true →
    (l.phase = .draining → loadIdle s x l = true → Does (.loadComplete sp) s (fun t =>
      (pendOf (getCl t sp).core).testBit 4 = true ∧ ∃ m, getLoad t sp = some m ∧ m.phase = .complete ∧ m.passed = true ∧ m.discarded = heldTokens l ∧
        ∀ ch c, amGet m.chans ch = some c → c.out = [] ∧ ∀ b ∈ c.branches, inBranch b = 0)) ∧
    (l.phase = .draining → loadIdle s x l = false → exec (.loadComplete sp) s = .next s) ∧
    (l.phase = .running → l.wdogDone = false → (getCl s sp).core.wdog ≠ 0#64 → l.wdogFrom + (getCl s sp).core.wdog.toNat < spanNow s sp →
      Does (.watchdog sp) s (fun t => getLoad t sp = some { l with wdogDone := true } ∧
        (getCl t sp).core.events ++ (getCl t sp).core.held = (getCl s sp).core.events ++ (getCl s sp).core.held ++ [⟨0x0B, 0, 0, 0⟩]))

/-- R239, R240, R242, R249, R250: a window end begins the next window where the last one ends, its measurements anew; a rewiring
that is ready completes, and its table writes are under way until a cycle passes (`finishTable`), with which LAYV rises. -/
def CalderaEvents : Prop :=
  ∀ (s : State) (sp : Nat) (x : Span) (l : Load), getSpan s sp = some x → x.load = some l → spanActive x = true →
    (∀ cl, spanAt s cl = some (sp, x) → loadActive l = true → l.winCycle + winLen l ≤ spanNow s sp → Does (.windowEnd cl) s (fun t =>
      ∃ m, getLoad t sp = some m ∧ m.winCycle = l.winCycle + winLen l ∧
        ∀ ch c, amGet m.chans ch = some c → c.winStart = c.count ∧ ∀ b ∈ c.branches, b.popped = 0 ∧ b.occSum = 0)) ∧
    (∀ op o, amGet l.ops op = some o → o.rewire ≠ 0 → rewireReady s sp x l op o = true → Does (.rewiringComplete sp op) s (fun t =>
      (∃ m, getLoad t sp = some m ∧ m.layv = l.layv ∧ m.upd = l.upd + 1) ∧
      ∃ m, getLoad (finishTable t sp) sp = some m ∧ m.layv = (l.layv + l.upd + 1) % 2 ^ 32 ∧ m.upd = 0))

/-- R301, R302, R300: the island accepts a checked MMA token when it has at most one operation and none is staging, and a
SETREG token writes the register it names; either is charged to the region's limiter. -/
def IslandAccepts : Prop :=
  ∀ (s s1 : State) (cl sp rel : Nat) (x : Span) (l : Load) (k : Token), unitSite s cl = some (sp, x, l, rel) →
    (∀ n cost, islandAsks s sp cl l rel 0 = some k → (getIsland s cl).ops.length < 2 → (∀ o ∈ (getIsland s cl).ops, o.phase ≠ 0) →
      n = (getIsland s cl).count + 1 →
      cost = (if chkN (getIsland s cl) ≠ 0 ∧ n % chkN (getIsland s cl) = 0 then 2 else 1) * (mmaK k / (mmaP (getIsland s cl) k).getD 1) →
      chargeLimiter s sp cl islandPort cost = (true, s1) → Does (.mma cl) s (fun t => (getIsland t cl).count = n ∧ Popped l t sp (islandEnd rel) ∧
        ∃ o, (getIsland t cl).ops = (getIsland s cl).ops ++ [o] ∧ o.tok = k ∧ o.phase = 0 ∧ o.mxsc = (getIsland s cl).mxsc)) ∧
    (islandAsks s sp cl l rel 1 = some k → chargeLimiter s sp cl islandPort 1 = (true, s1) → Does (.setreg cl) s (fun t =>
      Popped l t sp (islandEnd rel) ∧ ∀ j, j < 6 → ([vec2Get (getIsland t cl).scb 0, vec2Get (getIsland t cl).scb 1, vec2Get (getIsland t cl).va 0,
          vec2Get (getIsland t cl).va 1, (getIsland t cl).mxsc, (getIsland t cl).mxchk][j]?) =
        if j = (laneOf k 2).toNat then some (lane64 k) else [vec2Get (getIsland s cl).scb 0, vec2Get (getIsland s cl).scb 1, vec2Get (getIsland s cl).va 0,
          vec2Get (getIsland s cl).va 1, (getIsland s cl).mxsc, (getIsland s cl).mxchk][j]?))

/-- R304 to R306, R63: staging reads the next granule of an operand; an operation whose operands are staged leaves in every
accumulator of its shape the rounded sum of its steps, starting from +0 unless ACC = 1, and the others as they were (+0
without ACC); draining writes a row of the tile and sets its granules full. -/
def IslandWorks : Prop :=
  ∀ (s : State) (cl sp rel : Nat) (x : Span) (l : Load) (o : IslandOp) (rest : List IslandOp), unitSite s cl = some (sp, x, l, rel) →
    islandStopped (getIsland s cl) = false → (getIsland s cl).ops = o :: rest →
    (o.phase = 0 → scalesDone o false = true → scalesDone o true = true → bytesDone o false = false → mmaFEA o.tok = false →
      Does (.islandStage cl) s (fun t => ∃ more, (getIsland t cl).ops = { o with aBytes := o.aBytes ++
        [tileRead (getTile s cl (mmaTA o.tok)) (mmaOA o.tok + o.aBytes.length / opGrans o false * mmaPA o.tok + 16 * (o.aBytes.length % opGrans o false)) 16] } :: more)) ∧
    (o.phase = 0 → staged o = true → o.checked = false → Does (.islandArray cl 0) s (fun t =>
      (∃ more, (getIsland t cl).ops = { o with phase := 2 } :: more) ∧ ∀ i j, i < 64 → j < 64 → amGetD (getIsland t cl).acc (64 * i + j) 0#32 =
        if i < mmaM o.tok ∧ j < mmaN o.tok then mmaElement o i j (if mmaACC o.tok then amGetD (getIsland s cl).acc (64 * i + j) 0#32 else 0#32)
        else if mmaACC o.tok then amGetD (getIsland s cl).acc (64 * i + j) 0#32 else 0#32)) ∧
    (∀ r c, o.phase = 0 → staged o = true → o.checked = true → r < mmaM o.tok → c < mmaN o.tok → r < 64 → c < 64 →
      Does (.islandArray cl (1 + 64 * r + c)) s (fun t => (getIsland t cl).fault = some ⟨8, 0, 0, mismatchWord rel r c o.rot⟩)) ∧
    (o.phase = 2 → mmaDRN o.tok = true → o.row < mmaM o.tok → Does (.islandDrain cl) s (fun t =>
      (getIsland t cl).ops = { o with row := o.row + 1 } :: rest ∧
      (∀ j, j < mmaN o.tok → tileWord (getTile t cl (mmaTC o.tok)) (mmaOC o.tok + o.row * mmaPC o.tok + 4 * j) = amGetD (getIsland s cl).acc (64 * o.row + j) 0#32) ∧
      ∀ g ∈ drainGrans o o.row, granFull (getTile t cl (mmaTC o.tok)) g = true)) ∧
    (o.phase = 2 → mmaDRN o.tok = true → mmaM o.tok ≤ o.row → mmaCPL o.tok = false → Does (.islandDrain cl) s (fun t => (getIsland t cl).ops = rest))

/-- R278, R280, R283, R291: a generator takes its requests: SETUP writes the descriptor and leaves a new FIFO queue's granules
empty, ARM arms a tag (or fires it where the count is
there already), READ, WRITE, FETCH and PUT are served from then on. -/
def GeneratorRequests : Prop :=
  ∀ (s : State) (cl tile ag sp rel : Nat) (x : Span) (l : Load) (k : Token), unitSite s cl = some (sp, x, l, rel) → (getGen s cl tile ag).pend = 0 →
    (genAsks s sp l rel cl tile ag 0 = some k → Does (.agSetup cl tile ag) s (fun t => (getGen t cl tile ag).desc = lane64 k ∧
      (getGen t cl tile ag).len = 0 ∧ Popped l t sp (genEnd rel tile ag) ∧
      (agMode (lane64 k) = 1 → ∀ i, i ≤ agSIZE (lane64 k) → granFull (getTile t cl tile) (agBASE (lane64 k) + i) = false))) ∧
    (∀ tag n, genAsks s sp l rel cl tile ag 4 = some k → tag = (laneOf k 7).toNat % 16 → n = (laneOf k 0).toNat →
      Does (.agArm cl tile ag) s (fun t => Popped l t sp (genEnd rel tile ag) ∧
        (amGetD (getTile s cl tile).tags tag 0 < n → amGet (getTile t cl tile).armed tag = some (n, ag)) ∧
        (n ≤ amGetD (getTile s cl tile).tags tag 0 → amGetD (getTile t cl tile).tags tag 0 = amGetD (getTile s cl tile).tags tag 0 - n ∧ amGet (getTile t cl tile).armed tag = none))) ∧
    ((getGen s cl tile ag).job = none → (agMode (getGen s cl tile ag).desc ≠ 1) → ∀ p ∈ [(1, Instr.agRead cl tile ag), (2, .agWrite cl tile ag), (3, .agFetch cl tile ag),
      (5, .agPut cl tile ag)], genAsks s sp l rel cl tile ag p.1 = some k → (getGen s cl tile ag).fault = none →
      Does p.2 s (fun t => (getGen t cl tile ag).job = some ⟨k, 0, []⟩ ∧ Popped l t sp (genEnd rel tile ag)))

/-- R223, R281 to R283: a READ emits tile words; a WRITE stores each lane of an access that the request's next element does not
continue, and holds the others (log 65); a FETCH copies a granule of memory into the tile and sets it full; a PUT copies a
granule of the tile to memory and no other byte changes for the cluster's agents. Each works in an event of its own (log 32). -/
def GeneratorWork : Prop :=
  ∀ (s : State) (cl tile ag sp rel : Nat) (x : Span) (l : Load) (g : AddrGen) (j : Job) (k : Token) (pas : List Nat) (pa : Nat),
    s.memOk → unitSite s cl = some (sp, x, l, rel) → g = getGen s cl tile ag → g.pend = 0 → g.fault = none → g.byQueue = false → g.job = some j →
    (reqOpx j.tok = 1 → agMode g.desc = 2 → field 4 3 (laneOf j.tok 7) = 0 → genRoom s x l rel tile ag = true → j.pos < reqCount j.tok →
      j.hold = [] → Does (.agRead cl tile ag) s (fun t => Fed l t sp (genEnd rel tile ag) (min 8 (reqCount j.tok - j.pos))
        (fun i => tileWord (getTile s cl tile) (storeAddr g.desc j.tok (j.pos + i))))) ∧
    (∀ m ad, reqOpx j.tok = 2 → genData s sp l rel cl tile ag = some k → hdrBUB k.hdr = false → j.hold = [] →
      m = min (min 8 (hdrLN k.hdr)) (reqCount j.tok - j.pos) → ad = (fun i => storeAddr g.desc j.tok (j.pos + i)) → Does (.agWrite cl tile ag) s (fun t =>
      Popped l t sp (genEnd rel tile ag) ∧ ∀ i d, i ≤ d → d < m →
        (j.pos + d + 1 = reqCount j.tok ∨ ad (d + 1) / 16 ≠ ad d / 16 ∨ ∃ n, i ≤ n ∧ n ≤ d ∧ ad (d + 1) = ad n) →
        (∀ n, i < n → n < m → ad n % 65536 ≠ ad i % 65536) → tileWord (getTile t cl tile) (ad i) = laneOf k i)) ∧
    (reqOpx j.tok = 3 → engWords s cl l.asid 1 g.wf (wordsFrom (moveVA j.tok j.pos) 4) = .ok pas → (∀ p ∈ pas, p % 4 = 0) →
      Does (.agFetch cl tile ag) s (fun t =>
      (∀ a, t.seen cl a = s.seen cl a) ∧ granFull (getTile t cl tile) (moveOff j.tok j.pos / 16) = true ∧
      (∀ i, i < 4 → tileWord (getTile t cl tile) (moveOff j.tok j.pos + 4 * i) = seenWord s cl (pas.getD i 0)) ∧
      (j.pos + 16 < reqCount j.tok → (getGen t cl tile ag).job = some { j with pos := j.pos + 16, hold := [] }))) ∧
    (reqOpx j.tok = 5 → engWords s cl l.asid 2 g.wf (wordsFrom (moveVA j.tok j.pos) 4) = .ok [pa, pa + 4, pa + 8, pa + 12] → pa % 4 = 0 →
      Does (.agPut cl tile ag) s (fun t => (∀ i, i < 4 → seenWord t cl (pa + 4 * i) = tileWord (getTile s cl tile) (moveOff j.tok j.pos + 4 * i)) ∧
        SeesElse s t cl pa 16))

/-- The memory that writing words at physical addresses leaves (`writeEach`: each at package scope, in order). -/
def WroteEach (s t : State) (cl : Nat) (ps : List (Nat × W32)) : Prop :=
  t.mem = (writeEach s cl ps).mem ∧ t.near = (writeEach s cl ps).near ∧ t.lag = (writeEach s cl ps).lag
/-- The lanes of a token at the virtual and physical addresses of its words. -/
def laneWords (k : Token) (els : List (Nat × Nat)) : List PutWord :=
  (List.range els.length).map (fun i => ((els.getD i (0, 0)).1, (els.getD i (0, 0)).2, laneOf k i))
/-- Of the words `l`, in stream order, those of every access are written; where `more` of the last access is to come, its words are
held instead, and `h` is what is then held (R223, log 65). -/
def WroteWhole (s t : State) (cl : Nat) (more : Bool) (l : List PutWord) (h : List Held) : Prop :=
  (more = false → WroteEach s t cl (l.map Prod.snd) ∧ h = []) ∧
  (more = true → WroteEach s t cl ((l.take (l.length - (lastRun Prod.fst l).length)).map Prod.snd) ∧ h = holdPuts (lastRun Prod.fst l))

/-- R223, R285 to R288, R399: an SREQ whose block passes the checks queues its stream; a feed emits the words it has read, and what
it reads of the following token with them waits for room for that token; a drain writes the lanes of its next token, each granule
whole, and holds the words of a granule that its next element continues (log 65); an empty drain ends; a pattern stream passes on
its context's token; an ended stream writes words 10 and 11 and leaves. -/
def StreamWork : Prop :=
  ∀ (s : State) (cl n sp rel pa : Nat) (x : Span) (l : Load) (st st1 : Stream) (q : List Stream) (k : Token) (pas : List Nat)
    (els : List (Nat × Nat)) (idx : List Nat) (w : List W64), s.memOk →
    unitSite s cl = some (sp, x, l, rel) → (getPort s cl n).fault = none →
    (∀ bind, headAt l (portEnd rel n) (spanNow s sp) = some k → portHead (getPort s cl n) (hasOut l (portEnd rel n)) k = some .request → reqKind k = 2 →
      (getPort s cl n).q.length < 8 → (lane64 k).toNat < 2 ^ 52 → reqAddr k % 32 = 0 →
      engWords s cl l.asid 1 (getPort s cl n).wf (wordsFrom (reqAddr k) 20) = .ok pas → (∀ p ∈ pas, p % 4 = 0) →
      w = words64 (pas.flatMap (fun p => readBy s cl p 4)) 10 → startCheck s l cl rel cl n w = .ok bind → Does (.streamStart cl n) s (fun t =>
        Popped l t sp (portEnd rel n) ∧ (getPort t cl n).q = (getPort s cl n).q ++
          [{ streamNew (reqAddr k) w l.asid 0 (scbKind w) bind with ord := s.serial }])) ∧
    ((getPort s cl n).q = st :: q →
      (∀ s2 more ix st2, st.fin = false → st.kind = 0 → st.tail = false → visitX st ≠ 0 → portRoom s x l rel n = true → st.hold = [] →
        visitElems s cl 1 (getPort s cl n).wf [] [] (min 8 (scbN st 0 - st.i.getD 0 0)) st = .ok els idx st1 →
        feedAhead s cl (getPort s cl n).wf els false st1 = .ok more ix st2 → (more = [] ∨ portRoomFor s x l rel n 2 = true) →
        chargeLimiter s sp cl n 1 = (true, s2) →
        Does (.feedToken cl n) s (fun t => Fed l t sp (portEnd rel n) els.length (fun i => seenWord s cl (els.getD i (0, 0)).2) ∧
          ∃ h, (getPort t cl n).q = { st1 with done := st.done + min 8 (scbN st 0 - st.i.getD 0 0), hold := h } :: q)) ∧
      (∀ m all, st.fin = false → st.kind = 1 → st.tail = false → visitX st ≠ 0 → headAt l (portEnd rel n) (spanNow s sp) = some k →
        hdrET k.hdr = false → m = (if hdrBUB k.hdr then 0 else min 8 (hdrLN k.hdr)) →
        engWords s cl st.asid 2 (getPort s cl n).wf (st.hold.map (·.key)) = .ok pas →
        visitElems s cl 2 (getPort s cl n).wf (overPuts (heldPuts st pas)) ((List.range m).map (laneOf k)) m st = .ok els idx st1 →
        all = heldPuts st pas ++ laneWords k els → Does (.feedToken cl n) s (fun t => Popped l t sp (portEnd rel n) ∧
          ∃ h, WroteWhole (touchRead s cl idx) t cl (!hdrLS k.hdr && drainGoesOn st1 (lastRun Prod.fst all)) all h ∧
            (getPort t cl n).q = { st1 with done := st.done + els.length, hold := h, fin := st1.fin || hdrLS k.hdr } :: q)) ∧
      (st.fin = false → st.kind = 1 → st.tail = false → visitX st = 0 → Does (.feedToken cl n) s (fun t =>
        (getPort t cl n).q = { st with fin := true } :: q)) ∧
      (∀ s2 tok rest, st.fin = false → st.kind = 2 → st.tail = false → st.began = true → (getCtx s cl (scbGCTX st.words)).out = tok :: rest →
        portRoom s x l rel n = true → scbPVAL st = false → chargeLimiter s sp cl n 1 = (true, s2) →
        Does (.feedToken cl n) s (fun t => Fed l t sp (portEnd rel n) 8 (laneOf tok) ∧ (hdrLS tok.hdr = false → (getCtx t cl (scbGCTX st.words)).out = rest))) ∧
      (st.fin = true → st.kind < 3 → scbCPL st = false →
        engWords s cl st.asid 2 (getPort s cl n).wf (wordsFrom (st.blk + 80) 4) = .ok [pa, pa + 4, pa + 8, pa + 12] → pa % 4 = 0 →
        Does (.streamEnd cl n) s (fun t => (getPort t cl n).q = q ∧
          natOfBytes (readBy t cl pa 8) = ((if st.flt.isSome then 2 else 1) * 2 ^ 62 + st.done % 2 ^ 40) % 2 ^ 64 ∧
          natOfBytes (readBy t cl (pa + 8) 8) = ((st.flt.map Prod.snd).getD 0) % 2 ^ 64 ∧ SeesElse s t cl pa 16)))

/-- R223, R283: GET and PUTS join the port's queue; at its front a GET emits consecutive words and a PUTS writes the lanes of the
next token to them, each granule whole: words of a granule that goes on are held (log 65). -/
def PortTransfers : Prop :=
  ∀ (s : State) (cl n sp rel : Nat) (x : Span) (l : Load) (st : Stream) (q : List Stream) (k : Token) (pas : List Nat),
    s.memOk → unitSite s cl = some (sp, x, l, rel) → (getPort s cl n).fault = none →
    (∀ p ∈ [(8, 3, Instr.portGet cl n), (9, 4, .portPuts cl n)], (∀ f, (getPort s cl n).q.head? = some f → f.kind ≠ p.2.1) →
      headAt l (portEnd rel n) (spanNow s sp) = some k → portHead (getPort s cl n) (hasOut l (portEnd rel n)) k = some .request → reqKind k = 3 →
      reqOpx k = p.1 → (getPort s cl n).q.length < 8 → Does p.2.2 s (fun t => Popped l t sp (portEnd rel n) ∧ ∃ f, (getPort t cl n).q = (getPort s cl n).q ++ [f] ∧
        f.kind = p.2.1 ∧ f.asid = l.asid ∧ scb f 0 = lane64 k ∧ xferCount f = reqCount k ∧ f.done = 0)) ∧
    ((getPort s cl n).q = st :: q →
      (∀ s2, st.kind = 3 → portRoom s x l rel n = true → engWords s cl st.asid 1 (getPort s cl n).wf ((List.range (min 8 (xferCount st - st.done))).map (xferVA st)) = .ok pas →
        st.hold = [] → chargeLimiter s sp cl n 1 = (true, s2) → Does (.portGet cl n) s (fun t =>
          Fed l t sp (portEnd rel n) (min 8 (xferCount st - st.done)) (fun i => seenWord s cl (pas.getD i 0)) ∧
          (st.done + min 8 (xferCount st - st.done) < xferCount st → ∃ h, (getPort t cl n).q = { st with done := st.done + 8, hold := h } :: q) ∧
          (st.done + min 8 (xferCount st - st.done) = xferCount st → (getPort t cl n).q = q))) ∧
      (∀ m ps all, st.kind = 4 → headAt l (portEnd rel n) (spanNow s sp) = some k → hdrBUB k.hdr = false → hdrET k.hdr = false →
        m = min (min 8 (hdrLN k.hdr)) (xferCount st - st.done) → 0 < m →
        engWords s cl st.asid 2 (getPort s cl n).wf (st.hold.map (·.key)) = .ok ps →
        engWords s cl st.asid 2 (getPort s cl n).wf ((List.range m).map (xferVA st)) = .ok pas →
        all = heldPuts st ps ++ laneWords k (((List.range m).map (xferVA st)).zip pas) → Does (.portPuts cl n) s (fun t =>
          Popped l t sp (portEnd rel n) ∧ ∃ h, WroteWhole s t cl (decide (st.done + m ≠ xferCount st) && decide (xferVA st m % 16 ≠ 0)) all h ∧
          (st.done + m ≠ xferCount st → (getPort t cl n).q = { st with done := st.done + m, hold := h } :: q) ∧ (st.done + m = xferCount st → (getPort t cl n).q = q))))

/-- Words in one granule of the virtual space lie in one granule of physical memory, each at its place. -/
def GranulesMatch (vas pas : List Nat) : Prop :=
  ∀ i j v w p q : Nat, vas[i]? = some v → vas[j]? = some w → pas[i]? = some p → pas[j]? = some q → v / 16 = w / 16 → q = p / 16 * 16 + w % 16
/-- R287: under PVAL a coordinate token of the stream's context becomes one of the words at BASE + 4 × rank, with the token's LN,
LR and LS, FMT of the block and TAG 0, and DONE counts them; a count token and a bubble pass unchanged and add nothing. No word of
an earlier token's granule is held (log 65). -/
def ValueTokens : Prop :=
  ∀ (s s2 : State) (cl n sp rel m : Nat) (x : Span) (l : Load) (st : Stream) (q : List Stream) (tok : Token) (rest : List Token) (vas pas : List Nat),
    unitSite s cl = some (sp, x, l, rel) → (getPort s cl n).fault = none → (getPort s cl n).q = st :: q → st.fin = false → st.kind = 2 →
    st.tail = false → st.began = true → scbPVAL st = true → (getCtx s cl (scbGCTX st.words)).out = tok :: rest → portRoom s x l rel n = true →
    chargeLimiter s sp cl n 1 = (true, s2) →
    (hdrBUB tok.hdr = false → hdrTAG tok.hdr = 0 → st.hold = [] → m = hdrLN tok.hdr → m ≤ 8 →
      vas = (List.range m).map (fun i => (scbBASE st + 4 * (laneOf tok i).toNat) % 2 ^ 52 / 4 * 4) →
      engWords s cl st.asid 1 (getPort s cl n).wf vas = .ok pas → GranulesMatch vas pas → (∀ p ∈ pas, paBad s p 4 = false) →
      Does (.feedToken cl n) s (fun t => FedOne l t sp (portEnd rel n) (fun k => (∀ i, i < m → laneOf k i = seenWord s cl (pas.getD i 0)) ∧
          hdrLN k.hdr = m ∧ hdrLR k.hdr = hdrLR tok.hdr ∧ hdrLS k.hdr = hdrLS tok.hdr ∧ hdrBUB k.hdr = false ∧ hdrTAG k.hdr = 0 ∧
          hdrFMT k.hdr = scbFMT st) ∧
        (∃ h, (getPort t cl n).q = { st with done := st.done + m, hold := h, fin := hdrLS tok.hdr } :: q) ∧
        (hdrLS tok.hdr = false → (getCtx t cl (scbGCTX st.words)).out = rest))) ∧
    (hdrBUB tok.hdr = true ∨ hdrTAG tok.hdr ≠ 0 → Does (.feedToken cl n) s (fun t =>
      FedOne l t sp (portEnd rel n) (fun k => k.lanes = tok.lanes ∧ hdrLN k.hdr = hdrLN tok.hdr ∧ hdrLR k.hdr = hdrLR tok.hdr ∧
        hdrLS k.hdr = hdrLS tok.hdr ∧ hdrBUB k.hdr = hdrBUB tok.hdr ∧ hdrTAG k.hdr = hdrTAG tok.hdr ∧ hdrFMT k.hdr = hdrFMT tok.hdr) ∧
      (getPort t cl n).q = { st with fin := hdrLS tok.hdr } :: q))

/-- R292: a source line of a fill, read once, is written to a named tile, its granules full. -/
def LineDeliveries : Prop :=
  ∀ (s : State) (sp idx cl line pa n : Nat) (x : Span) (l : Load) (m : Mcast), s.memOk → getSpan s sp = some x → x.load = some l →
    amGet l.mcasts idx = some m → spanActive x = true → loadActive l = true → (line, cl) ∈ m.owed → amGet m.data line = none →
    n = (mcHi m.src m.len line - mcLo m.src line) / 4 → pa % 4 = 0 → 0 < n → n ≤ 16 →
    engWords s m.cl m.asid 1 m.wf (wordsFrom (mcLo m.src line) n) = .ok ((List.range n).map (fun i => pa + 4 * i)) →
    Does (.multicastDelivery sp idx cl line) s (fun t => (∀ a, t.seen m.cl a = s.seen m.cl a) ∧
      (∀ i, i < 4 * (n / 4) → tileWord (getTile t cl m.mt) (m.doff + (mcLo m.src line - m.src) + 4 * i) = seenWord s m.cl (pa + 4 * i)) ∧
      (∀ i, i < n / 4 → granFull (getTile t cl m.mt) ((m.doff + (mcLo m.src line - m.src) + 16 * i) / 16) = true) ∧
      ∀ m', (getLoad t sp).bind (fun l => amGet l.mcasts idx) = some m' → (line, cl) ∉ m'.owed)

/-- R375: of the walks of a die, the 16 that arrived first are served, and another does not end; one that ends with a leaf puts it
in the cluster's cache, and one that faults reports the fault to the group that waits. -/
def WalkEnds : Prop :=
  ∀ (s : State) (cl idx : Nat) (r : WalkReq) (g : Nat), (getCl s cl).walks[idx]? = some r → r.who = .group g → g < 4 → (getGrp s cl g).st = .waiting .walk →
    (16 ≤ walksBefore s (dieOf cl) r.ord → exec (.walk cl idx) s = .next s) ∧ (walksBefore s (dieOf cl) r.ord < 16 →
    (∀ e, walkTables s (partOfCl s cl) (getCl s cl).core.ptbr r.asid r.va = .leaf e → permits e r.need = true → (getCl s cl).tcache.length < 256 →
      (∀ q ∈ (getCl s cl).walks.eraseIdx idx, q.who ≠ .group g) → Does (.walk cl idx) s (fun t => (getCl t cl).tcache = (getCl s cl).tcache ++ [e] ∧
        (getCl t cl).walks = (getCl s cl).walks.eraseIdx idx ∧ (getGrp t cl g).st = .ready ∧ (getGrp t cl g).pc = (getGrp s cl g).pc ∧ t.mem = s.mem)) ∧
    (∀ c, walkTables s (partOfCl s cl) (getCl s cl).core.ptbr r.asid r.va = .fault c → bitAt 0 (getGrp s cl g).status = false →
      Does (.walk cl idx) s (fun t => (getCl t cl).tcache = (getCl s cl).tcache ∧ (getGrp t cl g).epc = (getGrp s cl g).pc.setWidth 64 ∧
        (getGrp t cl g).cause = BitVec.ofNat 64 (c % 256) ∧ (getGrp t cl g).tval = BitVec.ofNat 64 r.va ∧ bitAt 0 (getGrp t cl g).status = true)))

/-- R166, R198: a Ready group rises by one class for every 2^16 cycles in which it has not issued, up to 3; when the group SY.FGRP is
the one that its core issues next, in user mode or with IE = 1, it takes the oldest queued event in place of its instruction: the
event enters the group's trap, with that instruction's address in SY.EPC, and this is the core's issue of the cycle. When the core
has issued already, or issues another group, no event is taken. -/
def AgingAndEvents : Prop :=
  ∀ (s : State) (cl : Nat),
    (∀ g, g < 4 → (getGrp s cl g).st = .ready → (getGrp s cl g).since + 2 ^ 16 ≤ now s cl → max (getGrp s cl g).aged (getGrp s cl g).base < 3 →
      Does (.aging cl g) s (fun t => max (getGrp t cl g).aged (getGrp t cl g).base =
          min 3 (max (getGrp s cl g).aged (getGrp s cl g).base + (now s cl - (getGrp s cl g).since) / 2 ^ 16) ∧
        (getGrp t cl g).pc = (getGrp s cl g).pc ∧ (getGrp t cl g).x = (getGrp s cl g).x)) ∧
    ((nextGroup s cl).2 ≠ some (getCl s cl).core.fgrp → exec (.eventTaken cl) s = .next s) ∧
    (∀ g r rest, g = (getCl s cl).core.fgrp → g < 4 → (getCl s cl).core.events = r :: rest → (getGrp s cl g).st = .ready →
      (nextGroup s cl).2 = some g → bitAt 0 (getGrp s cl g).status = false ∨ bitAt 2 (getGrp s cl g).status = true → Does (.eventTaken cl) s (fun t =>
        (getGrp t cl g).epc = (getGrp s cl g).pc.setWidth 64 ∧ (getGrp t cl g).tval = BitVec.ofNat 64 r.tval ∧
        bitAt 0 (getGrp t cl g).status = true ∧ bitAt 2 (getGrp t cl g).status = false ∧
        (getGrp t cl g).pc = BitVec.ofNat 52 ((getCl s cl).core.tvec.toNat / 4 * 4) ∧
        (getCl t cl).core.events = rest ++ (getCl s cl).core.held.take 1 ∧ (getGrp t cl g).x = (getGrp s cl g).x ∧ hasIssued t cl = true))

end Sys2Proof.Claims

/-! The hub: host accesses, queues and the dispatcher, partitions, slices, invalidation, pre-emption (R296, R354 to R398). -/

namespace Sys2Proof.Claims

open Sys2Proof Sys2Proof.Machine

/-- R228, R354, R355, R297, R407: a host write leaves its bytes, which the host then reads, drops every die's copy of its lines and
changes no other byte but what its granules held unseen by the package; a read is answered with the bytes the host sees. An
exclusive coherence request drops the copies of a line, a shared one changes nothing. The model's choices (log 47): an address
that no HDM decoder holds is the host's own memory; in Locked device memory reads 0 and takes no write; a coherence request of a
line of device memory is served like one of a host line; an access or a request of an address that does not exist, at or above
6 TiB and not of the host's memory, ends the step with the fault noSuchAddress. -/
def HostMemory : Prop :=
  ∀ (s : State) (a pa n m line : Nat) (data d : List Byte), 0 < n → data.length = n → (∀ k, k < n → hostPA s.hub (a + k) = pa + k) →
    (s.hub.boot ≠ .locked ∨ 2 ^ 51 ≤ pa → paExists pa = true → paExists (pa + n - 1) = true → pa / 2 ^ 51 = (pa + n - 1) / 2 ^ 51 →
      Does (.hostAccess a m .write data) s (fun t => (∀ k, k < n → t.byte (pa + k) = data.getD k 0#8 ∧ t.hostByte (pa + k) = data.getD k 0#8) ∧
        (s.memOk → ∀ b, b < pa ∨ pa + n ≤ b → (∀ x ∈ s.near, x.pa / 16 ≠ b / 16) → t.byte b = s.byte b) ∧ ∀ k, k < n → amGet t.dir ((pa + k) / 64) = none) ∧
      Does (.hostAccess a n .read d) s (fun t => t.hub.responses = s.hub.responses ++ [hostBytes s pa n] ∧ t.mem = s.mem ∧ t.dir = s.dir)) ∧
    (s.hub.boot = .locked → pa + n ≤ 6 * 2 ^ 40 → exec (.hostAccess a m .write data) s = .next s ∧
      Does (.hostAccess a n .read d) s (fun t => t.hub.responses = s.hub.responses ++ [List.replicate n 0#8])) ∧
    (6 * 2 ^ 40 ≤ pa → pa < 2 ^ 51 → exec (.hostAccess a n .read d) s = .fault (.noSuchAddress a) ∧
      exec (.hostAccess a m .write data) s = .fault (.noSuchAddress a)) ∧
    ((∀ d ∈ amVals s.hub.hdm, a < d.base ∨ d.base + d.size ≤ a) → hostPA s.hub a = 2 ^ 51 + a) ∧
    (64 * line < 6 * 2 ^ 40 ∨ line / 2 ^ 45 = 1 → Does (.hostCoherenceRequest line true) s (fun t => amGet t.dir line = none ∧ t.mem = s.mem) ∧
      exec (.hostCoherenceRequest line false) s = .next s) ∧
    (∀ e, 6 * 2 ^ 40 ≤ 64 * line → line / 2 ^ 45 ≠ 1 → exec (.hostCoherenceRequest line e) s = .fault (.noSuchAddress (64 * line)))

/-- R354: of the 16 HDM decoders, of 256 MiB granularity, one that meets no other and whose device addresses exist maps its host
addresses to device memory. -/
def HostDecoders : Prop :=
  ∀ (s : State) (i base size dpa a : Nat) (data : List Byte), s.hub.boot ≠ .locked → i < 16 → base % 2 ^ 28 = 0 → size % 2 ^ 28 = 0 → dpa % 2 ^ 28 = 0 →
    0 < size → base + size ≤ 2 ^ 51 → dpa + size ≤ 6 * 2 ^ 40 →
    (∀ e ∈ s.hub.hdm.entries, e.1 = i ∨ e.2.base + e.2.size ≤ base ∨ base + size ≤ e.2.base) →
    Does (.hostAccess base size (.decoder i dpa) data) s (fun t => amGet t.hub.hdm i = some ⟨base, size, dpa⟩ ∧ t.mem = s.mem ∧
      ((∀ e ∈ s.hub.hdm.entries, e.1 ≠ i) → base ≤ a → a < base + size → hostPA t.hub a = dpa + (a - base)))

/-- A host read of a register is answered with a value, and changes nothing else. -/
def RegisterReads (s : State) (fn off v : Nat) : Prop := ∀ data, exec (.hostAccess fn off .register data) s = .next (respond s (bytesOf 8 v))
/-- R2, R357, R363, R406, R407, R421, R422: what a host read of a register returns: BSTAT in every state, and in Locked 0 for all
else; PSTAT, QERR with QHEAD, a link's status, a die counter; 0 where the offset is no register (the two zeros are log 47's). -/
def HostRegisters : Prop :=
  ∀ s : State,
    (∀ b ∈ [(Boot.reset, 0), (.verifying, 1), (.die0, 2), (.full, 3), (.locked, 15)], s.hub.boot = b.1 →
      RegisterReads s 0 0 (b.2 * 2 ^ 60 + s.hub.dtrn % 4096 * 2 ^ 48 + s.hub.svn % 256 * 2 ^ 32 + s.hub.berr % 256 * 2 ^ 8)) ∧
    (∀ fn off, s.hub.boot = .locked → fn ≠ 0 ∨ off ≠ 0 → RegisterReads s fn off 0) ∧
    (∀ p k, s.hub.boot ≠ .locked → p < 16 → k < 32 →
      RegisterReads s 0 (0x10410 + 4096 * p)
        ((getPart s p).perr % 16 * 2 ^ 60 + ((List.range 12).map (fun d => if residentOn s p d then 2 ^ d else 0)).sum) ∧
      RegisterReads s (p + 1) (256 * k + 0x20) ((if (getQueue s p k).qerr then 2 ^ 63 else 0) + (getQueue s p k).qhead % 65536)) ∧
    (∀ l d k, s.hub.boot ≠ .locked → l < 48 → d < 12 → k < 32 →
      RegisterReads s 0 (0x2000 + 8 * l) ((linkOf s.hub l).st * 2 ^ 62 + (linkOf s.hub l).lanes * 2 ^ 58 +
        (if (linkOf s.hub l).fdn then 2 ^ 57 else 0) + (linkOf s.hub l).rpl.toNat) ∧
      RegisterReads s 0 (0x4008 + 512 * d + 16 * k) (dieCounter s d k).val.toNat) ∧
    (∀ fn off, s.hub.boot ≠ .locked → off % 8 ≠ 0 ∨ 16 < fn → RegisterReads s fn off 0)

/-- R363, R364, R410: enabling a queue whose configuration obeys the rules stores it; one that does not sets QERR and leaves EN
clear; a doorbell of an enabled partition stores QTAIL, and stops the queue with QERR where it marks more records than the ring
holds, whether or not EN is set. -/
def QueueRegisters : Prop :=
  ∀ (s : State) (vf q : Nat) (v : W64), 1 ≤ vf → vf ≤ 16 → q < 32 → regsLive s.hub = true →
    (qcfgOk (getPart s (vf - 1)) (getQueue s (vf - 1) q) v = true → Does (.queueEnable vf q v) s (fun t =>
      (getQueue t (vf - 1) q).qcfg = qcfgMask v ∧ (getQueue t (vf - 1) q).qerr = (getQueue s (vf - 1) q).qerr)) ∧
    (bitAt 63 v = true → qcfgOk (getPart s (vf - 1)) (getQueue s (vf - 1) q) v = false → Does (.queueEnable vf q v) s (fun t =>
      bitAt 63 (getQueue t (vf - 1) q).qcfg = false ∧ (getQueue t (vf - 1) q).qerr = true)) ∧
    (bitAt 0 (getPart s (vf - 1)).pctl = true → s.hub.boot ≠ .die0 ∨ vf = 1 → Does (.doorbell vf q v) s (fun t =>
      (getQueue t (vf - 1) q).qtail = BitVec.ofNat 64 (v.toNat % 65536) ∧
      (2 ^ qLOGN (getQueue s (vf - 1) q) < (v.toNat % 65536 + 65536 - (getQueue s (vf - 1) q).qhead) % 65536 →
        (getQueue t (vf - 1) q).qerr = true ∧ qEN (getQueue t (vf - 1) q) = false) ∧
      ((v.toNat % 65536 + 65536 - (getQueue s (vf - 1) q).qhead) % 65536 ≤ 2 ^ qLOGN (getQueue s (vf - 1) q) →
        (getQueue t (vf - 1) q).qerr = (getQueue s (vf - 1) q).qerr ∧ (getQueue t (vf - 1) q).qcfg = (getQueue s (vf - 1) q).qcfg))) ∧
    (bitAt 0 (getPart s (vf - 1)).pctl = false → exec (.doorbell vf q v) s = .next s)

/-- R164, R361, R367: at a partition's turn the dispatcher's first record, when it is sound and fits a free place that no other
head has reserved, starts on it: group 0 of the lead core is Ready at ENTRY with PARAM in x1 and USER in x2. -/
def DispatcherStarts : Prop :=
  ∀ (s s2 s3 : State) (part : Nat) (c : Cand) (more : List Cand) (lead : Nat) (rest : List Nat), inService s.hub = true → turnOf s.hub = some part →
    s2 = failUnreadable (modHub s (fun h => { h with lastPart := part })) part → sortCands (candidates s2 part) = c :: more → c.ok = true →
    s3 = modPart s2 part (fun P => { P with reserved := liveReserved P ((c :: more).map (·.key)) }) →
    fitsSomewhere (getPart s3 part) c.rcd.shape c.rcd.dw c.rcd.dh = true → findPlace s3 (getPart s3 part) c.key c.rcd = some (lead :: rest) →
    (c.queue = none → poolHead (getPart s2 part) ≠ none) →
    Does (.dispatch part) s (fun t => t.hub.lastPart = part ∧
      (∃ y, getSpan t lead = some y ∧ y.part = part ∧ y.clusters = lead :: rest ∧ y.phase = .running ∧ y.load = none) ∧
      (getGrp t lead 0).st = .ready ∧ (getGrp t lead 0).pc = BitVec.ofNat 52 (c.rcd.entry / 4 * 4) ∧ (getGrp t lead 0).status = 0#64 ∧
      xget (getGrp t lead 0) 1#5 = c.rcd.param ∧ xget (getGrp t lead 0) 2#5 = c.rcd.user ∧
      ∀ r : BitVec 5, 4 ≤ r.toNat → xget (getGrp t lead 0) r = 0#64)
/-- R186, R197: an exiting group whose loads and collectives are done becomes Idle. -/
def ChildrenExit : Prop :=
  ∀ (s : State) (cl g : Nat) (v : W64), g < 4 → (getGrp s cl g).st = .waiting (.exit v) → exitReady s cl g = true →
    (∀ p, spanAt s cl = some p → p.2.phase = .running) →
    Does (.childExit cl g) s (fun t => (getGrp t cl g).st = .idle ∧ (getGrp t cl g).stores = [] ∧ (getGrp t cl g).launchKey = none)

/-- R357 to R360, R410: PCTL with reserved bits is refused with ERR 4, and so is EN of another partition than 0 in Die-0 service;
clearing HOLD of a die with a slice that is not yet Clean is refused with ERR 6, and of a die on which the partition would own
quads and no slice (K = 0) with ERR 4 (log 46); else PCTL takes the value. A PSLC write that
obeys the rules makes the added slices Owned and the removed ones Dirty, and writes back and invalidates the lines of those it
keeps; a flush of a Dirty slice ends with it Clean and without lines. -/
def PartitionControl : Prop :=
  ∀ (s : State) (p d word : Nat) (v : W64), p < 16 → d < 12 → word < 3 → regsLive s.hub = true →
    (field 63 28 v ≠ 0 ∨ field 15 1 v ≠ 0 ∨ (s.hub.boot = .die0 ∧ bitAt 0 v = true ∧ p ≠ 0) →
      Does (.pctlWrite p v) s (fun t => (getPart t p).pctl = (getPart s p).pctl ∧ (getPart t p).perr = 4)) ∧
    (field 63 28 v = 0 → field 15 1 v = 0 → (s.hub.boot = .die0 → bitAt 0 v = true → p = 0) →
      ((∃ k i, k < 12 ∧ i < 192 ∧ bitAt (16 + k) (getPart s p).pctl = true ∧ bitAt (16 + k) v = false ∧
          (sliceSt s.hub k i = .dirty p ∨ sliceSt s.hub k i = .flushing p)) →
        Does (.pctlWrite p v) s (fun t => (getPart t p).pctl = (getPart s p).pctl ∧ (getPart t p).perr = 6)) ∧
      ((∀ k, k < 12 → bitAt (16 + k) (getPart s p).pctl = true → bitAt (16 + k) v = false →
          (∀ i, i < 192 → sliceSt s.hub k i ≠ .dirty p ∧ sliceSt s.hub k i ≠ .flushing p) ∧
          (amGetD (getPart s p).pqmsk k 0#64 = 0#64 ∨ slicesOf (getPart s p) k ≠ [])) →
        Does (.pctlWrite p v) s (fun t => (getPart t p).pctl = v ∧ ∀ q, q ≠ p → getPart t q = getPart s q)) ∧
      ((∀ k i, k < 12 → i < 192 → sliceSt s.hub k i ≠ .dirty p ∧ sliceSt s.hub k i ≠ .flushing p) →
        (∃ k, k < 12 ∧ bitAt (16 + k) (getPart s p).pctl = true ∧ bitAt (16 + k) v = false ∧ amGetD (getPart s p).pqmsk k 0#64 ≠ 0#64 ∧
          slicesOf (getPart s p) k = []) →
        Does (.pctlWrite p v) s (fun t => (getPart t p).pctl = (getPart s p).pctl ∧ (getPart t p).perr = 4))) ∧
    (∀ old, old = amGetD (getPart s p).pslc (4 * d + word) 0#64 → trained s.hub d = true → heldFree s p d = true →
      othersHold s p (·.pslc) (4 * d + word) (v &&& ~~~old) = false → (∀ i, i < 64 → bitAt i v = true → bitAt i old = false → sliceSt s.hub d (64 * word + i) = .clean) →
      amGetD s.hub.xslc (4 * d + word) 0#64 &&& (v &&& ~~~old) = 0#64 → amGetD (getPart s p).pqmsk d 0#64 = 0#64 ∨ v ≠ 0#64 →
      Does (.pslcWrite p d word v) s (fun t => amGetD (getPart t p).pslc (4 * d + word) 0#64 = v ∧ t.mem = s.mem ∧
        (∀ i, i < 64 → sliceSt t.hub d (64 * word + i) = if bitAt i v = true ∧ bitAt i old = false then .owned p
          else if bitAt i v = false ∧ bitAt i old = true then .dirty p else sliceSt s.hub d (64 * word + i)) ∧
        ∀ line i, i ∈ slicesOf (getPart s p) d → i ∈ slicesOf (getPart t p) d → (amGetD t.dir line 0).testBit (192 * d + i) = false)) ∧
    (heldFree s p d = false → trained s.hub d = true → Does (.pslcWrite p d word v) s (fun t => (getPart t p).perr = 3 ∧ (getPart t p).pslc = (getPart s p).pslc)) ∧
    (∀ q, slcGO s.hub d = false → bitAt 63 v = true → v.toNat % 256 < 192 → sliceSt s.hub d (v.toNat % 256) = .dirty q →
      Does (.sliceFlush d v) s (fun t => sliceSt t.hub d (v.toNat % 256) = .flushing q ∧ slcGO t.hub d = true ∧
        Does (.flushDone d) t (fun u => sliceSt u.hub d (v.toNat % 256) = .clean ∧ slcGO u.hub d = false ∧ u.mem = s.mem ∧
          ∀ line, (amGetD u.dir line 0).testBit (192 * d + v.toNat % 256) = false)))

/-- R357, R361, R425, R383, R421, R378, R2: a window, an ASID range that meets no other (both also without HOLD, which is log 46), RSTA
and an exclusion are stored; PIACK clears
the partition interrupt and SY.ESC of every core of the partition; DCSEL selects a source and clears the counter, but in the
cycle in which a CNT has set it; a register without behaviour stores its fields and ignores reserved bits, and INVA and INVN
ignore a write while GO reads 1. -/
def PartitionRegisters : Prop :=
  ∀ (s : State) (p d n : Nat) (v : W64), p < 16 → d < 12 → n < 16 → regsLive s.hub = true →
    (field 63 52 v = 0 → field 29 1 v = 0 → Does (.partitionBlockWrite p (0x300 + 16 * n) v) s (fun t => amGetD (getPart t p).wbase n 0#64 = v)) ∧
    (field 63 32 v = 0 → field 15 0 v + field 31 16 v ≤ 65536 → (∀ q, q < 16 → q ≠ p → ∀ a, asidOwned (getPart s q) a = true →
        a < field 15 0 v ∨ field 15 0 v + field 31 16 v ≤ a) → field 31 16 v ≠ 0 →
      Does (.partitionBlockWrite p 0x400 v) s (fun t => (getPart t p).asid = v ∧ ∀ a, asidOwned (getPart t p) a = true ↔
        field 15 0 v ≤ a ∧ a < field 15 0 v + field 31 16 v)) ∧
    Does (.exclusionWrite (0x500 + 8 * d) v) s (fun t => amGetD t.hub.xqmsk d 0#64 = (amGetD s.hub.xqmsk d 0#64 ||| v)) ∧
    (bitAt 0 v = true → Does (.partitionInterruptAck (p + 1) v) s (fun t => (getPart t p).intr = false ∧
      ∀ c, ownsCl (getPart s p) c = true ∨ (∃ l x, (getCl s c).span = some l ∧ getSpan s l = some x ∧ x.part = p) → (getCl t c).core.esc = false)) ∧
    (sourceOk true (field 15 0 v) = true →
      ((dieCounter s d (2 * n)).setAt ≠ some (cycleOf s d) →
        Does (.dcselWrite d (2 * n) v) s (fun t => (dieCounter t d (2 * n)).src = field 15 0 v ∧ (dieCounter t d (2 * n)).val = 0#64)) ∧
      ((dieCounter s d (2 * n)).setAt = some (cycleOf s d) → exec (.dcselWrite d (2 * n) v) s = .next s)) ∧
    Does (.registerWrite 0 (0x10000 + 4096 * p + 0x438) v) s (fun t => (getPart t p).cptbr = v &&& 0xFFFFFFFFFF000#64) ∧
    Does (.registerWrite 0 (0x10000 + 4096 * p + 0x418) v) s (fun t => (getPart t p).rsta = BitVec.ofNat 64 (v.toNat % 2 ^ 52) ∧
      (s.hub.boot ≠ .locked → RegisterReads t 0 (0x10418 + 4096 * p) (v.toNat % 2 ^ 52))) ∧
    Does (.registerWrite 0 0x408 v) s (fun t => t.hub.pra = BitVec.ofNat 64 (v.toNat % 2 ^ 52)) ∧
    Does (.registerWrite 0 0x200 v) s (fun t => t.hub.inva = if s.hub.invGo then s.hub.inva else BitVec.ofNat 64 (v.toNat % 2 ^ 52)) ∧
    Does (.registerWrite (p + 1) (256 * n) v) s (fun t => (getQueue t p n).qbase = BitVec.ofNat 64 (v.toNat % 2 ^ 52))

/-- R376, R378, R380, R404: GO starts an invalidation of a length other than 0; the agent removes every cached translation of the
ASID that the range overlaps and marks the accesses that used one, whether or not the cache still held it (log 74), stores among
them that only a part of the package sees; it acknowledges its oldest invalidation once no marked access and no walk in progress of
the ASID remains, and the group that asked, unless it is gone, goes on. -/
def Invalidations : Prop :=
  ∀ (s : State) (v : W64) (r : Inval) (rest : List Inval),
    (regsLive s.hub = true → s.hub.invGo = false → bitAt 63 v = true → field 51 0 s.hub.invn ≠ 0 → Does (.invalidation v) s (fun t => t.hub.invGo = true ∧
      t.hub.invals = s.hub.invals ++ [⟨field 15 0 v, field 51 0 s.hub.inva, field 51 0 s.hub.invn, none, false, [], false⟩])) ∧
    (s.hub.invGo = true → exec (.invalidation v) s = .next s) ∧
    (s.hub.invals = r :: rest → r.removed = false → Does .invalidationAck s (fun t =>
      t.mem = s.mem ∧ (∀ a k, t.seen a k = s.seen a k) ∧
      (∀ c e, e ∈ (getCl t c).tcache → e ∈ (getCl s c).tcache ∧ (e.asid = r.asid → e.va + e.size ≤ r.lo ∨ r.lo + r.n ≤ e.va)) ∧
      (∀ c e, e ∈ (getCl s c).tcache → e.asid ≠ r.asid → e ∈ (getCl t c).tcache) ∧
      (∀ c g k, g < 4 → k ∈ (getGrp t c g).stores → k.via.asid = r.asid → k.via.va < r.lo + r.n → r.lo < k.via.va + k.via.size → k.via.stale = true) ∧
      (∀ c el q a, q ∈ (getEl t c el).rq → a ∈ q.accs → a.via.asid = r.asid → a.via.va < r.lo + r.n → r.lo < a.via.va + a.via.size → a.via.stale = true) ∧
      (∀ n ∈ t.near, n.via.asid = r.asid → n.via.va < r.lo + r.n → r.lo < n.via.va + n.via.size → n.via.stale = true) ∧
      ∃ r', t.hub.invals = r' :: rest ∧ r'.removed = true ∧ r'.asid = r.asid ∧ r'.who = r.who ∧ r'.dropped = r.dropped)) ∧
    (s.hub.invals = r :: rest → r.removed = true → (∃ n ∈ s.near, n.via.stale = true) → exec .invalidationAck s = .next s) ∧
    (s.hub.invals = r :: rest → r.removed = true → invalSettled s r = false → exec .invalidationAck s = .next s) ∧
    (s.hub.invals = r :: rest → r.removed = true → invalSettled s r = true → r.dropped = true →
      Does .invalidationAck s (fun t => t.hub.invals = rest ∧ t.hub.invGo = s.hub.invGo ∧ t.clusters = s.clusters)) ∧
    (s.hub.invals = r :: rest → r.removed = true → invalSettled s r = true → r.dropped = false → r.who = none →
      Does .invalidationAck s (fun t => t.hub.invals = rest ∧ t.hub.invGo = false ∧ t.clusters = s.clusters)) ∧
    (∀ cl g, s.hub.invals = r :: rest → r.removed = true → invalSettled s r = true → r.dropped = false → r.who = some (cl, g) → g < 4 → (getGrp s cl g).st = .waiting .invr →
      Does .invalidationAck s (fun t => t.hub.invals = rest ∧ (getGrp t cl g).st = .ready ∧ (getGrp t cl g).pc = (getGrp s cl g).pc + 4#52))

/-- R202, R390 to R392, R398: FREEZE sets a Running span Freezing; SAVE of a Frozen span sets it Saving and writes the area's header,
its CRC still 0 (log 11); THAW sets a Frozen span Running and its groups go on, one that waited at a BAR with that BAR once more. A
command on no such span sets ERR 1 (log 45). -/
def Preemption : Prop :=
  ∀ (s : State) (v : W64) (x : Span), regsLive s.hub = true → s.hub.preGo = false → bitAt 63 v = true → field 55 12 v = 0 →
    getSpan s (preLEAD v) = some x → x.part = prePART v →
    (preOP v = 1 → x.phase = .running → Does (.spanFreeze v) s (fun t => t.hub.preGo = true ∧ t.clusters = s.clusters ∧
      ∃ y, getSpan t (preLEAD v) = some y ∧ y.phase = .freezing ∧ y.clusters = x.clusters)) ∧
    (preOP v = 1 → x.phase ≠ .running → Does (.spanFreeze v) s (fun t => t.hub.preErr = 1 ∧ t.hub.preGo = false ∧ t.spans = s.spans)) ∧
    (preOP v = 2 → x.phase = .frozen → field 51 0 s.hub.pra % 4096 = 0 → field 51 0 s.hub.pra + 4096 + x.clusters.length * areaCSZ ≤ 6 * 2 ^ 40 →
      Does (.spanSave v) s (fun t => t.hub.preGo = true ∧ readPAn t (field 51 0 s.hub.pra) 4 = areaMagic ∧ readPAn t (field 51 0 s.hub.pra + 20) 4 = 0 ∧
        ∃ y, getSpan t (preLEAD v) = some y ∧ y.phase = .saving ∧ y.saveArea = field 51 0 s.hub.pra)) ∧
    (preOP v = 4 → x.phase = .frozen → Does (.spanThaw v) s (fun t => t.hub.preGo = false ∧ (∃ y, getSpan t (preLEAD v) = some y ∧ y.phase = .running) ∧
      ∀ c ∈ x.clusters, x.clusters.Nodup → ∀ g, g < 4 →
        (getGrp s c g).st = .frozen none ∨ (∃ k i, (getGrp s c g).st = .frozen (some (.barrier k i))) →
        (getGrp t c g).st = .ready ∧ (getGrp t c g).x = (getGrp s c g).x ∧ (getGrp t c g).pc = (getGrp s c g).pc)) ∧
    (preOP v = 4 → x.phase ≠ .frozen → Does (.spanThaw v) s (fun t => t.hub.preErr = 1 ∧ t.hub.preGo = false ∧ t.spans = s.spans))
/-- R202, R391, R392, R394: what ends a freeze and a save by the PF. With a freeze the stores that the span's groups have issued are
performed, at package scope (log 6): memory then holds what each cluster saw with them, and the layout table, where the load
has one, with its block numbers (R249). -/
def PreemptionEnds : Prop :=
  ∀ (s : State) (sp : Nat) (x : Span), getSpan s sp = some x →
    (x.phase = .freezing → (∀ c ∈ x.clusters, clusterHalted (spanNow s sp) (getCl s c) = true) → Does (.freezeComplete sp) s (fun t => t.hub.preGo = false ∧
      (∃ y, getSpan t sp = some y ∧ y.phase = .frozen) ∧
      (∀ c ∈ x.clusters, ∀ g, g < 4 → (getGrp t c g).stores = [] ∧ (getGrp t c g).x = (getGrp s c g).x ∧ (getGrp t c g).pc = (getGrp s c g).pc ∧
        ((getGrp s c g).st = .ready → (getGrp t c g).st = .frozen none)) ∧
      (x.clusters.Nodup → ∀ u, u = writeTable (x.clusters.foldl (fun s c => flushCore s c) s) sp → t.mem = u.mem ∧ t.near = u.near ∧ t.lag = u.lag))) ∧
    (∀ c a, s.memOk → NoneHidden s c a → (flushCore s c).byte a =
      seenByte s c ((getGrp s c 0).stores ++ (getGrp s c 1).stores ++ (getGrp s c 2).stores ++ (getGrp s c 3).stores) a) ∧
    (∀ c a, s.memOk → (∀ y ∈ s.near, y.pa / 16 ≠ a / 16) →
      (∀ g q, g < 4 → q ∈ (getGrp s c g).stores → ¬(q.pa ≤ a ∧ a < q.pa + q.bytes.length)) → (flushCore s c).byte a = s.byte a) ∧
    (x.phase = .freezing → (∃ c ∈ x.clusters, clusterHalted (spanNow s sp) (getCl s c) = false) → exec (.freezeComplete sp) s = .next s) ∧
    (x.phase = .saving → x.saveBy = none → spanSettled s x = true → Does (.saveDone sp) s (fun t => getSpan t sp = none ∧ t.hub.preGo = false ∧
      (∀ c ∈ x.clusters, (getCl t c).span = none) ∧ (∃ w ∈ t.hub.saves, w.span = x ∧ w.records = x.clusters.map (getCl s)) ∧
      readPAn t x.saveArea 4 = areaMagic)) ∧
    (x.phase = .saving → spanSettled s x = false → exec (.saveDone sp) s = .next s)
/-- R396, R369: RESTORE of an area that passes the checks, its tokens among them (R80), makes the span Frozen on the free clusters asked
for, and of one with a token that fails is refused with ERR 2; a VF reset leaves the partition no queue enabled, every QHEAD and
QTAIL 0, no launch, no collective and no span, and its transactions are pending until the reset record is written. The two events
of a reset, the record that is owed between them and the end of Saved spans are log 48; that the host then sees everything as the
package does is log 6. -/
def RestoreAndReset : Prop :=
  ∀ (s : State) (v : W64) (vf : Nat),
    (∀ hdr body w cls rest k, regsLive s.hub = true → s.hub.preGo = false → bitAt 63 v = true → field 55 12 v = 0 → preOP v = 3 →
      field 51 0 s.hub.pra % 4096 = 0 → hdr = readPA s (field 51 0 s.hub.pra) 4096 → spanHdrOk hdr = true →
      field 51 0 s.hub.pra + 4096 + hdrNCL hdr * areaCSZ ≤ 6 * 2 ^ 40 → body = readPA s (field 51 0 s.hub.pra + 4096) (hdrNCL hdr * areaCSZ) →
      crcOk hdr body = true → hdrPART hdr = prePART v → s.hub.saves.find? (savedAs body) = some w →
      k < placeCount (hdrSPAN hdr) → placeOf (hdrSPAN hdr) (hdrDW hdr) (hdrDH hdr) k = some (preLEAD v :: rest) → cls = preLEAD v :: rest →
      (∀ j, j < k → ∀ c, placeOf (hdrSPAN hdr) (hdrDW hdr) (hdrDH hdr) j = some c → c.head? ≠ some (preLEAD v)) →
      (restoredOk w body = false → Does (.spanRestore v) s (fun t => t.hub.preGo = false ∧ t.hub.preErr = 2 ∧ t.spans = s.spans ∧ t.mem = s.mem)) ∧
      (restoredOk w body = true → freeAll s cls = true → ownedAll (getPart s (prePART v)) cls = true → cls.length = w.records.length →
        Does (.spanRestore v) s (fun t => t.hub.preGo = false ∧ t.mem = s.mem ∧ (∃ y, getSpan t (preLEAD v) = some y ∧ y.phase = .frozen ∧ y.clusters = cls ∧
          y.part = w.span.part) ∧ (getCl t (preLEAD v)).span = some (preLEAD v)))) ∧
    (1 ≤ vf → vf ≤ 16 → (getPart s (vf - 1)).owed = none → Does (.vfReset vf) s (fun t => (getPart t (vf - 1)).owed ≠ none ∧
      (getPart t (vf - 1)).pool = [] ∧ (getPart t (vf - 1)).spill = [] ∧ (getPart t (vf - 1)).reserved = [] ∧
      (∀ q, qEN (getQueue t (vf - 1) q) = false ∧ (getQueue t (vf - 1) q).qhead = 0 ∧ (getQueue t (vf - 1) q).qtail = 0#64) ∧
      (∀ c ∈ amVals t.hub.colls, c.part ≠ vf - 1) ∧ (∀ c ∈ amVals t.hub.served, c.part ≠ vf - 1) ∧ (∀ w ∈ t.hub.saves, w.span.part ≠ vf - 1) ∧
      ∀ p ∈ t.spans.entries, p.2.part ≠ vf - 1)) ∧
    (∀ bs, 1 ≤ vf → vf ≤ 16 → (getPart s (vf - 1)).owed = some bs → Does (.vfReset vf) s (fun t => (getPart t (vf - 1)).owed = none ∧
      readPA t (field 51 6 (getPart s (vf - 1)).rsta * 64) bs.length = bs ∧ t.lag = [] ∧ t.spans = s.spans ∧ t.clusters = s.clusters))

end Sys2Proof.Claims

/-! The Geyser, collectives, bring-up, reliability, power (R321 to R335, R406 to R428). -/

namespace Sys2Proof.Claims

open Sys2Proof Sys2Proof.Machine

/-- The interval in which a group gathers the updates of its next epoch is over: 20 µs from the first of them, 30,000 cycles of
the hub die (log 49). -/
def IntervalOver (s : State) (G : CGroup) : Prop := (G.updates ≠ [] ∨ G.trial ≠ none) ∧ G.firstAt + 30000 < hubNow s

/-- R410, R423, R324: at the end of a window of 2^24 cycles, by the hub die's counter (log 5), the judgement leaves a link down,
degraded or up from FDN, training, lanes and replayed flits, once a window; in no state but Full service is one up; a change is
gathered in every enabled group that has the link, for the next epoch or, after its interval, for the one that follows. Training
stores the lanes. -/
def LinkEvents : Prop :=
  ∀ (s : State) (l lanes rpl st : Nat) (ok : Bool) (k : Link), l < 48 → lanes ≤ 8 → k = linkOf s.hub l →
    Does (.linkTraining l lanes ok) s (fun t => (linkOf t.hub l).lanes = lanes ∧ (linkOf t.hub l).trainOk = (ok && !k.fdn) ∧ (linkOf t.hub l).st = k.st) ∧
    (rpl < 2 ^ 32 → k.judged < hubNow s / 2 ^ 24 →
      st = (if s.hub.boot ≠ .full ∨ k.fdn = true ∨ k.trainOk = false ∨ k.lanes < 4 then 0
        else if k.lanes < 8 ∨ s.hub.lthr.toNat < rpl then 2 else 1) →
      Does (.linkJudgement l rpl) s (fun t => (linkOf t.hub l).st = st ∧ (linkOf t.hub l).rpl = BitVec.ofNat 32 rpl ∧
        (linkOf t.hub l).judged = k.judged + 1 ∧
        ∀ g G, g < 16 → G = groupOf s.hub g → G.en = true → bitAt l G.lmsk = true → (groupOf t.hub g).updates ++ (groupOf t.hub g).later =
          if st = k.st then G.updates ++ G.later else if gathered (hubNow s) G = true then G.updates ++ G.later ++ [(G.rank, l, st)]
          else G.updates ++ [(G.rank, l, st)] ++ G.later)) ∧
    (hubNow s / 2 ^ 24 ≤ k.judged → exec (.linkJudgement l rpl) s = .next s)

/-- R424: enabling a group with 1 ≤ GM1 and RANK ≤ GM1 starts it, not ready; the last row sets RDY; disabling it ends its
collectives with status 2, or 3 where the status word cannot be written (R334). -/
def GroupLife : Prop :=
  ∀ (s : State) (g r : Nat) (v : W64) (row : List W64), g < 16 →
    (regsLive s.hub = true → (groupOf s.hub g).en = false → bitAt 63 v = true → 1 ≤ field 9 0 v → field 41 32 v ≤ field 9 0 v →
      Does (.groupEnable g v) s (fun t => (groupOf t.hub g).en = true ∧ (groupOf t.hub g).rdy = false ∧ (groupOf t.hub g).rank = field 41 32 v ∧
        (groupOf t.hub g).gm1 = field 9 0 v ∧ (groupOf t.hub g).epoch = 0 ∧ (groupOf t.hub g).known = [])) ∧
    ((groupOf s.hub g).en = true → exec (.groupEnable g v) s = .next s) ∧
    ((groupOf s.hub g).en = true → (groupOf s.hub g).rdy = false → r ≤ (groupOf s.hub g).gm1 → r ≠ (groupOf s.hub g).rank →
      Does (.rowExchange g r row) s (fun t => r ∈ (groupOf t.hub g).known ∧
        (∀ l, l < 48 → entryAt (groupOf t.hub g) r l = row.getD l entryReset) ∧
        ((groupOf t.hub g).rdy = true ↔ ∀ q, q ≤ (groupOf s.hub g).gm1 → q = r ∨ q ∈ (groupOf s.hub g).known))) ∧
    (regsLive s.hub = true → (groupOf s.hub g).en = true → bitAt 63 v = false → Does (.groupDisable g v) s (fun t => (groupOf t.hub g).en = false ∧
      (groupOf t.hub g).rdy = false ∧ (∀ c ∈ amVals t.hub.served, c.gid ≠ g) ∧
      (∀ h c, getColl s h = some c → c.gid = g → c.ended = false → ∃ c', getColl t h = some c' ∧ c'.ended = true ∧
        (field 63 56 c'.word5 = 2 ∨ field 63 56 c'.word5 = 3)) ∧
      ∀ h c pas, runningColls s g = [h] → getColl s h = some c → hubBytes s c.part c.ptbr c.asid 2 16 (c.desc + 40) = .ok pas →
        ∃ c', getColl t h = some c' ∧ field 63 56 c'.word5 = 2))

/-- The update is gathered for epoch `f`, the next or the one after it, and flooded on as one of that epoch; one to down or degraded
stops the group's collectives. -/
def Gathers (s : State) (g e r l st f : Nat) : Prop :=
  Does (.linkStateUpdate g e r l st) s (fun t =>
    let G := groupOf s.hub g
    (f = (G.epoch + 1) % 2 ^ 32 → groupOf t.hub g = { G with
      updates := G.updates ++ [(r, l, st)], firstAt := if G.updates = [] ∧ G.trial = none then hubNow s else G.firstAt }) ∧
    (f = (G.epoch + 2) % 2 ^ 32 → groupOf t.hub g = { G with
      later := G.later ++ [(r, l, st)], laterAt := if G.later = [] then hubNow s else G.laterAt }) ∧
    t.hub.sent = s.hub.sent ++ [(0, 0xFFFF, bytesOf 4 f ++ bytesOf 2 r ++ bytesOf 1 l ++ bytesOf 1 st)] ∧
    (st ≠ 1 → ∀ h c, getColl s h = some c → c.gid = g → c.ended = false → ∃ c', getColl t h = some c' ∧ c'.stopped = true))

/-- R324, R332: an update of the next epoch is gathered and flooded on, and one to down or degraded stops the group's collectives; one
that comes after its interval, 20 µs from the first, starts the epoch that follows, for the next epoch as for the one in force;
one of the epoch after the next waits for it; one gathered before, in force, or of another epoch is dropped. After the interval
the Geyser sends the CRC of its table with the updates applied together, and with the CRC of every other member here compares:
where all agree the next epoch begins; a first mismatch leaves the epoch in force and gathers for one more interval; a second ends
the group's collectives with status 4. That the next epoch is in force after a second mismatch, that an update of another epoch or
one gathered before is dropped, that a first mismatch gathers on for the epoch that was to begin, that an early update of the epoch
after the next is kept, and the interval's 30,000 cycles are log 49. -/
def EpochEvents : Prop :=
  ∀ (s : State) (g e r l st : Nat) (G : CGroup) (crcs : List Nat), g < 16 → G = groupOf s.hub g → G.en = true → e < 2 ^ 32 →
    (r ≤ G.gm1 → l < 48 → st < 3 →
      (e = (G.epoch + 1) % 2 ^ 32 → (r, l, st) ∉ G.updates → (r, l, st) ∉ G.tried →
        (¬ IntervalOver s G → Gathers s g e r l st e) ∧
        (IntervalOver s G → (r, l, st) ∉ G.later → Gathers s g e r l st ((G.epoch + 2) % 2 ^ 32))) ∧
      (e = G.epoch → (r, l, st) ∉ G.applied → (r, l, st) ∉ G.updates → (r, l, st) ∉ G.tried →
        (¬ IntervalOver s G → Gathers s g e r l st ((G.epoch + 1) % 2 ^ 32)) ∧
        (IntervalOver s G → (r, l, st) ∉ G.later → Gathers s g e r l st ((G.epoch + 2) % 2 ^ 32))) ∧
      (e = (G.epoch + 2) % 2 ^ 32 → (r, l, st) ∉ G.later → Gathers s g e r l st e) ∧
      ((e = (G.epoch + 1) % 2 ^ 32 ∧ ((r, l, st) ∈ G.updates ∨ (r, l, st) ∈ G.tried)) ∨ (e = (G.epoch + 2) % 2 ^ 32 ∧ (r, l, st) ∈ G.later) ∨
          (e = G.epoch ∧ ((r, l, st) ∈ G.applied ∨ (r, l, st) ∈ G.updates ∨ (r, l, st) ∈ G.tried)) ∨
          (IntervalOver s G ∧ (r, l, st) ∈ G.later) ∨
          (e ≠ G.epoch ∧ e ≠ (G.epoch + 1) % 2 ^ 32 ∧ e ≠ (G.epoch + 2) % 2 ^ 32) →
        Does (.linkStateUpdate g e r l st) s (fun t => t.hub.groups = s.hub.groups ∧ t.hub.sent = s.hub.sent ∧ t.hub.colls = s.hub.colls))) ∧
    (¬ IntervalOver s G → exec (.epochApply g crcs) s = .next s) ∧
    (IntervalOver s G → G.told = false → Does (.epochApply g crcs) s (fun t => groupOf t.hub g = { G with told := true } ∧
      t.hub.sent = s.hub.sent ++ [(7, 0xFFFF, bytesOf 4 ((G.epoch + 1) % 2 ^ 32) ++ bytesOf 4 (tableCrc G (nextTable G)))] ∧ t.hub.colls = s.hub.colls)) ∧
    (IntervalOver s G → G.told = true → crcs.length ≠ G.gm1 → exec (.epochApply g crcs) s = .next s) ∧
    (IntervalOver s G → G.told = true → crcs.length = G.gm1 →
      ((∀ x ∈ crcs, x = tableCrc G (nextTable G)) → Does (.epochApply g crcs) s (fun t => (groupOf t.hub g).epoch = (G.epoch + 1) % 2 ^ 32 ∧
        (groupOf t.hub g).updates = G.later ∧ (groupOf t.hub g).later = [] ∧ (groupOf t.hub g).trial = none ∧ (groupOf t.hub g).told = false ∧
        (groupOf t.hub g).firstAt = G.laterAt ∧ (groupOf t.hub g).table = nextTable G ∧
        (G.trial = none → (∀ u ∈ G.updates, u.2.1 < 48 ∧ u.2.2 < 3) → ∀ q k, k < 48 →
          (∀ n, (q, k, n) ∈ G.updates → (∀ m, (q, k, m) ∈ G.updates → m = n) → entState (entryAt (groupOf t.hub g) q k) = n) ∧
          ((∀ n, (q, k, n) ∉ G.updates) → entryAt (groupOf t.hub g) q k = entryAt G q k)))) ∧
      ((∃ x ∈ crcs, x ≠ tableCrc G (nextTable G)) →
        (G.trial = none → Does (.epochApply g crcs) s (fun t => (groupOf t.hub g).epoch = G.epoch ∧ (groupOf t.hub g).table = G.table ∧
          (groupOf t.hub g).trial = some (nextTable G) ∧ (groupOf t.hub g).updates = [] ∧ (groupOf t.hub g).firstAt = hubNow s ∧
          (groupOf t.hub g).told = false ∧ t.hub.colls = s.hub.colls)) ∧
        (G.trial ≠ none → Does (.epochApply g crcs) s (fun t => (groupOf t.hub g).epoch = (G.epoch + 1) % 2 ^ 32 ∧
          ∀ h c, getColl s h = some c → c.gid = g → c.ended = false → ∃ c', getColl t h = some c' ∧ c'.ended = true ∧
            (field 63 56 c'.word5 = 4 ∨ field 63 56 c'.word5 = 3)))))

/-- R328 to R334: a child's partial that is not the last is kept; a done report is recorded; another member's parameters agree or
end the collective with status 1, and its status ends it; a chunk's result that arrives, once every member is known to
agree, is taken, its marks and DST written by `takeResult`. That a status of 0 carries the parameters, and that no result is taken
before every member is known to agree, is log 49's reading of R328. -/
def CollectiveEvents : Prop :=
  ∀ (s : State) (h k child r st : Nat) (fa : W64) (data : List Byte) (c : Coll), getColl s h = some c → c.ended = false →
    (c.stopped = false → k < chunkCount c → (chunkOf c k).phase = 0 → child ≠ c.rank → child ∈ childrenOf (treeOf c k) (chunkOf c k).root c.rank →
      data.length = chunkLen c k → (∃ u ∈ childrenOf (treeOf c k) (chunkOf c k).root c.rank, u ≠ child ∧ amGet (chunkOf c k).parts u = none) →
      Does (.chunkPartial h k child data) s (fun t => t.mem = s.mem ∧ ∃ c', getColl t h = some c' ∧ amGet (chunkOf c' k).parts child = some data ∧
        (chunkOf c' k).phase = 0)) ∧
    (child ∉ c.doneKids → Does (.doneReport h child) s (fun t => ∃ c', getColl t h = some c' ∧ c'.doneKids = c.doneKids ++ [child])) ∧
    (r < c.size →
      (1 ≤ st → st ≤ 5 → Does (.memberStatus h r st fa) s (fun t => ∃ c', getColl t h = some c' ∧ c'.ended = true ∧
        (field 63 56 c'.word5 = st ∨ field 63 56 c'.word5 = 3))) ∧
      (fa.toNat = parameters c → Does (.memberStatus h r 0 fa) s (fun t => t.mem = s.mem ∧ getColl t h = some { c with agreed := c.agreed ++ [r] })) ∧
      (fa.toNat ≠ parameters c → Does (.memberStatus h r 0 fa) s (fun t => ∃ c', getColl t h = some c' ∧ c'.ended = true ∧
        (field 63 56 c'.word5 = 1 ∨ field 63 56 c'.word5 = 3)))) ∧
    (c.stopped = false → k < chunkCount c → (chunkOf c k).phase = 1 → c.rank ≠ (chunkOf c k).root → data.length = chunkLen c k →
      ((∀ q, q < c.size → q ≠ c.rank → q ∈ c.agreed) →
        ∀ s1, takeResult s c k data = .ok s1 → Does (.chunkResult h k data) s (fun t => ∃ c', getColl t h = some c' ∧
          (c'.ended = false → (chunkOf c' k).phase = 2 ∧ t.mem = s1.mem))) ∧
      ((∃ q, q < c.size ∧ q ≠ c.rank ∧ q ∉ c.agreed) → exec (.chunkResult h k data) s = .next s))
/-- R332: marks from a member of a collective that recovers are kept until every rank's are here. -/
def MarksArrive : Prop :=
  ∀ (s : State) (h r : Nat) (marks : List Nat) (c : Coll) (ts : List (List Edge)), getColl s h = some c → c.ended = false → c.newTrees = some ts →
    r < c.size → r ≠ c.rank → marks.length = chunkCount c → (∃ q, q < c.size ∧ q ≠ r ∧ amGet c.marks q = none) →
    Does (.markExchange h r marks) s (fun t => t.mem = s.mem ∧ ∃ c', getColl t h = some c' ∧ amGet c'.marks r = some marks ∧ c'.stopped = c.stopped)

/-- R406 to R411, R428: a package reset leaves Reset, and memory with its errors (log 51); BOOT_VERIFY enters Verifying, and in a second
step (log 51) runs slot A where it passes the checks, else slot B, else locks; training of die 0 begins Die-0 service; with every
die done the clock switch begins Full service and clears HOLD of die 0 where every removed slice of it is Clean, and leaves it where
one is not (log 51). -/
def BringUp : Prop :=
  ∀ (s : State),
    Does .packageReset s (fun t => t.hub.boot = .reset ∧ t.clusters = State.reset.clusters ∧ t.spans = State.reset.spans ∧ t.hub.slotA = s.hub.slotA ∧
      t.hub.fuseKey = s.hub.fuseKey ∧ t.hub.log = hubReset.log ∧ t.mem = s.mem ∧ t.near = [] ∧ t.lag = [] ∧
      ∀ k, amGet s.bad k = some 1 → amGet t.bad k = some 1) ∧
    (s.hub.boot = .reset → Does .bootVerify s (fun t => t.hub.boot = .verifying ∧ t.hub.fw = s.hub.fw)) ∧
    (s.hub.boot = .verifying → s.hub.fw = false →
      (imgCheck s.hub s.hub.slotA = 0 → Does .bootVerify s (fun t => t.hub.fw = true ∧ t.hub.berr = 0 ∧ t.hub.fuseMin = max s.hub.fuseMin (imgSVN s.hub.slotA))) ∧
      (imgCheck s.hub s.hub.slotA ≠ 0 → imgCheck s.hub s.hub.slotB = 0 → Does .bootVerify s (fun t => t.hub.fw = true ∧ t.hub.berr = 1)) ∧
      (imgCheck s.hub s.hub.slotA ≠ 0 → imgCheck s.hub s.hub.slotB ≠ 0 → Does .bootVerify s (fun t => t.hub.boot = .locked ∧ t.hub.berr = 2 ∧ t.hub.fw = false))) ∧
    (s.hub.boot = .verifying → s.hub.fw = true → s.hub.ended.testBit 0 = false →
      Does (.dieTrainingEnd 0 true) s (fun t => t.hub.boot = .die0 ∧ t.hub.dtrn.testBit 0 = true ∧ t.hub.ended.testBit 0 = true)) ∧
    (∀ d, s.hub.boot = .die0 → s.hub.fw = true → 0 < d → d < 12 → s.hub.ended.testBit d = false →
      Does (.dieTrainingEnd d false) s (fun t => t.hub.boot = .die0 ∧ t.hub.ended.testBit d = true ∧ t.hub.dtrn = s.hub.dtrn ∧ t.hub.berr = 3)) ∧
    (s.hub.boot = .die0 → s.hub.ended % 4096 = 4095 → (∀ p ∈ s.spans.entries, ∀ c ∈ p.2.clusters, dieOf c ≠ 0) →
      Does .clockSwitch s (fun t => t.hub.boot = .full ∧ t.hub.clock0 = true ∧ t.spans = s.spans ∧
        (∀ p, p < 16 → (∃ i, i < 192 ∧ (sliceSt s.hub 0 i = .dirty p ∨ sliceSt s.hub 0 i = .flushing p)) →
          (getPart t p).pctl = (getPart s p).pctl) ∧
        ∀ p, p < 16 → (∀ i, i < 192 → sliceSt s.hub 0 i ≠ .dirty p ∧ sliceSt s.hub 0 i ≠ .flushing p) → bitAt 16 (getPart t p).pctl = false))

/-- R412, R413: a measurement request is answered with the log and the identity key's 64-byte signature over it and the nonce, a
certificate request for slot 0 with the chain of the identity key. The key and the chain are open constants (log 13). -/
def Attestation : Prop :=
  ∀ (s : State) (nonce : List Byte) (n : Nat),
    Does (.getMeasurements nonce) s (fun t => t.hub.responses = s.hub.responses ++ [logBytes s.hub ++ identitySign s.free (logBytes s.hub ++ nonce)] ∧
      t.hub.log = s.hub.log) ∧ (identitySign s.free (logBytes s.hub ++ nonce)).length = 64 ∧
    Does (.getCertificate n) s (fun t => t.hub.responses = s.hub.responses ++
      [if n = 0 then Config.certChain identityPublic.1 identityPublic.2 else []] ∧ t.hub.log = s.hub.log)

/-- A counter after `n` events of a source. -/
def counted (src n : Nat) (c : Counter) : W64 := c.val + (if c.src = src then BitVec.ofNat 64 n else 0#64)
/-- R419, R420, R414: a multi-bit error in memory or in a tile granule is kept at its place, a single-bit one is corrected; either
is counted, at its cluster and its die, and writes a record where the fleet ring is enabled and not full. -/
def SoftErrors : Prop :=
  ∀ (s : State) (pa cl t g : Nat) (multi : Bool), paExists pa = true → cl < 3072 → t < 32 → g < 4096 →
    Does (.patrol 1 pa true) s (fun u => paBad u pa 4 = true) ∧
    Does (.patrol 1 pa false) s (fun u => ∀ k, (amGet u.bad k).isSome = true → (amGet s.bad k).isSome = true) ∧
    Does (.patrol 1 pa multi) s (fun u => ∀ n, n < 32 → (dieCounter u (Config.homeDie pa % 12) n).val =
      counted (if multi then 0x6010 else 0x6001) 1 (dieCounter s (Config.homeDie pa % 12) n)) ∧
    Does (.patrol 3 ((cl * 32 + t) * 4096 + g) true) s (fun u => granBad (getTile u cl t) g = true ∧
      (getTile u cl t).bytes = (getTile s cl t).bytes) ∧
    Does (.patrol 3 ((cl * 32 + t) * 4096 + g) false) s (fun u => getTile u cl t = getTile s cl t) ∧
    Does (.patrol 3 ((cl * 32 + t) * 4096 + g) multi) s (fun u =>
      (∀ i, i < 8 → (vec8Get (getCl u cl).counters i).val = counted (if multi then 0x6010 else 0x6003) 1 (vec8Get (getCl s cl).counters i)) ∧
      (∀ n, n < 32 → (dieCounter u (dieOf cl) n).val = counted (if multi then 0x6010 else 0x6003) 1 (dieCounter s (dieOf cl) n)) ∧
      (bitAt 63 s.hub.frctl = true → (s.hub.frtail + 2 ^ 32 - s.hub.frhead) % 2 ^ 32 ≠ 2 ^ (8 + field 3 0 s.hub.frctl) →
        u.hub.frtail = (s.hub.frtail + 1) % 2 ^ 32))

/-- R428: once in 2^20 cycles of a die, above 1,100 W or 95 °C its allowance falls by one step, down to 1/16, and below 1,000 W and
90 °C it rises by one; at 105 °C power is removed 2^16 cycles later, by the hub die's counter (log 5), with which clusters, spans and the
stores that only a part of the package sees are gone (log 53), and from then on nothing acts but a package reset. -/
def PowerLimits : Prop :=
  ∀ (s : State) (d w temp n : Nat), d < 12 → s.hub.off = false → n = amGetD s.hub.steps d 0 →
    (amGetD s.hub.measured d 0 < cycleOf s d / 2 ^ 20 →
      (1100 < w ∨ 95 < temp → n < 4 → Does (.powerMeasurement d w temp) s (fun t => amGetD t.hub.steps d 0 = n + 1)) ∧
      (1100 < w ∨ 95 < temp → 4 ≤ n → Does (.powerMeasurement d w temp) s (fun t => amGetD t.hub.steps d 0 = n)) ∧
      (w < 1000 → temp < 90 → 0 < n → Does (.powerMeasurement d w temp) s (fun t => amGetD t.hub.steps d 0 = n - 1)) ∧
      (105 ≤ temp → s.hub.powerOffAt = none → Does (.powerMeasurement d w temp) s (fun t => t.hub.powerOffAt = some (hubNow s + 2 ^ 16)))) ∧
    (cycleOf s d / 2 ^ 20 ≤ amGetD s.hub.measured d 0 → exec (.powerMeasurement d w temp) s = .next s) ∧
    (∀ c, s.hub.powerOffAt = some c → c ≤ hubNow s → Does .powerRemoval s (fun t => t.hub.off = true ∧ t.spans = State.reset.spans ∧
      t.clusters = State.reset.clusters ∧ t.near = [] ∧
      ((nextMove t).turn ≠ .event .packageReset → step t = .next (passTime (nextMove t).dt (takeMove t))) ∧
      ((nextMove t).turn = .event .packageReset → Does .packageReset (passTime (nextMove t).dt (takeMove t)) (fun u =>
        step t = .next u ∧ u.hub.off = false ∧ u.hub.boot = .reset))))

end Sys2Proof.Claims

/-! The machine as a whole: reset, a step, words, what a firing and an instruction leave alone. -/

namespace Sys2Proof.Claims

open Sys2Proof Sys2Proof.Machine

/-- The state at a move: the cycles before it have passed. -/
def reached (s : State) : State := passTime (nextMove s).dt (takeMove s)
/-- The state in which a move acts: the packets of its accesses, where it has any, have moved through the tree network (R29). -/
def acting (s : State) : State := (packetsThrough (reached s) (nextMove s).turn).1
/-- They have come through: none is deflected. -/
def arrived (s : State) : Bool := (packetsThrough (reached s) (nextMove s).turn).2

/-- The instructions that can change memory at once: an access performed, whether by a core, an element, an engine, the hub or the
host, since a read too may be what shows the package a narrower store (R224); a release, an acquire, a barrier's completion; a
save area, a completion record, a table of the Caldera, a record of the fleet ring. An event is taken after the groups of its core
whose waits are over have been woken, and a woken WAITL acquires. -/
def mayStore (i : Instr) : Bool :=
  match i with
  | .coreAccessPerformed .. | .memoryAnswer .. | .feWaitEnd .. | .agFetch .. | .agPut .. | .feedToken .. | .portGet .. | .portPuts .. => true
  | .streamStart .. | .streamEnd .. | .multicastDelivery .. | .islandStage .. | .eventTaken .. | .stl .. | .fence .. => true
  | .amoAdd .. | .amoAnd .. | .amoOr .. | .amoXor .. | .amoMin .. | .amoMax .. | .amoMinu .. | .amoMaxu .. | .amoSwp .. | .amoCas .. => true
  | .go | .waitl .. | .waitlNb .. | .rdlay .. | .strm .. | .mcast .. | .patld .. | .launch .. | .waitg .. | .coll .. | .collw .. => true
  | .barG .. | .barC .. | .barrierComplete .. | .coreTrap .. | .invr .. | .ctxsv .. | .ctxld .. | .cfg .. => true
  | .childExit .. | .dispatch .. | .vfReset .. | .freezeComplete .. | .spanSave .. | .saveDone .. | .clockSwitch | .hostAccess .. => true
  | .chunkPartial .. | .chunkResult .. | .doneReport .. | .memberStatus .. | .markExchange .. | .groupDisable .. | .epochApply .. => true
  | .rewiringComplete .. | .tokenArrival .. | .islandArray .. | .patrol .. | .powerMeasurement .. | .linkJudgement .. | .exclusionWrite .. => true
  | _ => false

/-- The granules of the fleet ring (R414): a record comes after the narrower stores that its granules hold (R228). -/
def inRing (s : State) (a : Nat) : Prop :=
  field 51 0 s.hub.frbase / 16 ≤ a / 16 ∧ a / 16 ≤ (field 51 0 s.hub.frbase + 32 * 2 ^ (8 + field 3 0 s.hub.frctl) - 1) / 16

/-- A slot without guard, V = 1, Q = 0, no tag wait. -/
def plainSlot (ir : BitVec 8) (os : BitVec 4) (d a b pw : BitVec 5) : Slot :=
  ⟨true, false, 0#8, 0#8, ir, os, false, 0#2, 0#3, d, a, b, pw⟩

/-- Slot words of the spec's examples (R66), each with the instruction it stands for: ADDI.I32 D=o0 A=i0.pop IMM=-3, MOVI
D=v3 IMM=0x1234, FMA.F32 D=v2 A=i0.pop B=i1.pop, CVT B=4, QNT.MX4 B=v1, LD B=zero, AMOADD.I32 D=none, STEER B=k0, MRG A=k0
B=0x03. -/
def slotWords : List (W64 × Instr) :=
  [(0x80000044015853FD#64, .addiI32 (plainSlot 1#8 1#4 16#5 20#5 31#5 29#5)),
   (0x8000000003219234#64, .movi (plainSlot 0#8 0#4 3#5 4#5 17#5 20#5)),
   (0x800000C0063152A0#64, .fmaF32 (plainSlot 3#8 0#4 2#5 20#5 21#5 0#5)),
   (0x8000004408085080#64, .cvt (plainSlot 1#8 1#4 16#5 20#5 4#5 0#5)),
   (0x8000004408885020#64, .qntMx4 (plainSlot 1#8 1#4 16#5 20#5 1#5 0#5)),
   (0x800000440A085380#64, .ld (plainSlot 1#8 1#4 16#5 20#5 28#5 0#5)),
   (0x800000C00A8C52A0#64, .amoaddI32 (plainSlot 3#8 0#4 24#5 20#5 21#5 0#5)),
   (0x8000044C0C585300#64, .steer (plainSlot 0x11#8 3#4 16#5 20#5 24#5 0#5)),
   (0x800004040C686060#64, .mrg (plainSlot 0x10#8 1#4 16#5 24#5 3#5 0#5))]
/-- Control-core words of the spec's program: `ext 2`, `liu x4, 0`, `ori x4, x4, 0x1000`, `addi x5, x0, 3`, `addi x5, x5, -1`,
`amoadd.64 x7, (x4), x6, die`, `bne x5, x0, -2`, `ld.64 x8, 0(x4)`, `trap x8, 0`. -/
def coreWords : List (W32 × Instr) :=
  [(0xFC000002#32, .ext 2#26), (0x28800000#32, .liu 4#5 0#16), (0x0C841000#32, .coreOri 4#5 4#5 0x1000#16),
   (0x04A00003#32, .addi 5#5 0#5 3#16), (0x04A5FFFF#32, .addi 5#5 5#5 0xFFFF#16), (0x70E43220#32, .amoAdd 7#5 4#5 6#5 2#3 0#2 1#1),
   (0x84A0FFFE#32, .bne 5#5 0#5 0xFFFE#16), (0x59040000#32, .ld64 8#5 4#5 0#3 0#13), (0xF0080000#32, .coreTrap 8#5 0#16)]
/-- The destination register of a control-core word; JAL's is x31. -/
def coreDest (i : Instr) : Option (BitVec 5) :=
  match i with
  | .add d _ _ | .sub d _ _ | .aluAnd d _ _ | .aluOr d _ _ | .aluXor d _ _ | .aluAndn d _ _ | .sll d _ _ | .srl d _ _
  | .sra d _ _ | .slt d _ _ | .sltu d _ _ | .mul d _ _ | .mulh d _ _ | .mulhu d _ _ | .div d _ _ | .divu d _ _ | .rem d _ _
  | .remu d _ _ | .min d _ _ | .max d _ _ | .minu d _ _ | .maxu d _ _ | .aluClz d _ | .aluPopc d _ => some d
  | .addi d _ _ | .coreAndi d _ _ | .coreOri d _ _ | .xori d _ _ | .slti d _ _ | .sltiu d _ _ | .slli d _ _ | .srli d _ _
  | .srai d _ _ | .liu d _ | .jalr d _ _ => some d
  | .ldI8 d _ _ _ | .ldN8 d _ _ _ | .ldI16 d _ _ _ | .ldN16 d _ _ _ | .ldI32 d _ _ _ | .ldN32 d _ _ _ | .ld64 d _ _ _
  | .lda d _ _ _ => some d
  | .amoAdd d _ _ _ _ _ | .amoAnd d _ _ _ _ _ | .amoOr d _ _ _ _ _ | .amoXor d _ _ _ _ _ | .amoMin d _ _ _ _ _
  | .amoMax d _ _ _ _ _ | .amoMinu d _ _ _ _ _ | .amoMaxu d _ _ _ _ _ | .amoSwp d _ _ _ _ _ | .amoCas d _ _ _ _ _ => some d
  | .cfg d _ | .waitl d | .waitlNb d | .launch d _ _ _ | .waitg d _ | .prio d _ | .rdlay d | .rdlayT d | .pin d _ | .rate d _ _
  | .coll d _ | .collw d _ | .cnt d _ _ _ | .syr d _ => some d
  | .jal _ => some 31#5
  | _ => none

/-- The system registers of a core that only SYW writes (R193). -/
def coreRegs (c : Core) : List W64 :=
  [c.tvec, if c.esc then 1#64 else 0#64, c.eres, BitVec.ofNat 64 c.maxc, BitVec.ofNat 64 c.fgrp, c.wdog, c.rcap, c.ptbr, c.lspb, c.lspn]

/-- The forms whose values `FloatLanes` and `SpecialFunctions` state, under the model's names of them. -/
def namedForms : List LaneForm :=
  [⟨.minF32, 0x64, fun v l => minF (laneA v l) (laneB v l)⟩, ⟨.maxF32, 0x65, fun v l => maxF (laneA v l) (laneB v l)⟩,
   ⟨.redmaxF32, 0x75, fun v _ => redmaxF v⟩, ⟨.rcpF32, 0x8B, fun v l => rcpF32 (laneA v l)⟩, ⟨.rsqF32, 0x8C, fun v l => rsqF32 (laneA v l)⟩,
   ⟨.ex2F32, 0x8D, fun v l => ex2F32 (laneA v l)⟩, ⟨.lg2F32, 0x8E, fun v l => lg2F32 (laneA v l)⟩,
   ⟨.tanhF32, 0x8F, fun v l => tanhF32 (laneA v l)⟩, ⟨.sigmF32, 0x90, fun v l => sigmF32 (laneA v l)⟩]
/-- The element instructions whose guarded lanes receive a value. -/
def laneForms : List LaneForm :=
  integerForms ++ logicForms ++ compareForms ++ moveForms ++ floatForms ++ packedForms ++ namedForms

/-- The result formats of chapters 04 and 05, as codes of R17; none where the format is H.FMT. -/
def resultFormat (op sel : Nat) : Option Nat :=
  if op ∈ [0x0A, 0x0B, 0x0C, 0x0D, 0x31, 0x32, 0x33, 0x4A, 0x4B, 0x4C, 0x4D, 0x4E, 0x4F, 0xC0, 0xC3, 0xC4] ∨ (0x20 ≤ op ∧ op ≤ 0x2C) then none
  else if op = 0x80 ∨ op = 0x81 then
    some (if sel < 4 then 2 else if sel < 8 then 3 else if sel < 12 then 4 else if sel < 16 then 5 else 1)
  else if op ≤ 0x58 ∨ (0x69 ≤ op ∧ op ≤ 0x6C) ∨ op = 0x82 ∨ op = 0x83 ∨ op = 0x8A then some 0
  else if 0x6D ≤ op ∧ op ≤ 0x6F then some 2 else if 0x70 ≤ op ∧ op ≤ 0x72 then some 3 else some 1
/-- The channel token whose header is the source of an emission's token j (step 1 of R76). -/
def headerFrom (v : Env) (j : Nat) : Option Token :=
  if v.hc then none
  else match groupA v with
    | some g => some (g.getD j tokenZero)
    | none => (groupB v).map (fun g => g.getD j tokenZero)
/-- A last-in-row or last-in-stream bit of an emission's token j: copied from the source, of a two-input form that of either
input, and from the template on the last token alone (step 3 of R76, R77). -/
def lastBit (v : Env) (bit : W32 → Bool) (n j : Nat) : Bool :=
  match headerFrom v j with
  | some x => bit x.hdr || (twoInput v && bit (((groupB v).getD []).getD j tokenZero).hdr)
  | none => decide (j + 1 = v.lg) && bit (template v n)
/-- LS of A and of B differ on some token of a two-input form (R77). -/
def inputsDiffer (v : Env) : Bool :=
  twoInput v && (List.range v.lg).any (fun j => match ((groupA v).getD [])[j]?, ((groupB v).getD [])[j]? with
    | some x, some y => hdrLS x.hdr != hdrLS y.hdr
    | _, _ => false)

/-- R16, R20, R76, R77, R150: the header of every token that a firing with lane results emits; SEQ is zero on a channel that is
not ordered (log 61). -/
def EmittedHeaders : Prop :=
  ∀ F ∈ laneForms, ∀ (w : Slot) (s : State) (v : Env) (n : Nat), fireEnv s F.op w = some v → destOf v.w.d = .o n →
    ∃ t, exec (F.instr w) s = .next t ∧ ∀ ch c, outAt s v.sp v.rel v.el n false = some (ch, c) →
      ∃ c', getChan t v.sp ch = some c' ∧ ∀ j x, j < v.lg → c'.out[c.out.length + j]? = some x →
        hdrFMT x.tok.hdr = (if v.hc then hdrFMT (template v n)
          else (resultFormat F.op v.w.b.toNat).getD (hdrFMT ((headerFrom v j).elim (template v n) Token.hdr))) ∧
        hdrLN x.tok.hdr = min 8 (v.vl - 8 * j) ∧ hdrBUB x.tok.hdr = false ∧ field 31 30 x.tok.hdr = 0 ∧
        hdrTAG x.tok.hdr = hdrTAG ((headerFrom v j).elim (template v n) Token.hdr) ∧
        hdrLR x.tok.hdr = (lastBit v hdrLR n j || ((F.op = 0xC3 || F.op = 0xC4) && j + 1 = v.lg)) ∧
        hdrLS x.tok.hdr = (lastBit v hdrLS n j || (F.op = 0xC4 && j + 1 = v.lg)) ∧
        hdrSEQ x.tok.hdr = if c.ord = false then 0 else if stampsSeq v n then (c.nextSeq + j) % 65536
          else hdrSEQ ((headerFrom v j).elim (template v n) Token.hdr)

/-- R77, R78: a two-input form whose inputs end their streams at different tokens sets its operator's sticky mismatch flag, and
nothing else of a firing with lane results changes the flag; where the slot's TM bit is set the element then holds a
stream-mismatch fault that names the slot, with port 0 in its location word (log 25). -/
def MismatchFlag : Prop :=
  ∀ F ∈ laneForms, ∀ (w : Slot) (s : State) (v : Env), fireEnv s F.op w = some v →
    ∃ t, exec (F.instr w) s = .next t ∧
      (ctxOfShare (getEl t v.cl v.el) v.share).mismatch = (v.c.mismatch || inputsDiffer v) ∧
      (getEl t v.cl v.el).fault = if inputsDiffer v && v.tm then some ⟨5, 0, 0, locWord v.rel v.el v.slotNo 0 0⟩ else v.e.fault

/-- R35, R69, R81: a firing with lane results pops its operands' tokens, those of a port once; where PW names a predicate, at one
lane per predicate bit, mode 1 writes bit 0 of each guarded lane's value, mode 2 ones, mode 3 zeros, and other bits stay. -/
def PopsAndPredicates : Prop :=
  ∀ F ∈ laneForms, ∀ (w : Slot) (s : State) (v : Env) (l : Load), fireEnv s F.op w = some v → getLoad s v.sp = some l →
    ∃ t, exec (F.instr w) s = .next t ∧
      (∀ n ch br c b, codeA v = some (.pop n) ∨ codeB v = some (.pop n) → findIn l ⟨.element v.rel v.el, n, false⟩ = some (ch, br) →
        amGet l.chans ch = some c → c.branches[br]? = some b →
        ∃ c' b', getChan t v.sp ch = some c' ∧ c'.branches[br]? = some b' ∧ b'.buf = b.buf.drop (needTokens v.op v.w v.lg n)) ∧
      (v.vl ≤ 8 → ∀ k, k < 8 → bitAt k (vec8Get (getEl t v.cl v.el).preds (v.w.pw.toNat / 4)) =
        if hasPw (shapeV v) = true ∧ v.w.pw.toNat % 4 ≠ 0 ∧ guardL v k = true then
          (if v.w.pw.toNat % 4 = 1 then bitAt 0 (F.lane v k) else decide (v.w.pw.toNat % 4 = 2))
        else bitAt k (vec8Get v.e.preds (v.w.pw.toNat / 4)))

end Sys2Proof.Claims

/-- R2, R32, R164, R193, R357, R362, R406, R423: after a package reset the hub is in Reset with no die trained, no cluster belongs
to a span, every group is Idle in user mode with its system registers 0, SY.MAXC is 3, partitions own nothing, counters count
nothing and are 0, every link is down with LTHR 4,096, no collective group is enabled. -/
def Obligations.ResetState : Prop :=
  State.reset.hub.boot = .reset ∧ State.reset.hub.dtrn = 0 ∧ State.reset.hub.berr = 0 ∧ State.reset.hub.clock0 = false ∧
  State.reset.hub.lthr = 4096#32 ∧ State.reset.hub.frctl = 0#64 ∧ State.reset.hub.preGo = false ∧
  (∀ l, linkOf State.reset.hub l = ⟨0, 0, false, 0#32, false, 0⟩) ∧ (∀ g, (groupOf State.reset.hub g).en = false) ∧
  (∀ p, (getPart State.reset p).pctl = 0#64 ∧ (getPart State.reset p).csup = 0xC#64 ∧ (getPart State.reset p).asid = 0#64 ∧
    (∀ k, amGetD (getPart State.reset p).pslc k 0#64 = 0#64 ∧ amGetD (getPart State.reset p).pqmsk k 0#64 = 0#64) ∧
    ∀ q, qEN (getQueue State.reset p q) = false ∧ (getQueue State.reset p q).qerr = false) ∧
  (∀ cl, spanAt State.reset cl = none ∧ (getCl State.reset cl).core.maxc = 3 ∧ (getCl State.reset cl).core.esc = false ∧
    (getCl State.reset cl).core.events = [] ∧ pendOf (getCl State.reset cl).core = 0 ∧
    [(getCl State.reset cl).core.tvec, (getCl State.reset cl).core.eres, (getCl State.reset cl).core.wdog, (getCl State.reset cl).core.rcap,
      (getCl State.reset cl).core.ptbr, (getCl State.reset cl).core.lspb, (getCl State.reset cl).core.lspn] = List.replicate 7 0#64 ∧
    (∀ k, k < 8 → (vec8Get (getCl State.reset cl).counters k).src = 0 ∧ (vec8Get (getCl State.reset cl).counters k).val = 0#64) ∧
    ∀ g, g < 4 → (getGrp State.reset cl g).st = .idle ∧ [(getGrp State.reset cl g).status, (getGrp State.reset cl g).cause,
      (getGrp State.reset cl g).epc, (getGrp State.reset cl g).tval, (getGrp State.reset cl g).scr, (getGrp State.reset cl g).pmsk] = List.replicate 6 0#64)

/-- The form of memory holds at reset (the model's choice, log 4). -/
def Obligations.ResetMemoryForm : Prop := State.reset.memOk

/-- The form of memory is kept by every step: the addresses of the list strictly rise and no byte listed is the one an address that
is not listed reads as; the list of bytes that the host sees otherwise rises too; and a store that only a part of the package
sees lies in one granule, and no store that is in memory is listed among those (the model's choice, log 4). -/
def Obligations.StepKeepsMemoryForm : Prop :=
  ∀ s t : State, s.memOk → step s = .next t → t.memOk

/-- R33, R36, R166, R169, R171, R198, R204, R206, R428: a step passes the cycles before its move and then runs the instruction that
its agent decodes, once the packets of its accesses have come through the tree network (R29): a control core that has not issued in
this cycle the word at its chosen group's pc, fetched through the die's L2 (R174, R296), or the oldest event that it can take; an
element the slot it picks; a Bramble's context its next word; an event of the table itself. Which agent moves, and when, is the
model's schedule (log 1). Without power only a package reset acts. -/
def Obligations.StepRunsDecoded : Prop :=
  ∀ s : State,
    (s.hub.off = false →
      (arrived s = false → step s = .next (acting s)) ∧
      (∀ cl g t u, arrived s = true → (nextMove s).turn = .core cl → coreActive (acting s) cl = true →
        (getCl (acting s) cl).core.issuedAt ≠ some (now (acting s) cl) →
        u = wakeCore (ageCore (acting s) cl) cl → chooseGroup (getCl u cl).core = some g → t = issueAt u cl g →
        (t.cur.cl = cl ∧ t.cur.grp = g ∧ g < 4 ∧
          ((∀ h d, h < 4 → (getGrp (acting s) cl h).st ≠ .waiting (.waitl d)) → t.mem = (acting s).mem) ∧
          ∀ h, h < 4 → (∀ d op, (getGrp (acting s) cl h).st ≠ .waiting (.waitl d) ∧ (getGrp (acting s) cl h).st ≠ .waiting (.pin op d)) →
            (getGrp t cl h).x = (getGrp (acting s) cl h).x) ∧
        (eventReady (getCl u cl).core g = true → step s = exec (.eventTaken cl) (acting s)) ∧
        (eventReady (getCl u cl).core g = false → ∀ pa w, translate t cl (curGrp t).asid (curGrp t).pc.toNat 4 = .hit pa →
          w = BitVec.ofNat 32 (natOfBytes ((List.range 4).map (fun k => t.seen cl (pa + k)))) →
          (∀ i, coreRow w = some i → step s = exec i (l2Touch t cl pa)) ∧
          (coreRow w = none → step s = exec (.illegalInstruction (coreSub w)) (l2Touch t cl pa)))) ∧
      (∀ cl, (nextMove s).turn = .core cl → (getCl (reached s) cl).core.issuedAt = some (now (reached s) cl) → step s = .next (reached s)) ∧
      (∀ cl el n i, (nextMove s).turn = .element cl el → pickSlot (raiseBadHeads (acting s) cl el) cl el = some n →
        decodeSlot (vec16Get (getEl (acting s) cl el).slots n) = some i →
        step s = exec i (atSlot (raiseBadHeads (acting s) cl el) cl el n)) ∧
      (∀ cl ctx b w i, (nextMove s).turn = .bramble cl ctx → (getCtx (acting s) cl ctx).run = some b →
        (getCtx (acting s) cl ctx).finished = false → (getCtx (acting s) cl ctx).out = [] →
        (∀ sp, spanAt (acting s) cl = some sp → spanActive sp.2 = true) → spanAt (acting s) cl ≠ none →
        b.words[(getCtx (acting s) cl ctx).ip]? = some w → decodePattern w = some i →
        step s = exec i { acting s with cur := { (acting s).cur with cl := cl, ctx := ctx } }) ∧
      (∀ i, arrived s = true → (nextMove s).turn = .event i → isEvent i = true → step s = exec i (acting s))) ∧
    (s.hub.off = true → ((nextMove s).turn ≠ .event .packageReset → step s = .next (reached s)) ∧
      ((nextMove s).turn = .event .packageReset → step s = exec .packageReset (reached s)))

/-- R35, R37, R166, R247: the group that issues is Ready and of the highest effective class, and among Ready groups of that class the
first in cyclic order after the one that last issued at it; an element without a fold fires its lowest eligible slot, and with
one the lowest of the share with the greater credit where that share has one. -/
def Obligations.IssueOrder : Prop :=
  (∀ (c : Core) (g : Nat), chooseGroup c = some g → g < 4 ∧ (vec4Get c.grp g).st = .ready ∧
    (∀ h, h < 4 → (vec4Get c.grp h).st = .ready → effClass c h ≤ effClass c g) ∧
    ∀ h, h < 4 → (vec4Get c.grp h).st = .ready → effClass c h = effClass c g →
      (g + 3 - vec4Get c.lastIssued (effClass c g) % 4) % 4 ≤ (h + 3 - vec4Get c.lastIssued (effClass c g) % 4) % 4) ∧
  (∀ c : Core, (∃ g, g < 4 ∧ (vec4Get c.grp g).st = .ready) → chooseGroup c ≠ none) ∧
  (∀ (s : State) (cl el n : Nat), pickSlot s cl el = some n → n < 16 ∧ slotEligible s cl el n = true ∧
    ((getEl s cl el).sh1 = none → ∀ m, m < n → slotEligible s cl el m = false) ∧
    ((getEl s cl el).sh1.isSome = true →
      (∀ m, m < n → shareOfSlot (getEl s cl el) m = shareOfSlot (getEl s cl el) n → slotEligible s cl el m = false) ∧
      (shareOfSlot (getEl s cl el) n ≠ (if (getEl s cl el).credit0 < (getEl s cl el).credit1 then 1 else 0) →
        ∀ m, m < 16 → shareOfSlot (getEl s cl el) m ≠ shareOfSlot (getEl s cl el) n → slotEligible s cl el m = false))) ∧
  (∀ (s : State) (cl el n : Nat), n < 16 → slotEligible s cl el n = true → pickSlot s cl el ≠ none)

/-- R66, R73: the word of every element instruction, whatever its fields, decodes to it, and a word that decodes is that of its
instruction: no two instructions share a word and no bit is dropped. -/
def Obligations.SlotRoundTrip : Prop :=
  (∀ (i : Instr) (w : W64), encodeSlot i = some w → decodeSlot w = some i) ∧
  (∀ (i : Instr) (w : W64), decodeSlot w = some i → encodeSlot i = some w)

/-- R167 to R170, R206: the same of control-core words and of pattern words. -/
def Obligations.CoreAndPatternRoundTrip : Prop :=
  (∀ (i : Instr) (w : W32), encodeCore i = some w → coreRow w = some i) ∧
  (∀ (i : Instr) (w : W32), coreRow w = some i → encodeCore i = some w) ∧
  (∀ (i : Instr) (w : W32), encodePattern i = some w → decodePattern w = some i) ∧
  (∀ (i : Instr) (w : W32), decodePattern w = some i → encodePattern i = some w)

/-- Words that the spec's examples spell out decode to the instructions they stand for, and the words that it calls illegal are
refused with the subcode it gives. -/
def Obligations.SpecWordsDecode : Prop :=
  (∀ p ∈ slotWords, decodeSlot p.1 = some p.2) ∧ (∀ p ∈ coreWords, decodeCore p.1 = .ok p.2) ∧
  decodePattern 0x08001001#32 = some (.band 0#3 1#12 1#12) ∧ decodePattern 0x38003003#32 = some (.clip 0#3 3#12 3#12) ∧
  decodePattern 0x60000000#32 = some (.emit 0#3) ∧ decodePattern 0x30004004#32 = some (.offs 0#3 4#12 4#12) ∧
  decodePattern 0x68000402#32 = some (.patLoop 0#2 1#12 2#10) ∧ decodePattern 0x70000000#32 = some .patEnd ∧
  decodeCore 0x2C000000#32 = .error 1#8 ∧ decodeCore 0x00000018#32 = .error 2#8 ∧ acceptsExt (field 31 26 0x14840003#32) = false

/-- R33, R35, R69, R81, R160, R162: the frame of every element instruction. A firing changes no byte of memory, no tile, generator,
port, island, pattern context or control-core group, no other element, no other span, no channel that has no end at the
element; of the element it leaves the slots, every register outside D's group, and every predicate that PW does not name. HALT,
RHINT and FHINT change their operator on its other elements too, and nothing else of those. -/
def Obligations.FiringFrame : Prop :=
  ∀ (op : Nat) (w : Slot) (i : Instr) (s t : State) (v : Env), slotInstr op w = some i → fireEnv s op w = some v → exec i s = .next t →
    (∀ a, t.byte a = s.byte a) ∧ t.near = s.near ∧ t.bad = s.bad ∧ t.dir = s.dir ∧ t.hub = { s.hub with dctr := t.hub.dctr } ∧
    (∀ c e, c ≠ v.cl ∨ e ≠ v.el → (op ∉ [0xE0, 0xE2, 0xE3] → getEl t c e = getEl s c e) ∧
      getEl t c e = { getEl s c e with sh0 := (getEl t c e).sh0, sh1 := (getEl t c e).sh1 }) ∧ (∀ c g, g < 4 → getGrp t c g = getGrp s c g) ∧
    (∀ c k a, getTile t c k = getTile s c k ∧ getGen t c k a = getGen s c k a ∧ getPort t c k = getPort s c k) ∧
    (∀ c, (getCl t c).island = (getCl s c).island ∧ (getCl t c).gctx = (getCl s c).gctx ∧ (getCl t c).tcache = (getCl s c).tcache) ∧
    (getEl t v.cl v.el).slots = v.e.slots ∧
    (∀ r, r < 16 → (∀ d j, destOf v.w.d = .v d → j < v.lg → r ≠ (d + j) % 16) →
      vec16Get (getEl t v.cl v.el).regs r = vec16Get v.e.regs r) ∧
    (∀ p, p < 8 → (hasPw (shapeV v) = false ∨ v.w.pw.toNat % 4 = 0 ∨ p ≠ v.w.pw.toNat / 4) →
      vec8Get (getEl t v.cl v.el).preds p = vec8Get v.e.preds p) ∧
    (∀ sp, sp ≠ v.sp → getSpan t sp = getSpan s sp) ∧
    (∀ ch c, getChan s v.sp ch = some c → c.src.unit ≠ .element v.rel v.el → (∀ b ∈ c.branches, b.dst.unit ≠ .element v.rel v.el) →
      getChan t v.sp ch = some c)

/-- R16, R20, R35, R69, R76 to R78, R81, R195: what a firing with lane results pops, which predicate bits it writes, the headers of
the tokens it emits, and the sticky mismatch flag. -/
def Obligations.PopsPredicatesAndHeaders : Prop :=
  PopsAndPredicates ∧ EmittedHeaders ∧ MismatchFlag

/-- No instruction but those of `mayStore` changes memory. A releasing instruction leaves it as it was or with the group's earlier
stores performed at its scope (R181, R232): INVR, and CFG and CTXLD (log 6), at package scope, STL and FENCE at their own; after
STRM, MCAST and PATLD the agents of the cluster see what they see after a release at span scope. Those that can only add a record
to the fleet ring change nothing outside its granules (R414, R415). -/
def Obligations.MemoryWriters : Prop :=
  ∀ (i : Instr) (s t : State), exec i s = .next t →
    (mayStore i = false → t.mem = s.mem) ∧
    (∀ (a b d : BitVec 5), i ∈ [.invr d a b, .cfg d a, .ctxld a] → t.mem = s.mem ∨ t.mem = (releaseCur s 3).mem) ∧
    (∀ (a b : BitVec 5) (e w : BitVec 1) (sc : BitVec 3), i ∈ [.fence e sc, .stl a b sc w] → t.mem = s.mem ∨ t.mem = (releaseCur s sc.toNat).mem) ∧
    (∀ (a b : BitVec 5), i ∈ [.strm a b, .mcast a b, .patld a b] → s.memOk → (∀ k, t.seen s.cur.cl k = s.seen s.cur.cl k) ∨
      ∀ k, t.seen s.cur.cl k = (releaseCur s 1).seen s.cur.cl k) ∧
    (s.memOk → ∀ k d w c n pa bad v, i ∈ [.patrol k pa bad, .powerMeasurement d w c, .linkJudgement n w, .exclusionWrite n v, .islandArray k n] →
      ∀ a, ¬ inRing s a → t.byte a = s.byte a) ∧
    (s.memOk → ∀ sp ch br bad a, i = .tokenArrival sp ch br bad → ¬ inRing s a → t.byte a = s.byte a)

/-- R164, R193, R196: the frame of every control-core word but EXT, CTXSV and CTXLD (which `ExtPairs` and `InvalidationAndContexts`
state). Of the executing group's registers only the destination changes; SY.SCR, SY.PMSK and the ASID change by SYW alone,
and SY.EPC, SY.CAUSE, SY.TVAL and SY.STATUS by SYW, by ERET or where the group enters its trap or stops by a double fault; the
core's other system registers change by SYW alone. No other group's registers change, on this core or on another. -/
def Obligations.CoreFrame : Prop :=
  ∀ (i : Instr) (s t : State), s.cur.grp < 4 → (encodeCore i).isSome = true → (∀ h, i ≠ .ext h) → (∀ a, i ≠ .ctxsv a ∧ i ≠ .ctxld a) →
    exec i s = .next t →
    t.cur = s.cur ∧ (∀ r, coreDest i ≠ some r → xget (curGrp t) r = xget (curGrp s) r) ∧
    (∀ c g, g < 4 → c ≠ s.cur.cl ∨ g ≠ s.cur.grp → (getGrp t c g).x = (getGrp s c g).x ∧ (getGrp t c g).status = (getGrp s c g).status ∧
      (getGrp t c g).epc = (getGrp s c g).epc ∧ (getGrp t c g).cause = (getGrp s c g).cause ∧ (getGrp t c g).tval = (getGrp s c g).tval ∧
      (getGrp t c g).scr = (getGrp s c g).scr ∧ (getGrp t c g).pmsk = (getGrp s c g).pmsk) ∧
    ((∀ a n, i ≠ .syw a n) →
      (curGrp t).scr = (curGrp s).scr ∧ (curGrp t).pmsk = (curGrp s).pmsk ∧ (curGrp t).asid = (curGrp s).asid ∧
      (∀ c, coreRegs (getCl t c).core = coreRegs (getCl s c).core) ∧
      (i ≠ .eret → ((curGrp t).status = (curGrp s).status ∧ (curGrp t).epc = (curGrp s).epc ∧ (curGrp t).cause = (curGrp s).cause ∧
          (curGrp t).tval = (curGrp s).tval) ∨
        (bitAt 0 (curGrp t).status = true ∧ (curGrp t).epc = (curGrp s).pc.setWidth 64 ∧
          (curGrp t).pc = BitVec.ofNat 52 ((getCl s s.cur.cl).core.tvec.toNat / 4 * 4)) ∨ (curGrp t).st = .stopped))

/-! Statements of one theme together. -/

/-- R86 to R97: integer arithmetic, logic, shifts, counts, bit fields, immediates. Every guarded lane receives the value. -/
def Obligations.IntegerAndLogicLanes : Prop :=
  IntegerLanes ∧ LogicAndShiftLanes

/-- R116 to R121, R127, R130 to R132: packed arithmetic, conversions, the block scale, and the special functions. -/
def Obligations.PackedAndSpecialLanes : Prop :=
  PackedAndConversionLanes ∧ SpecialFunctions

/-- R104 to R106, R123, R154, R155, R160 to R162, R195, R198, R382: what the instructions of operator state leave, and how TRAP
stops an element, with port 0 in its location word (log 25). -/
def Obligations.OperatorStateAndTraps : Prop :=
  OperatorStateInstructions ∧ ElementTrapStops

/-- R134, R135, R139 to R145: a memory firing enters the response queue with one access per guarded lane, or stops its element at the first lane that faults. -/
def Obligations.MemoryFirings : Prop :=
  MemoryFiringsIssue ∧ MemoryFiringsFault

/-- R165, R175, R224, R231: stores are performed at their bytes and nowhere else, a load's data arrive as memory and the group's own
stores then stand. -/
def Obligations.StoresReachMemory : Prop :=
  StoresArePerformed ∧ DataOfLoadsArrive ∧ LoadSeesOwnStore

/-- R171, R196, R197, R201: entering a trap, the double fault, and the return, which undoes the entry. -/
def Obligations.TrapsAndReturns : Prop :=
  TrapEntry ∧ ReturnFromTrap ∧ TrapThenReturn

/-- R191, R193, R383: event counters, escalation and resumption. -/
def Obligations.CountersAndEscalation : Prop :=
  CounterInstruction ∧ EscalationAndResume

/-- R187, R232, R234: group and cluster barriers, from the last arrival through the completion. -/
def Obligations.Barriers : Prop :=
  GroupBarrier ∧ ClusterBarrier

/-- R180, R181, R182, R189, R232, R249: GO, WAITL and WAITL.NB, and what the forms do without a load. -/
def Obligations.LoadControlInstructions : Prop :=
  LoadControl ∧ NoLoadTraps

/-- R189, R190, R233: layout reads, pins, and the rate limit, from the next window while a load runs (log 33). -/
def Obligations.LayoutAndRate : Prop :=
  LayoutInstructions ∧ RateInstruction

/-- R181, R184 to R186, R197, R232: LAUNCH, WAITG and the exit of a group. -/
def Obligations.LaunchesAndExits : Prop :=
  LaunchAndWait ∧ GroupExit

/-- R181, R182, R183, R205, R232, R285, R288, R292: STRM, MCAST and PATLD. -/
def Obligations.StreamsAndBindings : Prop :=
  StartStream ∧ MulticastAndBinding

/-- R200, R232, R377, R391, R397: INVR, CTXSV and CTXLD. -/
def Obligations.InvalidationAndContexts : Prop :=
  InvalidateByRange ∧ ContextSaveAndLoad

/-- R207, R208, R210 to R212: which coordinates every pattern instruction makes members, and the extent. -/
def Obligations.PatternSets : Prop :=
  PatternGenerators ∧ PatternTransforms ∧ PatternCombinations

/-- R213 to R216, R287: what a pattern program emits, line by line, what a port makes of its tokens under PVAL (no word of an earlier
token held: log 65), and that a rank counts the members before. -/
def Obligations.PatternTokens : Prop :=
  PatternStream ∧ LinesHoldMembers ∧ RankCountsMembersBefore ∧ ValueTokens

/-- R23, R25, R384, R386: a token leaves for every branch at once and arrives in order at the consumer. -/
def Obligations.TokenMovement : Prop :=
  TokenReleases ∧ TokenArrivals

/-- R29, R135, R136, R140, R144, R228, R368: accesses are performed, answers cross the tree network, full and empty waits end, answers
leave. The model's choices: only answers of element firings are packets in the share of 16 (log 57), and an entry leaves its
response queue also while a fault pends at its element (log 63). -/
def Obligations.MemoryCompletion : Prop :=
  MemoryAnswers ∧ TreePackets ∧ FullEmptyWaits ∧ AnswersLeave

/-- R30, R32, R193, R239, R240, R242, R249, R250, R388: the end of a load, the watchdog, windows and rewirings. -/
def Obligations.LoadEndAndLayoutEvents : Prop :=
  LoadEnds ∧ CalderaEvents

/-- R300 to R306: what the matrix island accepts, stages, computes and drains. The cut of its work is the model's (log 39): one
granule a stage event, operand A before B, the whole array pass in one event, a row a drain event. -/
def Obligations.IslandOperations : Prop :=
  IslandAccepts ∧ IslandWorks

/-- R223, R278, R280 to R283, R291: requests of address generators and their work. The model's choices: a request is taken in one
event and worked in later ones (log 32), and a WRITE holds the words of a granule until its request no longer continues it
(log 65's reading of R223). -/
def Obligations.AddressGenerators : Prop :=
  GeneratorRequests ∧ GeneratorWork

/-- R223, R283, R285 to R288, R399: streams, GET and PUTS. That a drain or PUTS holds words until their granule is whole, and that a
feed reads the rest of a granule ahead, is log 65's reading of R223. -/
def Obligations.StreamEngines : Prop :=
  StreamWork ∧ PortTransfers

/-- R166, R198, R292, R375: multicast deliveries, page-table walks, aging, asynchronous events. -/
def Obligations.FillsWalksAndEvents : Prop :=
  LineDeliveries ∧ WalkEnds ∧ AgingAndEvents

/-- R2, R228, R297, R354, R355, R363, R364, R406, R407: host reads and writes of memory, coherence requests, HDM decoders, host reads
of registers, queue registers and doorbells. The model's choices are log 47's: an undecoded host address is the host's own memory,
in Locked reads return 0, a coherence request of a line of device memory is served like one of a host line, and an address that
does not exist ends the step with a fault. -/
def Obligations.HostAccesses : Prop :=
  HostMemory ∧ HostDecoders ∧ HostRegisters ∧ QueueRegisters

/-- R164, R186, R197, R361, R367: how a launch starts and a group ends. -/
def Obligations.DispatchAndExit : Prop :=
  DispatcherStarts ∧ ChildrenExit

/-- R357 to R361, R376, R378, R380, R383, R404, R421, R425: partitions, slices, windows, and the invalidation agent. The model's
choices: windows and ASID ranges are stored without HOLD, and clearing HOLD where K would be 0 is refused (log 46); accesses are
marked whether or not a cache still held their translation (log 74). -/
def Obligations.PartitionsAndInvalidation : Prop :=
  PartitionControl ∧ PartitionRegisters ∧ Invalidations

/-- R80, R202, R249, R369, R390 to R396, R398: freeze, save, restore, thaw, and the reset of a partition. The model's choices: the header
with CRC 0 at the start of a save (log 11), the two events of a VF reset with the owed record and the end of Saved spans (log 48),
the ERR codes (log 45), the stores performed with a freeze, and what the host sees with the reset record (log 6). -/
def Obligations.PreemptionCommands : Prop :=
  Preemption ∧ PreemptionEnds ∧ RestoreAndReset

/-- R324, R332, R410, R423, R424: links, collective groups, epochs of the link table. The model's choices: windows and intervals count
the hub die's cycles (log 5), and of the epochs (log 49), that a second mismatch still takes the next epoch into force, that an
update of another epoch or one gathered before is dropped, that a first mismatch gathers on for the epoch that was to begin, and the
30,000 cycles of 20 µs. -/
def Obligations.FleetLinks : Prop :=
  LinkEvents ∧ GroupLife ∧ EpochEvents

/-- R328 to R334: partials, results, done reports, ends, marks. That a MEMBER_STATUS of 0 carries the parameters, and that no result is
taken before every member is known to agree, is log 49's reading of R328. -/
def Obligations.CollectiveProgress : Prop :=
  CollectiveEvents ∧ MarksArrive

/-- R406 to R413, R414, R419, R420, R428: boot, attestation, soft errors, power. The model's choices: the two steps of BOOT_VERIFY, the
memory that a package reset keeps, and the HOLD of die 0 that stays where a slice is not Clean (log 51); what a removal of power
clears (log 53); key and certificates (log 13); the hub die's counter (log 5). -/
def Obligations.BringUpAndReliability : Prop :=
  BringUp ∧ Attestation ∧ SoftErrors ∧ PowerLimits
end

