-- ==== Sys2Proof/Laws/Maps.lean ====
section
/-! SUPPORT. The laws of the sparse tables and of the fixed-size groups: a read after a write. -/

namespace Sys2Proof.Machine

open Sys2Proof

variable {α : Type}

/-- Every key of a list is above `n`. -/
def alAbove (n : Nat) (l : List (Nat × α)) : Prop := ∀ p ∈ l, n < p.1

@[simp] theorem forced_eq {β : Type} (x : Nat) (f : Nat → β) : forced x f = f x := by cases x <;> rfl

theorem alGet_above {n k : Nat} {l : List (Nat × α)} (h : alAbove n l) (hk : k ≤ n) : alGet l k = none := by
  induction l with
  | nil => rfl
  | cons p t ih =>
    obtain ⟨j, w⟩ := p
    have hj : n < j := h (j, w) (by simp)
    simp only [alGet, show ¬ k = j by omega, if_false]
    exact ih (fun q hq => h q (by simp [hq]))

@[simp] theorem alGet_alPut_same (l : List (Nat × α)) (k : Nat) (v : α) : alGet (alPut l k v) k = some v := by
  induction l with
  | nil => simp [alPut, alGet]
  | cons p t ih =>
    obtain ⟨j, w⟩ := p
    simp only [alPut]
    split
    · simp [alGet]
    · split
      · simp [alGet]
      · simp [alGet, *]

theorem alGet_alPut_ne (l : List (Nat × α)) {k j : Nat} (v : α) (h : j ≠ k) : alGet (alPut l k v) j = alGet l j := by
  induction l with
  | nil => simp [alPut, alGet, h]
  | cons p t ih =>
    obtain ⟨i, w⟩ := p
    simp only [alPut]
    split
    · simp [alGet, h]
    · split
      · next h1 => subst h1; simp [alGet, h]
      · simp [alGet, ih]

theorem alGet_alPut (l : List (Nat × α)) (k j : Nat) (v : α) :
    alGet (alPut l k v) j = if j = k then some v else alGet l j := by
  split
  · next h => subst h; simp
  · next h => exact alGet_alPut_ne l v h

theorem alGet_alDel_ne (l : List (Nat × α)) {k j : Nat} (h : j ≠ k) : alGet (alDel l k) j = alGet l j := by
  induction l with
  | nil => rfl
  | cons p t ih =>
    obtain ⟨i, w⟩ := p
    simp only [alDel]
    split
    · next h1 => subst h1; simp [alGet, h, ih]
    · simp [alGet, ih]

/-- The canonical form, said of a first entry and the rest. -/
theorem alWf_cons {p : Nat × α} {t : List (Nat × α)} : alWf (p :: t) = true ↔ alAbove p.1 t ∧ alWf t = true := by
  induction t generalizing p with
  | nil => simp [alWf, alAbove]
  | cons q u ih =>
    obtain ⟨i, v⟩ := p
    obtain ⟨j, w⟩ := q
    simp only [alWf, Bool.and_eq_true, decide_eq_true_eq]
    constructor
    · rintro ⟨h1, h2⟩
      refine ⟨?_, h2⟩
      intro r hr
      rcases List.mem_cons.mp hr with h | h
      · subst h; exact h1
      · exact lt_trans h1 ((ih.mp h2).1 r h)
    · rintro ⟨h1, h2⟩
      exact ⟨h1 (j, w) (by simp), h2⟩

theorem alAbove_alPut {n k : Nat} {l : List (Nat × α)} (v : α) (h : alAbove n l) (hk : n < k) : alAbove n (alPut l k v) := by
  induction l with
  | nil => intro p hp; simp only [alPut, List.mem_singleton] at hp; subst hp; exact hk
  | cons q t ih =>
    obtain ⟨j, w⟩ := q
    have ht : alAbove n t := fun r hr => h r (by simp [hr])
    have hj : n < j := h (j, w) (by simp)
    simp only [alPut]
    split
    · intro p hp
      rcases List.mem_cons.mp hp with e | e
      · subst e; exact hk
      · exact h p e
    · split
      · intro p hp
        rcases List.mem_cons.mp hp with e | e
        · subst e; exact hk
        · exact ht p e
      · intro p hp
        rcases List.mem_cons.mp hp with e | e
        · subst e; exact hj
        · exact ih ht p e

theorem alAbove_alDel {n k : Nat} {l : List (Nat × α)} (h : alAbove n l) : alAbove n (alDel l k) := by
  induction l with
  | nil => exact h
  | cons q t ih =>
    obtain ⟨j, w⟩ := q
    have ht : alAbove n t := fun r hr => h r (by simp [hr])
    simp only [alDel]
    split
    · exact ih ht
    · intro p hp
      rcases List.mem_cons.mp hp with e | e
      · subst e; exact h (j, w) (by simp)
      · exact ih ht p e

theorem alWf_alPut {l : List (Nat × α)} (k : Nat) (v : α) (h : alWf l = true) : alWf (alPut l k v) = true := by
  induction l with
  | nil => rfl
  | cons q t ih =>
    obtain ⟨j, w⟩ := q
    obtain ⟨h1, h2⟩ := alWf_cons.mp h
    simp only [alPut]
    split
    · next hk =>
      exact alWf_cons.mpr ⟨fun p hp => by
        rcases List.mem_cons.mp hp with e | e
        · subst e; exact hk
        · exact lt_trans hk (h1 p e), h⟩
    · split
      · next hk => subst hk; exact alWf_cons.mpr ⟨h1, h2⟩
      · next h3 h4 => exact alWf_cons.mpr ⟨alAbove_alPut v h1 (by simp only; omega), ih h2⟩

theorem alWf_alDel {l : List (Nat × α)} (k : Nat) (h : alWf l = true) : alWf (alDel l k) = true := by
  induction l with
  | nil => rfl
  | cons q t ih =>
    obtain ⟨j, w⟩ := q
    obtain ⟨h1, h2⟩ := alWf_cons.mp h
    simp only [alDel]
    split
    · exact ih h2
    · exact alWf_cons.mpr ⟨alAbove_alDel h1, ih h2⟩

theorem alWf_filter {l : List (Nat × α)} (q : Nat × α → Bool) (h : alWf l = true) : alWf (l.filter q) = true := by
  induction l with
  | nil => exact h
  | cons p t ih =>
    obtain ⟨h1, h2⟩ := alWf_cons.mp h
    rw [List.filter_cons]
    split
    · exact alWf_cons.mpr ⟨fun x hx => h1 x (List.mem_filter.mp hx).1, ih h2⟩
    · exact ih h2

@[simp] theorem alGet_alDel_same (l : List (Nat × α)) (k : Nat) : alGet (alDel l k) k = none := by
  induction l with
  | nil => rfl
  | cons q t ih =>
    obtain ⟨j, w⟩ := q
    simp only [alDel]
    split
    · exact ih
    · next hk => simp only [alGet, hk, if_false]; exact ih

theorem mem_alPut {l : List (Nat × α)} {k : Nat} {v : α} {p : Nat × α} (h : p ∈ alPut l k v) : p = (k, v) ∨ p ∈ l := by
  induction l with
  | nil => left; simpa [alPut] using h
  | cons q t ih =>
    obtain ⟨j, w⟩ := q
    simp only [alPut] at h
    split at h
    · rcases List.mem_cons.mp h with e | e
      · exact .inl e
      · exact .inr e
    · split at h
      · rcases List.mem_cons.mp h with e | e
        · exact .inl e
        · exact .inr (by simp [e])
      · rcases List.mem_cons.mp h with e | e
        · exact .inr (by simp [e])
        · rcases ih e with e2 | e2
          · exact .inl e2
          · exact .inr (by simp [e2])

theorem mem_alDel {l : List (Nat × α)} {k : Nat} {p : Nat × α} (h : p ∈ alDel l k) : p ∈ l := by
  induction l with
  | nil => exact h
  | cons q t ih =>
    obtain ⟨j, w⟩ := q
    simp only [alDel] at h
    split at h
    · simp [ih h]
    · rcases List.mem_cons.mp h with e | e
      · simp [e]
      · simp [ih e]

/-! Tables. -/

@[simp] theorem amGet_amPut_same (m : AMap α) (k : Nat) (v : α) : amGet (amPut m k v) k = some v := by
  simp [amGet, amPut]
theorem amGet_amPut_ne (m : AMap α) {k j : Nat} (v : α) (h : j ≠ k) : amGet (amPut m k v) j = amGet m j := by
  simp [amGet, amPut, alGet_alPut_ne _ _ h]
@[simp] theorem amGetD_amPut_same (m : AMap α) (k : Nat) (v d : α) : amGetD (amPut m k v) k d = v := by
  simp [amGetD]
theorem amGetD_amPut_ne (m : AMap α) {k j : Nat} (v d : α) (h : j ≠ k) : amGetD (amPut m k v) j d = amGetD m j d := by
  simp [amGetD, amGet_amPut_ne _ _ h]
@[simp] theorem amGet_amDel_same (m : AMap α) (k : Nat) : amGet (amDel m k) k = none := by simp [amGet, amDel]
theorem amGet_amDel_ne (m : AMap α) {k j : Nat} (h : j ≠ k) : amGet (amDel m k) j = amGet m j := by
  simp [amGet, amDel, alGet_alDel_ne _ h]
theorem amWf_amPut {m : AMap α} (k : Nat) (v : α) (h : amWf m = true) : amWf (amPut m k v) = true := alWf_alPut k v h
theorem amWf_amDel {m : AMap α} (k : Nat) (h : amWf m = true) : amWf (amDel m k) = true := alWf_alDel k h
@[simp] theorem amGet_amMod_same (m : AMap α) (k : Nat) (f : α → α) : amGet (amMod m k f) k = (amGet m k).map f := by
  unfold amMod
  cases h : amGet m k <;> simp [h]
@[simp] theorem amGetD_amPutD_same [DecidableEq α] (m : AMap α) (k : Nat) (v d : α) : amGetD (amPutD m k v d) k d = v := by
  unfold amPutD
  split
  · next h => simp [amGetD, h]
  · simp
theorem amGetD_amPutD_ne [DecidableEq α] (m : AMap α) {k j : Nat} (v d e : α) (h : j ≠ k) : amGetD (amPutD m k v d) j e = amGetD m j e := by
  unfold amPutD
  split
  · simp [amGetD, amGet_amDel_ne _ h]
  · exact amGetD_amPut_ne _ _ _ h
theorem amGet_amMod_ne (m : AMap α) {k j : Nat} (f : α → α) (h : j ≠ k) : amGet (amMod m k f) j = amGet m j := by
  unfold amMod
  cases amGet m k <;> simp [amGet_amPut_ne _ _ h]

theorem alGet_map (l : List (Nat × α)) (f : Nat → α → α) (k : Nat) :
    alGet (l.map (fun p => (p.1, f p.1 p.2))) k = (alGet l k).map (f k) := by
  induction l with
  | nil => rfl
  | cons q t ih =>
    obtain ⟨j, w⟩ := q
    simp only [List.map_cons, alGet]
    split
    · next h => subst h; rfl
    · exact ih
@[simp] theorem amGet_amMap (m : AMap α) (f : Nat → α → α) (k : Nat) : amGet (amMap m f) k = (amGet m k).map (f k) :=
  alGet_map m.entries f k

/-! Groups. -/

theorem vec4Get_set (v : Vec4 α) {i j : Nat} (x : α) (hi : i < 4) (hj : j < 4) :
    vec4Get (vec4Set v i x) j = if j = i then x else vec4Get v j := by
  interval_cases i <;> interval_cases j <;> rfl
theorem vec8Get_set (v : Vec8 α) {i j : Nat} (x : α) (hi : i < 8) (hj : j < 8) :
    vec8Get (vec8Set v i x) j = if j = i then x else vec8Get v j := by
  interval_cases i <;> interval_cases j <;> rfl
theorem vec16Get_set (v : Vec16 α) {i j : Nat} (x : α) (hi : i < 16) (hj : j < 16) :
    vec16Get (vec16Set v i x) j = if j = i then x else vec16Get v j := by
  unfold vec16Get vec16Set
  by_cases h1 : i < 8 <;> by_cases h2 : j < 8 <;> simp only [h1, h2, if_true, if_false]
  · exact vec8Get_set _ _ h1 h2
  · rw [if_neg (by omega)]
  · rw [if_neg (by omega)]
  · rw [vec8Get_set _ _ (by omega) (by omega)]
    by_cases h3 : j = i
    · simp [h3]
    · rw [if_neg (by omega), if_neg h3]
theorem vec32Get_set (v : Vec32 α) {i j : Nat} (x : α) (hi : i < 32) (hj : j < 32) :
    vec32Get (vec32Set v i x) j = if j = i then x else vec32Get v j := by
  unfold vec32Get vec32Set
  by_cases h1 : i < 16 <;> by_cases h2 : j < 16 <;> simp only [h1, h2, if_true, if_false]
  · exact vec16Get_set _ _ h1 h2
  · rw [if_neg (by omega)]
  · rw [if_neg (by omega)]
  · rw [vec16Get_set _ _ (by omega) (by omega)]
    by_cases h3 : j = i
    · simp [h3]
    · rw [if_neg (by omega), if_neg h3]
theorem vec8Get_of (f : Nat → α) {i : Nat} (b : Nat) (hi : i < 8) : vec8Get (vec8Of f b) i = f (b + i) := by
  interval_cases i <;> rfl
theorem vec4Get_of (f : Nat → α) {i : Nat} (b : Nat) (hi : i < 4) : vec4Get (vec4Of f b) i = f (b + i) := by
  interval_cases i <;> rfl
theorem vec16Get_of (f : Nat → α) {i : Nat} (b : Nat) (hi : i < 16) : vec16Get (vec16Of f b) i = f (b + i) := by
  interval_cases i <;> rfl

end Sys2Proof.Machine
end

