-- ==== Sys2Proof/Laws/State.lean ====
section
/-! SUPPORT. One lemma per field of the state and per update that leaves it: no later proof unfolds an update. -/

namespace Sys2Proof.Machine

open Sys2Proof

@[simp] theorem modCl_cur (s : State) (cl : Nat) (f : Cluster → Cluster) : (modCl s cl f).cur = s.cur := rfl
@[simp] theorem modCl_agenda (s : State) (cl : Nat) (f : Cluster → Cluster) : (modCl s cl f).agenda = s.agenda := rfl
@[simp] theorem modCl_tick (s : State) (cl : Nat) (f : Cluster → Cluster) : (modCl s cl f).tick = s.tick := rfl
@[simp] theorem modCl_free (s : State) (cl : Nat) (f : Cluster → Cluster) : (modCl s cl f).free = s.free := rfl
@[simp] theorem modCl_serial (s : State) (cl : Nat) (f : Cluster → Cluster) : (modCl s cl f).serial = s.serial := rfl
@[simp] theorem modCl_net (s : State) (cl : Nat) (f : Cluster → Cluster) : (modCl s cl f).net = s.net := rfl
@[simp] theorem modCl_mem (s : State) (cl : Nat) (f : Cluster → Cluster) : (modCl s cl f).mem = s.mem := rfl
@[simp] theorem modCl_near (s : State) (cl : Nat) (f : Cluster → Cluster) : (modCl s cl f).near = s.near := rfl
@[simp] theorem modCl_lag (s : State) (cl : Nat) (f : Cluster → Cluster) : (modCl s cl f).lag = s.lag := rfl
@[simp] theorem modCl_bad (s : State) (cl : Nat) (f : Cluster → Cluster) : (modCl s cl f).bad = s.bad := rfl
@[simp] theorem modCl_dir (s : State) (cl : Nat) (f : Cluster → Cluster) : (modCl s cl f).dir = s.dir := rfl
@[simp] theorem modCl_cycles (s : State) (cl : Nat) (f : Cluster → Cluster) : (modCl s cl f).cycles = s.cycles := rfl
@[simp] theorem modCl_spans (s : State) (cl : Nat) (f : Cluster → Cluster) : (modCl s cl f).spans = s.spans := rfl
@[simp] theorem modCl_hub (s : State) (cl : Nat) (f : Cluster → Cluster) : (modCl s cl f).hub = s.hub := rfl

@[simp] theorem modEl_cur (s : State) (cl el : Nat) (f : Elem → Elem) : (modEl s cl el f).cur = s.cur := rfl
@[simp] theorem modEl_agenda (s : State) (cl el : Nat) (f : Elem → Elem) : (modEl s cl el f).agenda = s.agenda := rfl
@[simp] theorem modEl_tick (s : State) (cl el : Nat) (f : Elem → Elem) : (modEl s cl el f).tick = s.tick := rfl
@[simp] theorem modEl_free (s : State) (cl el : Nat) (f : Elem → Elem) : (modEl s cl el f).free = s.free := rfl
@[simp] theorem modEl_serial (s : State) (cl el : Nat) (f : Elem → Elem) : (modEl s cl el f).serial = s.serial := rfl
@[simp] theorem modEl_net (s : State) (cl el : Nat) (f : Elem → Elem) : (modEl s cl el f).net = s.net := rfl
@[simp] theorem modEl_mem (s : State) (cl el : Nat) (f : Elem → Elem) : (modEl s cl el f).mem = s.mem := rfl
@[simp] theorem modEl_near (s : State) (cl el : Nat) (f : Elem → Elem) : (modEl s cl el f).near = s.near := rfl
@[simp] theorem modEl_lag (s : State) (cl el : Nat) (f : Elem → Elem) : (modEl s cl el f).lag = s.lag := rfl
@[simp] theorem modEl_bad (s : State) (cl el : Nat) (f : Elem → Elem) : (modEl s cl el f).bad = s.bad := rfl
@[simp] theorem modEl_dir (s : State) (cl el : Nat) (f : Elem → Elem) : (modEl s cl el f).dir = s.dir := rfl
@[simp] theorem modEl_cycles (s : State) (cl el : Nat) (f : Elem → Elem) : (modEl s cl el f).cycles = s.cycles := rfl
@[simp] theorem modEl_spans (s : State) (cl el : Nat) (f : Elem → Elem) : (modEl s cl el f).spans = s.spans := rfl
@[simp] theorem modEl_hub (s : State) (cl el : Nat) (f : Elem → Elem) : (modEl s cl el f).hub = s.hub := rfl

@[simp] theorem modTile_cur (s : State) (cl n : Nat) (f : Tile → Tile) : (modTile s cl n f).cur = s.cur := rfl
@[simp] theorem modTile_agenda (s : State) (cl n : Nat) (f : Tile → Tile) : (modTile s cl n f).agenda = s.agenda := rfl
@[simp] theorem modTile_tick (s : State) (cl n : Nat) (f : Tile → Tile) : (modTile s cl n f).tick = s.tick := rfl
@[simp] theorem modTile_free (s : State) (cl n : Nat) (f : Tile → Tile) : (modTile s cl n f).free = s.free := rfl
@[simp] theorem modTile_serial (s : State) (cl n : Nat) (f : Tile → Tile) : (modTile s cl n f).serial = s.serial := rfl
@[simp] theorem modTile_net (s : State) (cl n : Nat) (f : Tile → Tile) : (modTile s cl n f).net = s.net := rfl
@[simp] theorem modTile_mem (s : State) (cl n : Nat) (f : Tile → Tile) : (modTile s cl n f).mem = s.mem := rfl
@[simp] theorem modTile_near (s : State) (cl n : Nat) (f : Tile → Tile) : (modTile s cl n f).near = s.near := rfl
@[simp] theorem modTile_lag (s : State) (cl n : Nat) (f : Tile → Tile) : (modTile s cl n f).lag = s.lag := rfl
@[simp] theorem modTile_bad (s : State) (cl n : Nat) (f : Tile → Tile) : (modTile s cl n f).bad = s.bad := rfl
@[simp] theorem modTile_dir (s : State) (cl n : Nat) (f : Tile → Tile) : (modTile s cl n f).dir = s.dir := rfl
@[simp] theorem modTile_cycles (s : State) (cl n : Nat) (f : Tile → Tile) : (modTile s cl n f).cycles = s.cycles := rfl
@[simp] theorem modTile_spans (s : State) (cl n : Nat) (f : Tile → Tile) : (modTile s cl n f).spans = s.spans := rfl
@[simp] theorem modTile_hub (s : State) (cl n : Nat) (f : Tile → Tile) : (modTile s cl n f).hub = s.hub := rfl

@[simp] theorem modGen_cur (s : State) (cl n a : Nat) (f : AddrGen → AddrGen) : (modGen s cl n a f).cur = s.cur := rfl
@[simp] theorem modGen_agenda (s : State) (cl n a : Nat) (f : AddrGen → AddrGen) : (modGen s cl n a f).agenda = s.agenda := rfl
@[simp] theorem modGen_tick (s : State) (cl n a : Nat) (f : AddrGen → AddrGen) : (modGen s cl n a f).tick = s.tick := rfl
@[simp] theorem modGen_free (s : State) (cl n a : Nat) (f : AddrGen → AddrGen) : (modGen s cl n a f).free = s.free := rfl
@[simp] theorem modGen_serial (s : State) (cl n a : Nat) (f : AddrGen → AddrGen) : (modGen s cl n a f).serial = s.serial := rfl
@[simp] theorem modGen_net (s : State) (cl n a : Nat) (f : AddrGen → AddrGen) : (modGen s cl n a f).net = s.net := rfl
@[simp] theorem modGen_mem (s : State) (cl n a : Nat) (f : AddrGen → AddrGen) : (modGen s cl n a f).mem = s.mem := rfl
@[simp] theorem modGen_near (s : State) (cl n a : Nat) (f : AddrGen → AddrGen) : (modGen s cl n a f).near = s.near := rfl
@[simp] theorem modGen_lag (s : State) (cl n a : Nat) (f : AddrGen → AddrGen) : (modGen s cl n a f).lag = s.lag := rfl
@[simp] theorem modGen_bad (s : State) (cl n a : Nat) (f : AddrGen → AddrGen) : (modGen s cl n a f).bad = s.bad := rfl
@[simp] theorem modGen_dir (s : State) (cl n a : Nat) (f : AddrGen → AddrGen) : (modGen s cl n a f).dir = s.dir := rfl
@[simp] theorem modGen_cycles (s : State) (cl n a : Nat) (f : AddrGen → AddrGen) : (modGen s cl n a f).cycles = s.cycles := rfl
@[simp] theorem modGen_spans (s : State) (cl n a : Nat) (f : AddrGen → AddrGen) : (modGen s cl n a f).spans = s.spans := rfl
@[simp] theorem modGen_hub (s : State) (cl n a : Nat) (f : AddrGen → AddrGen) : (modGen s cl n a f).hub = s.hub := rfl

@[simp] theorem modPort_cur (s : State) (cl p : Nat) (f : SPort → SPort) : (modPort s cl p f).cur = s.cur := rfl
@[simp] theorem modPort_agenda (s : State) (cl p : Nat) (f : SPort → SPort) : (modPort s cl p f).agenda = s.agenda := rfl
@[simp] theorem modPort_tick (s : State) (cl p : Nat) (f : SPort → SPort) : (modPort s cl p f).tick = s.tick := rfl
@[simp] theorem modPort_free (s : State) (cl p : Nat) (f : SPort → SPort) : (modPort s cl p f).free = s.free := rfl
@[simp] theorem modPort_serial (s : State) (cl p : Nat) (f : SPort → SPort) : (modPort s cl p f).serial = s.serial := rfl
@[simp] theorem modPort_net (s : State) (cl p : Nat) (f : SPort → SPort) : (modPort s cl p f).net = s.net := rfl
@[simp] theorem modPort_mem (s : State) (cl p : Nat) (f : SPort → SPort) : (modPort s cl p f).mem = s.mem := rfl
@[simp] theorem modPort_near (s : State) (cl p : Nat) (f : SPort → SPort) : (modPort s cl p f).near = s.near := rfl
@[simp] theorem modPort_lag (s : State) (cl p : Nat) (f : SPort → SPort) : (modPort s cl p f).lag = s.lag := rfl
@[simp] theorem modPort_bad (s : State) (cl p : Nat) (f : SPort → SPort) : (modPort s cl p f).bad = s.bad := rfl
@[simp] theorem modPort_dir (s : State) (cl p : Nat) (f : SPort → SPort) : (modPort s cl p f).dir = s.dir := rfl
@[simp] theorem modPort_cycles (s : State) (cl p : Nat) (f : SPort → SPort) : (modPort s cl p f).cycles = s.cycles := rfl
@[simp] theorem modPort_spans (s : State) (cl p : Nat) (f : SPort → SPort) : (modPort s cl p f).spans = s.spans := rfl
@[simp] theorem modPort_hub (s : State) (cl p : Nat) (f : SPort → SPort) : (modPort s cl p f).hub = s.hub := rfl

@[simp] theorem modIsland_cur (s : State) (cl : Nat) (f : Island → Island) : (modIsland s cl f).cur = s.cur := rfl
@[simp] theorem modIsland_agenda (s : State) (cl : Nat) (f : Island → Island) : (modIsland s cl f).agenda = s.agenda := rfl
@[simp] theorem modIsland_tick (s : State) (cl : Nat) (f : Island → Island) : (modIsland s cl f).tick = s.tick := rfl
@[simp] theorem modIsland_free (s : State) (cl : Nat) (f : Island → Island) : (modIsland s cl f).free = s.free := rfl
@[simp] theorem modIsland_serial (s : State) (cl : Nat) (f : Island → Island) : (modIsland s cl f).serial = s.serial := rfl
@[simp] theorem modIsland_net (s : State) (cl : Nat) (f : Island → Island) : (modIsland s cl f).net = s.net := rfl
@[simp] theorem modIsland_mem (s : State) (cl : Nat) (f : Island → Island) : (modIsland s cl f).mem = s.mem := rfl
@[simp] theorem modIsland_near (s : State) (cl : Nat) (f : Island → Island) : (modIsland s cl f).near = s.near := rfl
@[simp] theorem modIsland_lag (s : State) (cl : Nat) (f : Island → Island) : (modIsland s cl f).lag = s.lag := rfl
@[simp] theorem modIsland_bad (s : State) (cl : Nat) (f : Island → Island) : (modIsland s cl f).bad = s.bad := rfl
@[simp] theorem modIsland_dir (s : State) (cl : Nat) (f : Island → Island) : (modIsland s cl f).dir = s.dir := rfl
@[simp] theorem modIsland_cycles (s : State) (cl : Nat) (f : Island → Island) : (modIsland s cl f).cycles = s.cycles := rfl
@[simp] theorem modIsland_spans (s : State) (cl : Nat) (f : Island → Island) : (modIsland s cl f).spans = s.spans := rfl
@[simp] theorem modIsland_hub (s : State) (cl : Nat) (f : Island → Island) : (modIsland s cl f).hub = s.hub := rfl

@[simp] theorem modCore_cur (s : State) (cl : Nat) (f : Core → Core) : (modCore s cl f).cur = s.cur := rfl
@[simp] theorem modCore_agenda (s : State) (cl : Nat) (f : Core → Core) : (modCore s cl f).agenda = s.agenda := rfl
@[simp] theorem modCore_tick (s : State) (cl : Nat) (f : Core → Core) : (modCore s cl f).tick = s.tick := rfl
@[simp] theorem modCore_free (s : State) (cl : Nat) (f : Core → Core) : (modCore s cl f).free = s.free := rfl
@[simp] theorem modCore_serial (s : State) (cl : Nat) (f : Core → Core) : (modCore s cl f).serial = s.serial := rfl
@[simp] theorem modCore_net (s : State) (cl : Nat) (f : Core → Core) : (modCore s cl f).net = s.net := rfl
@[simp] theorem modCore_mem (s : State) (cl : Nat) (f : Core → Core) : (modCore s cl f).mem = s.mem := rfl
@[simp] theorem modCore_near (s : State) (cl : Nat) (f : Core → Core) : (modCore s cl f).near = s.near := rfl
@[simp] theorem modCore_lag (s : State) (cl : Nat) (f : Core → Core) : (modCore s cl f).lag = s.lag := rfl
@[simp] theorem modCore_bad (s : State) (cl : Nat) (f : Core → Core) : (modCore s cl f).bad = s.bad := rfl
@[simp] theorem modCore_dir (s : State) (cl : Nat) (f : Core → Core) : (modCore s cl f).dir = s.dir := rfl
@[simp] theorem modCore_cycles (s : State) (cl : Nat) (f : Core → Core) : (modCore s cl f).cycles = s.cycles := rfl
@[simp] theorem modCore_spans (s : State) (cl : Nat) (f : Core → Core) : (modCore s cl f).spans = s.spans := rfl
@[simp] theorem modCore_hub (s : State) (cl : Nat) (f : Core → Core) : (modCore s cl f).hub = s.hub := rfl

@[simp] theorem modGrp_cur (s : State) (cl g : Nat) (f : Group → Group) : (modGrp s cl g f).cur = s.cur := rfl
@[simp] theorem modGrp_agenda (s : State) (cl g : Nat) (f : Group → Group) : (modGrp s cl g f).agenda = s.agenda := rfl
@[simp] theorem modGrp_tick (s : State) (cl g : Nat) (f : Group → Group) : (modGrp s cl g f).tick = s.tick := rfl
@[simp] theorem modGrp_free (s : State) (cl g : Nat) (f : Group → Group) : (modGrp s cl g f).free = s.free := rfl
@[simp] theorem modGrp_serial (s : State) (cl g : Nat) (f : Group → Group) : (modGrp s cl g f).serial = s.serial := rfl
@[simp] theorem modGrp_net (s : State) (cl g : Nat) (f : Group → Group) : (modGrp s cl g f).net = s.net := rfl
@[simp] theorem modGrp_mem (s : State) (cl g : Nat) (f : Group → Group) : (modGrp s cl g f).mem = s.mem := rfl
@[simp] theorem modGrp_near (s : State) (cl g : Nat) (f : Group → Group) : (modGrp s cl g f).near = s.near := rfl
@[simp] theorem modGrp_lag (s : State) (cl g : Nat) (f : Group → Group) : (modGrp s cl g f).lag = s.lag := rfl
@[simp] theorem modGrp_bad (s : State) (cl g : Nat) (f : Group → Group) : (modGrp s cl g f).bad = s.bad := rfl
@[simp] theorem modGrp_dir (s : State) (cl g : Nat) (f : Group → Group) : (modGrp s cl g f).dir = s.dir := rfl
@[simp] theorem modGrp_cycles (s : State) (cl g : Nat) (f : Group → Group) : (modGrp s cl g f).cycles = s.cycles := rfl
@[simp] theorem modGrp_spans (s : State) (cl g : Nat) (f : Group → Group) : (modGrp s cl g f).spans = s.spans := rfl
@[simp] theorem modGrp_hub (s : State) (cl g : Nat) (f : Group → Group) : (modGrp s cl g f).hub = s.hub := rfl

@[simp] theorem modCtx_cur (s : State) (cl c : Nat) (f : GenCtx → GenCtx) : (modCtx s cl c f).cur = s.cur := rfl
@[simp] theorem modCtx_agenda (s : State) (cl c : Nat) (f : GenCtx → GenCtx) : (modCtx s cl c f).agenda = s.agenda := rfl
@[simp] theorem modCtx_tick (s : State) (cl c : Nat) (f : GenCtx → GenCtx) : (modCtx s cl c f).tick = s.tick := rfl
@[simp] theorem modCtx_free (s : State) (cl c : Nat) (f : GenCtx → GenCtx) : (modCtx s cl c f).free = s.free := rfl
@[simp] theorem modCtx_serial (s : State) (cl c : Nat) (f : GenCtx → GenCtx) : (modCtx s cl c f).serial = s.serial := rfl
@[simp] theorem modCtx_net (s : State) (cl c : Nat) (f : GenCtx → GenCtx) : (modCtx s cl c f).net = s.net := rfl
@[simp] theorem modCtx_mem (s : State) (cl c : Nat) (f : GenCtx → GenCtx) : (modCtx s cl c f).mem = s.mem := rfl
@[simp] theorem modCtx_near (s : State) (cl c : Nat) (f : GenCtx → GenCtx) : (modCtx s cl c f).near = s.near := rfl
@[simp] theorem modCtx_lag (s : State) (cl c : Nat) (f : GenCtx → GenCtx) : (modCtx s cl c f).lag = s.lag := rfl
@[simp] theorem modCtx_bad (s : State) (cl c : Nat) (f : GenCtx → GenCtx) : (modCtx s cl c f).bad = s.bad := rfl
@[simp] theorem modCtx_dir (s : State) (cl c : Nat) (f : GenCtx → GenCtx) : (modCtx s cl c f).dir = s.dir := rfl
@[simp] theorem modCtx_cycles (s : State) (cl c : Nat) (f : GenCtx → GenCtx) : (modCtx s cl c f).cycles = s.cycles := rfl
@[simp] theorem modCtx_spans (s : State) (cl c : Nat) (f : GenCtx → GenCtx) : (modCtx s cl c f).spans = s.spans := rfl
@[simp] theorem modCtx_hub (s : State) (cl c : Nat) (f : GenCtx → GenCtx) : (modCtx s cl c f).hub = s.hub := rfl

@[simp] theorem modCur_cur (s : State) (f : Group → Group) : (modCur s f).cur = s.cur := rfl
@[simp] theorem modCur_agenda (s : State) (f : Group → Group) : (modCur s f).agenda = s.agenda := rfl
@[simp] theorem modCur_tick (s : State) (f : Group → Group) : (modCur s f).tick = s.tick := rfl
@[simp] theorem modCur_free (s : State) (f : Group → Group) : (modCur s f).free = s.free := rfl
@[simp] theorem modCur_serial (s : State) (f : Group → Group) : (modCur s f).serial = s.serial := rfl
@[simp] theorem modCur_net (s : State) (f : Group → Group) : (modCur s f).net = s.net := rfl
@[simp] theorem modCur_mem (s : State) (f : Group → Group) : (modCur s f).mem = s.mem := rfl
@[simp] theorem modCur_near (s : State) (f : Group → Group) : (modCur s f).near = s.near := rfl
@[simp] theorem modCur_lag (s : State) (f : Group → Group) : (modCur s f).lag = s.lag := rfl
@[simp] theorem modCur_bad (s : State) (f : Group → Group) : (modCur s f).bad = s.bad := rfl
@[simp] theorem modCur_dir (s : State) (f : Group → Group) : (modCur s f).dir = s.dir := rfl
@[simp] theorem modCur_cycles (s : State) (f : Group → Group) : (modCur s f).cycles = s.cycles := rfl
@[simp] theorem modCur_spans (s : State) (f : Group → Group) : (modCur s f).spans = s.spans := rfl
@[simp] theorem modCur_hub (s : State) (f : Group → Group) : (modCur s f).hub = s.hub := rfl

@[simp] theorem postEvent_cur (s : State) (cl : Nat) (r : FaultRec) : (postEvent s cl r).cur = s.cur := rfl
@[simp] theorem postEvent_agenda (s : State) (cl : Nat) (r : FaultRec) : (postEvent s cl r).agenda = s.agenda := rfl
@[simp] theorem postEvent_tick (s : State) (cl : Nat) (r : FaultRec) : (postEvent s cl r).tick = s.tick := rfl
@[simp] theorem postEvent_free (s : State) (cl : Nat) (r : FaultRec) : (postEvent s cl r).free = s.free := rfl
@[simp] theorem postEvent_serial (s : State) (cl : Nat) (r : FaultRec) : (postEvent s cl r).serial = s.serial := rfl
@[simp] theorem postEvent_net (s : State) (cl : Nat) (r : FaultRec) : (postEvent s cl r).net = s.net := rfl
@[simp] theorem postEvent_mem (s : State) (cl : Nat) (r : FaultRec) : (postEvent s cl r).mem = s.mem := rfl
@[simp] theorem postEvent_near (s : State) (cl : Nat) (r : FaultRec) : (postEvent s cl r).near = s.near := rfl
@[simp] theorem postEvent_lag (s : State) (cl : Nat) (r : FaultRec) : (postEvent s cl r).lag = s.lag := rfl
@[simp] theorem postEvent_bad (s : State) (cl : Nat) (r : FaultRec) : (postEvent s cl r).bad = s.bad := rfl
@[simp] theorem postEvent_dir (s : State) (cl : Nat) (r : FaultRec) : (postEvent s cl r).dir = s.dir := rfl
@[simp] theorem postEvent_cycles (s : State) (cl : Nat) (r : FaultRec) : (postEvent s cl r).cycles = s.cycles := rfl
@[simp] theorem postEvent_spans (s : State) (cl : Nat) (r : FaultRec) : (postEvent s cl r).spans = s.spans := rfl
@[simp] theorem postEvent_hub (s : State) (cl : Nat) (r : FaultRec) : (postEvent s cl r).hub = s.hub := rfl

@[simp] theorem setPend_cur (s : State) (cl n : Nat) : (setPend s cl n).cur = s.cur := rfl
@[simp] theorem setPend_agenda (s : State) (cl n : Nat) : (setPend s cl n).agenda = s.agenda := rfl
@[simp] theorem setPend_tick (s : State) (cl n : Nat) : (setPend s cl n).tick = s.tick := rfl
@[simp] theorem setPend_free (s : State) (cl n : Nat) : (setPend s cl n).free = s.free := rfl
@[simp] theorem setPend_serial (s : State) (cl n : Nat) : (setPend s cl n).serial = s.serial := rfl
@[simp] theorem setPend_net (s : State) (cl n : Nat) : (setPend s cl n).net = s.net := rfl
@[simp] theorem setPend_mem (s : State) (cl n : Nat) : (setPend s cl n).mem = s.mem := rfl
@[simp] theorem setPend_near (s : State) (cl n : Nat) : (setPend s cl n).near = s.near := rfl
@[simp] theorem setPend_lag (s : State) (cl n : Nat) : (setPend s cl n).lag = s.lag := rfl
@[simp] theorem setPend_bad (s : State) (cl n : Nat) : (setPend s cl n).bad = s.bad := rfl
@[simp] theorem setPend_dir (s : State) (cl n : Nat) : (setPend s cl n).dir = s.dir := rfl
@[simp] theorem setPend_cycles (s : State) (cl n : Nat) : (setPend s cl n).cycles = s.cycles := rfl
@[simp] theorem setPend_spans (s : State) (cl n : Nat) : (setPend s cl n).spans = s.spans := rfl
@[simp] theorem setPend_hub (s : State) (cl n : Nat) : (setPend s cl n).hub = s.hub := rfl

@[simp] theorem finish_cur (s : State) (len : Nat) (d : BitVec 5) (v : W64) : (finish s len d v).cur = s.cur := rfl
@[simp] theorem finish_agenda (s : State) (len : Nat) (d : BitVec 5) (v : W64) : (finish s len d v).agenda = s.agenda := rfl
@[simp] theorem finish_tick (s : State) (len : Nat) (d : BitVec 5) (v : W64) : (finish s len d v).tick = s.tick := rfl
@[simp] theorem finish_free (s : State) (len : Nat) (d : BitVec 5) (v : W64) : (finish s len d v).free = s.free := rfl
@[simp] theorem finish_serial (s : State) (len : Nat) (d : BitVec 5) (v : W64) : (finish s len d v).serial = s.serial := rfl
@[simp] theorem finish_net (s : State) (len : Nat) (d : BitVec 5) (v : W64) : (finish s len d v).net = s.net := rfl
@[simp] theorem finish_mem (s : State) (len : Nat) (d : BitVec 5) (v : W64) : (finish s len d v).mem = s.mem := rfl
@[simp] theorem finish_near (s : State) (len : Nat) (d : BitVec 5) (v : W64) : (finish s len d v).near = s.near := rfl
@[simp] theorem finish_lag (s : State) (len : Nat) (d : BitVec 5) (v : W64) : (finish s len d v).lag = s.lag := rfl
@[simp] theorem finish_bad (s : State) (len : Nat) (d : BitVec 5) (v : W64) : (finish s len d v).bad = s.bad := rfl
@[simp] theorem finish_dir (s : State) (len : Nat) (d : BitVec 5) (v : W64) : (finish s len d v).dir = s.dir := rfl
@[simp] theorem finish_cycles (s : State) (len : Nat) (d : BitVec 5) (v : W64) : (finish s len d v).cycles = s.cycles := rfl
@[simp] theorem finish_spans (s : State) (len : Nat) (d : BitVec 5) (v : W64) : (finish s len d v).spans = s.spans := rfl
@[simp] theorem finish_hub (s : State) (len : Nat) (d : BitVec 5) (v : W64) : (finish s len d v).hub = s.hub := rfl

@[simp] theorem skip_cur (s : State) (len : Nat) : (skip s len).cur = s.cur := rfl
@[simp] theorem skip_agenda (s : State) (len : Nat) : (skip s len).agenda = s.agenda := rfl
@[simp] theorem skip_tick (s : State) (len : Nat) : (skip s len).tick = s.tick := rfl
@[simp] theorem skip_free (s : State) (len : Nat) : (skip s len).free = s.free := rfl
@[simp] theorem skip_serial (s : State) (len : Nat) : (skip s len).serial = s.serial := rfl
@[simp] theorem skip_net (s : State) (len : Nat) : (skip s len).net = s.net := rfl
@[simp] theorem skip_mem (s : State) (len : Nat) : (skip s len).mem = s.mem := rfl
@[simp] theorem skip_near (s : State) (len : Nat) : (skip s len).near = s.near := rfl
@[simp] theorem skip_lag (s : State) (len : Nat) : (skip s len).lag = s.lag := rfl
@[simp] theorem skip_bad (s : State) (len : Nat) : (skip s len).bad = s.bad := rfl
@[simp] theorem skip_dir (s : State) (len : Nat) : (skip s len).dir = s.dir := rfl
@[simp] theorem skip_cycles (s : State) (len : Nat) : (skip s len).cycles = s.cycles := rfl
@[simp] theorem skip_spans (s : State) (len : Nat) : (skip s len).spans = s.spans := rfl
@[simp] theorem skip_hub (s : State) (len : Nat) : (skip s len).hub = s.hub := rfl

@[simp] theorem modSpan_cur (s : State) (sp : Nat) (f : Span → Span) : (modSpan s sp f).cur = s.cur := rfl
@[simp] theorem modSpan_agenda (s : State) (sp : Nat) (f : Span → Span) : (modSpan s sp f).agenda = s.agenda := rfl
@[simp] theorem modSpan_tick (s : State) (sp : Nat) (f : Span → Span) : (modSpan s sp f).tick = s.tick := rfl
@[simp] theorem modSpan_free (s : State) (sp : Nat) (f : Span → Span) : (modSpan s sp f).free = s.free := rfl
@[simp] theorem modSpan_serial (s : State) (sp : Nat) (f : Span → Span) : (modSpan s sp f).serial = s.serial := rfl
@[simp] theorem modSpan_net (s : State) (sp : Nat) (f : Span → Span) : (modSpan s sp f).net = s.net := rfl
@[simp] theorem modSpan_mem (s : State) (sp : Nat) (f : Span → Span) : (modSpan s sp f).mem = s.mem := rfl
@[simp] theorem modSpan_near (s : State) (sp : Nat) (f : Span → Span) : (modSpan s sp f).near = s.near := rfl
@[simp] theorem modSpan_lag (s : State) (sp : Nat) (f : Span → Span) : (modSpan s sp f).lag = s.lag := rfl
@[simp] theorem modSpan_bad (s : State) (sp : Nat) (f : Span → Span) : (modSpan s sp f).bad = s.bad := rfl
@[simp] theorem modSpan_dir (s : State) (sp : Nat) (f : Span → Span) : (modSpan s sp f).dir = s.dir := rfl
@[simp] theorem modSpan_cycles (s : State) (sp : Nat) (f : Span → Span) : (modSpan s sp f).cycles = s.cycles := rfl
@[simp] theorem modSpan_clusters (s : State) (sp : Nat) (f : Span → Span) : (modSpan s sp f).clusters = s.clusters := rfl
@[simp] theorem modSpan_hub (s : State) (sp : Nat) (f : Span → Span) : (modSpan s sp f).hub = s.hub := rfl

@[simp] theorem modLoad_cur (s : State) (sp : Nat) (f : Load → Load) : (modLoad s sp f).cur = s.cur := rfl
@[simp] theorem modLoad_agenda (s : State) (sp : Nat) (f : Load → Load) : (modLoad s sp f).agenda = s.agenda := rfl
@[simp] theorem modLoad_tick (s : State) (sp : Nat) (f : Load → Load) : (modLoad s sp f).tick = s.tick := rfl
@[simp] theorem modLoad_free (s : State) (sp : Nat) (f : Load → Load) : (modLoad s sp f).free = s.free := rfl
@[simp] theorem modLoad_serial (s : State) (sp : Nat) (f : Load → Load) : (modLoad s sp f).serial = s.serial := rfl
@[simp] theorem modLoad_net (s : State) (sp : Nat) (f : Load → Load) : (modLoad s sp f).net = s.net := rfl
@[simp] theorem modLoad_mem (s : State) (sp : Nat) (f : Load → Load) : (modLoad s sp f).mem = s.mem := rfl
@[simp] theorem modLoad_near (s : State) (sp : Nat) (f : Load → Load) : (modLoad s sp f).near = s.near := rfl
@[simp] theorem modLoad_lag (s : State) (sp : Nat) (f : Load → Load) : (modLoad s sp f).lag = s.lag := rfl
@[simp] theorem modLoad_bad (s : State) (sp : Nat) (f : Load → Load) : (modLoad s sp f).bad = s.bad := rfl
@[simp] theorem modLoad_dir (s : State) (sp : Nat) (f : Load → Load) : (modLoad s sp f).dir = s.dir := rfl
@[simp] theorem modLoad_cycles (s : State) (sp : Nat) (f : Load → Load) : (modLoad s sp f).cycles = s.cycles := rfl
@[simp] theorem modLoad_clusters (s : State) (sp : Nat) (f : Load → Load) : (modLoad s sp f).clusters = s.clusters := rfl
@[simp] theorem modLoad_hub (s : State) (sp : Nat) (f : Load → Load) : (modLoad s sp f).hub = s.hub := rfl

@[simp] theorem modChan_cur (s : State) (sp ch : Nat) (f : Chan → Chan) : (modChan s sp ch f).cur = s.cur := rfl
@[simp] theorem modChan_agenda (s : State) (sp ch : Nat) (f : Chan → Chan) : (modChan s sp ch f).agenda = s.agenda := rfl
@[simp] theorem modChan_tick (s : State) (sp ch : Nat) (f : Chan → Chan) : (modChan s sp ch f).tick = s.tick := rfl
@[simp] theorem modChan_free (s : State) (sp ch : Nat) (f : Chan → Chan) : (modChan s sp ch f).free = s.free := rfl
@[simp] theorem modChan_serial (s : State) (sp ch : Nat) (f : Chan → Chan) : (modChan s sp ch f).serial = s.serial := rfl
@[simp] theorem modChan_net (s : State) (sp ch : Nat) (f : Chan → Chan) : (modChan s sp ch f).net = s.net := rfl
@[simp] theorem modChan_mem (s : State) (sp ch : Nat) (f : Chan → Chan) : (modChan s sp ch f).mem = s.mem := rfl
@[simp] theorem modChan_near (s : State) (sp ch : Nat) (f : Chan → Chan) : (modChan s sp ch f).near = s.near := rfl
@[simp] theorem modChan_lag (s : State) (sp ch : Nat) (f : Chan → Chan) : (modChan s sp ch f).lag = s.lag := rfl
@[simp] theorem modChan_bad (s : State) (sp ch : Nat) (f : Chan → Chan) : (modChan s sp ch f).bad = s.bad := rfl
@[simp] theorem modChan_dir (s : State) (sp ch : Nat) (f : Chan → Chan) : (modChan s sp ch f).dir = s.dir := rfl
@[simp] theorem modChan_cycles (s : State) (sp ch : Nat) (f : Chan → Chan) : (modChan s sp ch f).cycles = s.cycles := rfl
@[simp] theorem modChan_clusters (s : State) (sp ch : Nat) (f : Chan → Chan) : (modChan s sp ch f).clusters = s.clusters := rfl
@[simp] theorem modChan_hub (s : State) (sp ch : Nat) (f : Chan → Chan) : (modChan s sp ch f).hub = s.hub := rfl

@[simp] theorem modBr_cur (s : State) (sp ch br : Nat) (f : Branch → Branch) : (modBr s sp ch br f).cur = s.cur := rfl
@[simp] theorem modBr_agenda (s : State) (sp ch br : Nat) (f : Branch → Branch) : (modBr s sp ch br f).agenda = s.agenda := rfl
@[simp] theorem modBr_tick (s : State) (sp ch br : Nat) (f : Branch → Branch) : (modBr s sp ch br f).tick = s.tick := rfl
@[simp] theorem modBr_free (s : State) (sp ch br : Nat) (f : Branch → Branch) : (modBr s sp ch br f).free = s.free := rfl
@[simp] theorem modBr_serial (s : State) (sp ch br : Nat) (f : Branch → Branch) : (modBr s sp ch br f).serial = s.serial := rfl
@[simp] theorem modBr_net (s : State) (sp ch br : Nat) (f : Branch → Branch) : (modBr s sp ch br f).net = s.net := rfl
@[simp] theorem modBr_mem (s : State) (sp ch br : Nat) (f : Branch → Branch) : (modBr s sp ch br f).mem = s.mem := rfl
@[simp] theorem modBr_near (s : State) (sp ch br : Nat) (f : Branch → Branch) : (modBr s sp ch br f).near = s.near := rfl
@[simp] theorem modBr_lag (s : State) (sp ch br : Nat) (f : Branch → Branch) : (modBr s sp ch br f).lag = s.lag := rfl
@[simp] theorem modBr_bad (s : State) (sp ch br : Nat) (f : Branch → Branch) : (modBr s sp ch br f).bad = s.bad := rfl
@[simp] theorem modBr_dir (s : State) (sp ch br : Nat) (f : Branch → Branch) : (modBr s sp ch br f).dir = s.dir := rfl
@[simp] theorem modBr_cycles (s : State) (sp ch br : Nat) (f : Branch → Branch) : (modBr s sp ch br f).cycles = s.cycles := rfl
@[simp] theorem modBr_clusters (s : State) (sp ch br : Nat) (f : Branch → Branch) : (modBr s sp ch br f).clusters = s.clusters := rfl
@[simp] theorem modBr_hub (s : State) (sp ch br : Nat) (f : Branch → Branch) : (modBr s sp ch br f).hub = s.hub := rfl

@[simp] theorem modOp_cur (s : State) (sp op : Nat) (f : OpState → OpState) : (modOp s sp op f).cur = s.cur := rfl
@[simp] theorem modOp_agenda (s : State) (sp op : Nat) (f : OpState → OpState) : (modOp s sp op f).agenda = s.agenda := rfl
@[simp] theorem modOp_tick (s : State) (sp op : Nat) (f : OpState → OpState) : (modOp s sp op f).tick = s.tick := rfl
@[simp] theorem modOp_free (s : State) (sp op : Nat) (f : OpState → OpState) : (modOp s sp op f).free = s.free := rfl
@[simp] theorem modOp_serial (s : State) (sp op : Nat) (f : OpState → OpState) : (modOp s sp op f).serial = s.serial := rfl
@[simp] theorem modOp_net (s : State) (sp op : Nat) (f : OpState → OpState) : (modOp s sp op f).net = s.net := rfl
@[simp] theorem modOp_mem (s : State) (sp op : Nat) (f : OpState → OpState) : (modOp s sp op f).mem = s.mem := rfl
@[simp] theorem modOp_near (s : State) (sp op : Nat) (f : OpState → OpState) : (modOp s sp op f).near = s.near := rfl
@[simp] theorem modOp_lag (s : State) (sp op : Nat) (f : OpState → OpState) : (modOp s sp op f).lag = s.lag := rfl
@[simp] theorem modOp_bad (s : State) (sp op : Nat) (f : OpState → OpState) : (modOp s sp op f).bad = s.bad := rfl
@[simp] theorem modOp_dir (s : State) (sp op : Nat) (f : OpState → OpState) : (modOp s sp op f).dir = s.dir := rfl
@[simp] theorem modOp_cycles (s : State) (sp op : Nat) (f : OpState → OpState) : (modOp s sp op f).cycles = s.cycles := rfl
@[simp] theorem modOp_clusters (s : State) (sp op : Nat) (f : OpState → OpState) : (modOp s sp op f).clusters = s.clusters := rfl
@[simp] theorem modOp_hub (s : State) (sp op : Nat) (f : OpState → OpState) : (modOp s sp op f).hub = s.hub := rfl

@[simp] theorem modHub_cur (s : State) (f : Hub → Hub) : (modHub s f).cur = s.cur := rfl
@[simp] theorem modHub_agenda (s : State) (f : Hub → Hub) : (modHub s f).agenda = s.agenda := rfl
@[simp] theorem modHub_tick (s : State) (f : Hub → Hub) : (modHub s f).tick = s.tick := rfl
@[simp] theorem modHub_free (s : State) (f : Hub → Hub) : (modHub s f).free = s.free := rfl
@[simp] theorem modHub_serial (s : State) (f : Hub → Hub) : (modHub s f).serial = s.serial := rfl
@[simp] theorem modHub_net (s : State) (f : Hub → Hub) : (modHub s f).net = s.net := rfl
@[simp] theorem modHub_mem (s : State) (f : Hub → Hub) : (modHub s f).mem = s.mem := rfl
@[simp] theorem modHub_near (s : State) (f : Hub → Hub) : (modHub s f).near = s.near := rfl
@[simp] theorem modHub_lag (s : State) (f : Hub → Hub) : (modHub s f).lag = s.lag := rfl
@[simp] theorem modHub_bad (s : State) (f : Hub → Hub) : (modHub s f).bad = s.bad := rfl
@[simp] theorem modHub_dir (s : State) (f : Hub → Hub) : (modHub s f).dir = s.dir := rfl
@[simp] theorem modHub_cycles (s : State) (f : Hub → Hub) : (modHub s f).cycles = s.cycles := rfl
@[simp] theorem modHub_clusters (s : State) (f : Hub → Hub) : (modHub s f).clusters = s.clusters := rfl
@[simp] theorem modHub_spans (s : State) (f : Hub → Hub) : (modHub s f).spans = s.spans := rfl

@[simp] theorem modPart_cur (s : State) (p : Nat) (f : Partition → Partition) : (modPart s p f).cur = s.cur := rfl
@[simp] theorem modPart_agenda (s : State) (p : Nat) (f : Partition → Partition) : (modPart s p f).agenda = s.agenda := rfl
@[simp] theorem modPart_tick (s : State) (p : Nat) (f : Partition → Partition) : (modPart s p f).tick = s.tick := rfl
@[simp] theorem modPart_free (s : State) (p : Nat) (f : Partition → Partition) : (modPart s p f).free = s.free := rfl
@[simp] theorem modPart_serial (s : State) (p : Nat) (f : Partition → Partition) : (modPart s p f).serial = s.serial := rfl
@[simp] theorem modPart_net (s : State) (p : Nat) (f : Partition → Partition) : (modPart s p f).net = s.net := rfl
@[simp] theorem modPart_mem (s : State) (p : Nat) (f : Partition → Partition) : (modPart s p f).mem = s.mem := rfl
@[simp] theorem modPart_near (s : State) (p : Nat) (f : Partition → Partition) : (modPart s p f).near = s.near := rfl
@[simp] theorem modPart_lag (s : State) (p : Nat) (f : Partition → Partition) : (modPart s p f).lag = s.lag := rfl
@[simp] theorem modPart_bad (s : State) (p : Nat) (f : Partition → Partition) : (modPart s p f).bad = s.bad := rfl
@[simp] theorem modPart_dir (s : State) (p : Nat) (f : Partition → Partition) : (modPart s p f).dir = s.dir := rfl
@[simp] theorem modPart_cycles (s : State) (p : Nat) (f : Partition → Partition) : (modPart s p f).cycles = s.cycles := rfl
@[simp] theorem modPart_clusters (s : State) (p : Nat) (f : Partition → Partition) : (modPart s p f).clusters = s.clusters := rfl
@[simp] theorem modPart_spans (s : State) (p : Nat) (f : Partition → Partition) : (modPart s p f).spans = s.spans := rfl

@[simp] theorem raiseVec_cur (s : State) (fn v : Nat) : (raiseVec s fn v).cur = s.cur := rfl
@[simp] theorem raiseVec_agenda (s : State) (fn v : Nat) : (raiseVec s fn v).agenda = s.agenda := rfl
@[simp] theorem raiseVec_tick (s : State) (fn v : Nat) : (raiseVec s fn v).tick = s.tick := rfl
@[simp] theorem raiseVec_free (s : State) (fn v : Nat) : (raiseVec s fn v).free = s.free := rfl
@[simp] theorem raiseVec_serial (s : State) (fn v : Nat) : (raiseVec s fn v).serial = s.serial := rfl
@[simp] theorem raiseVec_net (s : State) (fn v : Nat) : (raiseVec s fn v).net = s.net := rfl
@[simp] theorem raiseVec_mem (s : State) (fn v : Nat) : (raiseVec s fn v).mem = s.mem := rfl
@[simp] theorem raiseVec_near (s : State) (fn v : Nat) : (raiseVec s fn v).near = s.near := rfl
@[simp] theorem raiseVec_lag (s : State) (fn v : Nat) : (raiseVec s fn v).lag = s.lag := rfl
@[simp] theorem raiseVec_bad (s : State) (fn v : Nat) : (raiseVec s fn v).bad = s.bad := rfl
@[simp] theorem raiseVec_dir (s : State) (fn v : Nat) : (raiseVec s fn v).dir = s.dir := rfl
@[simp] theorem raiseVec_cycles (s : State) (fn v : Nat) : (raiseVec s fn v).cycles = s.cycles := rfl
@[simp] theorem raiseVec_clusters (s : State) (fn v : Nat) : (raiseVec s fn v).clusters = s.clusters := rfl
@[simp] theorem raiseVec_spans (s : State) (fn v : Nat) : (raiseVec s fn v).spans = s.spans := rfl

@[simp] theorem partitionInterrupt_cur (s : State) (p : Nat) : (partitionInterrupt s p).cur = s.cur := rfl
@[simp] theorem partitionInterrupt_agenda (s : State) (p : Nat) : (partitionInterrupt s p).agenda = s.agenda := rfl
@[simp] theorem partitionInterrupt_tick (s : State) (p : Nat) : (partitionInterrupt s p).tick = s.tick := rfl
@[simp] theorem partitionInterrupt_free (s : State) (p : Nat) : (partitionInterrupt s p).free = s.free := rfl
@[simp] theorem partitionInterrupt_serial (s : State) (p : Nat) : (partitionInterrupt s p).serial = s.serial := rfl
@[simp] theorem partitionInterrupt_net (s : State) (p : Nat) : (partitionInterrupt s p).net = s.net := rfl
@[simp] theorem partitionInterrupt_mem (s : State) (p : Nat) : (partitionInterrupt s p).mem = s.mem := rfl
@[simp] theorem partitionInterrupt_near (s : State) (p : Nat) : (partitionInterrupt s p).near = s.near := rfl
@[simp] theorem partitionInterrupt_lag (s : State) (p : Nat) : (partitionInterrupt s p).lag = s.lag := rfl
@[simp] theorem partitionInterrupt_bad (s : State) (p : Nat) : (partitionInterrupt s p).bad = s.bad := rfl
@[simp] theorem partitionInterrupt_dir (s : State) (p : Nat) : (partitionInterrupt s p).dir = s.dir := rfl
@[simp] theorem partitionInterrupt_cycles (s : State) (p : Nat) : (partitionInterrupt s p).cycles = s.cycles := rfl
@[simp] theorem partitionInterrupt_clusters (s : State) (p : Nat) : (partitionInterrupt s p).clusters = s.clusters := rfl
@[simp] theorem partitionInterrupt_spans (s : State) (p : Nat) : (partitionInterrupt s p).spans = s.spans := rfl

@[simp] theorem makeRoom_cur (s : State) (die i line : Nat) : (makeRoom s die i line).cur = s.cur := by
  unfold makeRoom; dsimp only; split <;> rfl
@[simp] theorem makeRoom_agenda (s : State) (die i line : Nat) : (makeRoom s die i line).agenda = s.agenda := by
  unfold makeRoom; dsimp only; split <;> rfl
@[simp] theorem makeRoom_tick (s : State) (die i line : Nat) : (makeRoom s die i line).tick = s.tick := by
  unfold makeRoom; dsimp only; split <;> rfl
@[simp] theorem makeRoom_free (s : State) (die i line : Nat) : (makeRoom s die i line).free = s.free := by
  unfold makeRoom; dsimp only; split <;> rfl
@[simp] theorem makeRoom_serial (s : State) (die i line : Nat) : (makeRoom s die i line).serial = s.serial := by
  unfold makeRoom; dsimp only; split <;> rfl
@[simp] theorem makeRoom_net (s : State) (die i line : Nat) : (makeRoom s die i line).net = s.net := by
  unfold makeRoom; dsimp only; split <;> rfl
@[simp] theorem makeRoom_mem (s : State) (die i line : Nat) : (makeRoom s die i line).mem = s.mem := by
  unfold makeRoom; dsimp only; split <;> rfl
@[simp] theorem makeRoom_near (s : State) (die i line : Nat) : (makeRoom s die i line).near = s.near := by
  unfold makeRoom; dsimp only; split <;> rfl
@[simp] theorem makeRoom_lag (s : State) (die i line : Nat) : (makeRoom s die i line).lag = s.lag := by
  unfold makeRoom; dsimp only; split <;> rfl
@[simp] theorem makeRoom_bad (s : State) (die i line : Nat) : (makeRoom s die i line).bad = s.bad := by
  unfold makeRoom; dsimp only; split <;> rfl
@[simp] theorem makeRoom_cycles (s : State) (die i line : Nat) : (makeRoom s die i line).cycles = s.cycles := by
  unfold makeRoom; dsimp only; split <;> rfl
@[simp] theorem makeRoom_clusters (s : State) (die i line : Nat) : (makeRoom s die i line).clusters = s.clusters := by
  unfold makeRoom; dsimp only; split <;> rfl
@[simp] theorem makeRoom_spans (s : State) (die i line : Nat) : (makeRoom s die i line).spans = s.spans := by
  unfold makeRoom; dsimp only; split <;> rfl
@[simp] theorem makeRoom_hub (s : State) (die i line : Nat) : (makeRoom s die i line).hub = s.hub := by
  unfold makeRoom; dsimp only; split <;> rfl

@[simp] theorem dirRead_cur (s : State) (P : Partition) (die line : Nat) : (dirRead s P die line).cur = s.cur := makeRoom_cur ..
@[simp] theorem dirRead_agenda (s : State) (P : Partition) (die line : Nat) : (dirRead s P die line).agenda = s.agenda := makeRoom_agenda ..
@[simp] theorem dirRead_tick (s : State) (P : Partition) (die line : Nat) : (dirRead s P die line).tick = s.tick := makeRoom_tick ..
@[simp] theorem dirRead_free (s : State) (P : Partition) (die line : Nat) : (dirRead s P die line).free = s.free := makeRoom_free ..
@[simp] theorem dirRead_serial (s : State) (P : Partition) (die line : Nat) : (dirRead s P die line).serial = s.serial := makeRoom_serial ..
@[simp] theorem dirRead_net (s : State) (P : Partition) (die line : Nat) : (dirRead s P die line).net = s.net := makeRoom_net ..
@[simp] theorem dirRead_mem (s : State) (P : Partition) (die line : Nat) : (dirRead s P die line).mem = s.mem := makeRoom_mem ..
@[simp] theorem dirRead_near (s : State) (P : Partition) (die line : Nat) : (dirRead s P die line).near = s.near := makeRoom_near ..
@[simp] theorem dirRead_lag (s : State) (P : Partition) (die line : Nat) : (dirRead s P die line).lag = s.lag := makeRoom_lag ..
@[simp] theorem dirRead_bad (s : State) (P : Partition) (die line : Nat) : (dirRead s P die line).bad = s.bad := makeRoom_bad ..
@[simp] theorem dirRead_cycles (s : State) (P : Partition) (die line : Nat) : (dirRead s P die line).cycles = s.cycles := makeRoom_cycles ..
@[simp] theorem dirRead_clusters (s : State) (P : Partition) (die line : Nat) : (dirRead s P die line).clusters = s.clusters := makeRoom_clusters ..
@[simp] theorem dirRead_spans (s : State) (P : Partition) (die line : Nat) : (dirRead s P die line).spans = s.spans := makeRoom_spans ..
@[simp] theorem dirRead_hub (s : State) (P : Partition) (die line : Nat) : (dirRead s P die line).hub = s.hub := makeRoom_hub ..

@[simp] theorem dirOnly_cur (s : State) (die line : Nat) : (dirOnly s die line).cur = s.cur := rfl
@[simp] theorem dirOnly_agenda (s : State) (die line : Nat) : (dirOnly s die line).agenda = s.agenda := rfl
@[simp] theorem dirOnly_tick (s : State) (die line : Nat) : (dirOnly s die line).tick = s.tick := rfl
@[simp] theorem dirOnly_free (s : State) (die line : Nat) : (dirOnly s die line).free = s.free := rfl
@[simp] theorem dirOnly_serial (s : State) (die line : Nat) : (dirOnly s die line).serial = s.serial := rfl
@[simp] theorem dirOnly_net (s : State) (die line : Nat) : (dirOnly s die line).net = s.net := rfl
@[simp] theorem dirOnly_mem (s : State) (die line : Nat) : (dirOnly s die line).mem = s.mem := rfl
@[simp] theorem dirOnly_near (s : State) (die line : Nat) : (dirOnly s die line).near = s.near := rfl
@[simp] theorem dirOnly_lag (s : State) (die line : Nat) : (dirOnly s die line).lag = s.lag := rfl
@[simp] theorem dirOnly_bad (s : State) (die line : Nat) : (dirOnly s die line).bad = s.bad := rfl
@[simp] theorem dirOnly_cycles (s : State) (die line : Nat) : (dirOnly s die line).cycles = s.cycles := rfl
@[simp] theorem dirOnly_clusters (s : State) (die line : Nat) : (dirOnly s die line).clusters = s.clusters := rfl
@[simp] theorem dirOnly_spans (s : State) (die line : Nat) : (dirOnly s die line).spans = s.spans := rfl
@[simp] theorem dirOnly_hub (s : State) (die line : Nat) : (dirOnly s die line).hub = s.hub := rfl

@[simp] theorem dirClear_cur (s : State) (line : Nat) : (dirClear s line).cur = s.cur := rfl
@[simp] theorem dirClear_agenda (s : State) (line : Nat) : (dirClear s line).agenda = s.agenda := rfl
@[simp] theorem dirClear_tick (s : State) (line : Nat) : (dirClear s line).tick = s.tick := rfl
@[simp] theorem dirClear_free (s : State) (line : Nat) : (dirClear s line).free = s.free := rfl
@[simp] theorem dirClear_serial (s : State) (line : Nat) : (dirClear s line).serial = s.serial := rfl
@[simp] theorem dirClear_net (s : State) (line : Nat) : (dirClear s line).net = s.net := rfl
@[simp] theorem dirClear_mem (s : State) (line : Nat) : (dirClear s line).mem = s.mem := rfl
@[simp] theorem dirClear_near (s : State) (line : Nat) : (dirClear s line).near = s.near := rfl
@[simp] theorem dirClear_lag (s : State) (line : Nat) : (dirClear s line).lag = s.lag := rfl
@[simp] theorem dirClear_bad (s : State) (line : Nat) : (dirClear s line).bad = s.bad := rfl
@[simp] theorem dirClear_cycles (s : State) (line : Nat) : (dirClear s line).cycles = s.cycles := rfl
@[simp] theorem dirClear_clusters (s : State) (line : Nat) : (dirClear s line).clusters = s.clusters := rfl
@[simp] theorem dirClear_spans (s : State) (line : Nat) : (dirClear s line).spans = s.spans := rfl
@[simp] theorem dirClear_hub (s : State) (line : Nat) : (dirClear s line).hub = s.hub := rfl

@[simp] theorem countBoth_cur (s : State) (cl src n : Nat) : (countBoth s cl src n).cur = s.cur := rfl
@[simp] theorem countBoth_agenda (s : State) (cl src n : Nat) : (countBoth s cl src n).agenda = s.agenda := rfl
@[simp] theorem countBoth_tick (s : State) (cl src n : Nat) : (countBoth s cl src n).tick = s.tick := rfl
@[simp] theorem countBoth_free (s : State) (cl src n : Nat) : (countBoth s cl src n).free = s.free := rfl
@[simp] theorem countBoth_serial (s : State) (cl src n : Nat) : (countBoth s cl src n).serial = s.serial := rfl
@[simp] theorem countBoth_net (s : State) (cl src n : Nat) : (countBoth s cl src n).net = s.net := rfl
@[simp] theorem countBoth_mem (s : State) (cl src n : Nat) : (countBoth s cl src n).mem = s.mem := rfl
@[simp] theorem countBoth_near (s : State) (cl src n : Nat) : (countBoth s cl src n).near = s.near := rfl
@[simp] theorem countBoth_lag (s : State) (cl src n : Nat) : (countBoth s cl src n).lag = s.lag := rfl
@[simp] theorem countBoth_bad (s : State) (cl src n : Nat) : (countBoth s cl src n).bad = s.bad := rfl
@[simp] theorem countBoth_dir (s : State) (cl src n : Nat) : (countBoth s cl src n).dir = s.dir := rfl
@[simp] theorem countBoth_cycles (s : State) (cl src n : Nat) : (countBoth s cl src n).cycles = s.cycles := rfl
@[simp] theorem countBoth_spans (s : State) (cl src n : Nat) : (countBoth s cl src n).spans = s.spans := rfl

end Sys2Proof.Machine
end

