-- ==== Sys2Proof/Laws/Units.lean ====
section
/-! SUPPORT. Reading a unit after a unit was changed: clusters, elements, tiles, groups, spans, loads, channels. -/

namespace Sys2Proof.Machine

open Sys2Proof

theorem getCl_congr {s t : State} (h : t.clusters = s.clusters) (cl : Nat) : getCl t cl = getCl s cl := by
  simp [getCl, h]
@[simp] theorem getCl_modCl_same (s : State) (cl : Nat) (f : Cluster → Cluster) : getCl (modCl s cl f) cl = f (getCl s cl) := by
  simp [getCl, modCl]
theorem getCl_modCl_ne (s : State) {cl c : Nat} (f : Cluster → Cluster) (h : c ≠ cl) : getCl (modCl s cl f) c = getCl s c := by
  simp [getCl, modCl, amGetD_amPut_ne _ _ _ h]
theorem getCl_modCl (s : State) (cl c : Nat) (f : Cluster → Cluster) :
    getCl (modCl s cl f) c = if c = cl then f (getCl s cl) else getCl s c := by
  split
  · next h => subst h; simp
  · next h => exact getCl_modCl_ne s f h
@[simp] theorem getCl_modSpan (s : State) (sp : Nat) (f : Span → Span) (c : Nat) : getCl (modSpan s sp f) c = getCl s c := rfl
@[simp] theorem getCl_modLoad (s : State) (sp : Nat) (f : Load → Load) (c : Nat) : getCl (modLoad s sp f) c = getCl s c := rfl
@[simp] theorem getCl_modChan (s : State) (sp ch : Nat) (f : Chan → Chan) (c : Nat) : getCl (modChan s sp ch f) c = getCl s c := rfl
@[simp] theorem getCl_modBr (s : State) (sp ch br : Nat) (f : Branch → Branch) (c : Nat) :
    getCl (modBr s sp ch br f) c = getCl s c := rfl
@[simp] theorem getCl_modHub (s : State) (f : Hub → Hub) (c : Nat) : getCl (modHub s f) c = getCl s c := rfl

/-! Elements. -/

theorem getEl_congr {s t : State} (h : t.clusters = s.clusters) (cl el : Nat) : getEl t cl el = getEl s cl el := by
  simp [getEl, getCl_congr h]
@[simp] theorem getEl_modEl_same (s : State) (cl el : Nat) (f : Elem → Elem) : getEl (modEl s cl el f) cl el = f (getEl s cl el) := by
  simp [getEl, modEl]
theorem getEl_modEl_ne (s : State) {cl el c e : Nat} (f : Elem → Elem) (h : c ≠ cl ∨ e ≠ el) :
    getEl (modEl s cl el f) c e = getEl s c e := by
  unfold getEl modEl
  rw [getCl_modCl]
  split
  · next hc => subst hc; rw [amGetD_amPut_ne]; simpa using h
  · rfl
@[simp] theorem getEl_modSpan (s : State) (sp : Nat) (f : Span → Span) (c e : Nat) : getEl (modSpan s sp f) c e = getEl s c e := rfl
@[simp] theorem getEl_modLoad (s : State) (sp : Nat) (f : Load → Load) (c e : Nat) : getEl (modLoad s sp f) c e = getEl s c e := rfl
@[simp] theorem getEl_modChan (s : State) (sp ch : Nat) (f : Chan → Chan) (c e : Nat) :
    getEl (modChan s sp ch f) c e = getEl s c e := rfl
@[simp] theorem getEl_modBr (s : State) (sp ch br : Nat) (f : Branch → Branch) (c e : Nat) :
    getEl (modBr s sp ch br f) c e = getEl s c e := rfl
/-- A change of a cluster that keeps its elements. -/
theorem getEl_modCl_keep (s : State) (cl : Nat) {f : Cluster → Cluster} (h : (f (getCl s cl)).elems = (getCl s cl).elems)
    (c e : Nat) : getEl (modCl s cl f) c e = getEl s c e := by
  unfold getEl
  rw [getCl_modCl]
  split
  · next hc => subst hc; rw [h]
  · rfl
@[simp] theorem getEl_modCore (s : State) (cl : Nat) (f : Core → Core) (c e : Nat) : getEl (modCore s cl f) c e = getEl s c e :=
  getEl_modCl_keep s cl rfl c e
@[simp] theorem getEl_modGrp (s : State) (cl g : Nat) (f : Group → Group) (c e : Nat) :
    getEl (modGrp s cl g f) c e = getEl s c e := getEl_modCl_keep s cl rfl c e
@[simp] theorem getEl_modTile (s : State) (cl n : Nat) (f : Tile → Tile) (c e : Nat) :
    getEl (modTile s cl n f) c e = getEl s c e := getEl_modCl_keep s cl rfl c e
@[simp] theorem getEl_postEvent (s : State) (cl : Nat) (r : FaultRec) (c e : Nat) :
    getEl (postEvent s cl r) c e = getEl s c e := getEl_modCl_keep s cl rfl c e
@[simp] theorem getEl_countBoth (s : State) (cl src n : Nat) (c e : Nat) :
    getEl (countBoth s cl src n) c e = getEl s c e := by
  unfold countBoth
  rw [getEl_congr (modHub_clusters _ _)]
  exact getEl_modCl_keep s cl rfl c e

/-! Control cores. -/

theorem getCore_modEl (s : State) (cl el : Nat) (f : Elem → Elem) (c : Nat) : (getCl (modEl s cl el f) c).core = (getCl s c).core := by
  unfold modEl
  rw [getCl_modCl]
  split
  · next h => subst h; rfl
  · rfl
theorem getCore_countBoth (s : State) (cl src n c : Nat) : (getCl (countBoth s cl src n) c).core = (getCl s c).core := by
  unfold countBoth
  rw [getCl_modHub, getCl_modCl]
  split
  · next h => subst h; rfl
  · rfl
theorem getGrp_congr {s t : State} {cl : Nat} (h : (getCl t cl).core = (getCl s cl).core) (g : Nat) :
    getGrp t cl g = getGrp s cl g := by simp [getGrp, h]
@[simp] theorem getGrp_modGrp_same (s : State) (cl : Nat) {g : Nat} (f : Group → Group) (hg : g < 4) :
    getGrp (modGrp s cl g f) cl g = f (getGrp s cl g) := by
  simp [getGrp, modGrp, modCore, vec4Get_set _ _ hg hg]
theorem getGrp_modGrp_ne (s : State) {cl g c n : Nat} (f : Group → Group) (hg : g < 4) (hn : n < 4) (h : c ≠ cl ∨ n ≠ g) :
    getGrp (modGrp s cl g f) c n = getGrp s c n := by
  unfold getGrp modGrp modCore
  rw [getCl_modCl]
  split
  · next hc => subst hc; simp only; rw [vec4Get_set _ _ hg hn, if_neg (by simpa using h)]
  · rfl
theorem getGrp_postEvent (s : State) (cl : Nat) (r : FaultRec) (c n : Nat) : getGrp (postEvent s cl r) c n = getGrp s c n := by
  unfold getGrp postEvent modCore
  rw [getCl_modCl]
  split
  · next h => subst h; simp only; split <;> rfl
  · rfl

/-! Spans, loads, channels. -/

@[simp] theorem getSpan_modSpan_same (s : State) (sp : Nat) (f : Span → Span) : getSpan (modSpan s sp f) sp = (getSpan s sp).map f := by
  simp [getSpan, modSpan]
theorem getSpan_modSpan_ne (s : State) {sp k : Nat} (f : Span → Span) (h : k ≠ sp) : getSpan (modSpan s sp f) k = getSpan s k := by
  simp [getSpan, modSpan, amGet_amMod_ne _ _ h]
@[simp] theorem getLoad_modLoad_same (s : State) (sp : Nat) (f : Load → Load) : getLoad (modLoad s sp f) sp = (getLoad s sp).map f := by
  unfold getLoad modLoad
  rw [getSpan_modSpan_same]
  cases getSpan s sp <;> rfl
theorem getLoad_modLoad_ne (s : State) {sp k : Nat} (f : Load → Load) (h : k ≠ sp) : getLoad (modLoad s sp f) k = getLoad s k := by
  unfold getLoad modLoad
  rw [getSpan_modSpan_ne _ _ h]
theorem getChan_modChan (s : State) (sp ch c : Nat) (f : Chan → Chan) :
    getChan (modChan s sp ch f) sp c = if c = ch then (getChan s sp ch).map f else getChan s sp c := by
  unfold getChan modChan
  rw [getLoad_modLoad_same]
  cases getLoad s sp with
  | none => simp
  | some l =>
    simp only [Option.map_some, Option.bind_some]
    split
    · next h => subst h; simp
    · next h => exact amGet_amMod_ne _ _ h
theorem getChan_modBr (s : State) (sp ch br c : Nat) (f : Branch → Branch) :
    getChan (modBr s sp ch br f) sp c = if c = ch then (getChan s sp ch).map (fun k => modBranch k br f) else getChan s sp c :=
  getChan_modChan s sp ch c _
@[simp] theorem getLoad_modEl (s : State) (cl el : Nat) (f : Elem → Elem) (sp : Nat) : getLoad (modEl s cl el f) sp = getLoad s sp := rfl

end Sys2Proof.Machine
end

