-- ==== Sys2Proof/Laws/Memory.lean ====
section
/-! SUPPORT. The laws of memory: a read after a write, the bytes a write leaves alone, the canonical form. -/

namespace Sys2Proof.Machine

open Sys2Proof

theorem memGet_memPut_ne (m : List Host.Cell) {a k : Nat} (b : Byte) (h : k ≠ a) : memGet (memPut m a b) k = memGet m k := by
  unfold memGet memPut
  split
  · rw [alGet_alDel_ne _ h]
  · rw [alGet_alPut_ne _ _ h]

theorem Memory.wf_iff {m : List Host.Cell} :
    Memory.wf m = true ↔ alWf m = true ∧ ∀ c ∈ m, c.2 ≠ memDefault := by
  simp [Memory.wf]

theorem memGet_memPut_same {m : List Host.Cell} (a : Nat) (b : Byte) :
    memGet (memPut m a b) a = b := by
  unfold memGet memPut
  split
  · next hb => rw [alGet_alDel_same, hb]; rfl
  · simp

/-- Writing a byte keeps the canonical form. -/
theorem memPut_wf {m : List Host.Cell} (a : Nat) (b : Byte) (h : Memory.wf m = true) : Memory.wf (memPut m a b) = true := by
  obtain ⟨h1, h2⟩ := Memory.wf_iff.mp h
  unfold memPut
  split
  · exact Memory.wf_iff.mpr ⟨alWf_alDel a h1, fun c hc => h2 c (mem_alDel hc)⟩
  · next hb =>
    refine Memory.wf_iff.mpr ⟨alWf_alPut a b h1, fun c hc => ?_⟩
    rcases mem_alPut hc with e | e
    · subst e; exact hb
    · exact h2 c e

theorem memPutAll_wf (bs : List Byte) {m : List Host.Cell} (a : Nat) (h : Memory.wf m = true) :
    Memory.wf (memPutAll m a bs) = true := by
  induction bs generalizing m a with
  | nil => exact h
  | cons b bs ih => exact ih (a + 1) (memPut_wf a b h)

theorem memGet_memPutAll_out (bs : List Byte) (m : List Host.Cell) {a k : Nat} (h : k < a ∨ a + bs.length ≤ k) :
    memGet (memPutAll m a bs) k = memGet m k := by
  induction bs generalizing m a with
  | nil => rfl
  | cons b bs ih =>
    simp only [memPutAll, List.length_cons] at *
    rw [ih _ (by omega), memGet_memPut_ne _ _ (by omega)]

theorem memGet_memPutAll_in (bs : List Byte) {m : List Host.Cell} {a k : Nat}
    (h : a ≤ k) (h2 : k < a + bs.length) : memGet (memPutAll m a bs) k = bs.getD (k - a) 0#8 := by
  induction bs generalizing m a with
  | nil => simp at h2; omega
  | cons b bs ih =>
    simp only [memPutAll, List.length_cons] at *
    by_cases hk : k = a
    · subst hk
      rw [memGet_memPutAll_out _ _ (by omega), memGet_memPut_same _ _]
      simp
    · rw [ih (by omega) (by omega)]
      have : k - a = (k - (a + 1)) + 1 := by omega
      rw [this]
      simp

theorem bytesOf_length (n v : Nat) : (bytesOf n v).length = n := by
  induction n generalizing v with
  | zero => rfl
  | succ n ih => simp [bytesOf, ih]

/-- Bytes written and read back are the number's low bytes (R4). -/
theorem natOfBytes_bytesOf (n v : Nat) : natOfBytes (bytesOf n v) = v % 2 ^ (8 * n) := by
  induction n generalizing v with
  | zero => simp [bytesOf, natOfBytes, Nat.mod_one]
  | succ n ih =>
    simp only [bytesOf, natOfBytes, ih]
    rw [show 8 * (n + 1) = 8 + 8 * n by ring, pow_add, Nat.mod_mul]
    simp

/-! Folds. -/

theorem foldl_keep {α β γ : Type} (f : β → α → β) (p : β → γ) (h : ∀ b a, p (f b a) = p b) (l : List α) (b : β) :
    p (l.foldl f b) = p b := by
  induction l generalizing b with
  | nil => rfl
  | cons a l ih => rw [List.foldl_cons, ih, h]

/-- A property that every part of a fold keeps. -/
theorem foldl_inv {α β : Type} (f : β → α → β) (P : β → Prop) (h : ∀ b a, P b → P (f b a)) (l : List α) {b : β} (hb : P b) :
    P (l.foldl f b) := by
  induction l generalizing b with
  | nil => exact hb
  | cons a l ih => exact ih (h b a hb)

/-! Writing physical memory: both lists keep their form, and nothing but memory changes. -/

theorem memOk_congr {s t : State} (h : s.memOk) (hm : t.mem = s.mem) (hl : t.lag = s.lag) (hn : t.near = s.near) : t.memOk := by
  unfold State.memOk at *
  rw [hm, hl, hn]; exact h
/-- Two states that differ in memory, its scopes, errors and copies alone. -/
def sameButMem (s t : State) : Prop :=
  t = { s with mem := t.mem, near := t.near, lag := t.lag, bad := t.bad, dir := t.dir }

theorem sameButMem_refl (s : State) : sameButMem s s := rfl
theorem sameButMem_trans {s t u : State} (h : sameButMem s t) (k : sameButMem t u) : sameButMem s u := by
  unfold sameButMem at *
  rw [k, h]
/-- What it leaves alone. -/
theorem sameButMem_keeps {s t : State} (h : sameButMem s t) :
    t.cur = s.cur ∧ t.clusters = s.clusters ∧ t.spans = s.spans ∧ t.hub = s.hub ∧ t.cycles = s.cycles
    ∧ t.agenda = s.agenda ∧ t.tick = s.tick ∧ t.free = s.free ∧ t.serial = s.serial := by
  unfold sameButMem at h
  rw [h]
  simp

theorem dropLines_dir (s : State) (pa n : Nat) : dropLines s pa n = { s with dir := (dropLines s pa n).dir } :=
  foldl_inv _ (fun t : State => t = { s with dir := t.dir }) (fun b a h => by rw [h]; rfl) _ rfl

theorem keepLag_wf (bs : List Byte) (m : List Host.Cell) {lag : List Host.Cell} (a : Nat) (h : alWf lag = true) :
    alWf (keepLag m lag a bs) = true := by
  induction bs generalizing lag a with
  | nil => exact h
  | cons b bs ih =>
    simp only [keepLag]
    split
    · exact ih _ (alWf_alDel _ h)
    · exact ih _ (alWf_alPut _ _ h)

theorem putBytes_mem (s : State) (pa : Nat) (bs : List Byte) : (putBytes s pa bs).mem = memPutAll s.mem pa bs := by
  unfold putBytes
  split
  · next h => rw [List.length_eq_zero_iff] at h; subst h; rfl
  · rfl
theorem putBytes_same (s : State) (pa : Nat) (bs : List Byte) : sameButMem s (putBytes s pa bs) := by
  unfold putBytes sameButMem
  split <;> rfl
theorem putBytes_lag (s : State) (pa : Nat) (bs : List Byte) : (putBytes s pa bs).lag = s.lag := by
  unfold putBytes
  split <;> rfl
theorem putBytes_near (s : State) (pa : Nat) (bs : List Byte) : (putBytes s pa bs).near = s.near := by
  unfold putBytes
  split <;> rfl
theorem packWrite_mem (s : State) (pa : Nat) (bs : List Byte) : (packWrite s pa bs).mem = memPutAll s.mem pa bs := putBytes_mem _ pa bs
theorem packWrite_same (s : State) (pa : Nat) (bs : List Byte) : sameButMem s (packWrite s pa bs) := by
  have h := putBytes_same { s with lag := keepLag s.mem s.lag pa bs } pa bs
  unfold packWrite sameButMem at *
  rw [h]
theorem packWrite_ok {s : State} (pa : Nat) (bs : List Byte) (h : s.memOk) : (packWrite s pa bs).memOk := by
  refine ⟨?_, ?_, ?_⟩
  · rw [packWrite_mem]; exact memPutAll_wf bs pa h.1
  · unfold packWrite; rw [putBytes_lag]; exact keepLag_wf bs s.mem pa h.2.1
  · unfold packWrite; rw [putBytes_near]; exact h.2.2
theorem systemWrite_mem (s : State) (pa : Nat) (bs : List Byte) : (systemWrite s pa bs).mem = memPutAll s.mem pa bs := putBytes_mem _ pa bs
theorem systemWrite_same (s : State) (pa : Nat) (bs : List Byte) : sameButMem s (systemWrite s pa bs) := by
  have h := putBytes_same (showHost s pa bs.length) pa bs
  unfold systemWrite showHost sameButMem at *
  rw [h]
theorem systemWrite_ok {s : State} (pa : Nat) (bs : List Byte) (h : s.memOk) : (systemWrite s pa bs).memOk := by
  refine ⟨?_, ?_, ?_⟩
  · rw [systemWrite_mem]; exact memPutAll_wf bs pa h.1
  · unfold systemWrite showHost; rw [putBytes_lag]; exact alWf_filter _ h.2.1
  · unfold systemWrite showHost; rw [putBytes_near]; exact h.2.2

theorem dropLines_same (s : State) (pa n : Nat) : sameButMem s (dropLines s pa n) := by
  rw [dropLines_dir]; rfl
theorem dropLines_mem (s : State) (pa n : Nat) : (dropLines s pa n).mem = s.mem := by rw [dropLines_dir]
theorem dropLines_ok {s : State} (pa n : Nat) (h : s.memOk) : (dropLines s pa n).memOk := by rw [dropLines_dir]; exact h

/-! Scopes. -/

theorem dirOnly_same (s : State) (die line : Nat) : sameButMem s (dirOnly s die line) := rfl
theorem placeNear_same (s : State) (n : Near) : sameButMem s (placeNear s n) := by
  unfold placeNear
  split
  · exact sameButMem_trans (dirOnly_same s _ _) (packWrite_same _ _ _)
  · exact sameButMem_trans (dirOnly_same s _ _) (systemWrite_same _ _ _)
  · rfl
/-- A store that is in memory once it takes its place, or lies in one granule. -/
def Near.fits (n : Near) : Prop := n.reach = .package ∨ n.reach = .system ∨ n.pa % 16 + n.bytes.length ≤ 16
theorem placeNear_ok {s : State} {n : Near} (hn : n.fits) (h : s.memOk) : (placeNear s n).memOk := by
  unfold placeNear
  split
  · exact packWrite_ok (s := dirOnly s n.die (n.pa / 64)) n.pa n.bytes h
  · exact systemWrite_ok (s := dirOnly s n.die (n.pa / 64)) n.pa n.bytes h
  · next hp hs =>
    refine ⟨h.1, h.2.1, fun x hx => ?_⟩
    rcases List.mem_append.mp hx with e | e
    · exact h.2.2 x e
    · rw [List.mem_singleton.mp e]
      refine ⟨by simpa [Reach.wide] using ⟨hp, hs⟩, ?_⟩
      rcases hn with e | e | e
      · exact absurd e hp
      · exact absurd e hs
      · exact e
/-- Widening moves no store and changes no byte of one. -/
theorem widenList_parts (sel : Near → Bool) (r : Reach) (l : List Near) :
    (widenList sel r l).map (fun n => (n.pa, n.bytes)) = l.map (fun n => (n.pa, n.bytes)) := by
  induction l with
  | nil => rfl
  | cons n l ih =>
    simp only [widenList]
    split <;> simp [ih]
theorem widenList_fits {sel : Near → Bool} {r : Reach} {l : List Near}
    (h : ∀ n ∈ l, n.reach.wide = false ∧ n.pa % 16 + n.bytes.length ≤ 16) {x : Near}
    (hx : x ∈ widenList sel r l) : x.fits := by
  have : (x.pa, x.bytes) ∈ l.map (fun n => (n.pa, n.bytes)) := by
    rw [← widenList_parts sel r l]
    exact List.mem_map.mpr ⟨x, hx, rfl⟩
  obtain ⟨n, hn, e⟩ := List.mem_map.mp this
  simp only [Prod.mk.injEq] at e
  exact .inr (.inr (by rw [← e.1, ← e.2]; exact (h n hn).2))
theorem foldl_placeNear_ok (l : List Near) {s : State} (hl : ∀ n ∈ l, n.fits) (h : s.memOk) : (l.foldl placeNear s).memOk := by
  induction l generalizing s with
  | nil => exact h
  | cons n l ih => exact ih (fun x hx => hl x (.tail _ hx)) (placeNear_ok (hl n (.head _)) h)
theorem widen_same (s : State) (sel : Near → Bool) (r : Reach) : sameButMem s (widen s sel r) := by
  unfold widen
  split
  · exact foldl_inv _ (sameButMem s) (fun b a h => sameButMem_trans h (placeNear_same b a)) _ rfl
  · rfl
theorem widen_ok {s : State} (sel : Near → Bool) (r : Reach) (h : s.memOk) : (widen s sel r).memOk := by
  unfold widen
  split
  · exact foldl_placeNear_ok _ (fun x hx => widenList_fits h.2.2 hx) ⟨h.1, h.2.1, fun _ hx => by cases hx⟩
  · exact h
/-- Where no store is narrower than the package, nothing is widened. -/
theorem widen_nil {s : State} (sel : Near → Bool) (r : Reach) (h : s.near = []) : widen s sel r = s := by simp [widen, h]
theorem seen_nil {s : State} (cl pa : Nat) (h : s.near = []) : s.seen cl pa = s.byte pa := by simp [State.seen, h]
/-! Writes of the hub. -/

theorem widenAll_nil {s : State} (pa n : Nat) (r : Reach) (h : s.near = []) : widenAll s pa n r = s := widen_nil _ r h
theorem writePA_mem {s : State} (pa : Nat) (bs : List Byte) (h : s.near = []) : (writePA s pa bs).mem = memPutAll s.mem pa bs := by
  unfold writePA
  split
  · next h => rw [List.length_eq_zero_iff] at h; subst h; rfl
  · rw [packWrite_mem, dropLines_mem, widenAll_nil _ _ _ h]
theorem writePA_same (s : State) (pa : Nat) (bs : List Byte) : sameButMem s (writePA s pa bs) := by
  unfold writePA
  split
  · rfl
  · exact sameButMem_trans (sameButMem_trans (widen_same s _ _) (dropLines_same _ pa bs.length)) (packWrite_same _ pa bs)
theorem writePA_ok {s : State} (pa : Nat) (bs : List Byte) (h : s.memOk) : (writePA s pa bs).memOk := by
  unfold writePA
  split
  · exact h
  · exact packWrite_ok pa bs (dropLines_ok pa _ (widen_ok _ _ h))
theorem hubWrite_mem {s : State} (pa : Nat) (bs : List Byte) (h : s.near = []) : (hubWrite s pa bs).mem = memPutAll s.mem pa bs := by
  unfold hubWrite; rw [systemWrite_mem, dropLines_mem, widenAll_nil _ _ _ h]
theorem hubWrite_same (s : State) (pa : Nat) (bs : List Byte) : sameButMem s (hubWrite s pa bs) :=
  sameButMem_trans (sameButMem_trans (widen_same s _ _) (dropLines_same _ pa bs.length)) (systemWrite_same _ pa bs)
theorem hubWrite_ok {s : State} (pa : Nat) (bs : List Byte) (h : s.memOk) : (hubWrite s pa bs).memOk :=
  systemWrite_ok pa bs (dropLines_ok pa _ (widen_ok _ _ h))
theorem showAll_same (s : State) : sameButMem s (showAll s) := rfl
theorem publish_mem {s : State} (pa : Nat) (bs : List Byte) (h : s.near = []) : (publish s pa bs).mem = memPutAll s.mem pa bs :=
  hubWrite_mem (s := showAll s) pa bs h
theorem publish_ok {s : State} (pa : Nat) (bs : List Byte) (h : s.memOk) : (publish s pa bs).memOk :=
  hubWrite_ok (s := showAll s) pa bs ⟨h.1, rfl, h.2.2⟩
theorem publish_same (s : State) (pa : Nat) (bs : List Byte) : sameButMem s (publish s pa bs) :=
  sameButMem_trans (showAll_same s) (hubWrite_same _ pa bs)
theorem byte_writePA_out {s : State} (bs : List Byte) {pa k : Nat} (hn : s.near = []) (h : k < pa ∨ pa + bs.length ≤ k) :
    (writePA s pa bs).byte k = s.byte k := by
  simp only [State.byte, writePA_mem pa bs hn]; exact memGet_memPutAll_out bs s.mem h
theorem byte_writePA_in {s : State} (bs : List Byte) {pa k : Nat} (hn : s.near = []) (h : pa ≤ k)
    (h2 : k < pa + bs.length) : (writePA s pa bs).byte k = bs.getD (k - pa) 0#8 := by
  simp only [State.byte, writePA_mem pa bs hn]; exact memGet_memPutAll_in bs h h2
theorem writeWords_ok (l : List Nat) {s : State} (bs : List Byte) (h : s.memOk) : (writeWords s l bs).memOk := by
  induction l generalizing s bs with
  | nil => exact h
  | cons pa l ih => exact ih _ (writePA_ok pa _ h)
theorem writeWords_same (l : List Nat) (s : State) (bs : List Byte) : sameButMem s (writeWords s l bs) := by
  induction l generalizing s bs with
  | nil => rfl
  | cons pa l ih => exact sameButMem_trans (writePA_same s pa _) (ih _ _)

theorem performRead_same (s : State) (cl pa n : Nat) (r : Reach) : sameButMem s (performRead s cl pa n r) := by
  unfold performRead
  simp only
  split
  · exact sameButMem_trans (widen_same s _ _) rfl
  · exact widen_same s _ _
theorem performRead_ok {s : State} (cl pa n : Nat) (r : Reach) (h : s.memOk) : (performRead s cl pa n r).memOk := by
  unfold performRead
  simp only
  split
  · exact ⟨(widen_ok _ _ h).1, alWf_filter _ (widen_ok _ _ h).2.1, (widen_ok _ _ h).2.2⟩
  · exact widen_ok _ _ h
theorem performSeen_same (s : State) (cl : Nat) (r : Reach) : sameButMem s (performSeen s cl r) := by
  unfold performSeen
  simp only
  split
  · exact sameButMem_trans (widen_same s _ _) rfl
  · exact widen_same s _ _
theorem performSeen_ok {s : State} (cl : Nat) (r : Reach) (h : s.memOk) : (performSeen s cl r).memOk := by
  unfold performSeen
  simp only
  split
  · exact ⟨(widen_ok _ _ h).1, rfl, (widen_ok _ _ h).2.2⟩
  · exact widen_ok _ _ h
theorem performAt_same (s : State) (cl : Nat) (r : Reach) (via : Via) (pa : Nat) (bs : List Byte) :
    sameButMem s (performAt s cl r via pa bs) :=
  sameButMem_trans (widen_same s _ _) (placeNear_same _ _)
theorem performAt_ok {s : State} (cl : Nat) (r : Reach) (via : Via) (pa : Nat) (bs : List Byte) (h : s.memOk) :
    (performAt s cl r via pa bs).memOk := by
  refine placeNear_ok ?_ (widen_ok _ _ h)
  unfold Near.fits
  simp only
  split
  · exact .inl rfl
  · next hc =>
    by_cases hr : r = .system
    · exact .inr (.inl hr)
    · simp only [ne_eq, hr, not_false_eq_true, decide_true, Bool.and_true, Bool.or_eq_true, Bool.not_eq_true', not_or,
        Bool.not_eq_false, decide_eq_true_eq] at hc
      exact .inr (.inr hc.2)

/-! Accesses through L2: they count, and touch nothing else of the units. -/

/-- Two states that differ in memory and in what counters have counted. -/
def sameButCounts (s t : State) : Prop :=
  t.cur = s.cur ∧ t.spans = s.spans ∧ t.cycles = s.cycles ∧ t.agenda = s.agenda ∧ t.tick = s.tick ∧ t.free = s.free
  ∧ t.serial = s.serial ∧ t.hub = { s.hub with dctr := t.hub.dctr }
  ∧ ∀ c, getCl t c = { getCl s c with counters := (getCl t c).counters }

theorem sameButCounts_refl (s : State) : sameButCounts s s := ⟨rfl, rfl, rfl, rfl, rfl, rfl, rfl, rfl, fun _ => rfl⟩
theorem sameButCounts_trans {s t u : State} (h : sameButCounts s t) (k : sameButCounts t u) : sameButCounts s u := by
  obtain ⟨h1, h2, h3, h4, h5, h6, h7, h8, h9⟩ := h
  obtain ⟨k1, k2, k3, k4, k5, k6, k7, k8, k9⟩ := k
  refine ⟨k1.trans h1, k2.trans h2, k3.trans h3, k4.trans h4, k5.trans h5, k6.trans h6, k7.trans h7, ?_, fun c => ?_⟩
  · rw [k8, h8]
  · rw [k9 c, h9 c]
theorem sameButMem_counts {s t : State} (h : sameButMem s t) : sameButCounts s t := by
  unfold sameButMem at h
  rw [h]
  exact ⟨rfl, rfl, rfl, rfl, rfl, rfl, rfl, rfl, fun _ => rfl⟩
theorem sameButCounts_core {s t : State} (h : sameButCounts s t) (c : Nat) : (getCl t c).core = (getCl s c).core := by
  rw [h.2.2.2.2.2.2.2.2 c]
theorem sameButCounts_grp {s t : State} (h : sameButCounts s t) (c g : Nat) : getGrp t c g = getGrp s c g :=
  getGrp_congr (sameButCounts_core h c) g
theorem sameButCounts_el {s t : State} (h : sameButCounts s t) (c e : Nat) : getEl t c e = getEl s c e := by
  unfold getEl
  rw [h.2.2.2.2.2.2.2.2 c]
theorem countBoth_counts (s : State) (cl src n : Nat) : sameButCounts s (countBoth s cl src n) := by
  refine ⟨rfl, rfl, rfl, rfl, rfl, rfl, rfl, rfl, fun c => ?_⟩
  unfold countBoth
  rw [getCl_modHub, getCl_modCl]
  split
  · next h => subst h; rfl
  · rfl
theorem countBoth_memOk {s : State} (cl src n : Nat) (h : s.memOk) : (countBoth s cl src n).memOk := h
theorem dirRead_same (s : State) (P : Partition) (die line : Nat) : sameButMem s (dirRead s P die line) := by
  unfold dirRead makeRoom sameButMem; dsimp only; split <;> rfl
theorem l2Take_counts (s : State) (cl pa : Nat) : sameButCounts s (l2Take s cl pa) :=
  sameButCounts_trans (countBoth_counts s cl _ _) (sameButMem_counts (dirRead_same _ _ _ _))
theorem l2Take_ok {s : State} (cl pa : Nat) (h : s.memOk) : (l2Take s cl pa).memOk :=
  memOk_congr h (by simp [l2Take]) (by simp [l2Take]) (by simp [l2Take])
theorem l2Touch_counts (s : State) (cl pa : Nat) : sameButCounts s (l2Touch s cl pa) := by
  unfold l2Touch
  simp only
  refine sameButCounts_trans ?_ (sameButMem_counts (dirRead_same _ _ _ _))
  split
  · exact sameButCounts_trans (countBoth_counts s cl _ _) (countBoth_counts _ cl _ _)
  · exact countBoth_counts s cl _ _
theorem l2Touch_ok {s : State} (cl pa : Nat) (h : s.memOk) : (l2Touch s cl pa).memOk := by
  refine memOk_congr h ?_ ?_ ?_ <;>
  · unfold l2Touch
    simp only
    split <;> simp
theorem l2At_counts (s : State) (cl : Nat) (r : Reach) (via : Via) (pa : Nat) (bs : List Byte) :
    sameButCounts s (l2At s cl r via pa bs) :=
  sameButCounts_trans (l2Take_counts s cl pa) (sameButMem_counts (performAt_same _ _ _ _ _ _))
theorem l2At_ok {s : State} (cl : Nat) (r : Reach) (via : Via) (pa : Nat) (bs : List Byte) (h : s.memOk) :
    (l2At s cl r via pa bs).memOk :=
  performAt_ok cl r via pa bs (l2Take_ok cl pa h)
theorem l2Write_counts (s : State) (cl pa : Nat) (bs : List Byte) : sameButCounts s (l2Write s cl pa bs) := l2At_counts s cl _ _ pa bs
theorem l2Write_ok {s : State} (cl pa : Nat) (bs : List Byte) (h : s.memOk) : (l2Write s cl pa bs).memOk := l2At_ok cl _ _ pa bs h
theorem l2Read_counts (s : State) (cl pa : Nat) : sameButCounts s (l2Read s cl pa) :=
  sameButCounts_trans (l2Touch_counts s cl pa) (sameButMem_counts (performRead_same _ _ _ _ _))
theorem l2Read_ok {s : State} (cl pa : Nat) (h : s.memOk) : (l2Read s cl pa).memOk := performRead_ok cl pa 1 _ (l2Touch_ok cl pa h)
theorem performAll_counts (ps : List PStore) (s : State) (cl : Nat) (r : Reach) : sameButCounts s (performAll s cl r ps) := by
  induction ps generalizing s with
  | nil => exact sameButCounts_refl s
  | cons p ps ih => exact sameButCounts_trans (l2At_counts s cl _ _ _ _) (ih _)
theorem performAll_ok (ps : List PStore) {s : State} (cl : Nat) (r : Reach) (h : s.memOk) : (performAll s cl r ps).memOk := by
  induction ps generalizing s with
  | nil => exact h
  | cons p ps ih => exact ih (l2At_ok cl _ p.via p.pa p.bytes h)
theorem flushGrp_ok {s : State} (cl g sc : Nat) (h : s.memOk) : (flushGrp s cl g sc).memOk :=
  performSeen_ok cl _ (memOk_congr (performAll_ok (getGrp s cl g).stores cl (instOf s cl sc) h) (modGrp_mem _ _ _ _) (modGrp_lag _ _ _ _)
    (modGrp_near _ _ _ _))
theorem releaseCur_ok {s : State} (sc : Nat) (h : s.memOk) : (releaseCur s sc).memOk := flushGrp_ok _ _ sc h
/-- A release empties the list of issued stores, and changes its group in nothing else. -/
theorem flushGrp_grp (s : State) (cl : Nat) {g : Nat} (sc : Nat) (hg : g < 4) :
    getGrp (flushGrp s cl g sc) cl g = { getGrp s cl g with stores := [] } := by
  unfold flushGrp
  simp only
  rw [sameButCounts_grp (sameButMem_counts (performSeen_same _ _ _)), getGrp_modGrp_same _ _ _ hg,
    sameButCounts_grp (performAll_counts _ _ _ _)]
theorem performSome_ok {s : State} (cl g : Nat) (sel : PStore → Bool) (h : s.memOk) : (performSome s cl g sel).memOk := by
  have h1 := performAll_ok (splitStores sel (getGrp s cl g).stores).1 cl (.cluster cl) h
  refine memOk_congr h1 ?_ ?_ ?_
  · simp only [performSome, modGrp_mem]
  · simp only [performSome, modGrp_lag]
  · simp only [performSome, modGrp_near]

/-- The next record of the fleet ring keeps memory's form. -/
theorem fleetRecord_ok {s : State} (kind part die clu d1 d2 layv : Nat) (h : s.memOk) :
    (fleetRecord s kind part die clu d1 d2 layv).memOk := by
  unfold fleetRecord
  simp only
  split
  · exact h
  · split
    · exact h
    · split <;> exact memOk_congr (publish_ok _ _ h) (by simp only [raiseVec_mem, modHub_mem]; rfl) (by simp only [raiseVec_lag, modHub_lag])
          (by simp only [raiseVec_near, modHub_near])
theorem clusterRecord_ok {s : State} (kind cl d1 d2 : Nat) (h : s.memOk) : (clusterRecord s kind cl d1 d2).memOk := by
  unfold clusterRecord
  split <;> exact fleetRecord_ok _ _ _ _ _ _ _ h

end Sys2Proof.Machine
end

