-- ==== Sys2Proof/Laws/Fire.lean ====
section
/-! SUPPORT. What the firing of a slot can do, said once. -/

namespace Sys2Proof.Machine

open Sys2Proof

/-- Two states that differ in their spans alone. -/
def sameButSpans (s t : State) : Prop := t = { s with spans := t.spans }

theorem sameButSpans_refl (s : State) : sameButSpans s s := rfl
theorem sameButSpans_trans {s t u : State} (h : sameButSpans s t) (k : sameButSpans t u) : sameButSpans s u := by
  unfold sameButSpans at *
  rw [k, h]
theorem popAt_same (l : Load) (s : State) (v : Env) (ctl : Bool) (port n : Nat) : sameButSpans s (popAt l s v ctl port n) := by
  unfold popAt
  split <;> rfl
theorem emitAt_same (l : Load) (s : State) (v : Env) (ctl : Bool) (port : Nat) (st : Bool) (ts : List Token) :
    sameButSpans s (emitAt l s v ctl port st ts) := by
  unfold emitAt
  split <;> rfl
theorem moveTokens_same (l : Load) (s : State) (v : Env) (f : Effect) : sameButSpans s (moveTokens l s v f) := by
  unfold moveTokens
  simp only
  have h2 : sameButSpans s (f.popI.foldl (fun s p => popAt l s v false p.1 p.2) s) :=
    foldl_inv _ (sameButSpans s) (fun b a h => sameButSpans_trans h (popAt_same l b v false a.1 a.2)) _ rfl
  have h3 := foldl_inv (fun s p => popAt l s v true p 1) (sameButSpans s)
    (fun b a h => sameButSpans_trans h (popAt_same l b v true a 1)) f.popK h2
  split
  · split
    · exact sameButSpans_trans h3 (emitAt_same l _ v true _ false _)
    · exact sameButSpans_trans (sameButSpans_trans h3 (emitAt_same l _ v false _ _ _)) (emitAt_same l _ v true _ false _)
  · split
    · exact h3
    · exact sameButSpans_trans h3 (emitAt_same l _ v false _ _ _)

/-- The state of a firing after its tokens have moved and the exit has been seen. -/
def firedCore (s : State) (v : Env) (f : Effect) : State :=
  let s1 := modEl s v.cl v.el (firedElem v f)
  let s5 := match getLoad s v.sp with
    | some l => moveTokens l s1 v f
    | none => s1
  match v.c.exit with
  | some k => if (poppedTokens v f).any (fun t => hdrLS t.hdr) then modLoad s5 v.sp (exitSeen k) else s5
  | none => s5
theorem firedCore_same (s : State) (v : Env) (f : Effect) : sameButSpans (modEl s v.cl v.el (firedElem v f)) (firedCore s v f) := by
  unfold firedCore
  simp only
  have h : sameButSpans (modEl s v.cl v.el (firedElem v f)) (match getLoad s v.sp with
    | some l => moveTokens l (modEl s v.cl v.el (firedElem v f)) v f
    | none => modEl s v.cl v.el (firedElem v f)) := by
    split
    · exact moveTokens_same _ _ _ _
    · rfl
  split
  · split
    · exact sameButSpans_trans h rfl
    · exact h
  · exact h

/-- A firing, in parts: its own effect, the count of a firing (R420), and the fault of TM where the streams mismatch. -/
theorem applyEffect_eq (s : State) (v : Env) (f : Effect) :
    applyEffect s v f =
      if mismatches v && v.tm then elemFault (countBoth (firedCore s v f) v.cl 0x0010 1) v.cl v.el ⟨5, 0, 0, slotLoc v⟩
      else countBoth (firedCore s v f) v.cl 0x0010 1 := rfl

/-- A firing writes no byte of memory. -/
theorem applyEffect_mem (s : State) (v : Env) (f : Effect) : (applyEffect s v f).mem = s.mem := by
  have h := congrArg State.mem (firedCore_same s v f)
  rw [applyEffect_eq]
  split <;> simpa [elemFault] using h
theorem applyEffect_cycles (s : State) (v : Env) (f : Effect) : (applyEffect s v f).cycles = s.cycles := by
  have h := congrArg State.cycles (firedCore_same s v f)
  rw [applyEffect_eq]
  split <;> simpa [elemFault] using h
theorem applyEffect_dir (s : State) (v : Env) (f : Effect) : (applyEffect s v f).dir = s.dir := by
  have h := congrArg State.dir (firedCore_same s v f)
  rw [applyEffect_eq]
  split <;> simpa [elemFault] using h

theorem getEl_firedCore (s : State) (v : Env) (f : Effect) (c e : Nat) :
    getEl (firedCore s v f) c e = getEl (modEl s v.cl v.el (firedElem v f)) c e :=
  getEl_congr (congrArg State.clusters (firedCore_same s v f)) c e

/-- The element of a firing, but for the fault of TM. -/
theorem applyEffect_elem (s : State) (v : Env) (f : Effect) :
    getEl (applyEffect s v f) v.cl v.el = firedElem v f (getEl s v.cl v.el) ∨
    getEl (applyEffect s v f) v.cl v.el = { firedElem v f (getEl s v.cl v.el) with fault := some ⟨5, 0, 0, slotLoc v⟩ } := by
  rw [applyEffect_eq]
  split
  · right; simp [elemFault, getEl_firedCore]
  · left; simp [getEl_firedCore]
/-- Every other element is as before. -/
theorem applyEffect_elem_ne (s : State) (v : Env) (f : Effect) {c e : Nat} (h : c ≠ v.cl ∨ e ≠ v.el) :
    getEl (applyEffect s v f) c e = getEl s c e := by
  rw [applyEffect_eq]
  split
  · simp only [elemFault, getEl_postEvent]
    rw [getEl_modEl_ne _ _ h, getEl_countBoth, getEl_firedCore, getEl_modEl_ne _ _ h]
  · rw [getEl_countBoth, getEl_firedCore, getEl_modEl_ne _ _ h]
theorem chargeCredits_regs (sh k : Nat) (e : Elem) : (chargeCredits sh k e).regs = e.regs ∧ (chargeCredits sh k e).preds = e.preds
    ∧ (chargeCredits sh k e).sh0 = e.sh0 ∧ (chargeCredits sh k e).sh1 = e.sh1 ∧ (chargeCredits sh k e).etR = e.etR
    ∧ (chargeCredits sh k e).etP = e.etP ∧ (chargeCredits sh k e).busy = e.busy := by
  unfold chargeCredits
  split
  · simp only; split <;> simp
  · simp
theorem addCredits_regs (e : Elem) : (addCredits e).regs = e.regs ∧ (addCredits e).preds = e.preds
    ∧ (addCredits e).sh0 = e.sh0 ∧ (addCredits e).sh1 = e.sh1 ∧ (addCredits e).etR = e.etR
    ∧ (addCredits e).etP = e.etP ∧ (addCredits e).busy = e.busy := by
  unfold addCredits
  split <;> simp
theorem setCtx_keeps (e : Elem) (sh : Nat) (c : OpCtx) : (setCtx e sh c).regs = e.regs ∧ (setCtx e sh c).preds = e.preds := by
  unfold setCtx
  split <;> simp
theorem firedElem_regs (v : Env) (f : Effect) (e : Elem) : (firedElem v f e).regs = f.regs := by
  unfold firedElem
  simp only
  split
  · rw [(chargeCredits_regs _ _ _).1, (addCredits_regs _).1]
  · rfl
theorem firedElem_preds (v : Env) (f : Effect) (e : Elem) : (firedElem v f e).preds = f.preds := by
  unfold firedElem
  simp only
  split
  · rw [(chargeCredits_regs _ _ _).2.1, (addCredits_regs _).2.1]
  · rfl
theorem firedElem_busy (v : Env) (f : Effect) (e : Elem) : (firedElem v f e).busy = v.t + f.cyc := by
  unfold firedElem
  simp only
  split
  · rw [(chargeCredits_regs _ _ _).2.2.2.2.2.2, (addCredits_regs _).2.2.2.2.2.2]
  · rfl
/-- The registers, the predicates and the end of the occupancy after a firing. -/
theorem applyEffect_regs (s : State) (v : Env) (f : Effect) : (getEl (applyEffect s v f) v.cl v.el).regs = f.regs := by
  rcases applyEffect_elem s v f with h | h <;> rw [h] <;> simp [firedElem_regs]
theorem applyEffect_preds (s : State) (v : Env) (f : Effect) : (getEl (applyEffect s v f) v.cl v.el).preds = f.preds := by
  rcases applyEffect_elem s v f with h | h <;> rw [h] <;> simp [firedElem_preds]
theorem applyEffect_busy (s : State) (v : Env) (f : Effect) : (getEl (applyEffect s v f) v.cl v.el).busy = v.t + f.cyc := by
  rcases applyEffect_elem s v f with h | h <;> rw [h] <;> simp [firedElem_busy]
/-- No group's registers change. -/
theorem applyEffect_grp (s : State) (v : Env) (f : Effect) (c g : Nat) : getGrp (applyEffect s v f) c g = getGrp s c g := by
  have h1 : getGrp (countBoth (firedCore s v f) v.cl 0x0010 1) c g = getGrp s c g := by
    rw [getGrp_congr (getCore_countBoth _ _ _ _ _)]
    have h := congrArg State.clusters (firedCore_same s v f)
    rw [show getGrp (firedCore s v f) c g = getGrp (modEl s v.cl v.el (firedElem v f)) c g from
      congrArg (fun k : Cluster => vec4Get k.core.grp g) (getCl_congr h c)]
    exact getGrp_congr (getCore_modEl _ _ _ _ _) g
  rw [applyEffect_eq]
  split
  · rw [elemFault, getGrp_postEvent, getGrp_congr (getCore_modEl _ _ _ _ _) g, h1]
  · exact h1

/-! Register groups. -/

theorem writeGroup_succ (lg n : Nat) (f : Nat → W32) (regs : Vec16 (Vec8 W32)) :
    writeGroup (lg + 1) n f regs = vec16Set (writeGroup lg n f regs) ((n + lg) % 16) (vec8Of (fun i => f (8 * lg + i)) 0) := by
  simp [writeGroup, List.range_succ]
/-- Register j of a group that was written. -/
theorem writeGroup_in {lg n : Nat} (f : Nat → W32) (regs : Vec16 (Vec8 W32)) (hlg : lg ≤ 16) {j : Nat} (hj : j < lg) :
    vec16Get (writeGroup lg n f regs) ((n + j) % 16) = vec8Of (fun i => f (8 * j + i)) 0 := by
  induction lg with
  | zero => omega
  | succ k ih =>
    rw [writeGroup_succ, vec16Get_set _ _ (by omega) (by omega)]
    by_cases h : j = k
    · subst h; simp
    · rw [if_neg (by omega)]; exact ih (by omega) (by omega)
/-- A register outside the group keeps its lanes. -/
theorem writeGroup_out {lg n : Nat} (f : Nat → W32) (regs : Vec16 (Vec8 W32)) {r : Nat} (hr : r < 16)
    (h : ∀ j, j < lg → r ≠ (n + j) % 16) : vec16Get (writeGroup lg n f regs) r = vec16Get regs r := by
  induction lg with
  | zero => rfl
  | succ k ih =>
    rw [writeGroup_succ, vec16Get_set _ _ (by omega) hr, if_neg (h k (by omega))]
    exact ih (fun j hj => h j (by omega))
/-- Lane l of a group of `lg` registers written from register n on. -/
theorem regLane_writeGroup {lg n : Nat} (f : Nat → W32) (regs : Vec16 (Vec8 W32)) {e : Elem}
    (he : e.regs = writeGroup lg n f regs) (hlg : lg ≤ 16) {l : Nat} (hl : l < 8 * lg) : regLane e n l = f l := by
  unfold regLane
  rw [he, writeGroup_in f regs hlg (by omega), vec8Get_of _ _ (by omega)]
  congr 1
  omega

/-! The environment of a firing. -/

/-- What the environment of a slot holds. -/
theorem envAt_some {s : State} {op : Nat} {w : Slot} {v : Env} {x : Span} {l : Load} (h : envAt s op w = some (v, x, l)) :
    v.cl = s.cur.cl ∧ v.el = s.cur.el ∧ v.slotNo = s.cur.slot ∧ v.op = op ∧ v.e = getEl s v.cl v.el
    ∧ v.c = ctxOfShare v.e v.share ∧ v.vl = v.c.vl ∧ v.lg = min 4 v.c.lg ∧ spanAt s v.cl = some (v.sp, x) ∧ x.load = some l
    ∧ v.rel = relOf x v.cl ∧ v.t = spanNow s v.sp := by
  unfold envAt at h
  simp only at h
  split at h
  · cases h
  · next sp y hs =>
    split at h
    · cases h
    · next l0 hl =>
      simp only [Option.some.injEq, Prod.mk.injEq] at h
      obtain ⟨rfl, rfl, rfl⟩ := h
      simp [hs, hl]
theorem fireEnv_some {s : State} {op : Nat} {w : Slot} {v : Env} (h : fireEnv s op w = some v) :
    ∃ x l, envAt s op w = some (v, x, l) ∧ spanActive x = true ∧ loadActive l = true ∧ eligible s x l v = true := by
  unfold fireEnv envOf at h
  split at h
  · cases h
  · next u x l hu =>
    split at hu
    · cases hu
    · next u' x' l' he =>
      split at hu
      · next ha =>
        split at h
        · next hel =>
          simp only [Option.some.injEq, Prod.mk.injEq] at hu h
          obtain ⟨rfl, rfl, rfl⟩ := hu
          subst h
          simp only [Bool.and_eq_true] at ha
          exact ⟨x', l', he, ha.1, ha.2, hel⟩
        · cases h
      · cases hu
/-- An eligible slot fires, and the firing is its effect. -/
theorem fireSlot_next {s : State} {op : Nat} {w : Slot} {v : Env} (f : Env → Effect) (h : fireEnv s op w = some v) :
    fireSlot s op w f = .next (applyEffect s v (f v)) := by
  simp [fireSlot, h]

/-- The lanes of the destination register of a firing (R81, R83). -/
theorem laneFire_reg {s : State} {op : Nat} {w : Slot} {v : Env} {fmt : Option Nat} {k d : Nat} {f : Env → Nat → W32}
    (h : fireEnv s op w = some v) (hd : destOf v.w.d = .v d) :
    ∃ t, laneFire s op w fmt k f = .next t ∧ ∀ l, l < 8 * v.lg →
      regLane (getEl t v.cl v.el) d l =
        if l < v.vl then (if guardL v l then f v l else if v.c.mz then 0#32 else regLane v.e d l)
        else if v.c.tz then 0#32 else regLane v.e d l := by
  obtain ⟨x, l0, he, -, -, -⟩ := fireEnv_some h
  have hlg : v.lg ≤ 16 := by rw [(envAt_some he).2.2.2.2.2.2.2.1]; omega
  refine ⟨_, fireSlot_next _ h, fun l hl => ?_⟩
  rw [regLane_writeGroup (regFill v d v.vl (guardedRes v (f v))) v.e.regs _ hlg hl]
  · unfold regFill guardedRes
    by_cases hv : l < v.vl
    · by_cases hg : guardL v l = true <;> simp [hg, hv]
    · have hg : guardL v l = false := by simp [guardL, guardAt, hv]
      simp [hg, hv]
  · rw [applyEffect_regs]
    simp [laneEffect, hd]

end Sys2Proof.Machine
end

