-- ==== Sys2Proof/Laws/Scopes.lean ====
section
/-! SUPPORT. The laws of scopes: an instance that holds another sees what it sees, the join of two holds both, and what
placing stores does to a byte of memory and to the stores not yet in it (R222, R224). -/

namespace Sys2Proof.Machine

open Sys2Proof

/-! Instances. -/

theorem Reach.wide_sees {r : Reach} (cl : Nat) (h : r.wide = true) : r.sees cl = true := by
  cases r <;> simp_all [Reach.wide, Reach.sees, Reach.has]
theorem Reach.sub_sees {a b : Reach} {cl : Nat} (h : a.sub b = true) (ha : a.sees cl = true) : b.sees cl = true := by
  cases a <;> cases b <;> simp_all [Reach.sub, Reach.sees, Reach.has, Agent.cluster]
  exact (h _ ha)
theorem Reach.sub_wide {a b : Reach} (h : a.sub b = true) (ha : a.wide = true) : b.wide = true := by
  cases a <;> cases b <;> simp_all [Reach.sub, Reach.wide]
theorem Reach.join_sees_left {a b : Reach} {cl : Nat} (ha : a.sees cl = true) : (a.join b).sees cl = true := by
  unfold Reach.join
  split
  · next h => exact Reach.sub_sees h ha
  · split
    · exact ha
    · rfl
theorem Reach.join_wide_left {a b : Reach} (ha : a.wide = true) : (a.join b).wide = true := by
  unfold Reach.join
  split
  · next h => exact Reach.sub_wide h ha
  · split
    · exact ha
    · rfl
theorem Reach.join_wide_right {a b : Reach} (hb : b.wide = true) : (a.join b).wide = true := by
  unfold Reach.join
  split
  · exact hb
  · split
    · next h => exact Reach.sub_wide h hb
    · rfl
theorem Reach.foldl_join {l : List Near} {q : Reach} :
    (q.wide = true → (l.foldl (fun q x => q.join x.reach) q).wide = true) ∧
    (∀ cl, q.sees cl = true → (l.foldl (fun q x => q.join x.reach) q).sees cl = true) ∧
    (∀ x ∈ l, x.reach.wide = true → (l.foldl (fun q x => q.join x.reach) q).wide = true) := by
  induction l generalizing q with
  | nil => exact ⟨id, fun _ => id, fun _ h => by cases h⟩
  | cons y l ih =>
    refine ⟨fun h => ih.1 (Reach.join_wide_left h), fun cl h => ih.2.1 cl (Reach.join_sees_left h), fun x hx hw => ?_⟩
    rcases List.mem_cons.mp hx with e | e
    · subst e; exact ih.1 (Reach.join_wide_right hw)
    · exact ih.2.2 x e hw

/-! What placing does to one byte. -/

/-- A store covers a byte. -/
def Near.covers (n : Near) (k : Nat) : Bool := decide (n.pa ≤ k ∧ k < n.pa + n.bytes.length)
/-- What a store of wide reach makes of a byte of memory. -/
def wideByte (k : Nat) (b : Byte) (n : Near) : Byte :=
  if n.reach.wide && n.covers k then n.bytes.getD (k - n.pa) b else b

theorem nearByte_eq (cl k : Nat) (b : Byte) (n : Near) :
    nearByte cl k b n = if n.reach.sees cl && n.covers k then n.bytes.getD (k - n.pa) b else b := rfl

theorem putBytes_byte (s : State) (pa : Nat) (bs : List Byte) (k : Nat) :
    (putBytes s pa bs).byte k = if pa ≤ k ∧ k < pa + bs.length then bs.getD (k - pa) (s.byte k) else s.byte k := by
  unfold State.byte
  rw [putBytes_mem]
  split
  · next h =>
    rw [memGet_memPutAll_in bs h.1 h.2, List.getD_eq_getElem _ _ (by omega), List.getD_eq_getElem _ _ (by omega)]
  · next h => rw [memGet_memPutAll_out bs s.mem (by omega)]

theorem placeNear_narrow {s : State} {n : Near} (h : n.reach.wide = false) : placeNear s n = { s with near := s.near ++ [n] } := by
  unfold placeNear
  split <;> simp_all [Reach.wide]
theorem placeNear_byte (s : State) (n : Near) (k : Nat) : (placeNear s n).byte k = wideByte k (s.byte k) n := by
  unfold wideByte Near.covers
  by_cases h : n.reach.wide = true
  · simp only [h, Bool.true_and, decide_eq_true_eq]
    unfold placeNear
    split
    · unfold packWrite; rw [putBytes_byte]; split <;> rfl
    · unfold systemWrite; rw [putBytes_byte]; split <;> rfl
    · next h1 h2 => simp [Reach.wide] at h; rcases h with h | h <;> contradiction
  · rw [Bool.not_eq_true] at h
    rw [placeNear_narrow h]
    simp [h, State.byte]
theorem placeNear_near (s : State) (n : Near) : (placeNear s n).near = s.near ++ (if n.reach.wide then [] else [n]) := by
  by_cases h : n.reach.wide = true
  · simp only [h, if_true, List.append_nil]
    unfold placeNear
    split
    · unfold packWrite; rw [putBytes_near]; rfl
    · unfold systemWrite; rw [putBytes_near]; rfl
    · next h1 h2 => simp [Reach.wide] at h; rcases h with h | h <;> contradiction
  · rw [Bool.not_eq_true] at h
    rw [placeNear_narrow h]
    simp [h]

theorem foldl_placeNear_byte (l : List Near) (s : State) (k : Nat) : (l.foldl placeNear s).byte k = l.foldl (wideByte k) (s.byte k) := by
  induction l generalizing s with
  | nil => rfl
  | cons n l ih => rw [List.foldl_cons, ih, placeNear_byte, List.foldl_cons]
theorem foldl_placeNear_near (l : List Near) (s : State) :
    (l.foldl placeNear s).near = s.near ++ l.filter (fun n => !n.reach.wide) := by
  induction l generalizing s with
  | nil => simp
  | cons n l ih =>
    rw [List.foldl_cons, ih, placeNear_near]
    cases h : n.reach.wide <;> simp [h]

end Sys2Proof.Machine
end

