-- ==== Sys2Proof/Laws/Tokens.lean ====
section
/-! SUPPORT. What a firing does to the channels at its element's ports, and the whole of a lane firing. -/

namespace Sys2Proof.Machine

open Sys2Proof Sys2Proof.Claims

/-- The output buffer, the count and the order of a channel, which pops leave alone. -/
def chanOut (s : State) (sp ch : Nat) : Option (List Flit × Nat × Bool) :=
  (getChan s sp ch).map (fun c => (c.out, c.nextSeq, c.ord))

theorem getChan_spans {s t : State} (h : t.spans = s.spans) (sp ch : Nat) : getChan t sp ch = getChan s sp ch := by
  simp [getChan, getLoad, getSpan, h]
theorem chanOut_popAt (l : Load) (s : State) (v : Env) (ctl : Bool) (port n ch : Nat) :
    chanOut (popAt l s v ctl port n) v.sp ch = chanOut s v.sp ch := by
  unfold popAt
  split
  · rfl
  · next c br _ =>
    simp only [chanOut, getChan_modBr]
    split
    · next h => subst h; cases getChan s v.sp ch <;> simp [modBranch]
    · rfl
theorem chanOut_popsK (l : Load) (s : State) (v : Env) (ps : List Nat) (ch : Nat) :
    chanOut (ps.foldl (fun s p => popAt l s v true p 1) s) v.sp ch = chanOut s v.sp ch := by
  induction ps generalizing s with
  | nil => rfl
  | cons p ps ih => rw [List.foldl_cons, ih, chanOut_popAt]
theorem chanOut_popsI (l : Load) (s : State) (v : Env) (ps : List (Nat × Nat)) (ch : Nat) :
    chanOut (ps.foldl (fun s p => popAt l s v false p.1 p.2) s) v.sp ch = chanOut s v.sp ch := by
  induction ps generalizing s with
  | nil => rfl
  | cons p ps ih => rw [List.foldl_cons, ih, chanOut_popAt]
theorem chanOut_pops (l : Load) (s : State) (v : Env) (f : Effect) (ch : Nat) :
    chanOut (f.popK.foldl (fun s p => popAt l s v true p 1) (f.popI.foldl (fun s p => popAt l s v false p.1 p.2) s)) v.sp ch
      = chanOut s v.sp ch := by
  rw [chanOut_popsK, chanOut_popsI]

/-- The flits that an emission appends. -/
def stampedFlits (n : Nat) (stamp ord : Bool) (seq : Nat) : List Token → List Flit
  | [] => []
  | t :: ts => ⟨{ t with hdr := withSeq t.hdr (if !ord then 0 else if stamp then seq else hdrSEQ t.hdr) }, n⟩ ::
      stampedFlits n stamp ord (if ord && stamp then (seq + 1) % 65536 else seq) ts
theorem emitAll_out (n : Nat) (stamp : Bool) (ts : List Token) (c : Chan) :
    (emitAll n stamp ts c).out = c.out ++ stampedFlits n stamp c.ord c.nextSeq ts := by
  induction ts generalizing c with
  | nil => simp [emitAll, stampedFlits]
  | cons t ts ih =>
    simp only [emitAll, stampedFlits]
    rw [ih]
    simp only [emitTok, List.append_assoc, List.singleton_append]
theorem stampedFlits_length (n : Nat) (stamp ord : Bool) (q : Nat) (ts : List Token) :
    (stampedFlits n stamp ord q ts).length = ts.length := by
  induction ts generalizing q with
  | nil => rfl
  | cons t ts ih => simp [stampedFlits, ih]
/-- A sequence stamp changes no lane. -/
theorem groupLane_stamped (n : Nat) (stamp ord : Bool) (q : Nat) (ts : List Token) (l : Nat) :
    groupLane ((stampedFlits n stamp ord q ts).map (·.tok)) l = groupLane ts l := by
  unfold groupLane
  generalize l / 8 = j
  generalize l % 8 = i
  induction ts generalizing q j with
  | nil => rfl
  | cons t ts ih =>
    cases j with
    | zero => rfl
    | succ j => simpa [stampedFlits] using ih _ j
theorem groupLane_withET (ts : List Token) (b : Bool) (l : Nat) :
    groupLane (ts.map (fun t => if b then withET t true else t)) l = groupLane ts l := by
  unfold groupLane
  generalize l / 8 = j
  generalize l % 8 = i
  induction ts generalizing j with
  | nil => rfl
  | cons t ts ih =>
    cases j with
    | zero => cases b <;> simp [withET]
    | succ j => simpa using ih j
theorem groupLane_tokensOf (n : Nat) (pay hdr : Nat → W32) {l : Nat} (h : l < 8 * n) : groupLane (tokensOf n pay hdr) l = pay l := by
  unfold groupLane tokensOf
  rw [List.getD_eq_getElem?_getD, List.getElem?_map, List.getElem?_range (by omega)]
  simp only [Option.map_some, Option.getD_some]
  rw [vec8Get_of _ _ (by omega)]
  congr 1
  omega

theorem chanOut_modLoad_exit (s : State) (sp k ch : Nat) : chanOut (modLoad s sp (exitSeen k)) sp ch = chanOut s sp ch := by
  unfold chanOut getChan
  rw [getLoad_modLoad_same]
  cases getLoad s sp <;> rfl
/-- The channels after a firing are those its pops and emissions leave. -/
theorem chanOut_applyEffect (s : State) (v : Env) (f : Effect) {l : Load} (hl : getLoad s v.sp = some l) (ch : Nat) :
    chanOut (applyEffect s v f) v.sp ch = chanOut (moveTokens l (modEl s v.cl v.el (firedElem v f)) v f) v.sp ch := by
  have h1 : chanOut (firedCore s v f) v.sp ch = chanOut (moveTokens l (modEl s v.cl v.el (firedElem v f)) v f) v.sp ch := by
    unfold firedCore
    simp only [hl]
    split
    · split
      · exact chanOut_modLoad_exit _ _ _ _
      · rfl
    · rfl
  rw [← h1, applyEffect_eq]
  split
  · rw [chanOut, getChan_spans (s := firedCore s v f) (by simp [elemFault])]; rfl
  · rw [chanOut, getChan_spans (s := firedCore s v f) (by simp)]; rfl

theorem getLoad_of_env {s : State} {op : Nat} {w : Slot} {v : Env} {x : Span} {l : Load} (h : envAt s op w = some (v, x, l)) :
    getLoad s v.sp = some l := by
  obtain ⟨-, -, -, -, -, -, -, -, hs, hl, -, -⟩ := envAt_some h
  unfold spanAt at hs
  split at hs
  · cases hs
  · next sp _ =>
    cases hg : getSpan s sp with
    | none => simp [hg] at hs
    | some y =>
      simp only [hg, Option.map_some, Option.some.injEq, Prod.mk.injEq] at hs
      obtain ⟨rfl, rfl⟩ := hs
      simp [getLoad, hg, hl]

theorem outAt_some {s : State} {sp rel el n : Nat} {ctl : Bool} {ch : Nat} {c : Chan} {l : Load} (hl : getLoad s sp = some l)
    (h : outAt s sp rel el n ctl = some (ch, c)) : findOut l ⟨.element rel el, n, ctl⟩ = some ch ∧ getChan s sp ch = some c := by
  simp only [outAt, hl, Option.bind_some, outChan] at h
  cases hf : findOut l ⟨.element rel el, n, ctl⟩ with
  | none => simp [hf] at h
  | some k =>
    simp only [hf, Option.bind_some] at h
    cases hc : amGet l.chans k with
    | none => simp [hc] at h
    | some d =>
      simp only [hc, Option.map_some, Option.some.injEq, Prod.mk.injEq] at h
      obtain ⟨rfl, rfl⟩ := h
      exact ⟨rfl, by simp [getChan, hl, hc]⟩

theorem tokenBit_bitToken (b : Bool) : tokenBit (bitToken b) = b := by cases b <;> decide

/-- The output of a firing that emits tokens and no bit. -/
theorem applyEffect_tokens {s : State} {v : Env} {f : Effect} {l : Load} (hl : getLoad s v.sp = some l) (hb : f.bit = none) :
    EmittedTokens s (applyEffect s v f) v f.out f.toks f.tag := by
  intro ch c hc
  obtain ⟨hf, hg⟩ := outAt_some hl hc
  have h0 : chanOut (modEl s v.cl v.el (firedElem v f)) v.sp ch = some (c.out, c.nextSeq, c.ord) := by
    show chanOut s v.sp ch = _
    simp [chanOut, hg]
  have hE := chanOut_applyEffect s v f hl ch
  unfold moveTokens at hE
  simp only [hb] at hE
  by_cases ht : f.toks = []
  · simp only [ht, if_true] at hE
    rw [chanOut_pops, h0] at hE
    cases hk : getChan (applyEffect s v f) v.sp ch with
    | none => simp [chanOut, hk] at hE
    | some c' =>
      simp only [chanOut, hk, Option.map_some, Option.some.injEq, Prod.mk.injEq] at hE
      exact ⟨c', rfl, by rw [hE.1, ht]; rfl⟩
  · simp only [ht, if_false] at hE
    unfold emitAt at hE
    simp only [hf] at hE
    have hp2 := chanOut_pops l (modEl s v.cl v.el (firedElem v f)) v f ch
    rw [h0] at hp2
    generalize (f.popK.foldl (fun s p => popAt l s v true p 1)
      (f.popI.foldl (fun s p => popAt l s v false p.1 p.2) (modEl s v.cl v.el (firedElem v f)))) = u at hE hp2
    cases hu : getChan u v.sp ch with
    | none => simp [chanOut, hu] at hp2
    | some d =>
      simp only [chanOut, hu, Option.map_some, Option.some.injEq, Prod.mk.injEq] at hp2
      simp only [chanOut, getChan_modChan, if_true, hu, Option.map_some] at hE
      cases hk : getChan (applyEffect s v f) v.sp ch with
      | none => simp [hk] at hE
      | some c' =>
        simp only [hk, Option.map_some, Option.some.injEq, Prod.mk.injEq] at hE
        refine ⟨c', rfl, ?_⟩
        rw [hE.1, emitAll_out, emitAll_out, hp2.1, hp2.2.1, hp2.2.2]

/-- The lanes of what a firing emits. -/
theorem emittedTokens_lanes {s t : State} {v : Env} {n : Nat} {toks : List Token} {tag : Bool} {pay : Nat → W32}
    (h : EmittedTokens s t v n toks tag) (hp : ∀ i, i < 8 * toks.length → groupLane toks i = pay i) :
    Emitted s t v n toks.length pay := by
  intro ch c hc
  obtain ⟨c', hk, ho⟩ := h ch c hc
  rw [emitAll_out] at ho
  refine ⟨c', hk, ?_, ?_, ?_⟩
  · rw [ho]; simp
  · rw [ho]; simp [stampedFlits_length]
  · intro i hi
    rw [ho, List.drop_left, groupLane_stamped, groupLane_withET]
    exact hp i hi

/-- The control output of a firing that emits a bit and no token. -/
theorem applyEffect_bit {s : State} {v : Env} {f : Effect} {l : Load} (hl : getLoad s v.sp = some l) (ht : f.toks = [])
    {n : Nat} {b : Bool} (hb : f.bit = some (n, b)) : EmittedBit s (applyEffect s v f) v n b := by
  intro ch c hc
  obtain ⟨hf, hg⟩ := outAt_some hl hc
  have h0 : chanOut (modEl s v.cl v.el (firedElem v f)) v.sp ch = some (c.out, c.nextSeq, c.ord) := by
    show chanOut s v.sp ch = _
    simp [chanOut, hg]
  have hE := chanOut_applyEffect s v f hl ch
  unfold moveTokens at hE
  simp only [hb, ht, if_true] at hE
  unfold emitAt at hE
  simp only [hf] at hE
  have hp2 := chanOut_pops l (modEl s v.cl v.el (firedElem v f)) v f ch
  rw [h0] at hp2
  generalize (f.popK.foldl (fun s p => popAt l s v true p 1)
    (f.popI.foldl (fun s p => popAt l s v false p.1 p.2) (modEl s v.cl v.el (firedElem v f)))) = u at hE hp2
  cases hu : getChan u v.sp ch with
  | none => simp [chanOut, hu] at hp2
  | some d =>
    simp only [chanOut, hu, Option.map_some, Option.some.injEq, Prod.mk.injEq] at hp2
    simp only [chanOut, getChan_modChan, if_true, hu, Option.map_some] at hE
    cases hk : getChan (applyEffect s v f) v.sp ch with
    | none => simp [hk] at hE
    | some c' =>
      simp only [hk, Option.map_some, Option.some.injEq, Prod.mk.injEq] at hE
      have ho := hE.1
      rw [emitAll_out, hp2.1] at ho
      exact ⟨c', rfl, _, ho, (tokenBit_bitToken b : _)⟩

/-- A firing of lane results: registers, output tokens or control token, as D says. -/
theorem fireSlot_lanes {i : Instr} {s : State} {op : Nat} {w : Slot} {v : Env} {F : Env → Effect} {cyc lim n : Nat}
    {hdr : Nat → W32} {res : Nat → Option W32} (hi : exec i s = fireSlot s op w F) (h : fireEnv s op w = some v)
    (hF : F v = laneEffect v cyc lim n hdr res) :
    ∃ t, exec i s = .next t ∧
      (∀ d, destOf v.w.d = .v d → ∀ l, l < 8 * v.lg → regLane (getEl t v.cl v.el) d l = regFill v d lim res l) ∧
      (∀ o, destOf v.w.d = .o o → EmittedTokens s t v o (tokensOf n (payFill v lim res) hdr) (readsTagged v)) ∧
      (∀ y, destOf v.w.d = .y y → EmittedBit s t v y (yBit v res)) := by
  obtain ⟨x, l, henv, -, -, -⟩ := fireEnv_some h
  have hl := getLoad_of_env henv
  have hlg : v.lg ≤ 16 := by rw [(envAt_some henv).2.2.2.2.2.2.2.1]; omega
  refine ⟨_, hi.trans (fireSlot_next F h), ?_, ?_, ?_⟩
  · intro d hd l hl
    exact regLane_writeGroup (regFill v d lim res) v.e.regs (by rw [applyEffect_regs, hF]; simp [laneEffect, hd]) hlg hl
  · intro o ho
    have e := applyEffect_tokens (s := s) (v := v) (f := F v) hl (by rw [hF]; simp [laneEffect, ho, baseEffect])
    rw [show (F v).out = o by rw [hF]; simp [laneEffect, ho, baseEffect, outNo],
      show (F v).toks = tokensOf n (payFill v lim res) hdr by rw [hF]; simp [laneEffect, ho],
      show (F v).tag = readsTagged v by rw [hF]; simp [laneEffect, ho, baseEffect]] at e
    exact e
  · intro y hy
    exact applyEffect_bit hl (by rw [hF]; simp [laneEffect, hy, baseEffect]) (by rw [hF]; simp [laneEffect, hy])

/-- A firing whose guarded lanes receive `g`, whole. -/
theorem laneEffect_all {i : Instr} {s : State} {op : Nat} {w : Slot} {v : Env} {F : Env → Effect} {cyc : Nat} {hdr : Nat → W32}
    {g : Nat → W32} (hi : exec i s = fireSlot s op w F) (h : fireEnv s op w = some v)
    (hF : F v = laneEffect v cyc v.vl v.lg hdr (guardedRes v g)) : LaneFiring i s v g := by
  obtain ⟨t, ht, h1, h2, h3⟩ := fireSlot_lanes hi h hF
  refine ⟨t, ht, ?_, ?_, ?_⟩
  · intro d hd l hl
    rw [h1 d hd l hl]
    unfold regFill guardedRes registerLane
    by_cases hv : l < v.vl
    · by_cases hg : guardL v l = true <;> simp [hg, hv]
    · have hg : guardL v l = false := by simp [guardL, guardAt, hv]
      simp [hg, hv]
  · intro n hn
    have e := emittedTokens_lanes (h2 n hn) (pay := payloadLane v g) (by
      intro i hi
      simp only [tokensOf, List.length_map, List.length_range] at hi
      rw [groupLane_tokensOf _ _ _ hi]
      unfold payFill guardedRes payloadLane
      by_cases hv : i < v.vl <;> by_cases hg : guardL v i = true <;> simp [hv, hg])
    simpa [tokensOf] using e
  · intro n hn
    have e := h3 n hn
    have : yBit v (guardedRes v g) =
        (if isCompare v.op then (List.range v.vl).any (fun l => guardL v l && bitAt 0 (g l)) else guardL v 0 && bitAt 0 (g 0)) := by
      unfold yBit guardedRes
      split
      · congr 1
        funext l
        by_cases hg : guardL v l = true <;> simp [hg]
      · by_cases hg : guardL v 0 = true <;> simp [hg]
    rw [← this]
    exact e
/-- The same of the common lane firing. -/
theorem laneFire_all {i : Instr} {s : State} {op : Nat} {w : Slot} {v : Env} {fmt : Option Nat} {k : Nat} {f : Env → Nat → W32}
    (hi : exec i s = laneFire s op w fmt k f) (h : fireEnv s op w = some v) : LaneFiring i s v (f v) :=
  laneEffect_all hi h rfl

end Sys2Proof.Machine
end

