-- ==== Sys2Proof/Safety.lean ====
section
/-! DEFINITION. What a safe run is: the machine has not stopped. -/

namespace Sys2Proof

/-- `k` steps from `s` meet no fault and no refusal. -/
def safeFor (k : Nat) (s : Sys2Proof.Machine.State) : Prop := ∃ t, Host.Core.run Sys2Proof.core k s = .next t

end Sys2Proof
end

