-- ==== Sys2Proof/Tests/Slice0.lean ====
section
/-! SUPPORT. Tests: words of the spec's examples, ill-formed slots, one step of an instruction on a small state, and
states that meet the hypotheses of the statements. -/

set_option Elab.async false

namespace Sys2Proof.Tests

open Sys2Proof Sys2Proof.Machine Sys2Proof.Claims

/-! Small states. Cluster 0 is the span of partition 0; element 0 of it fires, elements 1 and 2 feed and drain it. -/

def lanesOf (f : Nat → Nat) : Vec8 W32 := vec8Of (fun i => BitVec.ofNat 32 (f i)) 0
def tok (x : Nat) (hdr : W32) : Token := ⟨lanesOf (fun i => x + i), hdr⟩
def branch (dst : Endpoint) (buf : List Token) : Branch :=
  { dst := dst, lat := 2, depth := 2, flight := [], queue := none, relief := [], reliefCap := 0, area := [], rhead := 0, rlen := 0, hold := [], spots := [],
    buf := buf.map (fun t => ⟨t, 0⟩), arrAt := none, replay := [], failed := none, cmp := none, occSum := 0, popped := 0, popAt := (0, 0), fullAll := false,
    emptyAll := true, hops := [] }
def chan (n : Nat) (ctl : Bool) (src : Endpoint) (bs : List Branch) : Chan :=
  { num := n, ctl := ctl, ord := false, src := src, out := [], nextSeq := 0, count := 0#32, winStart := 0#32, relAt := 0, branches := bs }
def at' (el port : Nat) (ctl : Bool) : Endpoint := ⟨.element 0 el, port, ctl⟩
/-- A header with LN = 8. -/
def hdr8 : W32 := mkHdr 0 false false false 8 0 5
def chans : List Chan :=
  [chan 0 false (at' 1 0 false) [branch (at' 0 0 false) [tok 100 hdr8, tok 200 hdr8]],
   chan 1 false (at' 1 1 false) [branch (at' 0 1 false) [tok 7 hdr8]],
   chan 2 false (at' 0 0 false) [branch (at' 2 0 false) []],
   chan 3 false (at' 0 1 false) [branch (at' 2 1 false) []],
   chan 4 true (at' 1 0 true) [branch (at' 0 0 true) [bitToken true]],
   chan 5 true (at' 0 0 true) [branch (at' 2 0 true) []]]
def listMap {α : Type} (l : List α) : AMap α := ⟨(List.range l.length).zip l⟩
def load0 : Load := { probeLoad with chans := listMap chans }
def span0 : Span := { probeSpan with load := some load0 }
def elem0 : Elem :=
  { elemReset with
    fam := 0xFFFFFFFF#32, kdp := ⟨2, 2, 2, 2⟩, preds := vec8Of (fun i => if i = 1 then 0x0F#8 else 0x33#8) 0
    regs := vec16Of (fun n => lanesOf (fun i => (n + 1) * 1000000 + 2 ^ i * 3 + (if i = 3 then 0x80000000 else 0))) 0 }
/-- A running load; element 0 has tokens at i0, i1 and k0 and room at o0, o1 and y0. -/
def fab : State :=
  let s := { State.reset with spans := ⟨[(0, span0)]⟩, cycles := vec16Fill 10 }
  modEl (modEl (modEl (modCl s 0 (fun c => { c with span := some 0 })) 0 0 (fun _ => elem0))
    0 1 (fun e => { e with kdp := ⟨2, 2, 2, 2⟩ })) 0 2 (fun e => { e with kdp := ⟨2, 2, 2, 2⟩ })

/-! Words. -/

/-- Slot examples: ADDI.I32, MOVI, FMA.F32, CVT, QNT.MX4, LD, AMOADD.I32, STEER, MRG. -/
theorem test_slot_words : ∀ p ∈ slotWords, decodeSlot p.1 = some p.2 ∧ encodeSlot p.2 = some p.1 := by decide +kernel
theorem test_core_words : ∀ p ∈ coreWords, decodeCore p.1 = .ok p.2 ∧ encodeCore p.2 = some p.1 := by decide +kernel
/-- The pattern program of the spec: BAND, CLIP, EMIT, OFFS, LOOP, END. -/
theorem test_pattern_words :
    decodePatOp 0x08001001#32 = some (.band 0#3 1#12 1#12) ∧ decodePatOp 0x38003003#32 = some (.clip 0#3 3#12 3#12) ∧
    decodePatOp 0x60000000#32 = some (.emit 0#3) ∧ decodePatOp 0x30004004#32 = some (.offs 0#3 4#12 4#12) ∧
    decodePatOp 0x68000402#32 = some (.loop 0#2 1#12 2#10) ∧ decodePatOp 0x70000000#32 = some .fin := by decide +kernel
/-- R171: an unassigned OPC is refused with subcode 1, an unassigned FN with 2, a field that must be 0 with 3. -/
theorem test_core_refused : decodeCore 0x2C000000#32 = .error 1#8 ∧ decodeCore 0x00000018#32 = .error 2#8
    ∧ decodeCore 0xD8010000#32 = .error 3#8 := by decide +kernel
/-- An OPC above 14 and a must-be-zero field refuse a pattern word. -/
theorem test_pattern_refused : decodePatOp 0x78000000#32 = none ∧ decodePatOp 0x70000001#32 = none ∧ decodePatOp 0x00000000#32 = none := by
  decide +kernel

/-! One ill-formed slot for each check of R80 that a slot decides, with the number of the check. -/

/-- OP = 0x18 is unassigned, in a word of the spec: no instruction stands there. -/
theorem test_check1 : decodeSlot 0x8000004401885380#64 = none := by decide +kernel
/-- D = 25. -/
theorem test_check2 : slotCheck 0x00 (plainSlot 0#8 0#4 25#5 0#5 1#5 0#5) false false = some 2
    ∧ Instr.wellFormed (.addI32 (plainSlot 0#8 0#4 25#5 0#5 1#5 0#5)) = false := by decide +kernel
/-- MUL.F32 with PW[4:2] = 001, in a word of the spec. -/
theorem test_check3 : (decodeSlot 0x800000C4062852A5#64).map Instr.wellFormed = some false
    ∧ slotCheck 0x62 (slotOf 0x800000C4062852A5#64) false false = some 3 := by decide +kernel
/-- FMA.F32 onto an output. -/
theorem test_check4 : Instr.wellFormed (.fmaF32 (plainSlot 1#8 1#4 16#5 20#5 1#5 0#5)) = false
    ∧ slotCheck 0x63 (plainSlot 1#8 1#4 16#5 20#5 1#5 0#5) false false = some 4 := by decide +kernel
/-- CVT with the reserved selector 2. -/
theorem test_check5 : Instr.wellFormed (.cvt (plainSlot 1#8 1#4 16#5 20#5 2#5 0#5)) = false
    ∧ slotCheck 0x80 (plainSlot 1#8 1#4 16#5 20#5 2#5 0#5) false false = some 5 := by decide +kernel
/-- Q = 1 with PM = 0. -/
theorem test_check6 : Instr.wellFormed (.addI32 { plainSlot 0#8 0#4 2#5 0#5 1#5 0#5 with q := true }) = false
    ∧ slotCheck 0x00 { plainSlot 0#8 0#4 2#5 0#5 1#5 0#5 with q := true } false false = some 6 := by decide +kernel
/-- TV set, TE = 0 and no SEQ operand. -/
theorem test_check7 : Instr.wellFormed (.addI32 { plainSlot 0#8 0#4 2#5 0#5 1#5 0#5 with tv := 1#3 }) = false
    ∧ slotCheck 0x00 { plainSlot 0#8 0#4 2#5 0#5 1#5 0#5 with tv := 1#3 } false false = some 7 := by decide +kernel
/-- D = o0 with OS = 0, in a word of the spec. -/
theorem test_check8 : (decodeSlot 0x8000004000085380#64).map Instr.wellFormed = some false
    ∧ slotCheck 0x00 (slotOf 0x8000004000085380#64) false false = some 8 := by decide +kernel
/-- LOOP that branches back by 0 words (R220). -/
theorem test_check19 : Instr.wellFormed (.patLoop 0#2 1#12 0#10) = false := by decide +kernel
/-- The slots of the spec's examples are well formed. -/
theorem test_wellFormed : ∀ p ∈ slotWords, p.2.wellFormed = true := by decide +kernel

/-! Element slots. -/

def isNext (o : Host.Outcome State Fault Refusal) : Bool := match o with
  | .next _ => true
  | _ => false
/-- What a step leaves; the state before it where it stops. -/
def after (o : Host.Outcome State Fault Refusal) (s : State) : State := match o with
  | .next t => t
  | _ => s
/-- D = v2, A = v0, B = v1; and D = o0, A = i0.pop, B = i1.pop. -/
def regSlot : Slot := plainSlot 0#8 0#4 2#5 0#5 1#5 0#5
def popSlot : Slot := plainSlot 3#8 1#4 16#5 20#5 21#5 0#5
/-- Element 0 with LG = 2 and vl = 11, both policies zeroing. -/
def fabWide : State := modEl fab 0 0 (fun e => { e with sh0 := { e.sh0 with lg := 2, vl := 11, mz := true, tz := true } })

/-- Every form with lane results is eligible with a register destination, and with an output. -/
theorem witness_lane_forms : ∀ F ∈ laneForms,
    (fireEnv fab F.op regSlot).isSome = true ∧ (fireEnv fabWide F.op regSlot).isSome = true ∧ (fireEnv fab F.op popSlot).isSome = true := by
  decide +kernel
theorem witness_control_destination : (fireEnv fab 0x42 (plainSlot 3#8 0#4 20#5 20#5 21#5 0#5)).isSome = true
    ∧ (getLoad fab 0).isSome = true ∧ (outAt fab 0 0 0 0 true).isSome = true ∧ (outAt fab 0 0 0 0 false).isSome = true := by decide +kernel
theorem witness_quantisation : ∀ op ∈ [0x86, 0x87, 0x88, 0x89],
    (fireEnv fabWide op regSlot).isSome = true ∧ (fireEnv fab op popSlot).isSome = true := by decide +kernel
theorem witness_operator_state : ∀ op ∈ [0x53, 0x54, 0x55, 0x57, 0x91, 0xC9, 0xCA, 0xE0, 0xE1, 0xE2, 0xE3],
    (fireEnv fab op regSlot).isSome = true := by decide +kernel
theorem witness_trap_room : (getCl fab 0).core.events.length < 128 ∧ (getCl fab 0).core.held = [] := by decide +kernel
theorem witness_channel : ∀ op ∈ [0xC1, 0xC2, 0xCB, 0xCC, 0xCD, 0xCE], (fireEnv fab op popSlot).isSome = true := by decide +kernel
theorem witness_delta : (fireEnv fab 0xCE popSlot).all (fun v => !((List.range v.vl).filter (deltaSent v)).isEmpty) = true := by decide +kernel
/-- STEER D=o0 A=i0.pop B=k0; MRG and MRGU D=o0 A=k0 B=0x03; JOIN D=y0; RESID D=v2 A=i0.pop B=v1. -/
def steerSlot : Slot := plainSlot 0x11#8 3#4 16#5 20#5 24#5 0#5
def mrgSlot : Slot := plainSlot 0x10#8 1#4 16#5 24#5 3#5 0#5
theorem witness_steer : (fireEnv fab 0xC5 steerSlot).any (fun v => decide (vec4Get v.ctl 0 = some true)) = true := by decide +kernel
theorem witness_merge : ∀ op ∈ [0xC6, 0xC7], (fireEnv fab op mrgSlot).any (fun v =>
    (mergeArm v).any (fun a => (vec4Get v.ins a).isSome)) = true := by decide +kernel
theorem witness_join : (fireEnv fab 0xC8 (plainSlot 0x10#8 0#4 20#5 28#5 28#5 0#5)).isSome = true := by decide +kernel
theorem witness_resid : (fireEnv fab 0xCF (plainSlot 1#8 0#4 2#5 20#5 1#5 0#5)).any (fun v => (groupA v).any (fun g => decide (g.length = 1))) = true := by
  decide +kernel

/-! Element memory: a binding to tile 3, one to the virtual space with a cached page of 2 GiB, a page without permission after it,
and nothing. -/

def toTile : State := modEl fab 0 0 (fun e => { e with sh0 := { e.sh0 with mab := 0x8C00000000000000#64 } })
def toMemory : State := modCl fab 0 (fun c => { c with tcache := [⟨0, 0, 4096, 8192, 7⟩, ⟨0, 4096, 4096, 0, 0⟩] })
/-- A, B and D are zero registers: the lanes access the words from the bound address on. -/
def zeroRegs (base : Nat) (s : State) : State :=
  modEl s 0 0 (fun e => { e with regs := vec16Fill lanesZero, sh0 := { e.sh0 with mab := BitVec.ofNat 64 (e.sh0.mab.toNat + base) } })
theorem witness_memory_issue : ∀ F ∈ memForms, ∀ s ∈ [zeroRegs 0 toTile, zeroRegs 0 toMemory], (fireEnv s F.op regSlot).any (fun v =>
    match issuedAccs s v (F.act v) (F.off v) (F.data v) (F.cmp v) with
    | .ok l => decide (l.length = 8)
    | _ => false) = true := by decide +kernel
/-- At 4,096 every form faults at its first lane. -/
theorem witness_memory_fault : ∀ F ∈ memForms, (fireEnv (zeroRegs 4096 toMemory) F.op regSlot).any (fun v =>
    match issuedAccs (zeroRegs 4096 toMemory) v (F.act v) (F.off v) (F.data v) (F.cmp v) with
    | .fault lane _ va => decide (lane = 0 ∧ va = 4096)
    | _ => false) = true := by decide +kernel
/-- At 4,080 four words of LDFF lie in the page that can be read. -/
theorem witness_first_fault : (fireEnv (zeroRegs 4080 toMemory) 0xA3 regSlot).any (fun v =>
    match issuedAccs (zeroRegs 4080 toMemory) v .load (fun l => laneA v 0 + laneB v 0 + BitVec.ofNat 32 (4 * l)) (fun _ => 0#32) (fun _ => 0#32) with
    | .fault lane _ va => decide (lane = 4 ∧ va = 4096)
    | _ => false) = true := by decide +kernel

/-! Results that the spec works out. -/

/-- mulh.i32 of 0x8000_0000 by itself is 0x4000_0000, abs.i32 of it stays (chapter 04). -/
def withLane (n : Nat) (x : W32) (s : State) : State :=
  modEl s 0 0 (fun e => { e with regs := vec16Set e.regs n (vec8Fill x) })
def lane0 (t : State) : W32 := regLane (getEl t 0 0) 2 0
def fire (i : Slot → Instr) (a b : W32) : W32 := lane0 (after (exec (i regSlot) (withLane 0 a (withLane 1 b fab))) fab)
theorem test_mulh : fire .mulhI32 0x80000000#32 0x80000000#32 = 0x40000000#32 := by decide +kernel
theorem test_abs : fire .absI32 0x80000000#32 0#32 = 0x80000000#32 := by decide +kernel
/-- A shift by 32 gives 0, an arithmetic one the sign (R93). -/
theorem test_shifts : fire .shl 1#32 32#32 = 0#32 ∧ fire .sar 0x80000000#32 40#32 = 0xFFFFFFFF#32 := by decide +kernel
theorem test_add_wraps : fire .addI32 0xFFFFFFFF#32 2#32 = 1#32 ∧ fire .addI32Sat 0x7FFFFFFF#32 1#32 = 0x7FFFFFFF#32 := by decide +kernel
/-- 1.0 + 2^-24 rounds to even; 1.5 × 2.0 is 3.0. -/
theorem test_float : fire .addF32 0x3F800000#32 0x33800000#32 = 0x3F800000#32 ∧ fire .mulF32 0x3FC00000#32 0x40000000#32 = 0x40400000#32 := by
  decide +kernel
/-- bfx.n with pos = 4, len = 8 (chapter 04): IMM10 = 0x0E4. -/
theorem test_bfxn : lane0 (after (exec (.bfxn { regSlot with b := 7#5, pw := 4#5 }) (withLane 0 0x12345678#32 fab)) fab) = 0x67#32 := by decide +kernel

/-! Control cores. Cluster 0's group 0 executes at 0x100; a page of 4 KiB is cached with every permission, the next one without. -/

def grp0 : Group :=
  { groupReset with st := .ready, pc := 0x100#52, x := vec32Of (fun n => BitVec.ofNat 64 (8 * n + n * 2 ^ 40)) }
def core0 : State :=
  { modCl State.reset 0 (fun c => { c with
      tcache := [⟨0, 0, 4096, 8192, 7⟩, ⟨0, 4096, 4096, 0, 0⟩]
      core := { c.core with tvec := 0x2000#64, grp := vec4Set c.core.grp 0 grp0 } }) with
    mem := memPutAll [] 8192 (bytesOf 8 0xF1E2D3C4B5A69788) }
def mode1 (s : State) : State := modGrp s 0 0 (fun g => { g with status := 1#64 })
/-- Register n of the group set. -/
def setX (n : BitVec 5) (v : Nat) (s : State) : State := modGrp s 0 0 (fun g => xset n (BitVec.ofNat 64 v) g)
/-- A word placed after the executing one. -/
def wordAfter (w : W32) : State := { core0 with mem := memPutAll core0.mem 0x2104 (bytesOf 4 w.toNat) }
/-- A load issued, and its data arriving. -/
noncomputable def loadOf (i : Instr) (s : State) (n : BitVec 5) : W64 :=
  let t := after (exec i s) s
  xget (curGrp (after (exec (.coreAccessPerformed 0 0 (curGrp t).stores.length) t) t)) n
def regOf (i : Instr) (s : State) (n : BitVec 5) : W64 := xget (curGrp (after (exec i s) s)) n

theorem witness_user_and_supervisor : core0.cur.grp < 4 ∧ bitAt 0 (curGrp core0).status = false ∧ bitAt 0 (curGrp (mode1 core0)).status = true
    ∧ (curGrp core0).pc.toNat % 4 = 0 := by decide +kernel
/-- R172: division by 0 and of the most negative number by −1. -/
theorem test_division : regOf (.div 3#5 1#5 0#5) core0 3#5 = -1#64 ∧ regOf (.remu 3#5 1#5 0#5) core0 3#5 = xget grp0 1#5 ∧
    regOf (.div 3#5 1#5 2#5) (setX 1#5 (2 ^ 63) (setX 2#5 (2 ^ 64 - 1) core0)) 3#5 = BitVec.ofNat 64 (2 ^ 63) ∧
    regOf (.rem 3#5 1#5 2#5) (setX 1#5 (2 ^ 63) (setX 2#5 (2 ^ 64 - 1) core0)) 3#5 = 0#64 := by decide +kernel
/-- x0 reads as 0 and keeps nothing (R164). -/
theorem test_x0 : regOf (.add 0#5 1#5 2#5) core0 0#5 = 0#64 ∧ regOf (.add 3#5 1#5 2#5) core0 3#5 = BitVec.ofNat 64 (24 + 3 * 2 ^ 40) := by decide +kernel
theorem test_immediates : regOf (.addi 5#5 0#5 0xFFFF#16) core0 5#5 = -1#64 ∧ regOf (.coreOri 5#5 0#5 0xFFFF#16) core0 5#5 = 0xFFFF#64 ∧
    regOf (.liu 5#5 0x8000#16) core0 5#5 = BitVec.ofNat 64 (2 ^ 64 - 2 ^ 47) := by decide +kernel
/-- FN 0x018 and CLZ with an xb: the words of CoreArithmetic's last clause. -/
theorem witness_alu_words : field 31 26 0x00000018#32 = 0 ∧ 0x18 ≤ field 10 0 0x00000018#32 ∧ field 31 26 0x00000816#32 = 0
    ∧ field 10 0 0x00000816#32 = 0x16 ∧ field 15 11 0x00000816#32 ≠ 0 := by decide +kernel
/-- EXT before ADDI, LIU, BNE, JALR, LD.64, ST.64, and before SLLI, which takes no prefix. -/
theorem witness_ext : ∀ p ∈ [(0x04A50001#32, Instr.addi 5#5 5#5 1#16), (0x28800000#32, .liu 4#5 0#16), (0x84A00002#32, .bne 5#5 0#5 2#16),
      (0xA0A50004#32, .jalr 5#5 5#5 4#16), (0x59040000#32, .ld64 8#5 4#5 0#3 0#13), (0x6D040000#32, .st64 8#5 4#5 0#3 0#13)],
    (fetchWord (wordAfter p.1) 0 (curGrp (wordAfter p.1)).asid ((curGrp (wordAfter p.1)).pc + 4#52).toNat == .ok p.1) = true
    ∧ acceptsExt (field 31 26 p.1) = true ∧ coreRow p.1 = some p.2 := by decide +kernel
theorem witness_ext_refused : (fetchWord (wordAfter 0x14840003#32) 0 0 ((curGrp core0).pc + 4#52).toNat == .ok 0x14840003#32) = true
    ∧ acceptsExt (field 31 26 0x14840003#32) = false := by decide +kernel
/-- `ext`/`ori` makes bits 31 to 0 of a constant (R173). -/
theorem test_ext_ori : regOf (.ext 0x1234#26) (wordAfter 0x0CA55678#32) 5#5 = xget grp0 5#5 ||| 0x12345678#64 := by decide +kernel
/-- The program of chapter 07: `bne x5, x0, -2` goes back two words. -/
theorem test_branch : (curGrp (after (exec (.bne 5#5 0#5 0xFFFE#16) core0) core0)).pc = 0xF8#52 ∧
    (curGrp (after (exec (.jal 0x3FFFFFF#26) core0) core0)).pc = 0xFC#52 ∧ regOf (.jal 1#26) core0 31#5 = 0x104#64 := by decide +kernel
/-- x0 as base: the page at 0 is cached with every permission, at byte, half, word and double width. -/
theorem witness_loads_and_stores : ∀ n ∈ [1, 2, 4, 8], ∀ need ∈ [1, 2, 3], translate core0 0 (curGrp core0).asid
    ((xget (curGrp core0) 0#5 + (0#13).signExtend 64).toNat % 2 ^ 52 / n * n) need = .hit 8192 := by decide +kernel
theorem test_loads : loadOf (.ldI8 5#5 0#5 0#3 0#13) core0 5#5 = BitVec.ofInt 64 (-120) ∧ loadOf (.ldN16 5#5 0#5 0#3 0#13) core0 5#5 = 0x9788#64 ∧
    loadOf (.ld64 5#5 0#5 0#3 3#13) core0 5#5 = 0xF1E2D3C4B5A69788#64 ∧ loadOf (.lda 5#5 0#5 0#3 0#1) core0 5#5 = 0xB5A69788#64 := by decide +kernel
/-- Two stores issued, the second over bytes the first does not touch; and a store read back. -/
def page0 (sc : Nat) : Via := ⟨sc, 0, 0, 4096, false⟩
def twoStores : State := modGrp core0 0 0 (fun g => { g with stores := [⟨8192, bytesOf 4 1, page0 3, false⟩, ⟨8196, bytesOf 2 2, page0 3, false⟩] })
theorem witness_store_performed : twoStores.memOk ∧ (getGrp twoStores 0 0).stores[1]? = some ⟨8196, bytesOf 2 2, page0 3, false⟩ ∧
    ∀ q ∈ (getGrp twoStores 0 0).stores.take 1, q.pa + q.bytes.length ≤ 8196 := by
  unfold State.memOk; decide +kernel
theorem test_store_performed : readPAn (after (exec (.coreAccessPerformed 0 0 1) twoStores) twoStores) 8192 8 = 0xF1E20002B5A69788 := by decide +kernel
theorem witness_load_waits : (curGrp (after (exec (.ld64 5#5 0#5 0#3 0#13) twoStores) core0)).st = .waiting (.load 5#5 8192 8 false 4 (page0 0) false) := by decide +kernel
theorem test_load_sees_store : loadOf (.ld64 5#5 0#5 0#3 0#13) twoStores 5#5 = 0xF1E2000200000001#64 := by decide +kernel
/-- An atomic of 32 bits returns the sign-extended old word (R176). -/
theorem test_atomic : regOf (.amoAdd 5#5 0#5 1#5 0#3 0#2 0#1) (setX 1#5 0x80000000 core0) 5#5 = BitVec.ofInt 64 (-0x4A596878) ∧
    readPAn (after (exec (.amoAdd 5#5 0#5 1#5 0#3 0#2 0#1) (setX 1#5 0x80000000 core0)) core0) 8192 8 = 0xF1E2D3C435A69788 := by decide +kernel
/-- A relaxed atomic follows the store to its word and not the other; with release order it follows both (R231, R232). -/
theorem test_atomic_order : (curGrp (after (exec (.amoAdd 5#5 0#5 1#5 0#3 0#2 0#1) twoStores) core0)).stores = [⟨8196, bytesOf 2 2, page0 3, false⟩] ∧
    regOf (.amoAdd 5#5 0#5 1#5 0#3 0#2 0#1) twoStores 5#5 = 1#64 ∧
    (curGrp (after (exec (.amoAdd 5#5 0#5 1#5 0#3 2#2 0#1) twoStores) core0)).stores = [] := by decide +kernel
/-- At 4,096 the cached page gives no permission; scope 5 is not assigned, scope 4 is. -/
theorem witness_access_fault : ∀ n ∈ [1, 2, 4, 8], ∀ need ∈ [1, 2], translate core0 0 0
    ((xget (curGrp (setX 1#5 4096 core0)) 1#5 + (0#13).signExtend 64).toNat % 2 ^ 52 / n * n) need = .fault 2 := by decide +kernel
theorem test_scopes : (curGrp (after (exec (.ld64 5#5 0#5 5#3 0#13) core0) core0)).cause = 0x904#64 ∧ loadOf (.ld64 5#5 0#5 4#3 0#13) core0 5#5 ≠ 0#64 := by
  decide +kernel
/-- A group with a stream that has not ended: FENCE with ENG waits. -/
def streamOf (ticket : Nat) : Stream := streamNew 0 (List.replicate 10 0#64) 0 ticket 0 none
def engineBusy : State :=
  let s := modPort (modCl twoStores 0 (fun c => { c with span := some 0 })) 0 0 (fun p => { p with q := [streamOf 4] })
  modGrp { s with spans := ⟨[(0, span0)]⟩ } 0 0 (fun g => { g with tickets := [4] })
theorem witness_fence : grpEngineBusy (releaseCur twoStores 3) 0 0 = false ∧ grpEngineBusy (releaseCur engineBusy 3) 0 0 = true := by decide +kernel
/-- A trap from user mode and the return from it (R196). -/
theorem test_trap : (curGrp (after (exec (.coreTrap 0#5 7#16) core0) core0)).pc = 0x2000#52 ∧
    (curGrp (after (exec (.coreTrap 0#5 7#16) core0) core0)).cause = 0x70010#64 ∧ (curGrp (after (exec (.coreTrap 0#5 7#16) core0) core0)).epc = 0x100#64 ∧
    (curGrp (after (exec .eret (after (exec (.coreTrap 0#5 7#16) core0) core0)) core0)).pc = 0x100#52 := by decide +kernel

/-! System instructions: cluster 0 leads a span of clusters 0 and 1, with the load above wired to streamer port 0 of cluster 0,
to generator 0 of tile 3 and to the island. -/

def ep (u : UnitRef) (ctl : Bool) : Endpoint := ⟨u, 0, ctl⟩
def load1 : Load :=
  { load0 with chans := ⟨load0.chans.entries ++
    [(6, chan 6 false (ep (.port 0 0) false) [branch (at' 2 2 false) []]),
     (7, chan 7 false (at' 1 2 false) [branch (ep (.gen 0 3 0) false) []]),
     (8, chan 8 false (ep (.gen 0 3 0) false) [branch (at' 2 3 false) []]),
     (9, chan 9 false (at' 1 3 false) [branch (ep (.island 0) false) []]),
     (10, chan 10 false (at' 0 2 false) [branch (ep (.port 0 1) false) []])]⟩ }
def span1 (ph : LoadPhase) : Span := { span0 with clusters := [0, 1], ticket := 9, load := some { load1 with phase := ph } }
def inSpan (x : Span) (s : State) : State :=
  { modCl (modCl s 0 (fun c => { c with span := some 0 })) 1 (fun c => { c with span := some 0 }) with spans := ⟨[(0, x)]⟩ }
def sys (ph : LoadPhase) : State := inSpan (span1 ph) core0
def noLoad : State := inSpan { span1 .ready with load := none } core0
/-- Bytes at an address of the cached page. -/
def poke (va : Nat) (bs : List Byte) (s : State) : State := { s with mem := memPutAll s.mem (8192 + va) bs }
def pokeWords (va : Nat) (ws : List Nat) (s : State) : State := poke va (ws.flatMap (bytesOf 8)) s

theorem witness_spans : spanAt (sys .running) 0 = some (0, span1 .running) ∧ (sys .running).cur.cl ∈ (span1 .running).clusters ∧
    spanAt (sys .running) 1 = some (0, span1 .running) ∧ curLoad noLoad = none ∧ curLoad core0 = none := by decide +kernel
/-- Registers 0x000 and 0xFFF are the ends: one is assigned, the other is not; 0x030 is SY.PEND. -/
theorem witness_sys_numbers : (sysValues core0).any (fun p => p.1 = 0 && p.2.1) = true ∧ (sysValues core0).any (fun p => p.1 = 0x31 && !p.2.1) = true ∧
    (sysValues core0).all (fun p => decide (p.1 ≠ 0xFFF)) = true ∧ sysGroupWrites.any (fun p => p.1 = 0x31) = true ∧
    sysCoreWrites.any (fun p => p.1 = 4) = true := by decide +kernel
/-- SY.MAXC keeps two bits, SY.TVEC clears its low two (R193). -/
theorem test_sys_writes : (getCl (after (exec (.syw 1#5 0x012#12) (setX 1#5 7 (mode1 core0))) core0) 0).core.maxc = 3 ∧
    (getCl (after (exec (.syw 1#5 0x004#12) (setX 1#5 7 (mode1 core0))) core0) 0).core.tvec = 4#64 := by decide +kernel
/-- SY.ERES of element 5 of cluster 0, which has a fault. -/
def faulted : State := setX 1#5 (5 * 4096) (modEl (mode1 (sys .running)) 0 5 (fun e => { e with fault := some ⟨5, 0, 0, 0⟩ }))
theorem witness_resume : spanAt faulted 0 ≠ none ∧ field 11 0 (xget (curGrp faulted) 1#5) = relCl faulted 0 ∧ field 63 27 (xget (curGrp faulted) 1#5) = 0 ∧
    (amGet (getCl faulted 0).elems (field 18 12 (xget (curGrp faulted) 1#5))).isSome = true ∧ (getEl faulted 0 5).fault ≠ none := by decide +kernel
theorem test_escalation : (getCl (after (exec (.syw 1#5 0x006#12) (setX 1#5 1 (mode1 core0))) core0) 0).core.esc = true ∧
    (getCl (after (exec (.syw 0#5 0x006#12) (mode1 core0)) core0) 0).core.esc = false := by decide +kernel
/-- Source 1 counts cycles of a cluster and of a die. -/
theorem witness_counters : sourceOk false 1 = true ∧ sourceOk true 1 = true ∧ (7#6).toNat < 8 ∧ 8 ≤ (8#6).toNat ∧ (39#6).toNat < 40 := by decide +kernel
/-- WFI: no event is pending; an event of the fabric is and is masked in. -/
def pending : State := modCl core0 0 (fun c => { c with core := { c.core with events := [⟨5, 0, 0, 0⟩], fgrp := 2 } })
theorem witness_wfi : pendOf (curCore core0) &&& (curGrp core0).pmsk.toNat = 0 ∧ (curCore core0).events = [] ∧
    pendOf (curCore (modGrp pending 0 0 (fun g => { g with pmsk := 1#64 }))) &&& 1 ≠ 0 ∧ (curCore pending).fgrp < 4 := by decide +kernel
theorem witness_wfi_event : (curCore (modCore pending 0 (fun c => { c with fgrp := 0 }))).fgrp = 0 ∧ bitAt 0 (curGrp pending).status = false := by decide +kernel
theorem witness_prio_word : field 31 26 0xD8600003#32 = 0x36 ∧ field 20 16 0xD8600003#32 = 0 ∧ field 15 2 0xD8600003#32 = 0 ∧ field 15 2 0xD8600004#32 ≠ 0 := by
  decide +kernel
/-- Barrier 3 of groups 0 and 1: group 1 waits at it; and a barrier of group 0 alone. -/
def barrier1 : State := modCore (modGrp core0 0 1 (fun g => { g with st := .waiting (.barrier false 3) })) 0 (fun c => { c with bars := [(3, 2)] })
theorem witness_group_barrier : bitAt 0 3#4 = true ∧ (∀ p ∈ (curCore barrier1).bars, p.1 = 3 → p.2 ≠ p.1 ∧ p.2 ||| 2 ^ 0 = p.1) ∧
    (curCore core0).bars = [] ∧ (1#4).toNat = 2 ^ core0.cur.grp ∧ bitAt 0 2#4 = false := by decide +kernel
theorem test_group_barrier : (getGrp (after (exec (.barrierComplete 0 3 false) (after (exec (.barG 3#4) barrier1) barrier1)) barrier1) 0 1).pc = 4#52 := by
  decide +kernel
/-- Cluster barrier 5 with a count of 2, at which cluster 1 has arrived; and one at which none has. -/
def barrier2 : State := setX 1#5 2 (inSpan { span1 .running with bars := ⟨[(5, ⟨2, [1]⟩)]⟩ } core0)
theorem witness_cluster_barrier : (xget (curGrp barrier2) 1#5).toNat = 2 ∧ ((spanAt barrier2 0).bind (fun p => amGet p.2.bars 5)) = some ⟨2, [1]⟩ ∧
    ((spanAt barrier2 0).bind (fun p => amGet p.2.bars 6)) = none ∧ (⟨1, []⟩ : Bar).arrived.length < (⟨1, []⟩ : Bar).count := by decide +kernel
/-- An image of one element without slots, at 0x400. -/
def imageWords : List Nat := [0x31474643, 1, 0, 0, 0, 64 + 64 * 2 ^ 32, 0, 0]
def bare : Span := { span1 .ready with clusters := [0], load := none, lids := 0 }
def withImage (ws : List Nat) : State := setX 1#5 0x400 (pokeWords 0x400 ws (inSpan bare core0))
def tryLoad (ws : List Nat) : Ld State :=
  let s := releaseCur (modCore (withImage ws) 0 (fun c => { c with cfgq := [] })) 3
  loadImage s 0 bare 0 (curGrp s).asid 0x400 0
theorem witness_configure : spanAt (withImage imageWords) 0 = some (0, bare) ∧ (curCore (withImage imageWords)).cfgq = [] ∧
    (match (tryLoad imageWords).res with
      | .ok u => (getLoad u 0).isSome
      | _ => false) = true ∧
    (match (tryLoad [0]).res with
      | .reject c v => decide (c = 14 ∧ v = 0x400)
      | _ => false) = true := by decide +kernel
theorem test_configure : regOf (.cfg 5#5 1#5) (withImage imageWords) 5#5 = 1#64 ∧
    (curGrp (after (exec (.cfg 5#5 1#5) (withImage [0])) core0)).cause = 0xE03#64 := by decide +kernel
/-- Operators: 0 at rest, 1 being rewired. -/
def opState (r : Nat) : OpState :=
  { cls := 0, rated := false, blk := 1, kl := 0, foot := [16, 8, 4, 4, 4, 4], comb := 0, rm := 0, ident := 0#32, keySize := 0, keyBase := 0,
    keyTile := 0, keyCl := 0, elems := [(0, 0, 0)], home := (0, 0), pinned := false, rewire := r, partner := 0, target := none, cloneRun := 0,
    loRun := 0, unRun := 0, dealt := [], firsts := [], nexts := [], sqs := [], reorderCap := [64, 64, 64, 64], areas := [], carry := [], lastOut := [], released := 0, loopPort := none,
    loopOut := 0, loopLn := [], loopFmt := [], loopCount := [] }
def dynLoad (rs : List Nat) : Load := { load1 with phase := .running, caldera := true, layv := 3, ltb := 0x4000, ops := listMap (rs.map opState) }
def dyn (rs : List Nat) : State := inSpan { span1 .running with load := some (dynLoad rs) } core0
theorem witness_layout : (dynLoad [0, 1]).caldera = true ∧ amGet (dynLoad [0, 1]).ops 0 = some (opState 0) ∧ amGet (dynLoad [0, 1]).ops 1 = some (opState 1) ∧
    (amVals (dynLoad [0]).ops).all (fun o => decide (o.rewire = 0)) = true ∧ (xget (curGrp (setX 1#5 (2 ^ 64 - 1) core0)) 1#5).toNat = 2 ^ 64 - 1 ∧
    (xget (curGrp (setX 1#5 1 core0)) 1#5).toNat = 1 := by decide +kernel
/-- RATE: cluster 1 is the last of the span, cluster 2 is none; with SY.RCAP = 50, 60 grants 50. -/
theorem witness_rate : (span1 .running).clusters[1]? = some 1 ∧ (span1 .running).clusters.length ≤ 2 := by decide +kernel
theorem test_rate : regOf (.rate 5#5 1#5 2#5) (setX 1#5 1 (setX 2#5 60 (modCore (sys .running) 0 (fun c => { c with rcap := 50#64 })))) 5#5 = 50#64 := by
  decide +kernel
/-- A launch record at 0x200: ENTRY 0x1000, PARAM 5, class 2, one cluster, USER 7. -/
def launching : State := setX 1#5 0x200 (pokeWords 0x200 [0x1000, 5, 0x200, 7] (sys .running))
def entryOf (st : Nat) : PoolEntry :=
  { handle := 4, detached := false, record := ⟨0x1000, 5#64, 1, 0, 0, 0, 7#64⟩, asid := 0, st := st, status := 77#64, since := none, order := 0, launcher := none }
/-- What the executing group reads in words from a virtual address: the bytes of `Reads`. -/
def readsOf (s : State) (n va : Nat) : Option (List Byte) := match vaWords s s.cur.cl (curGrp s).asid 1 n va with
  | .ok pas => some (wordsRead (touchRead s s.cur.cl pas) pas)
  | _ => none
def withPool (st : Nat) : State := setX 1#5 4 (modPart (sys .running) 0 (fun p => { p with pool := [entryOf st] }))
theorem witness_launch : (xget (curGrp launching) 1#5).toNat % 2 ^ 52 % 32 = 0 ∧
    (readsOf (releaseCur launching 3) 8 0x200).any recOk = true ∧ (getPart launching (partOfCl launching 0)).spill = [] ∧ (getPart launching 0).pool.length < 240 ∧
    (getPart (withPool 2) 0).pool = [entryOf 2] ∧ (xget (curGrp (withPool 2)) 1#5).toNat = 4 ∧ (entryOf 1).st ≠ 2 := by decide +kernel
theorem test_waitg : regOf (.waitg 5#5 1#5) (withPool 2) 5#5 = 77#64 ∧ (curGrp (after (exec (.waitg 5#5 1#5) (withPool 1)) core0)).st = .waiting (.waitg 4) := by
  decide +kernel
/-- An exit is ready with no load of the group, and not while a load that it configured runs. -/
theorem witness_exit : exitReady noLoad 0 0 = true ∧ exitReady (sys .running) 0 0 = false := by decide +kernel
/-- A feed stream of 8 words at 0x240; a fill of 64 bytes from 0x80 to tile 3 of cluster 1; a pattern at 0x300; eight streams. -/
def feedWords : List Nat := [0x80, 8, 0, 0, 0, 0, 0, 0, 0, 0]
def fillWords : List Nat := [0x80, 64 + 3 * 2 ^ 36, 1, 0]
def engines : State :=
  poke 0x300 (bytesOf 4 1 ++ bytesOf 12 0 ++ bytesOf 4 0x70000000) (pokeWords 0x280 fillWords (pokeWords 0x200 feedWords (setX 1#5 0x200 (setX 2#5 0 (sys .running)))))
theorem witness_streams :
    (readsOf (releaseCur engines 1) 20 0x200).any (fun bs =>
      decide (startCheck (releaseCur engines 1) { load1 with phase := .running } 0 0 0 0 (words64 bs 10) = .ok none)) = true ∧ (hasIn load1 (portEnd 0 0) || hasOut load1 (portEnd 0 0)) = true ∧ (getPort engines 0 0).q.length < 8 ∧
    8 ≤ (getPort (modPort engines 0 0 (fun p => { p with q := List.replicate 8 (streamOf 1) })) 0 0).q.length := by decide +kernel
/-- The control block that the stream runs is the one the group has just stored: 4 words, not 8 (R175, R181). -/
theorem test_stream_sees_store : (getPort (after (exec (.strm 1#5 2#5) (modGrp engines 0 0 (fun g => { g with stores := [⟨0x2208, bytesOf 8 4, page0 3, false⟩] }))) engines) 0 0).q.map
    (fun q => q.words.getD 1 0#64) = [4#64] := by decide +kernel
theorem witness_fill : (readsOf (releaseCur engines 1) 8 0x280).any (fun bs => mcOk (words64 bs 4) 0x280 1 (span1 .running)) = true := by decide +kernel
theorem witness_pattern : (match (readBinding (releaseCur engines 1) 0 (curGrp engines).asid 0x300).res with
      | .ok _ => true
      | _ => false) = true := by decide +kernel
/-- A collective of group 2: 64 bytes of F32 sums from 0x1000 to 0x2000, at 0x340. -/
def collWords : List Nat := [0x1000, 0x2000, 0x3000, 64 + 2 * 2 ^ 48, 0, 0, 0, 0]
def cgroup2 : CGroup := { cgroupReset with en := true, rank := 0, gm1 := 1, rdy := true, known := [0, 1] }
def coll0 (ended : Bool) : Coll := { descColl [] cgroup2 0 0 0 0 0 0 0#64 with ended := ended, word5 := 9#64 }
def collecting : State :=
  modHub (setX 1#5 0x340 (pokeWords 0x340 collWords (sys .running))) (fun h => { h with groups := ⟨[(2, cgroup2)]⟩, colls := ⟨[(0x340, coll0 true)]⟩ })
theorem witness_collective :
    (readsOf (releaseCur collecting 4) 16 0x340).any (fun bs =>
      descriptorOk (words64 bs 8) && (groupOf collecting.hub (field 51 48 ((words64 bs 8).getD 3 0#64))).rdy) = true ∧ getColl collecting 0x340 = some (coll0 true) ∧ (coll0 true).part = partOfCl collecting 0 ∧ (coll0 false).ended = false ∧
    getColl collecting 0x341 = none := by decide +kernel
/-- INVR of ASID 5, which the partition owns. -/
def invalidating : State := setX 3#5 5 (setX 1#5 0x1000 (setX 2#5 0x1000 (modPart (mode1 (sys .running)) 0 (fun p => { p with asid := 0x100000#64 }))))
theorem witness_invalidate : asidOwned (getPart invalidating (partOfCl invalidating 0)) ((xget (curGrp invalidating) 3#5).toNat % 65536) = true ∧
    (xget (curGrp invalidating) 1#5).toNat + (xget (curGrp invalidating) 2#5).toNat ≤ 2 ^ 52 ∧ xget (curGrp invalidating) 0#5 = 0#64 := by decide +kernel

/-! Patterns: context 3 of cluster 0 runs a stream; g1 is a band clipped to 4 by 4 at (2, 5), g2 a band of one diagonal that is not
clipped, g3 the first diagonal of 2 by 2. -/

def g1 : PatReg := ⟨.clip (.band 1 1 3) 2 5 4 4, some ⟨2, 5, 4, 4⟩⟩
def g2 : PatReg := ⟨.band 2 1 (-1), none⟩
def g3 : PatReg := ⟨.clip (.band 0 0 0) 0 0 2 2, some ⟨0, 0, 2, 2⟩⟩
def ctx0 : GenCtx :=
  { genCtxReset with
    g := vec8Of (fun i => [patRegReset, g1, g2, g3].getD i patRegReset) 0
    run := some ⟨0x300, [0x70000000#32], [5#32], true⟩, ip := 7, rb := 40#32 }
def pat (f : GenCtx → GenCtx) : State := { modCtx core0 0 3 (fun _ => f ctx0) with cur := { core0.cur with ctx := 3 } }
def memsOf (i : Instr) (g : Nat) : List (Int × Int) :=
  let t := after (exec i (pat id)) core0
  ((List.range 64).map (fun k => ((k / 8 : Nat), (k % 8 : Nat)))).filterMap (fun q =>
    let p : Int × Int := ((q.1 : Int) - 1, (q.2 : Int) - 1)
    if patMem (vec8Get (curCtx t).g g).set p.1 p.2 then some p else none)
def lastOf (i : Instr) (s : State) : List W32 := ((curCtx (after (exec i s) s)).last.map (fun k => (List.range 8).map (laneOf k))).getD []

theorem witness_patterns : (pat id).cur.ctx < 8 ∧ (curCtx (pat id)).run = some ⟨0x300, [0x70000000#32], [5#32], true⟩ ∧
    (gReg (curCtx (pat id)) 2#3).set = .band 2 1 (-1) ∧ extentOf (pat id) 1#3 = some ⟨2, 5, 4, 4⟩ ∧ extentOf (pat id) 2#3 = none ∧
    extentOf (pat id) 3#3 = some ⟨0, 0, 2, 2⟩ ∧ pvalOf (pat id) 0 ctx0 = false := by decide +kernel
theorem witness_rank_place : Inside ⟨2, 5, 4, 4⟩ 2 5 ∧ Inside ⟨2, 5, 4, 4⟩ 5 8 := by unfold Inside; decide +kernel
/-- R208: the band with diagonals −3 to 0 spread by 2 about −1 has the diagonals −5, −3, −1 and 1. -/
theorem test_dilation : (memsOf (.dil 2#3 1#12) 2).all (fun p => decide (p.2 - p.1 = -5 ∨ p.2 - p.1 = -3 ∨ p.2 - p.1 = -1 ∨ p.2 - p.1 = 1)) = true ∧
    (-1, 0) ∈ memsOf (.dil 2#3 1#12) 2 ∧ (4, -1) ∈ memsOf (.dil 2#3 1#12) 2 := by decide +kernel
/-- R211: KRON of the diagonal of 2 by 2 with itself is the diagonal of 4 by 4. -/
theorem test_kron : memsOf (.kron 4#3 3#3 3#3) 4 = [(0, 0), (1, 1), (2, 2), (3, 3)] := by decide +kernel
theorem test_clip_and_swap : memsOf (.clip 2#3 0#12 1#12) 2 = [(0, 0)] ∧ memsOf (.patSwap 3#3) 3 = [(0, 0), (1, 1)] ∧
    memsOf (.offs 3#3 1#12 0xFFF#12) 3 = [(1, -1), (2, 0)] := by decide +kernel
/-- R213: the rows of g1 hold 2, 3, 3 and 2 members; the second line's coordinates come with ranks from RB + 2. -/
theorem test_count_and_ranks : (lastOf (.brambleCnt 1#3) (pat id)).head? = some 10#32 ∧
    lastOf (.emit 1#3) (pat (fun c => { c with cur := some (3, 5) })) = [0x00030005#32, 42#32, 0x00030006#32, 43#32, 0x00030007#32, 44#32, 0#32, 0#32] ∧
    (curCtx (after (exec (.emit 1#3) (pat (fun c => { c with cur := some (5, 5) }))) core0)).rb = 50#32 := by decide +kernel
/-- R214: LOOP of N = 1 goes back B words while its count is less than N − 1 = 1 … and moves on at it. -/
theorem test_loop : (curCtx (after (exec (.patLoop 0#2 1#12 2#10) (pat id)) core0)).ip = 5 ∧
    (curCtx (after (exec (.patLoop 0#2 1#12 2#10) (pat (fun c => { c with l := vec4Set c.l 0 1 }))) core0)).ip = 8 := by decide +kernel
theorem test_end : ((curCtx (after (exec .patEnd (pat id)) core0)).out.map (fun k => (hdrLS k.hdr, hdrBUB k.hdr))) = [(true, true)] := by decide +kernel

/-! The fabric's own moves, on the load of cluster 0 at cycle 100. -/

def busy : State := { sys .running with cycles := vec16Fill 100 }
def lanes8 (ws : List Nat) (hdr : W32) : Token := ⟨lanesOf (fun i => ws.getD i 0), hdr⟩
/-- A request token (R156): lanes 0 to 3, and lane 7. -/
def reqTok (a b c d e : Nat) : Token := lanes8 [a, b, c, d, 0, 0, 0, e] hdr8
def atHead (ch : Nat) (ks : List Token) (s : State) : State :=
  modChan s 0 ch (fun c => { c with branches := c.branches.map (fun b => { b with buf := ks.map (fun k => ⟨k, 50⟩) }) })
def outOf (s : State) (ch : Nat) : List Token := ((getChan s 0 ch).map (fun c => c.out.map (·.tok))).getD []
def bufOf (s : State) (ch : Nat) : List Token := ((branchIn s 0 ch 0).map (fun b => b.buf.map (·.tok))).getD []
def run (i : Instr) (s : State) : State := after (exec i s) s
def same (a b : Token) : Bool := decide (vec8List a.lanes = vec8List b.lanes)

theorem witness_sites : unitSite busy 0 = some (0, span1 .running, { load1 with phase := .running }, 0) ∧ getSpan busy 0 = some (span1 .running) ∧
    spanActive (span1 .running) = true ∧ loadActive { load1 with phase := .running } = true ∧ spanNow busy 0 = 100 := by decide +kernel
/-- Channel 2 with two tokens to release; channel 2 with two tokens that have travelled, and its replay window. -/
def sending : State := modChan busy 0 2 (fun c => { c with out := [⟨tok 5 hdr8, 99⟩, ⟨tok 6 hdr8, 99⟩] })
def travelling (ord : Bool) : State := modChan busy 0 2 (fun c => { c with ord := ord, branches := c.branches.map (fun b =>
  { b with flight := [⟨tok 5 hdr8, 98⟩, ⟨tok 6 hdr8, 99⟩], replay := [tok 4 hdr8, tok 5 hdr8, tok 6 hdr8] }) })
def blocked : State := atHead 2 (List.replicate 32 (tok 1 hdr8)) sending
theorem witness_release : (getChan sending 0 2).any (fun c => decide (c.relAt ≤ 100) && c.branches.all (branchRoom sending (span1 .running))) = true ∧
    (getChan (blocked) 0 2).any (fun c => c.branches.all (branchRoom blocked (span1 .running))) = false := by decide +kernel
theorem test_release : outOf (run (.tokenRelease 0 2) sending) 2 = [tok 6 hdr8] ∧
    (branchIn (run (.tokenRelease 0 2) sending) 0 2 0).map (·.flight) = some [⟨tok 5 hdr8, 100⟩] := by decide +kernel
theorem witness_arrival : ∀ o ∈ [true, false], (branchIn (travelling o) 0 2 0).any (fun b => decide (b.failed = none ∧ b.cmp = none ∧ b.queue = none ∧
    b.relief = [] ∧ b.dst.unit = .element 0 2 ∧ b.buf.length < bufCap (travelling o) (span1 .running) b ∧ 98 + b.lat ≤ 100)) = true := by decide +kernel
theorem test_arrival : bufOf (run (.tokenArrival 0 2 0 false) (travelling true)) 2 = [tok 5 hdr8] ∧
    bufOf (run (.tokenArrival 0 2 0 true) (travelling false)) 2 = [withET (tok 5 hdr8) true] ∧
    (branchIn (run (.tokenArrival 0 2 0 true) (travelling true)) 0 2 0).map (fun b => b.flight.map (·.tok)) = some [tok 5 hdr8, tok 6 hdr8] := by
  decide +kernel

/-! Queued firings: a load, a store and an addition at 8192; full/empty reads of tile 3, granules 2 (full) and 5. -/

def acc2 (sp : Bool) (a : Nat) : LaneAcc := ⟨2, sp, a, 7#32, 0#32, page0 3⟩
def entry (op : MemOp) (sp : Bool) (a : Nat) (done : Bool) (rs : List (Nat × W32)) : RqEntry :=
  { held := false, slotNo := 0, share := 0, op := op, dest := 16, vl := 8, lg := 1, trunc := false, mz := true, fill := [], hdrs := [hdr8], sqs := false,
    tagged := false, cmpl := none, accs := if done then [] else [acc2 sp a], pkts := [], done := done, results := rs, swapped := [], sink := false, poison := false }
def queued (e : RqEntry) : State := modTile (modEl busy 0 0 (fun x => { x with rq := [e] })) 0 3 (fun t => setFull (tilePutWord t 32 9#32) 2 true)
theorem witness_memory_answer : (queued (entry .store false 8192 false [])).memOk ∧ paBad busy 8192 4 = false ∧
    granFree (getEl (queued (entry .store false 8192 false [])) 0 0).rq 0 (accGran (acc2 false 8192)) = true := by
  unfold State.memOk; decide +kernel
theorem test_memory_answer : ((getEl (run (.memoryAnswer 0 0 0 2) (queued (entry .load false 8192 false []))) 0 0).rq.map (fun e => (e.done, e.results, e.pkts)))
      = [(false, [(2, 0xB5A69788#32)], [⟨2, 0, false⟩])] ∧
    readPAn (run (.memoryAnswer 0 0 0 2) (queued (entry .amoAdd false 8192 false []))) 8192 8 = 0xF1E2D3C4B5A6978F ∧
    readPAn (run (.memoryAnswer 0 0 0 2) (queued (entry .amoSwap false 8192 false []))) 8192 8 = 0xF1E2D3C400000007 := by decide +kernel
theorem witness_fe : ∀ o ∈ [MemOp.loadFe, .loadFeClr], ∀ a ∈ [3 * 65536 + 32, 3 * 65536 + 80],
    granFree (getEl (queued (entry o true a false [])) 0 0).rq 0 (accGran (acc2 true a)) = true ∧
    granBad (getTile busy 0 (a / 65536)) (a % 65536 / 16) = false := by decide +kernel
theorem test_fe : granFull (getTile (run (.feWaitEnd 0 0 0) (queued (entry .loadFeClr true (3 * 65536 + 32) false []))) 0 3) 2 = false ∧
    ((getEl (run (.feWaitEnd 0 0 0) (queued (entry .loadFe true (3 * 65536 + 32) false []))) 0 0).rq.map (·.results)) = [[(2, 9#32)]] ∧
    (getEl (run (.feWaitEnd 0 0 0) (queued (entry .loadFe true (3 * 65536 + 80) false []))) 0 0).rq.map (·.done) = [false] := by decide +kernel
/-- An answer under way, one that the port holds, and a port whose share of 16 is full: the answer is turned away and counted. -/
def packeted (inBuf : Bool) : RqEntry := { entry .load false 8192 true [(2, 77#32)] with done := false, pkts := [⟨2, 5, inBuf⟩] }
def crowded : State :=
  modEl (modCl (queued (packeted false)) 0 (fun c => { c with counters := vec8Set c.counters 1 ⟨0x4002, 6#64, none, none⟩ })) 0 1
    (fun x => { x with rq := [{ packeted true with pkts := List.replicate 16 ⟨2, 3, true⟩ }] })
theorem witness_packets : portHolds (queued (packeted false)) 0 < 16 ∧ olderInFlight (queued (packeted false)) 5 = false ∧ 16 ≤ portHolds crowded 0 := by
  decide +kernel
theorem test_packets : ((getEl (run (.memoryAnswer 0 0 0 2) (queued (packeted false))) 0 0).rq.map (·.pkts)) = [[⟨2, 5, true⟩]] ∧
    ((getEl (run (.memoryAnswer 0 0 0 2) (queued (packeted true))) 0 0).rq.map (fun e => (e.done, e.pkts))) = [(true, [])] ∧
    ((getEl (run (.memoryAnswer 0 0 0 2) crowded) 0 0).rq.map (·.pkts)) = [[⟨2, 5, false⟩]] ∧
    (vec8Get (getCl (run (.memoryAnswer 0 0 0 2) crowded) 0).counters 1).val = 7#64 := by decide +kernel
def answered : State := queued (entry .load false 8192 true [(2, 77#32)])
theorem witness_answer_leaves : leaveRoom answered (span1 .running) 0 (relOf (span1 .running) 0) 0 (entry .load false 8192 true [(2, 77#32)]) = true ∧
    destOf (BitVec.ofNat 5 16) = .o 0 := by decide +kernel
theorem test_answer_leaves : (outOf (run (.responseQueueLeave 0 0) answered) 2).map (fun k => (laneOf k 1, laneOf k 2)) = [(0#32, 77#32)] := by decide +kernel

/-! The end of a load, the watchdog, windows, rewirings. -/

def emptied (l : Load) : Load := { l with chans := amMap l.chans (fun _ c => { c with branches := c.branches.map (fun b => { b with buf := [] }) }) }
def draining : State := modLoad { sys .draining with cycles := vec16Fill 100 } 0 emptied
theorem witness_load_end : (getLoad draining 0).any (loadIdle draining { span1 .draining with load := some (emptied { load1 with phase := .draining }) }) = true ∧
    loadIdle (sending) (span1 .draining) { load1 with phase := .draining } = true ∧ (2 : Nat) + 50 < spanNow busy 0 := by decide +kernel
theorem test_load_end : (getLoad (run (.loadComplete 0) draining) 0).map (fun l => decide (l.phase = .complete)) = some true ∧
    (pendOf (getCl (run (.loadComplete 0) draining) 0).core).testBit 4 = true := by decide +kernel
theorem test_watchdog : ((getCl (run (.watchdog 0) (modCore busy 0 (fun c => { c with wdog := 50#64 }))) 0).core.events.map (·.cls)) = [0x0B] ∧
    (getCl (run (.watchdog 0) (modCore busy 0 (fun c => { c with wdog := 100#64 }))) 0).core.events = [] := by decide +kernel
def windows : State := modChan { busy with cycles := vec16Fill 10000000 } 0 0 (fun c => { c with count := 9#32, branches := c.branches.map (fun b => { b with popped := 3 }) })
theorem witness_window : (getLoad windows 0).any (fun l => decide (l.winCycle + winLen l ≤ spanNow windows 0)) = true ∧
    (getLoad windows 0).all (fun l => decide (l.winCycle + winLen l = 0)) = false := by decide +kernel
theorem test_window : (getChan (run (.windowEnd 0) windows) 0 0).map (fun c => (c.winStart, c.branches.map (·.popped))) = some (9#32, [0]) := by decide +kernel
def rewiring : State := { dyn [0, 3] with cycles := vec16Fill 100 }
theorem witness_rewiring : (getLoad rewiring 0).any (fun l => (amGet l.ops 1).any (fun o => decide (o.rewire ≠ 0) &&
    rewireReady rewiring 0 { span1 .running with load := some l } l 1 o)) = true := by decide +kernel
/-- The table is written with UPD set, which the next cycle clears, and LAYV rises (R249). -/
theorem test_rewiring : (getLoad (run (.rewiringComplete 0 1) rewiring) 0).map (fun l => (l.layv, l.upd)) = some (3, 1) ∧
    (getLoad (finishTable (run (.rewiringComplete 0 1) rewiring) 0) 0).map (fun l => (l.layv, l.upd)) = some (4, 0) := by decide +kernel

/-! The island: an MMA of 1 by 1 by 2 in BF16 from tile 3, and SETREG of MXSC. -/

def mmaTok (m : Nat) : Token := lanes8 [3 * 65536, 3 * 65536 + 16, 0, 2 * 2 ^ 29 + 2 * 2 ^ 26 + 2 * 4096, 4 * 65536, 0, m, 2 ^ 28] hdr8
def setTok (n : Nat) : Token := reqTok 0x300000 0 n 0 (2 ^ 28 + 2 ^ 24)
def islandHas (ks : List Token) : State := atHead 9 ks busy
theorem witness_island_asks : islandAsks (islandHas [mmaTok 0]) 0 0 { load1 with phase := .running } 0 0 = none ∧
    (getLoad (islandHas [mmaTok 0]) 0).bind (fun l => islandAsks (islandHas [mmaTok 0]) 0 0 l 0 0) = some (mmaTok 0) ∧
    (∀ n ∈ [0, 5], (getLoad (islandHas [setTok n]) 0).bind (fun l => islandAsks (islandHas [setTok n]) 0 0 l 0 1) = some (setTok n)) ∧
    (chargeLimiter (islandHas [mmaTok 0]) 0 0 islandPort 1).1 = true ∧ (getIsland busy 0).ops = [] ∧ islandStopped (getIsland busy 0) = false := by decide +kernel
theorem test_island_asks : ((getIsland (run (.mma 0) (islandHas [mmaTok 0])) 0).ops.map (·.phase)) = [0] ∧ bufOf (run (.mma 0) (islandHas [mmaTok 0])) 9 = [] ∧
    vec2Get (getIsland (run (.setreg 0) (islandHas [setTok 1])) 0).scb 1 = 0x300000#64 := by decide +kernel
/-- An operation with ACC = 0 or 1, DRN = 1, at some phase; its A row holds 1.0 and 2.0, its B column 3.0 and 4.0. -/
def islandOp (acc ph row : Nat) (chk full : Bool) : IslandOp :=
  { tok := mmaTok (64 + 32 * acc), phase := ph, num := 1, checked := chk, scb := ⟨0#64, 0#64⟩, va := ⟨0#64, 0#64⟩, mxsc := 0#64, rot := 0, aScale := [], bScale := [],
    aBytes := if full then [bytesOf 16 0x40003F80] else [], bBytes := if full then [bytesOf 16 0x40804040] else [], row := row }
def working (o : IslandOp) : State := modIsland busy 0 (fun i => { i with ops := [o], acc := ⟨[(0, 0x3F800000#32), (65, 0x40000000#32)]⟩ })
theorem witness_island : scalesDone (islandOp 0 0 0 false false) false = true ∧ scalesDone (islandOp 0 0 0 false false) true = true ∧
    bytesDone (islandOp 0 0 0 false false) false = false ∧ mmaFEA (mmaTok 96) = false ∧ staged (islandOp 0 0 0 false true) = true ∧
    staged (islandOp 0 0 0 true true) = true ∧ mmaM (mmaTok 96) = 1 ∧ mmaN (mmaTok 96) = 1 ∧ mmaDRN (mmaTok 96) = true ∧ mmaCPL (mmaTok 96) = false ∧
    mmaACC (mmaTok 96) = true ∧ mmaACC (mmaTok 64) = false := by decide +kernel
/-- 1·3 + 2·4 = 11, and 12 on top of 1.0 (R63, R304). -/
theorem test_array : (∀ p ∈ [(0, 0x41300000#32, 0#32), (1, 0x41400000#32, 0x40000000#32)],
    amGetD (getIsland (run (.islandArray 0 0) (working (islandOp p.1 0 0 false true))) 0).acc 0 0#32 = p.2.1 ∧
    amGetD (getIsland (run (.islandArray 0 0) (working (islandOp p.1 0 0 false true))) 0).acc 65 0#32 = p.2.2) ∧
    ((getIsland (run (.islandArray 0 1) (working (islandOp 0 0 0 true true))) 0).fault.map (·.cls)) = some 8 := by decide +kernel
theorem test_stage_and_drain : ((getIsland (run (.islandStage 0) (working (islandOp 0 0 0 false false))) 0).ops.map (fun o => o.aBytes.length)) = [1] ∧
    tileWord (getTile (run (.islandDrain 0) (working (islandOp 0 2 0 false true))) 0 4) 0 = 0x3F800000#32 ∧
    granFull (getTile (run (.islandDrain 0) (working (islandOp 0 2 0 false true))) 0 4) 0 = true ∧
    (getIsland (run (.islandDrain 0) (working (islandOp 0 2 1 false true))) 0).ops = [] := by decide +kernel

/-! Generator 0 of tile 3: operand store of 16 granules from granule 8, one buffer. -/

def storeDesc : Nat := 2 * 2 ^ 62 + 15 * 2 ^ 12 + 8
def genHas (ks : List Token) (j : Option Job) : State :=
  modGen (atHead 7 ks busy) 0 3 0 (fun g => { g with desc := BitVec.ofNat 64 storeDesc, job := j })
def genReq (p : Nat) : Token := if p = 3 ∨ p = 5 then reqTok 0x40 0 0x80 32 (3 * 2 ^ 28 + p * 2 ^ 24 + 1) else reqTok 0 0 4 9 (3 * 2 ^ 28 + p * 2 ^ 24)
def putReq : Token := reqTok 0x40 0 0x80 32 (3 * 2 ^ 28 + 5 * 2 ^ 24)
def setupTok : Token := reqTok (storeDesc % 2 ^ 32) (storeDesc / 2 ^ 32) 0 0 (3 * 2 ^ 28)
def armTok : Token := reqTok 4 0 0 0 (3 * 2 ^ 28 + 4 * 2 ^ 24 + 15)
def asked (s : State) (p : Nat) : Option Token := (getLoad s 0).bind (fun l => genAsks s 0 l 0 0 3 0 p)
theorem witness_generator : asked (genHas [setupTok] none) 0 = some setupTok ∧ asked (genHas [armTok] none) 4 = some armTok ∧
    (∀ p ∈ [1, 2, 3], asked (genHas [genReq p] none) p = some (genReq p)) ∧ asked (genHas [putReq] none) 5 = some putReq := by decide +kernel
theorem test_setup_and_arm : (getGen (run (.agSetup 0 3 0) (genHas [setupTok] none)) 0 3 0).desc = BitVec.ofNat 64 storeDesc ∧
    amGet (getTile (run (.agArm 0 3 0) (genHas [armTok] none)) 0 3).armed 15 = some (4, 0) ∧
    amGetD (getTile (run (.agArm 0 3 0) (modTile (genHas [armTok] none) 0 3 (fun t => { t with tags := amPut t.tags 15 6 }))) 0 3).tags 15 0 = 2 := by decide +kernel
theorem witness_generator_work : (∀ k ∈ [0, 1], genRoom (genHas [] (some ⟨genReq 1, 8 * k, []⟩)) (span1 .running) load1 0 3 0 = true) ∧
    (getLoad (genHas [tok 60 hdr8] (some ⟨genReq 2, 8, []⟩)) 0).bind (fun l => genData (genHas [tok 60 hdr8] (some ⟨genReq 2, 8, []⟩)) 0 l 0 0 3 0) = some (tok 60 hdr8) ∧
    (∀ n ∈ [1, 2], (match engWords busy 0 0 n none (wordsFrom 0x40 4) with
      | .ok l => decide (l = [8256, 8260, 8264, 8268])
      | _ => false) = true) := by decide +kernel
/-- A READ of nine words from offset 4: eight lanes, then one; a WRITE's last lane; one granule of FETCH and PUT. -/
def filled (s : State) : State := modTile s 0 3 (fun t => (List.range 16).foldl (fun t i => tilePutWord t (128 + 4 * i) (BitVec.ofNat 32 (70 + i))) t)
theorem test_generator_work : (outOf (run (.agRead 0 3 0) (filled (genHas [] (some ⟨genReq 1, 0, []⟩)))) 8).map (fun k => (laneOf k 0, laneOf k 7)) = [(71#32, 78#32)] ∧
    (outOf (run (.agRead 0 3 0) (filled (genHas [] (some ⟨genReq 1, 8, []⟩)))) 8).map (fun k => (laneOf k 0, laneOf k 1, hdrLR k.hdr)) = [(79#32, 0#32, true)] ∧
    tileWord (getTile (run (.agWrite 0 3 0) (genHas [tok 60 hdr8] (some ⟨genReq 2, 8, []⟩))) 0 3) 164 = 60#32 ∧
    tileWord (getTile (run (.agFetch 0 3 0) (poke 0x40 (bytesOf 4 0xABCDEF01) (genHas [] (some ⟨genReq 3, 0, []⟩)))) 0 3) 128 = 0xABCDEF01#32 ∧
    readPAn (run (.agPut 0 3 0) (filled (genHas [] (some ⟨putReq, 0, []⟩)))) 8256 4 = 70 := by decide +kernel

/-! Port 0 of cluster 0: fed by channel 10 (at port 1), feeding channel 6. -/

def portHas (n : Nat) (ks : List Token) (q : List Stream) : State := modPort (atHead 10 ks busy) 0 n (fun p => { p with q := q })
def scbOf (k w8 : Nat) : List W64 := [BitVec.ofNat 64 (k * 2 ^ 60 + 0x80), 0#64, 1#64, BitVec.ofNat 64 (4 * 2 ^ 32 + 9), 0#64, 0#64, 0#64, 0#64, BitVec.ofNat 64 w8, 0#64]
def stOf (k : Nat) : Stream := streamNew 0x200 (scbOf k 0) 0 0 k none
def sreq : Token := reqTok 0x200 0 0 0 (2 ^ 29)
def sreqState : State := pokeWords 0x200 ((scbOf 1 0).map (·.toNat)) (portHas 1 [sreq] [])
def getTok (opx : Nat) : Token := reqTok 0x80 0 0 9 (3 * 2 ^ 28 + opx * 2 ^ 24)
def headOf (s : State) (n : Nat) : Option Token := (getLoad s 0).bind (fun l => headAt l (portEnd 0 n) 100)
theorem witness_stream_start : headOf sreqState 1 = some sreq ∧ portHead (getPort sreqState 0 1) false sreq = some .request ∧ reqKind sreq = 2 ∧
    (lane64 sreq).toNat < 2 ^ 52 ∧ reqAddr sreq % 32 = 0 ∧ (match engWords sreqState 0 0 1 none (wordsFrom 0x200 20) with
      | .ok l => decide (startCheck sreqState load1 0 0 0 1 (words64 (l.flatMap (fun p => readPA sreqState p 4)) 10) = .ok none)
      | _ => false) = true := by decide +kernel
theorem test_stream_start : (getPort (run (.streamStart 0 1) sreqState) 0 1).q.map (fun st => (st.blk, st.kind)) = [(0x200, 1)] := by decide +kernel
def runningCtx : State := modCtx (portHas 0 [] [{ stOf 2 with began := true }]) 0 0 (fun c => { c with out := [tok 90 hdr8, tok 91 hdr8] })
theorem witness_stream_work : visitX (stOf 0) ≠ 0 ∧ portRoom (portHas 0 [] [stOf 0]) (span1 .running) load1 0 0 = true ∧
    (match visitElems (portHas 0 [] [stOf 0]) 0 1 none [] [] (min 8 (scbN (stOf 0) 0 - (stOf 0).i.getD 0 0)) (stOf 0) with
      | .ok els _ st1 => decide (els.length = 8 ∧ feedAhead (portHas 0 [] [stOf 0]) 0 none els false st1 = .ok [] [] st1)
      | _ => false) = true ∧ (chargeLimiter (portHas 0 [] [stOf 0]) 0 0 0 1).1 = true ∧ headOf (portHas 1 [tok 30 hdr8] [stOf 1]) 1 = some (tok 30 hdr8) ∧
    (match visitElems (portHas 1 [tok 30 hdr8] [stOf 1]) 0 2 none [] ((List.range 8).map (laneOf (tok 30 hdr8))) 8 (stOf 1) with
      | .ok els _ st1 => decide (els.length = 8 ∧ drainGoesOn st1 (lastRun Prod.fst (laneWords (tok 30 hdr8) els)) = false)
      | _ => false) = true ∧ (getCtx runningCtx 0 (scbGCTX (stOf 2).words)).out = [tok 90 hdr8, tok 91 hdr8] ∧ scbPVAL (stOf 2) = false ∧ scbCPL (stOf 0) = false ∧
    (match engWords busy 0 0 2 none (wordsFrom (0x200 + 80) 4) with
      | .ok l => decide (l = [8784, 8788, 8792, 8796])
      | _ => false) = true := by decide +kernel
theorem test_stream_work : (outOf (run (.feedToken 0 0) (poke 0x80 (bytesOf 4 88) (portHas 0 [] [stOf 0]))) 6).map (fun k => laneOf k 0) = [88#32] ∧
    readPAn (run (.feedToken 0 1) (portHas 1 [tok 30 hdr8] [stOf 1])) (8192 + 0x84) 4 = 31 ∧ (outOf (run (.feedToken 0 0) runningCtx) 6).map (fun k => laneOf k 7) = [97#32] ∧
    readPAn (run (.streamEnd 0 0) (portHas 0 [] [{ stOf 0 with fin := true, done := 9 }])) 8784 8 = 2 ^ 62 + 9 := by decide +kernel
def xfer (kind done : Nat) : Stream := { xferStream (getTok 8) 0 kind with done := done }
theorem witness_transfers : headOf (portHas 1 [getTok 9] []) 1 = some (getTok 9) ∧ portHead portReset true (getTok 9) = some .request ∧
    portHead portReset true (getTok 8) = some .request ∧ reqKind (getTok 8) = 3 ∧ reqOpx (getTok 8) = 8 ∧ xferCount (xfer 3 8) = 9 ∧
    (∀ d ∈ [0, 8], (match engWords busy 0 0 1 none ((List.range (min 8 (xferCount (xfer 3 d) - d))).map (xferVA (xfer 3 d))) with
      | .ok _ => true
      | _ => false) = true) := by decide +kernel
theorem test_transfers : (getPort (run (.portPuts 0 1) (portHas 1 [getTok 9] [])) 0 1).q.map (fun st => (st.kind, xferCount st)) = [(4, 9)] ∧
    ((getPort (run (.portGet 0 0) (portHas 0 [] [xfer 3 0])) 0 0).q.map (·.done)) = [8] ∧ (getPort (run (.portGet 0 0) (portHas 0 [] [xfer 3 8])) 0 0).q = [] ∧
    (outOf (run (.portGet 0 0) (poke 0xA0 (bytesOf 4 0x99) (portHas 0 [] [xfer 3 8]))) 6).map (fun k => (laneOf k 0, hdrLN k.hdr)) = [(0x99#32, 1)] ∧
    readPAn (run (.portPuts 0 1) (portHas 1 [tok 50 hdr8] [xfer 4 8])) (8192 + 0xA0) 4 = 50 := by decide +kernel

/-! A fill of 64 bytes from 0x90, two lines, to tile 3 of clusters 0 and 1; walks of group 0; aging; a queued event. -/

def mcast0 : Mcast := { src := 0x90, tag := 1, mt := 3, doff := 32, len := 64, asid := 0, cl := 0, ticket := 0, data := amEmpty, badLines := [], owed := [(0, 0), (0, 1), (1, 1)], wf := none }
def filling : State := modLoad (poke 0x90 (bytesOf 4 0x1234) busy) 0 (fun l => { l with mcasts := ⟨[(0, mcast0)]⟩ })
theorem witness_delivery : (match engWords filling 0 0 1 none (wordsFrom (mcLo 0x90 0) ((mcHi 0x90 64 0 - mcLo 0x90 0) / 4)) with
      | .ok l => decide (l.length = 12)
      | _ => false) = true ∧ (0, 1) ∈ mcast0.owed ∧ amGet mcast0.data 0 = none := by decide +kernel
theorem test_delivery : tileWord (getTile (run (.multicastDelivery 0 0 1 0) filling) 1 3) 32 = 0x1234#32 ∧
    granFull (getTile (run (.multicastDelivery 0 0 1 0) filling) 1 3) 4 = true ∧ granFull (getTile (run (.multicastDelivery 0 0 1 0) filling) 1 3) 5 = false ∧
    amGetD (getTile (run (.multicastDelivery 0 0 1 0) filling) 1 3).tags 1 0 = 12 := by decide +kernel
/-- The tables of ASID 7 at 0x10000: a root entry and one leaf of 4 KiB per level 0; and the walk of 0x5008. -/
def tables (ok : Bool) : State :=
  let put (a v : Nat) (s : State) : State := { s with mem := memPutAll s.mem a (bytesOf 8 v) }
  let v := 2 ^ 63
  let s := modPart (modCore busy 0 (fun c => { c with ptbr := 0x10000#64 })) 0 (fun p => { p with asid := 0x10007#64, wbase := ⟨[(0, 1#64)]⟩, wsize := ⟨[(0, 1#64)]⟩ })
  put 0x10000 (v + 0x12000) (put 0x12000 (v + 0x13000) (put 0x13000 (v + 0x14000) (put 0x14000 (v + 0x15000) (put 0x15000 (v + 0x16000)
    (put 0x16028 (if ok then v + 2 ^ 62 + 0x7000 + 0x38 else 0) s)))))
def walking (ok : Bool) : State := modGrp (modCl (tables ok) 0 (fun c => { c with walks := [⟨7, 0x5008, 1, .group 0, 3⟩] })) 0 0 (fun g => { g with st := .waiting .walk })
theorem witness_walk : (match walkTables (tables true) 0 (0x10000#64) 7 0x5008 with
      | .leaf e => permits e 1 && decide (e.pa = 0x7000 ∧ e.va = 0x5000 ∧ e.size = 4096)
      | _ => false) = true ∧ (match walkTables (tables false) 0 (0x10000#64) 7 0x5008 with
      | .fault c => decide (c = 1)
      | _ => false) = true := by decide +kernel
theorem test_walk : (getGrp (run (.walk 0 0) (walking true)) 0 0).st = .ready ∧ (getCl (run (.walk 0 0) (walking true)) 0).tcache.length = 3 ∧
    (getGrp (run (.walk 0 0) (walking false)) 0 0).cause = 1#64 ∧ (getGrp (run (.walk 0 0) (walking false)) 0 0).tval = 0x5008#64 := by decide +kernel
theorem witness_aging : (getGrp { busy with cycles := vec16Fill 65536 } 0 0).since + 2 ^ 16 ≤ now { busy with cycles := vec16Fill 65536 } 0 ∧
    max (getGrp busy 0 0).aged (getGrp busy 0 0).base < 3 := by decide +kernel
theorem test_event : (curGrp (run (.eventTaken 0) (modCore pending 0 (fun c => { c with fgrp := 0 })))).pc = 0x2000#52 ∧
    (curGrp (run (.eventTaken 0) (modCore pending 0 (fun c => { c with fgrp := 0 })))).cause = 5#64 := by decide +kernel

/-! The hub in Full service: partition 0 is enabled, owns the quads of die 0 and ASIDs 16 to 31; partition 1 owns ASIDs 32 to 47. -/

def svc : State :=
  modPart (modPart (modHub core0 (fun h => { h with boot := .full, fw := true, dtrn := 4095, ended := 4095 })) 0 (fun p =>
    { p with pctl := 1#64, pqmsk := ⟨[(0, 0xFFFFFFFFFFFFFFFF#64)]⟩, asid := 0x100010#64 })) 1 (fun p => { p with asid := 0x100020#64 })
/-- The same with a span of partition 0 on clusters 0 and 1. -/
def svcSpan (ph : SpanPhase) : State := inSpan { span1 .running with phase := ph } svc
def hub (f : Hub → Hub) (s : State) : State := modHub s f

/-- An HDM decoder maps 256 MiB of host addresses from 1 TiB to device memory from 0. -/
def decoded : State := hub (fun h => { h with hdm := ⟨[(15, ⟨2 ^ 40, 2 ^ 28, 0⟩)]⟩ }) svc
theorem witness_host_memory : paExists (6 * 2 ^ 40 - 8) = true ∧ paExists (6 * 2 ^ 40 - 1) = true ∧ paExists (2 ^ 52 - 1) = true ∧ paExists (2 ^ 51) = true ∧
    2 ^ 45 * 64 = 2 ^ 51 ∧ hostPA decoded.hub (2 ^ 40 + 8196) = 8196 ∧ hostPA decoded.hub 8196 = 2 ^ 51 + 8196 := by decide +kernel
theorem test_host_memory : (run (.hostAccess (2 ^ 40 + 8196) 0 .write [1#8, 2#8]) { decoded with dir := ⟨[(128, 3), (129, 1)]⟩ }).dir = ⟨[(129, 1)]⟩ ∧
    readPAn (run (.hostAccess (2 ^ 40 + 8196) 0 .write [1#8, 2#8]) decoded) 8192 8 = 0xF1E20201B5A69788 ∧
    (run (.hostAccess (2 ^ 40 + 8192) 3 .read []) decoded).hub.responses = [[0x88#8, 0x97#8, 0xA6#8]] ∧
    (run (.hostAccess (2 ^ 40 + 8192) 3 .read []) (hub (fun h => { h with boot := .locked }) decoded)).hub.responses = [[0#8, 0#8, 0#8]] ∧
    (run (.hostCoherenceRequest (2 ^ 45 + 7) true) { svc with dir := ⟨[(2 ^ 45 + 7, 4)]⟩ }).dir = ⟨[]⟩ := by decide +kernel
/-- A second decoder below the first one and one that would meet it (R354). -/
theorem test_decoders : hostPA (run (.hostAccess (2 ^ 40 - 2 ^ 28) (2 ^ 28) (.decoder 0 (2 ^ 29)) []) decoded).hub (2 ^ 40 - 1) = 2 ^ 29 + 2 ^ 28 - 1 ∧
    (run (.hostAccess (2 ^ 40 - 2 ^ 28) (2 ^ 29) (.decoder 0 0) []) decoded).hub.hdm.entries.length = 1 := by decide +kernel
/-- BSTAT of Full service with all dies trained and of Locked, in which PSTAT of partition 0 reads 0 (R406, R407). -/
theorem test_host_registers : (run (.hostAccess 0 0 .register []) svc).hub.responses = [bytesOf 8 0x3FFF000000000000] ∧
    (run (.hostAccess 0 0 .register []) (hub (fun h => { h with boot := .locked, berr := 2 }) svc)).hub.responses = [bytesOf 8 0xFFFF000000000200] ∧
    (run (.hostAccess 0 0x10410 .register []) (svcSpan .running)).hub.responses = [bytesOf 8 1] ∧
    (run (.hostAccess 0 0x10410 .register []) (hub (fun h => { h with boot := .locked }) (svcSpan .running))).hub.responses = [bytesOf 8 0] := by decide +kernel

/-! Queue 31 of virtual function 1. -/

/-- EN = 1, LOGN = 4 or 12, vector 119, ASID 16. -/
def qval (n : Nat) : W64 := BitVec.ofNat 64 (2 ^ 63 + n * 2 ^ 56 + 119 * 2 ^ 32 + 16)
def ringed (v : W64) : State := modQueue svc 0 31 (fun q => { q with qcfg := v, qbase := 0x100000#64, cqbase := 0x100000#64 })
theorem witness_queues : (∀ n ∈ [4, 12], qcfgOk (getPart (ringed 0#64) 0) (getQueue (ringed 0#64) 0 31) (qval n) = true) ∧
    (∀ n ∈ [3, 13], qcfgOk (getPart (ringed 0#64) 0) (getQueue (ringed 0#64) 0 31) (qval n) = false) ∧ regsLive svc.hub = true ∧
    bitAt 0 (getPart svc 0).pctl = true ∧ qEN (getQueue (ringed (qval 4)) 0 31) = true ∧ 2 ^ qLOGN (getQueue (ringed (qval 4)) 0 31) = 16 := by decide +kernel
theorem test_queues : qEN (getQueue (run (.queueEnable 1 31 (qval 12)) (ringed 0#64)) 0 31) = true ∧
    (getQueue (run (.queueEnable 1 31 (qval 13)) (ringed 0#64)) 0 31).qerr = true ∧
    qEN (getQueue (run (.doorbell 1 31 16#64) (ringed (qval 4))) 0 31) = true ∧ qEN (getQueue (run (.doorbell 1 31 17#64) (ringed (qval 4))) 0 31) = false := by
  decide +kernel

/-! The dispatcher's turn: a record of the pool, and one at the head of queue 31. -/

/-- Tables at 0x10000 that map the first GiB of the partition's first ASID to itself. -/
def mapped (s : State) : State :=
  let v := 2 ^ 63
  let put (a x : Nat) (s : State) : State := { s with mem := memPutAll s.mem a (bytesOf 8 x) }
  modPart (modCore (put 0x10000 (v + 0x12000) (put 0x12000 (v + 0x13000) (put 0x13000 (v + 0x14000) (put 0x14000 (v + 2 ^ 62 + 10 * 2 ^ 58 + 0x18) s))))
    0 (fun c => { c with ptbr := 0x10000#64 })) 0 (fun p => { p with cptbr := 0x10000#64, wbase := ⟨[(0, 1#64)]⟩, wsize := ⟨[(0, 1#64)]⟩ })
def pooled : State := modPart svc 0 (fun p => { p with pool := [{ entryOf 0 with asid := 16 }] })
def recordAt : State :=
  modQueue { mapped svc with mem := memPutAll (mapped svc).mem 0x100000 ([0x1004, 5, 0x200, 7].flatMap (bytesOf 8)) } 0 31 (fun q =>
    { q with qcfg := qval 4, qbase := 0x100000#64, cqbase := 0x100000#64, qtail := 1#64 })
/-- What DispatcherStarts asks of a state. -/
def starts (s : State) (part : Nat) : Bool :=
  let s2 := failUnreadable (modHub s (fun h => { h with lastPart := part })) part
  inService s.hub && decide (turnOf s.hub = some part) && (match sortCands (candidates s2 part) with
    | c :: _ => c.ok && fitsSomewhere (getPart s2 part) c.rcd.shape c.rcd.dw c.rcd.dh && (findPlace s2 (getPart s2 part) c.key c.rcd == some [0]) &&
        (c.queue.isSome || (poolHead (getPart s2 part)).isSome)
    | [] => false)
theorem witness_dispatch : starts pooled 0 = true ∧ starts recordAt 0 = true := by decide +kernel
theorem test_dispatch : (getGrp (run (.dispatch 0) pooled) 0 0).pc = 0x1000#52 ∧ xget (getGrp (run (.dispatch 0) recordAt) 0 0) 2#5 = 7#64 ∧
    (getGrp (run (.dispatch 0) recordAt) 0 0).pc = 0x1004#52 ∧ (getQueue (run (.dispatch 0) recordAt) 0 31).qhead = 1 := by decide +kernel
def exiting : State := modGrp noLoad 0 3 (fun g => { g with st := .waiting (.exit 5#64) })
theorem witness_exit_waits : (getGrp exiting 0 3).st = .waiting (.exit 5#64) ∧ exitReady exiting 0 3 = true ∧ (spanAt exiting 0).all (fun p => decide (p.2.phase = .running)) = true := by
  decide +kernel
theorem test_exit : (getGrp (run (.childExit 0 3) exiting) 0 3).st = .idle := by decide +kernel

/-! Partition 0 holds die 11 with HOLD and owns slices 0 and 1 of it; slice 2 is Clean, slice 3 Dirty of partition 0. -/

def slices : State :=
  modPart (hub (fun h => { h with slices := ⟨[(2112, .owned 0), (2113, .owned 0), (2115, .dirty 0)]⟩ }) svc) 0 (fun p => { p with pctl := 0x8000001#64, pslc := ⟨[(44, 3#64)]⟩ })
theorem witness_slices : trained slices.hub 11 = true ∧ heldFree slices 0 11 = true ∧ heldFree slices 0 10 = false ∧ trained slices.hub 10 = true ∧
    othersHold slices 0 (·.pslc) 44 4#64 = false ∧ amGetD (getPart slices 0).pqmsk 11 0#64 = 0#64 ∧ sliceSt slices.hub 11 2 = .clean ∧
    amGetD slices.hub.xslc 44 0#64 = 0#64 ∧ slcGO slices.hub 11 = false ∧ sliceSt slices.hub 11 3 = .dirty 0 ∧ slices.hub.boot ≠ .die0 ∧
    ((List.range 12).all (fun k => !holdsDie (getPart slices 0) k || bitAt (16 + k) 0x8000001#64)) = true := by decide +kernel
theorem test_slices : (∀ p ∈ [(0, SliceSt.dirty 0), (1, .owned 0), (2, .owned 0), (3, .dirty 0), (4, .clean)],
      sliceSt (run (.pslcWrite 0 11 0 6#64) slices).hub 11 p.1 = p.2) ∧ (getPart (run (.pslcWrite 0 11 0 14#64) slices) 0).perr = 2 ∧
    (getPart (run (.pctlWrite 0 2#64) slices) 0).perr = 4 ∧ (getPart (run (.pctlWrite 0 1#64) slices) 0).perr = 6 ∧
    sliceSt (run (.flushDone 11) (run (.sliceFlush 11 0x8000000000000003#64) slices)).hub 11 3 = .clean := by decide +kernel
/-- A line that slices 0 and 1 of die 11 hold: a PSLC write that keeps slice 1 drops its copy, the flush of slice 0 the other. -/
theorem test_slice_lines : (run (.pslcWrite 0 11 0 6#64) { slices with dir := ⟨[(5, 2 ^ 2112 + 2 ^ 2113)]⟩ }).dir = ⟨[(5, 2 ^ 2112)]⟩ ∧
    (run (.flushDone 11) (run (.sliceFlush 11 0x8000000000000000#64) (run (.pslcWrite 0 11 0 6#64) { slices with dir := ⟨[(5, 2 ^ 2112 + 2 ^ 2113)]⟩ }))).dir = ⟨[]⟩ := by
  decide +kernel
theorem witness_asids : sourceOk true 0x500F = true ∧ (dieCounter svc 11 30).setAt ≠ some (cycleOf svc 11) := by decide +kernel
/-- PIACK clears SY.ESC of a core of the partition that no span holds (R383); a CNT of the same cycle wins over DCSEL (R421). -/
theorem test_acknowledge : (getCl (run (.partitionInterruptAck 1 1#64) (modCore svc 5 (fun c => { c with esc := true }))) 5).core.esc = false ∧
    (dieCounter (run (.dcselWrite 11 30 0x500F#64) (hub (fun h => { h with dctr := ⟨[(11 * 32 + 30, ⟨1, 5#64, some 0, none⟩)]⟩ }) svc)) 11 30) = ⟨1, 5#64, some 0, none⟩ := by
  decide +kernel
theorem witness_asid_range : ∀ q, q < 16 → q ≠ 0 → ∀ a, asidOwned (getPart svc q) a = true → a < field 15 0 0x200000#64 ∨ field 15 0 0x200000#64 + field 31 16 0x200000#64 ≤ a := by
  intro q h h0 a ha
  have e : ∀ q ∈ List.range 16, q ≠ 0 → 32 ≤ field 15 0 (getPart svc q).asid ∨ field 31 16 (getPart svc q).asid = 0 := by decide +kernel
  have k : field 15 0 0x200000#64 + field 31 16 0x200000#64 = 32 := by decide
  simp only [asidOwned, Bool.and_eq_true, decide_eq_true_eq] at ha
  have := e q (List.mem_range.2 h) h0
  omega
theorem test_asids : (getPart (run (.partitionBlockWrite 0 0x400 0x200000#64) svc) 0).asid = 0x200000#64 ∧
    (getPart (run (.partitionBlockWrite 0 0x400 0x200001#64) svc) 0).perr = 5 ∧
    (run (.exclusionWrite 0x558 9#64) svc).hub.xqmsk = ⟨[(11, 9#64)]⟩ ∧ (dieCounter (run (.dcselWrite 11 31 0x500F#64) svc) 11 31).src = 0x500F := by decide +kernel

/-! Invalidation by range: the cached page of 4 KiB at 0 is of ASID 0. -/

def inval0 (removed : Bool) (lo : Nat) : Inval := ⟨0, lo, 1, some (0, 0), removed, [], false⟩
def invals (removed : Bool) (lo : Nat) : State := modGrp (hub (fun h => { h with invals := [inval0 removed lo] }) svc) 0 0 (fun g => { g with st := .waiting .invr })
theorem witness_invalidation : invalSettled (invals true 0) (inval0 true 0) = true ∧ (getGrp (invals true 0) 0 0).st = .waiting .invr ∧
    invalSettled (modCl (invals true 0) 0 (fun c => { c with walks := [⟨0, 0, 1, .group 1, 4⟩] })) ⟨0, 0, 1, none, true, [(0, ⟨0, 0, 1, .group 1, 4⟩)], false⟩ = false ∧
    bitAt 63 0x8000000000000000#64 = true ∧ svc.hub.invGo = false := by decide +kernel
theorem test_invalidation : (getCl (run .invalidationAck (invals false 4095)) 0).tcache.length = 1 ∧ (getCl (run .invalidationAck (invals false 8192)) 0).tcache.length = 2 ∧
    (getGrp (run .invalidationAck (invals true 0)) 0 0).pc = 0x104#52 := by decide +kernel
/-- A store whose translation the cache no longer holds is marked, and the acknowledgement waits for it; one of another ASID to the
same bytes is not (R376, R380). -/
def unlisted (asid : Nat) : State :=
  modCl (modGrp (invals false 0) 0 1 (fun g => { g with stores := [⟨8192, [1#8], ⟨3, asid, 0, 4096, false⟩, false⟩] })) 0 (fun c => { c with tcache := [] })
theorem test_marks : ((getGrp (run .invalidationAck (unlisted 0)) 0 1).stores.map (·.via.stale)) = [true] ∧
    (run .invalidationAck (run .invalidationAck (unlisted 0))).hub.invals.length = 1 ∧
    ((getGrp (run .invalidationAck (unlisted 3)) 0 1).stores.map (·.via.stale)) = [false] ∧
    (run .invalidationAck (run .invalidationAck (unlisted 3))).hub.invals.length = 0 := by decide +kernel

/-! Pre-emption of the span of clusters 0 and 1. -/

def preVal (op : Nat) : W64 := BitVec.ofNat 64 (2 ^ 63 + op * 2 ^ 60)
theorem witness_preempt : (∀ op ∈ [1, 2, 3, 4], preOP (preVal op) = op ∧ prePART (preVal op) = 0 ∧ preLEAD (preVal op) = 0 ∧ field 55 12 (preVal op) = 0) ∧
    regsLive (svcSpan .frozen).hub = true ∧ (svcSpan .frozen).hub.preGo = false ∧ (getSpan (svcSpan .frozen) 0).any (fun x => decide (x.part = 0 ∧ x.clusters.length = 2)) = true ∧
    (∀ c ∈ [0, 1], clusterHalted (spanNow (svcSpan .freezing) 0) (getCl (svcSpan .freezing) c) = true) ∧
    clusterHalted 0 { clusterReset with elems := ⟨[(3, { elemReset with busy := 1 })]⟩ } = false ∧
    (getSpan (svcSpan .saving) 0).any (fun x => spanSettled (svcSpan .saving) x) = true ∧ [0, 1].Nodup ∧
    (getGrp (run (.freezeComplete 0) (svcSpan .freezing)) 0 0).st = .frozen none := by decide +kernel
theorem test_preempt : ((getSpan (run (.spanFreeze (preVal 1)) (svcSpan .running)) 0).map (fun x => decide (x.phase = .freezing))) = some true ∧
    (run (.spanFreeze (preVal 1)) (svcSpan .frozen)).hub.preErr = 1 ∧ ((getSpan (run (.freezeComplete 0) (svcSpan .freezing)) 0).map (fun x => decide (x.phase = .frozen))) = some true ∧
    ((getSpan (run (.spanSave (preVal 2)) (svcSpan .frozen)) 0).map (fun x => decide (x.phase = .saving))) = some true ∧
    (getGrp (run (.spanThaw (preVal 4)) (run (.freezeComplete 0) (svcSpan .freezing))) 0 0).st = .ready := by decide +kernel
/-- The first VF_RESET event resets and owes the record, the second writes it (R369). -/
theorem test_vf_reset : (getPart (run (.vfReset 1) (svcSpan .running)) 0).owed.isSome = true ∧
    (getPart (run (.vfReset 1) (run (.vfReset 1) (svcSpan .running))) 0).owed = none ∧ (getSpan (run (.vfReset 1) (svcSpan .running)) 0).isNone = true ∧ (getGrp (run (.vfReset 1) (svcSpan .running)) 0 0).st = .idle ∧
    (getSpan (run (.vfReset 2) (svcSpan .running)) 0).isSome = true ∧ qEN (getQueue (run (.vfReset 1) (ringed (qval 4))) 0 31) = false := by decide +kernel

/-! CTXSV and CTXLD: the area at 0x200000 names a frozen span 5, or the Stopped group 2 of cluster 1. -/

/-- Supervisor code of ASID 16 on cluster 0; x1 holds the area's address, whose first bytes are given. -/
def areaState (hdr : List Byte) : State :=
  let s := setX 1#5 0x200000 (modGrp (mode1 (inSpan (span1 .running) (mapped svc))) 0 0 (fun g => { g with asid := 16 }))
  { modGrp s 1 2 (fun g => { g with st := .stopped }) with
    mem := memPutAll s.mem 0x200000 hdr
    spans := ⟨[(0, span1 .running), (5, { span1 .running with phase := .frozen, clusters := [4] })]⟩ }
def spanArea : State := areaState [0#8, 0#8, 0#8, 0#8, 0#8, 0#8, 0#8, 0#8, 0#8, 0#8, 0#8, 0#8, 5#8]
/-- A group area whose registers are all 0: magic, version 1, kind 2, group 2 of lead cluster 1, and the CRC of 312 zero bytes. -/
def groupArea : State :=
  areaState (bytesOf 4 areaMagic ++ bytesOf 2 1 ++ bytesOf 2 2 ++ bytesOf 4 0x02000000 ++ bytesOf 4 1 ++ bytesOf 4 0 ++ bytesOf 4 0x4CA00BD5)
theorem hubWords_linear {s : State} {part asid need m : Nat} {ptbr : W64} (h : ∀ va, va < m → hubTranslate s part ptbr asid va need = .hit va)
    (hm : m ≤ 2 ^ 52) : ∀ n va, va + 4 * n ≤ m → hubWords s part ptbr asid need n va = .ok (List.range' va n 4) := by
  intro n
  induction n with
  | zero => intro va _; rfl
  | succ n ih =>
    intro va hv
    have e : va % 2 ^ 52 = va := Nat.mod_eq_of_lt (by omega)
    simp only [hubWords, e, h va (by omega), ih (va + 4) (by omega), List.range'_succ]
theorem level_down {s : State} {P : Partition} {asid va l tbl v adr : Nat} (hi : levelIndex (l + 1) va = 0) (hw : inWindow P tbl 8 = true) (ht : tbl < 2 ^ 51)
    (hv : readPAn s tbl 8 = v) (hd : (bitAt 62 (BitVec.ofNat 64 v) = false ∧ bitAt 63 (BitVec.ofNat 64 v) = true ∧ field 57 52 (BitVec.ofNat 64 v) = 0 ∧
      field 11 6 (BitVec.ofNat 64 v) = 0 ∧ field 2 0 (BitVec.ofNat 64 v) = 0 ∧ field 61 58 (BitVec.ofNat 64 v) = 0 ∧ field 5 3 (BitVec.ofNat 64 v) = 0 ∧
      bitAt 4 (BitVec.ofNat 64 v) = false ∧ field 51 12 (BitVec.ofNat 64 v) * 4096 = adr)) :
    walkLevel s P asid va (l + 1) tbl = walkLevel s P asid va l adr := by
  obtain ⟨h1, h2, h3, h4, h5, h6, h7, h8, h9⟩ := hd
  rw [walkLevel.eq_def]
  simp [hi, hw, hv, h1, h2, h3, h4, h5, h6, h7, h9]
  omega
theorem level_leaf {s : State} {P : Partition} {asid va tbl v : Nat} (hi : levelIndex 2 va = 0) (hw : inWindow P tbl 8 = true) (ht : tbl < 2 ^ 51)
    (hv : readPAn s tbl 8 = v) (hg : inWindow P 0 (2 ^ 30) = true) (he : v = 0xE800000000000018) :
    walkLevel s P asid va 2 tbl = .leaf ⟨asid, va / 2 ^ 30 * 2 ^ 30, 2 ^ 30, 0, 3⟩ := by
  subst he
  rw [walkLevel.eq_def]
  have h1 : bitAt 62 0xE800000000000018#64 = true := by decide
  have h2 : bitAt 63 0xE800000000000018#64 = true := by decide
  have h3 : field 57 52 0xE800000000000018#64 = 0 := by decide
  have h4 : field 11 6 0xE800000000000018#64 = 0 := by decide
  have h5 : field 2 0 0xE800000000000018#64 = 0 := by decide
  have h6 : field 61 58 0xE800000000000018#64 = 10 := by decide
  have h7 : field 51 12 0xE800000000000018#64 = 0 := by decide
  have h8 : bitAt 3 0xE800000000000018#64 = true := by decide
  have h9 : bitAt 4 0xE800000000000018#64 = true := by decide
  have h10 : bitAt 5 0xE800000000000018#64 = false := by decide
  have hg1 : inWindow P 0 1073741824 = true := hg
  simp [hi, hw, hv, h1, h2, h3, h4, h5, h6, h7, h8, h9, h10, pageSize, pageLevel, hg1, b2n]
  omega

/-- Tables at 0x10000 that map the first GiB of one ASID to itself. -/
structure Identity (s : State) (part asid : Nat) : Prop where
  hb : field 15 0 (getPart s part).asid = asid
  hg : inWindow (getPart s part) 0 (2 ^ 30) = true
  hw : ∀ a ∈ [0x10000, 0x12000, 0x13000, 0x14000], inWindow (getPart s part) a 8 = true
  he : ∀ p ∈ [(0x10000, 0x8000000000012000), (0x12000, 0x8000000000013000), (0x13000, 0x8000000000014000), (0x14000, 0xE800000000000018)],
    readPAn s p.1 8 = p.2
theorem identity_hit {s : State} {part asid : Nat} (h : Identity s part asid) (va need : Nat) (hv : va < 2 ^ 30) (hn : need = 1 ∨ need = 2) :
    hubTranslate s part 0x10000#64 asid va need = .hit va := by
  have i4 : levelIndex 4 va = 0 := by simp [levelIndex]; omega
  have i3 : levelIndex 3 va = 0 := by simp [levelIndex]; omega
  have i2 : levelIndex 2 va = 0 := by simp [levelIndex]; omega
  have a : field 51 12 0x10000#64 = 16 := by decide
  have w : walkTables s part 0x10000#64 asid va = .leaf ⟨asid, va / 2 ^ 30 * 2 ^ 30, 2 ^ 30, 0, 3⟩ := by
    unfold walkTables
    have k1 : bitAt 63 0x8000000000012000#64 = true := by decide
    have k2 : field 62 52 0x8000000000012000#64 = 0 := by decide
    have k3 : field 6 0 0x8000000000012000#64 = 0 := by decide
    have k4 : field 51 7 0x8000000000012000#64 * 128 = 0x12000 := by decide
    have e0 := h.he (0x10000, 0x8000000000012000) (by simp)
    have w0 := h.hw 0x10000 (by simp)
    have hz : (asid + 65536 - asid) % 65536 = 0 := by omega
    simp only [h.hb, a, hz] at e0 w0 ⊢
    simp only [Nat.reduceMul, Nat.mul_zero, Nat.add_zero, e0, w0]
    rw [if_neg (by decide)]
    show (if !bitAt 63 0x8000000000012000#64 then _ else _) = _
    rw [if_neg (by rw [k1]; decide), if_neg (by rw [k2, k3]; decide), k4]
    rw [level_down (l := 3) i4 (h.hw 0x12000 (by simp)) (by decide) (h.he (0x12000, 0x8000000000013000) (by simp)) (adr := 0x13000) (by decide),
      level_down (l := 2) i3 (h.hw 0x13000 (by simp)) (by decide) (h.he (0x13000, 0x8000000000014000) (by simp)) (adr := 0x14000) (by decide)]
    exact level_leaf i2 (h.hw 0x14000 (by simp)) (by decide) (h.he (0x14000, 0xE800000000000018) (by simp)) h.hg rfl
  unfold hubTranslate
  rw [w]
  have z : va / 2 ^ 30 = 0 := by omega
  rcases hn with rfl | rfl <;> simp [permits] <;> omega

theorem area_words {s : State} {need : Nat} (h : Identity s (partOfCl s s.cur.cl) (curGrp s).asid) (hp : (getCl s s.cur.cl).core.ptbr = 0x10000#64)
    (hn : need = 1 ∨ need = 2) (va bytes : Nat) (hb : va + bytes ≤ 2 ^ 30) :
    areaWords s need va bytes = .ok (List.range' va (bytes / 4) 4) := by
  unfold areaWords
  rw [hp]
  exact hubWords_linear (fun v hv => identity_hit h v need hv hn) (by decide) _ _ (by omega)
theorem span_identity : Identity (releaseCur spanArea 3) 0 16 := ⟨by decide +kernel, by decide +kernel, by decide +kernel, by decide +kernel⟩
theorem group_identity : Identity (releaseCur groupArea 3) 0 16 := ⟨by decide +kernel, by decide +kernel, by decide +kernel, by decide +kernel⟩
theorem witness_span_area : bitAt 0 (curGrp (releaseCur spanArea 3)).status = true ∧ (xget (curGrp (releaseCur spanArea 3)) 1#5).toNat % 2 ^ 52 = 0x200000 ∧
    (∃ pas, areaWords (releaseCur spanArea 3) 1 0x200000 4096 = .ok pas ∧ hdrLEAD (wordsRead (releaseCur spanArea 3) pas) = 5) ∧
    (getSpan (releaseCur spanArea 3) 5).any (fun x => decide (x.part = partOfCl (releaseCur spanArea 3) 0 ∧ x.phase = .frozen ∧ x.clusters = [4]) && spanSettled (releaseCur spanArea 3) x) = true ∧
    (∃ out, areaWords (releaseCur spanArea 3) 2 0x200000 (4096 + [4].length * areaCSZ) = .ok out) :=
  ⟨by decide +kernel, by decide +kernel, ⟨_, area_words span_identity (by decide +kernel) (.inl rfl) _ _ (by decide), by decide +kernel⟩, by decide +kernel,
    ⟨_, area_words span_identity (by decide +kernel) (.inr rfl) _ _ (by decide)⟩⟩
theorem witness_group_area : ∃ pas body, areaWords (releaseCur groupArea 3) 1 0x200000 4096 = .ok pas ∧ areaWords (releaseCur groupArea 3) 1 (0x200000 + 4096) 312 = .ok body ∧
    hdrOk (wordsRead (releaseCur groupArea 3) pas) 2 = true ∧ hdrPART (wordsRead (releaseCur groupArea 3) pas) = partOfCl (releaseCur groupArea 3) 0 ∧ hdrGRP (wordsRead (releaseCur groupArea 3) pas) = 2 ∧
    hdrLEAD (wordsRead (releaseCur groupArea 3) pas) = 1 ∧ (getGrp (releaseCur groupArea 3) 1 2).st = .stopped ∧ partOfCl (releaseCur groupArea 3) 1 = partOfCl (releaseCur groupArea 3) 0 ∧
    crcOk (wordsRead (releaseCur groupArea 3) pas) (wordsRead (releaseCur groupArea 3) body) = true :=
  ⟨_, _, area_words group_identity (by decide +kernel) (.inl rfl) _ _ (by decide), area_words group_identity (by decide +kernel) (.inl rfl) _ _ (by decide),
    by decide +kernel, by decide +kernel, by decide +kernel, by decide +kernel, by decide +kernel, by decide +kernel⟩

/-! RESTORE: an area at address 0 whose body is that of a Saved span of one cluster. -/

theorem tileRead_length (y : Tile) : ∀ n o, (tileRead y o n).length = n := by
  intro n
  induction n with
  | zero => intro o; rfl
  | succ n ih => intro o; simp only [tileRead, List.length_cons, ih]
theorem length_flatMap_const {α : Type} (l : List α) (f : α → List Byte) (k : Nat) (h : ∀ a, (f a).length = k) : (l.flatMap f).length = l.length * k := by
  induction l with
  | nil => simp
  | cons a l ih => rw [List.flatMap_cons, List.length_append, ih, h, List.length_cons]; ring
theorem openSections_length (c : Cluster) : (openSections c).length = openSize := by
  unfold openSections
  rw [List.length_append, length_flatMap_const _ _ 65536 (fun t => tileRead_length _ _ _), length_flatMap_const _ _ 512 (fun t => by simp only [fullBytes, List.length_map, List.length_range]),
    List.length_range]
  rfl
theorem memGetN_of (m : List Host.Cell) (l : List Byte) : ∀ a, (∀ i, i < l.length → memGet m (a + i) = l.getD i 0#8) → memGetN m l.length a = l := by
  induction l with
  | nil => intro a _; rfl
  | cons b l ih =>
    intro a h
    have h0 := h 0 (by simp)
    have ht := ih (a + 1) (fun i hi => by
      have := h (i + 1) (by simp only [List.length_cons]; omega)
      rw [show a + 1 + i = a + (i + 1) by omega, this]; rfl)
    simp only [List.length_cons, memGetN, ht]
    rw [show memGet m a = b from h0]
/-- Reading back a piece of what was written to empty memory at 0. -/
theorem read_written (bs pre mid post : List Byte) (h : bs = pre ++ mid ++ post) : memGetN (memPutAll [] 0 bs) mid.length pre.length = mid := by
  refine memGetN_of _ _ _ (fun i hi => ?_)
  subst h
  rw [memGet_memPutAll_in (pre ++ mid ++ post) (by omega) (by simp only [List.length_append]; omega)]
  simp only [Nat.sub_zero, List.getD_eq_getElem?_getD]
  rw [List.append_assoc, List.getElem?_append_right (by omega), Nat.add_sub_cancel_left, List.getElem?_append_left hi]
/-- A cluster whose tile 0 holds a token at granule 0, its header all 0 or with the reserved bit 30 set. -/
def keptCl (bad : Bool) : Cluster := { clusterReset with tiles := ⟨[(0, { tileReset with bytes := ⟨if bad then [(35, 0x40#8)] else [(0, 7#8)]⟩ })]⟩ }
def restBody (bad : Bool) : List Byte := recordsBytes 0 [keptCl bad]
def restHdr (bad : Bool) : List Byte := headerBytes 0 0 0 0 1 0 (crc32 (restBody bad))
/-- The saved span's channel has one token in its queue, at granule 0 of tile 0. -/
def keptLoad : Load := { probeLoad with chans := ⟨[(0, chan 0 false (at' 1 0 false) [{ branch (at' 0 0 false) [] with queue := some ⟨0, 0, 0, 0, 1, 0, 1⟩ }])]⟩ }
def oneSaved (bad : Bool) : Saved := ⟨0, { span1 .running with phase := .frozen, clusters := [7], load := some keptLoad }, [keptCl bad]⟩
def areaAt (bad : Bool) (bs : List Byte) : State := { hub (fun h => { h with saves := [oneSaved bad] }) svc with mem := memPutAll [] 0 bs }
def restoring (bad : Bool) : State := areaAt bad (restHdr bad ++ restBody bad)
theorem areaAt_read (bad : Bool) (bs : List Byte) (pa n : Nat) : readPA (areaAt bad bs) pa n = memGetN (memPutAll [] 0 bs) n pa := rfl
theorem areaAt_rest (bad : Bool) (bs : List Byte) : (areaAt bad bs).hub = (areaAt bad []).hub ∧ freeAll (areaAt bad bs) [9] = freeAll (areaAt bad []) [9] ∧
    getPart (areaAt bad bs) 0 = getPart (areaAt bad []) 0 := ⟨rfl, rfl, rfl⟩
theorem restBody_eq (bad : Bool) : restBody bad = openSections (keptCl bad) ++ privateBytes 0 0 := by
  simp only [restBody, recordsBytes, List.length_singleton, List.range_one, List.flatMap_cons, List.flatMap_nil, List.append_nil, List.getD_cons_zero]
theorem privateBytes_length (a b : Nat) : (privateBytes a b).length = areaCSZ - openSize := by simp only [privateBytes, List.length_map, List.length_range]
theorem restBody_length (bad : Bool) : (restBody bad).length = areaCSZ := by
  rw [restBody_eq, List.length_append, openSections_length, privateBytes_length]; rfl
theorem headerBytes_length (a b c d e f g : Nat) : (headerBytes a b c d e f g).length = 4096 := by
  simp only [headerBytes, List.length_append, bytesOf_length, List.length_replicate]
theorem restHdr_length (bad : Bool) : (restHdr bad).length = 4096 := headerBytes_length ..
theorem restHdr_read (bad : Bool) : readPA (restoring bad) 0 4096 = restHdr bad := by
  have h := read_written (restHdr bad ++ restBody bad) [] (restHdr bad) (restBody bad) (by rw [List.nil_append])
  rw [List.length_nil, restHdr_length] at h
  rw [restoring, areaAt_read, h]
theorem restBody_read (bad : Bool) : readPA (restoring bad) 4096 areaCSZ = restBody bad := by
  have h := read_written (restHdr bad ++ restBody bad) (restHdr bad) (restBody bad) [] (by rw [List.append_nil])
  rw [restHdr_length, restBody_length] at h
  rw [restoring, areaAt_read, h]
theorem crcBits_lt (n : Nat) : ∀ c, c < 2 ^ 32 → crcBits n c < 2 ^ 32 := by
  induction n with
  | zero => intro c h; exact h
  | succ n ih =>
    intro c h
    simp only [crcBits, forced_eq]
    refine ih _ ?_
    split
    · exact Nat.xor_lt_two_pow (by omega) (by decide)
    · omega
theorem crcAll_lt (l : List Byte) : ∀ c, c < 2 ^ 32 → crcAll c l < 2 ^ 32 := by
  induction l with
  | nil => intro c h; exact h
  | cons b l ih =>
    intro c h
    simp only [crcAll, crcByte, forced_eq]
    exact ih _ (crcBits_lt 8 _ (Nat.xor_lt_two_pow h (by have := b.isLt; omega)))
theorem crc32_lt (bs : List Byte) : crc32 bs < 2 ^ 32 := Nat.xor_lt_two_pow (crcAll_lt bs _ (by decide)) (by decide)
theorem header_fields (c : Nat) : spanHdrOk (headerBytes 0 0 0 0 1 0 c) = true ∧ hdrNCL (headerBytes 0 0 0 0 1 0 c) = 1 ∧ hdrSPAN (headerBytes 0 0 0 0 1 0 c) = 0 ∧
    hdrDW (headerBytes 0 0 0 0 1 0 c) = 0 ∧ hdrDH (headerBytes 0 0 0 0 1 0 c) = 0 ∧ hdrPART (headerBytes 0 0 0 0 1 0 c) = 0 ∧
    ((headerBytes 0 0 0 0 1 0 c).drop 20).take 4 = bytesOf 4 c := by
  have d : hdrNat (headerBytes 0 0 0 0 1 0 c) 9 1 = 0 := rfl
  exact ⟨rfl, rfl, rfl, by rw [hdrDW, d], by rw [hdrDH, d], rfl, rfl⟩
theorem crc_header {c : Nat} (h : c < 2 ^ 32) : hdrNat (headerBytes 0 0 0 0 1 0 c) 20 4 = c := by
  unfold hdrNat
  rw [(header_fields c).2.2.2.2.2.2, natOfBytes_bytesOf]
  exact Nat.mod_eq_of_lt h
theorem crcOk_header (b : List Byte) : crcOk (headerBytes 0 0 0 0 1 0 (crc32 b)) b = true := by
  unfold crcOk
  generalize h : crc32 b = c
  rw [crc_header (h ▸ crc32_lt b), decide_eq_true_eq]
theorem rest_crc (bad : Bool) : crcOk (restHdr bad) (restBody bad) = true := crcOk_header (restBody bad)
theorem rest_saved (bad : Bool) : savedAs (restBody bad) (oneSaved bad) = true := by
  simp only [savedAs, oneSaved, List.length_singleton, List.range_one, List.all_cons, List.all_nil, Bool.and_true, Nat.zero_mul, Nat.zero_add]
  rw [restBody_eq, ← openSections_length (keptCl bad), List.drop_left, openSections_length, List.take_of_length_le (by rw [privateBytes_length]), decide_eq_true_eq]
/-- Bytes written to a tile are what it then reads. -/
theorem tileByte_tileWrite (bs : List Byte) : ∀ (y : Tile) (o k : Nat), o + bs.length ≤ 65536 → k < 65536 →
    tileByte (tileWrite y o bs) k = if o ≤ k ∧ k < o + bs.length then bs.getD (k - o) 0#8 else tileByte y k := by
  induction bs with
  | nil => intro y o k _ _; rw [if_neg (by simp only [List.length_nil]; omega)]; rfl
  | cons b bs ih =>
    intro y o k ho hk
    simp only [List.length_cons] at ho ⊢
    rw [tileWrite, ih _ _ _ (by omega) hk]
    have e (j : Nat) (hj : j < 65536) : tileByte (tilePut y o b) j = if j = o then b else tileByte y j := by
      unfold tileByte tilePut
      rw [Nat.mod_eq_of_lt hj, Nat.mod_eq_of_lt (by omega : o < 65536)]
      split
      · next h => subst h; exact amGetD_amPutD_same ..
      · next h => exact amGetD_amPutD_ne _ _ _ _ h
    rw [e k hk]
    by_cases h : k = o
    · subst h; rw [if_neg (by omega), if_pos rfl, if_pos (by omega)]; simp
    · rw [if_neg h]
      by_cases h2 : o + 1 ≤ k ∧ k < o + 1 + bs.length
      · rw [if_pos h2, if_pos (by omega), show k - o = (k - (o + 1)) + 1 by omega, List.getD_cons_succ]
      · rw [if_neg h2, if_neg (by omega)]
theorem tileRead_getD (y : Tile) : ∀ n o i, i < n → (tileRead y o n).getD i 0#8 = tileByte y (o + i) := by
  intro n
  induction n with
  | zero => intro o i h; omega
  | succ n ih =>
    intro o i h
    cases i with
    | zero => rfl
    | succ i => rw [tileRead, List.getD_cons_succ, ih _ _ (by omega), show o + 1 + i = o + (i + 1) by omega]
theorem setFulls_bytes (b : Bool) (gs : List Nat) : ∀ y : Tile, (setFulls y b gs).bytes = y.bytes := by
  induction gs with
  | nil => intro y; rfl
  | cons g gs ih => intro y; exact (ih _).trans rfl
theorem first_tile (f : Nat → Tile) (d : Tile) : amGetD ⟨(List.range 32).map (fun t => (t, f t))⟩ 0 d = f 0 := rfl
theorem tileOfBytes_bytes (y : Tile) (bs full : List Byte) : (tileOfBytes y bs full).bytes = (tileWrite { y with bytes := amEmpty, full := amEmpty } 0 bs).bytes :=
  setFulls_bytes _ _ _
theorem openSections_tile (c : Cluster) (l : List Byte) : (openSections c ++ l).take 65536 = tileRead (amGetD c.tiles 0 tileReset) 0 65536 := by
  unfold openSections
  rw [show List.range 32 = 0 :: List.range' 1 31 from rfl]
  simp only [List.flatMap_cons, List.append_assoc]
  exact List.take_left' (tileRead_length _ _ _)
/-- The tile of the restored record holds the bytes that were saved. -/
theorem kept_byte (c d : Cluster) (l : List Byte) (k : Nat) (hk : k < 65536) :
    tileByte (amGetD (clusterOfRecord c (openSections d ++ l)).tiles 0 tileReset) k = tileByte (amGetD d.tiles 0 tileReset) k := by
  unfold clusterOfRecord
  rw [first_tile, Nat.mul_zero, List.drop_zero, openSections_tile, tileByte, tileOfBytes_bytes]
  refine (tileByte_tileWrite _ _ 0 k (by rw [tileRead_length]) hk).trans ?_
  rw [tileRead_length, if_pos (by omega), Nat.sub_zero, tileRead_getD _ _ _ _ hk, Nat.zero_add]
/-- The one token of the area is that of the saved tile. -/
theorem kept_token (c d : Cluster) (l : List Byte) :
    queueTok (amGetD (clusterOfRecord c (openSections d ++ l)).tiles 0 tileReset) 0 0 = queueTok (amGetD d.tiles 0 tileReset) 0 0 := by
  have w (o : Nat) (h : o < 60) : tileWord (amGetD (clusterOfRecord c (openSections d ++ l)).tiles 0 tileReset) o = tileWord (amGetD d.tiles 0 tileReset) o := by
    simp only [tileWord, tileRead, kept_byte c d l o (by omega), kept_byte c d l (o + 1) (by omega), kept_byte c d l (o + 1 + 1) (by omega), kept_byte c d l (o + 1 + 1 + 1) (by omega)]
  simp only [queueTok, vec8Of, vec4Of, Nat.mul_zero, Nat.add_zero, Nat.reduceMul, Nat.reduceAdd]
  simp only [w 0 (by decide), w 4 (by decide), w 8 (by decide), w 12 (by decide), w 16 (by decide), w 20 (by decide), w 24 (by decide), w 28 (by decide), w 32 (by decide)]
theorem one_token (bad : Bool) (body : List Byte) : restoredOk (oneSaved bad) body =
    presetOk false (queueTok (amGetD (clusterOfRecord (keptCl bad) ((body.drop 0).take areaCSZ)).tiles 0 tileReset) 0 0) := Bool.and_true _
theorem rest_tokens (bad : Bool) : restoredOk (oneSaved bad) (restBody bad) = presetOk false (queueTok (amGetD (keptCl bad).tiles 0 tileReset) 0 0) := by
  rw [one_token, List.drop_zero, List.take_of_length_le (Nat.le_of_eq (restBody_length bad)), restBody_eq, kept_token]
/-- The restore asks for cluster 9 as lead, the tenth place of shape 0; the area's token is sound, or has a reserved bit (R80, R396). -/
theorem witness_restore : ∀ bad : Bool, regsLive (restoring bad).hub = true ∧ (restoring bad).hub.preGo = false ∧ (restoring bad).hub.pra = 0#64 ∧ preLEAD (preVal 3 + 9#64) = 9 ∧
    preOP (preVal 3 + 9#64) = 3 ∧ spanHdrOk (restHdr bad) = true ∧ readPA (restoring bad) 0 4096 = restHdr bad ∧ readPA (restoring bad) 4096 (hdrNCL (restHdr bad) * areaCSZ) = restBody bad ∧
    crcOk (restHdr bad) (restBody bad) = true ∧ hdrPART (restHdr bad) = 0 ∧ (restoring bad).hub.saves.find? (savedAs (restBody bad)) = some (oneSaved bad) ∧
    9 < placeCount (hdrSPAN (restHdr bad)) ∧ placeOf (hdrSPAN (restHdr bad)) (hdrDW (restHdr bad)) (hdrDH (restHdr bad)) 9 = some [9] ∧
    (∀ j, j < 9 → ∀ c, placeOf (hdrSPAN (restHdr bad)) (hdrDW (restHdr bad)) (hdrDH (restHdr bad)) j = some c → c.head? ≠ some 9) ∧
    freeAll (restoring bad) [9] = true ∧ ownedAll (getPart (restoring bad) 0) [9] = true ∧ (oneSaved bad).records.length = 1 ∧
    restoredOk (oneSaved bad) (restBody bad) = !bad := by
  intro bad
  obtain ⟨h1, h2, h3, h4, h5, h6, _⟩ := header_fields (crc32 (restBody bad))
  have e : restHdr bad = headerBytes 0 0 0 0 1 0 (crc32 (restBody bad)) := rfl
  rw [← e] at h1 h2 h3 h4 h5 h6
  obtain ⟨he, fr, ow⟩ := areaAt_rest bad (restHdr bad ++ restBody bad)
  rw [← restoring] at he fr ow
  refine ⟨by rw [he]; rfl, by rw [he]; rfl, by rw [he]; rfl, by decide +kernel, by decide +kernel, h1, restHdr_read bad,
    by rw [h2, Nat.one_mul]; exact restBody_read bad, rest_crc bad, h6, ?_, by rw [h3]; decide +kernel, by rw [h3, h4, h5]; decide +kernel, ?_, by rw [fr]; cases bad <;> decide +kernel,
    by rw [ow]; cases bad <;> decide +kernel, rfl, by rw [rest_tokens]; cases bad <;> decide +kernel⟩
  · rw [he, show (areaAt bad []).hub.saves = [oneSaved bad] from rfl, List.find?_cons_of_pos (rest_saved bad)]
  · rw [h3, h4, h5]
    intro j hj c hc
    have : placeOf 0 0 0 j = some [j] := by
      unfold placeOf
      rw [if_pos (by decide), if_pos (by simp only [shapeSize]; omega)]
      simp [shapeSize]
    rw [this] at hc
    cases hc
    simp; omega

/-! The fleet: links, group 15 of three ranks, of which this package is rank 0 (or 1), and a collective of it. -/

/-- A window of 2^24 cycles has ended. -/
def linked (k : Link) : State := hub (fun h => { h with links := ⟨[(47, k)]⟩, lthr := 4096#32 }) { svc with cycles := vec16Fill (2 ^ 24) }
noncomputable def judgedAs (k : Link) (rpl : Nat) : Nat := (linkOf (run (.linkJudgement 47 rpl) (linked k)).hub 47).st
theorem test_links : judgedAs ⟨0, 8, false, 0#32, true, 0⟩ 4096 = 1 ∧ judgedAs ⟨1, 8, false, 0#32, true, 0⟩ 4097 = 2 ∧ judgedAs ⟨1, 7, false, 0#32, true, 0⟩ 0 = 2 ∧
    judgedAs ⟨1, 3, false, 0#32, true, 0⟩ 0 = 0 ∧ judgedAs ⟨1, 8, true, 0#32, true, 0⟩ 0 = 0 ∧
    (linkOf (run (.linkTraining 47 8 true) (linked ⟨2, 4, false, 0#32, false, 0⟩)).hub 47) = ⟨2, 8, false, 0#32, true, 0⟩ := by decide +kernel
def grouped (f : CGroup → CGroup) : State :=
  hub (fun h => { h with groups := ⟨[(15, f { cgroupReset with en := true, gm1 := 2, rank := 0, known := [0, 1] })]⟩ }) svc
def enable : W64 := BitVec.ofNat 64 (2 ^ 63 + 1 * 2 ^ 32 + 1)
theorem witness_group : (groupOf svc.hub 15).en = false ∧ bitAt 63 enable = true ∧ field 9 0 enable = 1 ∧ field 41 32 enable = 1 ∧
    (groupOf (grouped id).hub 15).rdy = false ∧ 2 ≤ (groupOf (grouped id).hub 15).gm1 ∧ (groupOf (grouped id).hub 15).rank ≠ 2 := by decide +kernel
theorem test_group : (groupOf (run (.groupEnable 15 enable) svc).hub 15).en = true ∧ (groupOf (run (.rowExchange 15 2 []) (grouped id)).hub 15).rdy = true ∧
    (groupOf (run (.rowExchange 15 1 []) (grouped id)).hub 15).rdy = false ∧ (groupOf (run (.groupDisable 15 0#64) (grouped id)).hub 15).en = false := by decide +kernel
/-- Two ranks, so that the table's CRC is of 96 entries; 10,000 cycles after the first update, and 40,000, when the interval is over
and this package's CRC has been sent. -/
def inEpoch (t : Nat) (told : Bool) : State :=
  { grouped (fun g => { g with gm1 := 1, updates := [(1, 47, 1)], told := told, applied := [(1, 46, 1)] }) with cycles := vec16Fill t }
def updated : State := inEpoch 40000 true
def groupIn (s : State) : CGroup := groupOf s.hub 15
def updatedCrc : Nat := tableCrc (groupIn updated) (nextTable (groupIn updated))
theorem witness_epoch : (groupIn updated).updates ≠ [] ∧ (groupIn updated).trial = none ∧ (groupIn updated).told = true ∧ (groupIn updated).gm1 = 1 ∧
    (groupIn updated).firstAt + 30000 < hubNow updated ∧ ¬ (groupIn updated).firstAt + 30000 < hubNow (inEpoch 10000 false) ∧
    (groupIn (inEpoch 40000 false)).told = false ∧ (1, 47, 2) ∉ (groupIn updated).updates ∧ (1, 47, 2) ∉ (groupIn updated).tried ∧
    (1, 47, 2) ∉ (groupIn updated).applied ∧ (1, 46, 1) ∈ (groupIn updated).applied ∧ (groupIn updated).epoch = 0 ∧ updatedCrc ≠ 0 ∧
    (1, 47, 2) ∉ (groupIn updated).later := by decide +kernel
/-- Before the interval's end an update of epoch 1, or of epoch 0 that is not in force, is gathered for epoch 1, after it for epoch 2;
the CRC is sent, and one that agrees begins epoch 1, the first that does not leaves epoch 0 in force (R324). -/
theorem test_epoch_updates : (∀ e ∈ [0, 1], (groupIn (run (.linkStateUpdate 15 e 1 47 2) (inEpoch 10000 false))).updates = [(1, 47, 1), (1, 47, 2)] ∧
      (groupIn (run (.linkStateUpdate 15 e 1 47 2) updated)).later = [(1, 47, 2)]) ∧
    (groupIn (run (.linkStateUpdate 15 0 1 46 1) updated)).later = [] ∧ (groupIn (run (.linkStateUpdate 15 2 1 47 2) updated)).later = [(1, 47, 2)] := by
  decide +kernel
theorem test_epoch : (run (.epochApply 15 [0]) (inEpoch 40000 false)).hub.sent.map (fun m => m.1) = [7] ∧
    (groupIn (run (.epochApply 15 [updatedCrc]) (inEpoch 10000 true))).epoch = 0 ∧ (groupIn (run (.epochApply 15 []) updated)).epoch = 0 ∧
    (groupIn (run (.epochApply 15 [updatedCrc]) updated)).epoch = 1 ∧ (groupIn (run (.epochApply 15 [0]) updated)).epoch = 0 ∧
    (groupIn (run (.epochApply 15 [0]) updated)).trial.isSome = true ∧ (groupIn (run (.epochApply 15 [0]) updated)).told = false ∧
    entState (entryAt (groupIn (run (.epochApply 15 [updatedCrc]) updated)) 1 47) = 1 := by decide +kernel
/-- A sum of one F32 at 0x200000 to 0x200040, marks at 0x200080, descriptor at 0x2000C0; rank 0 has children 1 and 2. -/
def coll3 (rank ph : Nat) : Coll :=
  { descColl [] cgroupReset 0x2000C0 0 0 0 0 16 0x10000#64 with
    gid := 15, size := 3, agreed := if ph = 1 then [0, 2] else [], rank := rank, src := 0x200000, dst := 0x200040, mrk := 0x200080, len := 4, trees := [[⟨0, 0, 1⟩, ⟨1, 0, 2⟩]]
    chunks := ⟨[(0, ⟨0, ph, amEmpty, none⟩)]⟩, stopped := false }
def colls (c : Coll) : State :=
  hub (fun h => { h with colls := ⟨[(9, c)]⟩, groups := ⟨[(15, { cgroupReset with en := true, gm1 := 2, rdy := true })]⟩ }) { mapped svc with
    mem := memPutAll (mapped svc).mem 0x200000 (bytesOf 4 0x3F800000) }
theorem witness_collective_progress : chunkCount (coll3 0 0) = 1 ∧ (chunkOf (coll3 0 0) 0).phase = 0 ∧ childrenOf (treeOf (coll3 0 0) 0) 0 0 = [1, 2] ∧ chunkLen (coll3 0 0) 0 = 4 ∧
    amGet (chunkOf (coll3 0 0) 0).parts 2 = none ∧ (match takeResult (colls (coll3 1 1)) (coll3 1 1) 0 (bytesOf 4 7) with
      | .ok _ => true
      | _ => false) = true ∧ (chunkOf (coll3 1 1) 0).root = 0 := by decide +kernel
/-- 1.0 + 2.0 + 0.5 = 3.5 (R330), held by the root; a result lands at DST with mark 3; a status ends it. -/
theorem test_collective_progress : ((getColl (run (.chunkPartial 9 0 2 (bytesOf 4 0x3F000000)) (run (.chunkPartial 9 0 1 (bytesOf 4 0x40000000)) (colls (coll3 0 0)))) 9).bind
      (fun c => (chunkOf c 0).held)) = some (bytesOf 4 0x40600000) ∧
    readPAn (run (.chunkResult 9 0 (bytesOf 4 7)) (colls (coll3 1 1))) 0x200040 4 = 7 ∧ readPAn (run (.chunkResult 9 0 (bytesOf 4 7)) (colls (coll3 1 1))) 0x200080 1 = 3 ∧
    ((getColl (run (.memberStatus 9 2 5 0#64) (colls (coll3 0 0))) 9).map (fun c => (c.ended, field 63 56 c.word5))) = some (true, 5) ∧
    ((getColl (run (.memberStatus 9 2 0 (BitVec.ofNat 64 (parameters (coll3 0 0)))) (colls (coll3 0 0))) 9).map (fun c => (c.ended, c.agreed))) = some (false, [2]) ∧
    ((getColl (run (.memberStatus 9 2 0 0#64) (colls (coll3 0 0))) 9).map (fun c => (c.ended, field 63 56 c.word5))) = some (true, 1) ∧
    ((getColl (run (.doneReport 9 2) (colls (coll3 0 0))) 9).map (·.doneKids)) = some [2] ∧
    ((getColl (run (.groupDisable 15 0#64) (colls (coll3 0 0))) 9).map (·.ended)) = some true ∧
    ((getColl (run (.markExchange 9 1 [3]) (colls { coll3 0 0 with newTrees := some [], stopped := true })) 9).map (fun c => (amGet c.marks 1, c.stopped))) = some (some [3], true) := by
  decide +kernel

/-! Bring-up: a firmware image of 16 bytes with security version 5, its key's digest in the fuses, signed by a key of this test. -/

def firmware : List Byte := bytesOf 208 0xf0e0d0c0b0a090807060504030201006a021492ac81b82df6577999b40ee71faa0f94de3d00f1773b273a93366afdbff4d86f2b5ff22c84c9233f21b3a5b74050615bd8d3ab6bdf67385ea5da73b28300000000000000000000000000000000000000000000000000000000000000000000000000000000000000000000000058a8f7092da125dc02e7828385ade3bbc9f0e81df537cc7a918b8aca7a0f52dd4c71fa6dd7b0e7f8d25bd25707ebad24f5d08e11537eba5b2804498c753e1c47000000100000000500000001314d4657
def keyDigest : List Byte := bytesOf 32 0xd0e6a114ad3873c6f2a387433cc68d96129a462e8f989ad301648e6a4183d2b3
/-- FIPS 180-4's example: the digest of "abc". -/
theorem test_sha256 : sha256 [0x61#8, 0x62#8, 0x63#8] = beBytes 32 0xba7816bf8f01cfea414140de5dae2223b00361a396177a9cb410ff61f20015ad := by decide +kernel
def booting (a b : List Byte) : State := hub (fun h => { h with boot := .verifying, fuseKey := keyDigest, slotA := a, slotB := b, fuseMin := 3 }) State.reset
theorem witness_image : imgCheck (booting [] []).hub firmware = 0 ∧ imgCheck (booting [] []).hub [] = 1 ∧
    imgCheck { (booting [] []).hub with fuseMin := 6 } firmware = 4 ∧ imgCheck { (booting [] []).hub with fuseKey := [] } firmware = 2 ∧
    imgCheck (booting [] []).hub (firmware.take 207 ++ [0#8]) = 3 := by decide +kernel
theorem test_boot : (run .bootVerify State.reset).hub.boot = .verifying ∧ (run .bootVerify (booting firmware [])).hub.fuseMin = 5 ∧
    (run .bootVerify (booting [] firmware)).hub.berr = 1 ∧ (run .bootVerify (booting [] firmware)).hub.fw = true ∧ (run .bootVerify (booting [] [])).hub.boot = .locked := by
  decide +kernel
def training (b : Boot) (ended : Nat) : State := hub (fun h => { h with boot := b, fw := true, ended := ended }) State.reset
theorem test_training : (run (.dieTrainingEnd 0 true) (training .verifying 0)).hub.boot = .die0 ∧ (run (.dieTrainingEnd 11 false) (training .die0 1)).hub.berr = 3 ∧
    (run .clockSwitch (training .die0 4095)).hub.boot = .full ∧ (run .clockSwitch (training .die0 4094)).hub.boot = .die0 ∧
    (getPart (run .clockSwitch (hub (fun h => { h with parts := ⟨[(15, { partitionReset with pctl := 0xFFF0000#64 })]⟩ }) (training .die0 4095))) 15).pctl = 0xFFE0000#64 ∧
    (run .packageReset (training .full 4095)).hub.boot = .reset := by decide +kernel
theorem test_attestation : (run (.getCertificate 1) svc).hub.responses = [[]] ∧ (logBytes svc.hub).length = 1024 := by decide +kernel
theorem test_soft_errors : paBad (run (.patrol 1 8192 true) svc) 8192 4 = true ∧ granBad (getTile (run (.patrol 3 ((3071 * 32 + 31) * 4096 + 4095) true) svc) 3071 31) 4095 = true ∧
    (run (.patrol 1 8192 false) svc).bad = svc.bad := by decide +kernel
/-- 2^20 cycles have passed. -/
def stepped (n : Nat) : State := hub (fun h => { h with steps := ⟨[(11, n)]⟩ }) { svc with cycles := vec16Fill (2 ^ 20) }
def removing : State := hub (fun h => { h with powerOffAt := some 0 }) svc
theorem test_power : amGetD (run (.powerMeasurement 11 1101 0) (stepped 3)).hub.steps 11 0 = 4 ∧ amGetD (run (.powerMeasurement 11 1101 0) (stepped 4)).hub.steps 11 0 = 4 ∧
    amGetD (run (.powerMeasurement 11 999 89) (stepped 1)).hub.steps 11 0 = 0 ∧ amGetD (run (.powerMeasurement 11 999 90) (stepped 1)).hub.steps 11 0 = 1 ∧
    (run (.powerMeasurement 11 0 105) (stepped 0)).hub.powerOffAt = some (2 ^ 20 + 65536) ∧ (run (.powerMeasurement 11 0 105) svc).hub.powerOffAt = none ∧ (run .powerRemoval removing).hub.off = true := by decide +kernel

/-! The machine as a whole. A core at 0x100 of a cached page, its word there; the moves are named by the agenda. -/

def moving (t : Turn) (s : State) : State := { s with agenda := [⟨vec16Fill 3, t⟩] }
def coreAt (w : W32) : State := moving (.core 0) { core0 with mem := memPutAll core0.mem 0x2100 (bytesOf 4 w.toNat) }
/-- The group of the core that issues and the state in which it does. -/
def issued (s : State) : State := issueAt (wakeCore (ageCore (acting s) 0) 0) 0 0
theorem witness_core_step : (coreAt 0x04A0FFFF#32).hub.off = false ∧ (nextMove (coreAt 0x04A0FFFF#32)).turn = .core 0 ∧
    coreActive (acting (coreAt 0x04A0FFFF#32)) 0 = true ∧ chooseGroup (getCl (wakeCore (ageCore (acting (coreAt 0x04A0FFFF#32)) 0) 0) 0).core = some 0 ∧
    (getCl (acting (coreAt 0x04A0FFFF#32)) 0).core.issuedAt = none ∧
    eventReady (getCl (issued (coreAt 0x04A0FFFF#32)) 0).core 0 = false := by decide +kernel
theorem witness_core_fetch : (curGrp (issued (coreAt 0x04A0FFFF#32))).asid = 0 ∧ (curGrp (issued (coreAt 0x04A0FFFF#32))).pc = 0x100#52 ∧
    translate (issued (coreAt 0x04A0FFFF#32)) 0 0 0x100 4 = .hit 0x2100 ∧
    BitVec.ofNat 32 (natOfBytes ((List.range 4).map (fun k => (issued (coreAt 0x04A0FFFF#32)).seen 0 (0x2100 + k)))) = 0x04A0FFFF#32 := by decide +kernel
theorem witness_core_words : (coreRow 0x04A0FFFF#32).isSome = true ∧ coreRow 0x2C000000#32 = none := by decide +kernel
theorem witness_event_step : let s := moving (.core 0) { pending with cur := pending.cur }
    (nextMove s).turn = .core 0 ∧ coreActive (acting s) 0 = true ∧ (getCl (modCore s 0 (fun c => { c with fgrp := 0 })) 0).core.events ≠ [] ∧
    eventReady (getCl (issued (moving (.core 0) (modCore pending 0 (fun c => { c with fgrp := 0 })))) 0).core 0 = true := by decide +kernel
/-- `addi x5, x0, -1` runs as the step's instruction; the word 0x2C000000 traps with subcode 1. -/
theorem test_step_core : xget (curGrp (after (step (coreAt 0x04A0FFFF#32)) core0)) 5#5 = -1#64 ∧
    (curGrp (after (step (coreAt 0x2C000000#32)) core0)).cause = 0x104#64 := by decide +kernel

def addSlotWord : W64 := 0x80000044015853FD#64
def elemAt : State := moving (.element 0 0) (modEl fab 0 0 (fun e => { e with slots := vec16Set e.slots 5 addSlotWord }))
theorem witness_element_step : elemAt.hub.off = false ∧ (nextMove elemAt).turn = .element 0 0 ∧
    pickSlot (raiseBadHeads (acting elemAt) 0 0) 0 0 = some 5 ∧ (decodeSlot (vec16Get (getEl elemAt 0 0).slots 5)).isSome = true := by decide +kernel
theorem test_step_element : ((getChan (after (step elemAt) fab) 0 2).map (fun c => c.out.map (fun f => laneOf f.tok 3))) = some [100#32] ∧
    ((getChan (after (step elemAt) fab) 0 0).map (fun c => c.branches.map (fun b => b.buf.map (fun f => laneOf f.tok 0)))) = some [[200#32]] := by
  decide +kernel

def patAt : State := moving (.bramble 0 3) { fab with clusters := (modCtx fab 0 3 (fun _ => { ctx0 with ip := 0 })).clusters }
theorem witness_bramble_step : (nextMove patAt).turn = .bramble 0 3 ∧ ((getCtx patAt 0 3).run.any (fun b => decide (b.words[(getCtx patAt 0 3).ip]? = some 0x70000000#32))) = true ∧
    (getCtx patAt 0 3).finished = false ∧ (getCtx patAt 0 3).out = [] ∧ (spanAt patAt 0).any (fun p => spanActive p.2) = true ∧
    (decodePattern 0x70000000#32).isSome = true := by decide +kernel
theorem test_step_bramble : (getCtx (after (step patAt) fab) 0 3).finished = true := by decide +kernel

def darkAt (t : Turn) : State := { moving t core0 with hub := { core0.hub with off := true } }
theorem witness_off : (darkAt (.core 0)).hub.off = true ∧ (nextMove (darkAt (.core 0))).turn ≠ .event .packageReset ∧
    (nextMove (darkAt (.event .packageReset))).turn = .event .packageReset ∧ isEvent .packageReset = true := by decide +kernel
theorem witness_memory_form : Memory.wf (coreAt 0x04A0FFFF#32).mem = true ∧ isNext (step (coreAt 0x04A0FFFF#32)) = true := by decide +kernel

/-- Groups 1 and 2 Ready at class 2, group 3 Ready at class 1; group 1 issued last at class 2. -/
def threeReady : Core :=
  let g := fun c => { groupReset with st := .ready, base := c }
  { (getCl core0 0).core with lastIssued := vec4Fill 1, grp := vec4Of (fun i => if i = 3 then g 1 else if i = 0 then groupReset else g 2) 0 }
theorem test_issue_order : chooseGroup threeReady = some 2 ∧ effClass threeReady 2 = 2 ∧
    chooseGroup { threeReady with lastIssued := vec4Fill 2 } = some 1 := by decide +kernel
/-- Without a fold, slots 3 and 5 are eligible; with one, slot 5 belongs to share 1, whose credit is the greater. -/
def twoSlots : State := modEl fab 0 0 (fun e => { e with slots := vec16Set (vec16Set e.slots 5 addSlotWord) 3 addSlotWord })
def folded (c0 c1 : Int) : State :=
  modEl twoSlots 0 0 (fun e => { e with sh1 := some e.sh0, split := 4, foot := List.replicate 6 0, credit0 := c0, credit1 := c1 })
theorem test_pick : pickSlot twoSlots 0 0 = some 3 ∧ slotEligible twoSlots 0 0 5 = true ∧ pickSlot (folded 0 1) 0 0 = some 5 ∧
    pickSlot (folded 1 1) 0 0 = some 3 ∧ slotEligible (folded 0 1) 0 0 3 = true := by decide +kernel

/-- ADD.I32 and ADDI.I32 fire with a predicate write and a pop. -/
def pwSlot : Slot := { popSlot with pw := 5#5 }
theorem witness_frame : (slotInstr 0x00 pwSlot).isSome = true ∧ (fireEnv fab 0x00 pwSlot).any (fun v => hasPw (shapeV v) && decide (v.vl ≤ 8)
      && decide (codeA v = some (.pop 0))) = true ∧ isNext (exec (.addI32 pwSlot) fab) = true ∧
    (getLoad fab 0).any (fun l => decide (findIn l ⟨.element 0 0, 0, false⟩ = some (0, 0))) = true := by decide +kernel
theorem test_predicate_write : vec8Get (getEl (after (exec (.addI32 pwSlot) fab) fab) 0 0).preds 1 = 0xFF#8 := by decide +kernel
/-- The instructions that may store, and one that may not, complete. -/
theorem witness_memory_writers : mayStore (.addi 5#5 0#5 1#16) = false ∧ isNext (exec (.addi 5#5 0#5 1#16) core0) = true ∧
    (∀ i ∈ [Instr.strm 1#5 2#5, .mcast 1#5 2#5, .patld 1#5 2#5, .invr 5#5 1#5 2#5, .fence 0#1 0#3, .stl 0#5 0#5 0#3 0#1,
      .patrol 0 0 false, .islandArray 0 0, .tokenArrival 0 2 0 false], isNext (exec i core0) = true) := by decide +kernel
theorem test_fence_stores : readPAn (after (exec (.fence 0#1 0#3) twoStores) twoStores) 8192 8 = 0xF1E20002B5A69788
    ∨ readPAn (after (exec (.fence 0#1 0#3) twoStores) twoStores) 8192 8 = 0xF1E2000200000001 := by decide +kernel
theorem witness_core_frame : core0.cur.grp < 4 ∧ (encodeCore (.coreTrap 0#5 7#16)).isSome = true ∧ isNext (exec (.coreTrap 0#5 7#16) core0) = true ∧
    (encodeCore (.syw 1#5 5#12)).isSome = true ∧ (encodeCore .eret).isSome = true ∧ isNext (exec .eret (mode1 core0)) = true := by decide +kernel

/-- A token of i1 ends its stream; that of i0 does not. -/
def endToken : Token := tok 7 (mkHdr 2 false true false 8 3 9)
def fabEnd : State := { fab with spans := ⟨[(0, { span0 with load := some { load0 with
  chans := listMap (chans.set 1 (chan 1 false (at' 1 1 false) [branch (at' 0 1 false) [endToken]])) } })]⟩ }
theorem witness_headers : ∀ F ∈ laneForms, (fireEnv fabEnd F.op popSlot).any (fun v =>
    decide (destOf v.w.d = .o 0) && (outAt fabEnd v.sp v.rel v.el 0 false).isSome) = true := by decide +kernel
/-- R76, R77: MUL.F32 emits FMT 1 with LS of either input, the TAG of A, and its SEQ where the
channel is ordered; the flag is set, and with TM the element faults. -/
theorem test_headers : ((getChan (after (exec (.mulF32 popSlot) fabEnd) fab) 0 2).map (fun c => c.out.map (fun f => f.tok.hdr))) =
      some [mkHdr 1 false true false 8 0 0] ∧
    ((getChan (after (exec (.mulF32 popSlot) (modChan fabEnd 0 2 (fun c => { c with ord := true }))) fab) 0 2).map (fun c => c.out.map (fun f => f.tok.hdr))) =
      some [mkHdr 1 false true false 8 0 5] ∧ (getEl (after (exec (.mulF32 popSlot) fabEnd) fab) 0 0).sh0.mismatch = true ∧
    (getEl (after (exec (.mulF32 popSlot) (modEl fabEnd 0 0 (fun e => { e with attr := 1#32 }))) fab) 0 0).fault = some ⟨5, 0, 0, 0⟩ := by decide +kernel

/-! States that meet the further hypotheses of the statements. -/

theorem witness_memory_states : ∀ s ∈ [core0, twoStores, engines, queued (entry .load false 8192 false []), filled (genHas [] (some ⟨putReq, 0, []⟩)),
    portHas 1 [tok 30 hdr8] [stOf 1], filling, coreAt 0x04A0FFFF#32], s.memOk := by
  unfold State.memOk; decide +kernel

/-! Access traps: at 4,096 the cached page gives no permission. -/

theorem witness_access_traps : (∀ p ∈ accessForms (setX 1#5 4096 core0) 5#5 1#5 2#5 4#3 0#13 0#2 1#1,
    translate core0 0 0 p.2.1 p.2.2 = .fault 2) ∧ translate core0 0 0 4096 2 = .fault 2 ∧ (5#3).toNat = 5 ∧ (4#3).toNat < 5 := by decide +kernel
theorem test_access_traps : ∀ i ∈ [Instr.lda 5#5 1#5 0#3 0#1, .stl 1#5 2#5 4#3 1#1, .amoCas 5#5 1#5 2#5 3#3 3#2 1#1],
    (curGrp (after (exec i (setX 1#5 4096 core0)) core0)).cause = 2#64 ∧ (curGrp (after (exec i (setX 1#5 4096 core0)) core0)).tval = 4096#64 := by
  decide +kernel
/-- A release before an acquire: the LDA performs the STL before its data arrive (R236). -/
theorem test_release_before_acquire : readPAn (after (exec (.coreAccessPerformed 0 0 1) (after (exec (.lda 5#5 0#5 3#3 0#1)
      (modGrp core0 0 0 (fun g => { g with stores := [⟨8256, bytesOf 4 1, page0 3, true⟩] }))) core0)) core0) 8256 4 = 1 := by decide +kernel
/-- A store at cluster scope is seen by its cluster, and by the package only after a release (R224, R232). -/
noncomputable def nearStore : State := after (exec (.coreAccessPerformed 0 0 0) (modGrp core0 0 0 (fun g => { g with stores := [⟨8256, bytesOf 4 7, page0 0, false⟩] }))) core0
theorem test_scopes_of_stores : nearStore.seen 0 8256 = 7#8 ∧ nearStore.seen 1 8256 = 0#8 ∧ nearStore.byte 8256 = 0#8 ∧
    (releaseCur nearStore 3).byte 8256 = 7#8 ∧ (releaseCur nearStore 3).hostByte 8256 = 0#8 ∧ (releaseCur nearStore 4).hostByte 8256 = 7#8 := by
  decide +kernel

/-! Merges: MRG takes i0 at control bit 1 of B = 3 only where it is the higher; MRGU goes on after the arm taken last. -/

theorem witness_merge_choice : (fireEnv fab 0xC6 mrgSlot).any (fun v => decide (vec4Get v.ctl 0 = some true) && decide (mergeArm v = some 1)) = true ∧
    (fireEnv fab 0xC7 mrgSlot).any (fun v => decide (physIn v (vec16Get v.e.arms v.slotNo) = 0) && decide (mergeArm v = some 1)) = true := by decide +kernel
/-- DELTA of a group that equals the last one sends nothing. -/
theorem witness_delta_empty : (fireEnv (modEl fab 0 0 (fun e => { e with sh0 := { e.sh0 with dth := 0x7F7FFFFF#32 } })) 0xCE popSlot).any
    (fun v => ((List.range v.vl).filter (deltaSent v)).isEmpty) = true := by decide +kernel

/-! Special functions at the ends of their clauses. -/

theorem realOf_normal (x : W32) (h : negative x = false) (e : expOf x ≠ 0) : realOf x = (2 ^ 23 + (fracOf x : ℝ)) * 2 ^ ((expOf x : ℤ) - 150) := by
  simp [realOf, h, e]
theorem realOf_minus (x : W32) (h : negative x = true) (e : expOf x ≠ 0) : realOf x = -((2 ^ 23 + (fracOf x : ℝ)) * 2 ^ ((expOf x : ℤ) - 150)) := by
  simp [realOf, h, e]
theorem ordinary_of {F : SpecialForm} {x : W32} (e : expOf x < 255) (p : x ≠ 0#32) (m : x ≠ 0x80000000#32) (h : F.noNeg = true → negative x = false) : Ordinary F x :=
  ⟨e, p, m, h⟩
/-- 128, 127, 9.5, 18 and 2^−13 are ordinary inputs of every function; −150, −149 and −104 of those that take negative ones. -/
theorem witness_special_functions : (∀ F : SpecialForm, Ordinary F 0x43000000#32 ∧ Ordinary F 0x42FE0000#32 ∧ Ordinary F 0x41180000#32 ∧ Ordinary F 0x41900000#32 ∧
      Ordinary F 0x39000000#32 ∧ (F.noNeg = false → Ordinary F 0xC3160000#32 ∧ Ordinary F 0xC3150000#32 ∧ Ordinary F 0xC2D00000#32)) ∧
    realOf 0x43000000#32 = 128 ∧ realOf 0x42FE0000#32 = 127 ∧ realOf 0x41180000#32 = 9.5 ∧ realOf 0x41900000#32 = 18 ∧ |realOf 0x39000000#32| < 2 ^ (-12 : ℤ) ∧
    realOf 0xC3160000#32 = -150 ∧ realOf 0xC3150000#32 = -149 ∧ realOf 0xC2D00000#32 = -104 ∧ realOf 0x39000000#32 = 2 ^ (-13 : ℤ) := by
  refine ⟨fun F => ⟨ordinary_of (by decide) (by decide) (by decide) (fun _ => by decide), ordinary_of (by decide) (by decide) (by decide) (fun _ => by decide),
    ordinary_of (by decide) (by decide) (by decide) (fun _ => by decide), ordinary_of (by decide) (by decide) (by decide) (fun _ => by decide),
    ordinary_of (by decide) (by decide) (by decide) (fun _ => by decide), fun n => ⟨ordinary_of (by decide) (by decide) (by decide) (fun h => by rw [n] at h; cases h),
      ordinary_of (by decide) (by decide) (by decide) (fun h => by rw [n] at h; cases h), ordinary_of (by decide) (by decide) (by decide) (fun h => by rw [n] at h; cases h)⟩⟩,
    ?_, ?_, ?_, ?_, ?_, ?_, ?_, ?_, ?_⟩
  · rw [realOf_normal _ (by decide) (by decide)]; norm_num [fracOf, expOf]
  · rw [realOf_normal _ (by decide) (by decide)]; norm_num [fracOf, expOf]
  · rw [realOf_normal _ (by decide) (by decide)]; norm_num [fracOf, expOf]
  · rw [realOf_normal _ (by decide) (by decide)]; norm_num [fracOf, expOf]
  · rw [realOf_normal _ (by decide) (by decide)]; norm_num [fracOf, expOf]
  · rw [realOf_minus _ (by decide) (by decide)]; norm_num [fracOf, expOf]
  · rw [realOf_minus _ (by decide) (by decide)]; norm_num [fracOf, expOf]
  · rw [realOf_minus _ (by decide) (by decide)]; norm_num [fracOf, expOf]
  · rw [realOf_normal _ (by decide) (by decide)]; norm_num [fracOf, expOf]
/-- 1/√4 = 1/2, and 1/3 rounds up in its last bit (R130). -/
theorem test_special_functions : rsqF32 0x40800000#32 = 0x3F000000#32 ∧ rcpF32 0x40400000#32 = 0x3EAAAAAB#32 := by
  decide +kernel
/-! CFG: images that break the header's last rule, check 1 in slot 0 of an element, and check 11 on a preloaded token. -/

def badGraph : List Nat := [0x31474643, 1, 0, 0, 0, 64 + 64 * 2 ^ 32, 0, 2 ^ 52]
def badSlot : List Nat := imageWords ++ List.replicate 8 0 ++ [0x8000004401885380]
def badPreset (ln : Nat) : List Nat :=
  [0x31474643, 1 + 2 ^ 32, 1, 0, 0, 64 + 256 * 2 ^ 32, 288, 0] ++ List.replicate 24 0 ++
  [2 ^ 20 * 2 ^ 32, 2 ^ 18 * 2 ^ 32, 0, 0, (mkHdr 0 false false false ln 0 0).toNat * 2 ^ 32, 0, 0, 0, 0]
def reading (ws : List Nat) : State := releaseCur (modCore (withImage ws) 0 (fun c => { c with cfgq := [] })) 3
def headerOf (ws : List Nat) : LdEnd (List Byte) := (rdBytes (reading ws) 0 0 0x400 64).res
def imageOf (ws : List Nat) : LdEnd Image := (readImage (reading ws) bare 0 0 0x400).res
theorem witness_bad_header : headerOf badGraph = .ok (badGraph.flatMap (bytesOf 8)) ∧ 56 ∈ headerOffsets ∧
    ¬ HeaderRule bare (badGraph.flatMap (bytesOf 8)) 56 ∧ ∀ o ∈ headerOffsets, o < 56 → HeaderRule bare (badGraph.flatMap (bytesOf 8)) o := by
  refine ⟨by decide +kernel, by decide, fun h => ?_, ?_⟩
  · exact absurd (h.2.2.2.2.2.2 rfl).1 (by decide +kernel)
  · simp only [headerOffsets, List.forall_mem_cons, List.not_mem_nil, false_imp_iff, implies_true, and_true]
    refine ⟨fun _ => ?_, fun _ => ?_, fun _ => ?_, fun _ => ?_, fun _ => ?_, fun _ => ?_, fun h => absurd h (by decide)⟩ <;> simp only [HeaderRule] <;> decide +kernel
/-- The element record of `badSlot` breaks check 1 at slot 0; the records of `badPreset` break no check of an element. -/
theorem witness_bad_slot : (match imageOf badSlot with
      | .ok im => decide (im.els.length = 1) && im.els.all (fun e => (slotOf (vec16Get e.slots 0)).valid && decide (shapeOf (slotOpOf (vec16Get e.slots 0)) = none))
      | _ => false) = true := by decide +kernel
theorem slot_breaks (die0 : Bool) (im : Image) (e : ImgEl) (hv : (slotOf (vec16Get e.slots 0)).valid = true) (hs : shapeOf (slotOpOf (vec16Get e.slots 0)) = none) :
    ElementBreaks die0 im e 1 0 := by
  refine .inl ⟨by decide, ⟨hv, hs, fun j hj => ?_⟩, fun m hm => absurd hm (by omega)⟩
  have : j = 0 := by omega
  subst this
  exact id
theorem empty_element_passes (die0 : Bool) (im : Image) (e : ImgEl) (hs : ∀ n, n < 16 → vec16Get e.slots n = 0#64) (ha : e.attr = 0#32)
    (ht : ¬ TemplatesBreak e) : ElementPasses die0 im e := by
  have v : ∀ n, n < 16 → (slotOf (vec16Get e.slots n)).valid = false := fun n hn => by rw [hs n hn]; decide
  rintro k n (⟨hn, ⟨h, -, -⟩, -⟩ | ⟨-, ⟨-, hn, h, -⟩ | ⟨-, -, h, -⟩⟩)
  · rw [v n hn] at h; cases h
  · rcases h with ⟨h, -⟩ | ⟨h, -⟩ <;> rw [ha] at h <;> simp [bitAt] at h
  · exact ht h
theorem witness_preset : (∀ ln ∈ [8, 9], (match imageOf (badPreset ln) with
      | .ok im => decide (im.pres.map (fun p => (p.1, hdrLN p.2.hdr)) = [(0, ln)]) && decide (im.routes.map (fun r => (r.num, r.ctl)) = [(0, false)]) &&
          im.els.all (fun e => decide ((List.range 16).all (fun n => vec16Get e.slots n = 0#64)) && decide (e.attr = 0#32)) &&
          decide (checkTracks bare im = none) && decide (check13 im = none) && (match placeQueues im [] im.routes with
            | .ok _ => true
            | _ => false)
      | _ => false) = true) := by decide +kernel
theorem test_configure_checks : (curGrp (after (exec (.cfg 5#5 1#5) (withImage badGraph)) core0)).cause = 0xE03#64 ∧
    (curGrp (after (exec (.cfg 5#5 1#5) (withImage badGraph)) core0)).tval = 0x438#64 ∧
    (curGrp (after (exec (.cfg 5#5 1#5) (withImage badSlot)) core0)).cause = 0x103#64 ∧ (curGrp (after (exec (.cfg 5#5 1#5) (withImage badSlot)) core0)).tval = 0#64 ∧
    (curGrp (after (exec (.cfg 5#5 1#5) (withImage (badPreset 9))) core0)).cause = 0xB03#64 ∧ regOf (.cfg 5#5 1#5) (withImage (badPreset 8)) 5#5 = 1#64 := by
  decide +kernel


/-! The fabric, the hub and the fleet. -/

/-- Tokens arrive one a cycle at a port (R23). -/
theorem witness_arrival_cycle : (∀ o ∈ [true, false], (branchIn (travelling o) 0 2 0).any (fun b => decide (b.rlen = 0 ∧ b.arrAt ≠ some 100 ∧ b.flight.length ≤ b.replay.length)) = true) ∧
    spanNow (travelling true) 0 = 100 := by decide +kernel
theorem test_arrival_cycle : (branchIn (run (.tokenArrival 0 2 0 false) (travelling true)) 0 2 0).map (·.arrAt) = some (some 100) ∧
    bufOf (run (.tokenArrival 0 2 0 false) (run (.tokenArrival 0 2 0 false) (travelling true))) 2 = [tok 5 hdr8] := by decide +kernel
/-- A WRITE that ends, whose one word's granule is whole; a READ and a PUT of one granule. -/
theorem witness_generator_words : field 4 3 (laneOf (genReq 1) 7) = 0 ∧ reqCount (genReq 2) = 9 ∧ reqOpx putReq = 5 ∧
    (match engWords busy 0 0 2 none (wordsFrom (moveVA putReq 0) 4) with
      | .ok l => decide (l = [8256, 8260, 8264, 8268])
      | _ => false) = true := by decide +kernel
/-- A drain that moves nothing (IXE of no entry). -/
def emptyDrain : Stream := { stOf 1 with words := ((scbOf 1 0).set 1 (BitVec.ofNat 64 (2 ^ 52))).set 2 0#64 }
theorem witness_transfer_granules : (∀ d ∈ [0, 8], xferCount (xfer 4 d) = 9) ∧ xferVA (xfer 4 0) 8 % 16 = 0 ∧ visitX emptyDrain = 0 := by decide +kernel
theorem test_empty_drain : (getPort (run (.feedToken 0 1) (portHas 1 [] [emptyDrain])) 0 1).q.map (·.fin) = [true] := by decide +kernel
theorem witness_delivery_words : (match engWords filling 0 0 1 none (wordsFrom (mcLo 0x90 0) 12) with
      | .ok l => decide (l = (List.range 12).map (fun i => 8336 + 4 * i))
      | _ => false) = true ∧ (mcHi 0x90 64 0 - mcLo 0x90 0) / 4 = 12 := by decide +kernel
/-- Sixteen walks of die 0 that arrived earlier, and none (R375). -/
def manyWalks : State := modCl (walking true) 9 (fun c => { c with walks := (List.range 16).map (fun i => ⟨7, 0x5008, 1, .group 0, i % 3⟩) })
theorem witness_walkers : walksBefore (walking true) 0 3 = 0 ∧ walksBefore manyWalks 0 3 = 16 := by decide +kernel
theorem test_walkers : (getCl (run (.walk 0 0) manyWalks) 0).walks.length = 1 ∧ (getCl (run (.walk 0 0) (walking true)) 0).walks = [] := by decide +kernel
/-- A record whose ASID the partition does not own is refused with ERR at its start (R361). -/
theorem test_launch_asid : (getSpan (run (.dispatch 0) (modPart svc 0 (fun p => { p with pool := [entryOf 0] }))) 0).isNone = true := by decide +kernel
/-- The area of span 5 whose element 3 has an access that is not performed: CTXSV waits and the span is Saving (R391). -/
def unsettled : State := modEl spanArea 4 3 (fun x => { x with rq := [entry .load false 8192 false []] })
theorem witness_unsettled : (getSpan unsettled 5).any (fun x => !spanSettled (releaseCur unsettled 3) x) = true := by decide +kernel
theorem test_unsettled : spanSettled (svcSpan .saving) { span1 .running with clusters := [4] } = true ∧
    (getSpan (run (.vfReset 1) unsettled) 5).isNone = true := by decide +kernel
/-- The second CRC that differs begins the epoch and ends the group's collectives with status 4 (R324). -/
def differing : State :=
  { hub (fun h => { h with groups := ⟨[(15, { groupIn updated with trial := some amEmpty, updates := [] })]⟩ }) (colls { coll3 0 0 with desc := 0x2000C0 }) with
    cycles := vec16Fill 40000 }
theorem witness_trial : (groupIn differing).trial ≠ none ∧ (groupIn differing).en = true ∧ (groupIn differing).told = true ∧
    (groupIn differing).firstAt + 30000 < hubNow differing := by decide +kernel
theorem test_second_mismatch : (groupIn (run (.epochApply 15 [0]) differing)).epoch = 1 ∧
    ((getColl (run (.epochApply 15 [0]) differing) 9).map (fun c => (c.ended, field 63 56 c.word5))) = some (true, 4) := by decide +kernel
theorem witness_group_ends : runningColls (colls (coll3 0 0)) 15 = [9] ∧ (match hubBytes (colls (coll3 0 0)) 0 0x10000#64 16 2 16 (0x2000C0 + 40) with
      | .ok l => decide (l.length = 16)
      | _ => false) = true := by decide +kernel
theorem test_group_ends : ((getColl (run (.groupDisable 15 0#64) (colls (coll3 0 0))) 9).map (fun c => field 63 56 c.word5)) = some 2 := by decide +kernel
/-- The fleet ring enabled and empty: a multi-bit error of a tile is counted at its cluster and writes a record (R414, R419). -/
def ringing : State :=
  modCl (hub (fun h => { h with frctl := 0x8000000000000000#64, frbase := 0x300000#64 }) svc) 3071 (fun c => { c with counters := vec8Set c.counters 0 ⟨0x6010, 1#64, none, none⟩ })
theorem test_ring : (run (.patrol 3 ((3071 * 32 + 31) * 4096) true) ringing).hub.frtail = 1 ∧
    (vec8Get (getCl (run (.patrol 3 ((3071 * 32 + 31) * 4096) true) ringing) 3071).counters 0).val = 2#64 := by decide +kernel
/-- A core that has issued in this cycle does not issue again (R166). -/
def issuedNow : State := { modCore (coreAt 0x04A0FFFF#32) 0 (fun c => { c with issuedAt := some 3 }) with agenda := [⟨vec16Fill 3, .core 0⟩], cycles := vec16Fill 0 }
theorem witness_issued : (getCl (acting issuedNow) 0).core.issuedAt = some (now (acting issuedNow) 0) := by decide +kernel
theorem test_issued : (getGrp (after (step issuedNow) core0) 0 0).pc = 0x100#52 := by decide +kernel

/-! Stores that a part of the package sees, releases, barriers. -/

/-- In the granule at 8192 a byte that cluster 1 alone sees; a store of group 0 there at cluster scope. -/
def hiddenByte : State := { core0 with near := [⟨8196, [5#8], .cluster 1, 0, page0 0⟩] }
theorem witness_hidden : NoneHidden hiddenByte 1 8192 ∧ ¬ NoneHidden hiddenByte 0 8192 ∧ NoneHidden hiddenByte 0 8208 ∧ hiddenByte.memOk ∧ NoneHidden twoStores 0 8192 := by
  unfold State.memOk NoneHidden; decide +kernel
/-- A write to a granule makes visible what the granule held (R228); a load follows its group's stores only. -/
def writerOf (sc : Nat) : State := modGrp hiddenByte 0 0 (fun g => { g with stores := [⟨8192, [1#8], page0 sc, false⟩] })
theorem test_granule_widens : (run (.coreAccessPerformed 0 0 0) (writerOf 3)).byte 8196 = 5#8 ∧ (run (.coreAccessPerformed 0 0 0) (writerOf 0)).seen 0 8196 = 5#8 ∧
    hiddenByte.seen 0 8196 = 0xC4#8 := by decide +kernel
/-- Two stores of cluster 0 in a span of two clusters: released at span scope, cluster 1 sees them and memory does not hold them. -/
def spanStores (sc : Nat) : State :=
  inSpan (span1 .running) (modGrp core0 0 0 (fun g => { g with stores := [⟨8192, bytesOf 4 1, page0 sc, false⟩, ⟨8196, bytesOf 2 2, page0 sc, false⟩] }))
theorem witness_release_scopes : (∀ sc ∈ [1, 3], (instOf (spanStores 0) 0 sc).sees 1 = true) ∧ (instOf (spanStores 0) 0 0).sees 1 = false := by decide +kernel
theorem test_release_scopes : (releaseCur (spanStores 0) 1).seen 1 8192 = 1#8 ∧ (releaseCur (spanStores 0) 1).byte 8192 = 0x88#8 ∧
    (releaseCur (spanStores 0) 3).byte 8192 = 1#8 ∧ (releaseCur (spanStores 0) 0).seen 1 8192 = 0x88#8 := by decide +kernel
/-- A BAR that a freeze took from barrier 3 of groups 0 and 1, and from cluster barrier 5, before and after the barrier completed. -/
def cutOff (k passed : Bool) (s : State) : State :=
  modGrp s 0 0 (fun g => { g with cut := some ⟨0x100#52, k, if k then 5 else 3, passed⟩, stores := [⟨8192, [1#8], page0 3, false⟩] })
def fullBar : State := cutOff false false (modCore barrier1 0 (fun c => { c with bars := [(3, 3)] }))
def spanBar (n : Nat) : State :=
  modGrp (inSpan { span1 .running with phase := .running, bars := ⟨[(5, ⟨n, [0, 1]⟩)]⟩ } (cutOff true false core0)) 1 2 (fun g => { g with st := .waiting (.barrier true 5), stores := [⟨8200, [9#8], page0 0, false⟩] })
theorem witness_bars : groupBarFull (curCore barrier1) 3 = false ∧ passesCut (curGrp barrier1) = false ∧ coreActive barrier1 0 = true ∧ barrier1.memOk ∧
    passesCut (curGrp (cutOff false true core0)) = true ∧ passesCut (curGrp (cutOff true true barrier2)) = true ∧ groupBarFull (getCl fullBar 0).core 3 = true ∧
    coreActive fullBar 0 = true ∧ cutAt false 3 (getGrp fullBar 0 0) = true ∧ (getGrp fullBar 0 0).st ≠ .waiting (.barrier false 3) := by
  unfold State.memOk; decide +kernel
theorem witness_span_bars : (∀ k ∈ [0, 1], spanAt barrier2 k = some (0, { span1 .running with bars := ⟨[(5, ⟨2, [1]⟩)]⟩ })) ∧ (span1 .running).clusters = [0, 1] ∧ [0, 1].Nodup ∧
    (span1 .running).phase = .running ∧ clusterBarFull { span1 .running with bars := ⟨[(5, ⟨2, [0, 1]⟩)]⟩ } 5 = true ∧
    (∀ k ∈ [0, 1], spanAt (spanBar 2) k = some (0, { span1 .running with bars := ⟨[(5, ⟨2, [0, 1]⟩)]⟩ })) ∧ (spanBar 2).memOk ∧ barrier2.memOk ∧
    NoneHidden (spanBar 2) 0 8200 ∧ NoneHidden (spanBar 2) 1 8200 := by
  unfold State.memOk NoneHidden; decide +kernel
theorem test_cut_bar : (curGrp (run (.barG 3#4) (cutOff false true core0))).pc = 0x104#52 ∧ (curGrp (run (.barrierComplete 0 3 false) fullBar)).pc = 0x100#52 ∧
    passesCut (curGrp (run (.barrierComplete 0 3 false) fullBar)) = true ∧ (run (.barrierComplete 0 3 false) fullBar).seen 0 8192 = 1#8 ∧
    (getGrp (run (.barrierComplete 0 3 false) fullBar) 0 1).st = .ready := by decide +kernel
/-- The completion of the cluster barrier shows the waiter's store to cluster 0 (R234). -/
theorem test_span_bar : (run (.barrierComplete 0 5 true) (spanBar 2)).seen 0 8200 = 9#8 ∧ (getGrp (run (.barrierComplete 0 5 true) (spanBar 2)) 1 2).st = .ready ∧
    (getGrp (run (.barrierComplete 1 5 true) (spanBar 2)) 1 2).pc = 4#52 := by decide +kernel

/-! Vector lengths, events, the move of a core. -/

theorem witness_grant : (fireEnv fab 0x53 popSlot).any (fun v => decide (destOf v.w.d = .o 0) && (outAt fab v.sp v.rel v.el 0 false).isSome) = true ∧
    (fireEnv fab 0x54 { regSlot with d := 20#5 }).any (fun v => decide (destOf v.w.d = .y 0)) = true ∧
    (fireEnv fabWide 0x54 regSlot).any (fun v => decide (v.lg = 2)) = true := by decide +kernel
/-- SETVL of 100 on an output: lanes below 8 carry 8, under LN 8. -/
theorem test_grant : ((getChan (after (exec (.setvl popSlot) fab) fab) 0 2).map (fun c => c.out.map (fun f => (laneOf f.tok 7, hdrLN f.tok.hdr)))) = some [(8#32, 8)] := by
  decide +kernel
/-- The event's group is the one that issues next; another group is; the core has issued already. -/
def eventful : State := modCore pending 0 (fun c => { c with fgrp := 0 })
theorem witness_event_issue : (nextGroup eventful 0).2 = some 0 ∧ (getGrp eventful 0 0).st = .ready ∧ bitAt 0 (getGrp eventful 0 0).status = false ∧
    (nextGroup pending 0).2 ≠ some (getCl pending 0).core.fgrp ∧ (nextGroup (modCore eventful 0 (fun c => { c with issuedAt := some (now eventful 0) })) 0).2 = none := by
  decide +kernel
theorem test_event_issue : (getGrp (run (.eventTaken 0) eventful) 0 0).epc = 0x100#64 ∧ (getCl (run (.eventTaken 0) pending) 0).core.events.length = 1 ∧
    hasIssued (run (.eventTaken 0) eventful) 0 = true := by decide +kernel
/-- A core whose fetch comes through, and one whose cluster's share of 16 is full of answers, whose fetch is deflected (R29, R420). -/
def crowdedCore : State := modEl (coreAt 0x04A0FFFF#32) 0 1 (fun x => { x with rq := [{ packeted true with pkts := List.replicate 16 ⟨2, 3, true⟩ }] })
theorem witness_arrived : arrived (coreAt 0x04A0FFFF#32) = true ∧ arrived crowdedCore = false ∧ arrived (moving (.event (.walk 0 0)) core0) = true := by decide +kernel
theorem test_deflected : (curGrp (after (step crowdedCore) core0)).pc = 0x100#52 ∧ (after (step crowdedCore) core0).net.length = 1 := by decide +kernel
/-- A DCSEL write of this cycle: a CNT that reads and clears gives what the counter held before it (R421). -/
def dcselNow : State := setX 1#5 0 (hub (fun h => { h with dctr := ⟨[(7, ⟨0x5000, 0#64, none, some (0, 1, 9#64)⟩)]⟩ }) (mode1 core0))
theorem witness_counter_order : counterAt (now dcselNow 0) (counterGet dcselNow 0 15) = ⟨1, 9#64, none, some (0, 1, 9#64)⟩ ∧ (counterGet dcselNow 0 15).src = 0x5000 := by
  decide +kernel
theorem test_counter_order : regOf (.cnt 5#5 1#5 3#2 15#6) dcselNow 5#5 = 9#64 ∧ (counterGet (run (.cnt 5#5 1#5 3#2 15#6) dcselNow) 0 15).src = 1 := by decide +kernel

/-! Lines of a pattern, words of pattern streams, granules of streams. -/

theorem witness_lines : Inside ⟨2, 5, 4, 4⟩ 3 5 ∧ pvalOf (modPort (pat id) 0 0 (fun p => { p with q := [{ streamNew 0x200 (List.replicate 8 0#64 ++ [0x13#64, 0#64]) 0 0 2 none with began := true }] })) 0 ctx0 = true
    ∧ (lineFrom g1.set ⟨2, 5, 4, 4⟩ false (3, 5)) = [(3, 5), (3, 6), (3, 7)] ∧ lineFrom g1.set ⟨2, 5, 4, 4⟩ true (2, 8) = [(4, 8), (5, 8)] := by
  unfold Inside; decide +kernel
/-- A context whose coordinate token names ranks 1 and 2; a count token; of a pattern stream with PVAL from 0x80. -/
def valueTok (cnt : Bool) : Token := lanes8 [1, 2] (mkHdr 0 true false false 2 (if cnt then 1 else 0) 0)
def valueState (cnt : Bool) : State :=
  modCtx (poke 0x84 (bytesOf 4 0x55 ++ bytesOf 4 0x66) (portHas 0 [] [{ streamNew 0x200 (scbOf 2 0x13) 0 0 2 none with began := true }])) 0 3 (fun c => { c with out := [valueTok cnt] })
theorem witness_values : scbPVAL { streamNew 0x200 (scbOf 2 0x13) 0 0 2 none with began := true } = true ∧ (getCtx (valueState false) 0 (scbGCTX (scbOf 2 0x13))).out = [valueTok false] ∧
    hdrBUB (valueTok false).hdr = false ∧ hdrTAG (valueTok false).hdr = 0 ∧ hdrTAG (valueTok true).hdr ≠ 0 ∧ hdrLN (valueTok false).hdr = 2 ∧
    portRoom (valueState false) (span1 .running) load1 0 0 = true ∧ (chargeLimiter (valueState false) 0 0 0 1).1 = true ∧
    (match engWords (valueState false) 0 0 1 none [0x84, 0x88] with
      | .ok l => decide (l = [8324, 8328])
      | _ => false) = true ∧ (∀ p ∈ [8324, 8328], paBad (valueState false) p 4 = false) := by decide +kernel
theorem witness_granules : GranulesMatch [0x84, 0x88] [8324, 8328] := by
  intro i j v w p q h1 h2 h3 h4 _
  rcases i with _ | _ | i <;> rcases j with _ | _ | j <;> simp at h1 h2 h3 h4 <;> omega
theorem test_values : (outOf (run (.feedToken 0 0) (valueState false)) 6).map (fun k => (laneOf k 0, laneOf k 1, hdrLN k.hdr, hdrLR k.hdr)) = [(0x55#32, 0x66#32, 2, true)] ∧
    ((getPort (run (.feedToken 0 0) (valueState false)) 0 0).q.map (·.done)) = [2] ∧
    (outOf (run (.feedToken 0 0) (valueState true)) 6).map (fun k => (laneOf k 0, hdrTAG k.hdr)) = [(1#32, 1)] ∧
    ((getPort (run (.feedToken 0 0) (valueState true)) 0 0).q.map (·.done)) = [0] := by decide +kernel
/-- A feed of runs of 6 words: the first token's last granule holds two words of the next; with room for two tokens they are read. -/
def feed6 : Stream := streamNew 0x200 ([BitVec.ofNat 64 (2 ^ 60 * 0 + 0x80), 0#64, 1#64, BitVec.ofNat 64 (4 * 2 ^ 32 + 6), BitVec.ofNat 64 (24 * 2 ^ 32 + 3), 0#64, 0#64, 0#64, 0#64, 0#64]) 0 0 0 none
theorem witness_ahead : (match visitElems (portHas 0 [] [feed6]) 0 1 none [] [] (min 8 (scbN feed6 0 - feed6.i.getD 0 0)) feed6 with
      | .ok els _ st1 => (match feedAhead (portHas 0 [] [feed6]) 0 none els false st1 with
          | .ok more _ _ => decide (els.length = 6 ∧ more.length = 2)
          | _ => false)
      | _ => false) = true ∧ portRoomFor (portHas 0 [] [feed6]) (span1 .running) load1 0 0 2 = true ∧ visitX feed6 ≠ 0 ∧ feed6.hold = [] := by decide +kernel
theorem test_ahead : ((getPort (run (.feedToken 0 0) (portHas 0 [] [feed6])) 0 0).q.map (fun st => (st.done, st.hold.map (·.key)))) = [(6, [6, 7])] := by decide +kernel
/-- A drain's token of six words: the last two wait for the rest of their granule; a PUTS of a token of six lanes likewise (R223). -/
def hdr6 : W32 := mkHdr 0 false false false 6 0 5
theorem witness_held : (match visitElems (portHas 1 [tok 30 hdr6] [stOf 1]) 0 2 none [] ((List.range 6).map (laneOf (tok 30 hdr6))) 6 (stOf 1) with
      | .ok els _ st1 => drainGoesOn st1 (lastRun Prod.fst (laneWords (tok 30 hdr6) els))
      | _ => false) = true ∧ headOf (portHas 1 [tok 30 hdr6] [stOf 1]) 1 = some (tok 30 hdr6) ∧ xferVA (xfer 4 0) 6 % 16 ≠ 0 ∧
    (match engWords busy 0 0 2 none ((List.range 6).map (xferVA (xfer 4 0))) with
      | .ok l => decide (l.length = 6)
      | _ => false) = true := by decide +kernel
theorem test_held : ((getPort (run (.feedToken 0 1) (portHas 1 [tok 30 hdr6] [stOf 1])) 0 1).q.map (fun st => (st.done, st.hold.map (·.word)))) = [(6, [34#32, 35#32])] ∧
    readPAn (run (.feedToken 0 1) (portHas 1 [tok 30 hdr6] [stOf 1])) 8336 4 = 0 ∧ readPAn (run (.feedToken 0 1) (portHas 1 [tok 30 hdr6] [stOf 1])) 8332 4 = 33 := by
  decide +kernel

/-! Response queues, invalidations, the hub. -/

/-- A tagged store that the queue holds leaves like an answer (R135, log 63). -/
def sinkHeld : RqEntry := { entry .store false 8192 true [] with sink := true, held := true }
theorem witness_sink : leaveRoom (queued sinkHeld) (span1 .running) 0 (relOf (span1 .running) 0) 0 sinkHeld = true ∧ (sinkHeld.sink = false ∨ sinkHeld.held = true) := by
  decide +kernel
theorem test_sink : (getEl (run (.responseQueueLeave 0 0) (queued sinkHeld)) 0 0).rq = [] := by decide +kernel
/-- A store that a part of the package sees, made through a removed translation; a partition's invalidation whose span is gone. -/
def nearStale : State := { invals true 0 with near := [⟨8196, [5#8], .cluster 1, 0, ⟨0, 0, 0, 4096, true⟩⟩] }
def droppedInval : State := hub (fun h => { h with invals := [{ inval0 true 0 with dropped := true }], invGo := true }) (invals true 0)
theorem witness_near_stale : (∃ n ∈ nearStale.near, n.via.stale = true) ∧ invalSettled droppedInval { inval0 true 0 with dropped := true } = true := by decide +kernel
theorem test_near_stale : (run .invalidationAck nearStale).hub.invals.length = 1 ∧ (run .invalidationAck droppedInval).hub.invals = [] ∧
    (run .invalidationAck droppedInval).hub.invGo = true ∧ (getGrp (run .invalidationAck droppedInval) 0 0).st = .waiting .invr ∧
    (run .invalidationAck { invals false 0 with near := [⟨8196, [5#8], .cluster 1, 0, page0 0⟩] }).near.map (·.via.stale) = [true] := by decide +kernel
/-- Coherence requests: of a line of device memory, and of one at 6 TiB (log 47). -/
theorem test_coherence : (run (.hostCoherenceRequest 7 true) { svc with dir := ⟨[(7, 4)]⟩ }).dir = ⟨[]⟩ ∧
    (match exec (.hostCoherenceRequest (6 * 2 ^ 34) true) svc with
      | .fault f => decide (f = .noSuchAddress (6 * 2 ^ 40))
      | _ => false) = true := by decide +kernel
/-- Partition 0 owns a quad of die 11 and no slice; RSTA keeps 52 bits (R357). -/
def sliceless : State :=
  modPart svc 0 (fun p => { p with pctl := 0x8000001#64, pqmsk := ⟨[(0, 0xFFFFFFFFFFFFFFFF#64), (11, 1#64)]⟩, pslc := ⟨[]⟩ })
theorem witness_sliceless : bitAt 27 (getPart sliceless 0).pctl = true ∧ bitAt 27 1#64 = false ∧ amGetD (getPart sliceless 0).pqmsk 11 0#64 ≠ 0#64 ∧
    slicesOf (getPart sliceless 0) 11 = [] ∧ sliceless.hub.slices = amEmpty := by decide +kernel
theorem test_partition_writes : (getPart (run (.pctlWrite 0 1#64) sliceless) 0).perr = 4 ∧ (getPart (run (.pctlWrite 0 1#64) sliceless) 0).pctl = 0x8000001#64 ∧
    (getPart (run (.registerWrite 0 0x10418 0xFFF000000000003F#64) svc) 0).rsta = 0x3F#64 := by decide +kernel
/-- A VF has 120 vectors: partition interrupt vector 119 exists, 120 does not (R354). -/
theorem test_vectors : ∀ p ∈ [(119, 1), (120, 0)], (run (.syw 1#5 0x006#12) (setX 1#5 1 (mode1 (modPart core0 0 (fun q => { q with pivec := BitVec.ofNat 64 p.1 }))))).hub.msix.length = p.2 := by
  decide +kernel
/-- A frozen group that waited at a BAR, and what a freeze does with its group's store (R202, R391). -/
theorem witness_thaw_bar : ∃ k i, (getGrp (modGrp (svcSpan .frozen) 0 1 (fun g => { g with st := .frozen (some (.barrier false 3)) })) 0 1).st = .frozen (some (.barrier k i)) := ⟨false, 3, by decide +kernel⟩
theorem test_thaw_bar : (getGrp (run (.spanThaw (preVal 4)) (modGrp (svcSpan .frozen) 0 1 (fun g => { g with st := .frozen (some (.barrier false 3)) }))) 0 1).st = .ready ∧
    (flushCore twoStores 0).byte 8192 = 1#8 ∧ (flushCore twoStores 0).byte 8200 = twoStores.byte 8200 := by decide +kernel
/-- A WRITE from offset 4: its fourth word begins another granule; in a store of one granule its fifth is where the first was. -/
theorem witness_write_ends : storeAddr (BitVec.ofNat 64 storeDesc) (genReq 2) 3 / 16 ≠ storeAddr (BitVec.ofNat 64 storeDesc) (genReq 2) 2 / 16 ∧
    storeAddr (BitVec.ofNat 64 (2 * 2 ^ 62 + 8)) (genReq 2) 4 = storeAddr (BitVec.ofNat 64 (2 * 2 ^ 62 + 8)) (genReq 2) 0 := by decide +kernel

end Sys2Proof.Tests
end

namespace Sys2Proof.Machine
open Sys2Proof

/-- Settles O21: at reset no byte of memory is written and no store is unseen. -/
theorem resetMemoryForm : Obligations.ResetMemoryForm :=
  ⟨rfl, rfl, nofun⟩

theorem resetCore_groups : ∀ g < 4, vec4Get coreReset.grp g = groupReset
  | 0, _ | 1, _ | 2, _ | 3, _ => rfl
theorem vec8Get_fill {α : Type} (x : α) : ∀ k < 8, vec8Get (vec8Fill x) k = x
  | 0, _ | 1, _ | 2, _ | 3, _ | 4, _ | 5, _ | 6, _ | 7, _ => rfl

theorem resetCore_pend : pendOf coreReset = 0 := by decide

theorem queueReset_en : qEN queueReset = false := by decide

/-- Settles O20: the maps of the reset state are empty, so every unit of it reads as its own reset value, and the vectors of a
core repeat one value. -/
theorem resetState : Obligations.ResetState := by
  refine ⟨rfl, rfl, rfl, rfl, rfl, rfl, rfl, fun _ => rfl, fun _ => rfl, fun _ => ⟨rfl, rfl, rfl, fun _ => ⟨rfl, rfl⟩, fun _ => ⟨queueReset_en, rfl⟩⟩,
    fun cl => ⟨rfl, rfl, rfl, rfl, resetCore_pend, rfl, fun k hk => ?_, fun g hg => ?_⟩⟩
  · have hc : vec8Get (getCl State.reset cl).counters k = ⟨0, 0#64, none, none⟩ := vec8Get_fill _ k hk
    exact ⟨congrArg _ hc, congrArg _ hc⟩
  · have hgrp : getGrp State.reset cl g = groupReset := resetCore_groups g hg
    rw [hgrp]
    exact ⟨rfl, rfl⟩
end Sys2Proof.Machine

namespace Sys2Proof.Machine
open Sys2Proof Sys2Proof.Claims

/-! What leaves memory and its scopes alone: one rule per function of the model that returns a state and writes no memory. -/

/-- Memory and what its scopes add to it: all that `State.memOk` speaks of. -/
def State.memParts (s : State) : List Host.Cell × List Near × List Host.Cell := (s.mem, s.near, s.lag)

@[simp] theorem memParts_eta (s : State) : (s.mem, s.near, s.lag) = s.memParts := rfl
@[simp] theorem memParts_mk (cur agenda tick free serial net mem near lag bad dir cycles clusters spans hub) :
    State.memParts ⟨cur, agenda, tick, free, serial, net, mem, near, lag, bad, dir, cycles, clusters, spans, hub⟩ = (mem, near, lag) := (rfl)
@[simp] theorem foldl_memParts {α : Type} {f : State → α → State} (hf : ∀ s a, (f s a).memParts = s.memParts) (l : List α) (s : State) :
    (l.foldl f s).memParts = s.memParts :=
  foldl_inv f (fun t => t.memParts = s.memParts) (fun b a h => (hf b a).trans h) l rfl
@[simp] theorem ite_memParts (c : Prop) [Decidable c] (s t : State) :
    (if c then s else t).memParts = if c then s.memParts else t.memParts := apply_ite State.memParts c s t
@[simp] theorem makeRoom_memParts (s : State) (die i line : Nat) : (makeRoom s die i line).memParts = s.memParts := by simp [makeRoom]
@[simp] theorem dirRead_memParts (s : State) (P : Partition) (die line : Nat) : (dirRead s P die line).memParts = s.memParts :=
  makeRoom_memParts s die _ line
@[simp] theorem dirClear_memParts (s : State) (line : Nat) : (dirClear s line).memParts = s.memParts := by simp [dirClear]
@[simp] theorem modCl_memParts (s : State) (cl : Nat) (f : Cluster → Cluster) : (modCl s cl f).memParts = s.memParts := by simp [modCl]
@[simp] theorem modEl_memParts (s : State) (cl el : Nat) (f : Elem → Elem) : (modEl s cl el f).memParts = s.memParts := by simp [modEl]
@[simp] theorem modTile_memParts (s : State) (cl t : Nat) (f : Tile → Tile) : (modTile s cl t f).memParts = s.memParts := by simp [modTile]
@[simp] theorem modGen_memParts (s : State) (cl t a : Nat) (f : AddrGen → AddrGen) :
    (modGen s cl t a f).memParts = s.memParts := by simp [modGen]
@[simp] theorem modPort_memParts (s : State) (cl p : Nat) (f : SPort → SPort) :
    (modPort s cl p f).memParts = s.memParts := by simp [modPort]
@[simp] theorem modIsland_memParts (s : State) (cl : Nat) (f : Island → Island) :
    (modIsland s cl f).memParts = s.memParts := by simp [modIsland]
@[simp] theorem modCore_memParts (s : State) (cl : Nat) (f : Core → Core) : (modCore s cl f).memParts = s.memParts := by simp [modCore]
@[simp] theorem modGrp_memParts (s : State) (cl g : Nat) (f : Group → Group) : (modGrp s cl g f).memParts = s.memParts := by simp [modGrp]
@[simp] theorem modCtx_memParts (s : State) (cl c : Nat) (f : GenCtx → GenCtx) : (modCtx s cl c f).memParts = s.memParts := by simp [modCtx]
@[simp] theorem modSpan_memParts (s : State) (sp : Nat) (f : Span → Span) : (modSpan s sp f).memParts = s.memParts := by simp [modSpan]
@[simp] theorem modLoad_memParts (s : State) (sp : Nat) (f : Load → Load) : (modLoad s sp f).memParts = s.memParts := by simp [modLoad]
@[simp] theorem modChan_memParts (s : State) (sp ch : Nat) (f : Chan → Chan) :
    (modChan s sp ch f).memParts = s.memParts := by simp [modChan]
@[simp] theorem modOp_memParts (s : State) (sp op : Nat) (f : OpState → OpState) :
    (modOp s sp op f).memParts = s.memParts := by simp [modOp]
@[simp] theorem modHub_memParts (s : State) (f : Hub → Hub) : (modHub s f).memParts = s.memParts := by simp [modHub]
@[simp] theorem modPart_memParts (s : State) (p : Nat) (f : Partition → Partition) :
    (modPart s p f).memParts = s.memParts := by simp [modPart]
@[simp] theorem raiseVec_memParts (s : State) (fn vec : Nat) : (raiseVec s fn vec).memParts = s.memParts := by simp [raiseVec]
@[simp] theorem partitionInterrupt_memParts (s : State) (p : Nat) :
    (partitionInterrupt s p).memParts = s.memParts := by simp [partitionInterrupt]
@[simp] theorem countBoth_memParts (s : State) (cl src n : Nat) : (countBoth s cl src n).memParts = s.memParts := by simp [countBoth]
@[simp] theorem postEvent_memParts (s : State) (cl : Nat) (r : FaultRec) : (postEvent s cl r).memParts = s.memParts := by simp [postEvent]
@[simp] theorem setPend_memParts (s : State) (cl bit : Nat) : (setPend s cl bit).memParts = s.memParts := by simp [setPend]
@[simp] theorem trapGroup_memParts (s : State) (cl n : Nat) (r : FaultRec) :
    (trapGroup s cl n r).memParts = s.memParts := by simp [trapGroup]
@[simp] theorem takeTrap_memParts (s : State) (r : FaultRec) : (takeTrap s r).memParts = s.memParts := by simp [takeTrap]
@[simp] theorem illegal_memParts (s : State) (sub : Nat) : (illegal s sub).memParts = s.memParts := by simp [illegal]
@[simp] theorem arrive_memParts (s : State) : (arrive s).memParts = s.memParts := by simp [arrive]
@[simp] theorem startWalk_memParts (s : State) (cl asid va need : Nat) (who : Walker) :
    (startWalk s cl asid va need who).memParts = s.memParts := by simp [startWalk]
@[simp] theorem l2Touch_memParts (s : State) (cl pa : Nat) : (l2Touch s cl pa).memParts = s.memParts := by simp [l2Touch]
@[simp] theorem touchLines_memParts (s : State) (cl : Nat) (pas : List Nat) :
    (touchLines s cl pas).memParts = s.memParts := by simp [touchLines]
@[simp] theorem modCur_memParts (s : State) (f : Group → Group) : (modCur s f).memParts = s.memParts := by simp [modCur]
@[simp] theorem finish_memParts (s : State) (len : Nat) (d : BitVec 5) (v : W64) :
    (finish s len d v).memParts = s.memParts := by simp [finish]
@[simp] theorem skip_memParts (s : State) (len : Nat) : (skip s len).memParts = s.memParts := by simp [skip]
@[simp] theorem waitWalk_memParts (s : State) (va need : Nat) : (waitWalk s va need).memParts = s.memParts := by simp [waitWalk]
@[simp] theorem modBr_memParts (s : State) (sp ch br : Nat) (f : Branch → Branch) :
    (modBr s sp ch br f).memParts = s.memParts := by simp [modBr]
@[simp] theorem emitCompletion_memParts (s : State) (sp : Nat) (e : Endpoint) : (emitCompletion s sp e).memParts = s.memParts := by
  unfold emitCompletion
  repeat' split
  all_goals simp
@[simp] theorem queuePush_memParts (s : State) (x : Span) (sp ch br : Nat) (q : QueueRegion) (t : Token) (bad : Bool) :
    (queuePush s x sp ch br q t bad).memParts = s.memParts := by
  unfold queuePush
  split <;> simp
@[simp] theorem areaPut_memParts (s : State) (x : Span) (sp ch br : Nat) (b : Branch) (t : Token) (bad : Bool) :
    (areaPut s x sp ch br b t bad).memParts = s.memParts := by
  unfold areaPut
  repeat' split
  all_goals simp
@[simp] theorem areaPop_memParts (s : State) (x : Span) (sp ch br : Nat) (b : Branch) : (areaPop s x sp ch br b).memParts = s.memParts := by
  unfold areaPop
  repeat' split
  all_goals simp
@[simp] theorem popAt_memParts (l : Load) (s : State) (v : Env) (ctl : Bool) (port n : Nat) :
    (popAt l s v ctl port n).memParts = s.memParts := by
  unfold popAt
  split <;> simp
@[simp] theorem emitAt_memParts (l : Load) (s : State) (v : Env) (ctl : Bool) (port : Nat) (stamp : Bool) (ts : List Token) :
    (emitAt l s v ctl port stamp ts).memParts = s.memParts := by
  unfold emitAt
  split <;> simp
@[simp] theorem moveTokens_memParts (l : Load) (s : State) (v : Env) (f : Effect) : (moveTokens l s v f).memParts = s.memParts := by
  unfold moveTokens
  repeat' split
  all_goals simp
@[simp] theorem elemFault_memParts (s : State) (cl el : Nat) (r : FaultRec) :
    (elemFault s cl el r).memParts = s.memParts := by simp [elemFault]
@[simp] theorem applyEffect_memParts (s : State) (v : Env) (f : Effect) : (applyEffect s v f).memParts = s.memParts := by
  unfold applyEffect
  repeat' split
  all_goals simp
@[simp] theorem onOperator_memParts (s : State) (v : Env) (f : OpCtx → OpCtx) : (onOperator s v f).memParts = s.memParts := by
  unfold onOperator
  split
  · exact foldl_memParts (fun s p => by split <;> simp) _ s
  · rfl
@[simp] theorem patNext_memParts (s : State) (f : GenCtx → GenCtx) : (patNext s f).memParts = s.memParts := by simp [patNext]
@[simp] theorem patWrite_memParts (s : State) (g : BitVec 3) (f : GenCtx → PatReg) :
    (patWrite s g f).memParts = s.memParts := by simp [patWrite]
@[simp] theorem aluRR_memParts (s : State) (d a b : BitVec 5) (f : W64 → W64 → W64) :
    (aluRR s d a b f).memParts = s.memParts := by simp [aluRR]
@[simp] theorem aluRI_memParts (s : State) (len : Nat) (d a : BitVec 5) (imm : W64) (f : W64 → W64 → W64) :
    (aluRI s len d a imm f).memParts = s.memParts := by simp [aluRI]
@[simp] theorem coreLoad_memParts (s : State) (len : Nat) (d a : BitVec 5) (sc : Nat) (off : W64) (n : Nat) (signed acq : Bool) :
    (coreLoad s len d a sc off n signed acq).memParts = s.memParts := by
  unfold coreLoad
  dsimp only
  repeat' split
  all_goals simp
@[simp] theorem coreStore_memParts (s : State) (len : Nat) (v a : BitVec 5) (sc : Nat) (off : W64) (n : Nat) (rel : Bool) :
    (coreStore s len v a sc off n rel).memParts = s.memParts := by
  unfold coreStore
  dsimp only
  repeat' split
  all_goals simp
@[simp] theorem endWait_memParts (s : State) (cl g : Nat) (d : BitVec 5) (v : Nat) :
    (endWait s cl g d v).memParts = s.memParts := by simp [endWait]
@[simp] theorem markIssue_memParts (s : State) (cl g : Nat) : (markIssue s cl g).memParts = s.memParts := by simp [markIssue]
@[simp] theorem ageCore_memParts (s : State) (cl : Nat) : (ageCore s cl).memParts = s.memParts := by simp [ageCore]
@[simp] theorem deliverEvent_memParts (s : State) (cl g : Nat) (r : FaultRec) :
    (deliverEvent s cl g r).memParts = s.memParts := by simp [deliverEvent]
@[simp] theorem takeEvent_memParts (cl : Nat) (s : State) : (takeEvent cl s).memParts = s.memParts := by
  unfold takeEvent
  split <;> simp
@[simp] theorem issueAt_memParts (s : State) (cl g : Nat) : (issueAt s cl g).memParts = s.memParts := by simp [issueAt]
@[simp] theorem popUnit_memParts (s : State) (sp : Nat) (l : Load) (e : Endpoint) : (popUnit s sp l e).memParts = s.memParts := by
  unfold popUnit
  split <;> simp
@[simp] theorem genFault_memParts (s : State) (cl t a : Nat) (r : FaultRec) :
    (genFault s cl t a r).memParts = s.memParts := by simp [genFault]
@[simp] theorem portFault_memParts (s : State) (cl n : Nat) (r : FaultRec) :
    (portFault s cl n r).memParts = s.memParts := by simp [portFault]
@[simp] theorem islandFault_memParts (s : State) (cl : Nat) (r : FaultRec) :
    (islandFault s cl r).memParts = s.memParts := by simp [islandFault]
@[simp] theorem headCheck_memParts (s : State) (sp : Nat) (e : Endpoint) : (headCheck s sp e).memParts = s.memParts := by
  unfold headCheck
  repeat' split
  all_goals simp
@[simp] theorem takeHead_memParts (s : State) (sp : Nat) (l : Load) (e : Endpoint) :
    (takeHead s sp l e).memParts = s.memParts := by simp [takeHead]
@[simp] theorem superOnly_memParts {s t : State} (h : t.memParts = s.memParts) : (superOnly s t).memParts = s.memParts := by
  simp [superOnly, h]
@[simp] theorem writeEsc_memParts (s : State) (v : W64) : (writeEsc s v).memParts = s.memParts := by simp [writeEsc]
@[simp] theorem resumeGen_memParts (s : State) (cl rel t a sp : Nat) :
    (resumeGen s cl rel t a sp).memParts = s.memParts := by simp [resumeGen]
@[simp] theorem resumePort_memParts (s : State) (cl rel n sp : Nat) :
    (resumePort s cl rel n sp).memParts = s.memParts := by simp [resumePort]
@[simp] theorem resumeIsland_memParts (s : State) (cl rel sp : Nat) :
    (resumeIsland s cl rel sp).memParts = s.memParts := by simp [resumeIsland]
@[simp] theorem resumeCmp_memParts (s : State) (rel el port sp : Nat) :
    (resumeCmp s rel el port sp).memParts = s.memParts := by simp [resumeCmp]
@[simp] theorem resumeUnit_memParts (s : State) (v : W64) : (resumeUnit s v).memParts = s.memParts := by
  unfold resumeUnit
  dsimp only
  repeat' split
  all_goals simp
@[simp] theorem writeEres_memParts (s : State) (v : W64) : (writeEres s v).memParts = s.memParts := by simp [writeEres]
@[simp] theorem sysWrite_memParts (s : State) (r : Nat) (v : W64) : (sysWrite s r v).memParts = s.memParts := by
  unfold sysWrite
  split <;> simp
@[simp] theorem sysGuard_memParts {s t : State} (r : Nat) (h : t.memParts = s.memParts) : (sysGuard s r t).memParts = s.memParts := by
  simp [sysGuard, h]
@[simp] theorem setDieCounter_memParts (s : State) (d n : Nat) (c : Counter) :
    (setDieCounter s d n c).memParts = s.memParts := by simp [setDieCounter]
@[simp] theorem counterSet_memParts (s : State) (cl i src : Nat) (v : W64) :
    (counterSet s cl i src v).memParts = s.memParts := by simp [counterSet]
@[simp] theorem presetBranch_memParts (s : State) (x : Span) (sp ch br : Nat) (b : Branch) (t : Token) :
    (presetBranch s x sp ch br b t).memParts = s.memParts := by
  unfold presetBranch
  repeat' split
  all_goals simp
@[simp] theorem presetToken_memParts (s : State) (sp : Nat) (p : Nat × Token) : (presetToken s sp p).memParts = s.memParts := by
  unfold presetToken
  split
  · exact foldl_memParts (fun s k => by split <;> simp) _ s
  · rfl
@[simp] theorem buildLoad_memParts (s : State) (sp : Nat) (x : Span) (im : Image) (l : Load) (qs : List (Nat × Nat × Nat × Nat × Nat)) :
    (buildLoad s sp x im l qs).memParts = s.memParts := by
  unfold buildLoad
  dsimp only
  rw [foldl_memParts (fun s p => presetToken_memParts s sp p), modSpan_memParts, foldl_memParts, foldl_memParts, foldl_memParts]
  · intro s c
    simp
  · intro s e
    split <;> simp
  · intro s q
    split <;> simp
@[simp] theorem freshLoops_memParts (s : State) (sp op lg : Nat) : (freshLoops s sp op lg).memParts = s.memParts := by
  unfold freshLoops
  split
  · rfl
  · split
    · rfl
    · exact foldl_memParts (fun s j => by split <;> simp) _ s
theorem distOne_memParts {s t : State} {sp op p : Nat} (h : distOne s sp op p = some t) : t.memParts = s.memParts := by
  unfold distOne at h
  dsimp only at h
  repeat' split at h
  all_goals cases h
  simp
@[simp] theorem distPump_memParts (n : Nat) (s : State) (sp op p : Nat) : (distPump n s sp op p).memParts = s.memParts := by
  induction n generalizing s with
  | zero => rfl
  | succ n ih =>
    unfold distPump
    split
    · next h => rw [ih, distOne_memParts h]
    · rfl
@[simp] theorem clearAreaFrom_memParts (s : State) (x : Span) (b : Branch) (i : Nat) : (clearAreaFrom s x b i).memParts = s.memParts := by
  refine foldl_memParts (fun s k => ?_) _ s
  repeat' split
  all_goals simp
@[simp] theorem takeBackAt_memParts (m op lg : Nat) (o : OpState) (x : Span) (sp : Nat) (s : State) (p : Nat) :
    (takeBackAt m op lg o x sp s p).memParts = s.memParts := by
  unfold takeBackAt
  split
  · rfl
  · extract_lets mine back s1
    have hs1 : s1.memParts = s.memParts := by
      refine foldl_memParts (fun s j => ?_) _ s
      split <;> simp
    split <;> simp [hs1]
@[simp] theorem takeBack_memParts (s : State) (sp op : Nat) : (takeBack s sp op).memParts = s.memParts := by
  unfold takeBack
  repeat' split
  all_goals simp
@[simp] theorem distRun_memParts (s : State) (sp op : Nat) : (distRun s sp op).memParts = s.memParts := by
  simp [distRun]
@[simp] theorem replayFrom_memParts (s : State) (x : Span) (sp ch br : Nat) (b : Branch) :
    (replayFrom s x sp ch br b).memParts = s.memParts := by
  unfold replayFrom
  repeat' split
  all_goals simp
@[simp] theorem modSpot_memParts (s : State) (x : Span) (p : Option ((Nat × Nat × Nat) × Nat)) (f : Tile → Nat → Nat → Tile) :
    (modSpot s x p f).memParts = s.memParts := by
  unfold modSpot
  split <;> simp
@[simp] theorem replayMerge_memParts (s : State) (x : Span) (sp ch br : Nat) (b : Branch) :
    (replayMerge s x sp ch br b).memParts = s.memParts := by simp [replayMerge]
theorem mergeOne_memParts {s t : State} {sp op k : Nat} (h : mergeOne s sp op k = some t) : t.memParts = s.memParts := by
  unfold mergeOne at h
  dsimp only at h
  repeat' split at h
  all_goals cases h
  all_goals simp
@[simp] theorem mergePump_memParts (n : Nat) (s : State) (sp op k : Nat) : (mergePump n s sp op k).memParts = s.memParts := by
  induction n generalizing s with
  | zero => rfl
  | succ n ih =>
    unfold mergePump
    split
    · next h => rw [ih, mergeOne_memParts h]
    · rfl
@[simp] theorem mergeRun_memParts (s : State) (sp op : Nat) : (mergeRun s sp op).memParts = s.memParts := by simp [mergeRun]
theorem takeBefore_memParts {s : State} {x : Span} {sp ch br : Nat} {b : Branch} {p : Token × Bool × State}
    (h : takeBefore s x sp ch br b = some p) : p.2.2.memParts = s.memParts := by
  unfold takeBefore at h
  repeat' split at h
  all_goals cases h
  all_goals simp
@[simp] theorem moveUp_memParts (s : State) (x : Span) (sp ch br : Nat) : (moveUp s x sp ch br).memParts = s.memParts := by
  unfold moveUp
  split
  · rfl
  · split
    · split
      · split
        · rfl
        · next h => simp [takeBefore_memParts h]
      · rfl
    · split
      · split
        · rfl
        · next h => simp [takeBefore_memParts h]
      · rfl
@[simp] theorem afterArrival_memParts (s : State) (sp : Nat) (e : Endpoint) : (afterArrival s sp e).memParts = s.memParts := by
  unfold afterArrival
  split <;> simp
@[simp] theorem loopArrival_memParts (s : State) (x : Span) (sp : Nat) (c : Chan) (b : Branch) (t : Token) :
    (loopArrival s x sp c b t).2.memParts = s.memParts := by
  unfold loopArrival
  repeat' split
  all_goals simp
@[simp] theorem standAt_memParts (s : State) (x : Span) (sp ch br : Nat) (c : Chan) (b : Branch) (t : Token) :
    (standAt s x sp ch br c b t).memParts = s.memParts := by
  simp [standAt]
@[simp] theorem extendReorder_memParts (s : State) (x : Span) (sp : Nat) (b : Branch) : (extendReorder s x sp b).memParts = s.memParts := by
  unfold extendReorder
  repeat' split
  all_goals simp
@[simp] theorem moveAhead_memParts (s : State) (x : Span) (sp ch br : Nat) (b : Branch) :
    (moveAhead s x sp ch br b).memParts = s.memParts := by
  unfold moveAhead
  repeat' split
  all_goals simp
@[simp] theorem stopElems_memParts (s : State) (x : Span) (o : OpState) (b : Bool) : (stopElems s x o b).memParts = s.memParts :=
  foldl_memParts (fun s p => by split <;> simp) _ s
@[simp] theorem markOp_memParts (s : State) (sp op other kind : Nat) (t : Option (Nat × Nat)) :
    (markOp s sp op other kind t).memParts = s.memParts := by
  unfold markOp
  repeat' split
  all_goals simp
@[simp] theorem startRewire_memParts (s : State) (sp : Nat) (c : Rewire) : (startRewire s sp c).memParts = s.memParts := by
  unfold startRewire
  repeat' split
  all_goals simp
@[simp] theorem resumeOps_memParts (s : State) (sp : Nat) : (resumeOps s sp).memParts = s.memParts := by
  unfold resumeOps
  split <;> simp
@[simp] theorem copyRecord_memParts (s : State) (o : OpState) (b from_ to_ : Nat) :
    (copyRecord s o b from_ to_).memParts = s.memParts := by simp [copyRecord]
@[simp] theorem moveRecords_memParts (s : State) (x : Span) (o : OpState) (old new : List (Nat × Nat × Nat)) :
    (moveRecords s x o old new).memParts = s.memParts := by
  unfold moveRecords
  split
  · rfl
  · exact foldl_memParts (fun s b => by split <;> simp) _ s
@[simp] theorem copyElem_memParts (s : State) (x : Span) (from_ to_ : Nat × Nat) (f : Elem → Elem) :
    (copyElem s x from_ to_ f).memParts = s.memParts := by
  unfold copyElem
  split <;> simp
@[simp] theorem clearElem_memParts (s : State) (x : Span) (p : Nat × Nat) : (clearElem s x p).memParts = s.memParts := by
  unfold clearElem
  split <;> simp
@[simp] theorem modPlace_memParts (s : State) (x : Span) (p : Nat × Nat × Nat) (f : Elem → Elem) :
    (modPlace s x p f).memParts = s.memParts := by
  unfold modPlace
  split <;> simp
@[simp] theorem doClone_memParts (s : State) (sp : Nat) (x : Span) (l : Load) (op : Nat) (o : OpState) (t : Nat × Nat) :
    (doClone s sp x l op o t).memParts = s.memParts := by simp [doClone]
@[simp] theorem doUnclone_memParts (s : State) (sp : Nat) (x : Span) (l : Load) (op : Nat) (o : OpState) :
    (doUnclone s sp x l op o).memParts = s.memParts := by
  unfold doUnclone
  split <;> simp
@[simp] theorem doFold_memParts (s : State) (sp : Nat) (x : Span) (l : Load) (opA opB : Nat) (a b : OpState) :
    (doFold s sp x l opA opB a b).memParts = s.memParts := by simp [doFold]
@[simp] theorem doUnfold_memParts (s : State) (sp : Nat) (x : Span) (l : Load) (opA opB : Nat) (b : OpState) (t : Nat × Nat) :
    (doUnfold s sp x l opA opB b t).memParts = s.memParts := by simp [doUnfold]
@[simp] theorem completeRewire_memParts (s : State) (sp : Nat) (x : Span) (l : Load) (op : Nat) (o : OpState) :
    (completeRewire s sp x l op o).memParts = s.memParts := by
  unfold completeRewire
  split <;> simp
@[simp] theorem holdOp_memParts (s : State) (sp op : Nat) : (holdOp s sp op).memParts = s.memParts := by
  unfold holdOp
  split <;> simp
@[simp] theorem extendArea_memParts (s : State) (x : Span) (sp ch br : Nat) (b : Branch) (r : Nat × Nat × Nat) :
    (extendArea s x sp ch br b r).memParts = s.memParts := by
  unfold extendArea
  split <;> simp
@[simp] theorem relieve_memParts (s : State) (sp rel el cl : Nat) (ins : List (Bool × Nat)) :
    (relieve s sp rel el cl ins).memParts = s.memParts := by
  refine foldl_memParts (fun s p => ?_) _ s
  repeat' split
  all_goals simp
@[simp] theorem stallSlot_memParts (s : State) (sp rel el cl n : Nat) : (stallSlot s sp rel el cl n).memParts = s.memParts := by
  unfold stallSlot
  split <;> simp
@[simp] theorem stallAll_memParts (s : State) (sp : Nat) (x : Span) : (stallAll s sp x).memParts = s.memParts := by
  refine foldl_memParts (fun s rel => ?_) _ s
  split
  · rfl
  · simp
@[simp] theorem newWeights_memParts (s : State) (x : Span) (l : Load) (w : Nat) : (newWeights s x l w).memParts = s.memParts := by
  refine foldl_memParts (fun s p => ?_) _ s
  repeat' split
  all_goals simp
@[simp] theorem startRewires_memParts (s : State) (sp : Nat) (x : Span) (w : Nat) : (startRewires s sp x w).memParts = s.memParts := by
  refine foldl_memParts (fun s home => ?_) _ s
  repeat' split
  all_goals simp
@[simp] theorem setLimiter_memParts (s : State) (sp cl n : Nat) : (setLimiter s sp cl n).memParts = s.memParts := by
  unfold setLimiter
  split <;> simp
@[simp] theorem memBegin_memParts (s : State) (v : Env) (op : MemOp) (trunc : Bool) (accs : List LaneAcc) :
    (memBegin s v op trunc accs).memParts = s.memParts := by simp [memBegin]
@[simp] theorem memIssue_memParts (s : State) (v : Env) (op : MemOp) (first : Bool) (off data cmp : Nat → W32) :
    (memIssue s v op first off data cmp).memParts = s.memParts := by
  unfold memIssue
  dsimp only
  repeat' split
  all_goals simp
@[simp] theorem performGran_memParts (s : State) (cl : Nat) (e : RqEntry) (g : Bool × Nat) (n : Nat) :
    (performGran s cl e g n).memParts = s.memParts := by simp [performGran]
@[simp] theorem heldAnswer_memParts (s : State) (cl el idx : Nat) (e : RqEntry) : (heldAnswer s cl el idx e).memParts = s.memParts := by
  unfold heldAnswer
  dsimp only
  split <;> simp
@[simp] theorem putRq_memParts (s : State) (cl el idx : Nat) (e : RqEntry) : (putRq s cl el idx e).memParts = s.memParts := by simp [putRq]
@[simp] theorem rqDone_memParts (s : State) (cl el idx : Nat) (e : RqEntry) :
    (rqDone s cl el idx e).memParts = s.memParts := by simp [rqDone]
@[simp] theorem packetArrives_memParts (s : State) (cl el idx : Nat) (e : RqEntry) (p : Packet) :
    (packetArrives s cl el idx e p).memParts = s.memParts := by
  simp [packetArrives, takeFree]
@[simp] theorem emitFrom_memParts (s : State) (sp rel el n : Nat) (ctl stamp : Bool) (ts : List Token) :
    (emitFrom s sp rel el n ctl stamp ts).memParts = s.memParts := by
  unfold emitFrom
  split <;> simp
@[simp] theorem flushGen_memParts (s : State) (cl t a : Nat) : (flushGen s cl t a).memParts = s.memParts := by
  unfold flushGen
  split <;> simp
@[simp] theorem oweGen_memParts (s : State) (cl t a : Nat) : (oweGen s cl t a).memParts = s.memParts := by simp [oweGen]
@[simp] theorem tagFire_memParts (s : State) (cl t tag : Nat) : (tagFire s cl t tag).memParts = s.memParts := by
  unfold tagFire
  dsimp only
  repeat' split
  all_goals simp
@[simp] theorem tagCount_memParts (s : State) (cl t tag n : Nat) : (tagCount s cl t tag n).memParts = s.memParts := by simp [tagCount]
@[simp] theorem takeJob_memParts (s : State) (sp : Nat) (l : Load) (rel cl t a : Nat) (k : Token) :
    (takeJob s sp l rel cl t a k).memParts = s.memParts := by simp [takeJob]
@[simp] theorem endJob_memParts (s : State) (sp rel cl t a : Nat) : (endJob s sp rel cl t a).memParts = s.memParts := by simp [endJob]
@[simp] theorem stepJob_memParts (s : State) (cl t a pos : Nat) (hold : List Held) :
    (stepJob s cl t a pos hold).memParts = s.memParts := by simp [stepJob]
@[simp] theorem genEmit_memParts (s : State) (sp : Nat) (l : Load) (rel t a : Nat) (k : Token) :
    (genEmit s sp l rel t a k).memParts = s.memParts := by
  unfold genEmit
  split <;> simp
@[simp] theorem reread_memParts (s : State) (bad : Bool) : (reread s bad).2.memParts = s.memParts := by
  cases bad <;> rfl
@[simp] theorem readStore_memParts (s : State) (sp : Nat) (x : Span) (l : Load) (rel cl t a : Nat) (g : AddrGen) (j : Job) :
    (readStore s sp x l rel cl t a g j).memParts = s.memParts := by
  simp [readStore]
@[simp] theorem readLine_memParts (s : State) (sp : Nat) (x : Span) (l : Load) (rel cl t a : Nat) (g : AddrGen) (j : Job) :
    (readLine s sp x l rel cl t a g j).memParts = s.memParts := by simp [readLine]
@[simp] theorem fifoOut_memParts (s : State) (sp : Nat) (x : Span) (l : Load) (rel cl t a : Nat) (g : AddrGen) :
    (fifoOut s sp x l rel cl t a g).memParts = s.memParts := by simp [fifoOut]
@[simp] theorem writeStore_memParts (s : State) (sp : Nat) (l : Load) (rel cl t a : Nat) (g : AddrGen) (j : Job) (k : Token) :
    (writeStore s sp l rel cl t a g j k).memParts = s.memParts := by simp [writeStore]
@[simp] theorem writeLine_memParts (s : State) (sp : Nat) (l : Load) (rel cl t a : Nat) (k : Token) :
    (writeLine s sp l rel cl t a k).memParts = s.memParts := by simp [writeLine]
@[simp] theorem fifoIn_memParts (s : State) (sp : Nat) (l : Load) (rel cl t a : Nat) (k : Token) :
    (fifoIn s sp l rel cl t a k).memParts = s.memParts := by simp [fifoIn]
@[simp] theorem failJob_memParts (s : State) (sp rel cl t a c va : Nat) :
    (failJob s sp rel cl t a c va).memParts = s.memParts := by simp [failJob]
@[simp] theorem pushStream_memParts (s : State) (cl n : Nat) (st : Stream) :
    (pushStream s cl n st).memParts = s.memParts := by simp [pushStream]
@[simp] theorem modFront_memParts (s : State) (cl n : Nat) (f : Stream → Stream) :
    (modFront s cl n f).memParts = s.memParts := by simp [modFront]
@[simp] theorem dropFront_memParts (s : State) (sp rel cl n : Nat) : (dropFront s sp rel cl n).memParts = s.memParts := by simp [dropFront]
@[simp] theorem portEmit_memParts (s : State) (sp : Nat) (l : Load) (rel n : Nat) (k : Token) :
    (portEmit s sp l rel n k).memParts = s.memParts := by
  unfold portEmit
  split <;> simp
@[simp] theorem chargeLimiter_memParts (s : State) (sp cl port cost : Nat) : (chargeLimiter s sp cl port cost).2.memParts = s.memParts := by
  unfold chargeLimiter
  split
  · rfl
  · dsimp only
    split <;> simp
@[simp] theorem admitToken_memParts (s : State) (sp : Nat) (l : Load) (rel cl n : Nat) (k : Token) (f : State → State)
    (hf : ∀ s, (f s).memParts = s.memParts) : (admitToken s sp l rel cl n k f).memParts = s.memParts := by
  have hc : (chargeLimiter s sp cl n 1).2.memParts = s.memParts := by simp
  unfold admitToken
  split
  · next h => simpa [hf, h] using hc
  · next h => simpa [h] using hc
@[simp] theorem streamFault_memParts (s : State) (cl n c va : Nat) :
    (streamFault s cl n c va).memParts = s.memParts := by simp [streamFault]
@[simp] theorem beginPattern_memParts (s : State) (cl n : Nat) (st : Stream) :
    (beginPattern s cl n st).memParts = s.memParts := by simp [beginPattern]
@[simp] theorem endPattern_memParts (s : State) (cl k : Nat) : (endPattern s cl k).memParts = s.memParts := by simp [endPattern]
@[simp] theorem takeXfer_memParts (s : State) (sp : Nat) (l : Load) (rel cl port opx kind : Nat) :
    (takeXfer s sp l rel cl port opx kind).memParts = s.memParts := by
  unfold takeXfer
  dsimp only
  repeat' split
  all_goals simp
@[simp] theorem bindCtx_memParts (s : State) (cl n : Nat) (k : Binding) : (bindCtx s cl n k).memParts = s.memParts := by simp [bindCtx]
@[simp] theorem deliverLine_memParts (s : State) (cl : Nat) (m : Mcast) (k : Nat) (bs : List Byte) (bad : Bool) :
    (deliverLine s cl m k bs bad).memParts = s.memParts := by simp [deliverLine]
@[simp] theorem cacheRecord_memParts (s : State) (cl a v : Nat) : (cacheRecord s cl a v).memParts = s.memParts := by
  simp [cacheRecord, takeFree]
@[simp] theorem modStaging_memParts (s : State) (cl : Nat) (f : IslandOp → IslandOp) :
    (modStaging s cl f).memParts = s.memParts := by simp [modStaging]
@[simp] theorem stageGranule_memParts (s : State) (cl : Nat) (o : IslandOp) (b : Bool) :
    (stageGranule s cl o b).memParts = s.memParts := by simp [stageGranule]
@[simp] theorem enterArray_memParts (s : State) (cl : Nat) (o : IslandOp) :
    (enterArray s cl o).memParts = s.memParts := by simp [enterArray]
@[simp] theorem drainRow_memParts (s : State) (cl : Nat) (o : IslandOp) : (drainRow s cl o).memParts = s.memParts := by simp [drainRow]
@[simp] theorem settlePool_memParts (s : State) (part : Nat) : (settlePool s part).memParts = s.memParts := by simp [settlePool]
@[simp] theorem modQueue_memParts (s : State) (part q : Nat) (f : LQueue → LQueue) :
    (modQueue s part q f).memParts = s.memParts := by simp [modQueue]
@[simp] theorem failQueue_memParts (s : State) (part q : Nat) : (failQueue s part q).memParts = s.memParts := by simp [failQueue]
@[simp] theorem startSpan_memParts (s : State) (part : Nat) (cls : List Nat) (r : LRecord) (cap asid key : Nat) (x3 : W64)
    (fromQ : Option (Nat × Nat)) : (startSpan s part cls r cap asid key x3 fromQ).memParts = s.memParts := by
  unfold startSpan
  split
  · rfl
  · simp
@[simp] theorem failUnreadable_memParts (s : State) (part : Nat) : (failUnreadable s part).memParts = s.memParts := by simp [failUnreadable]
@[simp] theorem tellCore_memParts (s : State) (part key rel bit : Nat) : (tellCore s part key rel bit).memParts = s.memParts := by
  unfold tellCore
  repeat' split
  all_goals simp
@[simp] theorem tellLauncher_memParts (s : State) (part : Nat) (l : Option (Nat × Nat)) :
    (tellLauncher s part l).memParts = s.memParts := by
  unfold tellLauncher
  split <;> simp
@[simp] theorem endPool_memParts (s : State) (part order : Nat) (status : W64) : (endPool s part order status).memParts = s.memParts := by
  unfold endPool
  split <;> simp
@[simp] theorem freeSpan_memParts (s : State) (sp : Nat) (x : Span) : (freeSpan s sp x).memParts = s.memParts := by simp [freeSpan]
@[simp] theorem installEntry_memParts (s : State) (cl : Nat) (e : TEntry) : (installEntry s cl e).memParts = s.memParts := by
  simp [installEntry, takeFree]
@[simp] theorem ackInval_memParts (s : State) (v : Inval) : (ackInval s v).memParts = s.memParts := by
  unfold ackInval
  repeat' split
  all_goals simp
@[simp] theorem askInval_memParts (s : State) (asid lo n : Nat) (who : Option (Nat × Nat)) :
    (askInval s asid lo n who).memParts = s.memParts := by simp [askInval]
@[simp] theorem preRefuse_memParts (s : State) (e : Nat) : (preRefuse s e).memParts = s.memParts := by simp [preRefuse]
@[simp] theorem preDone_memParts (s : State) : (preDone s).memParts = s.memParts := by simp [preDone]
@[simp] theorem preWrite_memParts (s : State) (v : W64) (start : State → State) (h : ∀ t, (start t).memParts = t.memParts) :
    (preWrite s v start).memParts = s.memParts := by
  simp [preWrite, h]
@[simp] theorem thawSpan_memParts (s : State) (sp : Nat) (x : Span) : (thawSpan s sp x).memParts = s.memParts := by simp [thawSpan]
@[simp] theorem placeSaved_memParts (s : State) (v : Saved) (cls : List Nat) (body : List Byte) :
    (placeSaved s v cls body).memParts = s.memParts := by
  unfold placeSaved
  split <;> simp
@[simp] theorem areaTouch_memParts (s : State) (va bytes : Nat) (pas : List Nat) :
    (areaTouch s va bytes pas).memParts = s.memParts := by simp [areaTouch]
@[simp] theorem beginSave_memParts (s : State) (lead : Nat) : (beginSave s lead).memParts = s.memParts := by simp [beginSave]
@[simp] theorem undoSave_memParts (s : State) (lead : Nat) : (undoSave s lead).memParts = s.memParts := by simp [undoSave]
@[simp] theorem restoreGroup_memParts (s : State) (hdr body : List Byte) :
    (restoreGroup s hdr body).memParts = s.memParts := by simp [restoreGroup]
@[simp] theorem respond_memParts (s : State) (bs : List Byte) : (respond s bs).memParts = s.memParts := by simp [respond]
@[simp] theorem refuse_memParts (s : State) (p e : Nat) : (refuse s p e).memParts = s.memParts := by simp [refuse]
@[simp] theorem setSlice_memParts (s : State) (d i : Nat) (x : SliceSt) : (setSlice s d i x).memParts = s.memParts := by simp [setSlice]
@[simp] theorem writePctl_memParts (s : State) (part : Nat) (v : W64) : (writePctl s part v).memParts = s.memParts := by simp [writePctl]
@[simp] theorem dropSlices_memParts (s : State) (d : Nat) (l : List Nat) : (dropSlices s d l).memParts = s.memParts := by simp [dropSlices]
@[simp] theorem writePartReg_memParts (s : State) (p off : Nat) (v : W64) : (writePartReg s p off v).memParts = s.memParts := by
  unfold writePartReg
  split <;> simp
@[simp] theorem writePreReg_memParts (s : State) (v : W64) : (writePreReg s v).memParts = s.memParts := by
  simp [writePreReg]
@[simp] theorem writePfReg_memParts (s : State) (off : Nat) (v : W64) : (writePfReg s off v).memParts = s.memParts := by
  unfold writePfReg
  split <;> simp
@[simp] theorem writeVfReg_memParts (s : State) (p off : Nat) (v : W64) : (writeVfReg s p off v).memParts = s.memParts := by
  unfold writeVfReg
  split <;> simp
@[simp] theorem modGroup_memParts (s : State) (g : Nat) (f : CGroup → CGroup) : (modGroup s g f).memParts = s.memParts := by simp [modGroup]
@[simp] theorem carry_memParts (s : State) (way : Nat) (links : List Nat) : (carry s way links).memParts = s.memParts :=
  foldl_memParts (fun s l => by simp [takeFree]) _ s
@[simp] theorem send_memParts (s : State) (g kind dst : Nat) (bs : List Byte) :
    (send s g kind dst bs).memParts = s.memParts := by simp [send]
@[simp] theorem receive_memParts (s : State) (g rank : Nat) : (receive s g rank).memParts = s.memParts := by simp [receive]
@[simp] theorem gather_memParts (s : State) (g e rank link st : Nat) : (gather s g e rank link st).memParts = s.memParts := by simp [gather]
@[simp] theorem floodUpdate_memParts (s : State) (g e rank link st : Nat) :
    (floodUpdate s g e rank link st).memParts = s.memParts := by simp [floodUpdate]
@[simp] theorem reportLink_memParts (s : State) (l st : Nat) : (reportLink s l st).memParts = s.memParts := by simp [reportLink]
@[simp] theorem modColl_memParts (s : State) (h : Nat) (f : Coll → Coll) : (modColl s h f).memParts = s.memParts := by simp [modColl]
@[simp] theorem putChunk_memParts (s : State) (h k : Nat) (x : Chunk) : (putChunk s h k x).memParts = s.memParts := by simp [putChunk]
@[simp] theorem dropServed_memParts (s : State) (h : Nat) (c : Coll) : (dropServed s h c).memParts = s.memParts := by simp [dropServed]
@[simp] theorem tellParameters_memParts (s : State) (c : Coll) : (tellParameters s c).memParts = s.memParts := by simp [tellParameters]
@[simp] theorem retireColl_memParts (s : State) (h : Nat) (c : Coll) : (retireColl s h c).memParts = s.memParts := by simp [retireColl]
@[simp] theorem logEntry_memParts (s : State) (i status : Nat) (content : List Byte) :
    (logEntry s i status content).memParts = s.memParts := by simp [logEntry]
@[simp] theorem runImage_memParts (s : State) (img other : List Byte) (status err : Nat) :
    (runImage s img other status err).memParts = s.memParts := by simp [runImage]
@[simp] theorem letGoDie0_memParts (s : State) : (letGoDie0 s).memParts = s.memParts := by simp [letGoDie0]
@[simp] theorem countDie_memParts (s : State) (d src : Nat) : (countDie s d src).memParts = s.memParts := by simp [countDie]
@[simp] theorem branchTo_memParts (s : State) (len : Nat) (off : W64) (taken : Bool) :
    (branchTo s len off taken).memParts = s.memParts := by simp [branchTo]
@[simp] theorem coreBranch_memParts (s : State) (len : Nat) (a b : BitVec 5) (off : W64) (rel : W64 → W64 → Bool) :
    (coreBranch s len a b off rel).memParts = s.memParts := by simp [coreBranch]
@[simp] theorem coreJalr_memParts (s : State) (len : Nat) (d a : BitVec 5) (imm : W64) :
    (coreJalr s len d a imm).memParts = s.memParts := by simp [coreJalr]
@[simp] theorem fetchTouch_memParts (s : State) (cl asid va : Nat) : (fetchTouch s cl asid va).memParts = s.memParts := by
  unfold fetchTouch
  split <;> simp
theorem extPair_memParts {s t : State} {h : BitVec 26} {i : Instr} (e : extPair s h i = some t) : t.memParts = s.memParts := by
  unfold extPair at e
  split at e
  all_goals cases e
  all_goals simp
@[simp] theorem extStep_memParts (h : BitVec 26) (s : State) : (extStep h s).memParts = s.memParts := by
  unfold extStep
  dsimp only
  split
  · simp
  · simp
  · split
    · simp
    · split
      · simp
      · next i _ =>
        cases e : extPair (fetchTouch s s.cur.cl (curGrp s).asid ((curGrp s).pc + 4#52).toNat) h i with
        | none => simp
        | some t => simp [extPair_memParts e]
@[simp] theorem atSlot_memParts (s : State) (cl el n : Nat) : (atSlot s cl el n).memParts = s.memParts := by simp [atSlot]
@[simp] theorem raiseBadHeads_memParts (s : State) (cl el : Nat) : (raiseBadHeads s cl el).memParts = s.memParts := by
  unfold raiseBadHeads
  repeat' split
  all_goals simp
@[simp] theorem takeMove_memParts (s : State) : (takeMove s).memParts = s.memParts := by
  unfold takeMove
  split <;> simp
@[simp] theorem dropPacket_memParts (s : State) (u : NetUser) : (dropPacket s u).memParts = s.memParts := by simp [dropPacket]
@[simp] theorem deflect_memParts (s : State) (u : NetUser) (back : Bool) : (deflect s u back).memParts = s.memParts := by
  unfold deflect
  split <;> simp

/-! What writes memory and keeps its form: one rule per function that performs, publishes or shows a store. -/

/-- `State.memOk` as a property of what it speaks of alone, so that the frame rules rewrite under it. -/
def MemForm (p : List Host.Cell × List Near × List Host.Cell) : Prop :=
  Memory.wf p.1 = true ∧ alWf p.2.2 = true ∧ ∀ n ∈ p.2.1, n.reach.wide = false ∧ n.pa % 16 + n.bytes.length ≤ 16

theorem memOk_iff (s : State) : s.memOk ↔ MemForm s.memParts := Iff.rfl

@[simp] theorem ite_memForm (c : Prop) [Decidable c] (p q : List Host.Cell × List Near × List Host.Cell) :
    MemForm (if c then p else q) ↔ if c then MemForm p else MemForm q := by
  split <;> rfl
theorem foldl_memForm {α : Type} {f : State → α → State} (hf : ∀ s a, MemForm s.memParts → MemForm (f s a).memParts) (l : List α)
    {s : State} (h : MemForm s.memParts) : MemForm (l.foldl f s).memParts :=
  foldl_inv f (fun t => MemForm t.memParts) hf l h

@[simp] theorem widen_memForm {s : State} (sel : Near → Bool) (r : Reach) (h : MemForm s.memParts) :
    MemForm (widen s sel r).memParts := widen_ok sel r h
@[simp] theorem writePA_memForm {s : State} (pa : Nat) (bs : List Byte) (h : MemForm s.memParts) :
    MemForm (writePA s pa bs).memParts := writePA_ok pa bs h
@[simp] theorem hubWrite_memForm {s : State} (pa : Nat) (bs : List Byte) (h : MemForm s.memParts) :
    MemForm (hubWrite s pa bs).memParts := hubWrite_ok pa bs h
@[simp] theorem performRead_memForm {s : State} (cl pa n : Nat) (r : Reach) (h : MemForm s.memParts) :
    MemForm (performRead s cl pa n r).memParts := performRead_ok cl pa n r h
@[simp] theorem publish_memForm {s : State} (pa : Nat) (bs : List Byte) (h : MemForm s.memParts) :
    MemForm (publish s pa bs).memParts := publish_ok pa bs h
@[simp] theorem writeWords_memForm {s : State} (l : List Nat) (bs : List Byte) (h : MemForm s.memParts) :
    MemForm (writeWords s l bs).memParts := writeWords_ok l bs h
@[simp] theorem fleetRecord_memForm {s : State} (kind part die clu d1 d2 layv : Nat) (h : MemForm s.memParts) :
    MemForm (fleetRecord s kind part die clu d1 d2 layv).memParts := fleetRecord_ok kind part die clu d1 d2 layv h
@[simp] theorem clusterRecord_memForm {s : State} (kind cl d1 d2 : Nat) (h : MemForm s.memParts) :
    MemForm (clusterRecord s kind cl d1 d2).memParts := clusterRecord_ok kind cl d1 d2 h
@[simp] theorem l2At_memForm {s : State} (cl : Nat) (r : Reach) (via : Via) (pa : Nat) (bs : List Byte) (h : MemForm s.memParts) :
    MemForm (l2At s cl r via pa bs).memParts := l2At_ok cl r via pa bs h
@[simp] theorem flushGrp_memForm {s : State} (cl g sc : Nat) (h : MemForm s.memParts) :
    MemForm (flushGrp s cl g sc).memParts := flushGrp_ok cl g sc h
@[simp] theorem performSome_memForm {s : State} (cl g : Nat) (sel : PStore → Bool) (h : MemForm s.memParts) :
    MemForm (performSome s cl g sel).memParts := performSome_ok cl g sel h
@[simp] theorem showHost_memForm {s : State} (pa n : Nat) (hs : MemForm s.memParts) : MemForm (showHost s pa n).memParts :=
  ⟨hs.1, alWf_filter _ hs.2.1, hs.2.2⟩
@[simp] theorem showAll_memForm {s : State} (hs : MemForm s.memParts) : MemForm (showAll s).memParts := ⟨hs.1, rfl, hs.2.2⟩
@[simp] theorem widenAll_memForm {s : State} (pa n : Nat) (r : Reach) (hs : MemForm s.memParts) :
    MemForm (widenAll s pa n r).memParts := by simp [widenAll, hs]
@[simp] theorem softCluster_memForm {s : State} (multi : Bool) (cl place code : Nat) (hs : MemForm s.memParts) :
    MemForm (softCluster s multi cl place code).memParts := by simp [softCluster, hs]
@[simp] theorem l2Read_memForm {s : State} (cl pa : Nat) (hs : MemForm s.memParts) :
    MemForm (l2Read s cl pa).memParts := by simp [l2Read, hs]
@[simp] theorem l2Own_memForm {s : State} (cl pa n : Nat) (r : Reach) (hs : MemForm s.memParts) :
    MemForm (l2Own s cl pa n r).memParts := by simp [l2Own, hs]
@[simp] theorem l2Write_memForm {s : State} (cl pa : Nat) (bs : List Byte) (hs : MemForm s.memParts) :
    MemForm (l2Write s cl pa bs).memParts := by simp [l2Write, hs]
@[simp] theorem touchRead_memForm {s : State} (cl : Nat) (pas : List Nat) (hs : MemForm s.memParts) :
    MemForm (touchRead s cl pas).memParts := by simp +contextual [touchRead, foldl_memForm, hs]
@[simp] theorem writeEach_memForm {s : State} (cl : Nat) (ps : List (Nat × W32)) (hs : MemForm s.memParts) :
    MemForm (writeEach s cl ps).memParts := by simp +contextual [writeEach, foldl_memForm, hs]
@[simp] theorem releaseCur_memForm {s : State} (sc : Nat) (hs : MemForm s.memParts) :
    MemForm (releaseCur s sc).memParts := by simp [releaseCur, hs]
@[simp] theorem beforeRead_memForm {s : State} (cl g : Nat) (acq : Bool) (pa n : Nat) (hs : MemForm s.memParts) :
    MemForm (beforeRead s cl g acq pa n).memParts := by simp [beforeRead, hs]
@[simp] theorem acquireGrp_memForm {s : State} (cl g sc : Nat) (hs : MemForm s.memParts) :
    MemForm (acquireGrp s cl g sc).memParts := by simp [acquireGrp, hs]
@[simp] theorem acquireCur_memForm {s : State} (sc : Nat) (hs : MemForm s.memParts) :
    MemForm (acquireCur s sc).memParts := by simp [acquireCur, hs]
@[simp] theorem loadArrives_memForm {s : State} (cl grp : Nat) (d : BitVec 5) (pa n : Nat) (signed : Bool) (len : Nat) (via : Via)
    (acq : Bool) (hs : MemForm s.memParts) : MemForm (loadArrives s cl grp d pa n signed len via acq).memParts := by
  have hr := beforeRead_memForm cl grp acq pa n hs
  simp [loadArrives, hr]
@[simp] theorem beforeAmo_memForm {s : State} (sc : Nat) (rel acq : Bool) (pa n : Nat) (hs : MemForm s.memParts) :
    MemForm (beforeAmo s sc rel acq pa n).memParts := by simp [beforeAmo, hs]
@[simp] theorem coreAmo_memForm {s : State} (d a b : BitVec 5) (sc : Nat) (rel acq wide : Bool) (op : Nat → Nat → Nat → Nat)
    (hs : MemForm s.memParts) : MemForm (coreAmo s d a b sc rel acq wide op).memParts := by
  unfold coreAmo
  split
  · simp [hs]
  · extract_lets g n ea
    split
    · simp [hs]
    · simp [hs]
    · next pa _ =>
      have hb := beforeAmo_memForm sc rel acq pa n hs
      have ho (r : Reach) := l2Own_memForm s.cur.cl pa n r hb
      simp [ho]
@[simp] theorem spread_memForm {s : State} (cl k : Nat) (hs : MemForm s.memParts) : MemForm (spread s cl k).memParts := by
  unfold spread
  repeat' split
  all_goals simp [hs]
@[simp] theorem wakeGroup_memForm {s : State} (cl g : Nat) (hs : MemForm s.memParts) : MemForm (wakeGroup s cl g).memParts := by
  unfold wakeGroup
  cases (getGrp s cl g).st with
  | waiting w => cases w <;> simp [hs]
  | _ => exact hs
@[simp] theorem wakeCore_memForm {s : State} (cl : Nat) (hs : MemForm s.memParts) : MemForm (wakeCore s cl).memParts :=
  wakeGroup_memForm cl 3 (wakeGroup_memForm cl 2 (wakeGroup_memForm cl 1 (wakeGroup_memForm cl 0 hs)))
@[simp] theorem releaseWaiters_memForm {s : State} (cl sc : Nat) (k : Bool) (id : Nat) (hs : MemForm s.memParts) :
    MemForm (releaseWaiters s cl sc k id).memParts := by simp +contextual [releaseWaiters, foldl_memForm, hs]
@[simp] theorem completeGroupBar_memForm {s : State} (cl m : Nat) (hs : MemForm s.memParts) :
    MemForm (completeGroupBar s cl m).memParts := by simp [completeGroupBar, hs]
@[simp] theorem completeClusterBar_memForm {s : State} (sp id : Nat) (hs : MemForm s.memParts) :
    MemForm (completeClusterBar s sp id).memParts := by
  unfold completeClusterBar
  repeat' split
  all_goals simp +contextual [foldl_memForm, hs]
@[simp] theorem settleGroupBar_memForm {s : State} (cl m : Nat) (hs : MemForm s.memParts) :
    MemForm (settleGroupBar s cl m).memParts := by simp [settleGroupBar, hs]
@[simp] theorem settleClusterBar_memForm {s : State} (sp id : Nat) (hs : MemForm s.memParts) :
    MemForm (settleClusterBar s sp id).memParts := by
  unfold settleClusterBar
  split <;> simp [hs]
@[simp] theorem readLines_memForm {s : State} (cl : Nat) (ls : List Nat) (hs : MemForm s.memParts) :
    MemForm (readLines s cl ls).memParts := by simp +contextual [readLines, foldl_memForm, hs]
@[simp] theorem cmpPump_memForm {s : State} (sp k : Nat) (hs : MemForm s.memParts) : MemForm (cmpPump s sp k).memParts := by
  unfold cmpPump
  repeat' split
  all_goals simp [hs]
@[simp] theorem transitError_memForm {s : State} (x : Span) (l : Load) (b : Branch) (hs : MemForm s.memParts) :
    MemForm (transitError s x l b).memParts := by
  unfold transitError
  split <;> simp [hs]
theorem popQueue_memParts {s : State} {x : Span} {sp ch br : Nat} {q : QueueRegion} {p : Token × Bool × State}
    (h : popQueue s x sp ch br q = some p) : p.2.2.memParts = s.memParts := by
  unfold popQueue queuePop at h
  cases e : absOf x q.cl with
  | none => simp [e] at h
  | some cl =>
    simp only [e, Option.map_some, Option.some.injEq] at h
    simp [← h]
theorem takeUpstream_memParts {s : State} {x : Span} {sp ch br : Nat} {b : Branch} {p : Token × Bool × State}
    (h : takeUpstream s x sp ch br b = some p) : p.2.2.memParts = s.memParts := by
  unfold takeUpstream at h
  extract_lets follow at h
  have hf (q : Token × Bool × State) : (follow q).2.2.memParts = q.2.2.memParts := by simp [follow]
  split at h
  · obtain ⟨q, hq, rfl⟩ := Option.map_eq_some_iff.mp h
    rw [hf, popQueue_memParts hq]
  · split at h
    · cases h
      simp [hf]
    · exact takeBefore_memParts h
@[simp] theorem deliver_memForm {s : State} (x : Span) (sp ch br : Nat) (l : Load) (c : Chan) (b : Branch) (found : Bool)
    (hs : MemForm s.memParts) : MemForm (deliver s x sp ch br l c b found).memParts := by
  unfold deliver
  split
  · exact hs
  · next s1 h =>
    have h1 : MemForm s1.memParts := by
      have e : s1.memParts = s.memParts := takeUpstream_memParts h
      rwa [e]
    dsimp only
    split
    · simp [hs]
    · split <;> simp [h1]
@[simp] theorem writeTableBytes_memForm {s : State} (sp : Nat) (x : Span) (l : Load) (bs : List Byte) (hs : MemForm s.memParts) :
    MemForm (writeTableBytes s sp x l bs).memParts := by
  unfold writeTableBytes
  repeat' split
  all_goals simp +contextual [foldl_memForm, hs]
@[simp] theorem writeTable_memForm {s : State} (sp : Nat) (hs : MemForm s.memParts) : MemForm (writeTable s sp).memParts := by
  unfold writeTable
  repeat' split
  all_goals simp [hs]
@[simp] theorem beginTable_memForm {s : State} (sp : Nat) (hs : MemForm s.memParts) : MemForm (beginTable s sp).memParts := by
  unfold beginTable
  dsimp only
  repeat' split
  all_goals simp [hs]
@[simp] theorem finishTable_memForm {s : State} (sp : Nat) (hs : MemForm s.memParts) :
    MemForm (finishTable s sp).memParts := by simp [finishTable, hs]
@[simp] theorem endPins_memForm {s : State} (x : Span) (hs : MemForm s.memParts) : MemForm (endPins s x).memParts := by
  refine foldl_memForm (fun s c hs => foldl_memForm (fun s g hs => ?_) _ hs) _ hs
  split <;> simp [hs]
theorem ldBind_ok {α β : Type} {x : Ld α} {f : α → Ld β} {b : β} (h : (ldBind x f).res = .ok b) : ∃ a, (f a).res = .ok b := by
  unfold ldBind at h
  split at h
  · exact ⟨_, h⟩
  all_goals cases h
theorem loadImage_memParts {s t : State} {sp : Nat} {x : Span} {cl asid img owner : Nat}
    (h : (loadImage s sp x cl asid img owner).res = .ok t) : t.memParts = s.memParts := by
  obtain ⟨im, h⟩ := ldBind_ok h
  obtain ⟨cmps, h⟩ := ldBind_ok h
  dsimp only at h
  repeat' split at h
  all_goals cases h
  simp
@[simp] theorem cfgNow_memForm {s : State} (d a : BitVec 5) (sp : Nat) (x : Span) (hs : MemForm s.memParts) :
    MemForm (cfgNow s d a sp x).memParts := by
  unfold cfgNow
  extract_lets s1 g r
  have h1 : MemForm s1.memParts := releaseCur_memForm 3 (by simpa using hs)
  split
  · next t h =>
    have ht : MemForm t.memParts := by
      rw [loadImage_memParts h]
      exact h1
    simp [ht]
  all_goals simp [hs, h1]
@[simp] theorem startLoad_memForm {s : State} (sp : Nat) (x : Span) (hs : MemForm s.memParts) :
    MemForm (startLoad s sp x).memParts := by simp [startLoad, hs]
@[simp] theorem accWrite_memForm {s : State} (cl : Nat) (a : LaneAcc) (x : W32) (hs : MemForm s.memParts) :
    MemForm (accWrite s cl a x).memParts := by simp [accWrite, hs]
@[simp] theorem fetchGranule_memForm {s : State} (sp rel cl t a asid : Nat) (g : AddrGen) (j : Job) (hs : MemForm s.memParts) :
    MemForm (fetchGranule s sp rel cl t a asid g j).memParts := by
  unfold fetchGranule
  dsimp only
  repeat' split
  all_goals simp [hs]
@[simp] theorem putGranule_memForm {s : State} (sp rel cl t a asid : Nat) (g : AddrGen) (j : Job) (hs : MemForm s.memParts) :
    MemForm (putGranule s sp rel cl t a asid g j).memParts := by
  unfold putGranule
  dsimp only
  repeat' split
  all_goals simp [hs]
@[simp] theorem writePuts_memForm {s : State} (cl : Nat) (l : List PutWord) (hs : MemForm s.memParts) :
    MemForm (writePuts s cl l).memParts := by simp [writePuts, hs]
@[simp] theorem admitToken_memForm {s : State} (sp : Nat) (l : Load) (rel cl n : Nat) (k : Token) {f : State → State}
    (hf : ∀ s, MemForm s.memParts → MemForm (f s).memParts) (hs : MemForm s.memParts) :
    MemForm (admitToken s sp l rel cl n k f).memParts := by
  have hc : MemForm (chargeLimiter s sp cl n 1).2.memParts := by simpa using hs
  unfold admitToken
  split
  · next h => exact hf _ (by simpa [h] using hc)
  · next h => simpa [h] using hc
@[simp] theorem feedStep_memForm {s : State} (sp : Nat) (x : Span) (l : Load) (rel cl n : Nat) (st : Stream) (hs : MemForm s.memParts) :
    MemForm (feedStep s sp x l rel cl n st).memParts := by
  unfold feedStep
  dsimp only
  repeat' split
  all_goals simp +contextual [hs]
@[simp] theorem drainStep_memForm {s : State} (sp : Nat) (l : Load) (rel cl n : Nat) (st : Stream) (hs : MemForm s.memParts) :
    MemForm (drainStep s sp l rel cl n st).memParts := by
  unfold drainStep
  dsimp only
  repeat' split
  all_goals simp [hs]
@[simp] theorem patternStep_memForm {s : State} (sp : Nat) (x : Span) (l : Load) (rel cl n : Nat) (st : Stream)
    (hs : MemForm s.memParts) : MemForm (patternStep s sp x l rel cl n st).memParts := by
  unfold patternStep
  dsimp only
  repeat' split
  all_goals simp +contextual [hs]
theorem fetchRecords_memForm (cl asid : Nat) (wf : Option (Nat × Nat)) (size : Nat) (l : List Nat) {s t : State} {r : List Nat}
    (h : fetchRecords s cl asid wf size l = .ok (r, t)) (hs : MemForm s.memParts) : MemForm t.memParts := by
  induction l generalizing s r with
  | nil =>
    cases h
    exact hs
  | cons a l ih =>
    simp only [fetchRecords] at h
    split at h
    · split at h
      · next h' =>
        cases h
        exact ih h' hs
      · next hn => exact absurd h (hn r t)
    · split at h
      · cases h
      · cases h
      · split at h
        · next h' =>
          cases h
          exact ih h' (by simp [hs])
        · next hn => exact absurd h (hn r t)
@[simp] theorem stageScale_memForm {s : State} (cl asid : Nat) (o : IslandOp) (b : Bool) (hs : MemForm s.memParts) :
    MemForm (stageScale s cl asid o b).memParts := by
  unfold stageScale
  dsimp only
  split
  · simp [hs]
  · simp [hs]
  · next h => simp [fetchRecords_memForm _ _ _ _ _ h hs]
@[simp] theorem spillRecord_memForm {s : State} (cl pa : Nat) (r : LRecord) (hs : MemForm s.memParts) :
    MemForm (spillRecord s cl pa r).memParts := by simp [spillRecord, hs]
@[simp] theorem publishWords_memForm {s : State} (l : List Nat) (bs : List Byte) (hs : MemForm s.memParts) :
    MemForm (publishWords s l bs).memParts := by
  induction l generalizing s bs with
  | nil => exact hs
  | cons pa l ih => exact ih _ (publish_memForm pa _ hs)
@[simp] theorem writeCompletion_memForm {s : State} (part q i kind : Nat) (status : W64) (hs : MemForm s.memParts) :
    MemForm (writeCompletion s part q i kind status).memParts := by
  unfold writeCompletion
  dsimp only
  repeat' split
  all_goals simp [hs]
@[simp] theorem takeRecord_memForm {s0 : State} (part q : Nat) (hs : MemForm s0.memParts) : MemForm (takeRecord s0 part q).memParts := by
  unfold takeRecord
  repeat' split
  all_goals simp +contextual [foldl_memForm, hs]
@[simp] theorem startCand_memForm {s : State} (part : Nat) (c : Cand) (cls : List Nat) (hs : MemForm s.memParts) :
    MemForm (startCand s part c cls).memParts := by
  unfold startCand
  dsimp only
  repeat' split
  all_goals simp [hs]
@[simp] theorem refuseCand_memForm {s : State} (part kind : Nat) (c : Cand) (hs : MemForm s.memParts) :
    MemForm (refuseCand s part kind c).memParts := by
  unfold refuseCand
  split <;> simp [hs]
@[simp] theorem tryCands_memForm {s : State} (part : Nat) (l : List Cand) (hs : MemForm s.memParts) :
    MemForm (tryCands s part l).memParts := by
  induction l generalizing s with
  | nil => exact hs
  | cons c l ih =>
    unfold tryCands
    dsimp only
    repeat' split
    all_goals simp [hs, ih]
@[simp] theorem endLaunch_memForm {s : State} (part : Nat) (x : Span) (status : W64) (hs : MemForm s.memParts) :
    MemForm (endLaunch s part x status).memParts := by
  unfold endLaunch
  split <;> simp [hs]
@[simp] theorem flushCore_memForm {s : State} (cl : Nat) (hs : MemForm s.memParts) : MemForm (flushCore s cl).memParts :=
  flushGrp_memForm cl 3 3 (flushGrp_memForm cl 2 3 (flushGrp_memForm cl 1 3 (flushGrp_memForm cl 0 3 hs)))
@[simp] theorem endGroup_memForm {s : State} (cl g : Nat) (status : W64) (hs : MemForm s.memParts) :
    MemForm (endGroup s cl g status).memParts := by
  unfold endGroup
  extract_lets s1
  have h1 : MemForm s1.memParts := by simp [s1, hs]
  split
  · exact h1
  · next x _ =>
    split
    · have h2 : MemForm (x.clusters.foldl (fun s c => flushCore s c) s1).memParts :=
        foldl_memForm (fun _ c hs => flushCore_memForm c hs) _ h1
      simp [h2]
    · exact h1
@[simp] theorem endWalk_memForm {s : State} (cl va : Nat) (who : Walker) (f : Option Nat) (hs : MemForm s.memParts) :
    MemForm (endWalk s cl va who f).memParts := by
  unfold endWalk
  repeat' split
  all_goals simp [hs]
@[simp] theorem haltClusters_memForm {s : State} (cls : List Nat) (hs : MemForm s.memParts) :
    MemForm (haltClusters s cls).memParts := by simp +contextual [haltClusters, foldl_memForm, hs]
@[simp] theorem hostWrite_memForm {s : State} (pa : Nat) (bs : List Byte) (hs : MemForm s.memParts) :
    MemForm (hostWrite s pa bs).memParts := by simp [hostWrite, hs]
theorem performLane_memForm (cl : Nat) (p : State × RqEntry) (a : LaneAcc) (hs : MemForm p.1.memParts) :
    MemForm (performLane cl p a).1.memParts := by
  unfold performLane
  dsimp only
  repeat' split
  all_goals simp [hs]
theorem performLanes_memForm (cl : Nat) (l : List LaneAcc) (p : State × RqEntry) (hs : MemForm p.1.memParts) :
    MemForm (l.foldl (performLane cl) p).1.memParts :=
  foldl_inv _ (fun p => MemForm p.1.memParts) (fun p a h => performLane_memForm cl p a h) l hs
theorem performGranule_memForm (s : State) (cl : Nat) (e : RqEntry) (g : Bool × Nat) (hs : MemForm s.memParts) :
    MemForm (performGranule s cl e g).1.memParts := by
  unfold performGranule sendAnswer
  dsimp only
  split <;> simp [performLanes_memForm, hs]
theorem performGranules_memForm (cl : Nat) (l : List (Bool × Nat)) (p : State × RqEntry) (hs : MemForm p.1.memParts) :
    MemForm (l.foldl (fun (p : State × RqEntry) g => performGranule p.1 cl p.2 g) p).1.memParts :=
  foldl_inv _ (fun p : State × RqEntry => MemForm p.1.memParts) (fun p g h => performGranule_memForm p.1 cl p.2 g h) l hs
@[simp] theorem performRest_memForm {s : State} (cl : Nat) (q : RqEntry) (hs : MemForm s.memParts) :
    MemForm (performRest s cl q).memParts := performGranules_memForm cl _ (s, q) hs
@[simp] theorem flushStores_memForm {s : State} (cl : Nat) (e : Elem) (hs : MemForm s.memParts) :
    MemForm (flushStores s cl e).memParts := by simp +contextual [flushStores, foldl_memForm, hs]
@[simp] theorem discardSpan_memForm {s : State} (p sp : Nat) (x : Span) (hs : MemForm s.memParts) :
    MemForm (discardSpan s p sp x).memParts := by
  unfold discardSpan
  extract_lets s1 s2 s3 src s4 s5
  have h1 : MemForm s1.memParts :=
    foldl_memForm (fun _ c hs => foldl_memForm (fun _ e hs => flushStores_memForm c e hs) _ (flushCore_memForm c hs)) _ hs
  split <;> simp [s5, s4, s3, s2, h1]
@[simp] theorem discardSaved_memForm {s : State} (p : Nat) (w : Saved) (hs : MemForm s.memParts) :
    MemForm (discardSaved s p w).memParts := by
  unfold discardSaved
  split <;> simp [hs]
@[simp] theorem discardPart_memForm {s : State} (p : Nat) (hs : MemForm s.memParts) : MemForm (discardPart s p).memParts := by
  unfold discardPart
  extract_lets s1 mine es s2 s3 s4
  have h2 : MemForm s2.memParts := foldl_memForm (fun s e hs => discardSpan_memForm p e.1 e.2 hs) _ (by simpa [s1] using hs)
  have h3 : MemForm s3.memParts := foldl_memForm (fun s w hs => discardSaved_memForm p w hs) _ h2
  simpa [s4] using h3
@[simp] theorem writeRecord_memForm {s : State} (p : Nat) (bs : List Byte) (hs : MemForm s.memParts) :
    MemForm (writeRecord s p bs).memParts := by simp [writeRecord, hs]
@[simp] theorem writeBytes_memForm {s : State} (l : List Nat) (bs : List Byte) (hs : MemForm s.memParts) :
    MemForm (writeBytes s l bs).memParts := by
  induction l generalizing s bs with
  | nil => exact hs
  | cons pa l ih =>
    cases bs with
    | nil => exact hs
    | cons b bs => exact ih _ (writePA_memForm pa [b] hs)
theorem collWrite_memForm {s t : State} {c : Coll} {va : Nat} {bs : List Byte} (h : collWrite s c va bs = .ok t)
    (hs : MemForm s.memParts) : MemForm t.memParts := by
  unfold collWrite at h
  split at h
  · cases h
  · cases h
  · cases h
    simp [hs]
@[simp] theorem finishColl_memForm {s : State} (h : Nat) (c : Coll) (st faddr : Nat) (hs : MemForm s.memParts) :
    MemForm (finishColl s h c st faddr).memParts := by
  unfold finishColl
  dsimp only
  split
  · next e => simp [collWrite_memForm e hs]
  · simp [hs]
@[simp] theorem failColl_memForm {s : State} (h : Nat) (c : Coll) (st faddr : Nat) (hs : MemForm s.memParts) :
    MemForm (failColl s h c st faddr).memParts := by simp [failColl, hs]
@[simp] theorem settleColl_memForm {s : State} (h : Nat) (hs : MemForm s.memParts) : MemForm (settleColl s h).memParts := by
  unfold settleColl
  split
  · exact hs
  · next c _ =>
    split
    · exact hs
    · extract_lets s1 s2
      have h1 : s1.memParts = s.memParts := by
        refine foldl_memParts (fun s i => ?_) _ s
        split <;> simp
      have h2 : MemForm s2.memParts := by simpa [s2, h1] using hs
      split
      · exact finishColl_memForm h c 0 0 h2
      · exact h2
@[simp] theorem reduceChunk_memForm {s : State} (h : Nat) (c : Coll) (k : Nat) (hs : MemForm s.memParts) :
    MemForm (reduceChunk s h c k).memParts := by
  unfold reduceChunk
  dsimp only
  split
  · simp [hs]
  · split
    · simp [hs]
    · split
      · simp [hs]
      · next e =>
        have h1 := collWrite_memForm e hs
        split <;> simp [h1]
@[simp] theorem beginMarks_memForm {s : State} (h : Nat) (c : Coll) (ts : List (List Edge)) (hs : MemForm s.memParts) :
    MemForm (beginMarks s h c ts).memParts := by
  unfold beginMarks
  split <;> simp [hs]
/-- The memory of a computation on chunks that has not failed keeps its form. -/
def ChunksForm (p : Meets (State × AMap Chunk)) : Prop := ∀ q, p = .ok q → MemForm q.1.memParts
theorem chunksForm_ok {s : State} (m : AMap Chunk) (hs : MemForm s.memParts) : ChunksForm (.ok (s, m)) := by
  intro q h
  cases h
  exact hs
theorem chunksForm_bad (st a : Nat) : ChunksForm (.bad st a) := fun _ h => by cases h
theorem resumeChunk_chunksForm (ts : List (List Edge)) (c : Coll) (k : Nat) {p : Meets (State × AMap Chunk)} (hp : ChunksForm p) :
    ChunksForm (resumeChunk ts c k p) := by
  unfold resumeChunk
  split
  · exact hp
  · next s m =>
    have hs : MemForm s.memParts := hp _ rfl
    extract_lets old again
    split
    · exact chunksForm_ok _ hs
    · split
      · split
        · split
          · exact chunksForm_ok _ hs
          · exact chunksForm_bad _ _
        · exact chunksForm_ok _ hs
      · exact chunksForm_ok _ hs
    · split
      · exact chunksForm_bad _ _
      · next e => exact chunksForm_ok _ (collWrite_memForm e hs)
@[simp] theorem resumeColl_memForm {s : State} (h : Nat) (c : Coll) (ts : List (List Edge)) (hs : MemForm s.memParts) :
    MemForm (resumeColl s h c ts).memParts := by
  have hc : ChunksForm ((List.range (chunkCount c)).foldl (fun p k => resumeChunk ts c k p) (.ok (s, amEmpty))) :=
    foldl_inv _ ChunksForm (fun p k hp => resumeChunk_chunksForm ts c k hp) _ (chunksForm_ok _ hs)
  unfold resumeColl
  split
  · simp [hs]
  · next e => simp [hc _ e]
@[simp] theorem endGroupColls_memForm {s : State} (g st : Nat) (hs : MemForm s.memParts) : MemForm (endGroupColls s g st).memParts := by
  refine foldl_memForm (fun s h hs => ?_) _ hs
  split <;> simp [hs]
@[simp] theorem recompute_memForm {s : State} (g : Nat) (hs : MemForm s.memParts) : MemForm (recompute s g).memParts := by
  unfold recompute
  split
  · simp [hs]
  · refine foldl_memForm (fun s h hs => ?_) _ hs
    split <;> simp [hs]
@[simp] theorem beginColl_memForm {s : State} (h : Nat) (c : Coll) (hs : MemForm s.memParts) : MemForm (beginColl s h c).memParts := by
  unfold beginColl
  split
  · simp [hs]
  · split
    · simp [hs]
    · dsimp only
      split
      · simp [hs]
      · next e => simp [collWrite_memForm e hs]
@[simp] theorem startColl_memForm {s : State} (d : BitVec 5) (w : List W64) (va : Nat) (hs : MemForm s.memParts) :
    MemForm (startColl s d w va).memParts := by simp [startColl, hs]
@[simp] theorem refreeze_memForm {s : State} (sp : Nat) (x : Span) (hs : MemForm s.memParts) :
    MemForm (refreeze s sp x).memParts := by simp [refreeze, hs]
@[simp] theorem softMemory_memForm {s : State} (multi : Bool) (pa code : Nat) (hs : MemForm s.memParts) :
    MemForm (softMemory s multi pa code).memParts := by simp [softMemory, hs]
@[simp] theorem powerRecord_memForm {s : State} (die action watts : Nat) (hs : MemForm s.memParts) :
    MemForm (powerRecord s die action watts).memParts := by simp [powerRecord, hs]
@[simp] theorem advanceTime_memForm (dt : Vec16 Nat) {s : State} (hs : MemForm s.memParts) :
    MemForm (advanceTime dt s).memParts := by simp +contextual [advanceTime, foldl_memForm, hs]
@[simp] theorem passTime_memForm (dt : Vec16 Nat) {s : State} (hs : MemForm s.memParts) :
    MemForm (passTime dt s).memParts := by simp [passTime, hs]

/-! The same of the instructions: those that keep memory as it is, and those that write it. -/

/-- A step from `s` that changes nothing of what `State.memOk` speaks of. -/
def KeepsMem (s : State) (o : Out) : Prop := ∀ t, o = .next t → t.memParts = s.memParts
/-- A step that ends in a state whose memory has its form. -/
def OutForm (o : Out) : Prop := ∀ t, o = .next t → MemForm t.memParts

@[simp] theorem keepsMem_next (s t : State) : KeepsMem s (.next t) ↔ t.memParts = s.memParts :=
  ⟨fun h => h t rfl, fun h _ e => by cases e; exact h⟩
@[simp] theorem keepsMem_fault (s : State) (r : Fault) : KeepsMem s (.fault r) := fun _ h => by cases h
@[simp] theorem ite_keepsMem (s : State) (c : Prop) [Decidable c] (o p : Out) :
    KeepsMem s (if c then o else p) ↔ if c then KeepsMem s o else KeepsMem s p := by
  split <;> rfl
@[simp] theorem outForm_next (t : State) : OutForm (.next t) ↔ MemForm t.memParts :=
  ⟨fun h => h t rfl, fun h _ e => by cases e; exact h⟩
@[simp] theorem outForm_fault (r : Fault) : OutForm (.fault r) := fun _ h => by cases h
@[simp] theorem ite_outForm (c : Prop) [Decidable c] (o p : Out) :
    OutForm (if c then o else p) ↔ if c then OutForm o else OutForm p := by
  split <;> rfl
theorem KeepsMem.outForm {s : State} {o : Out} (ho : KeepsMem s o) (hs : MemForm s.memParts) : OutForm o := fun t h => by
  rw [ho t h]
  exact hs
theorem fireSlot_keepsMem (s : State) (op : Nat) (w : Slot) (f : Env → Effect) : KeepsMem s (fireSlot s op w f) := by
  unfold fireSlot
  split <;> simp
theorem fireOperator_keepsMem (s : State) (op : Nat) (w : Slot) (f : Env → Effect) (g : Env → OpCtx → OpCtx) :
    KeepsMem s (fireOperator s op w f g) := by
  unfold fireOperator
  split <;> simp
theorem laneFire_keepsMem (s : State) (op : Nat) (w : Slot) (fmt : Option Nat) (k : Nat) (f : Env → Nat → W32) :
    KeepsMem s (laneFire s op w fmt k f) := fireSlot_keepsMem s op w _
theorem execBrambleCnt_keepsMem (g : BitVec 3) (s : State) : KeepsMem s (execBrambleCnt g s) := by simp [execBrambleCnt]
theorem execEmit_keepsMem (g : BitVec 3) (s : State) : KeepsMem s (execEmit g s) := by simp [execEmit]
theorem execPatLoop_keepsMem (j : BitVec 2) (n : BitVec 12) (b : BitVec 10) (s : State) :
    KeepsMem s (execPatLoop j n b s) := by simp [execPatLoop]
theorem execPatEnd_keepsMem (s : State) : KeepsMem s (execPatEnd s) := by simp [execPatEnd]
theorem runPattern_keepsMem (p : PatOp) (s : State) : KeepsMem s (runPattern p s) := by
  cases p with
  | cnt g => exact execBrambleCnt_keepsMem g s
  | emit g => exact execEmit_keepsMem g s
  | loop j n b => exact execPatLoop_keepsMem j n b s
  | fin => exact execPatEnd_keepsMem s
  | _ => exact (keepsMem_next _ _).2 (patWrite_memParts _ _ _)
theorem brambleStep_keepsMem (s : State) (cl ctx : Nat) : KeepsMem s (brambleStep s cl ctx) := by
  unfold brambleStep
  extract_lets c
  split
  · simp
  · split
    · simp
    · split
      · simp
      · exact runPattern_keepsMem _ _
theorem cvtFire_keepsMem (s : State) (op : Nat) (w : Slot) (sat : Bool) : KeepsMem s (cvtFire s op w sat) :=
  laneFire_keepsMem s op w _ 1 _
theorem execStl_outForm (a b : BitVec 5) (s_ : BitVec 3) (w : BitVec 1) {s : State} (hs : MemForm s.memParts) :
    OutForm (execStl a b s_ w s) := by
  simp [execStl, hs]
theorem execFence_outForm (e : BitVec 1) (s_ : BitVec 3) {s : State} (hs : MemForm s.memParts) :
    OutForm (execFence e s_ s) := by simp [execFence, hs]
theorem execCoreAccessPerformed_outForm (cl grp idx : Nat) {s : State} (hs : MemForm s.memParts) :
    OutForm (execCoreAccessPerformed cl grp idx s) := by
  unfold execCoreAccessPerformed
  dsimp only
  repeat' split
  all_goals simp [hs]
theorem execAging_keepsMem (cl grp : Nat) (s : State) : KeepsMem s (execAging cl grp s) := by simp [execAging]
theorem nextGroup_memForm {s : State} (cl : Nat) (hs : MemForm s.memParts) : MemForm (nextGroup s cl).1.memParts := by
  unfold nextGroup
  split <;> simp [hs]
theorem execEventTaken_outForm (cl : Nat) {s : State} (hs : MemForm s.memParts) : OutForm (execEventTaken cl s) := by
  have hn := nextGroup_memForm cl hs
  unfold execEventTaken
  split
  · next e =>
    rw [e] at hn
    simp [hs, hn]
  · simp [hs]
theorem execIllegalInstruction_keepsMem (sub : BitVec 8) (s : State) :
    KeepsMem s (execIllegalInstruction sub s) := by simp [execIllegalInstruction]
theorem execEret_keepsMem (s : State) : KeepsMem s (execEret s) := by simp [execEret]
theorem execWfi_keepsMem (s : State) : KeepsMem s (execWfi s) := by simp [execWfi]
theorem execPrio_keepsMem (d : BitVec 5) (c : BitVec 2) (s : State) : KeepsMem s (execPrio d c s) := by simp [execPrio]
theorem execBarG_outForm (m : BitVec 4) {s : State} (hs : MemForm s.memParts) : OutForm (execBarG m s) := by simp [execBarG, hs]
theorem execBarC_outForm (a : BitVec 5) (i : BitVec 6) {s : State} (hs : MemForm s.memParts) : OutForm (execBarC a i s) := by
  unfold execBarC
  dsimp only
  repeat' split
  all_goals simp [hs]
theorem execBarrierComplete_outForm (cl id : Nat) (clusterBar : Bool) {s : State} (hs : MemForm s.memParts) :
    OutForm (execBarrierComplete cl id clusterBar s) := by
  unfold execBarrierComplete
  repeat' split
  all_goals simp [hs]
theorem execSyr_keepsMem (d : BitVec 5) (r : BitVec 12) (s : State) : KeepsMem s (execSyr d r s) := by simp [execSyr]
theorem execSyw_keepsMem (a : BitVec 5) (r : BitVec 12) (s : State) : KeepsMem s (execSyw a r s) := by simp [execSyw]
theorem execSyEscWrite_keepsMem (xa : BitVec 5) (s : State) : KeepsMem s (execSyEscWrite xa s) := by simp [execSyEscWrite]
theorem execSyEresWrite_keepsMem (xa : BitVec 5) (s : State) : KeepsMem s (execSyEresWrite xa s) := by simp [execSyEresWrite]
theorem execCnt_keepsMem (d a : BitVec 5) (o : BitVec 2) (i : BitVec 6) (s : State) : KeepsMem s (execCnt d a o i s) := by
  unfold execCnt
  split <;> simp
theorem execTokenRelease_keepsMem (sp ch : Nat) (s : State) : KeepsMem s (execTokenRelease sp ch s) := by
  unfold execTokenRelease
  repeat' split
  all_goals simp
theorem execTokenArrival_outForm (sp ch br : Nat) (bad : Bool) {s : State} (hs : MemForm s.memParts) :
    OutForm (execTokenArrival sp ch br bad s) := by
  unfold execTokenArrival
  dsimp only
  repeat' split
  all_goals simp [hs]
theorem execRewiringComplete_outForm (sp op : Nat) {s : State} (hs : MemForm s.memParts) : OutForm (execRewiringComplete sp op s) := by
  unfold execRewiringComplete
  repeat' split
  all_goals simp [hs]
theorem execWindowEnd_keepsMem (cl : Nat) (s : State) : KeepsMem s (execWindowEnd cl s) := by
  unfold execWindowEnd
  repeat' split
  all_goals simp
theorem execCfg_outForm (d a : BitVec 5) {s : State} (hs : MemForm s.memParts) : OutForm (execCfg d a s) := by
  unfold execCfg
  split <;> simp [hs]
theorem execGo_outForm {s : State} (hs : MemForm s.memParts) : OutForm (execGo s) := by
  unfold execGo
  split <;> simp [hs]
theorem execWaitl_outForm (d : BitVec 5) {s : State} (hs : MemForm s.memParts) : OutForm (execWaitl d s) := by
  unfold execWaitl
  split <;> simp [hs]
theorem execWaitlNb_outForm (d : BitVec 5) {s : State} (hs : MemForm s.memParts) : OutForm (execWaitlNb d s) := by
  unfold execWaitlNb
  split <;> simp [hs]
theorem execRdlay_outForm (d : BitVec 5) {s : State} (hs : MemForm s.memParts) : OutForm (execRdlay d s) := by simp [execRdlay, hs]
theorem execRdlayT_keepsMem (d : BitVec 5) (s : State) : KeepsMem s (execRdlayT d s) := by
  unfold execRdlayT
  split <;> simp
theorem execPin_keepsMem (d a : BitVec 5) (s : State) : KeepsMem s (execPin d a s) := by
  unfold execPin
  split <;> simp
theorem execUnpin_keepsMem (a : BitVec 5) (s : State) : KeepsMem s (execUnpin a s) := by
  unfold execUnpin
  split <;> simp
theorem execRate_keepsMem (d a b : BitVec 5) (s : State) : KeepsMem s (execRate d a b s) := by
  unfold execRate
  dsimp only
  repeat' split
  all_goals simp
theorem execLoadComplete_outForm (sp : Nat) {s : State} (hs : MemForm s.memParts) : OutForm (execLoadComplete sp s) := by
  unfold execLoadComplete
  repeat' split
  all_goals simp [hs]
theorem execWatchdog_keepsMem (sp : Nat) (s : State) : KeepsMem s (execWatchdog sp s) := by
  unfold execWatchdog
  repeat' split
  all_goals simp
theorem memFire_keepsMem (s : State) (op : Nat) (w : Slot) (m : Env → MemOp) (first : Bool) (off data cmp : Env → Nat → W32) :
    KeepsMem s (memFire s op w m first off data cmp) := by
  unfold memFire
  split <;> simp
theorem execMemoryAnswer_outForm (cl el idx lane : Nat) {s : State} (hs : MemForm s.memParts) :
    OutForm (execMemoryAnswer cl el idx lane s) := by
  unfold execMemoryAnswer
  dsimp only
  repeat' split
  all_goals simp [hs, performGranule_memForm]
theorem execFeWaitEnd_outForm (cl el idx : Nat) {s : State} (hs : MemForm s.memParts) : OutForm (execFeWaitEnd cl el idx s) := by
  unfold execFeWaitEnd
  dsimp only
  split
  · simp [hs]
  · simp [hs, performGranules_memForm]
theorem execResponseQueueLeave_keepsMem (cl el : Nat) (s : State) : KeepsMem s (execResponseQueueLeave cl el s) := by
  unfold execResponseQueueLeave
  repeat' split
  all_goals simp
theorem execAgSetup_keepsMem (cl tile ag : Nat) (s : State) : KeepsMem s (execAgSetup cl tile ag s) := by
  unfold execAgSetup
  repeat' split
  all_goals simp
theorem execAgArm_keepsMem (cl tile ag : Nat) (s0 : State) : KeepsMem s0 (execAgArm cl tile ag s0) := by
  unfold execAgArm
  dsimp only
  repeat' split
  all_goals simp
theorem execAgRead_keepsMem (cl tile ag : Nat) (s0 : State) : KeepsMem s0 (execAgRead cl tile ag s0) := by
  unfold execAgRead
  dsimp only
  repeat' split
  all_goals simp
theorem execAgWrite_keepsMem (cl tile ag : Nat) (s0 : State) : KeepsMem s0 (execAgWrite cl tile ag s0) := by
  unfold execAgWrite
  dsimp only
  repeat' split
  all_goals simp
theorem moveStep_memForm (opx cl tile ag : Nat) {s : State}
    {f : State → Nat → Nat → Nat → Nat → Nat → Nat → AddrGen → Job → State}
    (hf : ∀ s sp rel cl tile ag asid g j, MemForm s.memParts → MemForm (f s sp rel cl tile ag asid g j).memParts)
    (hs : MemForm s.memParts) : MemForm (moveStep opx cl tile ag s f).memParts := by
  unfold moveStep
  dsimp only
  repeat' split
  all_goals simp [hf, hs]
theorem execAgFetch_outForm (cl tile ag : Nat) {s : State} (hs : MemForm s.memParts) : OutForm (execAgFetch cl tile ag s) :=
  (outForm_next _).2 (moveStep_memForm 3 cl tile ag (fun _ sp rel cl t a asid g j hs => fetchGranule_memForm sp rel cl t a asid g j hs) hs)
theorem execAgPut_outForm (cl tile ag : Nat) {s : State} (hs : MemForm s.memParts) : OutForm (execAgPut cl tile ag s) :=
  (outForm_next _).2 (moveStep_memForm 5 cl tile ag (fun _ sp rel cl t a asid g j hs => putGranule_memForm sp rel cl t a asid g j hs) hs)
@[simp] theorem takeTicket_memParts (s : State) (sp : Nat) : (takeTicket s sp).2.memParts = s.memParts := by
  unfold takeTicket
  split <;> simp
theorem execStrm_outForm (a b : BitVec 5) {s : State} (hs : MemForm s.memParts) : OutForm (execStrm a b s) := by
  have hr := releaseCur_memForm 1 hs
  unfold execStrm
  dsimp only
  repeat' split
  all_goals simp [hs, hr]
theorem execStreamStart_outForm (cl port : Nat) {s : State} (hs : MemForm s.memParts) : OutForm (execStreamStart cl port s) := by
  unfold execStreamStart
  dsimp only
  repeat' split
  all_goals simp [hs]
theorem execFeedToken_outForm (cl port : Nat) {s : State} (hs : MemForm s.memParts) : OutForm (execFeedToken cl port s) := by
  unfold execFeedToken
  dsimp only
  repeat' split
  all_goals simp [hs]
theorem execStreamEnd_outForm (cl port : Nat) {s : State} (hs : MemForm s.memParts) : OutForm (execStreamEnd cl port s) := by
  unfold execStreamEnd
  dsimp only
  repeat' split
  all_goals simp [hs]
theorem execPortGet_outForm (cl port : Nat) {s : State} (hs : MemForm s.memParts) : OutForm (execPortGet cl port s) := by
  unfold execPortGet
  split
  · simp [hs]
  · extract_lets p
    split
    · simp [hs]
    · split
      · simp [hs]
      · extract_lets k
        split
        · simp [hs]
        · simp [hs]
        · refine (outForm_next _).2 (admitToken_memForm _ _ _ _ _ _ (fun t ht => ?_) (by simpa using hs))
          extract_lets t1
          have h1 : MemForm t1.memParts := by simp [t1, ht]
          split <;> simp [h1]
theorem execPortPuts_outForm (cl port : Nat) {s : State} (hs : MemForm s.memParts) : OutForm (execPortPuts cl port s) := by
  unfold execPortPuts
  dsimp only
  repeat' split
  all_goals simp [hs]
theorem execPatld_outForm (a b : BitVec 5) {s : State} (hs : MemForm s.memParts) : OutForm (execPatld a b s) := by
  unfold execPatld
  dsimp only
  repeat' split
  all_goals simp [hs]
theorem execMcast_outForm (a b : BitVec 5) {s : State} (hs : MemForm s.memParts) : OutForm (execMcast a b s) := by
  have hr := releaseCur_memForm 1 hs
  unfold execMcast
  dsimp only
  repeat' split
  all_goals simp [hs, hr]
theorem execMulticastDelivery_outForm (sp idx cl line : Nat) {s : State} (hs : MemForm s.memParts) :
    OutForm (execMulticastDelivery sp idx cl line s) := by
  unfold execMulticastDelivery
  dsimp only
  repeat' split
  all_goals simp [hs]
theorem chargeLimiter_keeps {s t : State} {sp cl port cost : Nat} {ok : Bool} (h : chargeLimiter s sp cl port cost = (ok, t)) :
    t.memParts = s.memParts := by
  have hc := chargeLimiter_memParts s sp cl port cost
  rwa [h] at hc
theorem execMma_keepsMem (cl : Nat) (s : State) : KeepsMem s (execMma cl s) := by
  unfold execMma
  dsimp only
  split
  · simp
  · split
    · simp
    · split
      · simp
      · split
        · next h => simp [chargeLimiter_keeps h]
        · next h => simp [chargeLimiter_keeps h]
theorem execSetreg_keepsMem (cl : Nat) (s : State) : KeepsMem s (execSetreg cl s) := by
  unfold execSetreg
  dsimp only
  split
  · simp
  · split
    · simp
    · split
      · next h => simp [chargeLimiter_keeps h]
      · next h => simp [chargeLimiter_keeps h]
theorem execIslandStage_outForm (cl : Nat) {s : State} (hs : MemForm s.memParts) : OutForm (execIslandStage cl s) := by
  unfold execIslandStage
  dsimp only
  repeat' split
  all_goals simp [hs]
theorem execIslandArray_outForm (cl miss : Nat) {s : State} (hs : MemForm s.memParts) : OutForm (execIslandArray cl miss s) := by
  unfold execIslandArray
  dsimp only
  repeat' split
  all_goals simp [hs]
theorem execIslandDrain_keepsMem (cl : Nat) (s : State) : KeepsMem s (execIslandDrain cl s) := by
  unfold execIslandDrain
  repeat' split
  all_goals simp
theorem execLaunch_outForm (d a : BitVec 5) (q p : BitVec 1) {s : State} (hs : MemForm s.memParts) :
    OutForm (execLaunch d a q p s) := by
  have hr := releaseCur_memForm 3 hs
  have ht (pas : List Nat) := touchRead_memForm s.cur.cl pas hr
  unfold execLaunch
  dsimp only
  repeat' split
  all_goals simp [hs, hr, ht]
theorem execWaitg_outForm (d a : BitVec 5) {s : State} (hs : MemForm s.memParts) : OutForm (execWaitg d a s) := by
  unfold execWaitg
  dsimp only
  repeat' split
  all_goals simp [hs]
theorem execDispatch_outForm (part : Nat) {s : State} (hs : MemForm s.memParts) :
    OutForm (execDispatch part s) := by simp [execDispatch, hs]
theorem execCoreTrap_outForm (a : BitVec 5) (c : BitVec 16) {s : State} (hs : MemForm s.memParts) :
    OutForm (execCoreTrap a c s) := by simp [execCoreTrap, hs]
theorem execChildExit_outForm (cl grp : Nat) {s : State} (hs : MemForm s.memParts) : OutForm (execChildExit cl grp s) := by
  unfold execChildExit
  split <;> simp [hs]
theorem execWalk_outForm (cl idx : Nat) {s : State} (hs : MemForm s.memParts) : OutForm (execWalk cl idx s) := by
  unfold execWalk
  repeat' split
  all_goals simp [hs]
theorem removeEntries_memForm (v : Inval) {s : State} (hs : MemForm s.memParts) : MemForm (removeEntries s v).1.memParts := by
  refine ⟨hs.1, hs.2.1, fun n hn => ?_⟩
  obtain ⟨m, hm, rfl⟩ := List.mem_map.mp hn
  exact hs.2.2 m hm
theorem execInvalidationAck_outForm {s : State} (hs : MemForm s.memParts) : OutForm (execInvalidationAck s) := by
  unfold execInvalidationAck
  split
  · simp [hs]
  · simp [hs, removeEntries_memForm]
theorem superOnly_memForm {s t : State} (hs : MemForm s.memParts) (ht : MemForm t.memParts) : MemForm (superOnly s t).memParts := by
  simp [superOnly, hs, ht]
theorem execInvr_outForm (d a b : BitVec 5) {s : State} (hs : MemForm s.memParts) : OutForm (execInvr d a b s) :=
  (outForm_next _).2 (superOnly_memForm hs (by simp [hs]))
theorem execInvalidation_keepsMem (v : W64) (s : State) : KeepsMem s (execInvalidation v s) := by simp [execInvalidation]
theorem execSpanFreeze_keepsMem (v : W64) (s : State) : KeepsMem s (execSpanFreeze v s) := by
  unfold execSpanFreeze
  split
  · simp
  · exact (keepsMem_next _ _).2 (preWrite_memParts s v _ (fun t => by split <;> simp))
theorem execFreezeComplete_outForm (sp : Nat) {s : State} (hs : MemForm s.memParts) : OutForm (execFreezeComplete sp s) := by
  unfold execFreezeComplete
  split <;> simp [hs]
theorem execSpanThaw_keepsMem (v : W64) (s : State) : KeepsMem s (execSpanThaw v s) := by
  unfold execSpanThaw
  split
  · simp
  · exact (keepsMem_next _ _).2 (preWrite_memParts s v _ (fun t => by split <;> simp))
theorem preWrite_memForm {s : State} (v : W64) {start : State → State} (hf : ∀ t, MemForm t.memParts → MemForm (start t).memParts)
    (hs : MemForm s.memParts) : MemForm (preWrite s v start).memParts := by
  simp [preWrite, hs, hf]
theorem execSpanSave_outForm (v : W64) {s : State} (hs : MemForm s.memParts) : OutForm (execSpanSave v s) := by
  unfold execSpanSave
  split
  · simp [hs]
  · exact (outForm_next _).2 (preWrite_memForm v (fun t ht => by dsimp only; split <;> simp [ht]) hs)
@[simp] theorem releaseSaved_memParts (s : State) (sp : Nat) (x : Span) : (releaseSaved s sp x).2.memParts = s.memParts := by
  simp [releaseSaved, takeFree]
theorem execSaveDone_outForm (sp : Nat) {s : State} (hs : MemForm s.memParts) : OutForm (execSaveDone sp s) := by
  unfold execSaveDone
  split <;> simp [hs]
theorem tryRestore_memParts {s t : State} {part target : Nat} {hdr body : List Byte} (h : tryRestore s part target hdr body = .ok t) :
    t.memParts = s.memParts := by
  unfold tryRestore at h
  repeat' split at h
  all_goals cases h
  simp
theorem execSpanRestore_keepsMem (v : W64) (s : State) : KeepsMem s (execSpanRestore v s) := by
  unfold execSpanRestore
  split
  · simp
  · refine (keepsMem_next _ _).2 (preWrite_memParts s v _ (fun t => ?_))
    dsimp only
    split
    · simp
    · split
      · simp
      · next h => simp [tryRestore_memParts h]
/-- Reading an area's addresses, and taking a saved span away, as functions of which the proofs below use no more than this: written
out, the kernel would evaluate them on whole areas. -/
theorem opaqueArea : ∃ words save, areaWords = words ∧ releaseSaved = save ∧ ∀ s sp x, (save s sp x).2.memParts = s.memParts :=
  ⟨_, _, rfl, rfl, releaseSaved_memParts⟩
theorem execCtxsv_outForm (a : BitVec 5) {s : State} (hs : MemForm s.memParts) : OutForm (execCtxsv a s) := by
  have hr := releaseCur_memForm 3 hs
  obtain ⟨words, save, hw, hv, hsave⟩ := opaqueArea
  unfold execCtxsv
  rw [hw, hv]
  refine (outForm_next _).2 (superOnly_memForm hs ?_)
  dsimp only
  repeat' split
  all_goals simp [hs, hr, hsave]
theorem execCtxld_outForm (a : BitVec 5) {s : State} (hs : MemForm s.memParts) : OutForm (execCtxld a s) := by
  have hr := releaseCur_memForm 3 hs
  obtain ⟨words, _, hw, _, _⟩ := opaqueArea
  unfold execCtxld
  rw [hw]
  refine (outForm_next _).2 (superOnly_memForm hs ?_)
  split
  · simp [hs]
  · dsimp only
    split
    · simp [hr]
    · simp [hr]
    · split
      · simp [hr]
      · split
        · simp [hr]
        · simp [hr]
        · split
          · simp [hr]
          · split
            · simp [hr]
            · simp [hr]
            · next h => simp [tryRestore_memParts h, hr]
theorem hostRead_keepsMem (a n : Nat) (s : State) : KeepsMem s (hostRead a n s) := by simp [hostRead]
theorem hostStore_outForm (a : Nat) (data : List Byte) {s : State} (hs : MemForm s.memParts) :
    OutForm (hostStore a data s) := by simp +contextual [hostStore, foldl_memForm, hs]
theorem hostDecoder_keepsMem (i base size dpa : Nat) (s : State) : KeepsMem s (hostDecoder i base size dpa s) := by simp [hostDecoder]
theorem execHostCoherenceRequest_keepsMem (line : Nat) (excl : Bool) (s : State) :
    KeepsMem s (execHostCoherenceRequest line excl s) := by simp [execHostCoherenceRequest]
theorem execDoorbell_keepsMem (vf q : Nat) (v : W64) (s : State) : KeepsMem s (execDoorbell vf q v s) := by simp [execDoorbell]
theorem execQueueEnable_keepsMem (vf q : Nat) (v : W64) (s : State) : KeepsMem s (execQueueEnable vf q v s) := by simp [execQueueEnable]
theorem execPctlWrite_keepsMem (part : Nat) (v : W64) (s : State) : KeepsMem s (execPctlWrite part v s) := by simp [execPctlWrite]
theorem execPslcWrite_keepsMem (part die word : Nat) (v : W64) (s : State) :
    KeepsMem s (execPslcWrite part die word v s) := by simp [execPslcWrite]
theorem execPartitionBlockWrite_keepsMem (part off : Nat) (v : W64) (s : State) :
    KeepsMem s (execPartitionBlockWrite part off v s) := by simp [execPartitionBlockWrite]
theorem execSliceFlush_keepsMem (die : Nat) (v : W64) (s : State) : KeepsMem s (execSliceFlush die v s) := by
  unfold execSliceFlush
  dsimp only
  repeat' split
  all_goals simp
theorem execFlushDone_keepsMem (die : Nat) (s : State) : KeepsMem s (execFlushDone die s) := by simp [execFlushDone]
theorem execPartitionInterruptAck_keepsMem (vf : Nat) (v : W64) (s : State) :
    KeepsMem s (execPartitionInterruptAck vf v s) := by simp [execPartitionInterruptAck]
theorem execDcselWrite_keepsMem (die n : Nat) (v : W64) (s : State) : KeepsMem s (execDcselWrite die n v s) := by simp [execDcselWrite]
theorem execExclusionWrite_outForm (off : Nat) (v : W64) {s : State} (hs : MemForm s.memParts) :
    OutForm (execExclusionWrite off v s) := by simp +contextual [execExclusionWrite, foldl_memForm, hs]
theorem execRegisterWrite_keepsMem (fn off : Nat) (v : W64) (s : State) :
    KeepsMem s (execRegisterWrite fn off v s) := by simp [execRegisterWrite]
theorem execVfReset_outForm (vf : Nat) {s : State} (hs : MemForm s.memParts) : OutForm (execVfReset vf s) := by
  unfold execVfReset
  repeat' split
  all_goals simp [hs]
theorem execLinkJudgement_outForm (link rpl : Nat) {s : State} (hs : MemForm s.memParts) :
    OutForm (execLinkJudgement link rpl s) := by simp [execLinkJudgement, hs]
theorem execLinkTraining_keepsMem (link lanes : Nat) (ok : Bool) (s : State) :
    KeepsMem s (execLinkTraining link lanes ok s) := by simp [execLinkTraining]
theorem execGroupEnable_keepsMem (g : Nat) (v : W64) (s : State) : KeepsMem s (execGroupEnable g v s) := by simp [execGroupEnable]
theorem execRowExchange_keepsMem (g rank : Nat) (row : List W64) (s : State) :
    KeepsMem s (execRowExchange g rank row s) := by simp [execRowExchange]
theorem execLinkStateUpdate_keepsMem (g epoch rank link st : Nat) (s : State) :
    KeepsMem s (execLinkStateUpdate g epoch rank link st s) := by
  unfold execLinkStateUpdate
  dsimp only
  repeat' split
  all_goals simp
theorem execChunkPartial_outForm (h chunk child : Nat) (data : List Byte) {s : State} (hs : MemForm s.memParts) :
    OutForm (execChunkPartial h chunk child data s) := by
  unfold execChunkPartial
  split <;> simp [hs]
theorem takeResult_memForm {s t : State} {c : Coll} {k : Nat} {d : List Byte} (h : takeResult s c k d = .ok t) (hs : MemForm s.memParts) :
    MemForm t.memParts := by
  unfold takeResult at h
  split at h
  · cases h
  · next e1 =>
    split at h
    · cases h
    · next e2 => exact collWrite_memForm h (collWrite_memForm e2 (collWrite_memForm e1 hs))
@[simp] theorem receive_getD_memForm {s : State} (g : Nat) (o : Option Nat) (hs : MemForm s.memParts) :
    MemForm ((o.map (receive s g)).getD s).memParts := by
  cases o <;> simp [hs]
theorem execChunkResult_outForm (h chunk : Nat) (data : List Byte) {s : State} (hs : MemForm s.memParts) :
    OutForm (execChunkResult h chunk data s) := by
  unfold execChunkResult
  split
  · simp [hs]
  · next c _ =>
    dsimp only
    split
    · simp [hs]
    · split
      · simp [hs]
      · next d _ =>
        split
        · simp [hs]
        · split
          · simp [hs]
          · next t e =>
            have ht : MemForm t.memParts := by
              split at e
              · cases e
                exact hs
              · exact takeResult_memForm e hs
            have hu := receive_getD_memForm c.gid (parentOf (treeOf c chunk) (chunkOf c chunk).root c.rank) ht
            simp [hu]
theorem execDoneReport_outForm (h child : Nat) {s : State} (hs : MemForm s.memParts) : OutForm (execDoneReport h child s) := by
  unfold execDoneReport
  split <;> simp [hs]
theorem execMemberStatus_outForm (h rank st : Nat) (faddr : W64) {s : State} (hs : MemForm s.memParts) :
    OutForm (execMemberStatus h rank st faddr s) := by
  unfold execMemberStatus
  split <;> simp [hs]
theorem execMarkExchange_outForm (h rank : Nat) (marks : List Nat) {s : State} (hs : MemForm s.memParts) :
    OutForm (execMarkExchange h rank marks s) := by
  unfold execMarkExchange
  repeat' split
  all_goals simp [hs]
theorem execEpochApply_outForm (g : Nat) (crcs : List Nat) {s : State} (hs : MemForm s.memParts) :
    OutForm (execEpochApply g crcs s) := by simp [execEpochApply, hs]
theorem execGroupDisable_outForm (g : Nat) (v : W64) {s : State} (hs : MemForm s.memParts) :
    OutForm (execGroupDisable g v s) := by simp [execGroupDisable, hs]
theorem execColl_outForm (d a : BitVec 5) {s : State} (hs : MemForm s.memParts) : OutForm (execColl d a s) := by
  have hr := releaseCur_memForm 4 hs
  have ht (pas : List Nat) := touchRead_memForm (releaseCur s 4).cur.cl pas hr
  unfold execColl
  dsimp only
  repeat' split
  all_goals simp [hs, hr, ht]
theorem execCollw_outForm (d a : BitVec 5) {s : State} (hs : MemForm s.memParts) : OutForm (execCollw d a s) := by
  unfold execCollw
  dsimp only
  repeat' split
  all_goals simp [hs]
theorem execGetMeasurements_keepsMem (nonce : List Byte) (s : State) : KeepsMem s (execGetMeasurements nonce s) := by
  simp [execGetMeasurements, takeFree]
theorem execGetCertificate_keepsMem (slot : Nat) (s : State) : KeepsMem s (execGetCertificate slot s) := by simp [execGetCertificate]
theorem execBootVerify_keepsMem (s : State) : KeepsMem s (execBootVerify s) := by simp [execBootVerify]
theorem execDieTrainingEnd_keepsMem (die : Nat) (ok : Bool) (s : State) :
    KeepsMem s (execDieTrainingEnd die ok s) := by simp [execDieTrainingEnd]
theorem execClockSwitch_outForm {s : State} (hs : MemForm s.memParts) :
    OutForm (execClockSwitch s) := by simp +contextual [execClockSwitch, foldl_memForm, hs]
theorem execPackageReset_outForm {s : State} (hs : MemForm s.memParts) : OutForm (execPackageReset s) :=
  (outForm_next _).2 ⟨hs.1, rfl, nofun⟩
theorem execPatrol_outForm (code place : Nat) (multi : Bool) {s : State} (hs : MemForm s.memParts) :
    OutForm (execPatrol code place multi s) := by
  unfold execPatrol
  dsimp only
  repeat' split
  all_goals simp [hs, takeFree]
theorem execPowerMeasurement_outForm (die watts temp : Nat) {s0 : State} (hs : MemForm s0.memParts) :
    OutForm (execPowerMeasurement die watts temp s0) := by simp [execPowerMeasurement, hs]
theorem execPowerRemoval_outForm {s : State} (hs : MemForm s.memParts) : OutForm (execPowerRemoval s) := by
  have hn : MemForm (s.mem, [], s.lag) := ⟨hs.1, hs.2.1, nofun⟩
  unfold execPowerRemoval
  split
  · simp [hs]
  · simp [hs, hn]
theorem execJump_keepsMem (o : BitVec 26) (s : State) : KeepsMem s (execJump o s) := by simp [execJump]
theorem execJal_keepsMem (o : BitVec 26) (s : State) : KeepsMem s (execJal o s) := by simp [execJal]
theorem execExt_keepsMem (h : BitVec 26) (s : State) : KeepsMem s (execExt h s) := by simp [execExt]
theorem trapFire_keepsMem (s : State) (w : Slot) : KeepsMem s (trapFire s w) := by
  unfold trapFire
  split <;> simp
theorem execHalt_keepsMem (w : Slot) (s : State) : KeepsMem s (execHalt w s) := fireOperator_keepsMem s 0xE0 w _ _
theorem execRhint_keepsMem (w : Slot) (s : State) : KeepsMem s (execRhint w s) := fireOperator_keepsMem s 0xE2 w _ _
theorem execFhint_keepsMem (w : Slot) (s : State) : KeepsMem s (execFhint w s) := fireOperator_keepsMem s 0xE3 w _ _
theorem execElTrap_keepsMem (w : Slot) (s : State) : KeepsMem s (execElTrap w s) := trapFire_keepsMem s w
theorem hostRegister_outForm (fn off : Nat) {s : State} (hs : MemForm s.memParts) :
    OutForm (hostRegister fn off s) := by simp [hostRegister, hs]
theorem execHostAccess_outForm (a n : Nat) (op : HostOp) (data : List Byte) {s : State} (hs : MemForm s.memParts) :
    OutForm (execHostAccess a n op data s) := by
  cases op with
  | read => exact (hostRead_keepsMem a n s).outForm hs
  | write => exact hostStore_outForm a data hs
  | register => exact hostRegister_outForm a n hs
  | decoder i dpa => exact (hostDecoder_keepsMem i a n dpa s).outForm hs
/-! A step: the cycles before a move, the packets it awaits, and its turn. -/

/-- The instructions outside `mayStore` that rework the lists of scopes: a walk's end and a load's wake groups, an invalidation marks
unseen stores, a package reset and the removal of power end them. -/
def reworksScopes (i : Instr) : Bool :=
  match i with
  | .walk .. | .loadComplete .. | .invalidationAck | .packageReset | .powerRemoval => true
  | _ => false

theorem exec_keepsMem (i : Instr) (s : State) (hm : (mayStore i || reworksScopes i) = false) : KeepsMem s (exec i s) := by
  cases i with
  | addI32 w | subI32 w | addI32Sat w | subI32Sat w | addN32Sat w | subN32Sat w | mulI32 w | mulhI32 w | mulhN32 w | macI32 w
  | minI32 w | maxI32 w | minN32 w | maxN32 w | absI32 w | addI16 w | addI16Sat w | addI8 w | addI8Sat w | dotI8 w | dotN8 w
  | addiI32 w | elAnd w | elOr w | elXor w | elAndn w | elNot w | andi w | ori w | shl w | shr w | sar w | shli w | shri w | sari w
  | clz w | popc w | bfxn w | bfxi w | bfi w | movi w | movih w | cmpeqI32 w | cmpneI32 w | cmpltI32 w | cmpleI32 w | cmpltN32 w
  | cmpleN32 w | pand w | por w | pxor w | pnot w | pcnt w | sel w | bcast w | shuf w | rotl w | slideup w | slidedn w | redaddI32 w
  | redminI32 w | redmaxI32 w | rdf w | addF32 w | subF32 w | mulF32 w | fmaF32 w | minF32 w | maxF32 w | negF32 w | absF32 w
  | sgnjF32 w | cmpeqF32 w | cmpltF32 w | cmpleF32 w | cmpunF32 w | addBf16 w | mulBf16 w | fmaBf16 w | addF16 w | mulF16 w | fmaF16 w
  | dotBf16 w | redaddF32 w | redmaxF32 w | cvtiF32 w | cvtnF32 w | cvtfI32 w | cvtfN32 w | scaleMx w | rcpF32 w | rsqF32 w | ex2F32 w
  | lg2F32 w | tanhF32 w | sigmF32 w =>
    exact laneFire_keepsMem _ _ _ _ _ _
  | setvl w | setvli w | setpol w | clrf w | grpcfg w | qntQg w | dqntQg w | qntMx4 w | dqntMx4 w | pass w | mkrow w | mkend w
  | bubl w | deq w | steer w | mrg w | mrgu w | join w | tagset w | hdrw w | mxtok w | sreq w | xreq w | delta w | resid w =>
    exact fireSlot_keepsMem _ _ _ _
  | cvt w | cvtSat w => exact cvtFire_keepsMem _ _ _ _
  | ld w | ldFe w | ldFeClr w | ldff w | st w | stFull w | gath w | scat w | amoaddI32 w | amominI32 w | amomaxI32 w | amoswp w
  | amocas w | amoaddF32 w =>
    exact memFire_keepsMem _ _ _ _ _ _ _ _
  | halt w => exact execHalt_keepsMem w s
  | rhint w => exact execRhint_keepsMem w s
  | fhint w => exact execFhint_keepsMem w s
  | elTrap w => exact execElTrap_keepsMem w s
  | add d a b | sub d a b | aluAnd d a b | aluOr d a b | aluXor d a b | aluAndn d a b | sll d a b | srl d a b | sra d a b | slt d a b
  | sltu d a b | mul d a b | mulh d a b | mulhu d a b | div d a b | divu d a b | rem d a b | remu d a b | min d a b | max d a b
  | minu d a b | maxu d a b =>
    exact (keepsMem_next _ _).2 (aluRR_memParts _ _ _ _ _)
  | aluClz d a | aluPopc d a => exact (keepsMem_next _ _).2 (aluRR_memParts _ _ _ _ _)
  | addi d a i_ | coreAndi d a i_ | coreOri d a i_ | xori d a i_ | slti d a i_ | sltiu d a i_ =>
    exact (keepsMem_next _ _).2 (aluRI_memParts _ _ _ _ _ _)
  | slli d a c | srli d a c | srai d a c => exact (keepsMem_next _ _).2 (aluRI_memParts _ _ _ _ _ _)
  | liu d i_ => exact (keepsMem_next _ _).2 (aluRI_memParts _ _ _ _ _ _)
  | ext h => exact execExt_keepsMem h s
  | ldI8 d a s_ o | ldN8 d a s_ o | ldI16 d a s_ o | ldN16 d a s_ o | ldI32 d a s_ o | ldN32 d a s_ o | ld64 d a s_ o =>
    exact (keepsMem_next _ _).2 (coreLoad_memParts _ _ _ _ _ _ _ _ _)
  | st8 d a s_ o | st16 d a s_ o | st32 d a s_ o | st64 d a s_ o =>
    exact (keepsMem_next _ _).2 (coreStore_memParts _ _ _ _ _ _ _ _)
  | lda d a s_ w => exact (keepsMem_next _ _).2 (coreLoad_memParts _ _ _ _ _ _ _ _ _)
  | beq a b o | bne a b o | blt a b o | bge a b o | bltu a b o | bgeu a b o =>
    exact (keepsMem_next _ _).2 (coreBranch_memParts _ _ _ _ _ _)
  | jump o => exact execJump_keepsMem o s
  | jal o => exact execJal_keepsMem o s
  | jalr d a i_ => exact (keepsMem_next _ _).2 (coreJalr_memParts _ _ _ _ _)
  | prio d c => exact execPrio_keepsMem d c s
  | rdlayT d => exact execRdlayT_keepsMem d s
  | pin d a => exact execPin_keepsMem d a s
  | unpin a => exact execUnpin_keepsMem a s
  | rate d a b => exact execRate_keepsMem d a b s
  | cnt d a o i_ => exact execCnt_keepsMem d a o i_ s
  | eret => exact execEret_keepsMem s
  | wfi => exact execWfi_keepsMem s
  | syr d r => exact execSyr_keepsMem d r s
  | syw a r => exact execSyw_keepsMem a r s
  | syEscWrite xa => exact execSyEscWrite_keepsMem xa s
  | syEresWrite xa => exact execSyEresWrite_keepsMem xa s
  | illegalInstruction sub => exact execIllegalInstruction_keepsMem sub s
  | band g l h => exact (keepsMem_next _ _).2 (patWrite_memParts _ _ _)
  | dil g d => exact (keepsMem_next _ _).2 (patWrite_memParts _ _ _)
  | bdiag g r c | offs g r c | clip g r c => exact (keepsMem_next _ _).2 (patWrite_memParts _ _ _)
  | kron g a b | patUnion g a b | isect g a b => exact (keepsMem_next _ _).2 (patWrite_memParts _ _ _)
  | patHash g p k t => exact (keepsMem_next _ _).2 (patWrite_memParts _ _ _)
  | patSwap g => exact (keepsMem_next _ _).2 (patWrite_memParts _ _ _)
  | brambleCnt g => exact execBrambleCnt_keepsMem g s
  | emit g => exact execEmit_keepsMem g s
  | patLoop j n b => exact execPatLoop_keepsMem j n b s
  | patEnd => exact execPatEnd_keepsMem s
  | tokenRelease sp ch => exact execTokenRelease_keepsMem sp ch s
  | responseQueueLeave cl el => exact execResponseQueueLeave_keepsMem cl el s
  | watchdog sp => exact execWatchdog_keepsMem sp s
  | windowEnd cl => exact execWindowEnd_keepsMem cl s
  | mma cl => exact execMma_keepsMem cl s
  | setreg cl => exact execSetreg_keepsMem cl s
  | islandDrain cl => exact execIslandDrain_keepsMem cl s
  | agSetup cl tile ag => exact execAgSetup_keepsMem cl tile ag s
  | agRead cl tile ag => exact execAgRead_keepsMem cl tile ag s
  | agWrite cl tile ag => exact execAgWrite_keepsMem cl tile ag s
  | agArm cl tile ag => exact execAgArm_keepsMem cl tile ag s
  | aging cl grp => exact execAging_keepsMem cl grp s
  | doorbell vf q v => exact execDoorbell_keepsMem vf q v s
  | queueEnable vf q v => exact execQueueEnable_keepsMem vf q v s
  | pctlWrite part v => exact execPctlWrite_keepsMem part v s
  | pslcWrite part die word v => exact execPslcWrite_keepsMem part die word v s
  | sliceFlush die v => exact execSliceFlush_keepsMem die v s
  | flushDone die => exact execFlushDone_keepsMem die s
  | invalidation v => exact execInvalidation_keepsMem v s
  | spanFreeze v => exact execSpanFreeze_keepsMem v s
  | spanRestore v => exact execSpanRestore_keepsMem v s
  | spanThaw v => exact execSpanThaw_keepsMem v s
  | partitionInterruptAck vf v => exact execPartitionInterruptAck_keepsMem vf v s
  | dcselWrite die n v => exact execDcselWrite_keepsMem die n v s
  | groupEnable g v => exact execGroupEnable_keepsMem g v s
  | registerWrite fn off v => exact execRegisterWrite_keepsMem fn off v s
  | linkStateUpdate g epoch rank link st => exact execLinkStateUpdate_keepsMem g epoch rank link st s
  | bootVerify => exact execBootVerify_keepsMem s
  | dieTrainingEnd die ok => exact execDieTrainingEnd_keepsMem die ok s
  | getMeasurements nonce => exact execGetMeasurements_keepsMem nonce s
  | getCertificate slot => exact execGetCertificate_keepsMem slot s
  | partitionBlockWrite part off v => exact execPartitionBlockWrite_keepsMem part off v s
  | linkTraining link lanes ok => exact execLinkTraining_keepsMem link lanes ok s
  | rowExchange g rank row => exact execRowExchange_keepsMem g rank row s
  | hostCoherenceRequest line excl => exact execHostCoherenceRequest_keepsMem line excl s
  | _ => cases hm
theorem exec_outForm (i : Instr) {s : State} (hs : MemForm s.memParts) : OutForm (exec i s) := by
  by_cases hm : (mayStore i || reworksScopes i) = false
  · exact (exec_keepsMem i s hm).outForm hs
  · cases i with
    | invalidationAck => exact execInvalidationAck_outForm hs
    | packageReset => exact execPackageReset_outForm hs
    | powerRemoval => exact execPowerRemoval_outForm hs
    | amoAdd d a b s_ r w | amoAnd d a b s_ r w | amoOr d a b s_ r w | amoXor d a b s_ r w | amoMin d a b s_ r w | amoMax d a b s_ r w
    | amoMinu d a b s_ r w | amoMaxu d a b s_ r w | amoSwp d a b s_ r w | amoCas d a b s_ r w =>
      exact (outForm_next _).2 (coreAmo_memForm _ _ _ _ _ _ _ _ hs)
    | stl a b s_ w => exact execStl_outForm a b s_ w hs
    | fence e s_ => exact execFence_outForm e s_ hs
    | cfg d a => exact execCfg_outForm d a hs
    | go => exact execGo_outForm hs
    | waitl d => exact execWaitl_outForm d hs
    | waitlNb d => exact execWaitlNb_outForm d hs
    | strm a b => exact execStrm_outForm a b hs
    | mcast a b => exact execMcast_outForm a b hs
    | launch d a q p => exact execLaunch_outForm d a q p hs
    | waitg d a => exact execWaitg_outForm d a hs
    | barG m => exact execBarG_outForm m hs
    | barC a i_ => exact execBarC_outForm a i_ hs
    | rdlay d => exact execRdlay_outForm d hs
    | patld a b => exact execPatld_outForm a b hs
    | coll d a => exact execColl_outForm d a hs
    | collw d a => exact execCollw_outForm d a hs
    | coreTrap a c => exact execCoreTrap_outForm a c hs
    | invr d a b => exact execInvr_outForm d a b hs
    | ctxsv a => exact execCtxsv_outForm a hs
    | ctxld a => exact execCtxld_outForm a hs
    | tokenArrival sp ch br bad => exact execTokenArrival_outForm sp ch br bad hs
    | memoryAnswer cl el idx lane => exact execMemoryAnswer_outForm cl el idx lane hs
    | feWaitEnd cl el idx => exact execFeWaitEnd_outForm cl el idx hs
    | loadComplete sp => exact execLoadComplete_outForm sp hs
    | rewiringComplete sp op => exact execRewiringComplete_outForm sp op hs
    | islandStage cl => exact execIslandStage_outForm cl hs
    | islandArray cl miss => exact execIslandArray_outForm cl miss hs
    | agFetch cl tile ag => exact execAgFetch_outForm cl tile ag hs
    | agPut cl tile ag => exact execAgPut_outForm cl tile ag hs
    | portGet cl port => exact execPortGet_outForm cl port hs
    | portPuts cl port => exact execPortPuts_outForm cl port hs
    | streamStart cl port => exact execStreamStart_outForm cl port hs
    | feedToken cl port => exact execFeedToken_outForm cl port hs
    | streamEnd cl port => exact execStreamEnd_outForm cl port hs
    | walk cl idx => exact execWalk_outForm cl idx hs
    | multicastDelivery sp idx cl line => exact execMulticastDelivery_outForm sp idx cl line hs
    | barrierComplete cl id clusterBar => exact execBarrierComplete_outForm cl id clusterBar hs
    | eventTaken cl => exact execEventTaken_outForm cl hs
    | dispatch part => exact execDispatch_outForm part hs
    | childExit cl grp => exact execChildExit_outForm cl grp hs
    | hostAccess a n op data => exact execHostAccess_outForm a n op data hs
    | freezeComplete sp => exact execFreezeComplete_outForm sp hs
    | spanSave v => exact execSpanSave_outForm v hs
    | saveDone sp => exact execSaveDone_outForm sp hs
    | vfReset vf => exact execVfReset_outForm vf hs
    | exclusionWrite off v => exact execExclusionWrite_outForm off v hs
    | groupDisable g v => exact execGroupDisable_outForm g v hs
    | epochApply g crcs => exact execEpochApply_outForm g crcs hs
    | chunkPartial h chunk child data => exact execChunkPartial_outForm h chunk child data hs
    | chunkResult h chunk data => exact execChunkResult_outForm h chunk data hs
    | linkJudgement link rpl => exact execLinkJudgement_outForm link rpl hs
    | clockSwitch => exact execClockSwitch_outForm hs
    | patrol code place multi => exact execPatrol_outForm code place multi hs
    | powerMeasurement die watts temp => exact execPowerMeasurement_outForm die watts temp hs
    | coreAccessPerformed cl grp idx => exact execCoreAccessPerformed_outForm cl grp idx hs
    | markExchange h rank marks => exact execMarkExchange_outForm h rank marks hs
    | doneReport h child => exact execDoneReport_outForm h child hs
    | memberStatus h rank st faddr => exact execMemberStatus_outForm h rank st faddr hs
    | _ => exact absurd rfl hm

/-- The state in which what an agent is about to do is done. -/
def Ready.state : Ready → State
  | .idle s | .event s | .instr _ s | .illegal _ s => s

theorem fetchDecode_memParts (s : State) : (fetchDecode s).state.memParts = s.memParts := by
  unfold fetchDecode
  dsimp only
  split
  · exact waitWalk_memParts s _ 4
  · exact takeTrap_memParts s _
  · split <;> exact fetchTouch_memParts s _ _ _
theorem coreReady_memForm {s : State} (cl : Nat) (hs : MemForm s.memParts) : MemForm (coreReady s cl).state.memParts := by
  have hn := nextGroup_memForm cl hs
  unfold coreReady
  split
  · next e =>
    rw [e] at hn
    exact hn
  · next t g e =>
    rw [e] at hn
    have hi : MemForm (issueAt t cl g).memParts := by simpa using hn
    dsimp only
    split
    · exact hi
    · rwa [fetchDecode_memParts]
theorem elementReady_memParts (s : State) (cl el : Nat) : (elementReady s cl el).state.memParts = s.memParts := by
  unfold elementReady
  dsimp only
  split
  · exact raiseBadHeads_memParts s cl el
  · split
    · exact (atSlot_memParts _ _ _ _).trans (raiseBadHeads_memParts s cl el)
    · exact raiseBadHeads_memParts s cl el
theorem coreTurn_outForm (cl : Nat) {s : State} (hs : MemForm s.memParts) : OutForm (coreTurn s cl) := by
  have hr := coreReady_memForm cl hs
  unfold coreTurn
  split <;> rename_i e <;> rw [e] at hr
  · exact (outForm_next _).2 hr
  · exact (outForm_next _).2 ((takeEvent_memParts cl _).symm ▸ hr)
  · exact exec_outForm _ hr
  · exact (execIllegalInstruction_keepsMem _ _).outForm hr
theorem elementTurn_outForm (cl el : Nat) {s : State} (hs : MemForm s.memParts) : OutForm (elementTurn s cl el) := by
  have hr : MemForm (elementReady s cl el).state.memParts := by rwa [elementReady_memParts]
  unfold elementTurn
  split <;> rename_i e <;> rw [e] at hr
  · exact (outForm_next _).2 hr
  · exact (outForm_next _).2 hr
  · exact exec_outForm _ hr
  · exact (outForm_next _).2 hr
theorem actOn_outForm (t : Turn) {s : State} (hs : MemForm s.memParts) : OutForm (actOn s t) := by
  cases t with
  | core cl => exact coreTurn_outForm cl hs
  | element cl el => exact elementTurn_outForm cl el hs
  | bramble cl ctx => exact (brambleStep_keepsMem s cl ctx).outForm hs
  | event i =>
    unfold actOn
    dsimp only
    split
    · exact exec_outForm i hs
    · exact (outForm_next _).2 hs

theorem packetLeg_memParts (s : State) (u : NetUser) (back refused : Bool) : (packetLeg s u back refused).1.memParts = s.memParts := by
  unfold packetLeg takeFree
  dsimp only
  split <;> simp
theorem packetPass_memParts (s : State) (u : NetUser) (twoWay : Bool) : (packetPass s u twoWay).1.memParts = s.memParts := by
  unfold packetPass
  extract_lets out
  have ho : out.1.memParts = s.memParts := by
    unfold out
    split
    · rfl
    · exact packetLeg_memParts s u false false
  split
  · exact ho
  · split
    · next r _ _ =>
      have hr : r.1.memParts = s.memParts := (packetLeg_memParts _ u true _).trans ho
      split
      · simpa using hr
      · exact hr
    · simpa using ho
theorem packetsThrough_memParts (s : State) (t : Turn) : (packetsThrough s t).1.memParts = s.memParts := by
  unfold packetsThrough
  split
  · rfl
  · exact packetPass_memParts s _ _
theorem act_outForm (t : Turn) {s : State} (hs : MemForm s.memParts) : OutForm (act s t) := by
  have hp : MemForm (packetsThrough s t).1.memParts := by rwa [packetsThrough_memParts]
  unfold act
  split
  · exact (outForm_next _).2 hs
  · split
    · exact actOn_outForm t hp
    · exact (outForm_next _).2 hp

/-- Settles O22: whatever a step does to memory it does by the writers of `Laws`, which keep its form, and every other part of the
state that it touches leaves memory and its scopes as they are. -/
theorem stepKeepsMemoryForm : Obligations.StepKeepsMemoryForm := by
  intro s t hs h
  have hm : MemForm (takeMove s).memParts := by rw [takeMove_memParts]; exact (memOk_iff s).1 hs
  refine (memOk_iff t).2 ?_
  exact act_outForm (nextMove s).turn (passTime_memForm (nextMove s).dt hm) t h

end Sys2Proof.Machine

namespace Sys2Proof.Machine
open Sys2Proof Sys2Proof.Claims

/-! A host write that crosses a line of the host, over a near store that `State.memOk` excludes. -/

/-- A state that is not `memOk`, and so one that no run from reset reaches (O21, O22): before a store that only cluster 0 sees, at
the first byte of a line, stands among the near stores one that the whole package sees, of the 17 bytes up to that line. -/
def wideAmongNear : State :=
  { State.reset with near := [⟨2 ^ 51 + 47, List.replicate 17 0#8, .package, 0, Via.done⟩, ⟨2 ^ 51 + 64, [1#8], .cluster 0, 0, Via.done⟩] }

/-- No granule of the write's piece in the first line holds a near store, so the piece is written and all near stores stay; the piece
in the second line widens the cluster's store, and with that the wide one goes to memory too, over the byte just written. -/
theorem crossingWrite_byte_lost {t : State} (h : exec (.hostAccess 63 0 .write [7#8, 7#8]) wideAmongNear = .next t) :
    t.byte (2 ^ 51 + 63) = 0#8 := by
  cases h
  rfl

theorem hostPA_wideAmongNear (a : Nat) : hostPA wideAmongNear.hub a = 2 ^ 51 + a := rfl

/-- Refutes O54: `HostMemory` promises the bytes of a host write in every state, and not only in those whose memory has its form
(`State.memOk`). From `wideAmongNear` a write of the bytes 7, 7 that crosses a line leaves its first byte 0. -/
theorem not_hostAccesses : ¬ Obligations.HostAccesses := by
  intro ⟨hmem, _⟩
  have hmap : ∀ k, k < 2 → hostPA wideAmongNear.hub (63 + k) = 2 ^ 51 + 63 + k := fun k _ => by
    rw [hostPA_wideAmongNear, Nat.add_assoc]
  obtain ⟨hserved, _⟩ := hmem wideAmongNear 63 (2 ^ 51 + 63) 2 0 0 [7#8, 7#8] [] (by decide) rfl hmap
  obtain ⟨⟨t, ht, hbytes, _⟩, _⟩ := hserved (.inr (by decide)) (by decide) (by decide) (by decide)
  have hlost : t.byte (2 ^ 51 + 63) = 0#8 := crossingWrite_byte_lost ht
  have hkept : t.byte (2 ^ 51 + 63) = 7#8 := (hbytes 0 (by decide)).1
  exact absurd (hlost.symm.trans hkept) (by decide)

end Sys2Proof.Machine

/-! Which group issues and which slot fires (R35, R37, R166, R247). -/

namespace Sys2Proof.Machine
open Sys2Proof

theorem le_foldl_max {α : Type} (f : α → Nat) {l : List α} {a : α} (h : a ∈ l) (m : Nat) :
    f a ≤ l.foldl (fun m x => max m (f x)) m := by
  have grows : ∀ (l : List α) (m : Nat), m ≤ l.foldl (fun m x => max m (f x)) m := fun l => by
    induction l with
    | nil => exact fun _ => le_rfl
    | cons x l ih => exact fun m => (le_max_left m (f x)).trans (ih _)
  induction l generalizing m with
  | nil => cases h
  | cons x l ih =>
    rcases List.mem_cons.mp h with rfl | h
    · exact (le_max_right m (f a)).trans (grows l _)
    · exact ih h _
theorem foldl_max_attained {α : Type} (f : α → Nat) (l : List α) (m : Nat) :
    l.foldl (fun m x => max m (f x)) m = m ∨ ∃ a ∈ l, f a = l.foldl (fun m x => max m (f x)) m := by
  induction l generalizing m with
  | nil => exact .inl rfl
  | cons x l ih =>
    rcases ih (max m (f x)) with h | ⟨a, ha, h⟩
    · rcases max_choice m (f x) with e | e
      · exact .inl (by rw [List.foldl_cons, h, e])
      · exact .inr ⟨x, .head _, by rw [List.foldl_cons, h, e]⟩
    · exact .inr ⟨a, .tail _ ha, h⟩

/-- The place of group `g` in the order that starts behind `last`. -/
def cyclicPlace (last g : Nat) : Nat := (g + 3 - last % 4) % 4
/-- The first in cyclic order: it holds `p`, and no one that does stands before it. -/
theorem find?_cyclic {last g : Nat} {p : Nat → Bool}
    (h : ((List.range 4).map (fun k => (last + 1 + k) % 4)).find? p = some g) :
    g < 4 ∧ p g = true ∧ ∀ x, x < 4 → p x = true → cyclicPlace last g ≤ cyclicPlace last x := by
  rw [List.find?_map] at h
  obtain ⟨k, hk, rfl⟩ := Option.map_eq_some_iff.mp h
  obtain ⟨hp, hk4, hfirst⟩ := List.find?_range_eq_some.mp hk
  rw [List.mem_range] at hk4
  refine ⟨Nat.mod_lt _ (by omega), hp, fun x hx hpx => ?_⟩
  by_contra hlt
  unfold cyclicPlace at hlt
  have hbefore := hfirst ((x + 3 - last % 4) % 4) (by omega)
  rw [Function.comp_apply, show (last + 1 + (x + 3 - last % 4) % 4) % 4 = x by omega, hpx] at hbefore
  cases hbefore

/-- The Ready groups of a core. -/
def readyGroups (c : Core) : List Nat := (List.range 4).filter (fun g => isReady (vec4Get c.grp g))
theorem mem_readyGroups {c : Core} {g : Nat} : g ∈ readyGroups c ↔ g < 4 ∧ (vec4Get c.grp g).st = .ready := by
  simp [readyGroups, isReady]
/-- The highest effective class among them. -/
def topClass (c : Core) : Nat := (readyGroups c).foldl (fun m g => max m (effClass c g)) 0
theorem effClass_le_topClass {c : Core} {g : Nat} (h : g ∈ readyGroups c) : effClass c g ≤ topClass c := le_foldl_max (effClass c) h 0
theorem topClass_attained {c : Core} (h : readyGroups c ≠ []) : ∃ g ∈ readyGroups c, effClass c g = topClass c := by
  rcases foldl_max_attained (effClass c) (readyGroups c) 0 with h0 | h1
  · obtain ⟨g, hg⟩ := List.exists_mem_of_ne_nil _ h
    exact ⟨g, hg, Nat.le_antisymm (effClass_le_topClass hg) (by unfold topClass; omega)⟩
  · exact h1
/-- The choice of the group that issues: none is Ready, or the first of the highest class in cyclic order. -/
theorem chooseGroup_eq (c : Core) : chooseGroup c = if readyGroups c = [] then none else
    ((List.range 4).map (fun k => (vec4Get c.lastIssued (topClass c) + 1 + k) % 4)).find?
      (fun g => isReady (vec4Get c.grp g) && decide (effClass c g = topClass c)) := by
  unfold chooseGroup
  simp only
  split
  · next h => exact (if_pos (h : readyGroups c = [])).symm
  · next h => exact (if_neg (h : readyGroups c ≠ [])).symm

theorem chooseGroup_some {c : Core} {g : Nat} (h : chooseGroup c = some g) :
    g < 4 ∧ (vec4Get c.grp g).st = .ready ∧ effClass c g = topClass c ∧
    ∀ x, x < 4 → (vec4Get c.grp x).st = .ready → effClass c x = topClass c →
      cyclicPlace (vec4Get c.lastIssued (topClass c)) g ≤ cyclicPlace (vec4Get c.lastIssued (topClass c)) x := by
  rw [chooseGroup_eq] at h
  split at h
  · cases h
  · obtain ⟨hg, hp, hfirst⟩ := find?_cyclic h
    simp only [isReady, Bool.and_eq_true, decide_eq_true_eq] at hp hfirst
    exact ⟨hg, hp.1, hp.2, fun x hx hr he => hfirst x hx ⟨hr, he⟩⟩
theorem chooseGroup_ne_none {c : Core} (h : readyGroups c ≠ []) : chooseGroup c ≠ none := by
  obtain ⟨g, hg, he⟩ := topClass_attained h
  obtain ⟨hg4, hr⟩ := mem_readyGroups.mp hg
  rw [chooseGroup_eq, if_neg h]
  intro hn
  refine List.find?_eq_none.mp hn g (List.mem_map.mpr ⟨cyclicPlace (vec4Get c.lastIssued (topClass c)) g, ?_, ?_⟩) ?_
  · exact List.mem_range.mpr (Nat.mod_lt _ (by omega))
  · unfold cyclicPlace; omega
  · simp [isReady, hr, he]

/-! The picker of an element. -/

theorem lowestOf_some {s : State} {cl el sh n : Nat} (h : lowestOf s cl el sh = some n) :
    n < 16 ∧ shareOfSlot (getEl s cl el) n = sh ∧ slotEligible s cl el n = true ∧
    ∀ m, m < n → shareOfSlot (getEl s cl el) m = sh → slotEligible s cl el m = false := by
  obtain ⟨hp, hn, hfirst⟩ := List.find?_range_eq_some.mp h
  simp only [Bool.and_eq_true, decide_eq_true_eq] at hp
  refine ⟨List.mem_range.mp hn, hp.1, hp.2, fun m hm hs => ?_⟩
  simpa [hs] using hfirst m hm
theorem lowestOf_none {s : State} {cl el sh : Nat} (h : lowestOf s cl el sh = none) {m : Nat} (hm : m < 16)
    (hs : shareOfSlot (getEl s cl el) m = sh) : slotEligible s cl el m = false := by
  simpa [hs] using List.find?_eq_none.mp h m (List.mem_range.mpr hm)
theorem shareOfSlot_unfolded {e : Elem} (h : e.sh1 = none) (n : Nat) : shareOfSlot e n = 0 := by simp [shareOfSlot, h]
theorem shareOfSlot_le (e : Elem) (n : Nat) : shareOfSlot e n ≤ 1 := by
  unfold shareOfSlot
  split <;> omega

/-- The share that the fold arbiter prefers: the one with the greater credit. -/
def preferredShare (e : Elem) : Nat := if e.credit0 < e.credit1 then 1 else 0
theorem preferredShare_le (e : Elem) : preferredShare e ≤ 1 := by
  unfold preferredShare
  split <;> omega
theorem pickSlot_unfolded {s : State} {cl el : Nat} (h : (getEl s cl el).sh1 = none) : pickSlot s cl el = lowestOf s cl el 0 := by
  simp [pickSlot, h]
theorem pickSlot_folded {s : State} {cl el : Nat} (h : (getEl s cl el).sh1.isSome = true) :
    pickSlot s cl el = (lowestOf s cl el (preferredShare (getEl s cl el))).or
      (lowestOf s cl el (1 - preferredShare (getEl s cl el))) := by
  unfold pickSlot preferredShare
  simp only [h, if_true]
  split <;> simp_all

/-- What the picker's choice is the lowest of: its own share, and the other share holds nothing where that is preferred. -/
theorem pickSlot_some {s : State} {cl el n : Nat} (h : pickSlot s cl el = some n) :
    lowestOf s cl el (shareOfSlot (getEl s cl el) n) = some n ∧
    ((getEl s cl el).sh1.isSome = true → shareOfSlot (getEl s cl el) n ≠ preferredShare (getEl s cl el) →
      lowestOf s cl el (preferredShare (getEl s cl el)) = none) := by
  cases hf : (getEl s cl el).sh1 with
  | none =>
    rw [pickSlot_unfolded hf] at h
    exact ⟨by rwa [shareOfSlot_unfolded hf], by simp⟩
  | some c =>
    rw [pickSlot_folded (by rw [hf]; rfl), Option.or_eq_some_iff] at h
    rcases h with h | ⟨hn, h⟩
    · exact ⟨by rwa [(lowestOf_some h).2.1], fun _ hne => absurd (lowestOf_some h).2.1 hne⟩
    · exact ⟨by rwa [(lowestOf_some h).2.1], fun _ _ => hn⟩
theorem pickSlot_none {s : State} {cl el : Nat} (h : pickSlot s cl el = none) {n : Nat} (hn : n < 16) :
    slotEligible s cl el n = false := by
  cases hf : (getEl s cl el).sh1 with
  | none =>
    rw [pickSlot_unfolded hf] at h
    exact lowestOf_none h hn (shareOfSlot_unfolded hf n)
  | some c =>
    rw [pickSlot_folded (by rw [hf]; rfl), Option.or_eq_none_iff] at h
    have hs := shareOfSlot_le (getEl s cl el) n
    have hp := preferredShare_le (getEl s cl el)
    by_cases hsh : shareOfSlot (getEl s cl el) n = preferredShare (getEl s cl el)
    · exact lowestOf_none h.1 hn hsh
    · exact lowestOf_none h.2 hn (by omega)

/-- Settles O24: the choice of a group is the first, in cyclic order, of the top class among the Ready ones; the picker's is the
lowest eligible slot of its share. -/
theorem issueOrder : Obligations.IssueOrder := by
  refine ⟨fun c g h => ?_, fun c ⟨g, hg, hr⟩ => chooseGroup_ne_none (List.ne_nil_of_mem (mem_readyGroups.mpr ⟨hg, hr⟩)),
    fun s cl el n h => ?_, fun s cl el n hn he hp => ?_⟩
  · obtain ⟨hg, hr, htop, hfirst⟩ := chooseGroup_some h
    refine ⟨hg, hr, fun x hx hxr => htop ▸ effClass_le_topClass (mem_readyGroups.mpr ⟨hx, hxr⟩), fun x hx hxr hxe => ?_⟩
    rw [htop] at hxe ⊢
    exact hfirst x hx hxr hxe
  · obtain ⟨hlow, hother⟩ := pickSlot_some h
    obtain ⟨hn, -, he, hfirst⟩ := lowestOf_some hlow
    refine ⟨hn, he, fun hf m hm => hfirst m hm (by rw [shareOfSlot_unfolded hf, shareOfSlot_unfolded hf]), fun hf => ⟨hfirst, ?_⟩⟩
    intro hne m hm hmne
    have hs := shareOfSlot_le (getEl s cl el) n
    have hsm := shareOfSlot_le (getEl s cl el) m
    have hp := preferredShare_le (getEl s cl el)
    change shareOfSlot (getEl s cl el) n ≠ preferredShare (getEl s cl el) at hne
    exact lowestOf_none (hother hf hne) hm (by omega)
  · rw [pickSlot_none hp hn] at he
    cases he

end Sys2Proof.Machine


namespace Sys2Proof.Machine
open Sys2Proof Sys2Proof.Claims

/-! What a step runs (R33, R36, R166, R169, R171, R198, R204, R206, R428), and before that what the cycles before a move leave alone. -/

/-! The writes of a layout table count, and touch no unit. -/

theorem writeTableBytes_counts (s : State) (sp : Nat) (x : Span) (l : Load) (bs : List Byte) :
    sameButCounts s (writeTableBytes s sp x l bs) := by
  unfold writeTableBytes
  split
  · exact sameButCounts_refl s
  · split
    · exact foldl_inv _ (sameButCounts s) (fun t k h => sameButCounts_trans h (l2At_counts t sp _ _ _ _)) _ (sameButCounts_refl s)
    · exact sameButCounts_refl s
theorem writeTable_counts (s : State) (sp : Nat) : sameButCounts s (writeTable s sp) := by
  unfold writeTable
  split
  · exact sameButCounts_refl s
  · split
    · exact sameButCounts_refl s
    · exact writeTableBytes_counts _ _ _ _ _
theorem sameButCounts_spans {s t : State} (h : sameButCounts s t) : t.spans = s.spans := h.2.1
theorem sameButCounts_off {s t : State} (h : sameButCounts s t) : t.hub.off = s.hub.off := by
  obtain ⟨-, -, -, -, -, -, -, hhub, -⟩ := h
  rw [hhub]

/-! Power, over the cycles before a move. -/

theorem stopElems_hub (s : State) (x : Span) (o : OpState) (b : Bool) : (stopElems s x o b).hub = s.hub :=
  foldl_keep _ State.hub (fun s p => by split <;> rfl) _ s
theorem resumeOps_hub (s : State) (sp : Nat) : (resumeOps s sp).hub = s.hub := by
  unfold resumeOps
  split
  · exact foldl_keep _ State.hub (fun s o => by split; exacts [stopElems_hub _ _ _ _, rfl]) _ s
  · rfl
theorem finishTable_off (s : State) (sp : Nat) : (finishTable s sp).hub.off = s.hub.off := by
  unfold finishTable
  split
  · rw [resumeOps_hub, sameButCounts_off (writeTable_counts _ _), modLoad_hub]
  · rfl
theorem passTime_off (dt : Vec16 Nat) (s : State) : (passTime dt s).hub.off = s.hub.off := by
  unfold passTime
  simp only
  split
  · rfl
  · unfold advanceTime
    exact foldl_keep _ (fun t : State => t.hub.off) (fun t p => by split; exacts [finishTable_off _ _, rfl]) _ _
theorem takeMove_hub (s : State) : (takeMove s).hub = s.hub := by
  unfold takeMove
  split <;> rfl
theorem reached_off (s : State) : (reached s).hub.off = s.hub.off := by
  unfold reached
  rw [passTime_off, takeMove_hub]

/-! The three ends of a step. -/

theorem step_powered {s : State} (h : s.hub.off = false) :
    step s = if arrived s then actOn (acting s) (nextMove s).turn else .next (acting s) := by
  show act (reached s) _ = _
  unfold act
  rw [reached_off, h]
  rfl
theorem step_arrived {s : State} (h : s.hub.off = false) (ha : arrived s = true) : step s = actOn (acting s) (nextMove s).turn := by
  rw [step_powered h, if_pos ha]
/-- A move that awaits no packet acts at once. -/
theorem acting_of_no_packets {s : State} (h : turnPackets (reached s) (nextMove s).turn = none) :
    acting s = reached s ∧ arrived s = true := by
  unfold acting arrived packetsThrough
  rw [h]
  exact ⟨rfl, rfl⟩
theorem step_dark {s : State} (h : s.hub.off = true) (hp : powerOnly (nextMove s).turn = false) : step s = .next (reached s) := by
  show act (reached s) _ = _
  unfold act
  rw [reached_off, h, hp]
  rfl
theorem step_packageReset {s : State} (h : s.hub.off = true) (hp : (nextMove s).turn = .event .packageReset) :
    step s = exec .packageReset (reached s) := by
  show act (reached s) _ = _
  unfold act
  rw [hp, reached_off, h]
  rfl

/-! Waking the groups of a core. -/

/-- What waking a group can do: nothing, make it Ready, or complete its WFI, its WAITL or its PIN. -/
inductive Wakes (s : State) (cl g : Nat) : State → Prop
  | stays : Wakes s cl g s
  | ready : Wakes s cl g (modGrp s cl g (fun x => { x with st := .ready, since := now s cl }))
  | wfi : Wakes s cl g (endWait s cl g 0#5 0)
  | waitl {d : BitVec 5} (h : (getGrp s cl g).st = .waiting (.waitl d)) (n : Nat) : Wakes s cl g (endWait (acquireGrp s cl g 1) cl g d n)
  | pin {op : Nat} {d : BitVec 5} (h : (getGrp s cl g).st = .waiting (.pin op d)) (n : Nat) : Wakes s cl g (endWait s cl g d n)
theorem Wakes.of_ite {s t : State} {cl g : Nat} (c : Bool) (h : Wakes s cl g t) : Wakes s cl g (if c then t else s) := by
  cases c
  · exact .stays
  · exact h
theorem wakeGroup_wakes (s : State) (cl g : Nat) : Wakes s cl g (wakeGroup s cl g) := by
  unfold wakeGroup
  cases h : (getGrp s cl g).st with
  | waiting w =>
    cases w with
    | exit h => exact .stays
    | wfi => exact .of_ite _ .wfi
    | waitl d => exact .of_ite _ (.waitl h _)
    | pin op d => exact .of_ite _ (.pin h _)
    | _ => exact .of_ite _ .ready
  | _ => exact .stays

theorem flushGrp_grp_ne (s : State) (cl sc : Nat) {g k : Nat} (hg : g < 4) (hk : k < 4) (h : k ≠ g) :
    getGrp (flushGrp s cl g sc) cl k = getGrp s cl k := by
  unfold flushGrp
  simp only
  rw [sameButCounts_grp (sameButMem_counts (performSeen_same _ _ _)), getGrp_modGrp_ne _ _ hg hk (.inr h),
    sameButCounts_grp (performAll_counts _ _ _ _)]
theorem getGrp_endWait_ne (s : State) (cl : Nat) {g k : Nat} (d : BitVec 5) (v : Nat) (hg : g < 4) (hk : k < 4) (h : k ≠ g) :
    getGrp (endWait s cl g d v) cl k = getGrp s cl k := getGrp_modGrp_ne _ _ hg hk (.inr h)
/-- Waking a group changes no other group. -/
theorem Wakes.grp_ne {s t : State} {cl g k : Nat} (w : Wakes s cl g t) (hg : g < 4) (hk : k < 4) (h : k ≠ g) :
    getGrp t cl k = getGrp s cl k := by
  cases w with
  | stays => rfl
  | ready => exact getGrp_modGrp_ne _ _ hg hk (.inr h)
  | wfi => exact getGrp_endWait_ne _ _ _ _ hg hk h
  | waitl _ n => exact (getGrp_endWait_ne _ _ _ n hg hk h).trans (flushGrp_grp_ne _ _ _ hg hk h)
  | pin _ n => exact getGrp_endWait_ne _ _ _ n hg hk h

/-- A group whose waiting instruction completes with a value when it is woken. -/
def wakesWithValue (st : GState) : Prop := (∃ d, st = .waiting (.waitl d)) ∨ ∃ op d, st = .waiting (.pin op d)
/-- Only a WAITL or a PIN that ends writes a register of its group. -/
theorem Wakes.grp_x {s t : State} {cl g : Nat} (w : Wakes s cl g t) (hg : g < 4) (h : ¬ wakesWithValue (getGrp s cl g).st) :
    (getGrp t cl g).x = (getGrp s cl g).x := by
  cases w with
  | stays => rfl
  | ready => rw [getGrp_modGrp_same _ _ _ hg]
  | wfi => rw [endWait, getGrp_modGrp_same _ _ _ hg]; rfl
  | waitl hd _ => exact absurd (.inl ⟨_, hd⟩) h
  | pin hd _ => exact absurd (.inr ⟨_, _, hd⟩) h
/-- Only a WAITL that ends performs stores: it acquires. -/
theorem Wakes.mem {s t : State} {cl g : Nat} (w : Wakes s cl g t) (h : ∀ d, (getGrp s cl g).st ≠ .waiting (.waitl d)) : t.mem = s.mem := by
  cases w with
  | stays => rfl
  | ready => exact modGrp_mem _ _ _ _
  | wfi => exact modGrp_mem _ _ _ _
  | waitl hd _ => exact absurd hd (h _)
  | pin _ _ => exact modGrp_mem _ _ _ _
/-- Each group of a core is woken as it stood before any was. -/
theorem wakeCore_wakes (s : State) (cl : Nat) : ∃ s1 s2 s3, Wakes s cl 0 s1 ∧ Wakes s1 cl 1 s2 ∧ Wakes s2 cl 2 s3 ∧ Wakes s3 cl 3 (wakeCore s cl) ∧
    getGrp s1 cl 1 = getGrp s cl 1 ∧ getGrp s2 cl 2 = getGrp s cl 2 ∧ getGrp s3 cl 3 = getGrp s cl 3 := by
  have w0 := wakeGroup_wakes s cl 0
  have w1 := wakeGroup_wakes (wakeGroup s cl 0) cl 1
  have w2 := wakeGroup_wakes (wakeGroup (wakeGroup s cl 0) cl 1) cl 2
  refine ⟨_, _, _, w0, w1, w2, wakeGroup_wakes _ cl 3, ?_, ?_, ?_⟩
  · rw [w0.grp_ne] <;> omega
  · rw [w1.grp_ne, w0.grp_ne] <;> omega
  · rw [w2.grp_ne, w1.grp_ne, w0.grp_ne] <;> omega
theorem wakeCore_x (s : State) (cl : Nat) {g : Nat} (hg : g < 4) (h : ¬ wakesWithValue (getGrp s cl g).st) :
    (getGrp (wakeCore s cl) cl g).x = (getGrp s cl g).x := by
  obtain ⟨s1, s2, s3, w0, w1, w2, w3, e1, e2, e3⟩ := wakeCore_wakes s cl
  interval_cases g
  · rw [w3.grp_ne, w2.grp_ne, w1.grp_ne, w0.grp_x hg h] <;> omega
  · rw [w3.grp_ne, w2.grp_ne, w1.grp_x hg (e1 ▸ h), e1] <;> omega
  · rw [w3.grp_ne, w2.grp_x hg (e2 ▸ h), e2] <;> omega
  · rw [w3.grp_x hg (e3 ▸ h), e3]
theorem wakeCore_mem (s : State) (cl : Nat) (h : ∀ g d, g < 4 → (getGrp s cl g).st ≠ .waiting (.waitl d)) :
    (wakeCore s cl).mem = s.mem := by
  obtain ⟨s1, s2, s3, w0, w1, w2, w3, e1, e2, e3⟩ := wakeCore_wakes s cl
  rw [w3.mem (fun d => e3 ▸ h 3 d (by omega)), w2.mem (fun d => e2 ▸ h 2 d (by omega)), w1.mem (fun d => e1 ▸ h 1 d (by omega)),
    w0.mem (fun d => h 0 d (by omega))]

/-! Aging, and the marks of an issue. -/

theorem getGrp_ageCore (s : State) (cl : Nat) {g : Nat} (hg : g < 4) :
    getGrp (ageCore s cl) cl g = agedGroup (now s cl) (getGrp s cl g) := by
  unfold getGrp ageCore modCore
  rw [getCl_modCl_same]
  simp only
  rw [vec4Get_of _ _ hg, Nat.zero_add]
theorem agedGroup_st (t : Nat) (g : Group) : (agedGroup t g).st = g.st ∧ (agedGroup t g).x = g.x := by
  unfold agedGroup
  simp only
  split <;> exact ⟨rfl, rfl⟩
theorem getGrp_ageCore_st (s : State) (cl : Nat) {g : Nat} (hg : g < 4) :
    (getGrp (ageCore s cl) cl g).st = (getGrp s cl g).st ∧ (getGrp (ageCore s cl) cl g).x = (getGrp s cl g).x := by
  rw [getGrp_ageCore s cl hg]
  exact agedGroup_st _ _
theorem getGrp_issueAt_x (s : State) (cl : Nat) {g k : Nat} (hg : g < 4) (hk : k < 4) :
    (getGrp (issueAt s cl g) cl k).x = (getGrp s cl k).x := by
  show (getGrp (markIssue s cl g) cl k).x = _
  unfold getGrp markIssue modCore
  rw [getCl_modCl_same]
  simp only
  rw [vec4Get_set _ _ hg hk]
  split
  · next h => subst h; rfl
  · rfl
theorem issueAt_mem (s : State) (cl g : Nat) : (issueAt s cl g).mem = s.mem := by
  show (markIssue s cl g).mem = _
  simp [markIssue]

/-! The move of a control core. -/

theorem nextGroup_free {s : State} {cl : Nat} (ha : coreActive s cl = true) (hi : (getCl s cl).core.issuedAt ≠ some (now s cl)) :
    nextGroup s cl = (wakeCore (ageCore s cl) cl, chooseGroup (getCl (wakeCore (ageCore s cl) cl) cl).core) := by
  simp [nextGroup, ha, hasIssued, hi]
theorem nextGroup_issued {s : State} {cl : Nat} (h : (getCl s cl).core.issuedAt = some (now s cl)) : nextGroup s cl = (s, none) := by
  simp [nextGroup, hasIssued, h]
theorem coreReady_some {s u : State} {cl g : Nat} (h : nextGroup s cl = (u, some g)) :
    coreReady s cl = if eventReady (getCl u cl).core g then .event (issueAt u cl g) else fetchDecode (issueAt u cl g) := by
  unfold coreReady
  rw [h]
theorem fetchDecode_ok {t : State} {pa : Nat} {i : Instr} (h : translate t t.cur.cl (curGrp t).asid (curGrp t).pc.toNat 4 = .hit pa)
    (hi : decodeCore (BitVec.ofNat 32 (natOfBytes (readBy t t.cur.cl pa 4))) = .ok i) :
    fetchDecode t = .instr i (l2Touch t t.cur.cl pa) := by
  unfold fetchDecode fetchWord fetchTouch
  simp only [h, hi]
theorem fetchDecode_error {t : State} {pa : Nat} {sub : BitVec 8}
    (h : translate t t.cur.cl (curGrp t).asid (curGrp t).pc.toNat 4 = .hit pa)
    (hi : decodeCore (BitVec.ofNat 32 (natOfBytes (readBy t t.cur.cl pa 4))) = .error sub) :
    fetchDecode t = .illegal sub (l2Touch t t.cur.cl pa) := by
  unfold fetchDecode fetchWord fetchTouch
  simp only [h, hi]

/-- A core that has not issued in this cycle takes the oldest event that its chosen group can take. -/
theorem coreTurn_event {s u : State} {cl g : Nat} (h : nextGroup s cl = (u, some g)) (he : eventReady (getCl u cl).core g = true) :
    coreTurn s cl = exec (.eventTaken cl) s := by
  show _ = execEventTaken cl s
  unfold coreTurn execEventTaken
  rw [coreReady_some h, h]
  simp only [he, if_true]
/-- Else it runs the word at its group's pc, or traps where that is no instruction. -/
theorem coreTurn_fetch {s u : State} {cl g pa : Nat} (h : nextGroup s cl = (u, some g)) (he : eventReady (getCl u cl).core g = false)
    (ht : translate (issueAt u cl g) cl (curGrp (issueAt u cl g)).asid (curGrp (issueAt u cl g)).pc.toNat 4 = .hit pa) :
    coreTurn s cl = match decodeCore (BitVec.ofNat 32 (natOfBytes (readBy (issueAt u cl g) cl pa 4))) with
      | .ok i => exec i (l2Touch (issueAt u cl g) cl pa)
      | .error sub => exec (.illegalInstruction sub) (l2Touch (issueAt u cl g) cl pa) := by
  unfold coreTurn
  rw [coreReady_some h, if_neg (by simp [he])]
  cases hi : decodeCore (BitVec.ofNat 32 (natOfBytes (readBy (issueAt u cl g) cl pa 4))) with
  | ok i =>
    rw [fetchDecode_ok (t := issueAt u cl g) ht hi]
    rfl
  | error sub =>
    rw [fetchDecode_error (t := issueAt u cl g) ht hi]
    rfl

/-- What waking and choosing leave alone before the chosen group issues. -/
theorem issue_keeps {s t : State} {cl g : Nat} (hg : g < 4) (ht : t = issueAt (wakeCore (ageCore s cl) cl) cl g) :
    t.cur.cl = cl ∧ t.cur.grp = g ∧ g < 4 ∧ ((∀ h d, h < 4 → (getGrp s cl h).st ≠ .waiting (.waitl d)) → t.mem = s.mem) ∧
    ∀ h, h < 4 → (∀ d op, (getGrp s cl h).st ≠ .waiting (.waitl d) ∧ (getGrp s cl h).st ≠ .waiting (.pin op d)) →
      (getGrp t cl h).x = (getGrp s cl h).x := by
  subst ht
  refine ⟨rfl, rfl, hg, fun hw => ?_, fun k hk hw => ?_⟩
  · rw [issueAt_mem, wakeCore_mem _ _ (fun k d hk => by rw [(getGrp_ageCore_st s cl hk).1]; exact hw k d hk)]
    simp [ageCore]
  · rw [getGrp_issueAt_x _ _ hg hk, wakeCore_x _ _ hk, (getGrp_ageCore_st s cl hk).2]
    rw [(getGrp_ageCore_st s cl hk).1]
    rintro (⟨d, hd⟩ | ⟨op, d, hd⟩)
    · exact (hw d 0).1 hd
    · exact (hw d op).2 hd

/-! The moves of an element and of a pattern context. -/

theorem raiseBadHeads_slots (s : State) (cl el : Nat) : (getEl (raiseBadHeads s cl el) cl el).slots = (getEl s cl el).slots := by
  unfold raiseBadHeads
  split
  · rfl
  · split
    · rfl
    · split
      · exact foldl_keep _ (fun t => (getEl t cl el).slots) (fun t n => by simp) _ s
      · rfl
theorem elementTurn_fires {s : State} {cl el n : Nat} {i : Instr} (hp : pickSlot (raiseBadHeads s cl el) cl el = some n)
    (hd : decodeSlot (vec16Get (getEl s cl el).slots n) = some i) :
    elementTurn s cl el = exec i (atSlot (raiseBadHeads s cl el) cl el n) := by
  unfold elementTurn elementReady
  simp only [hp, raiseBadHeads_slots, hd]
theorem exec_patInstr (p : PatOp) (s : State) : exec (patInstr p) s = runPattern p s := by cases p <;> rfl
theorem brambleStep_runs {s : State} {cl ctx : Nat} {b : Binding} {w : W32} {i : Instr} (hr : (getCtx s cl ctx).run = some b)
    (hf : (getCtx s cl ctx).finished = false) (ho : (getCtx s cl ctx).out = []) (ha : ∀ sp, spanAt s cl = some sp → spanActive sp.2 = true)
    (hs : spanAt s cl ≠ none) (hw : b.words[(getCtx s cl ctx).ip]? = some w) (hi : decodePattern w = some i) :
    brambleStep s cl ctx = exec i { s with cur := { s.cur with cl := cl, ctx := ctx } } := by
  obtain ⟨p, hp, rfl⟩ := Option.map_eq_some_iff.mp hi
  obtain ⟨⟨sp, x⟩, hx⟩ := Option.ne_none_iff_exists'.mp hs
  have hactive : spanActive x = true := ha (sp, x) hx
  unfold brambleStep
  simp only [hr, hf, ho, hx, hactive, hw, hp, Option.bind_some, exec_patInstr]
  rfl

/-- Settles O23, a move at a time: the step's equation with power on or off, then what each agent's turn decodes. -/
theorem stepRunsDecoded : Obligations.StepRunsDecoded := by
  intro s
  refine ⟨fun hon => ⟨fun hd => ?_, ?_, ?_, ?_, ?_, ?_⟩, fun hoff => ⟨fun hne => ?_, step_packageReset hoff⟩⟩
  · rw [step_powered hon, hd]; rfl
  · intro cl g t u harr hturn hact hissue hu hg ht
    have hnext : nextGroup (acting s) cl = (u, some g) := by rw [nextGroup_free hact hissue, ← hu, hg]
    have hstep : step s = coreTurn (acting s) cl := by rw [step_arrived hon harr, hturn]; rfl
    refine ⟨issue_keeps (chooseGroup_some hg).1 (hu ▸ ht), fun he => hstep.trans (coreTurn_event hnext he), ?_⟩
    intro he pa w hhit hw
    subst ht
    have hfetch : step s = _ := hstep.trans (coreTurn_fetch hnext he hhit)
    rw [show BitVec.ofNat 32 (natOfBytes (readBy (issueAt u cl g) cl pa 4)) = w from hw.symm] at hfetch
    exact ⟨fun i hi => by rw [hfetch, decodeCore, hi], fun hi => by rw [hfetch, decodeCore, hi]⟩
  · intro cl hturn hissued
    obtain ⟨hacting, harr⟩ := acting_of_no_packets (s := s) (by simp [hturn, turnPackets, nextGroup_issued hissued])
    rw [step_arrived hon harr, hturn, hacting]
    show coreTurn (reached s) cl = _
    unfold coreTurn coreReady
    rw [nextGroup_issued hissued]
  · intro cl el n i hturn hpick hdec
    obtain ⟨-, harr⟩ := acting_of_no_packets (s := s) (by rw [hturn]; rfl)
    rw [step_arrived hon harr, hturn]
    exact elementTurn_fires hpick hdec
  · intro cl ctx b w i hturn hr hf ho ha hs hw hi
    obtain ⟨-, harr⟩ := acting_of_no_packets (s := s) (by rw [hturn]; rfl)
    rw [step_arrived hon harr, hturn]
    exact brambleStep_runs hr hf ho ha hs hw hi
  · intro i harr hturn hev
    rw [step_arrived hon harr, hturn]
    exact if_pos hev
  · refine step_dark hoff ?_
    unfold powerOnly
    split
    · next i hi => exact decide_eq_false (fun h => hne (by rw [hi, h]))
    all_goals rfl

end Sys2Proof.Machine

namespace Sys2Proof.Machine
open Sys2Proof Sys2Proof.Claims

/-! Tokens on their way (R23, R25, R384, R386): what a release and an arrival do to a channel whose ends are no nodes of a cloned
operator. -/

/-! Looking up and changing one branch. -/

theorem getChan_of {s : State} {sp ch : Nat} {x : Span} {l : Load} (hx : getSpan s sp = some x) (hl : x.load = some l) :
    getChan s sp ch = amGet l.chans ch := by
  simp [getChan, getLoad, hx, hl]
theorem getLoad_of {s : State} {sp : Nat} {x : Span} (hx : getSpan s sp = some x) : getLoad s sp = x.load := by
  simp [getLoad, hx]
theorem branchIn_spans {s t : State} (h : t.spans = s.spans) (sp ch br : Nat) : branchIn t sp ch br = branchIn s sp ch br := by
  unfold branchIn
  rw [getChan_spans h]
@[simp] theorem branchIn_modBr_same (s : State) (sp ch br : Nat) (f : Branch → Branch) :
    branchIn (modBr s sp ch br f) sp ch br = (branchIn s sp ch br).map f := by
  unfold branchIn
  rw [getChan_modBr, if_pos rfl]
  cases getChan s sp ch with
  | none => rfl
  | some c => simp [modBranch]
theorem branchIn_modBr_some {s : State} {sp ch br : Nat} {b : Branch} (h : branchIn s sp ch br = some b) (f : Branch → Branch) :
    branchIn (modBr s sp ch br f) sp ch br = some (f b) := by
  rw [branchIn_modBr_same, h]
  rfl
@[simp] theorem branchIn_modTile (s : State) (cl n : Nat) (g : Tile → Tile) (sp ch br : Nat) :
    branchIn (modTile s cl n g) sp ch br = branchIn s sp ch br := rfl
theorem branchOf_eq_branchIn {s : State} {sp ch br : Nat} {l : Load} (hl : getLoad s sp = some l) :
    branchOf l (ch, br) = branchIn s sp ch br := by
  simp [branchOf, branchIn, getChan, hl]
theorem spanNow_cycles {s t : State} (h : t.cycles = s.cycles) (sp : Nat) : spanNow t sp = spanNow s sp := by
  simp [spanNow, now, cycleOf, h]

/-! Release. -/

/-- A branch that receives a released token at cycle `t`. -/
def takesFlit (t : Nat) (ord : Bool) (k : Token) (b : Branch) : Branch :=
  { b with flight := b.flight ++ [⟨k, t⟩], replay := if ord then (b.replay ++ [k]).drop (b.replay.length + 1 - 64) else [] }
/-- A channel whose oldest token leaves its output at cycle `t`. -/
def releasesFlit (t : Nat) (k : Token) (rest : List Flit) (c : Chan) : Chan :=
  { c with out := rest, count := c.count + 1#32, relAt := t + 1, branches := c.branches.map (takesFlit t c.ord k) }

section Release
variable {s : State} {sp ch : Nat} {x : Span} {l : Load} {c : Chan} {f : Flit} {rest : List Flit}
variable (hx : getSpan s sp = some x) (hl : x.load = some l) (hc : amGet l.chans ch = some c) (hout : c.out = f :: rest)
include hx hl hc hout

theorem execTokenRelease_blocked (h : ∃ b ∈ c.branches, branchRoom s x b = false) : execTokenRelease sp ch s = .next s := by
  obtain ⟨b, hb, hroom⟩ := h
  have hall : c.branches.all (branchRoom s x) = false := List.all_eq_false.mpr ⟨b, hb, by simp [hroom]⟩
  unfold execTokenRelease
  simp [hx, hl, hc, hout, hall]
/-- A token that may leave does, and of the rest of the state only counters move. -/
theorem execTokenRelease_leaves (hsrc : ∀ op, c.src.unit ≠ .dist op ∧ c.src.unit ≠ .merge op) (ha : spanActive x = true)
    (hact : loadActive l = true) (hat : f.at_ < spanNow s sp) (hrel : c.relAt ≤ spanNow s sp)
    (hroom : ∀ b ∈ c.branches, branchRoom s x b = true) :
    ∃ t, execTokenRelease sp ch s = .next t ∧ t.mem = s.mem ∧ t.spans = (modChan s sp ch (releasesFlit (spanNow s sp) f.tok rest)).spans := by
  have hall : c.branches.all (branchRoom s x) = true := List.all_eq_true.mpr hroom
  unfold execTokenRelease
  simp only [hx, hl, hc, hout, ha, hact, hat, hrel, hall, decide_true, Bool.and_self, if_true]
  refine ⟨if ch < 4096 then x.clusters.foldl (fun s k => countBoth s k (0x1000 + ch) 1)
    (modChan s sp ch (releasesFlit (spanNow s sp) f.tok rest)) else modChan s sp ch (releasesFlit (spanNow s sp) f.tok rest), ?_, ?_, ?_⟩
  · split
    · next op h => exact absurd h (hsrc op).1
    · next op h => exact absurd h (hsrc op).2
    · rfl
  · split
    · exact foldl_keep _ State.mem (fun s k => countBoth_mem s k _ 1) _ _
    · rfl
  · split
    · exact foldl_keep _ State.spans (fun s k => countBoth_spans s k _ 1) _ _
    · rfl
end Release

theorem tokenReleases : TokenReleases := by
  intro s sp ch x l c f rest hx hl hc hout hsrc
  refine ⟨fun ha hact hat hrel hroom => ?_, execTokenRelease_blocked hx hl hc hout⟩
  obtain ⟨t, ht, hmem, hspans⟩ := execTokenRelease_leaves hx hl hc hout hsrc ha hact hat hrel hroom
  have hchan : getChan t sp ch = some (releasesFlit (spanNow s sp) f.tok rest c) := by
    rw [getChan_spans hspans, getChan_modChan, if_pos rfl, getChan_of hx hl, hc, Option.map_some]
  refine ⟨t, ht, hmem, ⟨_, hchan, rfl, rfl⟩, fun k b hb => ⟨takesFlit (spanNow s sp) c.ord f.tok b, ?_, rfl, rfl⟩⟩
  unfold branchIn
  rw [hchan]
  simp [releasesFlit, hb]

/-! The record of an error in transit touches no channel and no cycle counter. -/

theorem fleetRecord_keeps (s : State) (kind part die clu d1 d2 layv : Nat) :
    (fleetRecord s kind part die clu d1 d2 layv).spans = s.spans ∧ (fleetRecord s kind part die clu d1 d2 layv).cycles = s.cycles := by
  obtain ⟨-, -, hsp, -, hcy, -⟩ := sameButMem_keeps (publish_same s (field 51 0 s.hub.frbase + 32 * (s.hub.frtail % 2 ^ (8 + field 3 0 s.hub.frctl)))
    (bytesOf 8 (kind * 2 ^ 56 + part * 2 ^ 48 + die * 2 ^ 44 + clu * 2 ^ 32 + (if die < 12 then cycleOf s die else hubNow s) % 2 ^ 32)
      ++ bytesOf 8 d1 ++ bytesOf 8 d2 ++ bytesOf 8 layv))
  unfold fleetRecord
  simp only
  split
  · exact ⟨rfl, rfl⟩
  · split
    · exact ⟨rfl, rfl⟩
    · split <;> exact ⟨hsp, hcy⟩
theorem clusterRecord_keeps (s : State) (kind cl d1 d2 : Nat) :
    (clusterRecord s kind cl d1 d2).spans = s.spans ∧ (clusterRecord s kind cl d1 d2).cycles = s.cycles := by
  unfold clusterRecord
  split <;> exact fleetRecord_keeps _ _ _ _ _ _ _ _
theorem transitError_keeps (s : State) (x : Span) (l : Load) (b : Branch) :
    (transitError s x l b).spans = s.spans ∧ (transitError s x l b).cycles = s.cycles := by
  unfold transitError softCluster
  split
  · exact ⟨rfl, rfl⟩
  · obtain ⟨hsp, hcy⟩ := clusterRecord_keeps (countBoth s _ (if true = true then 0x6010 else 0x6000 + 4) 1) 2 _ (portLocOf l b.dst) 4
    exact ⟨hsp, hcy⟩

/-! Arrival at an element's port, of a branch without queue, relief and comparator. -/

/-- A branch at whose port a token comes to stand at cycle `t`. -/
def standsFlit (t : Nat) (k : Token) (b : Branch) : Branch := { b with buf := b.buf ++ [⟨k, t⟩], spots := b.spots ++ [], arrAt := some t }

section Arrival
variable {s : State} {sp ch br rel el : Nat} {x : Span} {l : Load} {c : Chan} {b : Branch} {f : Flit} {rest : List Flit}
variable (hx : getSpan s sp = some x) (hl : x.load = some l) (hc : amGet l.chans ch = some c) (hb : c.branches[br]? = some b)
include hx hl hc hb

theorem branchIn_of : branchIn s sp ch br = some b := by
  unfold branchIn
  rw [getChan_of hx hl, hc]
  exact hb
theorem branchOf_of : branchOf l (ch, br) = some b := by
  rw [branchOf_eq_branchIn ((getLoad_of hx).trans hl), branchIn_of hx hl hc hb]
/-- An arrival takes a token to the port where it has room and none has come in this cycle, and else moves one up behind it. -/
theorem execTokenArrival_eq (ha : spanActive x = true) (hact : loadActive l = true) (hf : b.failed = none) (hcmp : b.cmp = none) (bad : Bool) :
    execTokenArrival sp ch br bad s = .next (if b.buf.length < bufCap s x b ∧ b.arrAt ≠ some (spanNow s sp) then deliver s x sp ch br l c b bad
      else moveAhead (extendReorder s x sp b) x sp ch br b) := by
  have hbr := branchOf_of hx hl hc hb
  unfold execTokenArrival
  simp only [hx, hl, hc, hbr, ha, hact, hf, hcmp, getLoad_of hx, Option.bind_some, consumerRoom, Option.isSome_none, Bool.not_true,
    Bool.or_self, decide_eq_true_eq, Bool.false_eq_true, if_false, false_or]
  split <;> rfl
end Arrival

section Stand
variable {s : State} {sp ch br rel el : Nat} {x : Span} {l : Load} {c : Chan} {b : Branch} {f : Flit} {rest : List Flit}
variable (hdst : b.dst.unit = .element rel el)
include hdst

/-- At an element's port a token that comes from another unit only takes its place. -/
theorem standAt_element (hsrc : c.src.unit ≠ b.dst.unit) (hl : x.load = some l) (t : State) (k : Token) :
    standAt t x sp ch br c b k = modBr t sp ch br (standsFlit (spanNow t sp) k) := by
  have hloop : loopArrival t x sp c b k = (k, t) := by
    unfold loopArrival
    rw [hl, hdst]
    simp only
    rw [if_pos (.inr (hdst ▸ hsrc))]
  unfold standAt
  simp only [hloop, hdst, hl, List.head?_nil, Option.bind_none, modSpot, afterArrival]
  rfl
theorem extendReorder_element (t : State) : extendReorder t x sp b = t := by
  unfold extendReorder
  rw [hdst]
  split
  · next h => cases h
  · rfl
end Stand

/-- A branch whose last `m` tokens are sent again from its replay window at cycle `t`. -/
def resendsWindow (t m : Nat) (b : Branch) : Branch :=
  { b with rhead := 0, rlen := 0, flight := (b.replay.drop (b.replay.length - m)).map (fun k => ⟨k, t⟩)
           queue := b.queue.map (fun q => { q with len := 0 }), relief := [] }

theorem resendsWindow_toks (t m : Nat) (b : Branch) : (resendsWindow t m b).flight.map (·.tok) = b.replay.drop (b.replay.length - m) := by
  show ((b.replay.drop _).map _).map _ = _
  rw [List.map_map]
  exact List.map_id _

section Route
variable {s : State} {sp ch br : Nat} {x : Span} {l : Load} {c : Chan} {b : Branch} {f : Flit} {rest : List Flit}
variable (hq : b.queue = none) (hrel : b.relief = []) (hrlen : b.rlen = 0)
include hrlen

theorem takeBefore_route (hfl : b.flight = f :: rest) (hat : f.at_ + b.lat ≤ spanNow s sp) :
    takeBefore s x sp ch br b = some (f.tok, false, modBr s sp ch br (fun b => { b with flight := rest })) := by
  simp [takeBefore, areaHead, hrlen, hfl, hat]
include hq hrel
/-- With nothing queued the next token comes from the route. -/
theorem takeUpstream_route (hfl : b.flight = f :: rest) (hat : f.at_ + b.lat ≤ spanNow s sp) :
    takeUpstream s x sp ch br b = some (f.tok, false, modBr s sp ch br (fun b => { b with flight := rest })) := by
  unfold takeUpstream
  simp [hq, hrel, takeBefore_route hrlen hfl hat]
/-- A replay sends the last tokens of the window again, as many as are under way. -/
theorem replayFrom_window (h : b.flight.length ≤ b.replay.length) :
    replayFrom s x sp ch br b = modBr s sp ch br (resendsWindow (spanNow s sp) b.flight.length) := by
  unfold replayFrom
  simp only [hq, hrel, hrlen, List.length_nil, Nat.add_zero, h, if_true, clearAreaFrom]
  rfl
/-- A token that moves up behind the port leaves what stands there. -/
theorem moveAhead_buf (hb : branchIn s sp ch br = some b) (hl : getLoad s sp = some l) (hfl : b.flight = f :: rest)
    (hat : f.at_ + b.lat ≤ spanNow s sp) : ∃ b', branchIn (moveAhead s x sp ch br b) sp ch br = some b' ∧ b'.buf = b.buf := by
  have hbr : branchOf l (ch, br) = some b := (branchOf_eq_branchIn hl).trans hb
  unfold moveAhead
  simp only [hq, hrel, hfl]
  split
  · unfold moveUp
    simp only [hl, Option.bind_some, hbr, hq, hrel, takeBefore_route hrlen hfl hat]
    split
    · exact ⟨_, branchIn_modBr_some (branchIn_modBr_some hb _) _, rfl⟩
    · exact ⟨b, hb, rfl⟩
  · split
    · unfold areaPut
      have hleft := branchIn_modBr_some hb (fun b => { b with flight := rest })
      split
      · exact ⟨_, hleft, rfl⟩
      · split
        · exact ⟨_, hleft, rfl⟩
        · exact ⟨_, branchIn_modBr_some ((branchIn_modTile _ _ _ _ _ _ _).trans hleft) _, rfl⟩
    · exact ⟨b, hb, rfl⟩
end Route

theorem tokenArrivals : TokenArrivals := by
  intro s sp ch br rel el x l c b f rest hx hl hc hb ha hact hfail hcmp hq hrel hrlen hdst hsrc hfl hat hcap
  have hbr := branchIn_of hx hl hc hb
  have hexec := execTokenArrival_eq hx hl hc hb ha hact hfail hcmp
  have hup : takeUpstream s x sp ch br b = _ := takeUpstream_route hq hrel hrlen hfl hat
  refine ⟨fun hfree => ⟨?_, fun hord hctl => ?_, fun hord hwin => ?_⟩, fun hbusy bad => ?_⟩
  · refine ⟨_, (hexec false).trans (by rw [if_pos ⟨hcap, hfree⟩]), ?_⟩
    simp only [deliver, hup, hcmp, standAt_element hdst hsrc hl, Bool.or_self, Bool.false_and, Bool.false_eq_true, if_false]
    exact ⟨rfl, _, branchIn_modBr_some (branchIn_modBr_some hbr _) _, rfl, rfl, rfl⟩
  · refine ⟨_, (hexec true).trans (by rw [if_pos ⟨hcap, hfree⟩]), ?_⟩
    simp only [deliver, hup, hcmp, hord, hctl, standAt_element hdst hsrc hl, Bool.true_or, Bool.and_false, Bool.false_eq_true, if_false,
      Bool.not_false, Bool.and_self, if_true]
    obtain ⟨hsp, hcy⟩ := transitError_keeps (modBr s sp ch br (fun b => { b with flight := rest })) x l b
    refine ⟨_, branchIn_modBr_some ((branchIn_spans hsp _ _ _).trans (branchIn_modBr_some hbr _)) _, rfl, ?_⟩
    rw [spanNow_cycles hcy]
    rfl
  · refine ⟨_, (hexec true).trans (by rw [if_pos ⟨hcap, hfree⟩]), ?_⟩
    simp only [deliver, hup, hord, Bool.true_or, Bool.and_self, if_true, replayFrom_window hq hrel hrlen hwin]
    obtain ⟨hsp, -⟩ := transitError_keeps (modBr s sp ch br (resendsWindow (spanNow s sp) b.flight.length)) x l b
    exact ⟨_, (branchIn_spans hsp _ _ _).trans (branchIn_modBr_some hbr _), resendsWindow_toks _ _ _, rfl⟩
  · refine ⟨_, (hexec bad).trans (by rw [if_neg (by simp [hbusy])]), ?_⟩
    rw [extendReorder_element hdst]
    exact moveAhead_buf hq hrel hrlen hbr ((getLoad_of hx).trans hl) hfl hat

/-- Settles O47: the release by its guard, the arrival by where the next token on the way comes from. -/
theorem tokenMovement : Obligations.TokenMovement := ⟨tokenReleases, tokenArrivals⟩

end Sys2Proof.Machine

namespace Sys2Proof.Machine
open Sys2Proof Sys2Proof.Claims

/-! The end of a load, the watchdog, windows and rewirings (R30, R32, R193, R239, R240, R242, R249, R250, R388). -/

/-! The parts of a load that only window ends and table writes move: its window, its block, its version of the table. -/

/-- The window of a load, what its length rests on, and LAYV and UPD. -/
def loadClock (l : Load) : Nat × Bool × W64 × Nat × Nat := (l.winCycle, l.caldera, l.cpw, l.layv, l.upd)
/-- That of a span's load. -/
def clockOf (s : State) (sp : Nat) : Option (Nat × Bool × W64 × Nat × Nat) := (getLoad s sp).map loadClock

theorem getLoad_spans {s t : State} (h : t.spans = s.spans) (sp : Nat) : getLoad t sp = getLoad s sp := by
  simp [getLoad, getSpan, h]
theorem clockOf_spans {s t : State} (h : t.spans = s.spans) (sp : Nat) : clockOf t sp = clockOf s sp := by
  unfold clockOf
  rw [getLoad_spans h]
theorem clockOf_modLoad (s : State) (k : Nat) (f : Load → Load) (sp : Nat)
    (h : ∀ l, loadClock (f l) = loadClock l := by intro; rfl) :
    clockOf (modLoad s k f) sp = clockOf s sp := by
  unfold clockOf
  by_cases hk : sp = k
  · subst hk
    rw [getLoad_modLoad_same, Option.map_map]
    exact congrArg (fun g => Option.map g (getLoad s sp)) (funext h)
  · rw [getLoad_modLoad_ne _ _ hk]
@[simp] theorem clockOf_modChan (s : State) (k ch : Nat) (f : Chan → Chan) (sp : Nat) : clockOf (modChan s k ch f) sp = clockOf s sp :=
  clockOf_modLoad s k _ sp
@[simp] theorem clockOf_modBr (s : State) (k ch br : Nat) (f : Branch → Branch) (sp : Nat) :
    clockOf (modBr s k ch br f) sp = clockOf s sp := clockOf_modChan s k ch _ sp
@[simp] theorem clockOf_modOp (s : State) (k op : Nat) (f : OpState → OpState) (sp : Nat) : clockOf (modOp s k op f) sp = clockOf s sp :=
  clockOf_modLoad s k _ sp
@[simp] theorem clockOf_modEl (s : State) (cl el : Nat) (f : Elem → Elem) (sp : Nat) : clockOf (modEl s cl el f) sp = clockOf s sp := rfl
@[simp] theorem clockOf_modTile (s : State) (cl n : Nat) (f : Tile → Tile) (sp : Nat) : clockOf (modTile s cl n f) sp = clockOf s sp := rfl
theorem clockOf_foldl {α : Type} {f : State → α → State} {sp : Nat} (h : ∀ s a, clockOf (f s a) sp = clockOf s sp) (l : List α) (s : State) :
    clockOf (l.foldl f s) sp = clockOf s sp := foldl_keep f (fun t => clockOf t sp) h l s

/-! Dealing, and taking back. -/

@[simp] theorem clockOf_freshLoops (s : State) (k op lg sp : Nat) : clockOf (freshLoops s k op lg) sp = clockOf s sp := by
  unfold freshLoops
  split
  · rfl
  · split
    · rfl
    · exact clockOf_foldl (fun s j => by split <;> simp) _ s
theorem clockOf_distOne {s t : State} {k op p : Nat} (h : distOne s k op p = some t) (sp : Nat) : clockOf t sp = clockOf s sp := by
  unfold distOne at h
  dsimp only at h
  repeat' split at h
  all_goals cases h
  simp
@[simp] theorem clockOf_distPump (n : Nat) (s : State) (k op p sp : Nat) : clockOf (distPump n s k op p) sp = clockOf s sp := by
  induction n generalizing s with
  | zero => rfl
  | succ n ih =>
    unfold distPump
    split
    · next h => rw [ih, clockOf_distOne h]
    · rfl
@[simp] theorem clockOf_distRun (s : State) (k op sp : Nat) : clockOf (distRun s k op) sp = clockOf s sp :=
  clockOf_foldl (fun s p => clockOf_distPump _ s k op p sp) _ s
@[simp] theorem clockOf_clearAreaFrom (s : State) (x : Span) (b : Branch) (i sp : Nat) : clockOf (clearAreaFrom s x b i) sp = clockOf s sp := by
  refine clockOf_foldl (fun s k => ?_) _ s
  split
  · rfl
  · split <;> rfl
@[simp] theorem clockOf_takeBackAt (m op lg : Nat) (o : OpState) (x : Span) (k : Nat) (s : State) (p sp : Nat) :
    clockOf (takeBackAt m op lg o x k s p) sp = clockOf s sp := by
  unfold takeBackAt
  split
  · rfl
  · extract_lets mine back s1
    have hs1 : clockOf s1 sp = clockOf s sp := by
      refine clockOf_foldl (fun s j => ?_) _ s
      split
      · rfl
      · rw [clockOf_modChan]
        exact clockOf_foldl (fun s b => clockOf_clearAreaFrom s x b _ sp) _ s
    split
    · exact hs1
    · rw [clockOf_modBr, hs1]
@[simp] theorem clockOf_takeBack (s : State) (k op sp : Nat) : clockOf (takeBack s k op) sp = clockOf s sp := by
  unfold takeBack
  split
  · rfl
  · split
    · rfl
    · rw [clockOf_modOp]
      exact clockOf_foldl (fun s p => clockOf_takeBackAt _ _ _ _ _ _ s p sp) _ s

/-! Marking a rewiring, and relieving a stall. -/

theorem stopElems_spans (s : State) (x : Span) (o : OpState) (b : Bool) : (stopElems s x o b).spans = s.spans :=
  foldl_keep _ State.spans (fun s p => by split <;> rfl) _ s
@[simp] theorem clockOf_stopElems (s : State) (x : Span) (o : OpState) (b : Bool) (sp : Nat) :
    clockOf (stopElems s x o b) sp = clockOf s sp := clockOf_spans (stopElems_spans s x o b) sp
@[simp] theorem clockOf_markOp (s : State) (k op other kind : Nat) (t : Option (Nat × Nat)) (sp : Nat) :
    clockOf (markOp s k op other kind t) sp = clockOf s sp := by
  unfold markOp
  split
  · rfl
  · split
    · rfl
    · simp only
      split <;> simp
@[simp] theorem clockOf_startRewire (s : State) (k : Nat) (c : Rewire) (sp : Nat) : clockOf (startRewire s k c) sp = clockOf s sp := by
  have hmark : ∀ t, clockOf (if c.other ≠ c.op then markOp t k c.other c.op c.kind c.target else t) sp = clockOf t sp := fun t => by
    split <;> simp
  unfold startRewire
  simp only
  split
  · exact (clockOf_modLoad _ _ _ _).trans ((hmark _).trans (clockOf_markOp _ _ _ _ _ _ _))
  · rw [hmark, clockOf_markOp]
@[simp] theorem clockOf_startRewires (s : State) (k : Nat) (x : Span) (w sp : Nat) : clockOf (startRewires s k x w) sp = clockOf s sp := by
  refine clockOf_foldl (fun s home => ?_) _ s
  split
  · rfl
  · split
    · exact clockOf_startRewire _ _ _ _
    · rfl
@[simp] theorem clockOf_areaPut (s : State) (x : Span) (k ch br : Nat) (b : Branch) (t : Token) (bad : Bool) (sp : Nat) :
    clockOf (areaPut s x k ch br b t bad) sp = clockOf s sp := by
  unfold areaPut
  split
  · rfl
  · split
    · rfl
    · simp
@[simp] theorem clockOf_extendArea (s : State) (x : Span) (k ch br : Nat) (b : Branch) (r : Nat × Nat × Nat) (sp : Nat) :
    clockOf (extendArea s x k ch br b r) sp = clockOf s sp := by
  unfold extendArea
  extract_lets ts s1 b1 s2 s3
  have hs2 : clockOf s2 sp = clockOf s sp := by simp [s2, s1]
  have hs3 : clockOf s3 sp = clockOf s2 sp := by simp only [s3]; split <;> simp
  rw [clockOf_foldl (fun s i => clockOf_areaPut s x k ch br _ _ _ sp), hs3, hs2]
@[simp] theorem clockOf_relieve (s : State) (k rel el cl : Nat) (ins : List (Bool × Nat)) (sp : Nat) :
    clockOf (relieve s k rel el cl ins) sp = clockOf s sp := by
  refine clockOf_foldl (fun s p => ?_) _ s
  split
  · rfl
  · split
    · rfl
    · split
      · split
        · exact (clockOf_modLoad _ _ _ _).trans (clockOf_extendArea _ _ _ _ _ _ _ _)
        · rfl
      · rfl
@[simp] theorem clockOf_stallSlot (s : State) (k rel el cl n sp : Nat) : clockOf (stallSlot s k rel el cl n) sp = clockOf s sp := by
  unfold stallSlot
  split
  · rfl
  · next l _ =>
    extract_lets ins key run s1 fault lim s2
    have hs1 : clockOf s1 sp = clockOf s sp := clockOf_modLoad _ _ _ _
    have hs2 : clockOf s2 sp = clockOf s1 sp := clockOf_modLoad _ _ _ _
    have hfault : ∀ t, clockOf (fault t) sp = clockOf t sp := fun t => by
      simp only [fault]
      split
      · exact clockOf_modLoad _ _ _ _
      · rfl
    split
    · rfl
    · split
      · exact clockOf_modLoad _ _ _ _
      · split
        · exact hs1
        · split
          · rw [hfault, hs1]
          · split
            · rw [clockOf_relieve, hs1]
            · split
              · rw [hfault, hs2, hs1]
              · rw [hs2, hs1]
@[simp] theorem clockOf_stallAll (s : State) (k : Nat) (x : Span) (sp : Nat) : clockOf (stallAll s k x) sp = clockOf s sp := by
  refine clockOf_foldl (fun s rel => ?_) _ s
  split
  · rfl
  · exact clockOf_foldl (fun s el => clockOf_foldl (fun s n => clockOf_stallSlot s k rel el _ n sp) _ s) _ s
theorem newWeights_spans (s : State) (x : Span) (l : Load) (w : Nat) : (newWeights s x l w).spans = s.spans := by
  refine foldl_keep _ State.spans (fun s p => ?_) _ s
  split
  · rfl
  · split
    · rfl
    · simp only
      split <;> rfl

/-! A window end. -/

/-- The work of the Calderas at a window end, before the next window begins. -/
def windowWork (s : State) (sp : Nat) (x : Span) (l : Load) : State :=
  stallAll (if l.caldera then startRewires (newWeights (modLoad s sp (fun m => countRuns s x m (winLen l))) x l (winLen l)) sp x (winLen l)
    else s) sp x
theorem clockOf_windowWork (s : State) (sp : Nat) (x : Span) (l : Load) : clockOf (windowWork s sp x l) sp = clockOf s sp := by
  unfold windowWork
  rw [clockOf_stallAll]
  split
  · rw [clockOf_startRewires, clockOf_spans (newWeights_spans _ _ _ _)]
    exact clockOf_modLoad _ _ _ _
  · rfl
theorem execWindowEnd_ends {s : State} {cl sp : Nat} {x : Span} {l : Load} (hs : spanAt s cl = some (sp, x)) (hl : x.load = some l)
    (ha : spanActive x = true) (hact : loadActive l = true) (hw : l.winCycle + winLen l ≤ spanNow s sp) :
    execWindowEnd cl s = .next (modLoad (windowWork s sp x l) sp resetWindow) := by
  unfold execWindowEnd windowWork
  simp only [hs, hl, ha, hact, hw, decide_true, Bool.and_self, if_true]
  cases l.caldera <;> rfl
/-- A load whose clock is another's. -/
theorem clockOf_some {s t : State} {sp : Nat} {l : Load} (h : clockOf t sp = clockOf s sp) (hl : getLoad s sp = some l) :
    ∃ m, getLoad t sp = some m ∧ loadClock m = loadClock l := by
  rw [clockOf, clockOf, hl] at h
  exact Option.map_eq_some_iff.mp h
theorem resetWindow_measures {l : Load} {ch : Nat} {c : Chan} (h : amGet (resetWindow l).chans ch = some c) :
    c.winStart = c.count ∧ ∀ b ∈ c.branches, b.popped = 0 ∧ b.occSum = 0 := by
  rw [resetWindow, amGet_amMap] at h
  obtain ⟨c0, -, rfl⟩ := Option.map_eq_some_iff.mp h
  refine ⟨rfl, fun b hb => ?_⟩
  obtain ⟨b0, -, rfl⟩ := List.mem_map.mp hb
  exact ⟨rfl, rfl⟩
theorem resetWindow_cycle {l m : Load} (h : loadClock m = loadClock l) : (resetWindow m).winCycle = l.winCycle + winLen l := by
  simp only [loadClock, Prod.mk.injEq] at h
  obtain ⟨hcyc, hcal, hcpw, -, -⟩ := h
  show m.winCycle + winLen m = _
  unfold winLen
  rw [hcyc, hcal, hcpw]
theorem windowEnd_measures {s : State} {cl sp : Nat} {x : Span} {l : Load} (hx : getSpan s sp = some x) (hs : spanAt s cl = some (sp, x))
    (hl : x.load = some l) (ha : spanActive x = true) (hact : loadActive l = true) (hw : l.winCycle + winLen l ≤ spanNow s sp) :
    Does (.windowEnd cl) s (fun t => ∃ m, getLoad t sp = some m ∧ m.winCycle = l.winCycle + winLen l ∧
      ∀ ch c, amGet m.chans ch = some c → c.winStart = c.count ∧ ∀ b ∈ c.branches, b.popped = 0 ∧ b.occSum = 0) := by
  obtain ⟨m, hm, hclock⟩ := clockOf_some (clockOf_windowWork s sp x l) ((getLoad_of hx).trans hl)
  refine ⟨_, execWindowEnd_ends hs hl ha hact hw, resetWindow m, ?_, resetWindow_cycle hclock, fun ch c => resetWindow_measures⟩
  rw [getLoad_modLoad_same, hm]
  rfl

/-! The division of a rewiring: the load that it leaves keeps its clock. -/

theorem loadClock_foldl {α : Type} (f : Load → α → Load) (as : List α) (l : Load)
    (h : ∀ l a, loadClock (f l a) = loadClock l := by intros; rfl) : loadClock (as.foldl f l) = loadClock l := foldl_keep f loadClock h as l
theorem loadClock_attachOne (x : Span) (op : Nat) (o : OpState) (ps qs : List Nat) (ts : List Token) (l : Load) (j : Nat) :
    loadClock (attachOne x op o ps qs ts l j) = loadClock l := by
  unfold attachOne
  exact (loadClock_foldl _ qs _).trans (loadClock_foldl _ ps l)
theorem loadClock_attach (x : Span) (op : Nat) (o : OpState) (ts : List Token) (l : Load) : loadClock (attach x op o ts l) = loadClock l :=
  loadClock_foldl _ _ l (fun l j => loadClock_attachOne x op o _ _ ts l j)
theorem loadClock_toNodes (s : State) (x : Span) (l : Load) (op : Nat) (o : OpState) (u : UnitRef) :
    loadClock (toNodes s x l op o u) = loadClock l := by
  unfold toNodes
  cases loopAt s x l o u <;> rfl
theorem loadClock_fromNodes (x : Span) (l : Load) (op : Nat) (o : OpState) (u : UnitRef) (ts : List Token) :
    loadClock (fromNodes x l op o u ts) = loadClock l := by
  unfold fromNodes
  extract_lets from_ to_ l1
  split
  · split <;> rfl
  · rfl
theorem loadClock_clonedLoad (s : State) (x : Span) (l : Load) (op : Nat) (o : OpState) (t : Nat × Nat) :
    loadClock (clonedLoad s x l op o t) = loadClock l := by
  unfold clonedLoad
  rw [loadClock_attach]
  split
  · rfl
  · exact loadClock_toNodes _ _ _ _ _ _
theorem loadClock_unclonedLoad (x : Span) (l : Load) (op : Nat) (o : OpState) (ts : List Token) :
    loadClock (unclonedLoad x l op o ts) = loadClock l := by
  unfold unclonedLoad
  simp only
  split
  · exact loadClock_fromNodes _ _ _ _ _ _
  · exact loadClock_attach _ _ _ _ _
theorem loadClock_unfoldedLoad (s : State) (x : Span) (l : Load) (rel el op : Nat) (o : OpState) (t : Nat × Nat) :
    loadClock (unfoldedLoad s x l rel el op o t) = loadClock l := by
  unfold unfoldedLoad
  cases absOf x rel <;> rfl

/-! The division touches spans by that load alone. -/

theorem copyElem_spans (s : State) (x : Span) (p q : Nat × Nat) (f : Elem → Elem) : (copyElem s x p q f).spans = s.spans := by
  unfold copyElem
  split <;> rfl
theorem clearElem_spans (s : State) (x : Span) (p : Nat × Nat) : (clearElem s x p).spans = s.spans := by
  unfold clearElem
  split <;> rfl
theorem modPlace_spans (s : State) (x : Span) (p : Nat × Nat × Nat) (f : Elem → Elem) : (modPlace s x p f).spans = s.spans := by
  unfold modPlace
  split <;> rfl
theorem copyRecord_spans (s : State) (o : OpState) (b f t : Nat) : (copyRecord s o b f t).spans = s.spans := by
  unfold copyRecord
  split <;> rfl
theorem moveRecords_spans (s : State) (x : Span) (o : OpState) (old new : List (Nat × Nat × Nat)) :
    (moveRecords s x o old new).spans = s.spans := by
  unfold moveRecords
  split
  · rfl
  · refine foldl_keep _ State.spans (fun s b => ?_) _ s
    split
    · exact copyRecord_spans _ _ _ _ _
    · rfl
/-- A load put in its span's place with the same clock. -/
theorem clockOf_putLoad {s : State} {sp : Nat} {l m : Load} (hl : getLoad s sp = some l) (h : loadClock m = loadClock l) :
    clockOf (modSpan s sp (fun y => { y with load := some m })) sp = clockOf s sp := by
  unfold clockOf getLoad at *
  rw [getSpan_modSpan_same]
  obtain ⟨x, hx, hxl⟩ := Option.bind_eq_some_iff.mp hl
  simp [hx, hxl, h]

section Divide
variable {s : State} {sp : Nat} {x : Span} {l : Load} (hl : getLoad s sp = some l)
include hl

theorem clockOf_doClone (op : Nat) (o : OpState) (t : Nat × Nat) : clockOf (doClone s sp x l op o t) sp = clockOf s sp := by
  unfold doClone
  simp only
  rw [clockOf_spans (moveRecords_spans _ _ _ _ _), clockOf_spans (copyElem_spans _ _ _ _ _), clockOf_spans (modPlace_spans _ _ _ _)]
  exact clockOf_putLoad hl (loadClock_clonedLoad _ _ _ _ _ _)
theorem clockOf_doUnclone (op : Nat) (o : OpState) : clockOf (doUnclone s sp x l op o) sp = clockOf s sp := by
  unfold doUnclone
  extract_lets left acc ts l1 l2 s0 s1 s2
  have hl2 : loadClock l2 = loadClock l := loadClock_unclonedLoad x l op _ _
  have hs0 : s0.spans = s.spans := moveRecords_spans _ _ _ _ _
  have hs1 : clockOf s1 sp = clockOf s sp :=
    (clockOf_putLoad (m := l2) ((getLoad_spans hs0 sp).trans hl) hl2).trans (clockOf_spans hs0 sp)
  have hs2 : clockOf s2 sp = clockOf s sp := by
    simp only [s2]
    split
    · rw [clockOf_spans (clearElem_spans _ _ _), hs1]
    · exact hs1
  split
  · rw [clockOf_spans (modPlace_spans _ _ _ _), hs2]
  · exact hs2
theorem clockOf_doFold (opA opB : Nat) (a b : OpState) : clockOf (doFold s sp x l opA opB a b) sp = clockOf s sp := by
  unfold doFold
  simp only
  rw [clockOf_spans (clearElem_spans _ _ _), clockOf_spans (modPlace_spans _ _ _ _)]
  exact clockOf_putLoad hl rfl
theorem clockOf_doUnfold (opA opB : Nat) (b : OpState) (t : Nat × Nat) : clockOf (doUnfold s sp x l opA opB b t) sp = clockOf s sp := by
  unfold doUnfold
  simp only
  rw [clockOf_spans (modPlace_spans _ _ _ _), clockOf_spans (copyElem_spans _ _ _ _ _)]
  exact clockOf_putLoad hl (loadClock_unfoldedLoad _ _ _ _ _ _ _ _)
theorem clockOf_completeRewire (op : Nat) (o : OpState) : clockOf (completeRewire s sp x l op o) sp = clockOf s sp := by
  unfold completeRewire
  split
  · exact clockOf_doClone hl _ _ _
  · exact clockOf_doUnclone hl _ _
  · split
    · exact clockOf_doFold hl _ _ _ _
    · exact clockOf_doFold hl _ _ _ _
  · split
    · exact clockOf_doUnfold hl _ _ _ _
    · exact clockOf_doUnfold hl _ _ _ _
  · rfl
end Divide

/-! The writes of the layout table. -/

theorem clockOf_holdOp (s : State) (k op sp : Nat) : clockOf (holdOp s k op) sp = clockOf s sp := by
  unfold holdOp
  split
  · exact clockOf_stopElems _ _ _ _ _
  · rfl
theorem beginTable_load {s : State} {sp : Nat} {l : Load} (hl : getLoad s sp = some l) :
    getLoad (beginTable s sp) sp = some { l with upd := l.upd + 1 } := by
  have hup : getLoad (modLoad s sp (fun l => { l with upd := l.upd + 1 })) sp = some { l with upd := l.upd + 1 } := by
    rw [getLoad_modLoad_same, hl]
    rfl
  unfold beginTable
  simp only
  split
  · exact hup
  · split
    · exact hup
    · rw [getLoad_spans (sameButCounts_spans (writeTableBytes_counts _ _ _ _ _))]
      exact hup
theorem resumeOps_spans (s : State) (sp : Nat) : (resumeOps s sp).spans = s.spans := by
  unfold resumeOps
  split
  · refine foldl_keep _ State.spans (fun s o => ?_) _ s
    split
    · exact stopElems_spans _ _ _ _
    · rfl
  · rfl
/-- With the end of the writes LAYV rises by the rewirings completed. -/
theorem finishTable_load {s : State} {sp : Nat} {l : Load} (hl : getLoad s sp = some l) (hu : l.upd ≠ 0) :
    getLoad (finishTable s sp) sp = some { l with layv := (l.layv + l.upd) % 2 ^ 32, upd := 0 } := by
  unfold finishTable
  rw [if_pos (by simp [hl, hu]), getLoad_spans (resumeOps_spans _ _), getLoad_spans (sameButCounts_spans (writeTable_counts _ _)),
    getLoad_modLoad_same, hl]
  rfl

/-- The state in which a rewiring is divided, its table writes begun. -/
def rewired (s : State) (sp : Nat) (x : Span) (l : Load) (op : Nat) (o : OpState) : State :=
  beginTable (holdOp (holdOp (completeRewire s sp x l op o) sp op) sp o.partner) sp
theorem execRewiringComplete_ready {s : State} {sp op : Nat} {x : Span} {l : Load} {o : OpState} (hx : getSpan s sp = some x)
    (hl : x.load = some l) (ho : amGet l.ops op = some o) (hr : o.rewire ≠ 0) (ha : spanActive x = true)
    (hready : rewireReady s sp x l op o = true) :
    execRewiringComplete sp op s = .next (countBoth (distRun (rewired s sp x l op o) sp op) ((absOf x o.home.1).getD sp) 0x7000 1) := by
  unfold execRewiringComplete
  simp only [hx, hl, ho, hr, ha, hready, ne_eq, not_false_eq_true, decide_true, Bool.and_self, if_true]
  rfl
theorem rewiringComplete_updates {s : State} {sp op : Nat} {x : Span} {l : Load} {o : OpState} (hx : getSpan s sp = some x)
    (hl : x.load = some l) (ho : amGet l.ops op = some o) (hr : o.rewire ≠ 0) (ha : spanActive x = true)
    (hready : rewireReady s sp x l op o = true) :
    Does (.rewiringComplete sp op) s (fun t => (∃ m, getLoad t sp = some m ∧ m.layv = l.layv ∧ m.upd = l.upd + 1) ∧
      ∃ m, getLoad (finishTable t sp) sp = some m ∧ m.layv = (l.layv + l.upd + 1) % 2 ^ 32 ∧ m.upd = 0) := by
  have hload := (getLoad_of hx).trans hl
  obtain ⟨m0, hm0, hc0⟩ := clockOf_some (((clockOf_holdOp _ _ _ _).trans (clockOf_holdOp _ _ _ _)).trans
    (clockOf_completeRewire (x := x) hload op o)) hload
  obtain ⟨m, hm, hc⟩ := clockOf_some (clockOf_distRun (rewired s sp x l op o) sp op sp) (beginTable_load hm0)
  simp only [loadClock, Prod.mk.injEq] at hc0 hc
  obtain ⟨-, -, -, hlayv0, hupd0⟩ := hc0
  obtain ⟨-, -, -, hlayv, hupd⟩ := hc
  have hlayv' : m.layv = l.layv := hlayv.trans hlayv0
  have hupd' : m.upd = l.upd + 1 := by rw [hupd, hupd0]
  have hend := (getLoad_spans (countBoth_spans _ ((absOf x o.home.1).getD sp) 0x7000 1) sp).trans hm
  refine ⟨_, execRewiringComplete_ready hx hl ho hr ha hready, ⟨m, hend, hlayv', hupd'⟩, _, finishTable_load hend (by omega), ?_, rfl⟩
  show (m.layv + m.upd) % 2 ^ 32 = _
  rw [hlayv', hupd', Nat.add_assoc]

/-! The end of a load. -/

/-- Spans, with their loads, and the kept bits of SY.PEND are the same. -/
def samePend (s t : State) : Prop := t.spans = s.spans ∧ ∀ c, (getCl t c).core.pend = (getCl s c).core.pend
theorem samePend_refl (s : State) : samePend s s := ⟨rfl, fun _ => rfl⟩
theorem samePend_trans {s t u : State} (h : samePend s t) (k : samePend t u) : samePend s u := by
  obtain ⟨hspans, hpend⟩ := h
  obtain ⟨kspans, kpend⟩ := k
  exact ⟨kspans.trans hspans, fun c => (kpend c).trans (hpend c)⟩
theorem samePend_counts {s t : State} (h : sameButCounts s t) : samePend s t :=
  ⟨sameButCounts_spans h, fun c => by rw [sameButCounts_core h]⟩
theorem samePend_modGrp (s : State) (cl g : Nat) (f : Group → Group) : samePend s (modGrp s cl g f) := by
  refine ⟨modGrp_spans _ _ _ _, fun c => ?_⟩
  unfold modGrp modCore
  rw [getCl_modCl]
  split
  · next h => subst h; rfl
  · rfl
theorem samePend_flushGrp (s : State) (cl g sc : Nat) : samePend s (flushGrp s cl g sc) :=
  samePend_trans (samePend_trans (samePend_counts (performAll_counts _ _ _ _)) (samePend_modGrp _ _ _ _))
    (samePend_counts (sameButMem_counts (performSeen_same _ _ _)))
theorem Wakes.samePend {s t : State} {cl g : Nat} (w : Wakes s cl g t) : samePend s t := by
  cases w with
  | stays => exact samePend_refl s
  | ready => exact samePend_modGrp _ _ _ _
  | wfi => exact samePend_modGrp _ _ _ _
  | waitl _ n => exact samePend_trans (samePend_flushGrp _ _ _ _) (samePend_modGrp _ _ _ _)
  | pin _ n => exact samePend_modGrp _ _ _ _
theorem samePend_endPins (s : State) (x : Span) : samePend s (endPins s x) := by
  refine foldl_inv _ (samePend s) (fun t c h => ?_) _ (samePend_refl s)
  refine foldl_inv _ (samePend s) (fun u g k => samePend_trans k ?_) _ h
  split
  · exact (wakeGroup_wakes u c g).samePend
  · exact samePend_refl u

/-- SY.PEND shows a kept bit. -/
theorem pendOf_testBit_kept (c : Core) {i : Nat} (h2 : 2 ≤ i) (h4 : i ≤ 4) : (pendOf c).testBit i = c.pend.testBit i := by
  have hlow : ∀ b d : Bool, b2n b + 2 * b2n d < 2 ^ 2 := by decide
  unfold pendOf
  rw [Nat.add_comm, show 4 = 2 ^ 2 from rfl, Nat.testBit_two_pow_mul_add _ (hlow _ _), if_neg (by omega), show 8 = 2 ^ 3 from rfl,
    Nat.testBit_mod_two_pow, Nat.testBit_div_two_pow, decide_eq_true (by omega), Bool.true_and, Nat.sub_add_cancel h2]
theorem setPend_testBit (s : State) (cl i : Nat) : (getCl (setPend s cl i) cl).core.pend.testBit i = true := by
  unfold setPend modCore
  rw [getCl_modCl_same]
  show ((getCl s cl).core.pend ||| 2 ^ i).testBit i = true
  rw [Nat.testBit_or, Nat.testBit_two_pow_self, Bool.or_true]

/-- A Complete load's channels hold nothing. -/
theorem completeLoad_empty {l : Load} {ch : Nat} {c : Chan} (h : amGet (completeLoad l).chans ch = some c) :
    c.out = [] ∧ ∀ b ∈ c.branches, inBranch b = 0 := by
  rw [completeLoad, amGet_amMap] at h
  obtain ⟨c0, -, rfl⟩ := Option.map_eq_some_iff.mp h
  refine ⟨rfl, fun b hb => ?_⟩
  obtain ⟨b0, -, rfl⟩ := List.mem_map.mp hb
  unfold inBranch
  cases b0.queue <;> rfl
/-- The units of a load's clusters when it has ended. -/
def unitsDone (s : State) (x : Span) (l : Load) : State :=
  x.clusters.foldl (fun s c => modCl s c (fun k =>
    let k1 := clusterDone k
    { k1 with tiles := amMap k1.tiles (emptyAreas (loadAreas l) (relOf x c)) })) s
theorem unitsDone_spans (s : State) (x : Span) (l : Load) : (unitsDone s x l).spans = s.spans :=
  foldl_keep _ State.spans (fun s c => modCl_spans s c _) _ s

section LoadEnd
variable {s : State} {sp : Nat} {x : Span} {l : Load} (hx : getSpan s sp = some x) (hl : x.load = some l) (ha : spanActive x = true)
include hx hl ha

theorem execLoadComplete_eq (hp : l.phase = .draining) : execLoadComplete sp s =
    .next (if loadIdle s x l then endPins (setPend (modLoad (unitsDone s x l) sp completeLoad) sp 4) x else s) := by
  unfold execLoadComplete
  simp only [hx, hl, ha, hp, decide_true, Bool.true_and]
  split <;> rfl
theorem loadComplete_ends (hp : l.phase = .draining) (hi : loadIdle s x l = true) : Does (.loadComplete sp) s (fun t =>
    (pendOf (getCl t sp).core).testBit 4 = true ∧ ∃ m, getLoad t sp = some m ∧ m.phase = .complete ∧ m.passed = true ∧ m.discarded = heldTokens l ∧
      ∀ ch c, amGet m.chans ch = some c → c.out = [] ∧ ∀ b ∈ c.branches, inBranch b = 0) := by
  obtain ⟨hspans, hpend⟩ := samePend_endPins (setPend (modLoad (unitsDone s x l) sp completeLoad) sp 4) x
  refine ⟨_, (execLoadComplete_eq hx hl ha hp).trans (by rw [if_pos hi]), ?_, completeLoad l, ?_, rfl, rfl, rfl,
    fun ch c => completeLoad_empty⟩
  · rw [pendOf_testBit_kept _ (by omega) (by omega), hpend, setPend_testBit]
  · rw [getLoad_spans (hspans.trans (setPend_spans _ _ _)), getLoad_modLoad_same, getLoad_spans (unitsDone_spans _ _ _), getLoad_of hx, hl]
    rfl
end LoadEnd

/-! The watchdog. -/

/-- An event is posted behind all that stand or wait. -/
theorem postEvent_events (s : State) (cl : Nat) (r : FaultRec) :
    (getCl (postEvent s cl r) cl).core.events ++ (getCl (postEvent s cl r) cl).core.held =
      (getCl s cl).core.events ++ (getCl s cl).core.held ++ [r] := by
  unfold postEvent modCore
  rw [getCl_modCl_same]
  simp only
  split
  · next h =>
    obtain ⟨-, hheld⟩ := h
    simp [hheld]
  · simp
theorem watchdog_posts {s : State} {sp : Nat} {x : Span} {l : Load} (hx : getSpan s sp = some x) (hl : x.load = some l)
    (ha : spanActive x = true) (hp : l.phase = .running) (hd : l.wdogDone = false) (hw : (getCl s sp).core.wdog ≠ 0#64)
    (hlate : l.wdogFrom + (getCl s sp).core.wdog.toNat < spanNow s sp) : Does (.watchdog sp) s (fun t =>
      getLoad t sp = some { l with wdogDone := true } ∧
      (getCl t sp).core.events ++ (getCl t sp).core.held = (getCl s sp).core.events ++ (getCl s sp).core.held ++ [⟨0x0B, 0, 0, 0⟩]) := by
  have hne : (getCl s sp).core.wdog.toNat ≠ 0 := fun h => hw (BitVec.eq_of_toNat_eq h)
  have hexec : execWatchdog sp s = .next (postEvent (modLoad s sp (fun l => { l with wdogDone := true })) sp ⟨0x0B, 0, 0, 0⟩) := by
    unfold execWatchdog
    simp only [hx, hl, ha, hp, hd, hne, hlate, decide_true, ne_eq, not_false_eq_true, Bool.not_false, Bool.and_self, if_true]
  refine ⟨_, hexec, ?_, ?_⟩
  · rw [getLoad_spans (postEvent_spans _ _ _), getLoad_modLoad_same, getLoad_of hx, hl]
    rfl
  · rw [postEvent_events, getCl_modLoad]

theorem loadEnds : LoadEnds := by
  intro s sp x l hx hl ha
  refine ⟨fun hp hi => loadComplete_ends hx hl ha hp hi, fun hp hi => ?_, fun hp hd hw hlate => watchdog_posts hx hl ha hp hd hw hlate⟩
  exact (execLoadComplete_eq hx hl ha hp).trans (by rw [hi]; rfl)
theorem calderaEvents : CalderaEvents := by
  intro s sp x l hx hl ha
  exact ⟨fun cl hs hact hw => windowEnd_measures hx hs hl ha hact hw,
    fun op o ho hr hready => rewiringComplete_updates hx hl ho hr ha hready⟩

/-- Settles O49: the load's end by what waking the pinned groups leaves alone; the window and the rewiring by the clock of the
load, which neither the Calderas' choices nor the division of state move. -/
theorem loadEndAndLayoutEvents : Obligations.LoadEndAndLayoutEvents := ⟨loadEnds, calderaEvents⟩

end Sys2Proof.Machine

namespace Sys2Proof.Machine
open Sys2Proof Sys2Proof.Claims

/-! Channel tables that hold one number twice. A table that `amPut` builds lists each number once; O28, O29 and O48 speak of every
state, and where a number stands twice the channel found at a port need not be the one that its number leads to. -/

/-- A branch that ends at a data port of an element of cluster 0, with what stands there. -/
def branchAt (el n : Nat) (ts : List Token) : Branch :=
  { branchNew ⟨.element 0 el, n, false⟩ 0 0 none 0 [] with buf := ts.map (fun t => ⟨t, 0⟩) }
/-- Channel 7, from another element. -/
def chanInto (bs : List Branch) : Chan := chanNew 7 ⟨.element 0 1, 0, false⟩ bs
/-- Cluster 0 runs a load with a channel table, and its element 0 holds what is given. -/
def withTable (entries : List (Nat × Chan)) (e : Elem) : State :=
  let x := { probeSpan with load := some { probeLoad with chans := ⟨entries⟩ } }
  modEl (modCl { State.reset with spans := ⟨[(0, x)]⟩, cycles := vec16Fill 10 } 0 (fun c => { c with span := some 0 })) 0 0 (fun _ => e)
/-- A token of eight lanes, all zero. -/
def zeroToken : Token := ⟨vec8Fill 0#32, mkHdr 0 false false false 8 0 0⟩
/-- An element whose data inputs take every format. -/
def openElem : Elem := { elemReset with fam := 0xFFFFFFFF#32 }
/-- The parts of an environment that the statements speak of. -/
def envKey (v : Env) : Nat × Nat × Nat × Nat × Nat × Slot := (v.sp, v.rel, v.el, v.lg, v.op, v.w)
theorem fireEnv_of_key {s : State} {op : Nat} {w : Slot} {k : Nat × Nat × Nat × Nat × Nat × Slot}
    (h : (fireEnv s op w).map envKey = some k) : ∃ v, fireEnv s op w = some v ∧ envKey v = k := Option.map_eq_some_iff.mp h

/-! The pop of a channel that has no end at the element. -/

/-- ADD.I32 D=v2 A=i0.pop B=v0. -/
def popA : Slot := plainSlot 1#8 0#4 2#5 20#5 0#5 0#5
/-- The table finds channel 7 at input 0 of element 0, but 7 leads to a channel into element 2. -/
def popsElsewhere : State := withTable [(7, chanInto [branchAt 2 0 [zeroToken]]), (7, chanInto [branchAt 0 0 []])] openElem
theorem popsElsewhere_fires : (fireEnv popsElsewhere 0x00 popA).map envKey = some (0, 0, 0, 1, 0x00, popA) := by rfl
theorem popsElsewhere_popped {t : State} (h : exec (.addI32 popA) popsElsewhere = .next t) :
    getChan t 0 7 ≠ some (chanInto [branchAt 2 0 [zeroToken]]) := by
  cases h
  exact fun h => absurd (congrArg (Option.map (fun c => c.branches.map (fun b => b.buf.length))) h) (by decide)
theorem popsElsewhere_next : ∃ t, exec (.addI32 popA) popsElsewhere = .next t := ⟨_, rfl⟩

/-- Refutes O28: its last clause keeps every channel that has no end at the element, in every state, and not only in those whose
channel table lists each number once. In `popsElsewhere` the pop at input 0 takes the token of a channel from element 1 to
element 2. -/
theorem not_firingFrame : ¬ Obligations.FiringFrame := by
  intro h
  obtain ⟨v, hv, hkey⟩ := fireEnv_of_key popsElsewhere_fires
  obtain ⟨hsp, hrel, hel, -⟩ : v.sp = 0 ∧ v.rel = 0 ∧ v.el = 0 ∧ _ := by simpa only [envKey, Prod.mk.injEq] using hkey
  obtain ⟨t, ht⟩ := popsElsewhere_next
  obtain ⟨-, -, -, -, -, -, -, -, -, -, -, -, -, hchan⟩ := h 0x00 popA _ _ t v rfl hv ht
  rw [hsp, hrel, hel] at hchan
  refine popsElsewhere_popped ht (hchan 7 _ rfl (by decide) fun b hb => ?_)
  obtain rfl := List.mem_singleton.mp hb
  decide

/-! Two inputs whose tokens are popped from one branch. -/

/-- ADD.I32 D=v2 A=i0.pop B=i1.pop. -/
def popAB : Slot := plainSlot 3#8 0#4 2#5 20#5 21#5 0#5
/-- The table finds channel 7 at inputs 0 and 1 of element 0, and 7 leads to the one into input 0, which holds two tokens. -/
def popsTwice : State := withTable [(7, chanInto [branchAt 0 0 [zeroToken, zeroToken]]), (7, chanInto [branchAt 0 1 []])] openElem
theorem popsTwice_fires : (fireEnv popsTwice 0x00 popAB).map envKey = some (0, 0, 0, 1, 0x00, popAB) := by rfl
theorem popsTwice_popped {t : State} (h : exec (.addI32 popAB) popsTwice = .next t) :
    (getChan t 0 7).map (fun c => c.branches.map (fun b => b.buf.length)) = some [0] := by
  cases h
  rfl

/-- Refutes O29: `PopsAndPredicates` says what stands at each input after the pop, in every state, and not only in those whose channel
table lists each number once. In `popsTwice` inputs 0 and 1 take a token each from the branch that ends at input 0, of which
one token should stay. -/
theorem not_popsPredicatesAndHeaders : ¬ Obligations.PopsPredicatesAndHeaders := by
  intro ⟨hpops, _⟩
  obtain ⟨v, hv, hkey⟩ := fireEnv_of_key popsTwice_fires
  obtain ⟨hsp, hrel, hel, hlg, hop, hw⟩ : v.sp = 0 ∧ v.rel = 0 ∧ v.el = 0 ∧ v.lg = 1 ∧ v.op = 0x00 ∧ v.w = popAB := by
    simpa only [envKey, Prod.mk.injEq] using hkey
  have hcode : codeA v = some (.pop 0) := by
    unfold codeA shapeV
    rw [hop, hw]
    rfl
  obtain ⟨t, ht, hleft, -⟩ := hpops ⟨.addI32, 0x00, fun v l => laneA v l + laneB v l⟩ (by simp [laneForms, integerForms]) popAB _ v _ hv
    (by rw [hsp]; rfl)
  obtain ⟨c, b, hc, hb, hbuf⟩ := hleft 0 7 0 _ _ (.inl hcode) (by rw [hrel, hel]; rfl) rfl rfl
  rw [hsp] at hc
  rw [hop, hw, hlg] at hbuf
  have hnone := popsTwice_popped ht
  rw [hc, Option.map_some, Option.some.injEq] at hnone
  have hzero : b.buf.length = 0 := by
    have hlens := congrArg (·[0]?) hnone
    simp only [List.getElem?_map, hb] at hlens
    simpa using hlens
  rw [hbuf] at hzero
  exact absurd hzero (by decide)

/-! An answer whose completion token stands on the channel of its data. -/

/-- A load that is done, of one token onto o0, with a completion token onto y0. -/
def doneEntry : RqEntry :=
  { held := false, slotNo := 0, share := 0, op := .load, dest := 16, vl := 8, lg := 1, trunc := false, mz := false, fill := [], hdrs := [],
    sqs := false, tagged := false, cmpl := some 0, accs := [], pkts := [], done := true, results := [], swapped := [], sink := false,
    poison := false }
/-- Channel `k`, from port 0 of element 0, with no branch. -/
def chanOut0 (k : Nat) (ctl : Bool) : Nat × Chan := (k, chanNew k ⟨.element 0 0, 0, ctl⟩ [])
/-- The table finds channel 9 at y0 until the data stand on channel 7, which it finds at o0: writing 7 puts an entry of y0 first. -/
def answersTwice : State := withTable [chanOut0 9 true, chanOut0 7 true, chanOut0 7 false] { openElem with rq := [doneEntry] }
theorem answersTwice_emitted {t : State} (h : exec (.responseQueueLeave 0 0) answersTwice = .next t) :
    (getChan t 0 7).map (fun c => c.out.length) = some 2 := by
  cases h
  rfl

/-- Refutes O48: `AnswersLeave` counts the tokens on the answer's channel in every state, and not only in those whose channel table
lists each number once. In `answersTwice` the completion token of y0 follows the data onto the channel of o0, though the table
finds another at y0 before. -/
theorem not_memoryCompletion : ¬ Obligations.MemoryCompletion := by
  intro ⟨_, _, _, hleave⟩
  obtain ⟨t, ht, -, -, hout⟩ := hleave answersTwice 0 0 0 0 _ doneEntry [] rfl rfl rfl rfl rfl (.inl rfl) rfl (by decide)
  obtain ⟨c, hc, -, hlen, -⟩ := hout 7 _ rfl
  have htwo := answersTwice_emitted ht
  rw [hc, Option.map_some, hlen] at htwo
  exact absurd htwo (by decide)

end Sys2Proof.Machine

namespace Sys2Proof.Machine
open Sys2Proof

/-! A word as the list of its fields, lowest first: packing them and taking the word apart undo each other. -/

/-- The number that fields `xs` of widths `ks` make up, the lowest field first. -/
def packBits : List Nat → List Nat → Nat
  | k :: ks, x :: xs => x + 2 ^ k * packBits ks xs
  | _, _ => 0
/-- The fields of widths `ks` that a number is made of, the lowest first. -/
def unpackBits : List Nat → Nat → List Nat
  | k :: ks, n => n % 2 ^ k :: unpackBits ks (n / 2 ^ k)
  | [], _ => []

theorem packBits_unpackBits (ks : List Nat) (n : Nat) : packBits ks (unpackBits ks n) = n % 2 ^ ks.sum := by
  induction ks generalizing n with
  | nil => simp [packBits, Nat.mod_one]
  | cons k ks ih => simp only [packBits, unpackBits, ih, List.sum_cons, Nat.pow_add, Nat.mod_mul]
theorem unpackBits_packBits {ks xs : List Nat} (h : List.Forall₂ (fun k x => x < 2 ^ k) ks xs) : unpackBits ks (packBits ks xs) = xs := by
  induction h with
  | nil => rfl
  | cons hx _ ih => simp only [packBits, unpackBits, Nat.add_mul_mod_self_left, Nat.mod_eq_of_lt hx, Nat.add_mul_div_left _ _ (Nat.two_pow_pos _),
      Nat.div_eq_of_lt hx, Nat.zero_add, ih]
theorem unpackBits_mod (ks : List Nat) (n : Nat) : unpackBits ks (n % 2 ^ ks.sum) = unpackBits ks n := by
  induction ks generalizing n with
  | nil => rfl
  | cons k ks ih => simp only [unpackBits, List.sum_cons, Nat.pow_add, Nat.mod_mul_right_mod, Nat.mod_mul_right_div_self, ih]

/-- The widths of the fields of a slot word, PW first (R66). -/
def slotWidths : List Nat := [5, 5, 5, 5, 8, 3, 2, 1, 4, 8, 8, 8, 1, 1]
/-- The fields of an opcode and a slot, in the order of `slotWidths`. -/
def slotFields (op : Nat) (s : Slot) : List Nat :=
  [s.pw.toNat, s.b.toNat, s.a.toNat, s.d.toNat, op, s.tv.toNat, s.ts.toNat, b2n s.te, s.os.toNat, s.ir.toNat, s.pv.toNat, s.pm.toNat,
    b2n s.q, b2n s.valid]

theorem b2n_lt_two (b : Bool) : b2n b < 2 := by cases b <;> decide
theorem b2n_inj {a b : Bool} (h : b2n a = b2n b) : a = b := by revert h; cases a <;> cases b <;> decide
theorem b2n_bitAt (k : Nat) {n : Nat} (x : BitVec n) : b2n (bitAt k x) = x.toNat / 2 ^ k % 2 := by
  simp only [b2n, bitAt, BitVec.getLsbD, Nat.testBit_eq_decide_div_mod_eq, decide_eq_true_eq]
  split <;> omega

theorem slotFields_inj {op op' : Nat} {s s' : Slot} (h : slotFields op s = slotFields op' s') : op = op' ∧ s = s' := by
  obtain ⟨valid, q, pm, pv, ir, os, te, ts, tv, d, a, b, pw⟩ := s
  obtain ⟨valid', q', pm', pv', ir', os', te', ts', tv', d', a', b', pw'⟩ := s'
  simp only [slotFields, List.cons.injEq, and_true, BitVec.toNat_inj] at h
  obtain ⟨rfl, rfl, rfl, rfl, rfl, rfl, rfl, hte, rfl, rfl, rfl, rfl, hq, hvalid⟩ := h
  obtain rfl := b2n_inj hte
  obtain rfl := b2n_inj hq
  obtain rfl := b2n_inj hvalid
  exact ⟨rfl, rfl⟩
theorem slotFields_lt {op : Nat} (s : Slot) (h : op < 256) : List.Forall₂ (fun k x => x < 2 ^ k) slotWidths (slotFields op s) := by
  simp only [slotWidths, slotFields, List.forall₂_cons, List.forall₂_nil_left_iff, and_true]
  exact ⟨s.pw.isLt, s.b.isLt, s.a.isLt, s.d.isLt, h, s.tv.isLt, s.ts.isLt, b2n_lt_two _, s.os.isLt, s.ir.isLt, s.pv.isLt, s.pm.isLt,
    b2n_lt_two _, b2n_lt_two _⟩
theorem slotFields_of_word (w : W64) : slotFields (slotOpOf w) (slotOf w) = unpackBits slotWidths w.toNat := by
  simp only [slotFields, slotWidths, unpackBits, slotOf, slotOpOf, field, b2n_bitAt, BitVec.toNat_ofNat, Nat.div_div_eq_div_mul,
    Nat.mod_mod, Nat.reduceAdd, Nat.reduceSub, Nat.reducePow, Nat.reduceMul, Nat.div_one]
theorem slotWord_eq_pack {op : Nat} (s : Slot) (h : op < 256) :
    slotWord op s = BitVec.ofNat 64 (packBits slotWidths (slotFields op s)) := by
  refine congrArg (BitVec.ofNat 64) ?_
  simp only [packBits, slotWidths, slotFields, put, Nat.reducePow, Nat.mod_eq_of_lt h]
  omega

/-- Taking a slot word apart gives its opcode and its fields. -/
theorem slotWord_parts {op : Nat} (s : Slot) (h : op < 256) : slotOpOf (slotWord op s) = op ∧ slotOf (slotWord op s) = s := by
  apply slotFields_inj
  rw [slotFields_of_word, slotWord_eq_pack s h, BitVec.toNat_ofNat]
  calc unpackBits slotWidths (packBits slotWidths (slotFields op s) % 2 ^ slotWidths.sum)
      = unpackBits slotWidths (packBits slotWidths (slotFields op s)) := unpackBits_mod _ _
    _ = slotFields op s := unpackBits_packBits (slotFields_lt s h)
theorem slotOpOf_lt (w : W64) : slotOpOf w < 256 := Nat.mod_lt _ (by decide)
/-- The opcode and the fields of a word make up that word. -/
theorem slotWord_of_parts (w : W64) : slotWord (slotOpOf w) (slotOf w) = w := by
  rw [slotWord_eq_pack _ (slotOpOf_lt w), slotFields_of_word, packBits_unpackBits]
  exact BitVec.eq_of_toNat_eq (by simp [slotWidths, Nat.mod_eq_of_lt w.isLt])

/-! The table of opcodes (R73), read in both directions. -/

theorem slotInstr_of_slotParts {i : Instr} {op : Nat} {s : Slot} (h : slotParts i = some (op, s)) : op < 256 ∧ slotInstr op s = some i := by
  cases i <;> cases h <;> exact ⟨by decide, rfl⟩
theorem slotParts_of_slotInstr {i : Instr} {op : Nat} {s : Slot} (hop : op < 256) (h : slotInstr op s = some i) :
    slotParts i = some (op, s) := by
  interval_cases op <;> cases h <;> rfl

/-- Settles O25: a word is the list of its fields (`slotWord_parts`, `slotWord_of_parts`), and the tables of opcodes are inverse
to each other. -/
theorem slotRoundTrip : Obligations.SlotRoundTrip := by
  refine ⟨fun i w h => ?_, fun i w h => ?_⟩
  · obtain ⟨⟨op, s⟩, hparts, rfl⟩ := Option.map_eq_some_iff.mp h
    obtain ⟨hlt, hinstr⟩ := slotInstr_of_slotParts hparts
    obtain ⟨hop, hs⟩ := slotWord_parts s hlt
    rw [decodeSlot, hop, hs, hinstr]
  · rw [encodeSlot, slotParts_of_slotInstr (slotOpOf_lt w) h, Option.map_some, slotWord_of_parts]

end Sys2Proof.Machine

namespace Sys2Proof.Machine
open Sys2Proof Sys2Proof.Claims

/-! MRGU at a slot number that no element has. -/

/-- MRGU D=o0 B=0x06: arms 1 and 2. -/
def mergesArms12 : Slot := plainSlot 0#8 1#4 16#5 28#5 6#5 0#5
/-- A token stands at input 1 of element 0, o0 has room, and the step names slot 16 of the element, which has slots 0 to 15. -/
def mergesAtSlot16 : State :=
  let s := withTable [(7, chanInto [branchAt 0 1 [zeroToken]]), chanOut0 8 false] openElem
  { s with cur := { s.cur with slot := 16 } }
/-- The parts of an environment that say which arm MRGU took last. -/
def armKey (v : Env) : Nat × Nat × Nat × Nat × Slot := (v.cl, v.el, v.slotNo, v.share, v.w)
theorem mergesAtSlot16_fires : (fireEnv mergesAtSlot16 0xC7 mergesArms12).map armKey = some (0, 0, 16, 0, mergesArms12) := by rfl
theorem mergesAtSlot16_arm {t : State} (h : exec (.mrgu mergesArms12) mergesAtSlot16 = .next t) :
    vec16Get (getEl t 0 0).arms 16 = 0 := by
  cases h
  rfl

/-- Refutes O5: its clause on MRGU reads the arm taken last at the slot's number in every state, and not only where the step names
one of the element's 16 slots. In `mergesAtSlot16` the firing takes arm 1, and what stands for slot 16 stays 0. -/
theorem not_channelInstructions : ¬ Obligations.ChannelInstructions := by
  intro h
  obtain ⟨v, hv, hkey⟩ := Option.map_eq_some_iff.mp mergesAtSlot16_fires
  obtain ⟨hcl, hel, hslot, hshare, hw⟩ : v.cl = 0 ∧ v.el = 0 ∧ v.slotNo = 16 ∧ v.share = 0 ∧ v.w = mergesArms12 := by
    simpa only [armKey, Prod.mk.injEq] using hkey
  obtain ⟨-, -, -, -, hmrgu, -⟩ := h mergesArms12 mergesAtSlot16 v
  obtain ⟨t, a, -, ht, ⟨-, hnamed, -⟩, -, harm, -⟩ := hmrgu hv
  have ha : a = 0 := by
    rw [Claims.elemOf, hcl, hel, hslot, mergesAtSlot16_arm ht, physIn, hshare] at harm
    exact harm.symm
  rw [hw, ha] at hnamed
  exact absurd hnamed (by decide)

end Sys2Proof.Machine

namespace Sys2Proof.Machine
open Sys2Proof Sys2Proof.Claims

/-! A reset record that is written while the list of narrow stores holds one that the package sees already. -/

/-- VF 1 owes its reset record, of one byte at address 0. Of the stores listed as narrow, the first stands in the record's
granule, and the second, at address 64, is one that the whole package sees: `State.memOk` does not allow it in the list. -/
def owesRecord : State :=
  { modPart State.reset 0 (fun P => { P with owed := some [1#8] }) with
    near := [⟨0, [2#8], .cluster 0, 0, .done⟩, ⟨64, [5#8], .package, 0, .done⟩] }
theorem owesRecord_owed : (getPart owesRecord 0).owed = some [1#8] := rfl
/-- Making the first store visible puts the second into memory as well, and there the host does not see it. -/
theorem owesRecord_lag {t : State} (h : exec (.vfReset 1) owesRecord = .next t) : t.lag = [(64, 0#8)] := by
  cases h
  rfl

/-- Refutes O57: of the record of a VF reset it says that the host then sees every byte as the package does, in every state, and
not only in those whose memory has its form (`State.memOk`). In `owesRecord` the host still sees 0 at address 64, where the package
sees 5. -/
theorem not_preemptionCommands : ¬ Obligations.PreemptionCommands := by
  intro ⟨_, _, hreset⟩
  obtain ⟨-, -, hrecord⟩ := hreset owesRecord 0#64 1
  obtain ⟨t, ht, -, -, hlag, -⟩ := hrecord [1#8] (by decide) (by decide) owesRecord_owed
  rw [owesRecord_lag ht] at hlag
  cases hlag

end Sys2Proof.Machine

namespace Sys2Proof.Machine
open Sys2Proof Sys2Proof.Claims

theorem slotWords_decode : ∀ p ∈ slotWords, decodeSlot p.1 = some p.2 := by decide +kernel
theorem coreWords_decode : ∀ p ∈ coreWords, decodeCore p.1 = .ok p.2 := by decide +kernel
/-- A pattern word is decoded as its operation, of which equality is decidable (R206). -/
theorem decodePattern_of_op {w : W32} {p : PatOp} (h : decodePatOp w = some p) : decodePattern w = some (patInstr p) := by
  rw [decodePattern, h, Option.map_some]

/-- Settles O27: the words are few, and each is decoded. -/
theorem specWordsDecode : Obligations.SpecWordsDecode :=
  ⟨slotWords_decode, coreWords_decode,
    decodePattern_of_op (p := .band 0#3 1#12 1#12) (by decide), decodePattern_of_op (p := .clip 0#3 3#12 3#12) (by decide),
    decodePattern_of_op (p := .emit 0#3) (by decide), decodePattern_of_op (p := .offs 0#3 4#12 4#12) (by decide),
    decodePattern_of_op (p := .loop 0#2 1#12 2#10) (by decide), decodePattern_of_op (p := .fin) (by decide),
    by decide +kernel, by decide +kernel, by decide⟩

end Sys2Proof.Machine

namespace Sys2Proof.Machine
open Sys2Proof Sys2Proof.Claims

/-! Lane values (R86 to R106, R147): a list of forms holds form by form, and where the statement and the model write a form's
value differently, a lemma says that the two are one. -/

theorem lanesOf_nil : LanesOf [] := fun _ h => absurd h List.not_mem_nil
theorem lanesOf_cons {F : LaneForm} {Fs : List LaneForm}
    (h : ∀ (w : Slot) (s : State) (v : Env), fireEnv s F.op w = some v → LaneFiring (F.instr w) s v (F.lane v)) (hs : LanesOf Fs) :
    LanesOf (F :: Fs) := by
  intro G hG
  rcases List.mem_cons.mp hG with rfl | hG
  · exact h
  · exact hs G hG
/-- A form at the head that is a common lane firing, of a value that is the form's. -/
theorem lanesOf_cons_laneFire {F : LaneForm} {Fs : List LaneForm} {fmt : Option Nat} {k : Nat} {f : Env → Nat → W32}
    (hi : ∀ w s, exec (F.instr w) s = laneFire s F.op w fmt k f) (hf : ∀ v l, f v l = F.lane v l) (hs : LanesOf Fs) :
    LanesOf (F :: Fs) := by
  refine lanesOf_cons (fun w s v h => ?_) hs
  rw [← show f v = F.lane v from funext (hf v)]
  exact laneFire_all (hi w s) h
/-- The same where the model's value is the form's as it stands. -/
theorem lanesOf_cons_same {F : LaneForm} {Fs : List LaneForm} {fmt : Option Nat} {k : Nat}
    (hi : ∀ w s, exec (F.instr w) s = laneFire s F.op w fmt k F.lane) (hs : LanesOf Fs) : LanesOf (F :: Fs) :=
  lanesOf_cons_laneFire hi (fun _ _ => rfl) hs
/-- PASS, MKROW and MKEND at the head: a copy of A, whatever its last header gains. -/
theorem lanesOf_cons_pass {F : LaneForm} {Fs : List LaneForm} {lr ls : Bool}
    (hi : ∀ w s, exec (F.instr w) s = fireSlot s F.op w (fun v => passEffect v lr ls)) (hf : F.lane = laneA) (hs : LanesOf Fs) :
    LanesOf (F :: Fs) := by
  refine lanesOf_cons (fun w s v h => ?_) hs
  rw [hf]
  exact laneEffect_all (hi w s) h rfl

/-! Saturation (R60). -/

theorem satInt_eq_clamp {lo hi : Int} (h : lo ≤ hi) (x : Int) : satInt lo hi x = max lo (min hi x) := by
  unfold satInt
  split
  · omega
  · split <;> omega
theorem satI32_eq_clamp (x : Int) : satI32 x = BitVec.ofInt 32 (max (-2147483648) (min 2147483647 x)) := by
  rw [satI32, satInt_eq_clamp (by decide)]
theorem satN32_eq_ofNat {x : Int} {n : Nat} (h : max 0 (min 4294967295 x) = n) : satN32 x = BitVec.ofNat 32 n := by
  rw [satN32, satInt_eq_clamp (by decide), h, BitVec.ofInt_natCast]
theorem satN32_add (a b : W32) : satN32 (a.toNat + b.toNat) = BitVec.ofNat 32 (min 4294967295 (a.toNat + b.toNat)) :=
  satN32_eq_ofNat (by omega)
theorem satN32_sub (a b : W32) : satN32 (a.toNat - b.toNat) = BitVec.ofNat 32 (a.toNat - b.toNat) :=
  satN32_eq_ofNat (by omega)

/-! The relations of compares (R98) as orders of the integers. -/

theorem ltS_iff {n : Nat} {x y : BitVec n} : ltS x y = true ↔ x.toInt < y.toInt := BitVec.slt_iff_toInt_lt
theorem leS_iff {n : Nat} {x y : BitVec n} : leS x y = true ↔ x.toInt ≤ y.toInt := BitVec.sle_iff_toInt_le
theorem ltU_iff {n : Nat} {x y : BitVec n} : ltU x y = true ↔ x.toNat < y.toNat := by simp [ltU, BitVec.ult]
theorem leU_iff {n : Nat} {x y : BitVec n} : leU x y = true ↔ x.toNat ≤ y.toNat := by simp [leU, BitVec.ule]
theorem b2w_of_iff {b : Bool} {p : Prop} [Decidable p] (h : b = true ↔ p) : b2w b = if p then 1#32 else 0#32 :=
  if_congr h rfl rfl
theorem b2w_of_iff_not {b : Bool} {p : Prop} [Decidable p] (h : b = true ↔ ¬ p) : b2w b = if p then 0#32 else 1#32 := by
  rw [b2w_of_iff h, ite_not]
theorem b2w_not (b : Bool) : b2w (!b) = if b = true then 0#32 else 1#32 := by cases b <;> rfl
theorem msb_iff_neg {n : Nat} {x : BitVec n} : x.msb = true ↔ x.toInt < 0 := by rw [BitVec.msb_eq_toInt, decide_eq_true_iff]

/-! Shifts by an immediate, whose amount is below 32 (R94). -/

theorem immLow_lt (v : Env) : immLow v < 32 := Nat.mod_lt _ (by decide)
theorem shlBy_immLow (v : Env) (a : W32) : shlBy a (immLow v) = a <<< (imm10 v.w % 32) := if_pos (immLow_lt v)
theorem shrBy_immLow (v : Env) (a : W32) : shrBy a (immLow v) = a >>> (imm10 v.w % 32) := if_pos (immLow_lt v)
theorem sarBy_immLow (v : Env) (a : W32) : sarBy a (immLow v) = a.sshiftRight (imm10 v.w % 32) := if_pos (immLow_lt v)

/-! Lanes together: counts, slides and sums. -/

theorem pcnt_eq_filter (v : Env) :
    (guarded v).countP (predA v) = ((List.range v.vl).filter (fun l => guardL v l && predL v v.w.a.toNat l)).length := by
  rw [guarded, List.countP_filter, List.countP_eq_length_filter]
  simp only [predA, Bool.and_comm]
theorem slideup_eq (v : Env) (l : Nat) : (if immLow v ≤ l then sourceLane v (l - immLow v) else 0#32) =
    if immLow v ≤ l ∧ l - immLow v < v.vl then laneA v (l - immLow v) else 0#32 := by
  rw [ite_and, sourceLane]
/-- A sum that starts at the first guarded lane is the one that starts at zero (R103). -/
theorem redLanes_add (v : Env) : redLanes v (fun x y => x + y) = ((guarded v).map (laneA v)).foldl (fun x y => x + y) 0#32 := by
  unfold redLanes
  cases guarded v with
  | nil => rfl
  | cons g gs => rw [List.map_cons, List.foldl_cons, BitVec.zero_add, List.foldl_map]
theorem redLanes_min (v : Env) : redLanes v (fun x y => if ltS y x then y else x) =
    redLanes v (fun x y => if y.toInt < x.toInt then y else x) :=
  congrArg (redLanes v) (funext fun _ => funext fun _ => if_congr ltS_iff rfl rfl)
theorem redLanes_max (v : Env) : redLanes v (fun x y => if ltS x y then y else x) =
    redLanes v (fun x y => if x.toInt < y.toInt then y else x) :=
  congrArg (redLanes v) (funext fun _ => funext fun _ => if_congr ltS_iff rfl rfl)

/-! The lists of forms, in their order. -/

theorem integerLanes : IntegerLanes :=
  lanesOf_cons_same (fun _ _ => rfl) <|                                                     -- ADD_I32
  lanesOf_cons_same (fun _ _ => rfl) <|                                                     -- SUB_I32
  lanesOf_cons_laneFire (fun _ _ => rfl) (fun _ _ => satI32_eq_clamp _) <|                  -- ADD_I32_SAT
  lanesOf_cons_laneFire (fun _ _ => rfl) (fun _ _ => satI32_eq_clamp _) <|                  -- SUB_I32_SAT
  lanesOf_cons_laneFire (fun _ _ => rfl) (fun _ _ => satN32_add _ _) <|                     -- ADD_N32_SAT
  lanesOf_cons_laneFire (fun _ _ => rfl) (fun _ _ => satN32_sub _ _) <|                     -- SUB_N32_SAT
  lanesOf_cons_same (fun _ _ => rfl) <|                                                     -- MUL_I32
  lanesOf_cons_laneFire (fun _ _ => rfl) (fun _ _ => rfl) <|                                -- MULH_I32
  lanesOf_cons_laneFire (fun _ _ => rfl) (fun _ _ => rfl) <|                                -- MULH_N32
  lanesOf_cons_same (fun _ _ => rfl) <|                                                     -- MAC_I32
  lanesOf_cons_laneFire (fun _ _ => rfl) (fun _ _ => if_congr ltS_iff rfl rfl) <|           -- MIN_I32
  lanesOf_cons_laneFire (fun _ _ => rfl) (fun _ _ => if_congr ltS_iff rfl rfl) <|           -- MAX_I32
  lanesOf_cons_laneFire (fun _ _ => rfl) (fun _ _ => if_congr ltU_iff rfl rfl) <|           -- MIN_N32
  lanesOf_cons_laneFire (fun _ _ => rfl) (fun _ _ => if_congr ltU_iff rfl rfl) <|           -- MAX_N32
  lanesOf_cons_laneFire (fun _ _ => rfl) (fun _ _ => if_congr msb_iff_neg rfl rfl) <|       -- ABS_I32
  lanesOf_cons_same (fun _ _ => rfl) <|                                                     -- ADD_I16
  lanesOf_cons_same (fun _ _ => rfl) <|                                                     -- ADD_I16_SAT
  lanesOf_cons_same (fun _ _ => rfl) <|                                                     -- ADD_I8
  lanesOf_cons_same (fun _ _ => rfl) <|                                                     -- ADD_I8_SAT
  lanesOf_cons_same (fun _ _ => rfl) <|                                                     -- DOT_I8
  lanesOf_cons_same (fun _ _ => rfl) <|                                                     -- DOT_N8
  lanesOf_cons_same (fun _ _ => rfl) lanesOf_nil                                            -- ADDI_I32

theorem logicAndShiftLanes : LogicAndShiftLanes :=
  lanesOf_cons_same (fun _ _ => rfl) <|                                                     -- AND
  lanesOf_cons_same (fun _ _ => rfl) <|                                                     -- OR
  lanesOf_cons_same (fun _ _ => rfl) <|                                                     -- XOR
  lanesOf_cons_same (fun _ _ => rfl) <|                                                     -- ANDN
  lanesOf_cons_same (fun _ _ => rfl) <|                                                     -- NOT
  lanesOf_cons_same (fun _ _ => rfl) <|                                                     -- SHL
  lanesOf_cons_same (fun _ _ => rfl) <|                                                     -- SHR
  lanesOf_cons_same (fun _ _ => rfl) <|                                                     -- SAR
  lanesOf_cons_laneFire (fun _ _ => rfl) (fun v _ => shlBy_immLow v _) <|                   -- SHLI
  lanesOf_cons_laneFire (fun _ _ => rfl) (fun v _ => shrBy_immLow v _) <|                   -- SHRI
  lanesOf_cons_laneFire (fun _ _ => rfl) (fun v _ => sarBy_immLow v _) <|                   -- SARI
  lanesOf_cons_same (fun _ _ => rfl) <|                                                     -- ANDI
  lanesOf_cons_same (fun _ _ => rfl) <|                                                     -- ORI
  lanesOf_cons_same (fun _ _ => rfl) <|                                                     -- CLZ
  lanesOf_cons_same (fun _ _ => rfl) <|                                                     -- POPC
  lanesOf_cons_same (fun _ _ => rfl) <|                                                     -- BFXN
  lanesOf_cons_same (fun _ _ => rfl) <|                                                     -- BFXI
  lanesOf_cons_same (fun _ _ => rfl) <|                                                     -- BFI
  lanesOf_cons_same (fun _ _ => rfl) <|                                                     -- MOVI
  lanesOf_cons_same (fun _ _ => rfl) lanesOf_nil                                            -- MOVIH

/-- Settles O32, form by form. -/
theorem integerAndLogicLanes : Obligations.IntegerAndLogicLanes := ⟨integerLanes, logicAndShiftLanes⟩

/-- Settles O1, form by form: a truth value in bit 0 is the 1 or 0 of the relation it decides. -/
theorem compareAndPredicateLanes : Obligations.CompareAndPredicateLanes :=
  lanesOf_cons_laneFire (fun _ _ => rfl) (fun _ _ => b2w_of_iff beq_iff_eq) <|              -- CMPEQ_I32
  lanesOf_cons_laneFire (fun _ _ => rfl) (fun _ _ => b2w_of_iff_not bne_iff_ne) <|          -- CMPNE_I32
  lanesOf_cons_laneFire (fun _ _ => rfl) (fun _ _ => b2w_of_iff ltS_iff) <|                 -- CMPLT_I32
  lanesOf_cons_laneFire (fun _ _ => rfl) (fun _ _ => b2w_of_iff leS_iff) <|                 -- CMPLE_I32
  lanesOf_cons_laneFire (fun _ _ => rfl) (fun _ _ => b2w_of_iff ltU_iff) <|                 -- CMPLT_N32
  lanesOf_cons_laneFire (fun _ _ => rfl) (fun _ _ => b2w_of_iff leU_iff) <|                 -- CMPLE_N32
  lanesOf_cons_laneFire (fun _ _ => rfl) (fun _ _ => b2w_of_iff (Bool.and_eq_true_iff)) <|  -- PAND
  lanesOf_cons_laneFire (fun _ _ => rfl) (fun _ _ => b2w_of_iff (Bool.or_eq_true_iff)) <|   -- POR
  lanesOf_cons_laneFire (fun _ _ => rfl) (fun _ _ => b2w_of_iff_not bne_iff_ne) <|          -- PXOR
  lanesOf_cons_laneFire (fun _ _ => rfl) (fun _ _ => b2w_not _) <|                             -- PNOT
  lanesOf_cons_laneFire (fun _ _ => rfl) (fun v _ => congrArg (BitVec.ofNat 32) (pcnt_eq_filter v)) <|  -- PCNT
  lanesOf_cons_same (fun _ _ => rfl) lanesOf_nil                                            -- SEL

/-- Settles O2, form by form: a lane at or beyond vl supplies zero, and a sum from the first guarded lane on is one from zero. -/
theorem laneMovesAndReductions : Obligations.LaneMovesAndReductions :=
  lanesOf_cons_same (fun _ _ => rfl) <|                                                     -- BCAST
  lanesOf_cons_same (fun _ _ => rfl) <|                                                     -- SHUF
  lanesOf_cons_same (fun _ _ => rfl) <|                                                     -- ROTL
  lanesOf_cons_laneFire (fun _ _ => rfl) slideup_eq <|                                      -- SLIDEUP
  lanesOf_cons_same (fun _ _ => rfl) <|                                                     -- SLIDEDN
  lanesOf_cons_laneFire (fun _ _ => rfl) (fun v _ => redLanes_add v) <|                     -- REDADD_I32
  lanesOf_cons_laneFire (fun _ _ => rfl) (fun v _ => redLanes_min v) <|                     -- REDMIN_I32
  lanesOf_cons_laneFire (fun _ _ => rfl) (fun v _ => redLanes_max v) <|                     -- REDMAX_I32
  lanesOf_cons_same (fun _ _ => rfl) <|                                                     -- RDF
  lanesOf_cons_pass (fun _ _ => rfl) rfl <|                                                 -- PASS
  lanesOf_cons_pass (fun _ _ => rfl) rfl <|                                                 -- MKROW
  lanesOf_cons_pass (fun _ _ => rfl) rfl lanesOf_nil                                        -- MKEND

end Sys2Proof.Machine

namespace Sys2Proof.Machine
open Sys2Proof Sys2Proof.Claims

/-! Operator state (R104 to R106, R123, R154, R155, R160, R162): the state of the firing operator after a firing, and after a
change on every element that the operator occupies. -/

theorem ctxOfShare_congr {a b : Elem} (h0 : a.sh0 = b.sh0) (h1 : a.sh1 = b.sh1) (sh : Nat) : ctxOfShare a sh = ctxOfShare b sh := by
  rw [ctxOfShare, ctxOfShare, h0, h1]
theorem ctxOfShare_setCtx_same (e : Elem) (sh : Nat) (c : OpCtx) : ctxOfShare (setCtx e sh c) sh = c := by
  by_cases h : sh = 1 <;> simp [ctxOfShare, setCtx, h]
/-- A change of one share changes another in the same way or not at all: share 1 reads as share 0 where there is no fold. -/
theorem ctxOfShare_setCtx (e : Elem) (k sh : Nat) (f : OpCtx → OpCtx) :
    ctxOfShare (setCtx e k (f (ctxOfShare e k))) sh = f (ctxOfShare e sh) ∨
    ctxOfShare (setCtx e k (f (ctxOfShare e k))) sh = ctxOfShare e sh := by
  by_cases hk : k = 1 <;> by_cases hs : sh = 1
  · left; simp [ctxOfShare, setCtx, hk, hs]
  · right; simp [ctxOfShare, setCtx, hk, hs]
  · cases h1 : e.sh1
    · left; simp [ctxOfShare, setCtx, hk, hs, h1]
    · right; simp [ctxOfShare, setCtx, hk, hs, h1]
  · left; simp [ctxOfShare, setCtx, hk, hs]

/-- Credits and charges are no part of an operator's state. -/
theorem firedElem_ctx (v : Env) (f : Effect) (e : Elem) :
    ctxOfShare (firedElem v f e) v.share = if mismatches v then { f.ctx with mismatch := true } else f.ctx := by
  unfold firedElem
  simp only
  split
  · obtain ⟨-, -, hc0, hc1, -⟩ := chargeCredits_regs v.share f.cyc (addCredits _)
    obtain ⟨-, -, ha0, ha1, -⟩ := addCredits_regs _
    rw [ctxOfShare_congr (hc0.trans ha0) (hc1.trans ha1)]
    exact ctxOfShare_setCtx_same e v.share _
  · exact ctxOfShare_setCtx_same e v.share _
theorem applyEffect_ctx (s : State) (v : Env) (f : Effect) :
    ctxOfShare (getEl (applyEffect s v f) v.cl v.el) v.share = if mismatches v then { f.ctx with mismatch := true } else f.ctx := by
  rw [← firedElem_ctx v f (getEl s v.cl v.el)]
  rcases applyEffect_elem s v f with h | h
  · rw [h]
  · rw [h]; rfl

/-- Only the shapes R and RM have two inputs that can mismatch (R77). -/
theorem mismatches_of_shape {s : State} {op : Nat} {w : Slot} {v : Env} (h : fireEnv s op w = some v)
    (hr : shapeOf op ≠ some .r) (hrm : shapeOf op ≠ some .rm) : mismatches v = false := by
  obtain ⟨x, l, henv, -⟩ := fireEnv_some h
  obtain ⟨-, -, -, hop, -⟩ := envAt_some henv
  have hv : shapeV v ≠ .r ∧ shapeV v ≠ .rm := by
    rw [shapeV, hop]
    cases hsh : shapeOf op with
    | none => decide
    | some sh => exact ⟨fun e => hr (hsh.trans (congrArg some e)), fun e => hrm (hsh.trans (congrArg some e))⟩
  simp [mismatches, twoInput, hv]
/-- A firing that cannot mismatch leaves its operator the state of its effect. -/
theorem applyEffect_ctx_of_shape {s : State} {op : Nat} {w : Slot} {v : Env} (h : fireEnv s op w = some v)
    (hr : shapeOf op ≠ some .r) (hrm : shapeOf op ≠ some .rm) (f : Effect) :
    ctxOfShare (getEl (applyEffect s v f) v.cl v.el) v.share = f.ctx := by
  rw [applyEffect_ctx, mismatches_of_shape h hr hrm, if_neg Bool.false_ne_true]

/-- A change of an operator on all its elements, that made a second time changes nothing: an element that has it keeps it. -/
theorem onOperator_elem {s : State} {v : Env} {f : OpCtx → OpCtx} {cl el sh : Nat}
    (hf : f (ctxOfShare (getEl s cl el) sh) = ctxOfShare (getEl s cl el) sh) :
    ctxOfShare (getEl (onOperator s v f) cl el) sh = ctxOfShare (getEl s cl el) sh ∧
      (getEl (onOperator s v f) cl el).regs = (getEl s cl el).regs ∧ (getEl (onOperator s v f) cl el).preds = (getEl s cl el).preds := by
  unfold onOperator
  split
  · refine foldl_inv _ (fun t => ctxOfShare (getEl t cl el) sh = ctxOfShare (getEl s cl el) sh ∧
      (getEl t cl el).regs = (getEl s cl el).regs ∧ (getEl t cl el).preds = (getEl s cl el).preds)
        (fun t p ⟨hc, hr, hp⟩ => ?_) _ ⟨rfl, rfl, rfl⟩
    split
    · next c _ =>
      by_cases he : cl = c ∧ el = p.2.1
      · obtain ⟨rfl, rfl⟩ := he
        rw [getEl_modEl_same]
        obtain ⟨hr', hp'⟩ := setCtx_keeps (getEl t cl p.2.1) p.2.2 (f (ctxOfShare (getEl t cl p.2.1) p.2.2))
        refine ⟨?_, hr'.trans hr, hp'.trans hp⟩
        rcases ctxOfShare_setCtx (getEl t cl p.2.1) p.2.2 sh f with e | e
        · rw [e, hc, hf]
        · rw [e, hc]
      · rw [getEl_modEl_ne _ _ (not_and_or.mp he)]
        exact ⟨hc, hr, hp⟩
    · exact ⟨hc, hr, hp⟩
  · exact ⟨rfl, rfl, rfl⟩

/-- An instruction that changes its operator's state leaves it the form's `next`, and writes no register and, but for HALT, no predicate. -/
def LeavesContext (F : ContextForm) : Prop :=
  ∀ (w : Slot) (s : State) (v : Env), fireEnv s F.op w = some v → ∃ t, exec (F.instr w) s = .next t ∧
    ctxOfShare (Claims.elemOf t v) v.share = F.next v ∧ (Claims.elemOf t v).regs = v.e.regs ∧
      (F.op ≠ 0xE0 → (Claims.elemOf t v).preds = v.e.preds)

section
variable {F : ContextForm} {f : Env → Effect}

theorem leavesContext_fireSlot (hi : ∀ w s, exec (F.instr w) s = fireSlot s F.op w f) (hc : ∀ v, (f v).ctx = F.next v)
    (hregs : ∀ v, (f v).regs = v.e.regs) (hpreds : ∀ v, (f v).preds = v.e.preds)
    (hr : shapeOf F.op ≠ some .r) (hrm : shapeOf F.op ≠ some .rm) : LeavesContext F := by
  intro w s v h
  exact ⟨_, (hi w s).trans (fireSlot_next f h), (applyEffect_ctx_of_shape h hr hrm (f v)).trans (hc v),
    (applyEffect_regs s v (f v)).trans (hregs v), fun _ => (applyEffect_preds s v (f v)).trans (hpreds v)⟩

/-- HALT, RHINT and FHINT: the firing element, which may be among those of its operator, has the change once. -/
theorem leavesContext_fireOperator {g : Env → OpCtx → OpCtx} (hi : ∀ w s, exec (F.instr w) s = fireOperator s F.op w f g)
    (hc : ∀ v, g v v.c = F.next v) (hg : ∀ v c, g v (g v c) = g v c)
    (hregs : ∀ v, (f v).regs = v.e.regs) (hpreds : F.op ≠ 0xE0 → ∀ v, (f v).preds = v.e.preds)
    (hr : shapeOf F.op ≠ some .r) (hrm : shapeOf F.op ≠ some .rm) : LeavesContext F := by
  intro w s v h
  have hctx := applyEffect_ctx_of_shape h hr hrm { f v with ctx := g v v.c }
  obtain ⟨hctx', hregs', hpreds'⟩ := onOperator_elem (s := applyEffect s v { f v with ctx := g v v.c }) (v := v) (f := g v)
    (cl := v.cl) (el := v.el) (sh := v.share) (by rw [hctx, hg])
  exact ⟨_, by rw [hi, fireOperator, h], (hctx'.trans hctx).trans (hc v), (hregs'.trans (applyEffect_regs s v _)).trans (hregs v),
    fun hop => (hpreds'.trans (applyEffect_preds s v _)).trans (hpreds hop v)⟩
end

/-! The vector length that SETVL and SETVLI grant (R104), on their tokens: the stamp of SEQ and the mark ET leave LN alone. -/

theorem hdrLN_mkHdr (fmt : Nat) (lr ls bub : Bool) (ln tag seq : Nat) : hdrLN (mkHdr fmt lr ls bub ln tag seq) = ln % 16 := by
  have hlr := b2n_lt_two lr
  have hls := b2n_lt_two ls
  have hbub := b2n_lt_two bub
  simp only [hdrLN, field, mkHdr, BitVec.toNat_ofNat]
  omega
theorem hdrLN_withSeq (x : W32) (q : Nat) : hdrLN (withSeq x q) = hdrLN x := by
  have hx := x.isLt
  simp only [hdrLN, field, withSeq, setField, BitVec.toNat_ofNat, Nat.reducePow, Nat.reduceAdd, Nat.reduceSub]
  omega
theorem hdrLN_withET (t : Token) (b : Bool) : hdrLN (withET t b).hdr = hdrLN t.hdr := by
  have hx := t.hdr.isLt
  have hb := b2n_lt_two b
  simp only [hdrLN, field, withET, setBit, setField, BitVec.toNat_ofNat]
  omega
theorem hdrLN_header (v : Env) (fmt : Option Nat) (vl n j : Nat) : hdrLN (header v fmt vl n j) = min 8 (vl - 8 * j) := by
  unfold header
  simp only
  split <;> rw [hdrLN_mkHdr] <;> omega

theorem stampedFlits_hdrLN (n : Nat) (stamp ord : Bool) (q : Nat) (ts : List Token) :
    (stampedFlits n stamp ord q ts).map (fun f => hdrLN f.tok.hdr) = ts.map (fun t => hdrLN t.hdr) := by
  induction ts generalizing q with
  | nil => rfl
  | cons t ts ih => simp only [stampedFlits, List.map_cons, hdrLN_withSeq, ih]
theorem hdrLN_tagged (t : Token) (tag : Bool) : hdrLN (if tag then withET t true else t).hdr = hdrLN t.hdr := by
  cases tag with
  | false => rfl
  | true => exact hdrLN_withET t true
theorem map_hdrLN_tagged (ts : List Token) (tag : Bool) :
    (ts.map (fun t => if tag then withET t true else t)).map (fun t => hdrLN t.hdr) = ts.map (fun t => hdrLN t.hdr) := by
  induction ts with
  | nil => rfl
  | cons t ts ih => simp only [List.map_cons, ih, hdrLN_tagged]
/-- The LN of each token that a firing emits. -/
theorem emittedTokens_hdrLN {s t : State} {v : Env} {n : Nat} {toks : List Token} {tag : Bool} (h : EmittedTokens s t v n toks tag)
    {ch : Nat} {c : Chan} (hc : outAt s v.sp v.rel v.el n false = some (ch, c)) :
    ∃ c', getChan t v.sp ch = some c' ∧
      (c'.out.drop c.out.length).map (fun f => hdrLN f.tok.hdr) = toks.map (fun x => hdrLN x.hdr) := by
  obtain ⟨c', hk, ho⟩ := h ch c hc
  refine ⟨c', hk, ?_⟩
  rw [ho, emitAll_out, List.drop_left, stampedFlits_hdrLN, map_hdrLN_tagged]

/-- The result of a grant of `n`: every lane, guarded or not, is assigned the length. -/
def grantRes (n : Nat) (_ : Nat) : Option W32 := some (BitVec.ofNat 32 n)
/-- A grant is a lane firing of that result, whose operator has the new length. -/
theorem setvlEffect_eq (v : Env) (req : Nat) : setvlEffect v req =
    { laneEffect v v.lg (min req (8 * v.lg)) v.lg (header v (some 0) (min req (8 * v.lg)) v.lg) (grantRes (min req (8 * v.lg))) with
      ctx := { v.c with vl := min req (8 * v.lg) } } := rfl

/-- A firing of that effect grants the length: its registers and tokens are those of the effect, and no compare's bit is sent. -/
theorem grantsLength_of_setvlEffect {i : Instr} {s : State} {op : Nat} {w : Slot} {v : Env} {F : Env → Effect} {req : Nat}
    (hi : exec i s = fireSlot s op w F) (hF : F v = setvlEffect v req) (h : fireEnv s op w = some v)
    (hr : shapeOf op ≠ some .r) (hrm : shapeOf op ≠ some .rm) (hcmp : isCompare op = false) :
    ∃ t, exec i s = .next t ∧ GrantsLength s t v (min req (8 * v.lg)) := by
  obtain ⟨x, l, henv, -⟩ := fireEnv_some h
  obtain ⟨-, -, -, hop, -, -, -, hlg, -⟩ := envAt_some henv
  have hl := getLoad_of_env henv
  rw [setvlEffect_eq] at hF
  generalize min req (8 * v.lg) = n at hF ⊢
  refine ⟨_, hi.trans (fireSlot_next F h), ?_, ?_, ?_, ?_⟩
  · rw [Claims.elemOf, applyEffect_ctx_of_shape h hr hrm, hF]
  · intro d hd k hk
    exact regLane_writeGroup (regFill v d n (grantRes n)) v.e.regs
      (by rw [Claims.elemOf, applyEffect_regs, hF]; simp [laneEffect, hd]) (by omega) hk
  · intro o ho
    have htoks : EmittedTokens s (applyEffect s v (F v)) v o
        (tokensOf v.lg (payFill v n (grantRes n)) (header v (some 0) n v.lg)) (readsTagged v) := by
      have e := applyEffect_tokens (s := s) (v := v) (f := F v) hl (by rw [hF]; simp [laneEffect, ho, baseEffect])
      simpa [hF, laneEffect, ho, baseEffect, outNo] using e
    constructor
    · have e := emittedTokens_lanes htoks (pay := fun k => if k < n then BitVec.ofNat 32 n else 0#32) fun k hk =>
        groupLane_tokensOf _ _ _ (by simpa [tokensOf] using hk)
      simpa [tokensOf] using e
    · intro ch c hc
      obtain ⟨c', hk, hln⟩ := emittedTokens_hdrLN htoks hc
      refine ⟨c', hk, fun j f hj hf => ?_⟩
      have hj' := congrArg (fun l => l[j]?) hln
      simpa [hf, tokensOf, hj, hdrLN_header] using hj'
  · intro y hy
    have hbit : (F v).bit = some (y, guardL v 0 && bitAt 0 (BitVec.ofNat 32 n)) := by
      simp [hF, laneEffect, hy, yBit, hop, hcmp, grantRes]
    exact applyEffect_bit hl (by rw [hF]; simp [laneEffect, hy, baseEffect]) hbit

/-! TRAP (R161). -/

/-- A firing that raises no mismatch posts no event and leaves its core as it was. -/
theorem applyEffect_core {s : State} {v : Env} {f : Effect} (hm : mismatches v = false) (c : Nat) :
    (getCl (applyEffect s v f) c).core = (getCl s c).core := by
  rw [applyEffect_eq, hm, Bool.false_and, if_neg Bool.false_ne_true, getCore_countBoth]
  exact (congrArg Cluster.core (getCl_congr (congrArg State.clusters (firedCore_same s v f)) c)).trans (getCore_modEl _ _ _ _ _)
theorem elemFault_fault (s : State) (cl el : Nat) (r : FaultRec) : (getEl (elemFault s cl el r) cl el).fault = some r := by
  rw [elemFault, getEl_postEvent, getEl_modEl_same]
/-- The event of an element's fault stands last in the core's queue, where that has room. -/
theorem elemFault_events {s : State} {cl el : Nat} {r : FaultRec} (hn : (getCl s cl).core.events.length < 128)
    (hh : (getCl s cl).core.held = []) : (getCl (elemFault s cl el r) cl).core.events = (getCl s cl).core.events ++ [r] := by
  simp [elemFault, postEvent, modCore, getCore_modEl, hn, hh]

theorem elementTrapStops : ElementTrapStops := by
  intro w s v h
  have hcore := applyEffect_core (s := s) (f := baseEffect v 1) (mismatches_of_shape h (by decide) (by decide)) v.cl
  refine ⟨elemFault (applyEffect s v (baseEffect v 1)) v.cl v.el ⟨0x11, 0, imm10 w, slotLoc v⟩, ?_, elemFault_fault _ _ _ _, fun hn hh => ?_⟩
  · show trapFire s w = _
    rw [trapFire, h]
  · rw [elemFault_events (by rw [hcore]; exact hn) (by rw [hcore]; exact hh), hcore]

theorem operatorStateInstructions : OperatorStateInstructions := by
  refine ⟨?_, fun w s v h => ?_, fun w s v h => ?_⟩
  · show ∀ F ∈ _, LeavesContext F
    simp only [List.forall_mem_cons]
    refine ⟨?setpol, ?clrf, ?grpcfg, ?tagset, ?hdrw, ?halt, ?rhint, ?fhint, fun _ h => absurd h List.not_mem_nil⟩
    case halt =>
      exact leavesContext_fireOperator (f := fun v => zeroEffect v v.lg) (g := fun _ c => { c with halted := true }) (fun _ _ => rfl)
        (fun _ => rfl) (fun _ _ => rfl) (fun _ => rfl) (absurd rfl) (by decide) (by decide)
    case rhint =>
      exact leavesContext_fireOperator (f := fun v => baseEffect v 1) (g := fun v c => { c with weight := imm10 v.w }) (fun _ _ => rfl)
        (fun _ => rfl) (fun _ _ => rfl) (fun _ => rfl) (fun _ _ => rfl) (by decide) (by decide)
    case fhint =>
      exact leavesContext_fireOperator (f := fun v => baseEffect v 1) (g := fun v c => { c with hint := imm10 v.w % 4 }) (fun _ _ => rfl)
        (fun _ => rfl) (fun _ _ => rfl) (fun _ => rfl) (fun _ _ => rfl) (by decide) (by decide)
    case setpol | clrf | grpcfg | tagset | hdrw =>
      exact leavesContext_fireSlot (fun _ _ => rfl) (fun _ => rfl) (fun _ => rfl) (fun _ => rfl) (by decide) (by decide)
  · exact grantsLength_of_setvlEffect rfl rfl h (by decide) (by decide) (by decide)
  · exact grantsLength_of_setvlEffect rfl rfl h (by decide) (by decide) (by decide)

/-- Settles O34: an effect's state is the operator's after the firing, and what a share of the same operator has of it already it
keeps; TRAP's firing leaves the core to the one event that it posts. -/
theorem operatorStateAndTraps : Obligations.OperatorStateAndTraps := ⟨operatorStateInstructions, elementTrapStops⟩

end Sys2Proof.Machine

namespace Sys2Proof.Machine
open Sys2Proof Sys2Proof.Claims

/-! F32 patterns as a sign and a magnitude (R45). The value of a magnitude is a whole number of units of 2^−149. -/

/-- The units of 2^−149 in a magnitude pattern's value, on the grid that R59 extends upward without limit. -/
def gridUnits (m : Nat) : Nat := if m / 2 ^ 23 = 0 then m else (2 ^ 23 + m % 2 ^ 23) * 2 ^ (m / 2 ^ 23 - 1)

/-- The pattern of a sign and a magnitude, and the magnitude of a pattern. -/
def signedWord (neg : Bool) (m : Nat) : W32 := BitVec.ofNat 32 (b2n neg * 2 ^ 31 + m)

def magOf (x : W32) : Nat := x.toNat % 2 ^ 31

/-- A grid point as significand and scale: `k * 2^j` units, with the significand full unless the scale is the least. -/
theorem gridUnits_scaled {j k : Nat} (hj : j = 0 ∨ 2 ^ 23 ≤ k) (hk : k ≤ 2 ^ 24) : gridUnits (j * 2 ^ 23 + k) = k * 2 ^ j := by
  unfold gridUnits
  rcases Nat.lt_or_ge k (2 ^ 23) with h | h
  · obtain rfl : j = 0 := by omega
    rw [if_pos (by omega)]
    omega
  · rw [if_neg (by omega)]
    rcases Nat.lt_or_ge k (2 ^ 24) with h' | h'
    · rw [show (j * 2 ^ 23 + k) / 2 ^ 23 - 1 = j by omega, show 2 ^ 23 + (j * 2 ^ 23 + k) % 2 ^ 23 = k by omega]
    · obtain rfl : k = 2 ^ 24 := by omega
      rw [show (j * 2 ^ 23 + 2 ^ 24) / 2 ^ 23 - 1 = j + 1 by omega, show 2 ^ 23 + (j * 2 ^ 23 + 2 ^ 24) % 2 ^ 23 = 2 ^ 23 by omega,
        pow_succ]
      ring

/-- Every magnitude is such a grid point. -/
theorem exists_scaled (m : Nat) : ∃ j k, m = j * 2 ^ 23 + k ∧ (j = 0 ∨ 2 ^ 23 ≤ k) ∧ k < 2 ^ 24 :=
  ⟨m / 2 ^ 23 - 1, m - (m / 2 ^ 23 - 1) * 2 ^ 23, by omega, by omega, by omega⟩

theorem gridUnits_strictMono : StrictMono gridUnits := by
  refine strictMono_nat_of_lt_succ fun m => ?_
  obtain ⟨j, k, rfl, hj, hk⟩ := exists_scaled m
  rw [gridUnits_scaled hj (by omega), add_assoc, gridUnits_scaled (by omega) (by omega)]
  exact Nat.mul_lt_mul_of_pos_right (Nat.lt_succ_self k) (by positivity)

/-- The grid holds every number of at most 24 bits at every scale. -/
theorem exists_gridUnits {k : Nat} (hk : k < 2 ^ 24) (j : Nat) : ∃ m, gridUnits m = k * 2 ^ j := by
  induction j generalizing k with
  | zero => exact ⟨k, by simpa using gridUnits_scaled (j := 0) (Or.inl rfl) hk.le⟩
  | succ j ih =>
    rcases Nat.lt_or_ge k (2 ^ 23) with h | h
    · obtain ⟨m, hm⟩ := ih (k := 2 * k) (by omega)
      exact ⟨m, by rw [hm, pow_succ]; ring⟩
    · exact ⟨(j + 1) * 2 ^ 23 + k, gridUnits_scaled (Or.inr h) hk.le⟩

@[simp] theorem gridUnits_zero : gridUnits 0 = 0 := rfl

theorem negative_eq (x : W32) : negative x = decide (2 ^ 31 ≤ x.toNat) := by
  have h := x.isLt
  rw [negative, bitAt, ← BitVec.msb_eq_getLsbD_last, BitVec.msb_eq_decide]

theorem magOf_lt (x : W32) : magOf x < 2 ^ 31 := Nat.mod_lt _ (by decide)

theorem toNat_signedWord (n : Bool) {m : Nat} (h : m < 2 ^ 31) : (signedWord n m).toNat = b2n n * 2 ^ 31 + m := by
  rw [signedWord, BitVec.toNat_ofNat, Nat.mod_eq_of_lt]
  have := b2n_lt_two n
  omega

theorem magOf_signedWord (n : Bool) {m : Nat} (h : m < 2 ^ 31) : magOf (signedWord n m) = m := by
  rw [magOf, toNat_signedWord n h]
  omega

theorem negative_signedWord (n : Bool) {m : Nat} (h : m < 2 ^ 31) : negative (signedWord n m) = n := by
  rw [negative_eq, toNat_signedWord n h]
  cases n
  · exact decide_eq_false (by simp only [b2n, Bool.false_eq_true, if_false]; omega)
  · exact decide_eq_true (by simp only [b2n, if_true]; omega)

/-- A pattern is its sign and its magnitude. -/
theorem toNat_eq_sign_mag (x : W32) : x.toNat = b2n (negative x) * 2 ^ 31 + magOf x := by
  have h := x.isLt
  rw [negative_eq, magOf]
  by_cases hx : 2 ^ 31 ≤ x.toNat
  · rw [decide_eq_true hx, b2n, if_pos rfl]; omega
  · rw [decide_eq_false hx, b2n, if_neg Bool.false_ne_true]; omega

theorem signedWord_self (x : W32) : signedWord (negative x) (magOf x) = x := by
  apply BitVec.eq_of_toNat_eq
  rw [toNat_signedWord _ (magOf_lt x), ← toNat_eq_sign_mag]

/-- A case split on a pattern: its sign and a magnitude in their place. -/
theorem exists_signedWord (x : W32) : ∃ n m, m < 2 ^ 31 ∧ x = signedWord n m :=
  ⟨negative x, magOf x, magOf_lt x, (signedWord_self x).symm⟩

theorem signedWord_inj {n n' : Bool} {m m' : Nat} (hm : m < 2 ^ 31) (hm' : m' < 2 ^ 31) :
    signedWord n m = signedWord n' m' ↔ n = n' ∧ m = m' := by
  refine ⟨fun h => ⟨?_, ?_⟩, fun ⟨hn, hm⟩ => by rw [hn, hm]⟩
  · rw [← negative_signedWord n hm, h, negative_signedWord n' hm']
  · rw [← magOf_signedWord n hm, h, magOf_signedWord n' hm']

theorem expOf_eq (x : W32) : expOf x = magOf x / 2 ^ 23 := by
  rw [expOf, magOf]
  omega

theorem fracOf_eq (x : W32) : fracOf x = magOf x % 2 ^ 23 := by
  rw [fracOf, magOf]
  omega

theorem expOf_lt_iff (x : W32) : expOf x < 255 ↔ magOf x < 0x7F800000 := by
  rw [expOf_eq]
  omega

theorem bitAt_zero_eq (x : W32) : bitAt 0 x = decide (magOf x % 2 = 1) := by
  rw [bitAt, BitVec.getLsbD, Nat.testBit_zero, magOf, Nat.mod_mod_of_dvd _ (by norm_num)]

/-- ±1. -/
noncomputable def signOf (n : Bool) : ℝ := if n then -1 else 1

@[simp] theorem signOf_true : signOf true = -1 := rfl

@[simp] theorem signOf_false : signOf false = 1 := rfl

/-- The value of a pattern (R45). -/
theorem realOf_eq (x : W32) : realOf x = signOf (negative x) * (gridUnits (magOf x) * 2 ^ (-149 : ℤ)) := by
  rw [realOf, signOf, expOf_eq, fracOf_eq, gridUnits]
  congr 1
  by_cases h : magOf x / 2 ^ 23 = 0
  · rw [if_pos h, if_pos h, Nat.mod_eq_of_lt (by omega)]
  · rw [if_neg h, if_neg h, show ((magOf x / 2 ^ 23 : ℕ) : ℤ) - 150 = ((magOf x / 2 ^ 23 - 1 : ℕ) : ℤ) + (-149) by omega,
      zpow_add₀ (by norm_num), zpow_natCast]
    push_cast
    ring

theorem realOf_signedWord (n : Bool) {m : Nat} (h : m < 2 ^ 31) :
    realOf (signedWord n m) = signOf n * (gridUnits m * 2 ^ (-149 : ℤ)) := by
  rw [realOf_eq, negative_signedWord n h, magOf_signedWord n h]

/-! Val of a pattern (R45, R58). -/

/-- The cases of a pattern's value, by its exponent. -/
theorem f32_eq (x : W32) : f32 x =
    if expOf x = 255 then (if fracOf x = 0 then .inf (negative x) else .nan)
    else if expOf x = 0 then exScale (negative x) (fracOf x) 1 (-149)
    else exScale (negative x) (2 ^ 23 + fracOf x) 1 ((expOf x : ℤ) - 127 - 23) :=
  if_congr ⟨fun h => h.2, fun h => ⟨rfl, h⟩⟩ rfl ((if_neg fun h => absurd h.1 (by decide)).trans (if_congr Iff.rfl rfl rfl))

theorem f32_ones {x : W32} (h : expOf x = 255) : f32 x = if fracOf x = 0 then .inf (negative x) else .nan := by
  rw [f32_eq, if_pos h]

theorem f32_zero {x : W32} (h : magOf x = 0) : f32 x = .zero (negative x) := by
  have he : expOf x = 0 := by rw [expOf_eq, h, Nat.zero_div]
  have hf : fracOf x = 0 := by rw [fracOf_eq, h, Nat.zero_mod]
  rw [f32_eq, he, hf]
  rfl

/-- ±num/den · 2^k of a positive `num` is a quotient of positive numbers. -/
theorem exScale_eq {n : Bool} {num : Nat} {k : Int} (h : 0 < num) :
    ∃ a b, exScale n num 1 k = .fin n a b ∧ 0 < a ∧ 0 < b ∧ ∀ j : Nat, (j : ℤ) = k + 149 → a * 2 ^ 149 = num * 2 ^ j * b := by
  rw [exScale, if_neg (by omega)]
  by_cases hk : 0 ≤ k
  · rw [if_pos hk]
    refine ⟨_, _, rfl, by positivity, by norm_num, fun j hj => ?_⟩
    rw [show j = k.toNat + 149 by omega, pow_add]
    ring
  · rw [if_neg hk]
    refine ⟨_, _, rfl, h, by positivity, fun j hj => ?_⟩
    rw [show 149 = j + (-k).toNat by omega, pow_add]
    ring

/-- A finite value that is not zero, as the quotient that `Exact` holds. -/
theorem f32_fin {x : W32} (h : expOf x < 255) (h0 : magOf x ≠ 0) :
    ∃ a b, f32 x = .fin (negative x) a b ∧ 0 < a ∧ 0 < b ∧ a * 2 ^ 149 = gridUnits (magOf x) * b := by
  rw [f32_eq, if_neg h.ne]
  rw [expOf_eq] at *
  rw [fracOf_eq, gridUnits]
  by_cases he : magOf x / 2 ^ 23 = 0
  · rw [if_pos he, if_pos he, Nat.mod_eq_of_lt (by omega)]
    obtain ⟨a, b, h1, h2, h3, h4⟩ := exScale_eq (n := negative x) (num := magOf x) (k := -149) (by omega)
    exact ⟨a, b, h1, h2, h3, by rw [h4 0 (by norm_num), pow_zero, mul_one]⟩
  · rw [if_neg he, if_neg he]
    obtain ⟨a, b, h1, h2, h3, h4⟩ := exScale_eq (n := negative x) (num := 2 ^ 23 + magOf x % 2 ^ 23)
      (k := ((magOf x / 2 ^ 23 : ℕ) : ℤ) - 127 - 23) (by omega)
    exact ⟨a, b, h1, h2, h3, h4 _ (by omega)⟩

end Sys2Proof.Machine

namespace Sys2Proof.Machine
open Sys2Proof Sys2Proof.Claims

/-! The one rounding (R59) on the F32 grid. -/

theorem pow_le_quot_iff {a b : Nat} (hb : 0 < b) (l : Int) :
    (if 0 ≤ l then decide (b * 2 ^ l.toNat ≤ a) else decide (b ≤ a * 2 ^ (-l).toNat)) = true ↔ (2 : ℝ) ^ l ≤ a / b := by
  have hb' : (0 : ℝ) < b := by exact_mod_cast hb
  rw [le_div_iff₀ hb']
  by_cases hl : 0 ≤ l
  · rw [if_pos hl, decide_eq_true_iff]
    obtain ⟨n, rfl⟩ := Int.eq_ofNat_of_zero_le hl
    rw [Int.toNat_natCast, zpow_natCast, mul_comm]
    exact_mod_cast Iff.rfl
  · rw [if_neg hl, decide_eq_true_iff]
    obtain ⟨n, rfl⟩ : ∃ n : Nat, l = -n := ⟨(-l).toNat, by omega⟩
    rw [neg_neg, Int.toNat_natCast, zpow_neg, zpow_natCast, inv_mul_le_iff₀ (by positivity), mul_comm a]
    exact_mod_cast Iff.rfl

theorem two_zpow_succ (l : Int) : (2 : ℝ) ^ (l + 1) = 2 ^ l * 2 := zpow_add_one₀ (by norm_num) l

/-- The binary logarithm of a quotient, rounded down. -/
theorem ratLog2_bounds {a b : Nat} (ha : 0 < a) (hb : 0 < b) : (2 : ℝ) ^ ratLog2 a b ≤ a / b ∧ (a / b : ℝ) < 2 ^ (ratLog2 a b + 1) := by
  have hb' : (0 : ℝ) < b := by exact_mod_cast hb
  have ha1 : (2 : ℝ) ^ a.log2 ≤ a := by exact_mod_cast Nat.log2_self_le ha.ne'
  have ha2 : (a : ℝ) < 2 ^ (a.log2 + 1) := by exact_mod_cast Nat.lt_log2_self
  have hb1 : (2 : ℝ) ^ b.log2 ≤ b := by exact_mod_cast Nat.log2_self_le hb.ne'
  have hb2 : (b : ℝ) < 2 ^ (b.log2 + 1) := by exact_mod_cast Nat.lt_log2_self
  have hlow : (2 : ℝ) ^ ((a.log2 : ℤ) - b.log2 - 1) ≤ a / b := by
    rw [sub_sub, zpow_sub₀ (by norm_num), zpow_natCast, show (b.log2 : ℤ) + 1 = (b.log2 + 1 : ℕ) by norm_num, zpow_natCast]
    exact div_le_div₀ (by positivity) ha1 hb' hb2.le
  have hhigh : (a / b : ℝ) < 2 ^ ((a.log2 : ℤ) - b.log2 + 1) := by
    rw [sub_add_eq_add_sub, zpow_sub₀ (by norm_num), zpow_natCast, show (a.log2 : ℤ) + 1 = (a.log2 + 1 : ℕ) by norm_num, zpow_natCast]
    exact div_lt_div₀ ha2 hb1 (by positivity) (by positivity)
  have hiff := pow_le_quot_iff (a := a) hb ((a.log2 : ℤ) - b.log2)
  by_cases h : (2 : ℝ) ^ ((a.log2 : ℤ) - b.log2) ≤ a / b
  · rw [show ratLog2 a b = (a.log2 : ℤ) - b.log2 from if_pos (hiff.mpr h)]
    exact ⟨h, hhigh⟩
  · rw [show ratLog2 a b = (a.log2 : ℤ) - b.log2 - 1 from if_neg (mt hiff.mp h), sub_add_cancel]
    exact ⟨hlow, not_le.mp h⟩

/-- The logarithm is the only exponent with those bounds. -/
theorem ratLog2_unique {a b : Nat} (ha : 0 < a) (hb : 0 < b) {l : Int} (h1 : (2 : ℝ) ^ l ≤ a / b) (h2 : (a / b : ℝ) < 2 ^ (l + 1)) :
    ratLog2 a b = l := by
  obtain ⟨g1, g2⟩ := ratLog2_bounds ha hb
  have e1 := (zpow_lt_zpow_iff_right₀ (by norm_num : (1 : ℝ) < 2)).mp (g1.trans_lt h2)
  have e2 := (zpow_lt_zpow_iff_right₀ (by norm_num : (1 : ℝ) < 2)).mp (h1.trans_lt g2)
  omega

/-- A quotient over a scale of the grid: `A / B * 2^j` units, the significand below 24 bits, and full unless the scale is the least. -/
structure Scaled (a b j A B : Nat) : Prop where
  pos : 0 < B
  value : (A / B : ℝ) * 2 ^ j = a / b * 2 ^ 149
  lt : A < 2 ^ 24 * B
  full : j = 0 ∨ 2 ^ 23 * B ≤ A

/-- The logarithm, but no less than that of the least scale, gives the scale. -/
theorem scaled_of_quot {a b j A B : Nat} (ha : 0 < a) (hb : 0 < b) (hj : max (ratLog2 a b) (-126) = (j : ℤ) - 126) (hB : 0 < B)
    (hAB : (A / B : ℝ) = a / b * 2 ^ (149 - (j : ℤ))) : Scaled a b j A B := by
  obtain ⟨h1, h2⟩ := ratLog2_bounds ha hb
  have hB' : (0 : ℝ) < B := by exact_mod_cast hB
  refine ⟨hB, ?_, ?_, ?_⟩
  · rw [hAB, mul_assoc, ← zpow_natCast, ← zpow_add₀ (by norm_num), sub_add_cancel]
    norm_cast
  · have : (A / B : ℝ) < 2 ^ 24 := by
      rw [hAB, ← zpow_natCast, show ((24 : ℕ) : ℤ) = (j - 126 + 1) + (149 - j) by push_cast; ring, zpow_add₀ (by norm_num)]
      exact mul_lt_mul_of_pos_right (h2.trans_le (zpow_le_zpow_right₀ (by norm_num) (by omega))) (by positivity)
    rw [div_lt_iff₀ hB'] at this
    exact_mod_cast this
  · rcases Nat.eq_zero_or_pos j with h0 | h0
    · exact Or.inl h0
    · have : (2 : ℝ) ^ 23 ≤ A / B := by
        rw [hAB, ← zpow_natCast, show ((23 : ℕ) : ℤ) = ratLog2 a b + (149 - j) by push_cast; omega, zpow_add₀ (by norm_num)]
        exact mul_le_mul_of_nonneg_right h1 (by positivity)
      rw [le_div_iff₀ hB'] at this
      exact Or.inr (by exact_mod_cast this)

/-- `gridPattern` by its scale: the scale in the exponent field, and the significand rounded. -/
theorem gridPattern_eq {a b j : Nat} (hj : max (ratLog2 a b) (-126) = (j : ℤ) - 126) (mode : RMode) (neg : Bool) :
    gridPattern fmtF32 mode neg a b = j * 2 ^ 23 +
      if 0 ≤ (j : ℤ) - 149 then roundQuot mode neg a (b * 2 ^ ((j : ℤ) - 149).toNat)
      else roundQuot mode neg (a * 2 ^ (-((j : ℤ) - 149)).toNat) b := by
  show ((max (ratLog2 a b) (-126) + 127).toNat * 2 ^ 23 +
    if 0 ≤ max (ratLog2 a b) (-126) - 23 then roundQuot mode neg a (b * 2 ^ (max (ratLog2 a b) (-126) - 23).toNat)
    else roundQuot mode neg (a * 2 ^ (-(max (ratLog2 a b) (-126) - 23)).toNat) b) - 2 ^ 23 = _
  rw [hj, show (j : ℤ) - 126 - 23 = j - 149 by ring]
  omega

/-- The pattern of a positive quotient is its scale and its significand, rounded to an integer under the mode. -/
theorem gridPattern_scaled {a b : Nat} (ha : 0 < a) (hb : 0 < b) : ∃ j A B, Scaled a b j A B ∧
    ∀ mode neg, gridPattern fmtF32 mode neg a b = j * 2 ^ 23 + roundQuot mode neg A B := by
  obtain ⟨j, hj⟩ : ∃ j : Nat, max (ratLog2 a b) (-126) = (j : ℤ) - 126 := ⟨(max (ratLog2 a b) (-126) + 126).toNat, by omega⟩
  by_cases hq : 0 ≤ (j : ℤ) - 149
  · refine ⟨j, a, b * 2 ^ ((j : ℤ) - 149).toNat, scaled_of_quot ha hb hj (by positivity) ?_,
      fun mode neg => by rw [gridPattern_eq hj, if_pos hq]⟩
    rw [show 149 - (j : ℤ) = -(((j : ℤ) - 149).toNat : ℤ) by omega, zpow_neg, zpow_natCast]
    push_cast
    rw [div_mul_eq_div_div, div_eq_mul_inv (a / b : ℝ)]
  · refine ⟨j, a * 2 ^ (-((j : ℤ) - 149)).toNat, b, scaled_of_quot ha hb hj hb ?_,
      fun mode neg => by rw [gridPattern_eq hj, if_neg hq]⟩
    rw [show 149 - (j : ℤ) = ((-((j : ℤ) - 149)).toNat : ℤ) by omega, zpow_natCast]
    push_cast
    rw [mul_div_right_comm]

/-! Rounding a quotient to an integer (R57). -/

theorem roundQuot_exact (mode : RMode) (neg : Bool) {k B : Nat} (hB : 0 < B) : roundQuot mode neg (k * B) B = k := by
  unfold roundQuot
  rw [Nat.mul_div_cancel _ hB, Nat.mul_mod_left]
  cases mode <;> simp [hB.ne]

theorem roundQuot_rne_eq (neg : Bool) (A B : Nat) : roundQuot .rne neg A B =
    if B < 2 * (A % B) ∨ 2 * (A % B) = B ∧ A / B % 2 = 1 then A / B + 1 else A / B := by
  simp [roundQuot]

/-- To nearest, the even one at a tie. -/
theorem roundQuot_rne {A B k : Nat} {neg : Bool} (hB : 0 < B) (hk : roundQuot .rne neg A B = k) :
    2 * A ≤ (2 * k + 1) * B ∧ (2 * A = (2 * k + 1) * B → k % 2 = 0) ∧
    2 * k * B ≤ 2 * A + B ∧ (2 * k * B = 2 * A + B → k % 2 = 0) := by
  have hA : B * (A / B) + A % B = A := Nat.div_add_mod A B
  have hr : A % B < B := Nat.mod_lt A hB
  rw [roundQuot_rne_eq] at hk
  generalize A / B = q at *
  generalize A % B = r at *
  split at hk
  · next h =>
    rw [← hk, show (2 * (q + 1) + 1) * B = 2 * (B * q) + 3 * B by ring, show 2 * (q + 1) * B = 2 * (B * q) + 2 * B by ring]
    omega
  · next h =>
    rw [← hk, show (2 * q + 1) * B = 2 * (B * q) + B by ring, show 2 * q * B = 2 * (B * q) by ring]
    omega

end Sys2Proof.Machine

namespace Sys2Proof.Machine
open Sys2Proof Sys2Proof.Claims

/-! A magnitude rounded to nearest: what `RoundsTo` asks, without the sign and in units of 2^−149. -/

/-- Twice the middle between a grid point and the next, in units: the boundary between their roundings. -/
def gridMid (k : Nat) : Nat := gridUnits k + gridUnits (k + 1)

theorem gridMid_strictMono : StrictMono gridMid := fun _ _ h =>
  Nat.add_lt_add (gridUnits_strictMono h) (gridUnits_strictMono (Nat.succ_lt_succ h))

/-- The magnitude of an infinity. -/
def infMag : Nat := 0x7F800000

/-- `u` units round to the magnitude `m`: they lie between its boundaries, on one only where `m` is even; infinity has the one below. -/
structure RoundsMag (u : ℝ) (m : Nat) : Prop where
  le : m ≤ infMag
  above : m < infMag → 2 * u ≤ gridMid m
  aboveTie : m < infMag → 2 * u = gridMid m → m % 2 = 0
  below : ∀ k, m = k + 1 → (gridMid k : ℝ) ≤ 2 * u
  belowTie : ∀ k, m = k + 1 → (gridMid k : ℝ) = 2 * u → m % 2 = 0

theorem roundsMag_zero : RoundsMag 0 0 :=
  ⟨by decide, fun _ => by rw [mul_zero]; exact Nat.cast_nonneg _, fun _ _ => rfl, fun _ h => absurd h (by omega), fun _ _ _ => rfl⟩

/-- What lies between two magnitudes that round alike rounds as they do. -/
theorem RoundsMag.between {u v w : ℝ} {m : Nat} (hu : RoundsMag u m) (hw : RoundsMag w m) (huv : u ≤ v) (hvw : v ≤ w) : RoundsMag v m where
  le := hu.le
  above h := by have := hw.above h; linarith
  aboveTie h e := hw.aboveTie h (le_antisymm (hw.above h) (by linarith))
  below k h := by have := hu.below k h; linarith
  belowTie k h e := hu.belowTie k h (le_antisymm (hu.below k h) (by linarith))

/-- The boundaries are whole numbers of half units, so that no boundary lies within a finer interval. -/
theorem RoundsMag.of_same_interval {u v : ℝ} {m s d : Nat} (hd : 0 < d) (hu : RoundsMag u m) (h1 : s < 2 * u * d) (h2 : 2 * u * d < s + 1)
    (h3 : s < 2 * v * d) (h4 : 2 * v * d < s + 1) : RoundsMag v m := by
  have hd' : (0 : ℝ) < d := by exact_mod_cast hd
  have hlt : ∀ {x y : ℝ} {n : Nat}, x * d < s + 1 → s < y * d → (n : ℝ) ≤ x → (n : ℝ) < y := by
    intro x y n hx hy hn
    have e : ((n * d : ℕ) : ℝ) < (s + 1 : ℕ) := by push_cast; exact (mul_le_mul_of_nonneg_right hn hd'.le).trans_lt hx
    have e' : ((n * d : ℕ) : ℝ) ≤ s := by exact_mod_cast Nat.lt_succ_iff.mp (by exact_mod_cast e)
    push_cast at e'
    exact lt_of_mul_lt_mul_right (e'.trans_lt hy) hd'.le
  have hgt : ∀ {x y : ℝ} {n : Nat}, s < x * d → y * d < s + 1 → x ≤ n → y < n := fun hx hy hn =>
    not_le.mp fun hc => absurd (hlt hy hx hc) (not_lt.mpr hn)
  refine ⟨hu.le, fun h => (hgt h1 h4 (hu.above h)).le, fun h e => absurd e (hgt h1 h4 (hu.above h)).ne,
    fun k h => (hlt h2 h3 (hu.below k h)).le, fun k h e => absurd e (hlt h2 h3 (hu.below k h)).ne⟩

theorem le_gridUnits_succ {j k : Nat} (hj : j = 0 ∨ 2 ^ 23 ≤ k) (hk : k ≤ 2 ^ 24) : (k + 1) * 2 ^ j ≤ gridUnits (j * 2 ^ 23 + k + 1) := by
  rcases hk.lt_or_eq with h | rfl
  · rw [add_assoc, gridUnits_scaled (by omega) (by omega)]
  · rw [show j * 2 ^ 23 + 2 ^ 24 + 1 = (j + 1) * 2 ^ 23 + (2 ^ 23 + 1) by ring, gridUnits_scaled (by omega) (by omega), pow_succ]
    calc (2 ^ 24 + 1) * 2 ^ j ≤ (2 ^ 24 + 2) * 2 ^ j := Nat.mul_le_mul_right _ (by norm_num)
      _ = (2 ^ 23 + 1) * (2 ^ j * 2) := by ring

/-- A significand rounded to nearest, at its scale, on the grid without limit. -/
theorem grid_nearest {v : ℝ} {j k : Nat} (hk : k ≤ 2 ^ 24) (hj : j = 0 ∨ 2 ^ 23 ≤ k) (hv : j = 0 ∨ (2 : ℝ) ^ 23 ≤ v)
    (h1 : 2 * v ≤ 2 * k + 1) (t1 : 2 * v = 2 * k + 1 → k % 2 = 0) (h2 : 2 * k ≤ 2 * v + 1) (t2 : 2 * k = 2 * v + 1 → k % 2 = 0) :
    2 * (v * 2 ^ j) ≤ gridMid (j * 2 ^ 23 + k) ∧ (2 * (v * 2 ^ j) = gridMid (j * 2 ^ 23 + k) → k % 2 = 0) ∧
    ∀ i, j * 2 ^ 23 + k = i + 1 → (gridMid i : ℝ) ≤ 2 * (v * 2 ^ j) ∧ ((gridMid i : ℝ) = 2 * (v * 2 ^ j) → k % 2 = 0) := by
  have hp : (0 : ℝ) < 2 ^ j := by positivity
  have hm : (2 * k + 1 : ℝ) * 2 ^ j ≤ gridMid (j * 2 ^ 23 + k) := by
    have := le_gridUnits_succ hj hk
    rw [gridMid, gridUnits_scaled hj hk]
    calc (2 * k + 1 : ℝ) * 2 ^ j = (k * 2 ^ j + (k + 1) * 2 ^ j : ℕ) := by push_cast; ring
      _ ≤ _ := by exact_mod_cast Nat.add_le_add_left this _
  refine ⟨by nlinarith, fun e => t1 (le_antisymm h1 (le_of_mul_le_mul_right (by linarith) hp)), fun i hi => ?_⟩
  rw [gridMid, ← hi, gridUnits_scaled hj hk]
  by_cases hs : j = 0 ∨ 2 ^ 23 ≤ k - 1
  · obtain ⟨k, rfl⟩ : ∃ n, k = n + 1 := ⟨k - 1, by omega⟩
    rw [Nat.add_sub_cancel] at hs
    rw [show i = j * 2 ^ 23 + k by omega, gridUnits_scaled hs (by omega)]
    push_cast at h2 t2 ⊢
    exact ⟨by nlinarith, fun e => t2 (mul_right_cancel₀ hp.ne' (by linarith))⟩
  · obtain ⟨j, rfl⟩ : ∃ n, j = n + 1 := ⟨j - 1, by omega⟩
    obtain rfl : k = 2 ^ 23 := by omega
    have hv' := hv.resolve_left (by omega)
    have hp' : (0 : ℝ) < 2 ^ j := by positivity
    rw [show i = j * 2 ^ 23 + 0xFFFFFF by omega, gridUnits_scaled (by norm_num) (by norm_num)]
    have : ((0xFFFFFF * 2 ^ j + 2 ^ 23 * 2 ^ (j + 1) : ℕ) : ℝ) < 2 * (v * 2 ^ (j + 1)) := by
      push_cast
      rw [pow_succ (2 : ℝ) j]
      linarith only [hp', mul_le_mul_of_nonneg_right hv' hp'.le]
    exact ⟨this.le, fun e => absurd e this.ne⟩

/-- The same of a significand that is a quotient. -/
theorem roundQuot_rne_real {A B k : Nat} (hB : 0 < B) (hk : roundQuot .rne false A B = k) :
    2 * (A / B : ℝ) ≤ 2 * k + 1 ∧ (2 * (A / B : ℝ) = 2 * k + 1 → k % 2 = 0) ∧
    (2 * k : ℝ) ≤ 2 * (A / B) + 1 ∧ ((2 * k : ℝ) = 2 * (A / B) + 1 → k % 2 = 0) := by
  obtain ⟨h1, t1, h2, t2⟩ := roundQuot_rne hB hk
  have hB' : (0 : ℝ) < B := by exact_mod_cast hB
  have hv : (A : ℝ) = A / B * B := (div_mul_cancel₀ _ hB'.ne').symm
  have h1' : (2 : ℝ) * A ≤ (2 * k + 1) * B := by exact_mod_cast h1
  have h2' : (2 : ℝ) * k * B ≤ 2 * A + B := by exact_mod_cast h2
  refine ⟨?_, fun e => t1 ?_, ?_, fun e => t2 ?_⟩
  · rw [hv] at h1'
    exact le_of_mul_le_mul_right (by linarith) hB'
  · exact_mod_cast (by rw [hv]; linear_combination (B : ℝ) * e : (2 : ℝ) * A = (2 * k + 1) * B)
  · rw [hv] at h2'
    exact le_of_mul_le_mul_right (by linarith) hB'
  · exact_mod_cast (by rw [hv]; linear_combination (B : ℝ) * e : (2 : ℝ) * k * B = 2 * A + B)

/-- The F32 rounding of a positive quotient is to nearest, the even one at a tie, infinity from its boundary on. -/
theorem roundsMag_gridPattern {a b : Nat} (ha : 0 < a) (hb : 0 < b) :
    RoundsMag (a / b * 2 ^ 149) (min (gridPattern fmtF32 .rne false a b) infMag) := by
  obtain ⟨j, A, B, hs, hp⟩ := gridPattern_scaled ha hb
  obtain ⟨hB, hval, hlt, hfull⟩ := hs
  obtain ⟨h1, t1, h2, t2⟩ := roundQuot_rne_real hB (A := A) rfl
  have hB' : (0 : ℝ) < B := by exact_mod_cast hB
  have hlt' : (A / B : ℝ) < 2 ^ 24 := (div_lt_iff₀ hB').mpr (by exact_mod_cast hlt)
  have hfull' : j = 0 ∨ (2 : ℝ) ^ 23 ≤ A / B := hfull.imp_right fun h => (le_div_iff₀ hB').mpr (by exact_mod_cast h)
  rw [hp, ← hval]
  generalize roundQuot .rne false A B = k at *
  generalize (A / B : ℝ) = v at *
  have hk : k ≤ 2 ^ 24 := Nat.lt_succ_iff.mp (by exact_mod_cast (by push_cast; linarith : (k : ℝ) < (2 ^ 24 + 1 : ℕ)))
  have hj : j = 0 ∨ 2 ^ 23 ≤ k := hfull'.imp_right fun h =>
    Nat.lt_succ_iff.mp (by exact_mod_cast (by push_cast; linarith : ((2 ^ 23 : ℕ) : ℝ) < (k + 1 : ℕ)))
  obtain ⟨g1, g2, g3⟩ := grid_nearest hk hj hfull' h1 t1 h2 t2
  rcases Nat.lt_or_ge infMag (j * 2 ^ 23 + k) with h | h
  · rw [min_eq_right h.le]
    refine ⟨le_rfl, fun h => absurd h (lt_irrefl _), fun h => absurd h (lt_irrefl _), fun i hi => ?_, fun _ _ _ => rfl⟩
    have hm : gridMid i ≤ gridMid (j * 2 ^ 23 + k - 1) := gridMid_strictMono.monotone (by omega)
    exact le_trans (by exact_mod_cast hm) (g3 _ (by omega)).1
  · rw [min_eq_left h]
    exact ⟨h, fun _ => g1, fun _ e => by have := g2 e; omega, fun i hi => (g3 i hi).1, fun i hi e => by have := (g3 i hi).2 e; omega⟩

/-! From magnitudes to `RoundsTo`. -/

theorem two_zpow_149 : (2 : ℝ) ^ (-149 : ℤ) = (2 ^ 149)⁻¹ := by norm_num [zpow_neg]

theorem gridMid_inf : (gridMid (infMag - 1) : ℝ) = 2 * ((2 ^ 128 - 2 ^ 103) * 2 ^ 149) := by
  rw [show gridMid (infMag - 1) = 2 * ((2 ^ 128 - 2 ^ 103) * 2 ^ 149) by decide]
  norm_num

/-- No grid point is nearer than the rounded one; one that is as near stands at a tie. -/
theorem RoundsMag.nearest {u : ℝ} {m : Nat} (h : RoundsMag u m) (hm : m < infMag) (p : Nat) :
    |(gridUnits m : ℝ) - u| ≤ |(gridUnits p : ℝ) - u| ∧ (|(gridUnits m : ℝ) - u| = |(gridUnits p : ℝ) - u| → p ≠ m → m % 2 = 0) := by
  rcases lt_trichotomy p m with hp | rfl | hp
  · obtain ⟨k, rfl⟩ : ∃ k, m = k + 1 := ⟨m - 1, by omega⟩
    have hpk : (gridUnits p : ℝ) ≤ gridUnits k := by exact_mod_cast gridUnits_strictMono.monotone (Nat.lt_succ_iff.mp hp)
    have hk : (gridUnits k : ℝ) < gridUnits (k + 1) := by exact_mod_cast gridUnits_strictMono (Nat.lt_succ_self k)
    have hb := h.below k rfl
    have ht := h.belowTie k rfl
    rw [gridMid] at hb ht
    push_cast at hb ht
    rw [abs_of_nonpos (by linarith : (gridUnits p : ℝ) - u ≤ 0)]
    refine ⟨abs_le.mpr ⟨by linarith, by linarith⟩, fun e _ => ht ?_⟩
    rcases abs_cases ((gridUnits (k + 1) : ℝ) - u) with ⟨e', _⟩ | ⟨e', _⟩ <;> linarith
  · exact ⟨le_rfl, fun _ hc => absurd rfl hc⟩
  · have hpk : (gridUnits (m + 1) : ℝ) ≤ gridUnits p := by exact_mod_cast gridUnits_strictMono.monotone hp
    have hk : (gridUnits m : ℝ) < gridUnits (m + 1) := by exact_mod_cast gridUnits_strictMono (Nat.lt_succ_self m)
    have hb := h.above hm
    have ht := h.aboveTie hm
    rw [gridMid] at hb ht
    push_cast at hb ht
    rw [abs_of_nonneg (by linarith : 0 ≤ (gridUnits p : ℝ) - u)]
    refine ⟨abs_le.mpr ⟨by linarith, by linarith⟩, fun e _ => ht ?_⟩
    rcases abs_cases ((gridUnits m : ℝ) - u) with ⟨e', _⟩ | ⟨e', _⟩ <;> linarith

theorem abs_signOf (n : Bool) : |signOf n| = 1 := by cases n <;> simp

theorem signOf_mul_self (n : Bool) : signOf n * signOf n = 1 := by cases n <;> simp

theorem RoundsMag.lt_two_pow {u : ℝ} {m : Nat} (h : RoundsMag u m) : m < 2 ^ 31 := lt_of_le_of_lt h.le (by decide)
section
variable {y : ℝ} {m : Nat} (h : RoundsMag (y * 2 ^ 149) m)
include h

/-- Infinity stands from the middle between the greatest finite value and 2^128 on, whose lower neighbour is odd. -/
theorem RoundsMag.eq_inf (hbig : 2 ^ 128 - 2 ^ 103 ≤ y) : m = infMag := by
  refine le_antisymm h.le (not_lt.mp fun hlt => ?_)
  have h1 : (gridMid m : ℝ) ≤ gridMid (infMag - 1) := by exact_mod_cast gridMid_strictMono.monotone (by omega)
  have h2 := h.above hlt
  rw [gridMid_inf] at h1
  have h3 : (2 ^ 128 - 2 ^ 103 : ℝ) * 2 ^ 149 ≤ y * 2 ^ 149 := mul_le_mul_of_nonneg_right hbig (by positivity)
  have h4 : (gridMid m : ℝ) = gridMid (infMag - 1) := by rw [gridMid_inf]; linarith
  have h5 : m = infMag - 1 := gridMid_strictMono.injective (by exact_mod_cast h4)
  have h6 := h.aboveTie hlt (by linarith)
  rw [h5] at h6
  exact absurd h6 (by decide)

theorem RoundsMag.lt_inf (hsmall : y < 2 ^ 128 - 2 ^ 103) : m < infMag := by
  refine lt_of_le_of_ne h.le fun hc => ?_
  have h1 := h.below (infMag - 1) hc
  rw [gridMid_inf] at h1
  have h2 : (2 ^ 128 - 2 ^ 103 : ℝ) * 2 ^ 149 ≤ y * 2 ^ 149 := by linarith
  exact absurd (le_of_mul_le_mul_right h2 (by positivity)) (not_le.mpr hsmall)
omit h in
/-- Distances between numbers of one sign, in units. -/
theorem dist_signed (n : Bool) (y : ℝ) (q : Nat) :
    |signOf n * (gridUnits q * 2 ^ (-149 : ℤ)) - signOf n * y| = |(gridUnits q : ℝ) - y * 2 ^ 149| * 2 ^ (-149 : ℤ) := by
  have e : (gridUnits q : ℝ) * 2 ^ (-149 : ℤ) - y = (gridUnits q - y * 2 ^ 149) * 2 ^ (-149 : ℤ) := by
    rw [two_zpow_149, sub_mul, mul_inv_cancel_right₀ (by positivity)]
  rw [← mul_sub, abs_mul, abs_signOf, one_mul, e, abs_mul, abs_of_pos (by positivity : (0 : ℝ) < 2 ^ (-149 : ℤ))]

/-- No pattern of the same sign is nearer. -/
theorem RoundsMag.nearest_same_sign (hm : m < infMag) {n : Bool} {p : W32} (hp : negative p = n) :
    |signOf n * (gridUnits m * 2 ^ (-149 : ℤ)) - signOf n * y| ≤ |realOf p - signOf n * y| ∧
    (|signOf n * (gridUnits m * 2 ^ (-149 : ℤ)) - signOf n * y| = |realOf p - signOf n * y| →
      realOf p ≠ signOf n * (gridUnits m * 2 ^ (-149 : ℤ)) → m % 2 = 0) := by
  have hpos : (0 : ℝ) < 2 ^ (-149 : ℤ) := by positivity
  obtain ⟨h1, h2⟩ := h.nearest hm (magOf p)
  rw [realOf_eq, hp, dist_signed, dist_signed]
  refine ⟨mul_le_mul_of_nonneg_right h1 hpos.le, fun e hne => h2 (mul_right_cancel₀ hpos.ne' e) fun hc => hne ?_⟩
  rw [hc]

/-- A pattern of the other sign is no nearer than zero. -/
theorem RoundsMag.nearest_other_sign (hm : m < infMag) (hy : 0 ≤ y) {n : Bool} {p : W32} (hp : negative p ≠ n) :
    |signOf n * (gridUnits m * 2 ^ (-149 : ℤ)) - signOf n * y| ≤ |realOf p - signOf n * y| ∧
    (|signOf n * (gridUnits m * 2 ^ (-149 : ℤ)) - signOf n * y| = |realOf p - signOf n * y| →
      realOf p ≠ signOf n * (gridUnits m * 2 ^ (-149 : ℤ)) → m % 2 = 0) := by
  have hpos : (0 : ℝ) < 2 ^ (-149 : ℤ) := by positivity
  have hs : signOf (negative p) = -signOf n := by
    cases n <;> cases hq : negative p <;> simp_all
  obtain ⟨h1, h2⟩ := h.nearest hm 0
  have hzero : |(gridUnits 0 : ℝ) - y * 2 ^ 149| * 2 ^ (-149 : ℤ) = y := by
    rw [gridUnits_zero, Nat.cast_zero, zero_sub, abs_neg, abs_of_nonneg (by positivity), two_zpow_149, mul_inv_cancel_right₀ (by positivity)]
  have hg : (0 : ℝ) ≤ gridUnits (magOf p) * 2 ^ (-149 : ℤ) := by positivity
  have hfar : |realOf p - signOf n * y| = gridUnits (magOf p) * 2 ^ (-149 : ℤ) + y := by
    rw [realOf_eq, hs, neg_mul, ← neg_add', abs_neg, ← mul_add, abs_mul, abs_signOf, one_mul, abs_of_nonneg (by linarith)]
  rw [hfar, dist_signed]
  have h3 := mul_le_mul_of_nonneg_right h1 hpos.le
  refine ⟨by linarith, fun e hne => h2 (mul_right_cancel₀ hpos.ne' (le_antisymm h3 (by linarith))) fun hc => hne ?_⟩
  have hz : (gridUnits (magOf p) : ℝ) * 2 ^ (-149 : ℤ) = 0 := by linarith
  rw [realOf_eq, hz, ← hc]
  simp

/-- A magnitude rounded, with its sign, is the rounded value; of zero only with the sign +. -/
theorem RoundsMag.roundsTo (n : Bool) (hy : 0 ≤ y) (hn : n = true → 0 < y) : RoundsTo (signOf n * y) (signedWord n m) := by
  have hm31 := h.lt_two_pow
  have habs : |signOf n * y| = y := by rw [abs_mul, abs_signOf, one_mul, abs_of_nonneg hy]
  refine ⟨?_, fun hbig => ?_, fun hsmall => ?_⟩
  · rw [negative_signedWord n hm31]
    cases n
    · simpa using hy
    · simpa using hn rfl
  · rw [habs] at hbig
    rw [h.eq_inf hbig]
    cases n
    · exact Or.inl rfl
    · exact Or.inr rfl
  · rw [habs] at hsmall
    have hm := h.lt_inf hsmall
    refine ⟨(expOf_lt_iff _).mpr (by rw [magOf_signedWord n hm31]; exact hm), fun p _ => ?_⟩
    rw [realOf_signedWord n hm31, bitAt_zero_eq, magOf_signedWord n hm31, decide_eq_false_iff_not, Nat.mod_two_not_eq_one]
    by_cases hs : negative p = n
    · exact h.nearest_same_sign hm hs
    · exact h.nearest_other_sign hm hy hs
end

end Sys2Proof.Machine

namespace Sys2Proof.Machine
open Sys2Proof Sys2Proof.Claims

/-! `toF32` under RNE as a sign and a rounded magnitude. -/

/-- The magnitude that a non-negative quotient rounds to. -/
def roundedMag (a b : Nat) : Nat := if a = 0 then 0 else min (gridPattern fmtF32 .rne false a b) infMag

theorem roundedMag_lt (a b : Nat) : roundedMag a b < 2 ^ 31 := by
  unfold roundedMag
  split
  · decide
  · exact (min_le_right _ _).trans_lt (by decide)

theorem roundsMag_roundedMag (a : Nat) {b : Nat} (hb : 0 < b) : RoundsMag (a / b * 2 ^ 149) (roundedMag a b) := by
  unfold roundedMag
  split
  · next h => subst h; simpa using roundsMag_zero
  · next h => exact roundsMag_gridPattern (by omega) hb

@[simp] theorem toF32_zero (mode : RMode) (n : Bool) : toF32 mode (.zero n) = signedWord n 0 := by cases n <;> rfl

@[simp] theorem toF32_inf (mode : RMode) (n : Bool) : toF32 mode (.inf n) = signedWord n infMag := by cases n <;> rfl

theorem toF32_rne (n : Bool) {a : Nat} (b : Nat) (ha : 0 < a) : toF32 .rne (.fin n a b) = signedWord n (roundedMag a b) := by
  rw [toF32, roundedMag, if_neg ha.ne', fround]
  rw [show gridPattern fmtF32 .rne n a b = gridPattern fmtF32 .rne false a b from rfl]
  generalize gridPattern fmtF32 .rne false a b = p
  rw [show fmtMaxFin fmtF32 = 0x7F7FFFFF from rfl, signedWord]
  split
  · rw [min_eq_left (by unfold infMag; omega)]; rfl
  · rw [min_eq_right (by unfold infMag; omega)]; rfl

/-- R59 under RNE, of a quotient. -/
theorem roundsTo_toF32 (n : Bool) {a b : Nat} (ha : 0 < a) (hb : 0 < b) : RoundsTo (signOf n * (a / b)) (toF32 .rne (.fin n a b)) := by
  rw [toF32_rne n b ha]
  have : (0 : ℝ) < a / b := div_pos (by exact_mod_cast ha) (by exact_mod_cast hb)
  exact (roundsMag_roundedMag a hb).roundsTo n this.le fun _ => this

/-- A value of at most 24 bits within the range is rounded to itself. -/
theorem roundsTo_exact {y : ℝ} {r : W32} {n : Bool} {k j : Nat} (h : RoundsTo y r) (hk : k < 2 ^ 24)
    (hy : y = signOf n * ((k * 2 ^ j : ℕ) * 2 ^ (-149 : ℤ))) (hb : |y| < 2 ^ 127 * 2) : realOf r = y := by
  obtain ⟨m, hm⟩ := exists_gridUnits hk j
  rw [← hm] at hy
  have habs : |y| = gridUnits m * 2 ^ (-149 : ℤ) := by
    rw [hy, abs_mul, abs_signOf, one_mul, abs_of_nonneg (by positivity)]
  have hlt : m < infMag := by
    rw [habs, two_zpow_149, ← div_eq_mul_inv, div_lt_iff₀ (by positivity)] at hb
    refine gridUnits_strictMono.lt_iff_lt.mp ?_
    rw [show gridUnits infMag = 2 ^ 127 * 2 * 2 ^ 149 by decide]
    exact_mod_cast hb
  have hm31 : m < 2 ^ 31 := hlt.trans (by decide)
  have hsmall : |y| < 2 ^ 128 - 2 ^ 103 := by
    have h1 : (gridUnits m : ℝ) ≤ gridUnits (infMag - 1) := by exact_mod_cast gridUnits_strictMono.monotone (by omega)
    rw [show gridUnits (infMag - 1) = (2 ^ 24 - 1) * 2 ^ 253 by decide] at h1
    rw [habs, two_zpow_149, ← div_eq_mul_inv, div_lt_iff₀ (by positivity)]
    refine h1.trans_lt ?_
    norm_num
  have hp := ((h.2.2 hsmall).2 (signedWord n m) ((expOf_lt_iff _).mpr (by rw [magOf_signedWord n hm31]; exact hlt))).1
  rw [realOf_signedWord n hm31, ← hy, sub_self, abs_zero] at hp
  exact sub_eq_zero.mp (abs_eq_zero.mp (le_antisymm hp (abs_nonneg _)))

/-- What R130 asks of a result, up to log 12: the rounded value of a number within 2^−900 of the exact one, relatively. -/
def NearlyRounded (y : ℝ) (r : W32) : Prop := ∃ z : ℝ, |z - y| ≤ 2 ^ (-900 : ℤ) * |y| ∧ RoundsTo z r

theorem nearlyRounded_of_roundsTo {y : ℝ} {r : W32} (h : RoundsTo y r) : NearlyRounded y r :=
  ⟨y, by rw [sub_self, abs_zero]; positivity, h⟩

theorem RoundsMag.nearlyRounded {y : ℝ} {m : Nat} (n : Bool) (h : RoundsMag (y * 2 ^ 149) m) (hy : 0 < y) :
    NearlyRounded (signOf n * y) (signedWord n m) := nearlyRounded_of_roundsTo (h.roundsTo n hy.le fun _ => hy)

theorem RoundsMag.nearlyRounded_pos {y : ℝ} {m : Nat} (h : RoundsMag (y * 2 ^ 149) m) (hy : 0 < y) : NearlyRounded y (signedWord false m) := by
  have := h.nearlyRounded false hy
  rwa [signOf_false, one_mul] at this

/-! The choice of a precision. -/

theorem roundEnds_eq (n : Bool) (a b : Nat) {c : Nat} (d : Nat) (hc : 0 < c) :
    roundEnds n a b c d = (signedWord n (roundedMag a b), signedWord n (roundedMag c d)) := by
  rw [roundEnds, toF32_rne n d hc]
  by_cases ha : a = 0
  · rw [if_pos ha, toF32_zero, show roundedMag a b = 0 from if_pos ha]
  · rw [if_neg ha, toF32_rne n b (Nat.pos_of_ne_zero ha)]

/-- The magnitude in the first precision in which the ends agree; in the last the lower end's. -/
def agreeAt (lo hi : Nat → Nat) : List Nat → Nat
  | [] => 0
  | p :: ps => if ps = [] ∨ lo p = hi p then lo p else agreeAt lo hi ps

theorem settleAt_eq {f : Nat → W32 × W32} {n : Bool} {lo hi : Nat → Nat} (hlo : ∀ p, lo p < 2 ^ 31) (hhi : ∀ p, hi p < 2 ^ 31) :
    ∀ ps : List Nat, ps ≠ [] → (∀ p ∈ ps, f p = (signedWord n (lo p), signedWord n (hi p))) →
      settleAt f ps = signedWord n (agreeAt lo hi ps)
  | [], h, _ => absurd rfl h
  | p :: ps, _, hf => by
    have hagree : (signedWord n (lo p)).toNat = (signedWord n (hi p)).toNat ↔ lo p = hi p := by
      rw [← BitVec.toNat_eq, signedWord_inj (hlo p) (hhi p), eq_self_iff_true, true_and]
    rw [settleAt, agreeAt, forced_eq, hf p List.mem_cons_self]
    simp only [hagree, BitVec.ofNat_toNat, BitVec.setWidth_eq]
    split
    · rfl
    · next h => exact settleAt_eq hlo hhi ps (fun hc => h (Or.inl hc)) fun q hq => hf q (List.mem_cons_of_mem _ hq)

/-- The magnitude is that of the number itself or of the last lower end. -/
theorem agreeAt_rounds {y : ℝ} {lo hi : Nat → Nat} {u w : Nat → ℝ} : ∀ (ps : List Nat) (hps : ps ≠ []),
    (∀ p ∈ ps, RoundsMag (u p) (lo p) ∧ RoundsMag (w p) (hi p) ∧ u p ≤ y ∧ y ≤ w p) →
      RoundsMag y (agreeAt lo hi ps) ∨ RoundsMag (u (ps.getLast hps)) (agreeAt lo hi ps)
  | [], h, _ => absurd rfl h
  | p :: ps, _, h => by
    obtain ⟨hu, hw, h1, h2⟩ := h p List.mem_cons_self
    rw [agreeAt]
    by_cases hps : ps = []
    · subst hps
      exact Or.inr (by simpa using hu)
    · by_cases he : lo p = hi p
      · rw [if_pos (Or.inr he)]
        exact Or.inl (hu.between (he ▸ hw) h1 h2)
      · rw [if_neg (by tauto), List.getLast_cons hps]
        exact agreeAt_rounds ps hps fun q hq => h q (List.mem_cons_of_mem _ hq)

theorem agreeAt_lt {lo hi : Nat → Nat} (h : ∀ p, lo p < 2 ^ 31) : ∀ ps : List Nat, agreeAt lo hi ps < 2 ^ 31
  | [] => Nat.two_pow_pos 31
  | p :: ps => by
    rw [agreeAt]
    split
    · exact h p
    · exact agreeAt_lt h ps

/-- The precisions of `settle`, in bits. -/
def precisions : List Nat := [96, 192, 384, 1024]

/-- Quotients that bracket a positive number in every precision, and in the last one closely. -/
structure Brackets (y : ℝ) (a b c d : Nat → Nat) : Prop where
  pos : 0 < y
  den : ∀ p ∈ precisions, 0 < b p ∧ 0 < d p
  low : ∀ p ∈ precisions, (a p / b p : ℝ) ≤ y
  high : ∀ p ∈ precisions, y ≤ (c p / d p : ℝ)
  close : y - a 1024 / b 1024 ≤ 2 ^ (-900 : ℤ) * y
section
variable {y : ℝ} {a b c d : Nat → Nat}

/-- The magnitude that a bracketed number settles at. -/
def settledMag (a b c d : Nat → Nat) : Nat := agreeAt (fun p => roundedMag (a p) (b p)) (fun p => roundedMag (c p) (d p)) precisions

theorem settledMag_lt : settledMag a b c d < 2 ^ 31 := agreeAt_lt (fun _ => roundedMag_lt _ _) precisions

theorem Brackets.settle_eq (h : Brackets y a b c d) (n : Bool) :
    settle (fun p => roundEnds n (a p) (b p) (c p) (d p)) = signedWord n (settledMag a b c d) := by
  refine settleAt_eq (fun _ => roundedMag_lt _ _) (fun _ => roundedMag_lt _ _) precisions (by decide) fun p hp => ?_
  refine roundEnds_eq n _ _ _ (Nat.pos_of_ne_zero fun hc => ?_)
  have := h.high p hp
  rw [hc, Nat.cast_zero, zero_div] at this
  exact absurd h.pos (not_lt.mpr this)

/-- It is the rounded value of a number within 2^−900 of the one bracketed, relatively. -/
theorem Brackets.settledMag_rounds (h : Brackets y a b c d) :
    ∃ z, 0 < z ∧ |z - y| ≤ 2 ^ (-900 : ℤ) * y ∧ RoundsMag (z * 2 ^ 149) (settledMag a b c d) := by
  have hstep := agreeAt_rounds (y := y * 2 ^ 149) (lo := fun p => roundedMag (a p) (b p)) (hi := fun p => roundedMag (c p) (d p))
    (u := fun p => a p / b p * 2 ^ 149) (w := fun p => c p / d p * 2 ^ 149) precisions (by decide) fun p hp =>
      ⟨roundsMag_roundedMag _ (h.den p hp).1, roundsMag_roundedMag _ (h.den p hp).2,
        mul_le_mul_of_nonneg_right (h.low p hp) (by positivity), mul_le_mul_of_nonneg_right (h.high p hp) (by positivity)⟩
  rcases hstep with hm | hm
  · exact ⟨y, h.pos, by rw [sub_self, abs_zero]; have := h.pos; positivity, hm⟩
  · have hlow := h.low 1024 (by decide)
    have hclose := h.close
    have hy := h.pos
    have hsmall : (2 : ℝ) ^ (-900 : ℤ) * y < y := by
      have : (2 : ℝ) ^ (-900 : ℤ) < 1 := zpow_lt_one_of_neg₀ (by norm_num) (by norm_num)
      nlinarith
    refine ⟨a 1024 / b 1024, by linarith, ?_, hm⟩
    rw [abs_sub_comm, abs_of_nonneg (by linarith)]
    exact hclose

/-- The same, with the sign. -/
theorem Brackets.nearlyRounded (h : Brackets y a b c d) (n : Bool) :
    NearlyRounded (signOf n * y) (settle (fun p => roundEnds n (a p) (b p) (c p) (d p))) := by
  obtain ⟨z, hz, hclose, hm⟩ := h.settledMag_rounds
  refine ⟨signOf n * z, ?_, ?_⟩
  · rw [← mul_sub, abs_mul, abs_mul, abs_signOf, one_mul, one_mul, abs_of_pos h.pos]
    exact hclose
  · rw [h.settle_eq]
    exact hm.roundsTo n hz.le fun _ => hz

theorem Brackets.nearlyRounded_pos (h : Brackets y a b c d) :
    NearlyRounded y (settle (fun p => roundEnds false (a p) (b p) (c p) (d p))) := by
  have := h.nearlyRounded false
  rwa [signOf_false, one_mul] at this
end

/-! Finite operands. -/

/-- An ordinary operand is a sign and a positive quotient. -/
theorem f32_ordinary {x : W32} (h : expOf x < 255) (h0 : x ≠ 0#32) (h1 : x ≠ 0x80000000#32) :
    ∃ a b, f32 x = .fin (negative x) a b ∧ 0 < a ∧ 0 < b ∧ realOf x = signOf (negative x) * (a / b) ∧ a * 2 ^ 149 = gridUnits (magOf x) * b := by
  have hm : magOf x ≠ 0 := by
    intro hc
    have hx := signedWord_self x
    rw [hc] at hx
    cases hn : negative x
    · exact h0 (by rw [← hx, hn]; rfl)
    · exact h1 (by rw [← hx, hn]; rfl)
  obtain ⟨a, b, hf, ha, hb, hab⟩ := f32_fin h hm
  refine ⟨a, b, hf, ha, hb, ?_, hab⟩
  have hb' : (0 : ℝ) < b := by exact_mod_cast hb
  rw [realOf_eq, two_zpow_149]
  congr 1
  rw [eq_div_iff hb'.ne', mul_right_comm, ← div_eq_mul_inv, div_eq_iff (by positivity)]
  exact_mod_cast hab.symm

theorem ordinary_f32 {F : SpecialForm} {x : W32} (h : Ordinary F x) :
    ∃ a b, f32 x = .fin (negative x) a b ∧ 0 < a ∧ 0 < b ∧ realOf x = signOf (negative x) * (a / b) := by
  obtain ⟨he, h0, h1, -⟩ := h
  obtain ⟨a, b, hf, ha, hb, hr, -⟩ := f32_ordinary he h0 h1
  exact ⟨a, b, hf, ha, hb, hr⟩

end Sys2Proof.Machine

namespace Sys2Proof.Machine
open Sys2Proof Sys2Proof.Claims
open scoped Nat

/-! The rest of a series from its k-th term on, and what it is at most. -/

/-- Σ ρ^i / i! over i from k on. -/
noncomputable def expTail (k : Nat) (ρ : ℝ) : ℝ := Real.exp ρ - ∑ i ∈ Finset.range k, ρ ^ i / i !

theorem expTail_zero (ρ : ℝ) : expTail 0 ρ = Real.exp ρ := by simp [expTail]

theorem expTail_succ (k : Nat) (ρ : ℝ) : expTail k ρ = ρ ^ k / k ! + expTail (k + 1) ρ := by
  rw [expTail, expTail, Finset.sum_range_succ]
  ring

theorem expTail_nonneg (k : Nat) {ρ : ℝ} (h : 0 ≤ ρ) : 0 ≤ expTail k ρ := sub_nonneg.mpr (Real.sum_le_exp_of_nonneg h k)

theorem expTail_le {k : Nat} (hk : 0 < k) {ρ : ℝ} (h0 : 0 ≤ ρ) (h1 : ρ ≤ 1) : expTail k ρ ≤ 2 * (ρ ^ k / k !) := by
  have hb := Real.exp_bound' h0 h1 hk
  have hk1 : (1 : ℝ) ≤ k := by exact_mod_cast hk
  have hf : (0 : ℝ) < k ! := by exact_mod_cast Nat.factorial_pos k
  have hle : ρ ^ k * (k + 1) / (k ! * k) ≤ 2 * (ρ ^ k / k !) := by
    rw [mul_div_mul_comm, mul_comm]
    refine mul_le_mul_of_nonneg_right ?_ (by positivity)
    rw [div_le_iff₀ (by positivity)]
    linarith
  rw [expTail]
  linarith

/-- Σ z^(2i+1) / (2i+1) over i from k on. -/
noncomputable def atanhTail (k : Nat) (z : ℝ) : ℝ :=
  (Real.log (1 + z) - Real.log (1 - z)) / 2 - ∑ i ∈ Finset.range k, z ^ (2 * i + 1) / (2 * i + 1)

theorem atanhTail_zero (z : ℝ) : atanhTail 0 z = (Real.log (1 + z) - Real.log (1 - z)) / 2 := by simp [atanhTail]

theorem atanhTail_succ (k : Nat) (z : ℝ) : atanhTail k z = z ^ (2 * k + 1) / (2 * k + 1) + atanhTail (k + 1) z := by
  rw [atanhTail, atanhTail, Finset.sum_range_succ]
  ring

theorem hasSum_atanhTail (k : Nat) {z : ℝ} (h : |z| < 1) :
    HasSum (fun i : ℕ => z ^ (2 * (i + k) + 1) / (2 * (i + k : ℕ) + 1)) (atanhTail k z) := by
  have hs : HasSum (fun i : ℕ => z ^ (2 * i + 1) / (2 * i + 1)) ((Real.log (1 + z) - Real.log (1 - z)) / 2) := by
    refine ((Real.hasSum_log_sub_log_of_abs_lt_one h).div_const 2).congr_fun ?_
    intro i
    ring
  exact (hasSum_nat_add_iff' k).mpr hs

theorem atanhTail_nonneg (k : Nat) {z : ℝ} (h0 : 0 ≤ z) (h1 : z < 1) : 0 ≤ atanhTail k z :=
  (hasSum_atanhTail k (abs_lt.mpr ⟨by linarith, h1⟩)).nonneg fun i => by positivity

theorem atanhTail_le (k : Nat) {z : ℝ} (h0 : 0 ≤ z) (h1 : z ≤ 1 / 3) : atanhTail k z ≤ 2 * z ^ (2 * k + 1) := by
  have hz2 : z ^ 2 ≤ 1 / 2 := by nlinarith
  have hg := (hasSum_geometric_of_lt_one (r := z ^ 2) (by positivity) (by linarith)).mul_left (z ^ (2 * k + 1))
  have hinv : (1 - z ^ 2)⁻¹ ≤ 2 := by
    rw [inv_le_comm₀ (by linarith) (by norm_num)]
    linarith
  calc atanhTail k z ≤ z ^ (2 * k + 1) * (1 - z ^ 2)⁻¹ := by
        refine hasSum_le (fun i => ?_) (hasSum_atanhTail k (abs_lt.mpr ⟨by linarith, by linarith⟩)) hg
        rw [show z ^ (2 * (i + k) + 1) = z ^ (2 * k + 1) * (z ^ 2) ^ i by ring]
        exact div_le_self (by positivity) (by have : (0 : ℝ) ≤ (i + k : ℕ) := Nat.cast_nonneg _; linarith)
    _ ≤ 2 * z ^ (2 * k + 1) := by
        rw [mul_comm]
        exact mul_le_mul_of_nonneg_right hinv (by positivity)

/-! Brackets: what one encloses, and how wide it is, in units of 2^−p. -/

/-- The bracket holds the number, at p fraction bits. -/
structure Encloses (p : Nat) (b : Bracket) (x : ℝ) : Prop where
  low : (b.lo : ℝ) ≤ x * 2 ^ p
  high : x * 2 ^ p ≤ b.hi

/-- The width of a bracket. -/
def width (b : Bracket) : ℝ := b.hi - b.lo

theorem natDiv_le_of_le {A B : Nat} {x : ℝ} (hB : 0 < B) (h : (A : ℝ) ≤ x * B) : ((A / B : ℕ) : ℝ) ≤ x :=
  Nat.cast_div_le.trans ((div_le_iff₀ (by exact_mod_cast hB)).mpr h)

theorem div_lt_natDiv_succ (A : Nat) {B : Nat} (hB : 0 < B) : (A / B : ℝ) < (A / B : ℕ) + 1 := by
  rw [div_lt_iff₀ (by exact_mod_cast hB)]
  exact_mod_cast Nat.lt_mul_of_div_lt (Nat.lt_succ_self (A / B)) hB

theorem le_natDiv_succ_of_le {A B : Nat} {x : ℝ} (hB : 0 < B) (h : x * B ≤ A) : x ≤ ((A / B + 1 : ℕ) : ℝ) := by
  push_cast
  exact ((le_div_iff₀ (by exact_mod_cast hB)).mpr h).trans (div_lt_natDiv_succ A hB).le

/-- A quotient rounded outwards: the pattern of every step of the series. -/
def quotBracket (A A' B : Nat) : Bracket := ⟨A / B, A' / B + 1⟩

theorem quotBracket_encloses {p A A' B : Nat} {x : ℝ} (hB : 0 < B) (h1 : (A : ℝ) ≤ x * 2 ^ p * B) (h2 : x * 2 ^ p * B ≤ A') :
    Encloses p (quotBracket A A' B) x :=
  ⟨natDiv_le_of_le hB h1, le_natDiv_succ_of_le hB h2⟩

theorem width_quotBracket {A A' B : Nat} {w : ℝ} (hB : 0 < B) (h : (A' : ℝ) - A ≤ w * B) : width (quotBracket A A' B) ≤ w + 2 := by
  have hB' : (0 : ℝ) < B := by exact_mod_cast hB
  have h1 := div_lt_natDiv_succ A hB
  have h2 : ((A' / B : ℕ) : ℝ) ≤ A' / B := Nat.cast_div_le
  have h3 : (A' / B : ℝ) - A / B ≤ w := by rw [← sub_div, div_le_iff₀ hB']; exact h
  simp only [width, quotBracket]
  push_cast
  linarith
section
variable {p : Nat} {s t : Bracket} {x y : ℝ}

theorem Encloses.width_nonneg (h : Encloses p s x) : 0 ≤ width s := sub_nonneg.mpr (h.low.trans h.high)

/-- The product of two brackets over `2^p · d`. -/
theorem Encloses.mulDiv (hs : Encloses p s x) (ht : Encloses p t y) (hx : 0 ≤ x) (hy : 0 ≤ y) {d : Nat} (hd : 0 < d) :
    Encloses p (quotBracket (s.lo * t.lo) (s.hi * t.hi) (2 ^ p * d)) (x * y / d) := by
  have hd' : (0 : ℝ) < d := by exact_mod_cast hd
  have e : x * y / d * 2 ^ p * (2 ^ p * d : ℕ) = (x * 2 ^ p) * (y * 2 ^ p) := by
    push_cast
    field_simp
  refine quotBracket_encloses (by positivity) ?_ ?_
  · rw [e]
    push_cast
    exact mul_le_mul hs.low ht.low (Nat.cast_nonneg _) (by positivity)
  · rw [e]
    push_cast
    exact mul_le_mul hs.high ht.high (by positivity) (Nat.cast_nonneg _)

/-- It is no wider than both together, where the first number and the upper end of the second are at most one. -/
theorem Encloses.width_mulDiv (hs : Encloses p s x) (hx : x ≤ 1) (ht : t.hi ≤ 2 ^ p) (htw : 0 ≤ width t) {d : Nat} (hd : 0 < d) :
    width (quotBracket (s.lo * t.lo) (s.hi * t.hi) (2 ^ p * d)) ≤ width t + width s + 2 := by
  have hd' : (1 : ℝ) ≤ d := by exact_mod_cast hd
  have hp : (0 : ℝ) < 2 ^ p := by positivity
  have ht' : (t.hi : ℝ) ≤ 2 ^ p := by exact_mod_cast ht
  have hlo : (s.lo : ℝ) ≤ 2 ^ p := hs.low.trans (mul_le_of_le_one_left hp.le hx)
  refine width_quotBracket (by positivity) ?_
  push_cast
  have hsw := hs.width_nonneg
  calc (s.hi : ℝ) * t.hi - s.lo * t.lo = s.lo * width t + t.hi * width s := by rw [width, width]; ring
    _ ≤ 2 ^ p * width t + 2 ^ p * width s :=
        add_le_add (mul_le_mul_of_nonneg_right hlo htw) (mul_le_mul_of_nonneg_right ht' hsw)
    _ = (width t + width s) * (2 ^ p * 1) := by ring
    _ ≤ _ := mul_le_mul_of_nonneg_left (mul_le_mul_of_nonneg_left hd' hp.le) (by linarith)
end

/-! The exponential series. -/

theorem expSum_succ (p : Nat) (r : Bracket) (n k : Nat) (t : Bracket) : expSum p r (n + 1) k t =
    ⟨t.lo + (expSum p r n (k + 1) (quotBracket (t.lo * r.lo) (t.hi * r.hi) (2 ^ p * (k + 1)))).lo,
     t.hi + (expSum p r n (k + 1) (quotBracket (t.lo * r.lo) (t.hi * r.hi) (2 ^ p * (k + 1)))).hi⟩ := rfl
section
variable {p : Nat} {r : Bracket} {ρ : ℝ}

theorem expTerm_succ (k : Nat) (ρ : ℝ) : ρ ^ (k + 1) / (k + 1)! = ρ ^ k / k ! * ρ / (k + 1 : ℕ) := by
  have h1 : (k ! : ℝ) ≠ 0 := by exact_mod_cast Nat.factorial_ne_zero k
  rw [Nat.factorial_succ, pow_succ]
  push_cast
  field_simp

theorem expTerm_le_one (h0 : 0 ≤ ρ) (h1 : ρ ≤ 1) (k : Nat) : ρ ^ k / k ! ≤ 1 :=
  div_le_one_of_le₀ ((pow_le_one₀ h0 h1).trans (by exact_mod_cast Nat.factorial_pos k)) (Nat.cast_nonneg _)

theorem expSum_encloses (hr : Encloses p r ρ) (h0 : 0 ≤ ρ) (h1 : ρ ≤ 1) : ∀ (n k : Nat) (t : Bracket), 0 < n + k →
    Encloses p t (ρ ^ k / k !) → Encloses p (expSum p r n k t) (expTail k ρ)
  | 0, k, t, hk, ht => by
    refine ⟨by simpa [expSum] using mul_nonneg (expTail_nonneg k h0) (by positivity : (0 : ℝ) ≤ 2 ^ p), ?_⟩
    have h := mul_le_mul_of_nonneg_right (expTail_le (k := k) (by omega) h0 h1) (by positivity : (0 : ℝ) ≤ 2 ^ p)
    have h' := ht.high
    simp only [expSum]
    push_cast
    linarith
  | n + 1, k, t, hk, ht => by
    have ih := expSum_encloses hr h0 h1 n (k + 1) (quotBracket (t.lo * r.lo) (t.hi * r.hi) (2 ^ p * (k + 1))) (by omega)
      (by rw [expTerm_succ]; exact ht.mulDiv hr (by positivity) h0 (Nat.succ_pos k))
    rw [expSum_succ, expTail_succ]
    refine ⟨?_, ?_⟩ <;> push_cast <;> rw [add_mul]
    · exact add_le_add ht.low ih.low
    · exact add_le_add ht.high ih.high

/-- Each term is at most `width r + 2` wider than the one before; at the end stands twice the first term left out. -/
theorem expSum_width (hr : Encloses p r ρ) (h0 : 0 ≤ ρ) (h1 : ρ ≤ 1) (hr1 : r.hi ≤ 2 ^ p) : ∀ (n k : Nat) (t : Bracket),
    Encloses p t (ρ ^ k / k !) →
      width (expSum p r n k t) ≤ (n + 2) * (width t + n * (width r + 2)) + 2 * (ρ ^ (k + n) / (k + n)! * 2 ^ p) + 1
  | 0, k, t, ht => by
    have := ht.low
    simp only [expSum, width, Nat.add_zero]
    push_cast
    linarith
  | n + 1, k, t, ht => by
    have hterm : Encloses p (quotBracket (t.lo * r.lo) (t.hi * r.hi) (2 ^ p * (k + 1))) (ρ ^ (k + 1) / (k + 1)!) := by
      rw [expTerm_succ]
      exact ht.mulDiv hr (by positivity) h0 (Nat.succ_pos k)
    have ih := expSum_width hr h0 h1 hr1 n (k + 1) _ hterm
    have hw := ht.width_mulDiv (expTerm_le_one h0 h1 k) hr1 hr.width_nonneg (Nat.succ_pos k)
    have hsum : width (expSum p r (n + 1) k t) =
        width t + width (expSum p r n (k + 1) (quotBracket (t.lo * r.lo) (t.hi * r.hi) (2 ^ p * (k + 1)))) := by
      rw [expSum_succ, width, width, width]
      push_cast
      ring
    rw [hsum, show k + (n + 1) = k + 1 + n by ring]
    have hn : (0 : ℝ) ≤ n := Nat.cast_nonneg n
    have htw := ht.width_nonneg
    have hrw := hr.width_nonneg
    have hmul := mul_le_mul_of_nonneg_left hw (by linarith : (0 : ℝ) ≤ n + 2)
    push_cast
    nlinarith
end

/-! The series of ln. -/

theorem atanhSum_succ (p : Nat) (zz : Bracket) (n k : Nat) (q : Bracket) : atanhSum p zz (n + 1) k q =
    ⟨q.lo / (2 * k + 1) + (atanhSum p zz n (k + 1) (quotBracket (q.lo * zz.lo) (q.hi * zz.hi) (2 ^ p))).lo,
     q.hi / (2 * k + 1) + 1 + (atanhSum p zz n (k + 1) (quotBracket (q.lo * zz.lo) (q.hi * zz.hi) (2 ^ p))).hi⟩ := rfl
section
variable {p : Nat} {zz : Bracket} {z : ℝ}

theorem atanhPower_encloses {k : Nat} {q : Bracket} (hq : Encloses p q (z ^ (2 * k + 1))) (hzz : Encloses p zz (z ^ 2)) (h0 : 0 ≤ z) :
    Encloses p (quotBracket (q.lo * zz.lo) (q.hi * zz.hi) (2 ^ p)) (z ^ (2 * (k + 1) + 1)) := by
  have := hq.mulDiv hzz (by positivity) (by positivity) Nat.one_pos
  rwa [mul_one, Nat.cast_one, div_one, ← pow_add, show 2 * k + 1 + 2 = 2 * (k + 1) + 1 by ring] at this

theorem atanhTerm_encloses {k : Nat} {q : Bracket} (hq : Encloses p q (z ^ (2 * k + 1))) :
    Encloses p (quotBracket q.lo q.hi (2 * k + 1)) (z ^ (2 * k + 1) / (2 * k + 1)) := by
  have hk : ((2 * k + 1 : ℕ) : ℝ) ≠ 0 := by positivity
  have e : z ^ (2 * k + 1) / (2 * k + 1) * 2 ^ p * (2 * k + 1 : ℕ) = z ^ (2 * k + 1) * 2 ^ p := by
    push_cast at hk ⊢
    field_simp
  exact quotBracket_encloses (by omega) (e ▸ hq.low) (e ▸ hq.high)

theorem atanhSum_encloses (hzz : Encloses p zz (z ^ 2)) (h0 : 0 ≤ z) (h1 : z ≤ 1 / 3) : ∀ (n k : Nat) (q : Bracket),
    Encloses p q (z ^ (2 * k + 1)) → Encloses p (atanhSum p zz n k q) (atanhTail k z)
  | 0, k, q, hq => by
    refine ⟨by simpa [atanhSum] using mul_nonneg (atanhTail_nonneg k h0 (by linarith)) (by positivity : (0 : ℝ) ≤ 2 ^ p), ?_⟩
    have h := mul_le_mul_of_nonneg_right (atanhTail_le k h0 h1) (by positivity : (0 : ℝ) ≤ 2 ^ p)
    have h' := hq.high
    simp only [atanhSum]
    push_cast
    linarith
  | n + 1, k, q, hq => by
    have ih := atanhSum_encloses hzz h0 h1 n (k + 1) _ (atanhPower_encloses hq hzz h0)
    have ht := atanhTerm_encloses hq
    rw [atanhSum_succ, atanhTail_succ]
    refine ⟨?_, ?_⟩ <;> rw [Nat.cast_add, add_mul]
    · exact add_le_add ht.low ih.low
    · exact add_le_add ht.high ih.high

theorem atanhSum_width (hzz : Encloses p zz (z ^ 2)) (h0 : 0 ≤ z) (h1 : z ≤ 1 / 3) (hz1 : zz.hi ≤ 2 ^ p) : ∀ (n k : Nat) (q : Bracket),
    Encloses p q (z ^ (2 * k + 1)) →
      width (atanhSum p zz n k q) ≤ (n + 2) * (width q + 2 + n * (width zz + 2)) + 2 * (z ^ (2 * (k + n) + 1) * 2 ^ p) + 1
  | 0, k, q, hq => by
    have := hq.low
    simp only [atanhSum, width, Nat.add_zero]
    push_cast
    linarith
  | n + 1, k, q, hq => by
    have ih := atanhSum_width hzz h0 h1 hz1 n (k + 1) _ (atanhPower_encloses hq hzz h0)
    have hw := hq.width_mulDiv (pow_le_one₀ h0 (by linarith)) hz1 hzz.width_nonneg Nat.one_pos
    have hqw := hq.width_nonneg
    have ht : width (quotBracket q.lo q.hi (2 * k + 1)) ≤ width q + 2 := by
      refine width_quotBracket (by omega) ?_
      push_cast
      rw [← width]
      have : (0 : ℝ) ≤ k := Nat.cast_nonneg k
      nlinarith
    have hsum : width (atanhSum p zz (n + 1) k q) =
        width (quotBracket q.lo q.hi (2 * k + 1)) + width (atanhSum p zz n (k + 1) (quotBracket (q.lo * zz.lo) (q.hi * zz.hi) (2 ^ p))) := by
      rw [atanhSum_succ]
      simp only [width, quotBracket]
      push_cast
      ring
    rw [mul_one] at hw
    rw [hsum, show 2 * (k + (n + 1)) + 1 = 2 * (k + 1 + n) + 1 by ring]
    have hn : (0 : ℝ) ≤ n := Nat.cast_nonneg n
    have hzw := hzz.width_nonneg
    have hmul := mul_le_mul_of_nonneg_left hw (by linarith : (0 : ℝ) ≤ n + 2)
    push_cast
    nlinarith
end

end Sys2Proof.Machine

namespace Sys2Proof.Machine
open Sys2Proof Sys2Proof.Claims
open scoped Nat

/-! The logarithm of a quotient, at each of the precisions. -/

theorem precisions_bounds {p : Nat} (hp : p ∈ precisions) : 96 ≤ p ∧ p ≤ 1024 := by
  revert p
  decide

theorem two_pow_ge {p : Nat} (hp : p ∈ precisions) : (2 : ℝ) ^ 96 ≤ 2 ^ p :=
  pow_le_pow_right₀ (by norm_num) (precisions_bounds hp).1

theorem brOfRat_eq (p a b : Nat) : brOfRat p a b = quotBracket (a * 2 ^ p) (a * 2 ^ p) b := rfl

theorem brOfRat_encloses (p a : Nat) {b : Nat} (hb : 0 < b) : Encloses p (brOfRat p a b) (a / b) := by
  have hb' : (b : ℝ) ≠ 0 := by exact_mod_cast hb.ne'
  have e : (a / b : ℝ) * 2 ^ p * b = (a * 2 ^ p : ℕ) := by
    push_cast
    field_simp
  exact quotBracket_encloses hb e.ge e.le

theorem width_brOfRat (p a b : Nat) : width (brOfRat p a b) = 1 := by
  simp [width, brOfRat]

/-- Nine to the number of terms is beyond the precision. -/
theorem two_pow_le_spTerms (p : Nat) : (2 : ℝ) ^ p ≤ 3 ^ (2 * spTerms p + 1) := by
  have h : 2 ^ p ≤ 3 ^ (2 * spTerms p + 1) :=
    calc 2 ^ p ≤ 2 ^ (2 * spTerms p + 1 + (2 * spTerms p + 1) / 2) := Nat.pow_le_pow_right (by norm_num) (by unfold spTerms; omega)
      _ = 2 ^ (3 * spTerms p + 1) := by congr 1; omega
      _ ≤ 9 ^ spTerms p * 3 := by rw [pow_succ, pow_mul]; exact Nat.mul_le_mul (Nat.pow_le_pow_left (by norm_num) _) (by norm_num)
      _ = 3 ^ (2 * spTerms p + 1) := by rw [pow_succ 3, pow_mul 3]; norm_num
  exact_mod_cast h

theorem spTerms_le {p : Nat} (hp : p ∈ precisions) : (spTerms p : ℝ) ≤ 349 := by
  have h := precisions_bounds hp
  exact_mod_cast (by unfold spTerms; omega : spTerms p ≤ 349)

/-- What `lnRat` sums the powers of. -/
noncomputable def atanhArg (a b : Nat) : ℝ := (a - b) / (a + b)
section
variable {a b : Nat} (hb : 0 < b) (h1 : b ≤ a)
include hb

theorem log_atanhArg (ha : 0 < a) : Real.log (1 + atanhArg a b) - Real.log (1 - atanhArg a b) = Real.log (a / b) := by
  have ha' : (0 : ℝ) < a := by exact_mod_cast ha
  have hb' : (0 : ℝ) < b := by exact_mod_cast hb
  have e1 : 1 + atanhArg a b = 2 * a / (a + b) := by rw [atanhArg]; field_simp; ring
  have e2 : 1 - atanhArg a b = 2 * b / (a + b) := by rw [atanhArg]; field_simp; ring
  rw [e1, e2, ← Real.log_div (by positivity) (by positivity)]
  congr 1
  field_simp
include h1

theorem atanhArg_bounds (h2 : a ≤ 2 * b) : 0 ≤ atanhArg a b ∧ atanhArg a b ≤ 1 / 3 := by
  have hb' : (0 : ℝ) < b := by exact_mod_cast hb
  have h1' : (b : ℝ) ≤ a := by exact_mod_cast h1
  have h2' : (a : ℝ) ≤ 2 * b := by exact_mod_cast h2
  refine ⟨div_nonneg (by linarith) (by linarith), ?_⟩
  rw [atanhArg, div_le_div_iff₀ (by linarith) (by norm_num)]
  linarith

theorem atanhArg_encloses (p : Nat) : Encloses p (brOfRat p (a - b) (a + b)) (atanhArg a b) := by
  have h := brOfRat_encloses p (a - b) (b := a + b) (by omega)
  push_cast [h1] at h
  exact h
end
section
variable {p : Nat} {q : Bracket} {z : ℝ} (hp : p ∈ precisions) (hz : Encloses p q z) (hw : width q = 1) (h0 : 0 ≤ z) (h3 : z ≤ 1 / 3)
include hp hz hw h3

theorem square_width : width (quotBracket (q.lo * q.lo) (q.hi * q.hi) (2 ^ p)) ≤ 4 := by
  have hP := two_pow_ge hp
  have hle : (q.hi : ℝ) ≤ 2 ^ p := by
    have h1 := mul_le_mul_of_nonneg_right h3 (by positivity : (0 : ℝ) ≤ 2 ^ p)
    have h2 := hz.low
    rw [width] at hw
    linarith
  have := hz.width_mulDiv (by linarith) (by exact_mod_cast hle) hz.width_nonneg Nat.one_pos
  rw [mul_one, hw] at this
  linarith
include h0
omit hp hw h3 in
theorem square_encloses : Encloses p (quotBracket (q.lo * q.lo) (q.hi * q.hi) (2 ^ p)) (z ^ 2) := by
  have := hz.mulDiv hz h0 h0 Nat.one_pos
  rwa [mul_one, Nat.cast_one, div_one, ← pow_two z] at this

theorem square_hi_le : (quotBracket (q.lo * q.lo) (q.hi * q.hi) (2 ^ p)).hi ≤ 2 ^ p := by
  have hP := two_pow_ge hp
  have h1 := (square_encloses hz h0).low
  have h2 := square_width hp hz hw h3
  have h4 : z ^ 2 * 2 ^ p ≤ 1 / 9 * 2 ^ p := mul_le_mul_of_nonneg_right (by nlinarith) (by positivity)
  rw [width] at h2
  exact_mod_cast (by linarith : ((quotBracket (q.lo * q.lo) (q.hi * q.hi) (2 ^ p)).hi : ℝ) ≤ 2 ^ p)

/-- The sum of the series, to within 2^20 units. -/
theorem atanhSum_spec :
    Encloses p (atanhSum p (quotBracket (q.lo * q.lo) (q.hi * q.hi) (2 ^ p)) (spTerms p) 0 q) (atanhTail 0 z) ∧
    width (atanhSum p (quotBracket (q.lo * q.lo) (q.hi * q.hi) (2 ^ p)) (spTerms p) 0 q) ≤ 2 ^ 20 := by
  have hq : Encloses p q (z ^ (2 * 0 + 1)) := by simpa using hz
  have hsq := square_encloses hz h0
  have hsw := square_width hp hz hw h3
  have hwid := atanhSum_width hsq h0 h3 (square_hi_le hp hz hw h0 h3) (spTerms p) 0 q hq
  refine ⟨atanhSum_encloses hsq h0 h3 (spTerms p) 0 q hq, hwid.trans ?_⟩
  have hrest : z ^ (2 * (0 + spTerms p) + 1) * 2 ^ p ≤ 1 := by
    rw [Nat.zero_add]
    calc z ^ (2 * spTerms p + 1) * 2 ^ p ≤ (1 / 3) ^ (2 * spTerms p + 1) * 3 ^ (2 * spTerms p + 1) :=
          mul_le_mul (pow_le_pow_left₀ h0 h3 _) (two_pow_le_spTerms p) (by positivity) (by positivity)
      _ = 1 := by rw [← mul_pow]; norm_num
  have hn := spTerms_le hp
  have hn0 : (0 : ℝ) ≤ spTerms p := Nat.cast_nonneg _
  have hsw0 := hsq.width_nonneg
  have hstep : (spTerms p : ℝ) * (width (quotBracket (q.lo * q.lo) (q.hi * q.hi) (2 ^ p)) + 2) ≤ 349 * 6 :=
    mul_le_mul hn (by linarith) (by linarith) (by norm_num)
  have hall : (spTerms p + 2 : ℝ) * (width q + 2 + spTerms p * (width (quotBracket (q.lo * q.lo) (q.hi * q.hi) (2 ^ p)) + 2)) ≤
      351 * (3 + 349 * 6) :=
    mul_le_mul (by linarith) (by linarith) (by rw [hw]; positivity) (by norm_num)
  linarith
end

/-- ln of a quotient between 1 and 2: enclosed, to within 2^21 units. -/
theorem lnRat_spec {p a b : Nat} (hp : p ∈ precisions) (hb : 0 < b) (h1 : b ≤ a) (h2 : a ≤ 2 * b) :
    Encloses p (lnRat p a b) (Real.log (a / b)) ∧ width (lnRat p a b) ≤ 2 ^ 21 := by
  obtain ⟨h0, h3⟩ := atanhArg_bounds hb h1 h2
  obtain ⟨hs, hw⟩ := atanhSum_spec hp (atanhArg_encloses hb h1 p) (width_brOfRat _ _ _) h0 h3
  rw [atanhTail_zero, log_atanhArg hb (by omega)] at hs
  generalize hsum : atanhSum p _ (spTerms p) 0 _ = s at hs hw
  rw [show lnRat p a b = ⟨2 * s.lo, 2 * s.hi⟩ by rw [← hsum]; rfl]
  refine ⟨⟨?_, ?_⟩, ?_⟩
  · push_cast
    linarith [hs.low]
  · push_cast
    linarith [hs.high]
  · rw [width] at hw ⊢
    push_cast
    linarith

/-- ln 2. -/
theorem ln2_spec {p : Nat} (hp : p ∈ precisions) : Encloses p (ln2 p) (Real.log 2) ∧ width (ln2 p) ≤ 2 ^ 21 := by
  have h := lnRat_spec hp (a := 2) (b := 1) (by norm_num) (by norm_num) (by norm_num)
  rwa [Nat.cast_ofNat, Nat.cast_one, div_one] at h

theorem ln2_bounds {p : Nat} (hp : p ∈ precisions) :
    (0.69 : ℝ) * 2 ^ p ≤ (ln2 p).lo ∧ ((ln2 p).hi : ℝ) ≤ 0.7 * 2 ^ p ∧ (0.69 : ℝ) * 2 ^ p ≤ (ln2 p).hi := by
  obtain ⟨⟨h1, h2⟩, hw⟩ := ln2_spec hp
  have hP := two_pow_ge hp
  have e1 := mul_le_mul_of_nonneg_right Real.log_two_gt_d9.le (by positivity : (0 : ℝ) ≤ 2 ^ p)
  have e2 := mul_le_mul_of_nonneg_right Real.log_two_lt_d9.le (by positivity : (0 : ℝ) ≤ 2 ^ p)
  rw [width] at hw
  refine ⟨by linarith, by linarith, by linarith⟩

/-! e^y and 2^y. -/

/-- A bracket of a number that is at least one, close in the last precision. -/
structure ExpBracket (p : Nat) (e : Bracket) (E : ℝ) : Prop where
  encl : Encloses p e E
  one : 2 ^ p ≤ e.lo
  close : p = 1024 → width e ≤ 2 ^ (-930 : ℤ) * e.lo

theorem le_expSum_lo (p : Nat) (r : Bracket) (n k : Nat) (t : Bracket) : t.lo ≤ (expSum p r (n + 1) k t).lo := Nat.le_add_right _ _

theorem two_pow_le_factorial (p : Nat) : 2 ^ p ≤ (spTerms p)! :=
  calc 2 ^ p ≤ 2 ^ (3 * (p / 3 + 1)) := Nat.pow_le_pow_right (by norm_num) (by omega)
    _ = 1 * (7 + 1) ^ (p / 3 + 1) := by rw [pow_mul, one_mul]; norm_num
    _ ≤ 7 ! * (7 + 1) ^ (p / 3 + 1) := Nat.mul_le_mul_right _ (Nat.factorial_pos 7)
    _ ≤ (7 + (p / 3 + 1))! := Nat.factorial_mul_pow_le_factorial
    _ = (spTerms p)! := by rw [spTerms, show 7 + (p / 3 + 1) = p / 3 + 8 by omega]

theorem encloses_one (p : Nat) (ρ : ℝ) : Encloses p ⟨2 ^ p, 2 ^ p⟩ (ρ ^ 0 / 0 !) := by
  refine ⟨?_, ?_⟩ <;> simp
section
variable {p : Nat} {r : Bracket} {ρ : ℝ} (hp : p ∈ precisions) (hr : Encloses p r ρ) (h0 : 0 ≤ ρ) (hr1 : r.hi ≤ 2 ^ p)
include hr hr1

theorem le_one_of_encloses : ρ ≤ 1 := by
  have : ρ * 2 ^ p ≤ 1 * 2 ^ p := by rw [one_mul]; exact hr.high.trans (by exact_mod_cast hr1)
  exact le_of_mul_le_mul_right this (by positivity)
include hp h0

theorem expSmall_width (hw : width r ≤ 2 ^ 60) : width (expSmall p r) ≤ 2 ^ 94 := by
  have h1 := le_one_of_encloses hr hr1
  have h := expSum_width hr h0 h1 hr1 (spTerms p) 0 ⟨2 ^ p, 2 ^ p⟩ (encloses_one p ρ)
  have hlast : ρ ^ (0 + spTerms p) / (0 + spTerms p)! * 2 ^ p ≤ 1 := by
    have hf : (2 ^ p : ℝ) ≤ ((spTerms p)! : ℕ) := by exact_mod_cast two_pow_le_factorial p
    rw [Nat.zero_add, div_mul_eq_mul_div, div_le_one (by exact_mod_cast Nat.factorial_pos _)]
    exact (mul_le_of_le_one_left (by positivity) (pow_le_one₀ h0 h1)).trans hf
  have hn := spTerms_le hp
  have hn0 : (0 : ℝ) ≤ spTerms p := Nat.cast_nonneg _
  have hstep : (spTerms p : ℝ) * (width r + 2) ≤ 349 * (2 ^ 60 + 2) :=
    mul_le_mul hn (by linarith) (by linarith [hr.width_nonneg]) (by norm_num)
  have hall : (spTerms p + 2 : ℝ) * (spTerms p * (width r + 2)) ≤ 351 * (349 * (2 ^ 60 + 2)) :=
    mul_le_mul (by linarith) hstep (mul_nonneg hn0 (by linarith [hr.width_nonneg])) (by norm_num)
  rw [show width ⟨2 ^ p, 2 ^ p⟩ = 0 from sub_self _, zero_add] at h
  rw [expSmall]
  linarith

/-- e^ρ from a bracket of ρ that is not too wide. -/
theorem expSmall_spec (hw : width r ≤ 2 ^ 60) : ExpBracket p (expSmall p r) (Real.exp ρ) := by
  have h1 := le_one_of_encloses hr hr1
  have hone : 2 ^ p ≤ (expSmall p r).lo := le_expSum_lo p r (p / 3 + 7) 0 ⟨2 ^ p, 2 ^ p⟩
  have hone' : (2 : ℝ) ^ p ≤ (expSmall p r).lo := by exact_mod_cast hone
  refine ⟨?_, hone, fun h1024 => ?_⟩
  · have := expSum_encloses hr h0 h1 (spTerms p) 0 ⟨2 ^ p, 2 ^ p⟩ (by unfold spTerms; omega) (encloses_one p ρ)
    rwa [expTail_zero] at this
  · calc width (expSmall p r) ≤ 2 ^ 94 := expSmall_width hp hr h0 hr1 hw
      _ = 2 ^ (-930 : ℤ) * 2 ^ p := by rw [h1024, ← zpow_natCast, ← zpow_natCast, ← zpow_add₀ (by norm_num)]; norm_num
      _ ≤ _ := mul_le_mul_of_nonneg_left hone' (by positivity)
end

/-- A bracket times a power of two. -/
theorem ExpBracket.scale {p : Nat} {e : Bracket} {E : ℝ} (h : ExpBracket p e E) (k : Nat) :
    ExpBracket p ⟨e.lo * 2 ^ k, e.hi * 2 ^ k⟩ (E * 2 ^ k) := by
  obtain ⟨⟨h1, h2⟩, hone, hc⟩ := h
  have hk : (0 : ℝ) < 2 ^ k := by positivity
  refine ⟨⟨?_, ?_⟩, hone.trans (Nat.le_mul_of_pos_right _ (by positivity)), fun hp => ?_⟩
  · push_cast
    nlinarith [mul_le_mul_of_nonneg_right h1 hk.le]
  · push_cast
    nlinarith [mul_le_mul_of_nonneg_right h2 hk.le]
  · have e1 : width ⟨e.lo * 2 ^ k, e.hi * 2 ^ k⟩ = width e * 2 ^ k := by simp only [width]; push_cast; ring
    rw [e1]
    push_cast
    rw [← mul_assoc]
    exact mul_le_mul_of_nonneg_right (hc hp) hk.le

theorem div_eq_mod_add_div (a : Nat) {b : Nat} (hb : 0 < b) : (a / b : ℝ) = ((a % b : ℕ) / b : ℝ) + (a / b : ℕ) := by
  have hb' : (b : ℝ) ≠ 0 := by exact_mod_cast hb.ne'
  rw [div_add' _ _ _ hb', div_left_inj' hb']
  exact_mod_cast (Nat.mod_add_div' a b).symm

theorem exp2Rat_eq (p a b : Nat) : exp2Rat p a b =
    let e := expSmall p (quotBracket (a % b * (ln2 p).lo) (a % b * (ln2 p).hi) b)
    ⟨e.lo * 2 ^ (a / b), e.hi * 2 ^ (a / b)⟩ := rfl

/-- 2^y. -/
theorem exp2Rat_spec {p a b : Nat} (hp : p ∈ precisions) (hb : 0 < b) : ExpBracket p (exp2Rat p a b) (2 ^ (a / b : ℝ)) := by
  have hb' : (0 : ℝ) < b := by exact_mod_cast hb
  obtain ⟨hl, hlw⟩ := ln2_spec hp
  obtain ⟨-, hhi, -⟩ := ln2_bounds hp
  have hP := two_pow_ge hp
  have hf1 : ((a % b : ℕ) : ℝ) ≤ b := by exact_mod_cast (Nat.mod_lt a hb).le
  have hf0 : (0 : ℝ) ≤ (a % b : ℕ) := Nat.cast_nonneg _
  have hr : Encloses p (quotBracket (a % b * (ln2 p).lo) (a % b * (ln2 p).hi) b) ((a % b : ℕ) / b * Real.log 2) := by
    have e : ((a % b : ℕ) / b * Real.log 2 * 2 ^ p * b : ℝ) = (a % b : ℕ) * (Real.log 2 * 2 ^ p) := by field_simp
    refine quotBracket_encloses hb ?_ ?_ <;> rw [e, Nat.cast_mul]
    · exact mul_le_mul_of_nonneg_left hl.low hf0
    · exact mul_le_mul_of_nonneg_left hl.high hf0
  have hrw : width (quotBracket (a % b * (ln2 p).lo) (a % b * (ln2 p).hi) b) ≤ 2 ^ 21 + 2 := by
    refine width_quotBracket hb ?_
    push_cast
    calc ((a % b : ℕ) : ℝ) * (ln2 p).hi - (a % b : ℕ) * (ln2 p).lo = width (ln2 p) * (a % b : ℕ) := by rw [width]; ring
      _ ≤ 2 ^ 21 * b := mul_le_mul hlw hf1 hf0 (by norm_num)
  have hrhi : (quotBracket (a % b * (ln2 p).lo) (a % b * (ln2 p).hi) b).hi ≤ 2 ^ p := by
    have e1 : ((a % b * (ln2 p).hi / b : ℕ) : ℝ) ≤ (ln2 p).hi := by
      refine natDiv_le_of_le hb ?_
      push_cast
      rw [mul_comm]
      exact mul_le_mul_of_nonneg_left hf1 (Nat.cast_nonneg _)
    have e2 : (((quotBracket (a % b * (ln2 p).lo) (a % b * (ln2 p).hi) b).hi : ℕ) : ℝ) ≤ 2 ^ p := by
      rw [quotBracket]
      push_cast
      linarith
    exact_mod_cast e2
  have h := (expSmall_spec hp hr (by have := Real.log_two_gt_d9; positivity) hrhi (by linarith)).scale (a / b)
  rw [exp2Rat_eq]
  have e : (2 : ℝ) ^ (a / b : ℝ) = Real.exp ((a % b : ℕ) / b * Real.log 2) * 2 ^ (a / b) := by
    rw [div_eq_mod_add_div a hb, Real.rpow_add (by norm_num), Real.rpow_natCast, Real.rpow_def_of_pos (by norm_num), mul_comm (Real.log 2)]
  rw [e]
  exact h

/-! The reduction of e^y: y less the multiple of ln 2 that its bracket's lower end holds. -/

section
variable {p : Nat} {y : Bracket} {q : ℝ} (hp : p ∈ precisions) (hy : Encloses p y q) (hyw : width y = 1)

/-- The multiple, and what is left of y. -/
def ln2Multiple (p : Nat) (y : Bracket) : Nat := y.lo / (ln2 p).hi

def ln2Rest (p : Nat) (y : Bracket) : Bracket := ⟨y.lo - ln2Multiple p y * (ln2 p).hi, y.hi - ln2Multiple p y * (ln2 p).lo⟩
include hp hy

theorem ln2Multiple_le (hq : q ≤ 128) : (ln2Multiple p y : ℝ) ≤ 256 := by
  obtain ⟨-, -, hhi⟩ := ln2_bounds hp
  have e0 : (ln2Multiple p y * (ln2 p).hi : ℕ) ≤ y.lo := Nat.div_mul_le_self _ _
  have e0' : (ln2Multiple p y : ℝ) * (ln2 p).hi ≤ y.lo := by exact_mod_cast e0
  have e1 : q * 2 ^ p ≤ 128 * 2 ^ p := mul_le_mul_of_nonneg_right hq (by positivity)
  have e2 : (ln2Multiple p y : ℝ) * (0.69 * 2 ^ p) ≤ ln2Multiple p y * (ln2 p).hi := mul_le_mul_of_nonneg_left hhi (Nat.cast_nonneg _)
  have e3 : (ln2Multiple p y : ℝ) * 2 ^ p ≤ 256 * 2 ^ p := by linarith [hy.low]
  exact le_of_mul_le_mul_right e3 (by positivity)

/-- Neither end of what is left is cut off at zero. -/
theorem ln2Rest_exact : (((ln2Rest p y).lo : ℕ) : ℝ) = y.lo - ln2Multiple p y * (ln2 p).hi ∧
    (((ln2Rest p y).hi : ℕ) : ℝ) = y.hi - ln2Multiple p y * (ln2 p).lo := by
  obtain ⟨hl, -⟩ := ln2_spec hp
  have h1 : ln2Multiple p y * (ln2 p).hi ≤ y.lo := Nat.div_mul_le_self _ _
  have h2 : ln2Multiple p y * (ln2 p).lo ≤ y.hi := by
    have e1 : (ln2 p).lo ≤ (ln2 p).hi := by exact_mod_cast hl.low.trans hl.high
    have e2 : y.lo ≤ y.hi := by exact_mod_cast hy.low.trans hy.high
    exact (Nat.mul_le_mul_left _ e1).trans (h1.trans e2)
  rw [ln2Rest]
  push_cast [h1, h2]
  exact ⟨rfl, rfl⟩

theorem ln2Rest_encloses : Encloses p (ln2Rest p y) (q - ln2Multiple p y * Real.log 2) := by
  obtain ⟨hl, -⟩ := ln2_spec hp
  obtain ⟨h1, h2⟩ := ln2Rest_exact hp hy
  have hk : (0 : ℝ) ≤ ln2Multiple p y := Nat.cast_nonneg _
  refine ⟨?_, ?_⟩
  · rw [h1]
    linarith [mul_le_mul_of_nonneg_left hl.high hk, hy.low]
  · rw [h2]
    linarith [mul_le_mul_of_nonneg_left hl.low hk, hy.high]
include hyw

theorem width_ln2Rest (hq : q ≤ 128) : width (ln2Rest p y) ≤ 2 ^ 30 := by
  obtain ⟨hl, hlw⟩ := ln2_spec hp
  obtain ⟨h1, h2⟩ := ln2Rest_exact hp hy
  have hkw : (ln2Multiple p y : ℝ) * width (ln2 p) ≤ 256 * 2 ^ 21 := mul_le_mul (ln2Multiple_le hp hy hq) hlw hl.width_nonneg (by norm_num)
  rw [width] at hyw hkw ⊢
  rw [h1, h2]
  linarith

theorem ln2Rest_hi_le (hq : q ≤ 128) : (ln2Rest p y).hi ≤ 2 ^ p := by
  obtain ⟨-, hhi, hhi'⟩ := ln2_bounds hp
  have hP := two_pow_ge hp
  have hpos : 0 < (ln2 p).hi := by
    have : (0 : ℝ) < (ln2 p).hi := by linarith
    exact_mod_cast this
  have hlo : (ln2Rest p y).lo < (ln2 p).hi := by
    rw [ln2Rest, ln2Multiple, Nat.mul_comm, ← Nat.mod_eq_sub_mul_div]
    exact Nat.mod_lt _ hpos
  have hlo' : ((ln2Rest p y).lo : ℝ) < (ln2 p).hi := by exact_mod_cast hlo
  have hw := width_ln2Rest hp hy hyw hq
  rw [width] at hw
  exact_mod_cast (by linarith : ((ln2Rest p y).hi : ℝ) ≤ 2 ^ p)
end

theorem expRat_eq (p a b : Nat) : expRat p a b =
    let k := ln2Multiple p (brOfRat p a b)
    let e := expSmall p (ln2Rest p (brOfRat p a b))
    ⟨e.lo * 2 ^ k, e.hi * 2 ^ k⟩ := rfl

/-- e^y, of a number up to 128. -/
theorem expRat_spec {p a b : Nat} (hp : p ∈ precisions) (hb : 0 < b) (hab : a ≤ 128 * b) : ExpBracket p (expRat p a b) (Real.exp (a / b)) := by
  have hy := brOfRat_encloses p a hb
  have hyw := width_brOfRat p a b
  have hq : (a / b : ℝ) ≤ 128 := (div_le_iff₀ (by exact_mod_cast hb)).mpr (by exact_mod_cast hab)
  have hr := ln2Rest_encloses hp hy
  have hr0 := nonneg_of_mul_nonneg_left ((Nat.cast_nonneg _).trans hr.low) (by positivity)
  have h := (expSmall_spec hp hr hr0 (ln2Rest_hi_le hp hy hyw hq) ((width_ln2Rest hp hy hyw hq).trans (by norm_num))).scale
    (ln2Multiple p (brOfRat p a b))
  rw [Real.exp_sub, mul_comm (ln2Multiple p (brOfRat p a b) : ℝ), Real.exp_mul, Real.exp_log (by norm_num), Real.rpow_natCast,
    div_mul_cancel₀ _ (by positivity)] at h
  rw [expRat_eq]
  exact h

/-! log2 of a significand. -/

/-- A quotient of brackets. -/
def ratioBracket (p : Nat) (m l : Bracket) : Bracket := ⟨m.lo * 2 ^ p / l.hi, m.hi * 2 ^ p / l.lo + 1⟩

theorem log2Mant_eq (p a b : Nat) : log2Mant p a b = ratioBracket p (lnRat p a b) (ln2 p) := rfl
section
variable {p : Nat} {m l : Bracket} {v c : ℝ} (hm : Encloses p m v) (hl : Encloses p l c) (hlo : (0.69 : ℝ) * 2 ^ p ≤ l.lo)
include hm hl

/-- The cross product by which the ends differ. -/
theorem ratioBracket_cross (hhi : (l.hi : ℝ) ≤ 0.7 * 2 ^ p) (hvc : v ≤ c) (hmw : width m ≤ 2 ^ 21) (hlw : width l ≤ 2 ^ 21) :
    (m.hi : ℝ) * l.hi - m.lo * l.lo ≤ 2 ^ 21 * (1.4 * 2 ^ p) := by
  have hmlo : (m.lo : ℝ) ≤ 0.7 * 2 ^ p := by linarith [hm.low, hl.high, mul_le_mul_of_nonneg_right hvc (by positivity : (0 : ℝ) ≤ 2 ^ p)]
  have g2 : width m * l.hi ≤ 2 ^ 21 * (0.7 * 2 ^ p) := mul_le_mul hmw hhi (Nat.cast_nonneg _) (by norm_num)
  have g3 : (m.lo : ℝ) * width l ≤ 0.7 * 2 ^ p * 2 ^ 21 := mul_le_mul hmlo hlw hl.width_nonneg (by positivity)
  calc (m.hi : ℝ) * l.hi - m.lo * l.lo = width m * l.hi + m.lo * width l := by rw [width, width]; ring
    _ ≤ _ := by linarith
include hlo

theorem ratioBracket_encloses (hv : 0 ≤ v) (hc : 0 < c) : Encloses p (ratioBracket p m l) (v / c) := by
  have hP : (0 : ℝ) < 2 ^ p := by positivity
  have hl1 : (0 : ℝ) < l.lo := by linarith
  have hl2 : (0 : ℝ) < l.hi := by linarith [hl.low, hl.high]
  refine ⟨natDiv_le_of_le (by exact_mod_cast hl2) ?_, le_natDiv_succ_of_le (by exact_mod_cast hl1) ?_⟩
  · push_cast
    calc (m.lo : ℝ) * 2 ^ p ≤ v * 2 ^ p * 2 ^ p := mul_le_mul_of_nonneg_right hm.low hP.le
      _ = v / c * 2 ^ p * (c * 2 ^ p) := by field_simp
      _ ≤ _ := mul_le_mul_of_nonneg_left hl.high (by positivity)
  · push_cast
    calc v / c * 2 ^ p * l.lo ≤ v / c * 2 ^ p * (c * 2 ^ p) := mul_le_mul_of_nonneg_left hl.low (by positivity)
      _ = v * 2 ^ p * 2 ^ p := by field_simp
      _ ≤ _ := mul_le_mul_of_nonneg_right hm.high hP.le

theorem width_ratioBracket (hhi : (l.hi : ℝ) ≤ 0.7 * 2 ^ p) (hvc : v ≤ c) (hmw : width m ≤ 2 ^ 21) (hlw : width l ≤ 2 ^ 21) :
    width (ratioBracket p m l) ≤ 2 ^ 24 := by
  have hP : (0 : ℝ) < 2 ^ p := by positivity
  have hl1 : (0 : ℝ) < l.lo := by linarith
  have hl2 : (0.69 : ℝ) * 2 ^ p ≤ l.hi := by linarith [hl.low, hl.high]
  have hl3 : (0 : ℝ) < l.hi := by linarith
  have e1 := div_lt_natDiv_succ (m.lo * 2 ^ p) (B := l.hi) (by exact_mod_cast hl3)
  have e2 : ((m.hi * 2 ^ p / l.lo : ℕ) : ℝ) ≤ (m.hi * 2 ^ p : ℕ) / l.lo := Nat.cast_div_le
  have e3 : (m.hi * 2 ^ p / l.lo : ℝ) - m.lo * 2 ^ p / l.hi ≤ 2 ^ 23 := by
    rw [div_sub_div _ _ hl1.ne' hl3.ne', div_le_iff₀ (by positivity)]
    calc (m.hi : ℝ) * 2 ^ p * l.hi - l.lo * (m.lo * 2 ^ p) = (m.hi * l.hi - m.lo * l.lo) * 2 ^ p := by ring
      _ ≤ 2 ^ 21 * (1.4 * 2 ^ p) * 2 ^ p := mul_le_mul_of_nonneg_right (ratioBracket_cross hm hl hhi hvc hmw hlw) hP.le
      _ ≤ 2 ^ 23 * ((0.69 * 2 ^ p) * (0.69 * 2 ^ p)) := by nlinarith [mul_pos hP hP]
      _ ≤ _ := mul_le_mul_of_nonneg_left (mul_le_mul hlo hl2 (by positivity) hl1.le) (by norm_num)
  rw [width, ratioBracket]
  push_cast at e1 e2 ⊢
  linarith
end

/-- log2 of a quotient between 1 and 2: enclosed, each end to within 2^24 units. -/
theorem log2Mant_spec {p a b : Nat} (hp : p ∈ precisions) (hb : 0 < b) (h1 : b ≤ a) (h2 : a ≤ 2 * b) :
    Encloses p (log2Mant p a b) (Real.logb 2 (a / b)) ∧ width (log2Mant p a b) ≤ 2 ^ 24 := by
  obtain ⟨hm, hmw⟩ := lnRat_spec hp hb h1 h2
  obtain ⟨hl, hlw⟩ := ln2_spec hp
  obtain ⟨hlo, hhi, -⟩ := ln2_bounds hp
  have hb' : (0 : ℝ) < b := by exact_mod_cast hb
  have hone : (1 : ℝ) ≤ a / b := (one_le_div₀ hb').mpr (by exact_mod_cast h1)
  have htwo : Real.log (a / b) ≤ Real.log 2 := Real.log_le_log (by linarith) ((div_le_iff₀ hb').mpr (by exact_mod_cast h2))
  rw [log2Mant_eq, Real.logb]
  exact ⟨ratioBracket_encloses hm hl hlo (Real.log_nonneg hone) (Real.log_pos (by norm_num)),
    width_ratioBracket hm hl hlo hhi htwo hmw hlw⟩

end Sys2Proof.Machine

namespace Sys2Proof.Machine
open Sys2Proof Sys2Proof.Claims

/-! The table of special values (R131), the change of sign, and the results that are not settled by brackets. -/

theorem f32_nan_of_exp {x : W32} (he : expOf x = 255) (hf : fracOf x ≠ 0) : f32 x = .nan := by rw [f32_ones he, if_neg hf]

/-- A function of the operand's value has its table where it gives these results. -/
theorem tableHolds_of {F : SpecialForm} {g : W32 → W32} (hnan : ∀ x, f32 x = .nan → g x = 0x7FC00000#32)
    (hninf : g 0xFF800000#32 = F.ninf) (hpinf : g 0x7F800000#32 = F.pinf) (hnzero : g 0x80000000#32 = F.nzero) (hpzero : g 0#32 = F.pzero)
    (hneg : F.noNeg = true → ∀ x a b, f32 x = .fin true a b → g x = 0x7FC00000#32) : TableHolds F g := by
  refine ⟨fun x he hf => hnan x (f32_nan_of_exp he hf), hninf, hpinf, hnzero, hpzero, fun hF x he hx h0 => ?_⟩
  obtain ⟨a, b, hf, -⟩ := f32_ordinary he (fun hc => by rw [hc] at hx; exact absurd hx (by decide)) h0
  exact hneg hF x a b (by rw [hf, hx])

theorem two_pow_xor {m : Nat} (h : m < 2 ^ 31) : m ^^^ 2 ^ 31 = 2 ^ 31 + m := by
  apply Nat.eq_of_testBit_eq
  intro i
  rw [Nat.testBit_xor, Nat.testBit_two_pow]
  rcases lt_trichotomy i 31 with hi | rfl | hi
  · rw [Nat.testBit_two_pow_add_gt hi, decide_eq_false (by omega), Bool.xor_false]
  · rw [Nat.testBit_two_pow_add_eq, decide_eq_true rfl, Bool.xor_true]
  · rw [decide_eq_false (by omega), Bool.xor_false, Nat.testBit_lt_two_pow (h.trans (Nat.pow_lt_pow_right (by norm_num) hi)),
      Nat.testBit_lt_two_pow (lt_of_lt_of_le (by omega : 2 ^ 31 + m < 2 ^ 32) (Nat.pow_le_pow_right (by norm_num) hi))]

theorem signedWord_not (n : Bool) {m : Nat} (h : m < 2 ^ 31) : signedWord (!n) m = signedWord n m ^^^ 0x80000000#32 := by
  have hfalse : signedWord true m = signedWord false m ^^^ 0x80000000#32 := by
    apply BitVec.eq_of_toNat_eq
    rw [BitVec.toNat_xor, toNat_signedWord _ h, toNat_signedWord _ h]
    show 1 * 2 ^ 31 + m = (0 * 2 ^ 31 + m) ^^^ 2 ^ 31
    rw [Nat.zero_mul, Nat.zero_add, two_pow_xor h, Nat.one_mul]
  cases n
  · exact hfalse
  · rw [hfalse, BitVec.xor_assoc, BitVec.xor_self, BitVec.xor_zero]; rfl

theorem negative_flip (x : W32) : negative (x ^^^ 0x80000000#32) = !negative x := by
  obtain ⟨n, m, hm, rfl⟩ := exists_signedWord x
  rw [← signedWord_not n hm, negative_signedWord _ hm, negative_signedWord _ hm]

theorem magOf_flip (x : W32) : magOf (x ^^^ 0x80000000#32) = magOf x := by
  obtain ⟨n, m, hm, rfl⟩ := exists_signedWord x
  rw [← signedWord_not n hm, magOf_signedWord _ hm, magOf_signedWord _ hm]

theorem exScale_not {n : Bool} {num den a b : Nat} {k : Int} (h : exScale n num den k = .fin n a b) :
    exScale (!n) num den k = .fin (!n) a b := by
  unfold exScale at *
  split_ifs at * <;> simp_all

theorem f32_flip {x : W32} {a b : Nat} (h : f32 x = .fin (negative x) a b) : f32 (x ^^^ 0x80000000#32) = .fin (!negative x) a b := by
  rw [f32_eq] at *
  rw [expOf_eq, fracOf_eq] at *
  rw [magOf_flip, negative_flip]
  split_ifs at * with h1 h2 h3
  · exact exScale_not h
  · exact exScale_not h

theorem toF32_rne_not (n : Bool) {a : Nat} (b : Nat) (ha : 0 < a) :
    toF32 .rne (.fin (!n) a b) = toF32 .rne (.fin n a b) ^^^ 0x80000000#32 := by
  rw [toF32_rne _ b ha, toF32_rne _ b ha, signedWord_not n (roundedMag_lt a b)]

/-- At most half a unit rounds to zero. -/
theorem roundsMag_zero_of_le {y : ℝ} (h : y * 2 ^ 150 ≤ 1) : RoundsMag (y * 2 ^ 149) 0 :=
  ⟨by decide, fun _ => by rw [show gridMid 0 = 1 from rfl, Nat.cast_one]; linarith, fun _ _ => rfl, fun _ h => absurd h (by omega),
    fun _ h => absurd h (by omega)⟩

/-- From the middle below 2^128 on stands infinity. -/
theorem roundsMag_inf {y : ℝ} (h : 2 ^ 128 ≤ y) : RoundsMag (y * 2 ^ 149) infMag := by
  refine ⟨le_rfl, fun h => absurd h (lt_irrefl _), fun h => absurd h (lt_irrefl _), fun k hk => ?_, fun _ _ _ => rfl⟩
  rw [show k = infMag - 1 by omega, gridMid_inf]
  linarith

/-- The numbers that round to 1. -/
theorem roundsMag_one {y : ℝ} (h1 : (1 - 2 ^ (-25 : ℤ) : ℝ) < y) (h2 : y < 1) : RoundsMag (y * 2 ^ 149) 0x3F800000 := by
  have habove : 2 * (y * 2 ^ 149) < gridMid 0x3F800000 := by
    rw [show gridMid 0x3F800000 = 2 ^ 150 + 2 ^ 126 by decide]
    push_cast
    linarith
  have hbelow : (gridMid 0x3F7FFFFF : ℝ) < 2 * (y * 2 ^ 149) := by
    rw [show gridMid 0x3F7FFFFF = 2 ^ 150 - 2 ^ 125 by decide]
    norm_num at h1 ⊢
    linarith
  exact ⟨by decide, fun _ => habove.le, fun _ e => absurd e habove.ne, fun k hk => by rw [show k = 0x3F7FFFFF by omega]; exact hbelow.le,
    fun _ _ _ => rfl⟩

/-! RCP (R130 to R132). -/

theorem rcpF32_fin {x : W32} {n : Bool} {a b : Nat} (h : f32 x = .fin n a b) : rcpF32 x = toF32 .rne (.fin n b a) := by rw [rcpF32, h]

theorem rcp_table : TableHolds rcpForm rcpF32 :=
  tableHolds_of (fun x h => by rw [rcpF32, h]; rfl) (by decide) (by decide) (by decide) (by decide) (fun h => absurd h (by simp [rcpForm]))

theorem rcp_rounds {x : W32} (h : Ordinary rcpForm x) : RoundsTo (rcpForm.fn (realOf x)) (rcpF32 x) := by
  obtain ⟨a, b, hf, ha, hb, hr⟩ := ordinary_f32 h
  have e : rcpForm.fn (realOf x) = signOf (negative x) * (b / a) := by
    show 1 / realOf x = _
    rw [hr, one_div, mul_inv, inv_div]
    cases negative x <;> norm_num
  rw [e, rcpF32_fin hf]
  exact roundsTo_toF32 _ hb ha

theorem rcp_odd {x : W32} (h : Ordinary rcpForm x) : rcpF32 (x ^^^ 0x80000000#32) = rcpF32 x ^^^ 0x80000000#32 := by
  obtain ⟨a, b, hf, ha, hb, -⟩ := ordinary_f32 h
  rw [rcpF32_fin hf, rcpF32_fin (f32_flip hf), toF32_rne_not _ a hb]

/-! RSQ. -/

/-- The square root by bits, rounded down, of a number whose root has at most the bits still to find beyond those found. -/
theorem sqrtBits_spec : ∀ (i r n : Nat), r * r ≤ n → n < (r + 2 ^ i) * (r + 2 ^ i) →
    sqrtBits i r n * sqrtBits i r n ≤ n ∧ n < (sqrtBits i r n + 1) * (sqrtBits i r n + 1)
  | 0, _, _, h1, h2 => ⟨h1, h2⟩
  | i + 1, r, n, h1, h2 => by
    rw [sqrtBits]
    split
    · next h => exact sqrtBits_spec i _ n h (by rwa [add_assoc, ← two_mul, mul_comm 2, ← pow_succ])
    · next h => exact sqrtBits_spec i _ n h1 (not_le.mp h)

theorem rsqF32_fin {x : W32} {a b : Nat} (h : f32 x = .fin false a b) : rsqF32 x =
    if sqrtBits 240 0 (b * 2 ^ 320 / a) * sqrtBits 240 0 (b * 2 ^ 320 / a) * a = b * 2 ^ 320 then
      toF32 .rne (.fin false (sqrtBits 240 0 (b * 2 ^ 320 / a)) (2 ^ 160))
    else toF32 .rne (.fin false (2 * sqrtBits 240 0 (b * 2 ^ 320 / a) + 1) (2 ^ 161)) := by rw [rsqF32, h]

theorem rsq_table : TableHolds rsqForm rsqF32 :=
  tableHolds_of (fun x h => by rw [rsqF32, h]; rfl) (by decide) (by decide) (by decide) (by decide) (fun _ x a b h => by rw [rsqF32, h]; rfl)

/-- The root of a quotient at least 2^−149, in units of 2^−160: the bits found, or between them and the next. -/
theorem sqrtBits_bounds {a b : Nat} (ha : 0 < a) (hab : b ≤ a * 2 ^ 149) :
    (sqrtBits 240 0 (b * 2 ^ 320 / a) : ℝ) ≤ Real.sqrt (b / a) * 2 ^ 160 ∧
    Real.sqrt (b / a) * 2 ^ 160 < sqrtBits 240 0 (b * 2 ^ 320 / a) + 1 ∧
    (sqrtBits 240 0 (b * 2 ^ 320 / a) = Real.sqrt (b / a) * 2 ^ 160 ↔
      sqrtBits 240 0 (b * 2 ^ 320 / a) * sqrtBits 240 0 (b * 2 ^ 320 / a) * a = b * 2 ^ 320) := by
  have h320 : 2 ^ 320 = 2 ^ 80 * 2 ^ 240 := by rw [← pow_add]
  have hN : b * 2 ^ 320 / a < (0 + 2 ^ 240) * (0 + 2 ^ 240) := by
    rw [Nat.div_lt_iff_lt_mul ha]
    calc b * 2 ^ 320 ≤ a * 2 ^ 149 * 2 ^ 320 := Nat.mul_le_mul_right _ hab
      _ = 2 ^ 149 * 2 ^ 80 * 2 ^ 240 * a := by rw [h320]; ring
      _ < _ := by
        rw [Nat.zero_add]
        exact Nat.mul_lt_mul_of_pos_right (Nat.mul_lt_mul_of_pos_right (by norm_num) (by positivity)) ha
  obtain ⟨h1, h2⟩ := sqrtBits_spec 240 0 (b * 2 ^ 320 / a) (Nat.zero_le _) hN
  generalize sqrtBits 240 0 (b * 2 ^ 320 / a) = s at *
  rw [Nat.le_div_iff_mul_le ha] at h1
  rw [Nat.div_lt_iff_lt_mul ha] at h2
  have ha' : (0 : ℝ) < a := by exact_mod_cast ha
  have e : Real.sqrt (b / a) * 2 ^ 160 = Real.sqrt (b * 2 ^ 320 / a) := by
    rw [show (b * 2 ^ 320 / a : ℝ) = b / a * (2 ^ 160) ^ 2 by rw [← pow_mul, mul_div_right_comm], Real.sqrt_mul (by positivity),
      Real.sqrt_sq (by positivity)]
  rw [e]
  refine ⟨Real.le_sqrt_of_sq_le ?_, (Real.sqrt_lt' (by positivity)).mpr ?_, ?_⟩
  · rw [le_div_iff₀ ha', pow_two]
    exact_mod_cast h1
  · rw [div_lt_iff₀ ha', pow_two]
    exact_mod_cast h2
  · rw [eq_comm, Real.sqrt_eq_iff_mul_self_eq (by positivity) (by positivity), eq_comm, eq_div_iff ha'.ne']
    exact_mod_cast Iff.rfl

theorem rsq_rounds {x : W32} (h : Ordinary rsqForm x) : RoundsTo (rsqForm.fn (realOf x)) (rsqF32 x) := by
  obtain ⟨he, h0, h1, hneg⟩ := h
  obtain ⟨a, b, hf, ha, hb, hr, hab⟩ := f32_ordinary he h0 h1
  rw [hneg rfl] at hf hr
  rw [signOf_false, one_mul] at hr
  have e : rsqForm.fn (realOf x) = Real.sqrt (b / a) := by
    show 1 / Real.sqrt (realOf x) = _
    rw [hr, one_div, ← Real.sqrt_inv, inv_div]
  have hmag : 0 < gridUnits (magOf x) := Nat.pos_of_ne_zero fun hc => by rw [hc] at hab; simp at hab; omega
  obtain ⟨hle, hlt, hiff⟩ := sqrtBits_bounds ha (b := b) (by rw [hab]; exact Nat.le_mul_of_pos_left b hmag)
  rw [e, rsqF32_fin hf]
  have hpos : 0 < Real.sqrt (b / a) := Real.sqrt_pos.mpr (div_pos (by exact_mod_cast hb) (by exact_mod_cast ha))
  generalize sqrtBits 240 0 (b * 2 ^ 320 / a) = s at *
  generalize Real.sqrt (b / a) = y at *
  split
  · next hs =>
    have hy : y = s / 2 ^ 160 := by rw [eq_div_iff (by positivity)]; exact (hiff.mpr hs).symm
    have hs0 : 0 < s := Nat.pos_of_ne_zero fun hc => by rw [hc, Nat.cast_zero, zero_div] at hy; exact hpos.ne' hy
    have := roundsTo_toF32 false hs0 (b := 2 ^ 160) (by positivity)
    rwa [signOf_false, one_mul, Nat.cast_pow, Nat.cast_ofNat, ← hy] at this
  · next hs =>
    have hne : (s : ℝ) < y * 2 ^ 160 := lt_of_le_of_ne hle (mt hiff.mp hs)
    rw [toF32_rne _ _ (Nat.succ_pos _)]
    have hm := roundsMag_roundedMag (2 * s + 1) (b := 2 ^ 161) (by positivity)
    have hm' : RoundsMag (y * 2 ^ 149) (roundedMag (2 * s + 1) (2 ^ 161)) := by
      refine hm.of_same_interval (s := s) (d := 2 ^ 10) (by positivity) ?_ ?_ ?_ ?_ <;> push_cast <;> linarith
    simpa using hm'.roundsTo false hpos.le (fun h => absurd h (by decide))

end Sys2Proof.Machine

namespace Sys2Proof.Machine
open Sys2Proof Sys2Proof.Claims

/-! Brackets of the results of the exponential functions, from the ends of brackets of e^y or 2^y. -/

/-- The ends of a bracket at p fraction bits. -/
noncomputable def lowEnd (p : Nat) (b : Bracket) : ℝ := b.lo / 2 ^ p
noncomputable def highEnd (p : Nat) (b : Bracket) : ℝ := b.hi / 2 ^ p

/-- Ends at least one around a number, the upper one within a relative distance. -/
structure EndsAround (l E h η : ℝ) : Prop where
  one : 1 ≤ l
  low : l ≤ E
  high : E ≤ h
  near : h - l ≤ η * l
section
variable {l E h η : ℝ}

theorem EndsAround.nonneg (H : EndsAround l E h η) : 0 ≤ η := by
  obtain ⟨h1, h2, h3, h4⟩ := H
  by_contra hc
  nlinarith

/-- By what the lower end is below: of E, of 1/E, of E/(E + 1), of 1/(1 + E), of (E − 1)/(E + 1). -/
theorem EndsAround.self_close (H : EndsAround l E h η) : E - l ≤ η * E := by
  have h0 := H.nonneg
  obtain ⟨h1, h2, h3, h4⟩ := H
  nlinarith

theorem EndsAround.inv_close (H : EndsAround l E h η) : E⁻¹ - h⁻¹ ≤ η * E⁻¹ := by
  have h0 := H.nonneg
  obtain ⟨h1, h2, h3, h4⟩ := H
  have hE : 0 < E := by linarith
  have hh : 0 < h := by linarith
  rw [inv_sub_inv hE.ne' hh.ne', ← div_eq_mul_inv, div_le_div_iff₀ (by positivity) hE]
  have : h - E ≤ η * h := by nlinarith
  nlinarith [mul_le_mul_of_nonneg_right this hE.le]

theorem EndsAround.ratio_close (H : EndsAround l E h η) : E / (E + 1) - l / (l + 1) ≤ η * (E / (E + 1)) := by
  have h0 := H.nonneg
  obtain ⟨h1, h2, h3, h4⟩ := H
  have hE : 0 < E + 1 := by linarith
  have hl : 0 < l + 1 := by linarith
  rw [div_sub_div _ _ hE.ne' hl.ne', ← mul_div_assoc, div_le_div_iff₀ (by positivity) hE]
  have : E - l ≤ η * E * (l + 1) := by nlinarith [mul_nonneg h0 (by linarith : 0 ≤ E)]
  nlinarith [mul_le_mul_of_nonneg_right this hE.le]

theorem EndsAround.succ (H : EndsAround l E h η) : EndsAround (1 + l) (1 + E) (1 + h) η := by
  have h0 := H.nonneg
  obtain ⟨h1, h2, h3, h4⟩ := H
  exact ⟨by linarith, by linarith, by linarith, by nlinarith⟩

theorem EndsAround.tanh_close (H : EndsAround l E h η) : (E - 1) / (E + 1) - (l - 1) / (l + 1) ≤ η := by
  have h0 := H.nonneg
  obtain ⟨h1, h2, h3, h4⟩ := H
  have hE : 0 < E + 1 := by linarith
  have hl : 0 < l + 1 := by linarith
  rw [div_sub_div _ _ hE.ne' hl.ne', div_le_iff₀ (by positivity)]
  nlinarith [mul_nonneg h0 (by linarith : 0 ≤ l)]

theorem tanh_form_mono {x y : ℝ} (hx : 1 ≤ x) (hxy : x ≤ y) : (x - 1) / (x + 1) ≤ (y - 1) / (y + 1) := by
  rw [div_le_div_iff₀ (by linarith) (by linarith)]
  nlinarith

theorem ratio_mono {x y : ℝ} (hx : 1 ≤ x) (hxy : x ≤ y) : x / (x + 1) ≤ y / (y + 1) := by
  rw [div_le_div_iff₀ (by linarith) (by linarith)]
  nlinarith
end

theorem ExpBracket.lo_pos {p : Nat} {b : Bracket} {E : ℝ} (h : ExpBracket p b E) : 0 < b.lo := lt_of_lt_of_le (by positivity) h.one

theorem ExpBracket.hi_pos {p : Nat} {b : Bracket} {E : ℝ} (h : ExpBracket p b E) : 0 < b.hi := by
  have h1 : (b.lo : ℝ) ≤ b.hi := h.encl.low.trans h.encl.high
  exact h.lo_pos.trans_le (by exact_mod_cast h1)

theorem ExpBracket.ends {p : Nat} {b : Bracket} {E : ℝ} (h : ExpBracket p b E) :
    1 ≤ lowEnd p b ∧ lowEnd p b ≤ E ∧ E ≤ highEnd p b := by
  have hP : (0 : ℝ) < 2 ^ p := by positivity
  exact ⟨(one_le_div₀ hP).mpr (by exact_mod_cast h.one), (div_le_iff₀ hP).mpr h.encl.low, (le_div_iff₀ hP).mpr h.encl.high⟩

theorem ExpBracket.endsAround {b : Bracket} {E : ℝ} (h : ExpBracket 1024 b E) :
    EndsAround (lowEnd 1024 b) E (highEnd 1024 b) (2 ^ (-930 : ℤ)) := by
  obtain ⟨h1, h2, h3⟩ := h.ends
  refine ⟨h1, h2, h3, ?_⟩
  rw [lowEnd, highEnd, ← sub_div, ← mul_div_assoc]
  exact div_le_div_of_nonneg_right (h.close rfl) (by positivity)

theorem two_zpow_930_le : (2 : ℝ) ^ (-930 : ℤ) ≤ 2 ^ (-900 : ℤ) := zpow_le_zpow_right₀ (by norm_num) (by norm_num)
section
variable {E : ℝ} {e : Nat → Bracket} (h : ∀ p ∈ precisions, ExpBracket p (e p) E)
include h

/-- E itself. -/
theorem brackets_self : Brackets E (fun p => (e p).lo) (fun p => 2 ^ p) (fun p => (e p).hi) (fun p => 2 ^ p) := by
  have hl : ∀ p, ((e p).lo / (2 ^ p : ℕ) : ℝ) = lowEnd p (e p) := fun p => by rw [lowEnd, Nat.cast_pow, Nat.cast_ofNat]
  have hh : ∀ p, ((e p).hi / (2 ^ p : ℕ) : ℝ) = highEnd p (e p) := fun p => by rw [highEnd, Nat.cast_pow, Nat.cast_ofNat]
  have H := (h 1024 (by decide)).endsAround
  have hE : 0 < E := by linarith [H.one, H.low]
  refine ⟨hE, fun p _ => ⟨by positivity, by positivity⟩, fun p hp => (hl p).trans_le (h p hp).ends.2.1,
    fun p hp => (h p hp).ends.2.2.trans_eq (hh p).symm, ?_⟩
  rw [hl]
  exact H.self_close.trans (mul_le_mul_of_nonneg_right two_zpow_930_le hE.le)

/-- 1 / E. -/
theorem brackets_inv : Brackets E⁻¹ (fun p => 2 ^ p) (fun p => (e p).hi) (fun p => 2 ^ p) (fun p => (e p).lo) := by
  have hl : ∀ p, ((2 ^ p : ℕ) / (e p).lo : ℝ) = (lowEnd p (e p))⁻¹ := fun p => by rw [lowEnd, inv_div, Nat.cast_pow, Nat.cast_ofNat]
  have hh : ∀ p, ((2 ^ p : ℕ) / (e p).hi : ℝ) = (highEnd p (e p))⁻¹ := fun p => by rw [highEnd, inv_div, Nat.cast_pow, Nat.cast_ofNat]
  have H := (h 1024 (by decide)).endsAround
  have hE : 0 < E := by linarith [H.one, H.low]
  refine ⟨inv_pos.mpr hE, fun p hp => ⟨(h p hp).hi_pos, (h p hp).lo_pos⟩, fun p hp => ?_, fun p hp => ?_, ?_⟩
  · rw [hh]
    exact inv_anti₀ hE (h p hp).ends.2.2
  · obtain ⟨h1, h2, -⟩ := (h p hp).ends
    rw [hl]
    exact inv_anti₀ (by linarith) h2
  · rw [hh]
    exact H.inv_close.trans (mul_le_mul_of_nonneg_right two_zpow_930_le (inv_pos.mpr hE).le)

/-- E / (E + 1). -/
theorem brackets_ratio : Brackets (E / (E + 1)) (fun p => (e p).lo) (fun p => (e p).lo + 2 ^ p) (fun p => (e p).hi) (fun p => (e p).hi + 2 ^ p) := by
  have hl : ∀ p, ((e p).lo / ((e p).lo + 2 ^ p : ℕ) : ℝ) = lowEnd p (e p) / (lowEnd p (e p) + 1) := fun p => by
    rw [lowEnd]; push_cast; field_simp
  have hh : ∀ p, ((e p).hi / ((e p).hi + 2 ^ p : ℕ) : ℝ) = highEnd p (e p) / (highEnd p (e p) + 1) := fun p => by
    rw [highEnd]; push_cast; field_simp
  have H := (h 1024 (by decide)).endsAround
  have hE : 1 ≤ E := H.one.trans H.low
  refine ⟨by positivity, fun p _ => ⟨by positivity, by positivity⟩, fun p hp => ?_, fun p hp => ?_, ?_⟩
  · obtain ⟨h1, h2, -⟩ := (h p hp).ends
    rw [hl]
    exact ratio_mono h1 h2
  · rw [hh]
    exact ratio_mono hE (h p hp).ends.2.2
  · rw [hl]
    exact H.ratio_close.trans (mul_le_mul_of_nonneg_right two_zpow_930_le (by positivity))

/-- 1 / (1 + E). -/
theorem brackets_inv_succ : Brackets (1 + E)⁻¹ (fun p => 2 ^ p) (fun p => 2 ^ p + (e p).hi) (fun p => 2 ^ p) (fun p => 2 ^ p + (e p).lo) := by
  have hl : ∀ p, ((2 ^ p : ℕ) / (2 ^ p + (e p).lo : ℕ) : ℝ) = (1 + lowEnd p (e p))⁻¹ := fun p => by
    rw [lowEnd]; push_cast; field_simp
  have hh : ∀ p, ((2 ^ p : ℕ) / (2 ^ p + (e p).hi : ℕ) : ℝ) = (1 + highEnd p (e p))⁻¹ := fun p => by
    rw [highEnd]; push_cast; field_simp
  have H := (h 1024 (by decide)).endsAround
  have hE : 1 ≤ E := H.one.trans H.low
  refine ⟨by positivity, fun p _ => ⟨by positivity, by positivity⟩, fun p hp => ?_, fun p hp => ?_, ?_⟩
  · rw [hh]
    exact inv_anti₀ (by linarith) (by linarith [(h p hp).ends.2.2])
  · obtain ⟨h1, h2, -⟩ := (h p hp).ends
    rw [hl]
    exact inv_anti₀ (by linarith) (by linarith)
  · rw [hh]
    exact H.succ.inv_close.trans (mul_le_mul_of_nonneg_right two_zpow_930_le (by positivity))

/-- (E − 1) / (E + 1), where that is not too small. -/
theorem brackets_tanh (hmin : (2 : ℝ) ^ (-30 : ℤ) ≤ (E - 1) / (E + 1)) : Brackets ((E - 1) / (E + 1)) (fun p => (e p).lo - 2 ^ p)
    (fun p => (e p).lo + 2 ^ p) (fun p => (e p).hi - 2 ^ p) (fun p => (e p).hi + 2 ^ p) := by
  have hl : ∀ p ∈ precisions, (((e p).lo - 2 ^ p : ℕ) / ((e p).lo + 2 ^ p : ℕ) : ℝ) = (lowEnd p (e p) - 1) / (lowEnd p (e p) + 1) :=
    fun p hp => by rw [lowEnd]; push_cast [(h p hp).one]; field_simp
  have hh : ∀ p ∈ precisions, (((e p).hi - 2 ^ p : ℕ) / ((e p).hi + 2 ^ p : ℕ) : ℝ) = (highEnd p (e p) - 1) / (highEnd p (e p) + 1) := by
    intro p hp
    have h1 : (e p).lo ≤ (e p).hi := by exact_mod_cast (h p hp).encl.low.trans (h p hp).encl.high
    rw [highEnd]
    push_cast [(h p hp).one.trans h1]
    field_simp
  have H := (h 1024 (by decide)).endsAround
  have hE : 1 ≤ E := H.one.trans H.low
  refine ⟨lt_of_lt_of_le (by positivity) hmin, fun p _ => ⟨by positivity, by positivity⟩, fun p hp => ?_, fun p hp => ?_, ?_⟩
  · obtain ⟨h1, h2, -⟩ := (h p hp).ends
    rw [hl p hp]
    exact tanh_form_mono h1 h2
  · rw [hh p hp]
    exact tanh_form_mono hE (h p hp).ends.2.2
  · rw [hl 1024 (by decide)]
    calc _ ≤ (2 : ℝ) ^ (-930 : ℤ) := H.tanh_close
      _ = 2 ^ (-900 : ℤ) * 2 ^ (-30 : ℤ) := by rw [← zpow_add₀ (by norm_num)]; norm_num
      _ ≤ _ := mul_le_mul_of_nonneg_left hmin (by positivity)
end

end Sys2Proof.Machine

namespace Sys2Proof.Machine
open Sys2Proof Sys2Proof.Claims

/-- What an ordinary operand is at least and below, from its quotient. -/
theorem quot_le_iff {a b : Nat} (hb : 0 < b) (c d : Nat) (hd : 0 < d) : c * b ≤ d * a ↔ (c / d : ℝ) ≤ a / b := by
  rw [div_le_div_iff₀ (by exact_mod_cast hd) (by exact_mod_cast hb), mul_comm (a : ℝ)]
  exact_mod_cast Iff.rfl

theorem nat_le_quot_iff {a b : Nat} (hb : 0 < b) (c : Nat) : c * b ≤ a ↔ (c : ℝ) ≤ a / b := by
  simpa using quot_le_iff (a := a) hb c 1 Nat.one_pos

/-! EX2 (R130 to R132). -/

theorem exPow2_eq (k : Int) : ∃ a b, exPow2 k = .fin false a b ∧ 0 < a ∧ 0 < b ∧ (a / b : ℝ) = 2 ^ k := by
  rw [exPow2, exScale, if_neg Nat.one_ne_zero]
  split
  · next h =>
    refine ⟨_, _, rfl, by positivity, Nat.one_pos, ?_⟩
    rw [Nat.one_mul, Nat.cast_one, div_one, Nat.cast_pow, Nat.cast_ofNat, ← zpow_natCast, Int.toNat_of_nonneg h]
  · next h =>
    refine ⟨_, _, rfl, Nat.one_pos, by positivity, ?_⟩
    rw [Nat.one_mul, Nat.cast_one, Nat.cast_pow, Nat.cast_ofNat, one_div, ← zpow_natCast, ← zpow_neg, Int.toNat_of_nonneg (by omega), neg_neg]

theorem signedNum_cast (n : Bool) (a : Nat) : ((signedNum n a : ℤ) : ℝ) = signOf n * a := by cases n <;> simp [signedNum]

theorem ex2F32_fin {x : W32} {n : Bool} {a b : Nat} (h : f32 x = .fin n a b) : ex2F32 x =
    if n ∧ 150 * b ≤ a then 0#32
    else if !n ∧ 128 * b ≤ a then toF32 .rne (.inf false)
    else if a % b = 0 then toF32 .rne (exPow2 (signedNum n (a / b)))
    else
      settle (fun p =>
        let e := exp2Rat p a b
        if n then roundEnds false (2 ^ p) e.hi (2 ^ p) e.lo else roundEnds false e.lo (2 ^ p) e.hi (2 ^ p)) := by
  rw [ex2F32, h]

theorem ex2_table : TableHolds ex2Form ex2F32 :=
  tableHolds_of (fun x h => by rw [ex2F32, h]; rfl) (by decide) (by decide) (by decide) (by decide) (fun h => absurd h (by simp [ex2Form]))

/-- 2^x of x an integer is rounded from itself. -/
theorem ex2_integer {n : Bool} {a b : Nat} (hb : 0 < b) (h : a % b = 0) :
    RoundsTo ((2 : ℝ) ^ (signOf n * (a / b))) (toF32 .rne (exPow2 (signedNum n (a / b)))) := by
  obtain ⟨c, d, hcd, hc, hd, hv⟩ := exPow2_eq (signedNum n (a / b))
  have e : (2 : ℝ) ^ (signOf n * (a / b)) = c / d := by
    rw [hv, ← Real.rpow_intCast, signedNum_cast, Nat.cast_div (Nat.dvd_of_mod_eq_zero h) (by exact_mod_cast hb.ne')]
  rw [hcd, e]
  simpa using roundsTo_toF32 false hc hd

theorem ex2_nearlyRounded {x : W32} (hx : Ordinary ex2Form x) : NearlyRounded (ex2Form.fn (realOf x)) (ex2F32 x) := by
  obtain ⟨a, b, hf, ha, hb, hr⟩ := ordinary_f32 hx
  rw [ex2F32_fin hf, show ex2Form.fn (realOf x) = (2 : ℝ) ^ realOf x from rfl, hr]
  have hpos : (0 : ℝ) < 2 ^ (signOf (negative x) * (a / b) : ℝ) := by positivity
  generalize negative x = n at *
  split
  · next h =>
    rw [h.1, signOf_true, neg_one_mul] at hpos ⊢
    have h150 := (nat_le_quot_iff hb 150).mp h.2
    have hle : (2 : ℝ) ^ (-(a / b) : ℝ) * 2 ^ 150 ≤ 1 := by
      rw [← Real.rpow_natCast 2 150, ← Real.rpow_add (by norm_num)]
      exact Real.rpow_le_one_of_one_le_of_nonpos (by norm_num) (by push_cast at h150 ⊢; linarith)
    exact (roundsMag_zero_of_le hle).nearlyRounded_pos hpos
  split
  · next h =>
    have hn : n = false := by simpa using h.1
    rw [hn, signOf_false, one_mul] at hpos ⊢
    have h128 := (nat_le_quot_iff hb 128).mp h.2
    have hle : (2 : ℝ) ^ 128 ≤ 2 ^ (a / b : ℝ) := by
      rw [← Real.rpow_natCast 2 128]
      exact Real.rpow_le_rpow_of_exponent_le (by norm_num) h128
    rw [toF32_inf]
    exact (roundsMag_inf hle).nearlyRounded_pos hpos
  split
  · next h => exact nearlyRounded_of_roundsTo (ex2_integer hb h)
  · have he := fun p hp => exp2Rat_spec (p := p) (a := a) hp hb
    cases n
    · rw [signOf_false, one_mul]
      exact (brackets_self he).nearlyRounded_pos
    · rw [signOf_true, neg_one_mul, Real.rpow_neg (by norm_num)]
      exact (brackets_inv he).nearlyRounded_pos

/-- R132: the integers, and what is too great or too small. -/
theorem ex2_exact {x : W32} (hx : Ordinary ex2Form x) : (128 ≤ realOf x → ex2F32 x = 0x7F800000#32) ∧ (realOf x ≤ -150 → ex2F32 x = 0#32) ∧
    ∀ k : ℤ, realOf x = k → -149 ≤ k → k ≤ 127 → realOf (ex2F32 x) = 2 ^ k := by
  obtain ⟨a, b, hf, ha, hb, hr⟩ := ordinary_f32 hx
  have hq : (0 : ℝ) < a / b := div_pos (by exact_mod_cast ha) (by exact_mod_cast hb)
  rw [ex2F32_fin hf]
  generalize negative x = n at *
  refine ⟨fun h => ?_, fun h => ?_, fun k hk h1 h2 => ?_⟩
  · cases n
    · rw [signOf_false, one_mul] at hr
      rw [if_neg (by simp), if_pos ⟨rfl, (nat_le_quot_iff hb 128).mpr (by push_cast; linarith)⟩]
      rfl
    · rw [signOf_true] at hr
      linarith
  · cases n
    · rw [signOf_false] at hr
      linarith
    · rw [signOf_true] at hr
      rw [if_pos ⟨rfl, (nat_le_quot_iff hb 150).mpr (by push_cast; linarith)⟩]
  · have h1' : (-149 : ℝ) ≤ k := by exact_mod_cast h1
    have h2' : (k : ℝ) ≤ 127 := by exact_mod_cast h2
    have hquot : (a / b : ℝ) = k.natAbs := by
      rw [Nat.cast_natAbs, Int.cast_abs, ← hk, hr, abs_mul, abs_signOf, one_mul, abs_of_pos hq]
    have hmod : a % b = 0 := by
      rw [div_eq_iff (by exact_mod_cast hb.ne')] at hquot
      rw [show a = k.natAbs * b by exact_mod_cast hquot, Nat.mul_mod_left]
    have hsmall : ¬ (n = true ∧ 150 * b ≤ a) := fun ⟨hn, h⟩ => by
      have := (nat_le_quot_iff hb 150).mp h
      rw [hn, signOf_true] at hr
      push_cast at this
      linarith
    have hbig : ¬ ((!n) = true ∧ 128 * b ≤ a) := fun ⟨hn, h⟩ => by
      have := (nat_le_quot_iff hb 128).mp h
      rw [show n = false by simpa using hn, signOf_false] at hr
      push_cast at this
      linarith
    rw [if_neg hsmall, if_neg hbig, if_pos hmod]
    have hround := ex2_integer (n := n) hb hmod
    rw [← hr, hk, Real.rpow_intCast] at hround
    refine roundsTo_exact (n := false) (k := 1) (j := (k + 149).toNat) hround (by norm_num) ?_ ?_
    · rw [signOf_false, one_mul, Nat.one_mul, Nat.cast_pow, Nat.cast_ofNat, ← zpow_natCast, ← zpow_add₀ (by norm_num)]
      congr 1
      omega
    · rw [abs_of_pos (by positivity), ← zpow_natCast, ← zpow_add_one₀ (by norm_num)]
      exact zpow_lt_zpow_right₀ (by norm_num) (by push_cast; omega)

/-! SIGM. -/

theorem sigmF32_fin {x : W32} {n : Bool} {a b : Nat} (h : f32 x = .fin n a b) : sigmF32 x =
    if n ∧ 104 * b ≤ a then 0#32
    else if !n ∧ 18 * b ≤ a then 0x3F800000#32
    else
      settle (fun p =>
        let e := expRat p a b
        if n then roundEnds false (2 ^ p) (2 ^ p + e.hi) (2 ^ p) (2 ^ p + e.lo)
        else roundEnds false e.lo (e.lo + 2 ^ p) e.hi (e.hi + 2 ^ p)) := by
  rw [sigmF32, h]

theorem sigm_table : TableHolds sigmForm sigmF32 :=
  tableHolds_of (fun x h => by rw [sigmF32, h]; rfl) (by decide) (by decide) (by decide) (by decide) (fun h => absurd h (by simp [sigmForm]))

theorem sigm_neg (q : ℝ) : 1 / (1 + Real.exp (-(-q))) = (1 + Real.exp q)⁻¹ := by rw [neg_neg, one_div]

theorem sigm_pos (q : ℝ) : 1 / (1 + Real.exp (-q)) = Real.exp q / (Real.exp q + 1) := by
  have := Real.exp_pos q
  rw [Real.exp_neg]
  field_simp

theorem two_pow_le_exp {k : Nat} {q : ℝ} (h : 0.6931471808 * k ≤ q) : (2 : ℝ) ^ k ≤ Real.exp q := by
  rw [← Real.rpow_natCast, Real.rpow_def_of_pos (by norm_num), Real.exp_le_exp]
  have := mul_le_mul_of_nonneg_right Real.log_two_lt_d9.le (Nat.cast_nonneg k (α := ℝ))
  linarith

theorem sigm_nearlyRounded {x : W32} (hx : Ordinary sigmForm x) : NearlyRounded (sigmForm.fn (realOf x)) (sigmF32 x) := by
  obtain ⟨a, b, hf, ha, hb, hr⟩ := ordinary_f32 hx
  rw [sigmF32_fin hf, show sigmForm.fn (realOf x) = 1 / (1 + Real.exp (-realOf x)) from rfl, hr]
  have hexp := Real.exp_pos (a / b : ℝ)
  generalize negative x = n at *
  split
  · next h =>
    rw [h.1, signOf_true, neg_one_mul, sigm_neg]
    have h104 := (nat_le_quot_iff hb 104).mp h.2
    have hbig : (2 : ℝ) ^ 150 ≤ Real.exp (a / b) := two_pow_le_exp (by push_cast at h104 ⊢; linarith)
    have hle : (1 + Real.exp (a / b))⁻¹ * 2 ^ 150 ≤ 1 := by
      rw [inv_mul_le_iff₀ (by positivity)]
      linarith
    exact (roundsMag_zero_of_le hle).nearlyRounded_pos (by positivity)
  split
  · next h =>
    have hn : n = false := by simpa using h.1
    rw [hn, signOf_false, one_mul, sigm_pos]
    have h18 := (nat_le_quot_iff hb 18).mp h.2
    have hbig : (2 : ℝ) ^ 25 ≤ Real.exp (a / b) := two_pow_le_exp (by push_cast at h18 ⊢; linarith)
    have hone : RoundsMag (Real.exp (a / b) / (Real.exp (a / b) + 1) * 2 ^ 149) 0x3F800000 := by
      refine roundsMag_one ?_ ?_
      · rw [lt_div_iff₀ (by positivity)]
        norm_num at hbig ⊢
        linarith
      · rw [div_lt_one (by positivity)]
        linarith
    exact hone.nearlyRounded_pos (by positivity)
  · next h1 h2 =>
    have h128 : a ≤ 128 * b := by
      cases n
      · have : ¬ 18 * b ≤ a := fun hc => h2 ⟨rfl, hc⟩
        omega
      · have : ¬ 104 * b ≤ a := fun hc => h1 ⟨rfl, hc⟩
        omega
    have he := fun p hp => expRat_spec (p := p) hp hb h128
    cases n
    · rw [signOf_false, one_mul, sigm_pos]
      exact (brackets_ratio he).nearlyRounded_pos
    · rw [signOf_true, neg_one_mul, sigm_neg]
      exact (brackets_inv_succ he).nearlyRounded_pos

theorem sigm_exact {x : W32} (hx : Ordinary sigmForm x) : (18 ≤ realOf x → sigmF32 x = 0x3F800000#32) ∧ (realOf x ≤ -104 → sigmF32 x = 0#32) := by
  obtain ⟨a, b, hf, ha, hb, hr⟩ := ordinary_f32 hx
  have hq : (0 : ℝ) < a / b := div_pos (by exact_mod_cast ha) (by exact_mod_cast hb)
  rw [sigmF32_fin hf]
  generalize negative x = n at *
  refine ⟨fun h => ?_, fun h => ?_⟩
  · cases n
    · rw [signOf_false, one_mul] at hr
      rw [if_neg (by simp), if_pos ⟨rfl, (nat_le_quot_iff hb 18).mpr (by push_cast; linarith)⟩]
    · rw [signOf_true] at hr
      linarith
  · cases n
    · rw [signOf_false] at hr
      linarith
    · rw [signOf_true] at hr
      rw [if_pos ⟨rfl, (nat_le_quot_iff hb 104).mpr (by push_cast; linarith)⟩]

/-! TANH. -/

theorem tanhF32_fin {x : W32} {n : Bool} {a b : Nat} (h : f32 x = .fin n a b) : tanhF32 x =
    if 19 * b ≤ 2 * a then toF32 .rne (.fin n 1 1)
    else if a * 4096 < b then x
    else
      settle (fun p =>
        let e := expRat p (2 * a) b
        roundEnds n (e.lo - 2 ^ p) (e.lo + 2 ^ p) (e.hi - 2 ^ p) (e.hi + 2 ^ p)) := by
  rw [tanhF32, h]

theorem tanh_table : TableHolds tanhForm tanhF32 :=
  tableHolds_of (fun x h => by rw [tanhF32, h]; rfl) (by decide) (by decide) (by decide) (by decide) (fun h => absurd h (by simp [tanhForm]))

theorem tanh_eq_exp (q : ℝ) : Real.tanh q = (Real.exp (2 * q) - 1) / (Real.exp (2 * q) + 1) := by
  have h := Real.exp_pos q
  rw [Real.tanh_eq, Real.exp_neg, two_mul, Real.exp_add]
  field_simp

theorem tanh_sign (n : Bool) (q : ℝ) : Real.tanh (signOf n * q) = signOf n * Real.tanh q := by
  cases n
  · simp
  · rw [signOf_true, neg_one_mul, neg_one_mul, Real.tanh_neg]

/-- tanh of a small number is below it by less than half its cube. -/
theorem tanh_cubic {q : ℝ} (h0 : 0 < q) : q - q ^ 3 * (1 / 2) ≤ Real.tanh q := by
  have hsum : 1 + 2 * q + 2 * q ^ 2 + 4 / 3 * q ^ 3 ≤ Real.exp (2 * q) := by
    refine le_trans (le_of_eq ?_) (Real.sum_le_exp_of_nonneg (by linarith : 0 ≤ 2 * q) 4)
    simp only [Finset.sum_range_succ, Finset.sum_range_zero, Nat.factorial]
    push_cast
    ring
  rw [tanh_eq_exp]
  refine le_trans ?_ (tanh_form_mono (by nlinarith [pow_pos h0 2, pow_pos h0 3]) hsum)
  rw [le_div_iff₀ (by positivity)]
  nlinarith [pow_pos h0 2, pow_pos h0 3, pow_pos h0 4, pow_pos h0 5, pow_pos h0 6]

/-- By the first term of the series of its inverse. -/
theorem tanh_le_self {q : ℝ} (h0 : 0 < q) : Real.tanh q ≤ q := by
  have hexp : 1 < Real.exp (2 * q) := Real.one_lt_exp_iff.mpr (by linarith)
  have h1 : 1 + (Real.exp (2 * q) - 1) / (Real.exp (2 * q) + 1) = 2 * Real.exp (2 * q) / (Real.exp (2 * q) + 1) := by field_simp; ring
  have h2 : 1 - (Real.exp (2 * q) - 1) / (Real.exp (2 * q) + 1) = 2 / (Real.exp (2 * q) + 1) := by field_simp; ring
  have hlog : atanhTail 0 (Real.tanh q) = q := by
    rw [atanhTail_zero, tanh_eq_exp, h1, h2, Real.log_div (by positivity) (by positivity), Real.log_div (by positivity) (by positivity),
      Real.log_mul (by norm_num) (by positivity), Real.log_exp]
    ring
  have hz0 : 0 ≤ Real.tanh q := by rw [tanh_eq_exp]; exact div_nonneg (by linarith) (by linarith)
  have hz1 : Real.tanh q < 1 := by rw [tanh_eq_exp, div_lt_one (by linarith)]; linarith
  have hrest := atanhTail_nonneg 1 hz0 hz1
  have hfirst : Real.tanh q ^ (2 * 0 + 1) / (2 * (0 : ℕ) + 1) = Real.tanh q := by simp
  rw [atanhTail_succ, hfirst] at hlog
  linarith

/-- A grid point is at most 2^24 times as far from zero as from the grid point below it. -/
theorem gridUnits_gap (k : Nat) : 2 ^ 24 * gridUnits k ≤ (2 ^ 24 - 1) * gridUnits (k + 1) := by
  obtain ⟨j, i, rfl, hj, hi⟩ := exists_scaled k
  have h := le_gridUnits_succ hj hi.le
  rw [gridUnits_scaled hj hi.le]
  calc 2 ^ 24 * (i * 2 ^ j) = 2 ^ 24 * i * 2 ^ j := by ring
    _ ≤ (2 ^ 24 - 1) * (i + 1) * 2 ^ j := Nat.mul_le_mul_right _ (by omega)
    _ = (2 ^ 24 - 1) * ((i + 1) * 2 ^ j) := by ring
    _ ≤ _ := Nat.mul_le_mul_left _ h

/-- Below 2^−12, x is what tanh x rounds to. -/
theorem roundsMag_tanh_small {m : Nat} {q : ℝ} (hm : m < infMag) (hq : q * 2 ^ 149 = gridUnits m) (h0 : 0 < q) (h1 : q < 2 ^ (-12 : ℤ)) :
    RoundsMag (Real.tanh q * 2 ^ 149) m := by
  have hlt := tanh_le_self h0
  have habove : 2 * (Real.tanh q * 2 ^ 149) < gridMid m := by
    have : (gridUnits m : ℝ) < gridUnits (m + 1) := by exact_mod_cast gridUnits_strictMono (Nat.lt_succ_self m)
    rw [gridMid]
    push_cast
    linarith
  have hbelow : ∀ k, m = k + 1 → (gridMid k : ℝ) < 2 * (Real.tanh q * 2 ^ 149) := by
    rintro k rfl
    have hgap : (2 ^ 24 * gridUnits k : ℝ) ≤ (2 ^ 24 - 1) * gridUnits (k + 1) := by
      have := gridUnits_gap k
      have h' : ((2 ^ 24 * gridUnits k : ℕ) : ℝ) ≤ ((2 ^ 24 - 1) * gridUnits (k + 1) : ℕ) := by exact_mod_cast this
      push_cast at h'
      linarith
    have hc := tanh_cubic h0
    have hq2 : q ^ 2 < 2 ^ (-24 : ℤ) := by
      calc q ^ 2 < (2 ^ (-12 : ℤ)) ^ 2 := pow_lt_pow_left₀ h1 h0.le (by norm_num)
        _ = 2 ^ (-24 : ℤ) := by rw [← zpow_natCast, ← zpow_mul]; norm_num
    have hq3 : q ^ 3 * 2 ^ 149 < 2 ^ (-24 : ℤ) * gridUnits (k + 1) := by
      rw [← hq, show q ^ 3 * 2 ^ 149 = q ^ 2 * (q * 2 ^ 149) by ring]
      exact mul_lt_mul_of_pos_right hq2 (by positivity)
    have hc' := mul_le_mul_of_nonneg_right hc (by positivity : (0 : ℝ) ≤ 2 ^ 149)
    rw [gridMid]
    push_cast
    norm_num at hq3 hgap hc' hq ⊢
    linarith
  exact ⟨hm.le, fun _ => habove.le, fun _ e => absurd e habove.ne, fun k hk => (hbelow k hk).le, fun k hk e => absurd e (hbelow k hk).ne⟩

theorem tanh_brackets {a b : Nat} (hb : 0 < b) (h1 : ¬ 19 * b ≤ 2 * a) (h2 : ¬ a * 4096 < b) : Brackets (Real.tanh (a / b))
    (fun p => (expRat p (2 * a) b).lo - 2 ^ p) (fun p => (expRat p (2 * a) b).lo + 2 ^ p)
    (fun p => (expRat p (2 * a) b).hi - 2 ^ p) (fun p => (expRat p (2 * a) b).hi + 2 ^ p) := by
  have hb' : (0 : ℝ) < b := by exact_mod_cast hb
  have he := fun p hp => expRat_spec (p := p) (a := 2 * a) hp hb (by omega)
  rw [show ((2 * a : ℕ) / b : ℝ) = 2 * (a / b) by push_cast; rw [mul_div_assoc]] at he
  rw [tanh_eq_exp]
  refine brackets_tanh he ?_
  have hge : (2 : ℝ) ^ (-12 : ℤ) ≤ a / b := by
    rw [le_div_iff₀ hb', zpow_neg, inv_mul_le_iff₀ (by positivity), mul_comm]
    exact_mod_cast not_lt.mp h2
  have hexp : 1 + 2 ^ (-12 : ℤ) ≤ Real.exp (2 * (a / b)) := by linarith [Real.add_one_le_exp (2 * (a / b) : ℝ)]
  exact le_trans (by norm_num) (tanh_form_mono (by norm_num) hexp)

theorem tanh_nearlyRounded {x : W32} (hx : Ordinary tanhForm x) : NearlyRounded (tanhForm.fn (realOf x)) (tanhF32 x) := by
  obtain ⟨he, h0, h1, -⟩ := hx
  obtain ⟨a, b, hf, ha, hb, hr, hab⟩ := f32_ordinary he h0 h1
  have hb' : (0 : ℝ) < b := by exact_mod_cast hb
  have hq : (0 : ℝ) < a / b := div_pos (by exact_mod_cast ha) hb'
  rw [tanhF32_fin hf, show tanhForm.fn (realOf x) = Real.tanh (realOf x) from rfl, hr, tanh_sign]
  split
  · next h =>
    have h95 := (quot_le_iff hb 19 2 (by norm_num)).mp h
    have hbig : (2 : ℝ) ^ 27 ≤ Real.exp (2 * (a / b)) := two_pow_le_exp (by push_cast at h95 ⊢; linarith)
    have hone : RoundsMag (Real.tanh (a / b) * 2 ^ 149) 0x3F800000 := by
      rw [tanh_eq_exp]
      refine roundsMag_one ?_ ?_
      · rw [lt_div_iff₀ (by positivity)]
        norm_num at hbig ⊢
        linarith
      · rw [div_lt_one (by positivity)]
        linarith
    rw [toF32_rne _ _ Nat.one_pos]
    exact hone.nearlyRounded _ (by rw [tanh_eq_exp]; exact div_pos (by linarith) (by positivity))
  split
  · next h =>
    have hsmall : (a / b : ℝ) < 2 ^ (-12 : ℤ) := by
      rw [div_lt_iff₀ hb', zpow_neg, ← div_eq_inv_mul, lt_div_iff₀ (by positivity)]
      exact_mod_cast h
    have hm := roundsMag_tanh_small ((expOf_lt_iff x).mp he) (q := a / b)
      (by rw [div_mul_eq_mul_div, div_eq_iff hb'.ne']; exact_mod_cast hab) hq hsmall
    have hpos : 0 < Real.tanh (a / b) := by
      have := tanh_cubic hq
      have h3 : (a / b : ℝ) ^ 3 < a / b := pow_lt_self_of_lt_one₀ hq (hsmall.trans (by norm_num)) (by norm_num)
      linarith
    have := hm.nearlyRounded (negative x) hpos
    rwa [signedWord_self] at this
  · next h1 h2 =>
    exact (tanh_brackets hb h1 h2).nearlyRounded (negative x)

theorem tanh_odd {x : W32} (hx : Ordinary tanhForm x) : tanhF32 (x ^^^ 0x80000000#32) = tanhF32 x ^^^ 0x80000000#32 := by
  obtain ⟨a, b, hf, ha, hb, hr⟩ := ordinary_f32 hx
  rw [tanhF32_fin hf, tanhF32_fin (f32_flip hf)]
  split
  · exact toF32_rne_not _ _ Nat.one_pos
  split
  · rfl
  · next h1 h2 =>
    have hbr := tanh_brackets hb h1 h2
    exact (hbr.settle_eq _).trans ((signedWord_not _ settledMag_lt).trans (congrArg (· ^^^ 0x80000000#32) (hbr.settle_eq _).symm))

theorem tanh_exact {x : W32} (hx : Ordinary tanhForm x) :
    (9.5 ≤ |realOf x| → tanhF32 x = if negative x then 0xBF800000#32 else 0x3F800000#32) ∧ (|realOf x| < 2 ^ (-12 : ℤ) → tanhF32 x = x) := by
  obtain ⟨a, b, hf, ha, hb, hr⟩ := ordinary_f32 hx
  have hb' : (0 : ℝ) < b := by exact_mod_cast hb
  have hq : (0 : ℝ) < a / b := div_pos (by exact_mod_cast ha) hb'
  have habs : |realOf x| = a / b := by rw [hr, abs_mul, abs_signOf, one_mul, abs_of_pos hq]
  rw [habs, tanhF32_fin hf]
  refine ⟨fun h => ?_, fun h => ?_⟩
  · rw [if_pos ((quot_le_iff hb 19 2 (by norm_num)).mpr (by push_cast; linarith))]
    cases negative x <;> rfl
  · rw [if_neg fun hc => ?_, if_pos ?_]
    · rw [div_lt_iff₀ hb', zpow_neg, ← div_eq_inv_mul, lt_div_iff₀ (by positivity)] at h
      exact_mod_cast h
    · have := (quot_le_iff hb 19 2 (by norm_num)).mp hc
      norm_num at h this
      linarith

end Sys2Proof.Machine

namespace Sys2Proof.Machine
open Sys2Proof Sys2Proof.Claims

/-! LG2 (R130 to R132). -/

/-- The operand over the power of two below it: a quotient from 1 to 2. -/
def mantNum (a b : Nat) : Nat := if 0 ≤ ratLog2 a b then a else a * 2 ^ (-ratLog2 a b).toNat

def mantDen (a b : Nat) : Nat := if 0 ≤ ratLog2 a b then b * 2 ^ (ratLog2 a b).toNat else b

theorem lg2F32_fin {x : W32} {a b : Nat} (h : f32 x = .fin false a b) : lg2F32 x =
    if mantNum a b = mantDen a b then toF32 .rne (exOfInt (ratLog2 a b))
    else
      settle (fun p =>
        let m := log2Mant p (mantNum a b) (mantDen a b)
        if 0 ≤ ratLog2 a b then
          roundEnds false ((ratLog2 a b).toNat * 2 ^ p + m.lo) (2 ^ p) ((ratLog2 a b).toNat * 2 ^ p + m.hi) (2 ^ p)
        else roundEnds true ((-ratLog2 a b).toNat * 2 ^ p - m.hi) (2 ^ p) ((-ratLog2 a b).toNat * 2 ^ p - m.lo) (2 ^ p)) := by
  rw [lg2F32, h]
  rfl

theorem lg2_table : TableHolds lg2Form lg2F32 :=
  tableHolds_of (fun x h => by rw [lg2F32, h]; rfl) (by decide) (by decide) (by decide) (by decide) (fun _ x a b h => by rw [lg2F32, h]; rfl)

theorem logb_two_zpow (e : Int) : Real.logb 2 (2 ^ e) = e := by
  rw [← Real.rpow_intCast, Real.logb_rpow (by norm_num) (by norm_num)]
section
variable {a b : Nat}

theorem mantDen_pos (hb : 0 < b) : 0 < mantDen a b := by
  unfold mantDen
  split
  · positivity
  · exact hb

theorem mant_eq (a b : Nat) : (mantNum a b / mantDen a b : ℝ) = a / b / 2 ^ ratLog2 a b := by
  unfold mantNum mantDen
  by_cases h : 0 ≤ ratLog2 a b
  · rw [if_pos h, if_pos h]
    conv_rhs => rw [← Int.toNat_of_nonneg h, zpow_natCast]
    push_cast
    rw [div_div]
  · rw [if_neg h, if_neg h]
    conv_rhs => rw [← neg_neg (ratLog2 a b), ← Int.toNat_of_nonneg (by omega : 0 ≤ -ratLog2 a b), zpow_neg, zpow_natCast, div_inv_eq_mul]
    push_cast
    rw [mul_div_right_comm]

theorem mant_eq_iff (hb : 0 < b) : mantNum a b = mantDen a b ↔ (a / b : ℝ) = 2 ^ ratLog2 a b := by
  have hd : (mantDen a b : ℝ) ≠ 0 := by exact_mod_cast (mantDen_pos hb).ne'
  rw [← div_eq_one_iff_eq (by positivity : (2 : ℝ) ^ ratLog2 a b ≠ 0), ← mant_eq, div_eq_one_iff_eq hd, Nat.cast_inj]
variable (ha : 0 < a) (hb : 0 < b)
include ha hb

theorem mant_bounds : mantDen a b ≤ mantNum a b ∧ mantNum a b ≤ 2 * mantDen a b := by
  obtain ⟨h1, h2⟩ := ratLog2_bounds ha hb
  have hd : (0 : ℝ) < mantDen a b := by exact_mod_cast mantDen_pos hb
  have hp : (0 : ℝ) < 2 ^ ratLog2 a b := by positivity
  have he := mant_eq a b
  constructor
  · have : (1 : ℝ) ≤ mantNum a b / mantDen a b := by rw [he, one_le_div₀ hp]; exact h1
    rw [one_le_div₀ hd] at this
    exact_mod_cast this
  · have : (mantNum a b / mantDen a b : ℝ) ≤ 2 := by
      rw [he, div_le_iff₀ hp, mul_comm, ← two_zpow_succ]
      exact h2.le
    rw [div_le_iff₀ hd] at this
    exact_mod_cast this

theorem logb_eq : Real.logb 2 (a / b) = ratLog2 a b + Real.logb 2 (mantNum a b / mantDen a b) := by
  have hq : (0 : ℝ) < a / b := div_pos (by exact_mod_cast ha) (by exact_mod_cast hb)
  rw [mant_eq, Real.logb_div hq.ne' (by positivity), logb_two_zpow, add_sub_cancel]
end

/-- Near enough at 1024 bits, of a number that is not too small. -/
theorem close_of_units {y w : ℝ} (h : y - w ≤ 2 ^ 24 / 2 ^ 1024) (hy : 2 ^ (-25 : ℤ) ≤ y) : y - w ≤ 2 ^ (-900 : ℤ) * y :=
  calc y - w ≤ 2 ^ 24 / 2 ^ 1024 := h
    _ = 2 ^ (-1000 : ℤ) := by rw [← zpow_natCast, ← zpow_natCast, ← zpow_sub₀ (by norm_num)]; norm_num
    _ ≤ 2 ^ (-925 : ℤ) := zpow_le_zpow_right₀ (by norm_num) (by norm_num)
    _ = 2 ^ (-900 : ℤ) * 2 ^ (-25 : ℤ) := by rw [← zpow_add₀ (by norm_num)]; norm_num
    _ ≤ _ := mul_le_mul_of_nonneg_left hy (by positivity)

theorem Encloses.sub_low {p : Nat} {b : Bracket} {μ : ℝ} (h : Encloses p b μ) : μ - b.lo / 2 ^ p ≤ width b / 2 ^ p := by
  rw [sub_div' (by positivity), width]
  exact div_le_div_of_nonneg_right (by linarith [h.high]) (by positivity)

theorem Encloses.high_sub {p : Nat} {b : Bracket} {μ : ℝ} (h : Encloses p b μ) : b.hi / 2 ^ p - μ ≤ width b / 2 ^ p := by
  rw [div_sub' (by positivity), width]
  exact div_le_div_of_nonneg_right (by linarith [h.low]) (by positivity)
section
variable {m : Nat → Bracket} {μ : ℝ} (hm : ∀ p ∈ precisions, Encloses p (m p) μ ∧ width (m p) ≤ 2 ^ 24) (k : Nat)
include hm

/-- A whole number and a bracketed one. -/
theorem brackets_add (hy : (2 : ℝ) ^ (-25 : ℤ) ≤ k + μ) :
    Brackets (k + μ) (fun p => k * 2 ^ p + (m p).lo) (fun p => 2 ^ p) (fun p => k * 2 ^ p + (m p).hi) (fun p => 2 ^ p) := by
  have hl : ∀ p, ((k * 2 ^ p + (m p).lo : ℕ) / (2 ^ p : ℕ) : ℝ) = k + (m p).lo / 2 ^ p := fun p => by push_cast; field_simp
  have hh : ∀ p, ((k * 2 ^ p + (m p).hi : ℕ) / (2 ^ p : ℕ) : ℝ) = k + (m p).hi / 2 ^ p := fun p => by push_cast; field_simp
  refine ⟨lt_of_lt_of_le (by positivity) hy, fun p _ => ⟨by positivity, by positivity⟩, fun p hp => ?_, fun p hp => ?_, close_of_units ?_ hy⟩
  · rw [hl]
    exact add_le_add le_rfl ((div_le_iff₀ (by positivity)).mpr (hm p hp).1.low)
  · rw [hh]
    exact add_le_add le_rfl ((le_div_iff₀ (by positivity)).mpr (hm p hp).1.high)
  · obtain ⟨he, hw⟩ := hm 1024 (by decide)
    rw [hl, add_sub_add_left_eq_sub]
    exact he.sub_low.trans (div_le_div_of_nonneg_right hw (by positivity))

/-- A whole number less a bracketed one that is at most 1. -/
theorem brackets_sub (hk : 1 ≤ k) (hμ : μ ≤ 1) (hy : (2 : ℝ) ^ (-25 : ℤ) ≤ k - μ) :
    Brackets (k - μ) (fun p => k * 2 ^ p - (m p).hi) (fun p => 2 ^ p) (fun p => k * 2 ^ p - (m p).lo) (fun p => 2 ^ p) := by
  have hpos : 0 < k - μ := lt_of_lt_of_le (by positivity) hy
  have hl : ∀ p, (k : ℝ) - (m p).hi / 2 ^ p ≤ ((k * 2 ^ p - (m p).hi : ℕ) / (2 ^ p : ℕ) : ℝ) := fun p => by
    rw [sub_div' (by positivity), Nat.cast_pow, Nat.cast_ofNat, div_le_div_iff_of_pos_right (by positivity)]
    have : ((k * 2 ^ p : ℕ) : ℝ) ≤ (k * 2 ^ p - (m p).hi + (m p).hi : ℕ) := by exact_mod_cast Nat.sub_le_iff_le_add.mp le_rfl
    push_cast at this
    linarith only [this]
  have hh : ∀ p ∈ precisions, ((k * 2 ^ p - (m p).lo : ℕ) / (2 ^ p : ℕ) : ℝ) = k - (m p).lo / 2 ^ p := fun p hp => by
    have h1 : ((m p).lo : ℝ) ≤ k * 2 ^ p :=
      (hm p hp).1.low.trans (mul_le_mul_of_nonneg_right (hμ.trans (by exact_mod_cast hk)) (by positivity))
    rw [Nat.cast_sub (by exact_mod_cast h1)]
    push_cast
    field_simp
  refine ⟨hpos, fun p _ => ⟨by positivity, by positivity⟩, fun p hp => ?_, fun p hp => ?_, close_of_units ?_ hy⟩
  · rw [div_le_iff₀ (by positivity)]
    rcases le_total ((m p).hi : ℕ) (k * 2 ^ p) with h | h
    · have := (hm p hp).1.high
      push_cast [h]
      linarith only [this]
    · rw [Nat.sub_eq_zero_of_le h, Nat.cast_zero]
      positivity
  · rw [hh p hp]
    exact sub_le_sub le_rfl ((div_le_iff₀ (by positivity)).mpr (hm p hp).1.low)
  · obtain ⟨he, hw⟩ := hm 1024 (by decide)
    refine (sub_le_sub_left (hl 1024) _).trans ?_
    rw [sub_sub_sub_cancel_left]
    exact he.high_sub.trans (div_le_div_of_nonneg_right hw (by positivity))
end

/-- No operand but 1 has a logarithm below 2^−24. -/
theorem logb_far {m : Nat} {q : ℝ} (hq : q * 2 ^ 149 = gridUnits m) (h0 : 0 < q) :
    q = 1 ∨ (2 : ℝ) ^ (-25 : ℤ) ≤ Real.logb 2 q ∨ Real.logb 2 q ≤ -2 ^ (-25 : ℤ) := by
  have hln : 0 < Real.log 2 := by linarith [Real.log_two_gt_d9]
  have hln1 : Real.log 2 < 1 := by linarith [Real.log_two_lt_d9]
  rcases lt_trichotomy m 0x3F800000 with h | rfl | h
  · have hle : (gridUnits m : ℝ) ≤ gridUnits 0x3F7FFFFF := by exact_mod_cast gridUnits_strictMono.monotone (by omega)
    rw [show gridUnits 0x3F7FFFFF = 2 ^ 149 - 2 ^ 125 by decide, ← hq] at hle
    have hq1 : q ≤ 1 - 2 ^ (-24 : ℤ) := by
      norm_num at hle ⊢
      linarith
    have hlog : Real.log q ≤ -2 ^ (-24 : ℤ) := by linarith [Real.log_le_sub_one_of_pos h0]
    refine Or.inr (Or.inr ?_)
    rw [Real.logb, div_le_iff₀ hln]
    norm_num at hlog ⊢
    linarith
  · rw [show gridUnits 0x3F800000 = 2 ^ 149 by decide] at hq
    refine Or.inl ?_
    rw [Nat.cast_pow, Nat.cast_ofNat] at hq
    exact mul_right_cancel₀ (by positivity) (hq.trans (one_mul _).symm)
  · have hle : (gridUnits 0x3F800001 : ℝ) ≤ gridUnits m := by exact_mod_cast gridUnits_strictMono.monotone h
    rw [show gridUnits 0x3F800001 = 2 ^ 149 + 2 ^ 126 by decide, ← hq] at hle
    have hq1 : 1 + 2 ^ (-23 : ℤ) ≤ q := by
      norm_num at hle ⊢
      linarith
    have hlog : 2 ^ (-24 : ℤ) ≤ Real.log q := by
      have h1 := Real.one_sub_inv_le_log_of_pos h0
      have h2 : q⁻¹ ≤ 1 - 2 ^ (-24 : ℤ) := by
        rw [inv_le_iff_one_le_mul₀ h0]
        norm_num at hq1 ⊢
        linarith
      exact (le_sub_comm.mp h2).trans h1
    refine Or.inr (Or.inl ?_)
    rw [Real.logb, le_div_iff₀ hln]
    norm_num at hlog ⊢
    linarith

theorem toF32_exOfInt_rounds (e : Int) : RoundsTo e (toF32 .rne (exOfInt e)) := by
  rw [exOfInt, exOfRat]
  by_cases h : e = 0
  · rw [if_pos h, h, toF32_zero]
    have h0 : RoundsMag ((0 : ℝ) * 2 ^ 149) 0 := by rw [zero_mul]; exact roundsMag_zero
    simpa using h0.roundsTo false le_rfl (fun h => absurd h (by decide))
  · rw [if_neg h]
    have hr := roundsTo_toF32 (decide (e < 0)) (a := e.natAbs) (b := 1) (by omega) Nat.one_pos
    have he : (e : ℝ) = signOf (decide (e < 0)) * (e.natAbs / (1 : ℕ)) := by
      rw [Nat.cast_one, div_one, Nat.cast_natAbs, Int.cast_abs]
      by_cases hneg : e < 0
      · rw [decide_eq_true hneg, signOf_true, abs_of_neg (by exact_mod_cast hneg), neg_one_mul, neg_neg]
      · rw [decide_eq_false hneg, signOf_false, abs_of_nonneg (by exact_mod_cast not_lt.mp hneg), one_mul]
    rwa [← he] at hr
section
variable {a b : Nat} (ha : 0 < a) (hb : 0 < b)
include ha hb

theorem logb_mant_bounds : 0 ≤ Real.logb 2 (mantNum a b / mantDen a b) ∧ Real.logb 2 (mantNum a b / mantDen a b) ≤ 1 := by
  obtain ⟨hm1, hm2⟩ := mant_bounds ha hb
  have hd : (0 : ℝ) < mantDen a b := by exact_mod_cast mantDen_pos hb
  have hone : (1 : ℝ) ≤ mantNum a b / mantDen a b := (one_le_div₀ hd).mpr (by exact_mod_cast hm1)
  refine ⟨Real.logb_nonneg (by norm_num) hone, ?_⟩
  rw [Real.logb_le_iff_le_rpow (by norm_num) (by linarith), Real.rpow_one, div_le_iff₀ hd]
  exact_mod_cast hm2

/-- An operand that is no power of two: its exponent and the bracket of its significand's logarithm, by the exponent's sign. -/
theorem lg2_settle_nearlyRounded (hfar : (2 : ℝ) ^ (-25 : ℤ) ≤ Real.logb 2 (a / b) ∨ Real.logb 2 (a / b) ≤ -2 ^ (-25 : ℤ)) :
    NearlyRounded (Real.logb 2 (a / b)) (settle (fun p =>
      let m := log2Mant p (mantNum a b) (mantDen a b)
      if 0 ≤ ratLog2 a b then
        roundEnds false ((ratLog2 a b).toNat * 2 ^ p + m.lo) (2 ^ p) ((ratLog2 a b).toNat * 2 ^ p + m.hi) (2 ^ p)
      else roundEnds true ((-ratLog2 a b).toNat * 2 ^ p - m.hi) (2 ^ p) ((-ratLog2 a b).toNat * 2 ^ p - m.lo) (2 ^ p))) := by
  obtain ⟨hm1, hm2⟩ := mant_bounds ha hb
  have hm := fun p hp => log2Mant_spec (p := p) hp (mantDen_pos hb) hm1 hm2
  obtain ⟨hμ0, hμ1⟩ := logb_mant_bounds ha hb
  rw [logb_eq ha hb] at hfar ⊢
  generalize Real.logb 2 (mantNum a b / mantDen a b) = μ at *
  have hsmall : (0 : ℝ) < 2 ^ (-25 : ℤ) := by positivity
  by_cases hpos : 0 ≤ ratLog2 a b
  · have he : (ratLog2 a b : ℝ) = (ratLog2 a b).toNat := by exact_mod_cast (Int.toNat_of_nonneg hpos).symm
    have hge : (0 : ℝ) ≤ ratLog2 a b := by exact_mod_cast hpos
    have hy := hfar.resolve_right (by linarith)
    simp only [hpos, if_true]
    rw [he] at hy ⊢
    exact (brackets_add hm _ hy).nearlyRounded_pos
  · have he : (ratLog2 a b : ℝ) = -((-ratLog2 a b).toNat : ℝ) := by
      rw [eq_neg_iff_add_eq_zero]
      exact_mod_cast (by omega : ratLog2 a b + (-ratLog2 a b).toNat = 0)
    have hle : (ratLog2 a b : ℝ) ≤ -1 := by exact_mod_cast (by omega : ratLog2 a b ≤ -1)
    have hy := hfar.resolve_left (by linarith)
    simp only [hpos, if_false]
    rw [he] at hy ⊢
    have := (brackets_sub hm (-ratLog2 a b).toNat (by omega) hμ1 (by linarith)).nearlyRounded true
    rwa [signOf_true, neg_one_mul, neg_sub, sub_eq_neg_add] at this
end

theorem lg2_nearlyRounded {x : W32} (hx : Ordinary lg2Form x) : NearlyRounded (lg2Form.fn (realOf x)) (lg2F32 x) := by
  obtain ⟨he, h0, h1, hneg⟩ := hx
  obtain ⟨a, b, hf, ha, hb, hr, hab⟩ := f32_ordinary he h0 h1
  rw [hneg rfl] at hf hr
  rw [signOf_false, one_mul] at hr
  have hb' : (0 : ℝ) < b := by exact_mod_cast hb
  rw [lg2F32_fin hf, show lg2Form.fn (realOf x) = Real.logb 2 (realOf x) from rfl, hr]
  split
  · next h =>
    rw [(mant_eq_iff hb).mp h, logb_two_zpow]
    exact nearlyRounded_of_roundsTo (toF32_exOfInt_rounds _)
  · next h =>
    have hne : (a / b : ℝ) ≠ 1 := fun hc => h ((mant_eq_iff hb).mpr (by
      rw [ratLog2_unique ha hb (l := 0) (by simp [hc]) (by norm_num [hc]), hc, zpow_zero]))
    have hq : (a / b : ℝ) * 2 ^ 149 = gridUnits (magOf x) := by
      rw [div_mul_eq_mul_div, div_eq_iff hb'.ne']
      exact_mod_cast hab
    exact lg2_settle_nearlyRounded ha hb ((logb_far hq (div_pos (by exact_mod_cast ha) hb')).resolve_left hne)

/-- R132: powers of two. -/
theorem lg2_exact {x : W32} (hx : Ordinary lg2Form x) {k : Int} (hk : realOf x = 2 ^ k) : realOf (lg2F32 x) = k := by
  obtain ⟨he, h0, h1, hneg⟩ := hx
  obtain ⟨a, b, hf, ha, hb, hr, hab⟩ := f32_ordinary he h0 h1
  rw [hneg rfl] at hf hr
  rw [signOf_false, one_mul] at hr
  have hb' : (0 : ℝ) < b := by exact_mod_cast hb
  rw [hr] at hk
  have hlog : ratLog2 a b = k := ratLog2_unique ha hb hk.ge (by rw [hk]; exact zpow_lt_zpow_right₀ (by norm_num) (by omega))
  rw [lg2F32_fin hf, if_pos ((mant_eq_iff hb).mpr (by rw [hk, hlog])), hlog]
  have hrange : k.natAbs < 2 ^ 24 := by
    have hU : (2 : ℝ) ^ (k + 149) = gridUnits (magOf x) := by
      rw [zpow_add₀ (by norm_num), ← hk, div_mul_eq_mul_div, div_eq_iff hb'.ne']
      exact_mod_cast hab
    have hlow : -149 ≤ k := by
      by_contra hc
      have h1 : (2 : ℝ) ^ (k + 149) < 1 := zpow_lt_one_of_neg₀ (by norm_num) (by omega)
      have h2 : (0 : ℝ) < 2 ^ (k + 149) := by positivity
      rw [hU] at h1 h2
      have h1' : gridUnits (magOf x) < 1 := by exact_mod_cast h1
      have h2' : 0 < gridUnits (magOf x) := by exact_mod_cast h2
      omega
    have hhigh : k < 128 := by
      have h1 : (gridUnits (magOf x) : ℝ) < gridUnits infMag := by exact_mod_cast gridUnits_strictMono ((expOf_lt_iff x).mp he)
      rw [← hU, show gridUnits infMag = 2 ^ 128 * 2 ^ 149 by decide, zpow_add₀ (by norm_num), Nat.cast_mul] at h1
      have h2 : (2 : ℝ) ^ k < 2 ^ (128 : ℤ) := lt_of_mul_lt_mul_right (by exact_mod_cast h1) (by positivity : (0 : ℝ) ≤ 2 ^ (149 : ℤ))
      exact (zpow_lt_zpow_iff_right₀ (by norm_num)).mp h2
    omega
  refine roundsTo_exact (n := decide (k < 0)) (k := k.natAbs) (j := 149) (toF32_exOfInt_rounds k) hrange ?_ ?_
  · rw [two_zpow_149, Nat.cast_mul, Nat.cast_pow, Nat.cast_ofNat, mul_inv_cancel_right₀ (by positivity), Nat.cast_natAbs, Int.cast_abs]
    by_cases hn : k < 0
    · rw [decide_eq_true hn, signOf_true, abs_of_neg (by exact_mod_cast hn), neg_one_mul, neg_neg]
    · rw [decide_eq_false hn, signOf_false, abs_of_nonneg (by exact_mod_cast not_lt.mp hn), one_mul]
  · rw [← Int.cast_abs, Int.abs_eq_natAbs, Int.cast_natCast]
    exact (by exact_mod_cast hrange : (k.natAbs : ℝ) < 2 ^ 24).trans (by norm_num)

/-! The statement of O33. -/

theorem firesAs_of {F : SpecialForm} {g : W32 → W32} {fmt : Option Nat} {k : Nat}
    (hi : ∀ w s, exec (F.instr w) s = laneFire s F.op w fmt k (fun v l => g (laneA v l))) : FiresAs F g :=
  fun w s _ h => laneFire_all (hi w s) h

theorem specialFunctions : SpecialFunctions := by
  refine ⟨?_, ?_⟩
  · rintro F (rfl | rfl)
    · exact ⟨rcpF32, firesAs_of fun _ _ => rfl, rcp_table, fun _ => rcp_rounds, fun _ _ => rcp_odd⟩
    · exact ⟨rsqF32, firesAs_of fun _ _ => rfl, rsq_table, fun _ => rsq_rounds, fun h => absurd h (by simp [rcpForm, rsqForm])⟩
  · rintro F (rfl | rfl | rfl | rfl)
    · refine ⟨ex2F32, firesAs_of fun _ _ => rfl, ex2_table, fun _ => ex2_nearlyRounded, fun _ _ => ex2_exact, ?_, ?_, ?_⟩ <;>
        exact fun h => absurd h (by simp [ex2Form, lg2Form, tanhForm, sigmForm])
    · refine ⟨lg2F32, firesAs_of fun _ _ => rfl, lg2_table, fun _ => lg2_nearlyRounded, ?_, fun _ _ _ hx => lg2_exact hx, ?_, ?_⟩ <;>
        exact fun h => absurd h (by simp [ex2Form, lg2Form, tanhForm, sigmForm])
    · refine ⟨tanhF32, firesAs_of fun _ _ => rfl, tanh_table, fun _ => tanh_nearlyRounded, ?_, ?_,
          fun _ _ hx => ⟨tanh_odd hx, tanh_exact hx⟩, ?_⟩ <;>
        exact fun h => absurd h (by simp [ex2Form, lg2Form, tanhForm, sigmForm])
    · refine ⟨sigmF32, firesAs_of fun _ _ => rfl, sigm_table, fun _ => sigm_nearlyRounded, ?_, ?_, ?_, fun _ _ => sigm_exact⟩ <;>
        exact fun h => absurd h (by simp [ex2Form, lg2Form, tanhForm, sigmForm])

theorem packedAndConversionLanes : PackedAndConversionLanes :=
  lanesOf_cons_same (fun _ _ => rfl) <|                                                     -- ADD_BF16
  lanesOf_cons_same (fun _ _ => rfl) <|                                                     -- MUL_BF16
  lanesOf_cons_same (fun _ _ => rfl) <|                                                     -- FMA_BF16
  lanesOf_cons_same (fun _ _ => rfl) <|                                                     -- ADD_F16
  lanesOf_cons_same (fun _ _ => rfl) <|                                                     -- MUL_F16
  lanesOf_cons_same (fun _ _ => rfl) <|                                                     -- FMA_F16
  lanesOf_cons_same (fun _ _ => rfl) <|                                                     -- DOT_BF16
  lanesOf_cons (fun w s _ h => laneFire_all (show exec (.cvt w) s = laneFire s 0x80 w _ _ _ from rfl) h) <|    -- CVT
  lanesOf_cons (fun w s _ h => laneFire_all (show exec (.cvtSat w) s = laneFire s 0x81 w _ _ _ from rfl) h) <| -- CVT_SAT
  lanesOf_cons_same (fun _ _ => rfl) <|                                                     -- CVTI_F32
  lanesOf_cons_same (fun _ _ => rfl) <|                                                     -- CVTN_F32
  lanesOf_cons_same (fun _ _ => rfl) <|                                                     -- CVTF_I32
  lanesOf_cons_same (fun _ _ => rfl) <|                                                     -- CVTF_N32
  lanesOf_cons_same (fun _ _ => rfl) lanesOf_nil                                            -- SCALE_MX

/-- Settles O33: the lanes form by form; a special function's result is rounded from the quotient or from the bracket that encloses
the exact one. -/
theorem packedAndSpecialLanes : Obligations.PackedAndSpecialLanes := ⟨packedAndConversionLanes, specialFunctions⟩

end Sys2Proof.Machine

namespace Sys2Proof.Machine
open Sys2Proof Sys2Proof.Claims

/-! A pattern that is rounded from its own value. -/

/-- The scale and the significand of a quotient that is a grid point are those of the point. -/
theorem Scaled.eq_of_grid {a b j A B j' k : Nat} (hs : Scaled a b j A B) (hb : 0 < b) (h : a * 2 ^ 149 = k * 2 ^ j' * b)
    (hj : j' = 0 ∨ 2 ^ 23 ≤ k) (hk : k < 2 ^ 24) : j = j' ∧ A = k * B := by
  obtain ⟨hB, hval, hlt, hfull⟩ := hs
  have hB' : (B : ℝ) ≠ 0 := by exact_mod_cast hB.ne'
  have hb' : (b : ℝ) ≠ 0 := by exact_mod_cast hb.ne'
  have hnat : A * 2 ^ j = k * 2 ^ j' * B := by
    have h' : (a : ℝ) * 2 ^ 149 = k * 2 ^ j' * b := by exact_mod_cast h
    rw [div_mul_eq_mul_div, div_mul_eq_mul_div, h', mul_div_cancel_right₀ _ hb', div_eq_iff hB'] at hval
    exact_mod_cast hval
  rcases lt_trichotomy j j' with hlt' | rfl | hlt'
  · obtain ⟨i, rfl⟩ : ∃ i, j' = j + 1 + i := ⟨j' - (j + 1), by omega⟩
    have hk' := hj.resolve_left (by omega)
    have : 2 ^ 24 * B * 2 ^ j ≤ A * 2 ^ j :=
      calc 2 ^ 24 * B * 2 ^ j = 2 ^ 23 * (2 ^ (j + 1) * 1) * B := by rw [pow_succ 2 j]; ring
        _ ≤ k * (2 ^ (j + 1) * 2 ^ i) * B := Nat.mul_le_mul_right _ (Nat.mul_le_mul hk' (Nat.mul_le_mul_left _ Nat.one_le_two_pow))
        _ = A * 2 ^ j := by rw [hnat, pow_add 2 (j + 1)]
    exact absurd (Nat.le_of_mul_le_mul_right this (by positivity)) (not_le.mpr hlt)
  · exact ⟨rfl, Nat.eq_of_mul_eq_mul_right (Nat.two_pow_pos j) (by rw [hnat]; ring)⟩
  · obtain ⟨i, rfl⟩ : ∃ i, j = j' + 1 + i := ⟨j - (j' + 1), by omega⟩
    have hA := hfull.resolve_left (by omega)
    have : 2 ^ 24 * (2 ^ j' * B) ≤ k * (2 ^ j' * B) :=
      calc 2 ^ 24 * (2 ^ j' * B) = 2 ^ 23 * B * (2 ^ (j' + 1) * 1) := by rw [pow_succ 2 j']; ring
        _ ≤ A * (2 ^ (j' + 1) * 2 ^ i) := Nat.mul_le_mul hA (Nat.mul_le_mul_left _ Nat.one_le_two_pow)
        _ = k * (2 ^ j' * B) := by rw [← pow_add, hnat]; ring
    exact absurd (Nat.le_of_mul_le_mul_right this (by positivity)) (not_le.mpr hk)

/-- What a pattern can be: NaN, an infinity, a zero, or a quotient. -/
theorem f32_cases (x : W32) : f32 x = .nan ∨ (f32 x = .inf (negative x) ∧ magOf x = infMag) ∨ (f32 x = .zero (negative x) ∧ magOf x = 0) ∨
    ∃ a b, f32 x = .fin (negative x) a b ∧ 0 < a ∧ 0 < b ∧ a * 2 ^ 149 = gridUnits (magOf x) * b ∧ 0 < magOf x ∧ magOf x < infMag := by
  have hm := magOf_lt x
  by_cases he : expOf x = 255
  · by_cases hf : fracOf x = 0
    · refine Or.inr (Or.inl ⟨by rw [f32_ones he, if_pos hf], ?_⟩)
      rw [expOf_eq] at he
      rw [fracOf_eq] at hf
      unfold infMag
      omega
    · exact Or.inl (f32_nan_of_exp he hf)
  · by_cases h0 : magOf x = 0
    · exact Or.inr (Or.inr (Or.inl ⟨f32_zero h0, h0⟩))
    · have he' : expOf x < 255 := by rw [expOf_eq] at *; omega
      obtain ⟨a, b, hf, ha, hb, hab⟩ := f32_fin he' h0
      exact Or.inr (Or.inr (Or.inr ⟨a, b, hf, ha, hb, hab, by omega, (expOf_lt_iff x).mp he'⟩))

theorem isNaN32_iff (x : W32) : isNaN32 x = true ↔ f32 x = .nan := by
  rw [isNaN32]
  cases f32 x <;> simp [exIsNaN]

/-- Under every mode a pattern is what its value rounds to; a NaN becomes the canonical one. -/
theorem toF32_f32 (mode : RMode) (x : W32) : toF32 mode (f32 x) = if isNaN32 x then nanF32 else x := by
  rcases f32_cases x with h | ⟨h, hm⟩ | ⟨h, hm⟩ | ⟨a, b, h, ha, hb, hab, -, hm⟩
  · rw [if_pos ((isNaN32_iff x).mpr h), h]
    rfl
  · rw [if_neg (by simp [isNaN32_iff, h]), h, toF32_inf, ← hm, signedWord_self]
  · rw [if_neg (by simp [isNaN32_iff, h]), h, toF32_zero, ← hm, signedWord_self]
  · rw [if_neg (by simp [isNaN32_iff, h]), h, toF32, fround]
    obtain ⟨j, A, B, hs, hp⟩ := gridPattern_scaled ha hb
    obtain ⟨j', k, hjk, hj, hk⟩ := exists_scaled (magOf x)
    rw [hjk, gridUnits_scaled hj hk.le] at hab
    obtain ⟨rfl, rfl⟩ := hs.eq_of_grid hb hab hj hk
    rw [hp, roundQuot_exact _ _ hs.pos, ← hjk, if_pos (show magOf x ≤ fmtMaxFin fmtF32 by rw [show fmtMaxFin fmtF32 = 0x7F7FFFFF from rfl]; unfold infMag at hm; omega)]
    exact signedWord_self x

/-! The order of R111. -/

/-- The order key of a pattern, by its sign and its magnitude. -/
theorem orderKey_eq (x : W32) : orderKey x = if negative x then -(magOf x : ℤ) - 1 else magOf x := by
  have hx := toNat_eq_sign_mag x
  rw [orderKey, show x.msb = negative x from BitVec.msb_eq_getLsbD_last x]
  cases hn : negative x <;> rw [hn] at hx
  · simp [hx, b2n]
  · simp [hx, b2n]

theorem orderKey_inj {x y : W32} (h : orderKey x = orderKey y) : x = y := by
  rw [← signedWord_self x, ← signedWord_self y]
  rw [orderKey_eq, orderKey_eq] at h
  have hx := magOf_lt x
  have hy := magOf_lt y
  cases hn : negative x <;> cases hn' : negative y <;> simp only [hn, hn', if_true, if_false, Bool.false_eq_true] at h
  · rw [show magOf x = magOf y by omega]
  · omega
  · omega
  · rw [show magOf x = magOf y by omega]

/-- The value of a pattern in units, infinity above every finite one. -/
def signedUnits (x : W32) : Int := signedNum (negative x) (gridUnits (magOf x))

theorem signedNum_mul (n : Bool) (a b : Nat) : signedNum n a * b = signedNum n (a * b) := by cases n <;> simp [signedNum]

theorem signedNum_zero (n : Bool) : signedNum n 0 = 0 := by cases n <;> rfl

theorem signedNum_neg_iff (n : Bool) {a : Nat} (ha : 0 < a) : signedNum n a < 0 ↔ n = true := by cases n <;> simp [signedNum]; omega

theorem signedNum_pos_iff (n : Bool) {a : Nat} (ha : 0 < a) : 0 < signedNum n a ↔ n = false := by cases n <;> simp [signedNum]; omega

/-- A number of the greater magnitude is on the side of its sign. -/
theorem signedNum_lt_iff (n n' : Bool) {a a' : Nat} (h : a' < a) : signedNum n a < signedNum n' a' ↔ n = true := by
  cases n <;> cases n' <;> simp [signedNum] <;> omega

theorem lt_signedNum_iff (n n' : Bool) {a a' : Nat} (h : a' < a) : signedNum n' a' < signedNum n a ↔ n = false := by
  cases n <;> cases n' <;> simp [signedNum] <;> omega

/-- Two quotients are compared as their units are. -/
theorem quot_lt_iff (n n' : Bool) {a b a' b' u u' : Nat} (hb : 0 < b) (hb' : 0 < b') (h : a * 2 ^ 149 = u * b) (h' : a' * 2 ^ 149 = u' * b') :
    signedNum n a * b' < signedNum n' a' * b ↔ signedNum n u < signedNum n' u' := by
  have e : signedNum n a * b' * 2 ^ 149 = signedNum n u * (b * b') := by
    have := signedNum_mul n a (2 ^ 149)
    rw [h, ← signedNum_mul] at this
    push_cast at this
    linear_combination (b' : ℤ) * this
  have e' : signedNum n' a' * b * 2 ^ 149 = signedNum n' u' * (b * b') := by
    have := signedNum_mul n' a' (2 ^ 149)
    rw [h', ← signedNum_mul] at this
    push_cast at this
    linear_combination (b : ℤ) * this
  rw [← Int.mul_lt_mul_right (by positivity : (0 : ℤ) < 2 ^ 149), e, e', Int.mul_lt_mul_right (by positivity)]

/-- `exLt` compares the units. -/
theorem exLt_iff {x y : W32} (hx : f32 x ≠ .nan) (hy : f32 y ≠ .nan) : exLt (f32 x) (f32 y) = true ↔ signedUnits x < signedUnits y := by
  have hinf : ∀ {m}, m < infMag → gridUnits m < gridUnits infMag := fun h => gridUnits_strictMono h
  have hpos : ∀ {m}, 0 < m → 0 < gridUnits m := fun h => gridUnits_strictMono h
  unfold signedUnits
  rcases f32_cases x with h | ⟨h, hm⟩ | ⟨h, hm⟩ | ⟨a, b, h, ha, hb, hab, hm0, hm⟩
  · exact absurd h hx
  · rcases f32_cases y with h' | ⟨h', hm'⟩ | ⟨h', hm'⟩ | ⟨a', b', h', ha', hb', hab', hm0', hm'⟩
    · exact absurd h' hy
    · rw [h, h', hm, hm']
      have hI : 0 < gridUnits infMag := hpos (by decide)
      cases negative x <;> cases negative y <;> simp [exLt, signedNum]
      omega
    · rw [h, h', hm, hm', signedNum_lt_iff _ _ (hinf (by decide))]
      rfl
    · rw [h, h', hm, signedNum_lt_iff _ _ (hinf hm')]
      rfl
  · rcases f32_cases y with h' | ⟨h', hm'⟩ | ⟨h', hm'⟩ | ⟨a', b', h', ha', hb', hab', hm0', hm'⟩
    · exact absurd h' hy
    · rw [h, h', hm, hm', lt_signedNum_iff _ _ (hinf (by decide))]
      simp [exLt]
    · simp [h, h', hm, hm', exLt, signedNum_zero]
    · rw [h, h', hm, gridUnits_zero, signedNum_zero, signedNum_pos_iff _ (hpos hm0')]
      simp [exLt]
  · rcases f32_cases y with h' | ⟨h', hm'⟩ | ⟨h', hm'⟩ | ⟨a', b', h', ha', hb', hab', hm0', hm'⟩
    · exact absurd h' hy
    · rw [h, h', hm', lt_signedNum_iff _ _ (hinf hm)]
      simp [exLt]
    · rw [h, h', hm', gridUnits_zero, signedNum_zero, signedNum_neg_iff _ (hpos hm0)]
      rfl
    · rw [h, h', ← quot_lt_iff _ _ hb hb' hab hab']
      simp [exLt]

theorem exLt_nan_left (x : Exact) : exLt .nan x = false := by cases x <;> rfl

theorem exLt_nan_right (x : Exact) : exLt x .nan = false := by cases x <;> rfl

/-- The order of R111 is that of the keys, of patterns that are no NaN. -/
theorem below_iff (x y : W32) : below x y ↔ f32 x ≠ .nan ∧ f32 y ≠ .nan ∧ orderKey x < orderKey y := by
  by_cases hx : f32 x = .nan
  · have h0 : x ≠ 0x80000000#32 := fun hc => absurd hx (by rw [hc]; decide)
    simp [below, hx, h0, exLt_nan_left]
  by_cases hy : f32 y = .nan
  · have h0 : y ≠ 0#32 := fun hc => absurd hy (by rw [hc]; decide)
    simp [below, hy, h0, exLt_nan_right]
  have hzero : (x = 0x80000000#32 ∧ y = 0#32) ↔ (negative x = true ∧ magOf x = 0) ∧ (negative y = false ∧ magOf y = 0) := by
    rw [show (0x80000000#32 : W32) = signedWord true 0 from rfl, show (0#32 : W32) = signedWord false 0 from rfl, ← signedWord_inj (magOf_lt x) (by decide),
      ← signedWord_inj (magOf_lt y) (by decide), signedWord_self, signedWord_self]
  have hlt : gridUnits (magOf x) < gridUnits (magOf y) ↔ magOf x < magOf y := gridUnits_strictMono.lt_iff_lt
  have hgt : gridUnits (magOf y) < gridUnits (magOf x) ↔ magOf y < magOf x := gridUnits_strictMono.lt_iff_lt
  have h0 : gridUnits (magOf x) = 0 ↔ magOf x = 0 := gridUnits_strictMono.injective.eq_iff' gridUnits_zero
  have h0' : gridUnits (magOf y) = 0 ↔ magOf y = 0 := gridUnits_strictMono.injective.eq_iff' gridUnits_zero
  rw [below, exLt_iff hx hy, hzero, orderKey_eq, orderKey_eq, signedUnits, signedUnits]
  simp only [hx, hy, ne_eq, not_false_eq_true, true_and]
  cases negative x <;> cases negative y <;> simp [signedNum] <;> omega

/-! MIN, MAX and REDMAX (R111, R115). -/

theorem minF_lesser (x y : W32) : lesser x y (minF x y) := by
  have hxn := isNaN32_iff x
  have hyn := isNaN32_iff y
  refine ⟨fun hx => ?_, fun hx hy => ?_, fun hx hy => ⟨fun h => ?_, fun h => ?_, fun h => ?_⟩⟩
  · rw [minF, if_pos (hxn.mpr hx)]
    exact if_congr hyn rfl rfl
  · rw [minF, if_neg (mt hxn.mp hx), if_pos (hyn.mpr hy)]
  all_goals rw [minF, if_neg (mt hxn.mp hx), if_neg (mt hyn.mp hy)]
  · exact if_neg (by have := ((below_iff x y).mp h).2.2; omega)
  · exact if_pos ((below_iff y x).mp h).2.2
  · rw [h, if_neg (lt_irrefl _)]

theorem maxF_greater (x y : W32) : greater x y (maxF x y) := by
  have hxn := isNaN32_iff x
  have hyn := isNaN32_iff y
  refine ⟨fun hx => ?_, fun hx hy => ?_, fun hx hy => ⟨fun h => ?_, fun h => ?_, fun h => ?_⟩⟩
  · rw [maxF, if_pos (hxn.mpr hx)]
    exact if_congr hyn rfl rfl
  · rw [maxF, if_neg (mt hxn.mp hx), if_pos (hyn.mpr hy)]
  all_goals rw [maxF, if_neg (mt hxn.mp hx), if_neg (mt hyn.mp hy)]
  · exact if_pos ((below_iff x y).mp h).2.2
  · exact if_neg (by have := ((below_iff y x).mp h).2.2; omega)
  · rw [h, if_neg (lt_irrefl _)]

/-- The greatest of some patterns, as R115 has it of the guarded lanes. -/
structure GreatestOf (xs : List W32) (z : W32) : Prop where
  nan : (∀ x ∈ xs, f32 x = .nan) → z = nanF32
  number : (∃ x ∈ xs, f32 x ≠ .nan) → z ∈ xs ∧ f32 z ≠ .nan ∧ ∀ x ∈ xs, ¬ below z x

theorem greatestOf_singleton (x : W32) : GreatestOf [x] (if isNaN32 x then nanF32 else x) := by
  by_cases h : f32 x = .nan
  · rw [if_pos ((isNaN32_iff x).mpr h)]
    exact ⟨fun _ => rfl, fun ⟨y, hy, hn⟩ => absurd (List.mem_singleton.mp hy ▸ h) hn⟩
  · rw [if_neg (mt (isNaN32_iff x).mp h)]
    refine ⟨fun hn => absurd (hn x (List.mem_singleton_self x)) h, fun _ => ⟨List.mem_singleton_self x, h, fun y hy => ?_⟩⟩
    rw [List.mem_singleton.mp hy, below_iff]
    omega

theorem GreatestOf.snoc {xs : List W32} {z : W32} (h : GreatestOf xs z) (y : W32) : GreatestOf (xs ++ [y]) (maxF z y) := by
  have hmem : ∀ {x}, x ∈ xs ++ [y] ↔ x ∈ xs ∨ x = y := by simp
  obtain ⟨hz, hy, hzy⟩ := maxF_greater z y
  by_cases hall : ∀ x ∈ xs, f32 x = .nan
  · have hznan : f32 z = .nan := by rw [h.nan hall]; decide
    rw [hz hznan]
    by_cases hyn : f32 y = .nan
    · rw [if_pos hyn]
      refine ⟨fun _ => rfl, fun ⟨x, hx, hn⟩ => ?_⟩
      rcases hmem.mp hx with hx | rfl
      · exact absurd (hall x hx) hn
      · exact absurd hyn hn
    · rw [if_neg hyn]
      refine ⟨fun hn => absurd (hn y (hmem.mpr (Or.inr rfl))) hyn, fun _ => ⟨hmem.mpr (Or.inr rfl), hyn, fun x hx => ?_⟩⟩
      rw [below_iff]
      rcases hmem.mp hx with hx | rfl
      · exact fun hc => hc.2.1 (hall x hx)
      · exact fun hc => lt_irrefl _ hc.2.2
  · obtain ⟨hzmem, hzn, hmax⟩ := h.number (by simpa using hall)
    have hnot : ¬ ∀ x ∈ xs ++ [y], f32 x = .nan := fun hn => hzn (hn z (hmem.mpr (Or.inl hzmem)))
    refine ⟨fun hn => absurd hn hnot, fun _ => ?_⟩
    by_cases hyn : f32 y = .nan
    · rw [hy hzn hyn]
      refine ⟨hmem.mpr (Or.inl hzmem), hzn, fun x hx => ?_⟩
      rcases hmem.mp hx with hx | rfl
      · exact hmax x hx
      · exact fun hc => ((below_iff z x).mp hc).2.1 hyn
    · obtain ⟨hlt, hgt, heq⟩ := hzy hzn hyn
      by_cases hb : below z y
      · rw [hlt hb]
        refine ⟨hmem.mpr (Or.inr rfl), hyn, fun x hx hc => ?_⟩
        rcases hmem.mp hx with hx | rfl
        · exact hmax x hx ((below_iff z x).mpr ⟨hzn, ((below_iff y x).mp hc).2.1,
            ((below_iff z y).mp hb).2.2.trans ((below_iff y x).mp hc).2.2⟩)
        · exact lt_irrefl _ ((below_iff x x).mp hc).2.2
      · have hmaxz : maxF z y = z := by
          by_cases hb' : below y z
          · exact hgt hb'
          · refine heq (orderKey_inj (le_antisymm ?_ ?_))
            · exact not_lt.mp fun hc => hb' ((below_iff y z).mpr ⟨hyn, hzn, hc⟩)
            · exact not_lt.mp fun hc => hb ((below_iff z y).mpr ⟨hzn, hyn, hc⟩)
        rw [hmaxz]
        refine ⟨hmem.mpr (Or.inl hzmem), hzn, fun x hx => ?_⟩
        rcases hmem.mp hx with hx | rfl
        · exact hmax x hx
        · exact hb

theorem greatestOf_foldl {f : Nat → W32} : ∀ (ls : List Nat) {xs : List W32} {z : W32}, GreatestOf xs z →
    GreatestOf (xs ++ ls.map f) (ls.foldl (fun r l => maxF r (f l)) z)
  | [], xs, z, h => by simpa using h
  | l :: ls, xs, z, h => by simpa using greatestOf_foldl ls (h.snoc (f l))

theorem redmaxF_greatest {v : Env} (h : guardedLanes v ≠ []) : greatest v (redmaxF v) := by
  have hg : GreatestOf ((guardedLanes v).map (laneA v)) (redmaxF v) := by
    rw [redmaxF, show guarded v = guardedLanes v from rfl]
    cases hl : guardedLanes v with
    | nil => exact absurd hl h
    | cons g gs => simpa using greatestOf_foldl (f := laneA v) gs (greatestOf_singleton (laneA v g))
  refine ⟨fun hn => hg.nan (by simpa using hn), fun hn => ?_⟩
  obtain ⟨hmem, hz, hmax⟩ := hg.number (by simpa using hn)
  obtain ⟨l, hl, hlz⟩ := List.mem_map.mp hmem
  exact ⟨⟨l, hl, hlz.symm, hz⟩, fun i hi => hmax _ (List.mem_map_of_mem hi)⟩

/-! REDADD (R114). -/

/-- The running sum as a pattern holds the value of the exact one. -/
theorem f32_foldl_sum (mode : RMode) (f : Nat → W32) : ∀ (ls : List Nat) (r : W32),
    f32 (ls.foldl (fun r l => toF32 mode (exAdd mode (f32 r) (f32 (f l)))) r) =
      ls.foldl (fun r l => f32 (toF32 mode (exAdd mode r (f32 (f l))))) (f32 r)
  | [], _ => rfl
  | l :: ls, r => by rw [List.foldl_cons, List.foldl_cons]; exact f32_foldl_sum mode f ls _

theorem redaddF_eq (v : Env) : redaddF v = laneSum v := by
  rw [redaddF, laneSum, show guarded v = guardedLanes v from rfl]
  cases guardedLanes v with
  | nil => rfl
  | cons g gs =>
    simp only
    rw [← f32_foldl_sum, toF32_f32]

/-- Settles O3: MIN and MAX choose by the order's key, REDMAX keeps the greatest of the lanes seen, and a sum kept as a pattern is
rounded to itself. -/
theorem floatLanes : Obligations.FloatLanes := by
  refine ⟨?_, fun w s v => ⟨fun h => ?_, fun h => ?_, fun h => ?_⟩⟩
  · exact
      lanesOf_cons_same (fun _ _ => rfl) <|                                                 -- ADD_F32
      lanesOf_cons_same (fun _ _ => rfl) <|                                                 -- SUB_F32
      lanesOf_cons_same (fun _ _ => rfl) <|                                                 -- MUL_F32
      lanesOf_cons_same (fun _ _ => rfl) <|                                                 -- FMA_F32
      lanesOf_cons_same (fun _ _ => rfl) <|                                                 -- NEG_F32
      lanesOf_cons_same (fun _ _ => rfl) <|                                                 -- ABS_F32
      lanesOf_cons_same (fun _ _ => rfl) <|                                                 -- SGNJ_F32
      lanesOf_cons_laneFire (fun _ _ => rfl) (fun _ _ => b2w_of_iff Iff.rfl) <|             -- CMPEQ_F32
      lanesOf_cons_laneFire (fun _ _ => rfl) (fun _ _ => b2w_of_iff Iff.rfl) <|             -- CMPLT_F32
      lanesOf_cons_laneFire (fun _ _ => rfl) (fun _ _ => b2w_of_iff Iff.rfl) <|             -- CMPLE_F32
      lanesOf_cons_laneFire (fun _ _ => rfl) (fun _ _ => b2w_of_iff
        (Bool.or_eq_true_iff.trans (or_congr (isNaN32_iff _) (isNaN32_iff _)))) <|          -- CMPUN_F32
      lanesOf_cons_laneFire (fun _ _ => rfl) (fun v _ => redaddF_eq v) lanesOf_nil          -- REDADD_F32
  · exact ⟨_, laneFire_all (f := fun v l => minF (laneA v l) (laneB v l)) rfl h, fun l => minF_lesser _ _⟩
  · exact ⟨_, laneFire_all (f := fun v l => maxF (laneA v l) (laneB v l)) rfl h, fun l => maxF_greater _ _⟩
  · exact ⟨_, laneFire_all (f := fun v _ => redmaxF v) rfl h, redmaxF_greatest⟩

end Sys2Proof.Machine

namespace Sys2Proof.Machine
open Sys2Proof Sys2Proof.Claims

/-! Code words (R124): codes side by side in a lane. -/

/-- The sum of `n` digits of `w` bits, the first lowest. -/
def digitSum (w : Nat) (d : Nat → Nat) (n : Nat) : Nat := (List.range n).foldl (fun r e => r + d e * 2 ^ (w * e)) 0

theorem digitSum_succ (w : Nat) (d : Nat → Nat) (n : Nat) : digitSum w d (n + 1) = digitSum w d n + d n * 2 ^ (w * n) := by
  simp [digitSum, List.range_succ]
section
variable {w : Nat} {d : Nat → Nat} (hd : ∀ e, d e < 2 ^ w)
include hd

theorem digitSum_lt (n : Nat) : digitSum w d n < 2 ^ (w * n) := by
  induction n with
  | zero => exact Nat.two_pow_pos _
  | succ n ih =>
    rw [digitSum_succ]
    calc digitSum w d n + d n * 2 ^ (w * n) < 1 * 2 ^ (w * n) + d n * 2 ^ (w * n) := by rw [one_mul]; exact Nat.add_lt_add_right ih _
      _ = (1 + d n) * 2 ^ (w * n) := (Nat.add_mul _ _ _).symm
      _ ≤ 2 ^ w * 2 ^ (w * n) := Nat.mul_le_mul_right _ (by have := hd n; omega)
      _ = 2 ^ (w * (n + 1)) := by rw [← pow_add, Nat.mul_succ, Nat.add_comm]

theorem digitSum_digit {n k : Nat} (hk : k < n) : digitSum w d n / 2 ^ (w * k) % 2 ^ w = d k := by
  induction n with
  | zero => omega
  | succ n ih =>
    rw [digitSum_succ]
    rcases Nat.lt_succ_iff_lt_or_eq.mp hk with h | rfl
    · obtain ⟨i, rfl⟩ : ∃ i, n = k + 1 + i := ⟨n - (k + 1), by omega⟩
      rw [show d (k + 1 + i) * 2 ^ (w * (k + 1 + i)) = d (k + 1 + i) * 2 ^ (w * i) * 2 ^ w * 2 ^ (w * k) by
          rw [Nat.mul_assoc, Nat.mul_assoc, ← pow_add, ← pow_add]; congr 2; ring,
        Nat.add_mul_div_right _ _ (Nat.two_pow_pos _), Nat.add_mul_mod_self_right, ih h]
    · rw [Nat.add_mul_div_right _ _ (Nat.two_pow_pos _), Nat.div_eq_of_lt (digitSum_lt hd k), Nat.zero_add, Nat.mod_eq_of_lt (hd k)]
end

/-- A code word holds its codes, where they fit. -/
theorem packs_qntWord {c : Nat} {code : Nat → Nat} (hc : 32 / c * c = 32) (hcode : ∀ e, code e < 2 ^ (32 / c)) (l : Nat) :
    Packs c code l (qntWord c code l) := by
  intro k hk
  have hd : ∀ e, code (c * l + e) % 2 ^ (32 / c) < 2 ^ (32 / c) := fun e => Nat.mod_lt _ (Nat.two_pow_pos _)
  have hlt := digitSum_lt hd c
  rw [hc] at hlt
  have hnat : (qntWord c code l).toNat = digitSum (32 / c) (fun e => code (c * l + e) % 2 ^ (32 / c)) c := by
    rw [qntWord, BitVec.toNat_ofNat]
    exact Nat.mod_eq_of_lt hlt
  rw [hnat, digitSum_digit hd hk, Nat.mod_eq_of_lt (hcode _)]

/-- A quantising firing leaves its codes. -/
theorem quantises_of_qntEffect {i : Instr} {s : State} {op : Nat} {w : Slot} {v : Env} {F : Env → Effect} {fmt c : Nat} {code : Nat → Nat}
    (hi : exec i s = fireSlot s op w F) (h : fireEnv s op w = some v) (hF : F v = qntEffect v fmt c code) (hc : 32 / c * c = 32)
    (hcode : ∀ e, code e < 2 ^ (32 / c)) : ∃ t, exec i s = .next t ∧ Quantises s t v c code := by
  obtain ⟨t, ht, hreg, hout, -⟩ := fireSlot_lanes hi h hF
  refine ⟨t, ht, fun d hd l hl => ?_, fun n hn => ?_⟩
  · rw [show Claims.elemOf t v = getEl t v.cl v.el from rfl, hreg d hd l hl]
    split
    · next hlim =>
      rw [regFill, if_pos hlim]
      exact packs_qntWord hc hcode l
    · next hlim => rw [regFill, if_neg hlim, if_neg hlim]
  · refine ⟨payFill v (ceilDiv v.vl c) (fun l => if l < ceilDiv v.vl c then some (qntWord c code l) else none), ?_, fun l _ => ?_⟩
    · have e := emittedTokens_lanes (hout n hn) fun l hl => groupLane_tokensOf 1 _ _ (by simpa [tokensOf] using hl)
      simpa [tokensOf] using e
    · split
      · next hlim =>
        rw [payFill, if_pos hlim, if_pos hlim]
        exact packs_qntWord hc hcode l
      · next hlim => rw [payFill, if_neg hlim]

/-! The codes (R125, R128). -/

theorem lt_vl_of_guardL {v : Env} {l : Nat} (h : guardL v l = true) : l < v.vl := by
  rw [guardL, guardAt, Bool.and_eq_true, decide_eq_true_iff] at h
  exact h.1

theorem lt_and_guardL_iff (v : Env) (l : Nat) : l < v.vl ∧ guardL v l = true ↔ guardL v l = true :=
  ⟨And.right, fun h => ⟨lt_vl_of_guardL h, h⟩⟩

theorem qgBits_cases (v : Env) : qgBits v = 4 ∨ qgBits v = 8 := by
  rw [qgBits]
  split
  · exact Or.inr rfl
  · exact Or.inl rfl

theorem recordZero_lt (v : Env) : recordZero v < 2 ^ qgBits v := Nat.mod_lt _ (Nat.two_pow_pos _)

/-- The code that the model computes, by the record's scale and the operand. -/
theorem qntQgCode_eq (v : Env) (e : Nat) : qntQgCode v e = qgCode v e := by
  have hz : qgZero v = recordZero v := rfl
  have hw : gcWidth v = qgBits v := rfl
  rw [qntQgCode, qgCode, show fval fmtF16 (qgScale v) = recordScale v from rfl, hz, hw]
  simp only
  cases recordScale v with
  | nan => rfl
  | inf n => rfl
  | zero n => rfl
  | fin n p q =>
    simp only [lt_and_guardL_iff]
    by_cases hg : guardL v e = true
    · simp only [hg, if_true, Bool.true_and]
      cases f32 (laneA v e) with
      | nan => rfl
      | zero m => rfl
      | inf m => cases m <;> cases n <;> rfl
      | fin m a b =>
        have hm : ((2 ^ qgBits v - 1 : ℕ) : ℤ) = 2 ^ qgBits v - 1 := by push_cast [Nat.one_le_two_pow]; rfl
        show (satInt 0 ((2 ^ qgBits v - 1 : ℕ) : ℤ) _).toNat = _
        rw [satInt_eq_clamp (Int.natCast_nonneg _), hm]
    · simp [hg]

theorem qgCode_lt (v : Env) (e : Nat) : qgCode v e < 2 ^ qgBits v := by
  have hz := recordZero_lt v
  have hp : 0 < 2 ^ qgBits v := Nat.two_pow_pos _
  unfold qgCode
  split
  · split
    · split
      · exact hz
      · exact hz
      · split <;> omega
      · have hc : ((2 ^ qgBits v : ℕ) : ℤ) = 2 ^ qgBits v := by push_cast; rfl
        omega
    · exact hz
  · exact hz

/-- A quotient by a power of two is the product by its inverse. -/
theorem exDiv_exPow2 (x : Exact) (k : Int) : exDiv x (exPow2 k) = exMul x (exPow2 (-k)) := by
  obtain ⟨a, b, h⟩ : ∃ a b, exPow2 k = .fin false a b ∧ exPow2 (-k) = .fin false b a := by
    rw [exPow2, exPow2, exScale, exScale, if_neg Nat.one_ne_zero, if_neg Nat.one_ne_zero]
    rcases lt_trichotomy k 0 with h | rfl | h
    · rw [if_neg (by omega), if_pos (by omega)]
      exact ⟨_, _, rfl, rfl⟩
    · exact ⟨1, 1, rfl, rfl⟩
    · rw [if_pos (by omega), if_neg (by omega), neg_neg]
      exact ⟨_, _, rfl, rfl⟩
  rw [h.1, h.2]
  cases x with
  | nan => rfl
  | inf n => rfl
  | zero n => rfl
  | fin n c d => rfl

theorem qntMx4Code_eq (v : Env) (e : Nat) : qntMx4Code v e = mx4Code v e := by
  rw [qntMx4Code, mx4Code, exDiv_exPow2, neg_sub]
  simp only [← and_assoc, lt_and_guardL_iff, Bool.and_eq_true, decide_eq_true_eq]
  split
  · split
    · next h => rw [h]; rfl
    · rfl
  · rfl

theorem fround_e2m1_lt (mode : RMode) (x : Exact) : fround fmtE2M1 mode x < 16 := by
  have hsign : ∀ n, fmtSign fmtE2M1 n ≤ 8 := by decide
  have hinf : ∀ n, fmtInf fmtE2M1 n < 16 := by decide
  have hmax : fmtMaxFin fmtE2M1 = 7 := rfl
  cases x with
  | nan => exact Nat.zero_lt_succ _
  | inf n => exact hinf n
  | zero n => exact (hsign n).trans_lt (by decide)
  | fin n a b =>
    have := hsign n
    rw [fround]
    split
    · omega
    · split
      · exact hinf n
      · omega

theorem mx4Code_lt (v : Env) (e : Nat) : mx4Code v e < 16 := by
  rw [mx4Code]
  split
  · exact fround_e2m1_lt _ _
  · exact Nat.zero_lt_succ _

/-! Dequantising (R124, R126, R129). -/

theorem guardedRes_getD (v : Env) (f : Nat → W32) (l : Nat) : (guardedRes v f l).getD 0#32 = if guardL v l then f l else 0#32 := by
  rw [guardedRes]
  split <;> rfl

/-- A dequantising firing: a lane firing into registers; on an output an unguarded lane is zero. -/
theorem dequantResult_of_dqntEffect {i : Instr} {s : State} {op : Nat} {w : Slot} {v : Env} {F : Env → Effect} {f : Nat → W32}
    (hi : exec i s = fireSlot s op w F) (h : fireEnv s op w = some v) (hF : F v = dqntEffect v f) :
    ∃ t, exec i s = .next t ∧ DequantResult s t v f := by
  have hnext := hi.trans (fireSlot_next F h)
  refine ⟨_, hnext, fun d hd => ?_, fun n hn => ?_⟩
  · obtain ⟨t, ht, hreg, -⟩ := laneEffect_all hi h (hF.trans (show dqntEffect v f =
      laneEffect v v.lg v.vl v.lg (headerDqnt v) (guardedRes v f) by simp [dqntEffect, hd]))
    cases hnext.symm.trans ht
    exact hreg d hd
  · obtain ⟨x, l, henv, -⟩ := fireEnv_some h
    have e := applyEffect_tokens (s := s) (v := v) (f := F v) (getLoad_of_env henv) (by rw [hF]; simp [dqntEffect, laneEffect, hn, baseEffect])
    rw [show (F v).out = n by rw [hF]; simp [dqntEffect, laneEffect, hn, baseEffect, outNo],
      show (F v).toks = tokensOf v.lg (fun l => (guardedRes v f l).getD 0#32) (headerDqnt v) by rw [hF]; simp [dqntEffect, hn]] at e
    have e' := emittedTokens_lanes e (pay := fun l => if guardL v l then f l else 0#32) fun l hl => by
      rw [groupLane_tokensOf _ _ _ (by simpa [tokensOf] using hl), guardedRes_getD]
    simpa [tokensOf] using e'

/-- Settles O4: a code word's digits are its codes, which fit their width, and the model's codes are the statement's. -/
theorem quantisationResults : Obligations.QuantisationResults := by
  intro w s v
  have hwidth : 32 / (32 / qgBits v) = qgBits v ∧ qgBits v * (32 / qgBits v) = 32 := by
    rcases qgBits_cases v with h | h <;> rw [h] <;> decide
  refine ⟨fun h => ?_, fun h => ?_, fun h => ?_, fun h => ?_⟩
  · exact quantises_of_qntEffect rfl h (congrArg (qntEffect v 7 (32 / qgBits v)) (funext (qntQgCode_eq v)))
      (by rw [hwidth.1, hwidth.2]) (by rw [hwidth.1]; exact qgCode_lt v)
  · exact quantises_of_qntEffect rfl h (congrArg (qntEffect v 6 8) (funext (qntMx4Code_eq v))) rfl (mx4Code_lt v)
  · exact dequantResult_of_dqntEffect rfl h rfl
  · exact dequantResult_of_dqntEffect rfl h rfl

end Sys2Proof.Machine

namespace Sys2Proof.Machine
open Sys2Proof Sys2Proof.Claims

/-! Element memory firings (R134, R135, R139 to R145). -/

theorem elem_of_fireEnv {s : State} {op : Nat} {w : Slot} {v : Env} (h : fireEnv s op w = some v) : getEl s v.cl v.el = v.e := by
  obtain ⟨x, l, henv, -⟩ := fireEnv_some h
  obtain ⟨-, -, -, -, he, -⟩ := envAt_some henv
  exact he.symm

/-- A slot fires only while its element awaits no answer (R33). -/
theorem not_held_of_fireEnv {s : State} {op : Nat} {w : Slot} {v : Env} (h : fireEnv s op w = some v) : v.e.held = false := by
  obtain ⟨x, l, -, -, -, hel⟩ := fireEnv_some h
  have hfree : elemFree v = true := by
    simp only [eligible, Bool.and_eq_true] at hel
    exact hel.1.1.1.1.2
  simp only [elemFree, Bool.and_eq_true, Bool.not_eq_true'] at hfree
  exact hfree.1.1.1.1.2

theorem byte_of_memParts {s t : State} (h : t.memParts = s.memParts) (a : Nat) : t.byte a = s.byte a :=
  congrArg (fun m : List Host.Cell × _ => memGet m.1 a) h

/-! What an issued access does to its element. -/

@[simp] theorem addCredits_rq (e : Elem) : (addCredits e).rq = e.rq := by unfold addCredits; split <;> rfl
@[simp] theorem addCredits_held (e : Elem) : (addCredits e).held = e.held := by unfold addCredits; split <;> rfl
@[simp] theorem chargeCredits_rq (sh k : Nat) (e : Elem) : (chargeCredits sh k e).rq = e.rq := by
  simp only [chargeCredits]; repeat' split
  all_goals rfl
@[simp] theorem chargeCredits_held (sh k : Nat) (e : Elem) : (chargeCredits sh k e).held = e.held := by
  simp only [chargeCredits]; repeat' split
  all_goals rfl
@[simp] theorem setCtx_rq (e : Elem) (sh : Nat) (c : OpCtx) : (setCtx e sh c).rq = e.rq := by unfold setCtx; split <;> rfl
@[simp] theorem setCtx_held (e : Elem) (sh : Nat) (c : OpCtx) : (setCtx e sh c).held = e.held := by unfold setCtx; split <;> rfl

@[simp] theorem firedElem_rq (v : Env) (f : Effect) (e : Elem) : (firedElem v f e).rq = e.rq := by
  simp only [firedElem]; split <;> simp
@[simp] theorem firedElem_held (v : Env) (f : Effect) (e : Elem) : (firedElem v f e).held = e.held := by
  simp only [firedElem]; split <;> simp

theorem applyEffect_rq (s : State) (v : Env) (f : Effect) :
    (getEl (applyEffect s v f) v.cl v.el).rq = (getEl s v.cl v.el).rq := by
  rcases applyEffect_elem s v f with h | h <;> rw [h] <;> exact firedElem_rq _ _ _
theorem applyEffect_held (s : State) (v : Env) (f : Effect) :
    (getEl (applyEffect s v f) v.cl v.el).held = (getEl s v.cl v.el).held := by
  rcases applyEffect_elem s v f with h | h <;> rw [h] <;> exact firedElem_held _ _ _

section
variable (s : State) (v : Env) (op : MemOp) (trunc : Bool) (accs : List LaneAcc)

/-- The entry goes to the end of the queue, whether its element waits for the answer or not. -/
theorem memBegin_rq : (getEl (memBegin s v op trunc accs) v.cl v.el).rq = (getEl s v.cl v.el).rq ++ [rqOf v op trunc accs] := by
  simp only [memBegin]
  split <;> simp [applyEffect_rq]

theorem memBegin_held : (getEl (memBegin s v op trunc accs) v.cl v.el).held =
    (decide (v.w.d.toNat < 16) || (getEl s v.cl v.el).held) := by
  by_cases hd : v.w.d.toNat < 16
  · simp [memBegin, rqOf, hd]
  · simp [memBegin, rqOf, hd, applyEffect_held]

theorem memBegin_regs (he : getEl s v.cl v.el = v.e) : (getEl (memBegin s v op trunc accs) v.cl v.el).regs = v.e.regs := by
  simp only [memBegin]
  split
  · rw [getEl_modEl_same, he]
    exact (chargeCredits_regs _ _ _).1.trans (addCredits_regs _).1
  · rw [getEl_modEl_same]
    exact applyEffect_regs s v (issueEffect v v.lg)
end

/-! Translation in ascending order of the lanes (R145). -/

/-- A translated access is still its lane's. -/
theorem transLanes_ok_lanes {s : State} {e : Elem} {cl asid need : Nat} {accs r : List LaneAcc}
    (h : transLanes s e cl asid need accs = .ok r) : r.map (·.lane) = accs.map (·.lane) := by
  induction accs generalizing r with
  | nil => cases h; rfl
  | cons a accs ih =>
    simp only [transLanes] at h
    split at h
    · cases h
    · cases h
    · split at h
      · next r' hr =>
        cases h
        exact congrArg (a.lane :: ·) (ih hr)
      · next hne => exact absurd h (hne r)

/-- A fault stands at one access, and all accesses before that one translate. -/
theorem transLanes_fault_split {s : State} {e : Elem} {cl asid need lane cls va : Nat} {accs : List LaneAcc}
    (h : transLanes s e cl asid need accs = .fault lane cls va) :
    ∃ pre a post r, accs = pre ++ a :: post ∧ a.lane = lane ∧ transLanes s e cl asid need pre = .ok r := by
  induction accs with
  | nil => cases h
  | cons a accs ih =>
    simp only [transLanes] at h
    split at h
    · cases h
    · cases h
      exact ⟨[], a, accs, [], rfl, rfl, rfl⟩
    · next pa hit =>
      split at h
      · cases h
      · obtain ⟨pre, b, post, r, rfl, hb, hr⟩ := ih h
        exact ⟨a :: pre, b, post, _, rfl, hb, by simp only [transLanes, hit, hr]; rfl⟩

/-- In ascending order the lanes below that of an access are those before it. -/
theorem filter_lane_lt_split {pre post : List LaneAcc} {a : LaneAcc}
    (h : ((pre ++ a :: post).map (·.lane)).Pairwise (· < ·)) :
    (pre ++ a :: post).filter (fun b => decide (b.lane < a.lane)) = pre := by
  rw [List.pairwise_map, List.pairwise_append, List.pairwise_cons] at h
  obtain ⟨-, ⟨hpost, -⟩, hpre⟩ := h
  rw [List.filter_append, List.filter_cons_of_neg (by simp),
    List.filter_eq_self.mpr fun b hb => decide_eq_true (hpre b hb a List.mem_cons_self),
    List.filter_eq_nil_iff.mpr fun b hb => by simpa using (hpost b hb).le, List.append_nil]

theorem transLanes_before_fault {s : State} {e : Elem} {cl asid need lane cls va : Nat} {accs : List LaneAcc}
    (hasc : (accs.map (·.lane)).Pairwise (· < ·)) (h : transLanes s e cl asid need accs = .fault lane cls va) :
    ∃ r, transLanes s e cl asid need (accs.filter (fun a => decide (a.lane < lane))) = .ok r := by
  obtain ⟨pre, a, post, r, rfl, rfl, hr⟩ := transLanes_fault_split h
  exact ⟨r, (congrArg _ (filter_lane_lt_split hasc)).trans hr⟩

/-! The accesses of a firing, and how it issues them. -/

theorem memAccs_lanes (v : Env) (off data cmp : Nat → W32) : (memAccs v off data cmp).map (·.lane) = guarded v := by
  simp [memAccs, Function.comp_def]
theorem guarded_ascending (v : Env) : (guarded v).Pairwise (· < ·) := List.pairwise_lt_range.filter _

/-- The address space and the permission that the accesses of a firing are translated with. -/
def issueAsid (s : State) (v : Env) : Nat := ((getLoad s v.sp).map (·.asid)).getD 0
def issueNeed (op : MemOp) : Nat := if !memWrites op then 1 else if accReads op then 3 else 2

theorem issuedAccs_tile {s : State} {v : Env} {op : MemOp} {off data cmp : Nat → W32} (hsp : mabSP v.c = true) :
    issuedAccs s v op off data cmp = .ok (memAccs v off data cmp) := if_pos hsp
theorem issuedAccs_virtual {s : State} {v : Env} {op : MemOp} {off data cmp : Nat → W32} (hsp : mabSP v.c = false) :
    issuedAccs s v op off data cmp = transLanes s v.e v.cl (issueAsid s v) (issueNeed op) (memAccs v off data cmp) :=
  if_neg (Bool.eq_false_iff.mp hsp)
theorem issuedOp_eq (v : Env) (op : MemOp) : issuedOp v op = if mabSP v.c then op else virtualOp op := rfl

section
variable {s : State} {v : Env} {op : MemOp} {off data cmp : Nat → W32}

theorem memIssue_of_ok {l : List LaneAcc} (first : Bool) (h : issuedAccs s v op off data cmp = .ok l) :
    memIssue s v op first off data cmp = memBegin s v (issuedOp v op) false l := by
  cases hsp : mabSP v.c with
  | true =>
    rw [issuedAccs_tile hsp] at h
    cases h
    simp [memIssue, issuedOp_eq, hsp]
  | false =>
    rw [issuedAccs_virtual hsp, issueAsid, issueNeed] at h
    simp only [memIssue, issuedOp_eq, hsp, h, Bool.false_eq_true, if_false]

variable {lane cls va : Nat} (h : issuedAccs s v op off data cmp = .fault lane cls va)
include h

/-- Only accesses to the virtual space fault, and they fault in their translation. -/
theorem transLanes_of_issuedAccs_fault : mabSP v.c = false ∧
    transLanes s v.e v.cl (issueAsid s v) (issueNeed op) (memAccs v off data cmp) = .fault lane cls va := by
  cases hsp : mabSP v.c with
  | true => rw [issuedAccs_tile hsp] at h; cases h
  | false => exact ⟨rfl, (issuedAccs_virtual hsp).symm.trans h⟩

theorem memIssue_of_fault {first : Bool} (hstop : (first && decide (0 < lane)) = false) :
    memIssue s v op first off data cmp =
      elemFault (modEl s v.cl v.el (fun e => { e with walkFault := none, faultSlot := v.slotNo })) v.cl v.el ⟨cls, 0, 0, va⟩ := by
  obtain ⟨hsp, ht⟩ := transLanes_of_issuedAccs_fault h
  rw [issueAsid, issueNeed] at ht
  simp only [memIssue, hsp, ht, hstop, Bool.false_eq_true, if_false]

/-- A first-fault firing issues the lanes before the fault. -/
theorem memIssue_of_later_fault (hlane : 0 < lane) :
    ∃ r, memIssue s v op true off data cmp = memBegin s (truncEnv v lane) (virtualOp op) true r ∧
      r.map (·.lane) = (guarded v).filter (fun k => decide (k < lane)) := by
  obtain ⟨hsp, ht⟩ := transLanes_of_issuedAccs_fault h
  obtain ⟨r, hr⟩ := transLanes_before_fault (by rw [memAccs_lanes]; exact guarded_ascending v) ht
  refine ⟨r, ?_, ?_⟩
  · rw [issueAsid, issueNeed] at ht hr
    simp only [memIssue, hsp, ht, hr, decide_eq_true hlane, Bool.and_self, Bool.false_eq_true, if_false, if_true]
  · rw [transLanes_ok_lanes hr, ← memAccs_lanes v off data cmp, List.filter_map]
    rfl
end

/-- Every form fires as the memory firing of its row, LDFF alone with first-fault truncation. -/
theorem exec_memForms : ∀ F ∈ memForms, ∀ (w : Slot) (s : State),
    exec (F.instr w) s = memFire s F.op w F.act (decide (F.op = 0xA3)) F.off F.data F.cmp := by
  simp only [memForms, List.forall_mem_cons]
  exact ⟨fun _ _ => rfl, fun _ _ => rfl, fun _ _ => rfl, fun _ _ => rfl, fun _ _ => rfl, fun _ _ => rfl, fun _ _ => rfl,
    fun _ _ => rfl, fun _ _ => rfl, fun _ _ => rfl, fun _ _ => rfl, fun _ _ => rfl, fun _ _ => rfl, fun _ _ => rfl,
    fun _ h => absurd h List.not_mem_nil⟩
theorem exec_memForm_next {F : Claims.MemForm} (hF : F ∈ memForms) {w : Slot} {s : State} {v : Env} (h : fireEnv s F.op w = some v) :
    exec (F.instr w) s = .next (memIssue s v (F.act v) (decide (F.op = 0xA3)) (F.off v) (F.data v) (F.cmp v)) := by
  rw [exec_memForms F hF, memFire, h]

theorem memoryFiringsIssue : MemoryFiringsIssue := by
  intro F hF w s v l h hok
  have he := elem_of_fireEnv h
  refine ⟨_, (exec_memForm_next hF h).trans (congrArg _ (memIssue_of_ok _ hok)), ?_, memBegin_regs s v _ false l he, ?_,
    byte_of_memParts (memBegin_memParts ..)⟩
  · rw [Claims.elemOf, memBegin_rq, he]
  · rw [Claims.elemOf, memBegin_held, he, not_held_of_fireEnv h, Bool.or_false]

theorem memoryFiringsFault : MemoryFiringsFault := by
  intro F hF w s v lane cls va h hfault
  have he := elem_of_fireEnv h
  have hnext := exec_memForm_next hF h
  refine ⟨fun hstop => ?_, fun hop hlane => ?_⟩
  · rw [memIssue_of_fault hfault (by rcases hstop with hne | h0 <;> simp [*])] at hnext
    refine ⟨_, hnext, elemFault_fault _ _ _ _, ?_, ?_, byte_of_memParts (by simp)⟩
    · simp [Claims.elemOf, elemFault]
    · simp [Claims.elemOf, elemFault, he]
  · obtain ⟨r, hissue, hlanes⟩ := memIssue_of_later_fault hfault hlane
    rw [decide_eq_true hop, hissue] at hnext
    refine ⟨_, rqOf (truncEnv v lane) (virtualOp (F.act v)) true r, hnext, ?_, rfl, rfl, hlanes⟩
    exact (memBegin_rq s (truncEnv v lane) _ true r).trans (congrArg (·.rq ++ _) he)

/-- Settles O35: an access that issues appends its entry and leaves registers and memory to the answer; the lanes ascend, so those
before the first fault are all that LDFF still issues. -/
theorem memoryFirings : Obligations.MemoryFirings := ⟨memoryFiringsIssue, memoryFiringsFault⟩

end Sys2Proof.Machine

namespace Sys2Proof.Machine
open Sys2Proof Sys2Proof.Claims

/-! Control-core and pattern words (R167 to R170, R206) as lists of fields, by the packing of slot words above. -/

/-- The fields of a word, of widths `ks` from bit `lo` on, lowest first. -/
def fieldsFrom (w : W32) : Nat → List Nat → List Nat
  | _, [] => []
  | lo, k :: ks => field (lo + k - 1) lo w :: fieldsFrom w (lo + k) ks

theorem unpackBits_fields (w : W32) {ks : List Nat} (hpos : ∀ k ∈ ks, 0 < k) (lo : Nat) :
    unpackBits ks (w.toNat / 2 ^ lo) = fieldsFrom w lo ks := by
  induction ks generalizing lo with
  | nil => rfl
  | cons k ks ih =>
    have hk : 0 < k := hpos k (.head _)
    rw [unpackBits, fieldsFrom, field, Nat.div_div_eq_div_mul, ← Nat.pow_add, ih (fun j hj => hpos j (.tail _ hj)),
      show lo + k - 1 + 1 - lo = k by omega]

/-- What a layout asks of its widths and of the fields put into it. -/
def FieldsFit (ks xs : List Nat) : Prop := ks.sum = 32 ∧ (∀ k ∈ ks, 0 < k) ∧ List.Forall₂ (fun k x => x < 2 ^ k) ks xs

/-- A word is packed of fields that fit exactly where it is made up of them. -/
theorem pack_eq_word_iff {ks xs : List Nat} {w : W32} (h : FieldsFit ks xs) :
    BitVec.ofNat 32 (packBits ks xs) = w ↔ fieldsFrom w 0 ks = xs := by
  obtain ⟨hsum, hpos, hlt⟩ := h
  rw [← unpackBits_fields w hpos 0, Nat.pow_zero, Nat.div_one]
  constructor
  · rintro rfl
    rw [BitVec.toNat_ofNat, ← hsum, unpackBits_mod, unpackBits_packBits hlt]
  · rintro rfl
    rw [packBits_unpackBits, hsum]
    exact BitVec.eq_of_toNat_eq (by simp [Nat.mod_eq_of_lt w.isLt])

/-- The layout of a computing or memory word (R172 to R178): the widths of its fields and what an instruction puts into them. -/
def dataParts (i : Instr) : Option (List Nat × List Nat) :=
  match i with
  | .add d a b => some ([11, 5, 5, 5, 6], [0, b.toNat, a.toNat, d.toNat, 0x00])
  | .sub d a b => some ([11, 5, 5, 5, 6], [1, b.toNat, a.toNat, d.toNat, 0x00])
  | .aluAnd d a b => some ([11, 5, 5, 5, 6], [2, b.toNat, a.toNat, d.toNat, 0x00])
  | .aluOr d a b => some ([11, 5, 5, 5, 6], [3, b.toNat, a.toNat, d.toNat, 0x00])
  | .aluXor d a b => some ([11, 5, 5, 5, 6], [4, b.toNat, a.toNat, d.toNat, 0x00])
  | .aluAndn d a b => some ([11, 5, 5, 5, 6], [5, b.toNat, a.toNat, d.toNat, 0x00])
  | .sll d a b => some ([11, 5, 5, 5, 6], [6, b.toNat, a.toNat, d.toNat, 0x00])
  | .srl d a b => some ([11, 5, 5, 5, 6], [7, b.toNat, a.toNat, d.toNat, 0x00])
  | .sra d a b => some ([11, 5, 5, 5, 6], [8, b.toNat, a.toNat, d.toNat, 0x00])
  | .slt d a b => some ([11, 5, 5, 5, 6], [9, b.toNat, a.toNat, d.toNat, 0x00])
  | .sltu d a b => some ([11, 5, 5, 5, 6], [10, b.toNat, a.toNat, d.toNat, 0x00])
  | .mul d a b => some ([11, 5, 5, 5, 6], [11, b.toNat, a.toNat, d.toNat, 0x00])
  | .mulh d a b => some ([11, 5, 5, 5, 6], [12, b.toNat, a.toNat, d.toNat, 0x00])
  | .mulhu d a b => some ([11, 5, 5, 5, 6], [13, b.toNat, a.toNat, d.toNat, 0x00])
  | .div d a b => some ([11, 5, 5, 5, 6], [14, b.toNat, a.toNat, d.toNat, 0x00])
  | .divu d a b => some ([11, 5, 5, 5, 6], [15, b.toNat, a.toNat, d.toNat, 0x00])
  | .rem d a b => some ([11, 5, 5, 5, 6], [16, b.toNat, a.toNat, d.toNat, 0x00])
  | .remu d a b => some ([11, 5, 5, 5, 6], [17, b.toNat, a.toNat, d.toNat, 0x00])
  | .min d a b => some ([11, 5, 5, 5, 6], [18, b.toNat, a.toNat, d.toNat, 0x00])
  | .max d a b => some ([11, 5, 5, 5, 6], [19, b.toNat, a.toNat, d.toNat, 0x00])
  | .minu d a b => some ([11, 5, 5, 5, 6], [20, b.toNat, a.toNat, d.toNat, 0x00])
  | .maxu d a b => some ([11, 5, 5, 5, 6], [21, b.toNat, a.toNat, d.toNat, 0x00])
  | .aluClz d a => some ([11, 5, 5, 5, 6], [22, 0, a.toNat, d.toNat, 0x00])
  | .aluPopc d a => some ([11, 5, 5, 5, 6], [23, 0, a.toNat, d.toNat, 0x00])
  | .addi d a i => some ([16, 5, 5, 6], [i.toNat, a.toNat, d.toNat, 0x01])
  | .coreAndi d a i => some ([16, 5, 5, 6], [i.toNat, a.toNat, d.toNat, 0x02])
  | .coreOri d a i => some ([16, 5, 5, 6], [i.toNat, a.toNat, d.toNat, 0x03])
  | .xori d a i => some ([16, 5, 5, 6], [i.toNat, a.toNat, d.toNat, 0x04])
  | .slli d a c => some ([6, 10, 5, 5, 6], [c.toNat, 0, a.toNat, d.toNat, 0x05])
  | .srli d a c => some ([6, 10, 5, 5, 6], [c.toNat, 0, a.toNat, d.toNat, 0x06])
  | .srai d a c => some ([6, 10, 5, 5, 6], [c.toNat, 0, a.toNat, d.toNat, 0x07])
  | .slti d a i => some ([16, 5, 5, 6], [i.toNat, a.toNat, d.toNat, 0x08])
  | .sltiu d a i => some ([16, 5, 5, 6], [i.toNat, a.toNat, d.toNat, 0x09])
  | .liu d i => some ([16, 5, 5, 6], [i.toNat, 0, d.toNat, 0x0A])
  | .ext h => some ([26, 6], [h.toNat, 0x3F])
  | .ldI8 d a s o => some ([13, 3, 5, 5, 6], [o.toNat, s.toNat, a.toNat, d.toNat, 0x10])
  | .ldN8 d a s o => some ([13, 3, 5, 5, 6], [o.toNat, s.toNat, a.toNat, d.toNat, 0x11])
  | .ldI16 d a s o => some ([13, 3, 5, 5, 6], [o.toNat, s.toNat, a.toNat, d.toNat, 0x12])
  | .ldN16 d a s o => some ([13, 3, 5, 5, 6], [o.toNat, s.toNat, a.toNat, d.toNat, 0x13])
  | .ldI32 d a s o => some ([13, 3, 5, 5, 6], [o.toNat, s.toNat, a.toNat, d.toNat, 0x14])
  | .ldN32 d a s o => some ([13, 3, 5, 5, 6], [o.toNat, s.toNat, a.toNat, d.toNat, 0x15])
  | .ld64 d a s o => some ([13, 3, 5, 5, 6], [o.toNat, s.toNat, a.toNat, d.toNat, 0x16])
  | .st8 d a s o => some ([13, 3, 5, 5, 6], [o.toNat, s.toNat, a.toNat, d.toNat, 0x18])
  | .st16 d a s o => some ([13, 3, 5, 5, 6], [o.toNat, s.toNat, a.toNat, d.toNat, 0x19])
  | .st32 d a s o => some ([13, 3, 5, 5, 6], [o.toNat, s.toNat, a.toNat, d.toNat, 0x1A])
  | .st64 d a s o => some ([13, 3, 5, 5, 6], [o.toNat, s.toNat, a.toNat, d.toNat, 0x1B])
  | .amoAdd d a b s r w => some ([5, 1, 2, 3, 5, 5, 5, 6], [0, w.toNat, r.toNat, s.toNat, b.toNat, a.toNat, d.toNat, 0x1C])
  | .amoAnd d a b s r w => some ([5, 1, 2, 3, 5, 5, 5, 6], [1, w.toNat, r.toNat, s.toNat, b.toNat, a.toNat, d.toNat, 0x1C])
  | .amoOr d a b s r w => some ([5, 1, 2, 3, 5, 5, 5, 6], [2, w.toNat, r.toNat, s.toNat, b.toNat, a.toNat, d.toNat, 0x1C])
  | .amoXor d a b s r w => some ([5, 1, 2, 3, 5, 5, 5, 6], [3, w.toNat, r.toNat, s.toNat, b.toNat, a.toNat, d.toNat, 0x1C])
  | .amoMin d a b s r w => some ([5, 1, 2, 3, 5, 5, 5, 6], [4, w.toNat, r.toNat, s.toNat, b.toNat, a.toNat, d.toNat, 0x1C])
  | .amoMax d a b s r w => some ([5, 1, 2, 3, 5, 5, 5, 6], [5, w.toNat, r.toNat, s.toNat, b.toNat, a.toNat, d.toNat, 0x1C])
  | .amoMinu d a b s r w => some ([5, 1, 2, 3, 5, 5, 5, 6], [6, w.toNat, r.toNat, s.toNat, b.toNat, a.toNat, d.toNat, 0x1C])
  | .amoMaxu d a b s r w => some ([5, 1, 2, 3, 5, 5, 5, 6], [7, w.toNat, r.toNat, s.toNat, b.toNat, a.toNat, d.toNat, 0x1C])
  | .amoSwp d a b s r w => some ([5, 1, 2, 3, 5, 5, 5, 6], [8, w.toNat, r.toNat, s.toNat, b.toNat, a.toNat, d.toNat, 0x1C])
  | .amoCas d a b s r w => some ([5, 1, 2, 3, 5, 5, 5, 6], [9, w.toNat, r.toNat, s.toNat, b.toNat, a.toNat, d.toNat, 0x1C])
  | .lda d a s w => some ([5, 1, 2, 3, 5, 5, 5, 6], [0, w.toNat, 0, s.toNat, 0, a.toNat, d.toNat, 0x1D])
  | .stl a b s w => some ([5, 1, 2, 3, 5, 5, 5, 6], [0, w.toNat, 0, s.toNat, b.toNat, a.toNat, 0, 0x1E])
  | .fence e s => some ([3, 1, 22, 6], [s.toNat, e.toNat, 0, 0x1F])
  | _ => none
/-- The layout of a branch, control or system word (R179 to R200). -/
def controlParts (i : Instr) : Option (List Nat × List Nat) :=
  match i with
  | .beq a b o => some ([16, 5, 5, 6], [o.toNat, b.toNat, a.toNat, 0x20])
  | .bne a b o => some ([16, 5, 5, 6], [o.toNat, b.toNat, a.toNat, 0x21])
  | .blt a b o => some ([16, 5, 5, 6], [o.toNat, b.toNat, a.toNat, 0x22])
  | .bge a b o => some ([16, 5, 5, 6], [o.toNat, b.toNat, a.toNat, 0x23])
  | .bltu a b o => some ([16, 5, 5, 6], [o.toNat, b.toNat, a.toNat, 0x24])
  | .bgeu a b o => some ([16, 5, 5, 6], [o.toNat, b.toNat, a.toNat, 0x25])
  | .jump o => some ([26, 6], [o.toNat, 0x26])
  | .jal o => some ([26, 6], [o.toNat, 0x27])
  | .jalr d a i => some ([16, 5, 5, 6], [i.toNat, a.toNat, d.toNat, 0x28])
  | .cfg d a => some ([16, 5, 5, 6], [0, a.toNat, d.toNat, 0x30])
  | .go => some ([26, 6], [1, 0x30])
  | .waitl d => some ([21, 5, 6], [2, d.toNat, 0x30])
  | .waitlNb d => some ([21, 5, 6], [3, d.toNat, 0x30])
  | .strm a b => some ([11, 5, 5, 5, 6], [0, b.toNat, a.toNat, 0, 0x31])
  | .mcast a b => some ([11, 5, 5, 5, 6], [0, b.toNat, a.toNat, 0, 0x32])
  | .launch d a q p => some ([1, 1, 14, 5, 5, 6], [p.toNat, q.toNat, 0, a.toNat, d.toNat, 0x33])
  | .waitg d a => some ([16, 5, 5, 6], [0, a.toNat, d.toNat, 0x34])
  | .barG m => some ([4, 22, 6], [m.toNat, 0, 0x35])
  | .barC a i => some ([6, 10, 5, 5, 6], [i.toNat, 512, a.toNat, 0, 0x35])
  | .prio d c => some ([2, 19, 5, 6], [c.toNat, 0, d.toNat, 0x36])
  | .rdlay d => some ([21, 5, 6], [0, d.toNat, 0x37])
  | .rdlayT d => some ([21, 5, 6], [1, d.toNat, 0x37])
  | .pin d a => some ([16, 5, 5, 6], [2, a.toNat, d.toNat, 0x37])
  | .unpin a => some ([16, 5, 5, 6], [3, a.toNat, 0, 0x37])
  | .rate d a b => some ([11, 5, 5, 5, 6], [0, b.toNat, a.toNat, d.toNat, 0x38])
  | .patld a b => some ([11, 5, 5, 5, 6], [0, b.toNat, a.toNat, 0, 0x39])
  | .coll d a => some ([16, 5, 5, 6], [0, a.toNat, d.toNat, 0x3A])
  | .collw d a => some ([16, 5, 5, 6], [1, a.toNat, d.toNat, 0x3A])
  | .cnt d a o i => some ([6, 2, 8, 5, 5, 6], [i.toNat, o.toNat, 0, a.toNat, d.toNat, 0x3B])
  | .coreTrap a c => some ([16, 5, 5, 6], [c.toNat, a.toNat, 0, 0x3C])
  | .eret => some ([26, 6], [0, 0x3D])
  | .wfi => some ([26, 6], [1, 0x3D])
  | .invr d a b => some ([11, 5, 5, 5, 6], [2, b.toNat, a.toNat, d.toNat, 0x3D])
  | .ctxsv a => some ([16, 5, 5, 6], [3, a.toNat, 0, 0x3D])
  | .ctxld a => some ([16, 5, 5, 6], [4, a.toNat, 0, 0x3D])
  | .syr d r => some ([12, 9, 5, 6], [r.toNat, 0, d.toNat, 0x3E])
  | .syw a r => some ([12, 4, 5, 5, 6], [r.toNat, 8, a.toNat, 0, 0x3E])
  | _ => none
/-- The layout of a control-core word. -/
def coreParts (i : Instr) : Option (List Nat × List Nat) := (dataParts i).or (controlParts i)

/-- The layout of a pattern word (R206). -/
def patternParts (i : Instr) : Option (List Nat × List Nat) :=
  match i with
  | .band g l h => some ([12, 12, 3, 5], [h.toNat, l.toNat, g.toNat, 0x01])
  | .dil g d => some ([12, 12, 3, 5], [d.toNat, 0, g.toNat, 0x02])
  | .bdiag g r c => some ([12, 12, 3, 5], [c.toNat, r.toNat, g.toNat, 0x03])
  | .kron g a b => some ([18, 3, 3, 3, 5], [0, b.toNat, a.toNat, g.toNat, 0x04])
  | .patHash g p k t => some ([16, 4, 4, 3, 5], [t.toNat, k.toNat, p.toNat, g.toNat, 0x05])
  | .offs g r c => some ([12, 12, 3, 5], [c.toNat, r.toNat, g.toNat, 0x06])
  | .clip g r c => some ([12, 12, 3, 5], [c.toNat, r.toNat, g.toNat, 0x07])
  | .patUnion g a b => some ([18, 3, 3, 3, 5], [0, b.toNat, a.toNat, g.toNat, 0x08])
  | .isect g a b => some ([18, 3, 3, 3, 5], [0, b.toNat, a.toNat, g.toNat, 0x09])
  | .patSwap g => some ([24, 3, 5], [0, g.toNat, 0x0A])
  | .brambleCnt g => some ([24, 3, 5], [0, g.toNat, 0x0B])
  | .emit g => some ([24, 3, 5], [0, g.toNat, 0x0C])
  | .patLoop j n b => some ([10, 12, 2, 3, 5], [b.toNat, n.toNat, j.toNat, 0, 0x0D])
  | .patEnd => some ([27, 5], [0, 0x0E])
  | _ => none

/-! The encoders pack the fields of the layouts, and every layout fits. -/

theorem encodeCore_of_parts {i : Instr} {p : List Nat × List Nat} (h : coreParts i = some p) :
    encodeCore i = some (BitVec.ofNat 32 (packBits p.1 p.2)) := by
  cases i <;> cases h
  all_goals
    refine congrArg (fun n => some (BitVec.ofNat 32 n)) ?_
    simp only [put, packBits, Nat.reducePow, Nat.reduceMul] <;> omega
theorem encodePattern_of_parts {i : Instr} {p : List Nat × List Nat} (h : patternParts i = some p) :
    encodePattern i = some (BitVec.ofNat 32 (packBits p.1 p.2)) := by
  cases i <;> cases h
  all_goals
    refine congrArg (fun n => some (BitVec.ofNat 32 n)) ?_
    simp only [put, packBits, Nat.reducePow, Nat.reduceMul] <;> omega
theorem coreParts_of_encodeCore {i : Instr} {w : W32} (h : encodeCore i = some w) : ∃ p, coreParts i = some p := by
  cases i <;> cases h <;> exact ⟨_, rfl⟩
theorem patternParts_of_encodePattern {i : Instr} {w : W32} (h : encodePattern i = some w) : ∃ p, patternParts i = some p := by
  cases i <;> cases h <;> exact ⟨_, rfl⟩
theorem coreParts_fit {i : Instr} {p : List Nat × List Nat} (h : coreParts i = some p) : FieldsFit p.1 p.2 := by
  cases i <;> cases h
  all_goals
    refine ⟨rfl, by simp, ?_⟩
    simp only [List.forall₂_cons, List.forall₂_nil_left_iff, and_true, BitVec.isLt, true_and]
    decide
theorem patternParts_fit {i : Instr} {p : List Nat × List Nat} (h : patternParts i = some p) : FieldsFit p.1 p.2 := by
  cases i <;> cases h
  all_goals
    refine ⟨rfl, by simp, ?_⟩
    simp only [List.forall₂_cons, List.forall₂_nil_left_iff, and_true, BitVec.isLt, true_and]
    decide

/-! The decoders read the fields of the layouts. -/

theorem coreRow_of_dataParts {i : Instr} {p : List Nat × List Nat} {w : W32} (h : dataParts i = some p)
    (hw : fieldsFrom w 0 p.1 = p.2) : coreRow w = some i := by
  cases i <;> cases h
  all_goals
    simp only [fieldsFrom, List.cons.injEq, and_true, Nat.reduceAdd, Nat.reduceSub, Nat.zero_add] at hw
    simp only [coreRow, hw, BitVec.ofNat_toNat, BitVec.setWidth_eq, reduceIte, Nat.reduceEqDiff, and_self]
/-- Where an opcode's rows are told apart by FN or by fields that must be 0, a row's fields rule out the rows before it. -/
theorem coreRow_of_controlParts {i : Instr} {p : List Nat × List Nat} {w : W32} (h : controlParts i = some p)
    (hw : fieldsFrom w 0 p.1 = p.2) : coreRow w = some i := by
  cases i <;> cases h
  all_goals
    simp only [fieldsFrom, List.cons.injEq, and_true, Nat.reduceAdd, Nat.reduceSub, Nat.zero_add] at hw
    simp only [coreRow, hw, BitVec.ofNat_toNat, BitVec.setWidth_eq, reduceIte, Nat.reduceEqDiff, and_self, false_and]
  case barC | syw | go => rw [if_neg (by simp only [field] at hw ⊢; omega)]
  case waitl | waitlNb | pin | unpin | invr =>
    rw [if_neg (by simp only [field] at hw ⊢; omega), if_neg (by simp only [field] at hw ⊢; omega)]
  case ctxsv | ctxld =>
    rw [if_neg (by simp only [field] at hw ⊢; omega), if_neg (by simp only [field] at hw ⊢; omega),
      if_neg (by simp only [field] at hw ⊢; omega)]
theorem coreRow_of_parts {i : Instr} {p : List Nat × List Nat} {w : W32} (h : coreParts i = some p)
    (hw : fieldsFrom w 0 p.1 = p.2) : coreRow w = some i := by
  rcases Option.or_eq_some_iff.mp h with hd | ⟨-, hc⟩
  · exact coreRow_of_dataParts hd hw
  · exact coreRow_of_controlParts hc hw
theorem decodePattern_of_parts {i : Instr} {p : List Nat × List Nat} {w : W32} (h : patternParts i = some p)
    (hw : fieldsFrom w 0 p.1 = p.2) : decodePattern w = some i := by
  cases i <;> cases h
  all_goals
    simp only [fieldsFrom, List.cons.injEq, and_true, Nat.reduceAdd, Nat.reduceSub, Nat.zero_add] at hw
    simp only [decodePattern, decodePatOp, hw, BitVec.ofNat_toNat, BitVec.setWidth_eq, reduceIte, Option.map_some, patInstr]

theorem toNat_ofNat_field {hi lo k : Nat} (w : W32) (h : hi + 1 - lo = k) : (BitVec.ofNat k (field hi lo w)).toNat = field hi lo w := by
  subst h
  rw [BitVec.toNat_ofNat, field, Nat.mod_mod]
theorem coreParts_of_coreRow {i : Instr} {w : W32} (h : coreRow w = some i) :
    ∃ p, coreParts i = some p ∧ fieldsFrom w 0 p.1 = p.2 := by
  unfold coreRow at h
  split at h
  all_goals repeat' split at h
  all_goals cases h
  all_goals
    refine ⟨_, rfl, ?_⟩
    simp only [fieldsFrom, Nat.reduceAdd, Nat.reduceSub, toNat_ofNat_field, *]
theorem patternParts_of_decodePattern {i : Instr} {w : W32} (h : decodePattern w = some i) :
    ∃ p, patternParts i = some p ∧ fieldsFrom w 0 p.1 = p.2 := by
  unfold decodePattern decodePatOp at h
  split at h
  all_goals repeat' split at h
  all_goals cases h
  all_goals
    refine ⟨_, rfl, ?_⟩
    simp only [fieldsFrom, Nat.reduceAdd, Nat.reduceSub, toNat_ofNat_field, *]

/-- Settles O26: encoder and decoder go through one layout, and a word is packed of fields exactly where it is made up of them. -/
theorem coreAndPatternRoundTrip : Obligations.CoreAndPatternRoundTrip := by
  refine ⟨fun i w h => ?_, fun i w h => ?_, fun i w h => ?_, fun i w h => ?_⟩
  · obtain ⟨p, hp⟩ := coreParts_of_encodeCore h
    exact coreRow_of_parts hp ((pack_eq_word_iff (coreParts_fit hp)).mp (Option.some.inj ((encodeCore_of_parts hp).symm.trans h)))
  · obtain ⟨p, hp, hw⟩ := coreParts_of_coreRow h
    rw [encodeCore_of_parts hp, (pack_eq_word_iff (coreParts_fit hp)).mpr hw]
  · obtain ⟨p, hp⟩ := patternParts_of_encodePattern h
    exact decodePattern_of_parts hp ((pack_eq_word_iff (patternParts_fit hp)).mp (Option.some.inj ((encodePattern_of_parts hp).symm.trans h)))
  · obtain ⟨p, hp, hw⟩ := patternParts_of_decodePattern h
    rw [encodePattern_of_parts hp, (pack_eq_word_iff (patternParts_fit hp)).mpr hw]

end Sys2Proof.Machine

namespace Sys2Proof.Machine
open Sys2Proof Sys2Proof.Claims

/-! The executing group (R164, R169): what a change of it leaves, its registers, how an instruction ends. -/

theorem curGrp_modCur {s : State} (hg : s.cur.grp < 4) (f : Group → Group) : curGrp (modCur s f) = f (curGrp s) :=
  getGrp_modGrp_same s s.cur.cl f hg
theorem getCl_modCur_ne (s : State) (f : Group → Group) {c : Nat} (h : c ≠ s.cur.cl) : getCl (modCur s f) c = getCl s c :=
  getCl_modCl_ne s _ h
/-- A change of the executing group changes nothing else in the machine. -/
theorem onlyGroup_modCur (s : State) (f : Group → Group) : OnlyGroup s (modCur s f) :=
  ⟨rfl, fun _ h => getCl_modCur_ne s f h, f (curGrp s), getCl_modCl_same s _ _⟩
theorem onlyGroup_cur {s t : State} (h : OnlyGroup s t) : t.cur = s.cur := by rw [h.1]
theorem vec4Set_get {α : Type} (v : Vec4 α) {i : Nat} (h : i < 4) : vec4Set v i (vec4Get v i) = v := by
  interval_cases i <;> rfl
theorem onlyGroup_refl {s : State} (hg : s.cur.grp < 4) : OnlyGroup s s := by
  refine ⟨rfl, fun _ _ => rfl, curGrp s, ?_⟩
  rw [show vec4Set (getCl s s.cur.cl).core.grp s.cur.grp (curGrp s) = (getCl s s.cur.cl).core.grp from vec4Set_get _ hg]
theorem vec4Set_set {α : Type} (v : Vec4 α) (i : Nat) (x y : α) : vec4Set (vec4Set v i x) i y = vec4Set v i y :=
  match i with
  | 0 | 1 | 2 | 3 | _ + 4 => rfl
theorem onlyGroup_trans {s t u : State} (h : OnlyGroup s t) (k : OnlyGroup t u) : OnlyGroup s u := by
  have hcur := onlyGroup_cur h
  obtain ⟨h1, h2, g, h3⟩ := h
  obtain ⟨k1, k2, g', k3⟩ := k
  rw [hcur] at k2 k3
  refine ⟨by rw [k1, h1], fun c hc => (k2 c hc).trans (h2 c hc), g', ?_⟩
  rw [k3, h3]
  exact congrArg (fun v => { getCl s s.cur.cl with core := { (getCl s s.cur.cl).core with grp := v } }) (vec4Set_set _ _ _ _)

@[simp] theorem xget_zero (g : Group) : xget g 0#5 = 0#64 := rfl
theorem xget_congr {g h : Group} (hx : g.x = h.x) (r : BitVec 5) : xget g r = xget h r := by unfold xget; rw [hx]
/-- A register after a write (R164): x0 takes none. -/
theorem xget_xset (g : Group) (d r : BitVec 5) (v : W64) : xget (xset d v g) r = if r = d ∧ d ≠ 0#5 then v else xget g r := by
  unfold xget xset
  by_cases hd : d = 0#5
  · simp [hd]
  · by_cases hr : r = 0#5
    · have : ¬ r = d := fun h => hd (h.symm.trans hr)
      rw [if_pos hr, if_neg (by simp [this]), if_pos hr]
    · rw [if_neg hr, if_neg hd, if_neg hr]
      simp only
      rw [vec32Get_set _ _ d.isLt r.isLt]
      by_cases h : r = d
      · rw [if_pos (by rw [h]), if_pos ⟨h, hd⟩]
      · rw [if_neg (fun e => h (BitVec.eq_of_toNat_eq e)), if_neg (fun e => h e.1)]
/-- A write to a register changes the registers alone. -/
theorem xset_eq (g : Group) (d : BitVec 5) (v : W64) : xset d v g = { g with x := (xset d v g).x } := by
  unfold xset
  split <;> rfl

theorem curGrp_finish {s : State} (hg : s.cur.grp < 4) (len : Nat) (d : BitVec 5) (v : W64) :
    curGrp (finish s len d v) = advance len (xset d v (curGrp s)) := curGrp_modCur hg _
theorem curGrp_skip {s : State} (hg : s.cur.grp < 4) (len : Nat) : curGrp (skip s len) = advance len (curGrp s) := curGrp_modCur hg _
theorem xget_finish {s : State} (hg : s.cur.grp < 4) (len : Nat) (d r : BitVec 5) (v : W64) :
    xget (curGrp (finish s len d v)) r = if r = d ∧ d ≠ 0#5 then v else xget (curGrp s) r := by
  rw [curGrp_finish hg]
  exact xget_xset _ d r v
theorem pc_finish {s : State} (hg : s.cur.grp < 4) (len : Nat) (d : BitVec 5) (v : W64) :
    (curGrp (finish s len d v)).pc = (curGrp s).pc + BitVec.ofNat 52 len := by
  rw [curGrp_finish hg, xset_eq]
  rfl

/-- `finish` ends an instruction that writes one register. -/
theorem writesAfter_finish {i : Instr} {s s0 : State} {len : Nat} {d : BitVec 5} {v : W64} (hg : s0.cur.grp < 4)
    (hi : exec i s = .next (finish s0 len d v)) (hx : (curGrp s0).x = (curGrp s).x) (hpc : (curGrp s0).pc = (curGrp s).pc) :
    WritesAfter i s s0 len d v := by
  refine ⟨_, hi, onlyGroup_modCur s0 _, fun r => ?_, ?_⟩
  · rw [xget_finish hg, xget_congr hx]
  · rw [curGrp_finish hg, xset_eq, ← hpc]
    rfl
theorem writesRegister_finish {i : Instr} {s : State} {len : Nat} {d : BitVec 5} {v : W64} (hg : s.cur.grp < 4)
    (hi : exec i s = .next (finish s len d v)) : WritesRegister i s len d v := writesAfter_finish hg hi rfl rfl
/-- The same where the instruction's state before it wrote a register is said by `q`. -/
theorem answers_finish {i : Instr} {s s0 : State} {d : BitVec 5} {v : W64} {q : State → Prop} (hg : s0.cur.grp < 4)
    (hi : exec i s = .next (finish s0 4 d v)) (hx : (curGrp s0).x = (curGrp s).x) (hpc : (curGrp s0).pc = (curGrp s).pc)
    (hq : q (finish s0 4 d v)) : Answers i s d v q :=
  ⟨_, hi, fun r => by rw [xget_finish hg, xget_congr hx], by rw [pc_finish hg, hpc], hq⟩
/-- `skip` ends an instruction that writes none. -/
theorem answers_skip {i : Instr} {s s0 : State} {q : State → Prop} (hg : s0.cur.grp < 4) (hi : exec i s = .next (skip s0 4))
    (hx : (curGrp s0).x = (curGrp s).x) (hpc : (curGrp s0).pc = (curGrp s).pc) (hq : q (skip s0 4)) : Answers i s 0#5 0#64 q := by
  refine ⟨_, hi, fun r => ?_, ?_, hq⟩
  · rw [if_neg (fun h => h.2 rfl), curGrp_skip hg]
    exact xget_congr hx r
  · rw [curGrp_skip hg, ← hpc]
    rfl
/-- `waitFor` leaves an instruction waiting. -/
theorem waits_waitFor {i : Instr} {s s0 : State} {w : Wait} {q : State → Prop} (hg : s0.cur.grp < 4)
    (hi : exec i s = .next (modCur s0 (waitFor w))) (hx : (curGrp s0).x = (curGrp s).x) (hpc : (curGrp s0).pc = (curGrp s).pc)
    (hq : q (modCur s0 (waitFor w))) : Waits i s w q := by
  refine ⟨_, hi, ?_, ?_, ?_, hq⟩ <;> rw [curGrp_modCur hg]
  · rfl
  · exact hx
  · exact hpc

/-! Traps (R196, R201). -/

theorem causeWord_eq (df : Bool) (r : FaultRec) :
    causeWord df r = BitVec.ofNat 64 ((if df then 2 ^ 63 else 0) + (r.info % 65536 * 65536 + r.sub % 256 * 256 + r.cls % 256)) := by
  refine congrArg (BitVec.ofNat 64) ?_
  cases df <;> simp only [causeWord.put64, Nat.reducePow, if_true, if_false, Bool.false_eq_true] <;> omega
theorem trapStatus_eq (g : Group) : 1 + 2 * b2n (modeOf g) + 8 * b2n (ieOf g) =
    1 + (if bitAt 0 g.status then 2 else 0) + (if bitAt 2 g.status then 8 else 0) := by
  unfold b2n modeOf ieOf
  cases bitAt 0 g.status <;> cases bitAt 2 g.status <;> rfl
/-- A synchronous trap of user code enters the trap. -/
theorem takeTrap_enters {s : State} (hg : s.cur.grp < 4) (hm : bitAt 0 (curGrp s).status = false) (r : FaultRec) :
    EntersTrap s (takeTrap s r) r.cls r.sub r.info r.tval := by
  have h : takeTrap s r = modCur s (enterTrap (getCl s s.cur.cl).core.tvec (curGrp s).pc r) := by
    unfold takeTrap trapGroup modeOf
    exact if_neg (by rw [show getGrp s s.cur.cl s.cur.grp = curGrp s from rfl, hm]; decide)
  rw [h]
  refine ⟨onlyGroup_modCur s _, ?_⟩
  rw [curGrp_modCur hg, enterTrap, causeWord_eq, trapStatus_eq]
  simp only [Bool.false_eq_true, if_false, Nat.zero_add]
theorem illegal_enters {s : State} (hg : s.cur.grp < 4) (hm : bitAt 0 (curGrp s).status = false) (sub : Nat) :
    EntersTrap s (illegal s sub) 4 sub 0 0 := takeTrap_enters hg hm ⟨4, sub, 0, 0⟩
/-- An illegal instruction of user code. -/
theorem entersTrap_illegal {i : Instr} {s : State} {sub : Nat} (hg : s.cur.grp < 4) (hm : bitAt 0 (curGrp s).status = false)
    (hi : exec i s = .next (illegal s sub)) : ∃ t, exec i s = .next t ∧ EntersTrap s t 4 sub 0 0 := ⟨_, hi, illegal_enters hg hm sub⟩
theorem superOnly_user {s : State} (hm : bitAt 0 (curGrp s).status = false) (t : State) : superOnly s t = illegal s 5 :=
  if_neg (by rw [modeOf, hm]; decide)
theorem superOnly_super {s : State} (hm : bitAt 0 (curGrp s).status = true) (t : State) : superOnly s t = t := if_pos hm

end Sys2Proof.Machine

namespace Sys2Proof.Machine
open Sys2Proof Sys2Proof.Claims

/-! Arithmetic, immediates, branches and jumps of a control core (R172, R173, R179). -/

theorem setIf_ltS (x y : W64) : setIf (ltS x y) = if x.toInt < y.toInt then 1#64 else 0#64 := by
  simp [setIf, ltS, BitVec.slt_iff_toInt_lt]
theorem setIf_ltU (x y : W64) : setIf (ltU x y) = if x.toNat < y.toNat then 1#64 else 0#64 := by
  simp [setIf, ltU, BitVec.ult_iff_lt, BitVec.lt_def]
theorem ite_ltS {α : Type} (x y : W64) (a b : α) : (if ltS x y then a else b) = if x.toInt < y.toInt then a else b := by
  simp [ltS, BitVec.slt_iff_toInt_lt]
theorem ite_ltU {α : Type} (x y : W64) (a b : α) : (if ltU x y then a else b) = if x.toNat < y.toNat then a else b := by
  simp [ltU, BitVec.ult_iff_lt, BitVec.lt_def]

/-- An instruction of two registers whose function is the statement's. -/
theorem writesRegister_aluRR {i : Instr} {s : State} {d a b : BitVec 5} {f : W64 → W64 → W64} {v : W64} (hg : s.cur.grp < 4)
    (hi : exec i s = .next (aluRR s d a b f)) (hv : f (xget (curGrp s) a) (xget (curGrp s) b) = v) : WritesRegister i s 4 d v := by
  rw [← hv]
  exact writesRegister_finish hg hi
/-- An instruction of a register and an immediate whose function is the statement's. -/
theorem writesAfter_aluRI {i : Instr} {s s0 : State} {len : Nat} {d a : BitVec 5} {imm : W64} {f : W64 → W64 → W64} {v : W64}
    (hg : s0.cur.grp < 4) (hs : curGrp s0 = curGrp s) (hi : exec i s = .next (aluRI s0 len d a imm f))
    (hv : f (xget (curGrp s) a) imm = v) : WritesAfter i s s0 len d v := by
  rw [← hv]
  exact writesAfter_finish hg (by rw [hi, aluRI, hs]) (by rw [hs]) (by rw [hs])

/-- A word of the ALU's opcode whose FN is unassigned, or that names an xb where there is none. -/
theorem aluWord_none {w : W32} (h0 : field 31 26 w = 0)
    (h : 0x18 ≤ field 10 0 w ∨ ((field 10 0 w = 0x16 ∨ field 10 0 w = 0x17) ∧ field 15 11 w ≠ 0)) : coreRow w = none := by
  simp only [coreRow, h0]
  rcases h with h | ⟨h | h, hb⟩
  · split
    case h_25 => rfl
    all_goals omega
  · simp only [h, hb, if_false]
  · simp only [h, hb, if_false]

/-- Settles O6, form by form. -/
theorem coreArithmetic : Obligations.CoreArithmetic := by
  intro s d a b hg
  refine ⟨?_, writesRegister_aluRR (b := 0#5) hg rfl rfl, writesRegister_aluRR (b := 0#5) hg rfl rfl, fun w h0 => ⟨fun h => ?_, fun h hb => ?_⟩⟩
  · simp only [aluForms, List.forall_mem_cons, List.not_mem_nil, false_imp_iff, implies_true, and_true]
    exact ⟨writesRegister_aluRR hg rfl rfl, writesRegister_aluRR hg rfl rfl, writesRegister_aluRR hg rfl rfl, writesRegister_aluRR hg rfl rfl,
      writesRegister_aluRR hg rfl rfl, writesRegister_aluRR hg rfl rfl, writesRegister_aluRR hg rfl rfl, writesRegister_aluRR hg rfl rfl,
      writesRegister_aluRR hg rfl rfl, writesRegister_aluRR hg rfl (setIf_ltS _ _), writesRegister_aluRR hg rfl (setIf_ltU _ _),
      writesRegister_aluRR hg rfl rfl, writesRegister_aluRR hg rfl rfl, writesRegister_aluRR hg rfl rfl, writesRegister_aluRR hg rfl rfl,
      writesRegister_aluRR hg rfl rfl, writesRegister_aluRR hg rfl rfl, writesRegister_aluRR hg rfl rfl,
      writesRegister_aluRR hg rfl (ite_ltS _ _ _ _), writesRegister_aluRR hg rfl (ite_ltS _ _ _ _),
      writesRegister_aluRR hg rfl (ite_ltU _ _ _ _), writesRegister_aluRR hg rfl (ite_ltU _ _ _ _)⟩
  · rw [decodeCore, aluWord_none h0 (.inl h), coreSub, coreFnBad, h0]
    simp [coreOpcAssigned, h]
  · exact aluWord_none h0 (.inr ⟨h, hb⟩)

/-- Settles O7, form by form. -/
theorem coreImmediates : Obligations.CoreImmediates := by
  intro s d a i c hg
  refine ⟨?_, writesAfter_aluRI hg rfl rfl rfl, writesAfter_aluRI hg rfl rfl rfl, writesAfter_aluRI hg rfl rfl rfl,
    writesAfter_aluRI (a := 0#5) hg rfl rfl rfl⟩
  simp only [immForms, List.forall_mem_cons, List.not_mem_nil, false_imp_iff, implies_true, and_true]
  exact ⟨writesAfter_aluRI hg rfl rfl rfl, writesAfter_aluRI hg rfl rfl rfl, writesAfter_aluRI hg rfl rfl rfl, writesAfter_aluRI hg rfl rfl rfl,
    writesAfter_aluRI hg rfl rfl (setIf_ltS _ _), writesAfter_aluRI hg rfl rfl (setIf_ltU _ _)⟩

/-! Branches (R179). -/

/-- A jump leaves the executing group with its pc, and with its registers as they were or with the link. -/
theorem jumpsAfter_of_group {i : Instr} {s s0 t : State} {link : Option (BitVec 5 × W64)} {pc : Addr} (hs : curGrp s0 = curGrp s)
    (hi : exec i s = .next t) (ho : OnlyGroup s0 t)
    (ht : curGrp t = match link with
      | some (d, v) => { xset d v (curGrp s) with pc := pc }
      | none => { curGrp s with pc := pc }) : JumpsAfter i s s0 link pc := by
  refine ⟨_, hi, ho, ?_⟩
  rw [ht, hs]
  cases link with
  | none => exact ⟨fun _ => rfl, rfl⟩
  | some l =>
    refine ⟨fun r => xget_xset (curGrp s) l.1 r l.2, ?_⟩
    dsimp only
    rw [xset_eq]
theorem jumpsAfter_modCur {i : Instr} {s s0 : State} {link : Option (BitVec 5 × W64)} {pc : Addr} {f : Group → Group} (hg : s0.cur.grp < 4)
    (hs : curGrp s0 = curGrp s) (hi : exec i s = .next (modCur s0 f))
    (hf : f (curGrp s) = match link with
      | some (d, v) => { xset d v (curGrp s) with pc := pc }
      | none => { curGrp s with pc := pc }) : JumpsAfter i s s0 link pc :=
  jumpsAfter_of_group hs hi (onlyGroup_modCur s0 f) (by rw [curGrp_modCur hg, hs, hf])
theorem jumpsAfter_branch {i : Instr} {s s0 : State} {len : Nat} {a b : BitVec 5} {off : W64} {rel : W64 → W64 → Bool} {c : Bool}
    (hg : s0.cur.grp < 4) (hs : curGrp s0 = curGrp s) (hi : exec i s = .next (coreBranch s0 len a b off rel))
    (hc : rel (xget (curGrp s) a) (xget (curGrp s) b) = c) :
    JumpsAfter i s s0 none (if c then (curGrp s).pc + (off * 4#64).setWidth 52 else (curGrp s).pc + BitVec.ofNat 52 len) := by
  rw [← hc]
  refine jumpsAfter_modCur hg hs (by rw [hi, coreBranch, branchTo, hs]) ?_
  dsimp only
  split <;> rfl
theorem jumpsAfter_jalr {i : Instr} {s s0 : State} {len : Nat} {d a : BitVec 5} {imm : W64} (hg : s0.cur.grp < 4)
    (hs : curGrp s0 = curGrp s) (hi : exec i s = .next (coreJalr s0 len d a imm)) :
    JumpsAfter i s s0 (some (d, ((curGrp s).pc + BitVec.ofNat 52 len).setWidth 64))
      (BitVec.ofNat 52 ((xget (curGrp s) a + imm).toNat % 2 ^ 52 / 4 * 4)) :=
  jumpsAfter_modCur hg hs hi rfl

theorem ltS_eq (x y : W64) : ltS x y = decide (x.toInt < y.toInt) := BitVec.slt_eq_decide
theorem ltU_eq (x y : W64) : ltU x y = decide (x.toNat < y.toNat) := rfl
theorem not_ltS_eq (x y : W64) : (!ltS x y) = decide (y.toInt ≤ x.toInt) := by
  rw [ltS_eq, ← decide_not]
  exact decide_eq_decide.mpr Int.not_lt
theorem not_ltU_eq (x y : W64) : (!ltU x y) = decide (y.toNat ≤ x.toNat) := by
  rw [ltU_eq, ← decide_not]
  exact decide_eq_decide.mpr Nat.not_lt
theorem beq_eq_decide (x y : W64) : (x == y) = decide (x = y) := rfl
theorem bne_eq_decide (x y : W64) : (x != y) = decide (x ≠ y) := (decide_not).symm

/-- Settles O9: a branch moves the pc by its relation; JALR forms its target in the group as it was. -/
theorem branchesAndJumps : Obligations.BranchesAndJumps := by
  intro s d a b o j hg
  refine ⟨?_, jumpsAfter_modCur hg rfl rfl rfl, ?_, jumpsAfter_jalr hg rfl rfl⟩
  · simp only [branchForms, List.forall_mem_cons, List.not_mem_nil, false_imp_iff, implies_true, and_true]
    exact ⟨jumpsAfter_branch hg rfl rfl (beq_eq_decide _ _), jumpsAfter_branch hg rfl rfl (bne_eq_decide _ _),
      jumpsAfter_branch hg rfl rfl (ltS_eq _ _), jumpsAfter_branch hg rfl rfl (not_ltS_eq _ _),
      jumpsAfter_branch hg rfl rfl (ltU_eq _ _), jumpsAfter_branch hg rfl rfl (not_ltU_eq _ _)⟩
  · refine jumpsAfter_of_group rfl rfl (onlyGroup_trans (onlyGroup_modCur s _) (onlyGroup_modCur _ _)) ?_
    rw [branchTo, curGrp_modCur (s := modCur s _) hg, curGrp_modCur hg, xset_eq]
    rfl

end Sys2Proof.Machine

namespace Sys2Proof.Machine
open Sys2Proof Sys2Proof.Claims

/-! Traps, double faults and returns (R171, R196, R197, R201). -/

/-- The interrupt of a partition is raised on the vector of PIVEC, where a VF has it (R354). -/
theorem partitionInterrupt_msix (s : State) (p : Nat) : (partitionInterrupt s p).hub.msix = s.hub.msix ++
    (if field 6 0 (getPart s p).pivec < 120 then [(p + 1, field 6 0 (getPart s p).pivec)] else []) := by
  unfold partitionInterrupt raiseVec modPart modHub vecCount
  simp only [Nat.add_eq_zero_iff, Nat.one_ne_zero, and_false, if_false]
  by_cases h : field 6 0 (getPart s p).pivec < 120
  · rw [if_neg (Nat.not_le.mpr h), if_pos h]
  · rw [if_pos (Nat.not_lt.mp h), if_neg h, List.append_nil]
theorem getCl_partitionInterrupt (s : State) (p c : Nat) : getCl (partitionInterrupt s p) c = getCl s c :=
  getCl_congr (partitionInterrupt_clusters s p) c
theorem spanAt_modGrp (s : State) (cl g : Nat) (f : Group → Group) (c : Nat) : spanAt (modGrp s cl g f) c = spanAt s c := by
  unfold spanAt
  rw [show (getCl (modGrp s cl g f) c).span = (getCl s c).span by unfold modGrp modCore; rw [getCl_modCl]; split <;> simp [*]]
  rfl
/-- A synchronous trap of supervisor code stops the group. -/
theorem takeTrap_stops {s : State} (hg : s.cur.grp < 4) (hm : bitAt 0 (curGrp s).status = true) (r : FaultRec) :
    StopsDouble s (takeTrap s r) r.cls r.sub r.info r.tval := by
  have h : takeTrap s r = partitionInterrupt (modCur s (doubleFault r)) (partOfCl s s.cur.cl) := if_pos hm
  rw [h]
  refine ⟨?_, rfl, rfl, partitionInterrupt_msix _ _⟩
  rw [curGrp, partitionInterrupt_cur, getGrp_congr (congrArg _ (getCl_partitionInterrupt _ _ _)), modCur_cur]
  rw [show getGrp (modCur s (doubleFault r)) s.cur.cl s.cur.grp = _ from curGrp_modCur hg _, doubleFault, causeWord_eq]
  rfl

theorem trapEntry : TrapEntry := by
  intro s sub a c hg
  have hc (hc0 : c ≠ 0#16) : exec (.coreTrap a c) s = .next (takeTrap s ⟨0x10, 0, c.toNat, 0⟩) := if_neg hc0
  exact ⟨fun hm => ⟨entersTrap_illegal hg hm rfl, fun hc0 => ⟨_, hc hc0, takeTrap_enters hg hm _⟩⟩,
    fun hm => ⟨⟨_, rfl, takeTrap_stops hg hm _⟩, fun hc0 => ⟨_, hc hc0, takeTrap_stops hg hm _⟩⟩⟩

/-- The bits of SY.STATUS as it is written from its fields. -/
theorem bitAt_statusWord (mode pmode ie pie : Bool) (k : Nat) :
    bitAt k (BitVec.ofNat 64 (b2n mode + 2 * b2n pmode + 4 * b2n ie + 8 * b2n pie)) =
      if k = 0 then mode else if k = 1 then pmode else if k = 2 then ie else if k = 3 then pie else false := by
  by_cases hk : k < 4
  · interval_cases k <;> cases mode <;> cases pmode <;> cases ie <;> cases pie <;> decide
  · rw [if_neg (by omega), if_neg (by omega), if_neg (by omega), if_neg (by omega), bitAt]
    have hlt : (BitVec.ofNat 64 (b2n mode + 2 * b2n pmode + 4 * b2n ie + 8 * b2n pie)).toNat < 2 ^ 4 := by
      cases mode <;> cases pmode <;> cases ie <;> cases pie <;> decide
    exact Nat.testBit_lt_two_pow (Nat.lt_of_lt_of_le hlt (Nat.pow_le_pow_right (by decide) (by omega)))
/-- The bits of SY.STATUS after a trap: supervisor mode, IE clear, the fields before it saved. -/
theorem bitAt_enterTrap (tvec : W64) (epc : Addr) (r : FaultRec) (g : Group) (k : Nat) :
    bitAt k (enterTrap tvec epc r g).status =
      if k = 0 then true else if k = 1 then bitAt 0 g.status else if k = 2 then false else if k = 3 then bitAt 2 g.status else false :=
  bitAt_statusWord true (modeOf g) false (ieOf g) k
theorem bitAt_returnTrap (g : Group) (k : Nat) : bitAt k (returnTrap g).status =
    if k = 0 ∨ k = 1 then bitAt 1 g.status else if k = 2 ∨ k = 3 then bitAt 3 g.status else false := by
  rw [returnTrap, bitAt_statusWord]
  by_cases h0 : k = 0 <;> by_cases h1 : k = 1 <;> by_cases h2 : k = 2 <;> by_cases h3 : k = 3 <;> simp [h0, h1, h2, h3]

theorem eret_super {s : State} (hm : bitAt 0 (curGrp s).status = true) : exec .eret s = .next (modCur s returnTrap) :=
  congrArg Host.Outcome.next (superOnly_super hm _)
theorem returnFromTrap : ReturnFromTrap := by
  intro s hg
  refine ⟨fun hm => ⟨_, eret_super hm, onlyGroup_modCur s _, ?_, fun k => ?_⟩, fun hm => ?_⟩
  · rw [curGrp_modCur hg]
    rfl
  · rw [curGrp_modCur hg, bitAt_returnTrap]
  · exact entersTrap_illegal hg hm (congrArg Host.Outcome.next (superOnly_user hm _))

theorem illegal_user {s : State} (hm : bitAt 0 (curGrp s).status = false) (sub : Nat) :
    illegal s sub = modCur s (enterTrap (getCl s s.cur.cl).core.tvec (curGrp s).pc ⟨4, sub, 0, 0⟩) :=
  if_neg (by rw [modeOf, show getGrp s s.cur.cl s.cur.grp = curGrp s from rfl, hm]; decide)
theorem trapThenReturn : TrapThenReturn := by
  intro s sub hg hm hpc
  have ht : curGrp (illegal s sub.toNat) = enterTrap (getCl s s.cur.cl).core.tvec (curGrp s).pc ⟨4, sub.toNat, 0, 0⟩ (curGrp s) := by
    rw [illegal_user hm, curGrp_modCur hg]
  have hg' : (illegal s sub.toNat).cur.grp < 4 := by rw [illegal_user hm]; exact hg
  have hu : curGrp (modCur (illegal s sub.toNat) returnTrap) = returnTrap (curGrp (illegal s sub.toNat)) := curGrp_modCur hg' _
  refine ⟨_, _, rfl, eret_super (by rw [ht, bitAt_enterTrap]; rfl), ?_, ?_, ?_, ?_⟩ <;> rw [hu, ht]
  · refine BitVec.eq_of_toNat_eq ?_
    have := (curGrp s).pc.isLt
    simp only [returnTrap, enterTrap, BitVec.toNat_setWidth, BitVec.toNat_ofNat]
    omega
  · rw [bitAt_returnTrap, bitAt_enterTrap]
    exact hm
  · simp [bitAt_returnTrap, bitAt_enterTrap]
  · rfl

/-- Settles O37. -/
theorem trapsAndReturns : Obligations.TrapsAndReturns := ⟨trapEntry, returnFromTrap, trapThenReturn⟩

end Sys2Proof.Machine

namespace Sys2Proof.Machine
open Sys2Proof Sys2Proof.Claims

/-! System registers (R193 to R195). -/

/-- The table of registers agrees with the model's: numbers, supervisor marks, values. -/
theorem sysValues_read (s : State) : ∀ p ∈ sysValues s, p.1 ∈ sysNumbers ∧ p.2.1 = decide (p.1 ∈ sysSuper) ∧ sysRead s p.1 = p.2.2 := by
  have hesc : sysRead s 0x006 = if (curCore s).esc then 1#64 else 0#64 := by
    cases h : (getCl s s.cur.cl).core.esc <;> simp [sysRead, curCore, b2n, h]
  have hgid : sysRead s 0x010 = BitVec.ofNat 64 (s.cur.grp % 4 + relCl s s.cur.cl % 4096 * 2 ^ 2 + s.cur.cl % 4096 * 2 ^ 14
      + partOfCl s s.cur.cl % 16 * 2 ^ 26) := rfl
  have hlayv : sysRead s 0x018 = BitVec.ofNat 64 (match curLoad s with | some l => if l.caldera then l.layv else 0 | none => 0) := by
    simp only [sysRead, layvOf]
    cases curLoad s <;> rfl
  simp only [sysValues, List.forall_mem_cons, List.not_mem_nil, false_imp_iff, implies_true, and_true]
  exact ⟨⟨by decide, rfl, rfl⟩, ⟨by decide, rfl, rfl⟩, ⟨by decide, rfl, rfl⟩, ⟨by decide, rfl, rfl⟩, ⟨by decide, rfl, rfl⟩,
    ⟨by decide, rfl, rfl⟩, ⟨by decide, rfl, hesc⟩, ⟨by decide, rfl, rfl⟩, ⟨by decide, rfl, hgid⟩, ⟨by decide, rfl, rfl⟩,
    ⟨by decide, rfl, rfl⟩, ⟨by decide, rfl, rfl⟩, ⟨by decide, rfl, hlayv⟩, ⟨by decide, rfl, rfl⟩, ⟨by decide, rfl, rfl⟩,
    ⟨by decide, rfl, rfl⟩, ⟨by decide, rfl, rfl⟩, ⟨by decide, rfl, rfl⟩, ⟨by decide, rfl, rfl⟩, ⟨by decide, rfl, rfl⟩,
    ⟨by decide, rfl, rfl⟩, ⟨by decide, rfl, rfl⟩, ⟨by decide, rfl, rfl⟩⟩
theorem sysNumbers_eq (s : State) : sysNumbers = (sysValues s).map (·.1) := rfl

theorem sysGuard_ok {s t : State} {r : Nat} (hr : r ∈ sysNumbers) (hs : r ∈ sysSuper → bitAt 0 (curGrp s).status = true) :
    sysGuard s r t = t := by
  rw [sysGuard, if_neg (not_not.mpr hr), if_neg]
  rintro ⟨h, hm⟩
  rw [modeOf, hs h] at hm
  cases hm
theorem sysGuard_user {s t : State} {r : Nat} (hr : r ∈ sysNumbers) (hs : r ∈ sysSuper) (hm : bitAt 0 (curGrp s).status = false) :
    sysGuard s r t = illegal s 5 := by
  rw [sysGuard, if_neg (not_not.mpr hr), if_pos ⟨hs, by rw [modeOf, hm]; rfl⟩]
/-- A register of the table, in a mode that may access it. -/
theorem sysGuard_value {s t : State} {n : BitVec 12} {p : Nat × Bool × W64} (hp : p ∈ sysValues s) (hn : n.toNat = p.1)
    (hs : p.2.1 = true → bitAt 0 (curGrp s).status = true) : sysGuard s n.toNat t = t := by
  obtain ⟨hnum, hflag, -⟩ := sysValues_read s p hp
  rw [hn]
  exact sysGuard_ok hnum (fun h => hs (by rw [hflag]; exact decide_eq_true h))
theorem sysGuard_unassigned {s t : State} {r : Nat} (hr : r ∉ sysNumbers) : sysGuard s r t = illegal s 10 := if_pos hr

/-- The two traps of an access to a system register. -/
theorem sysGuard_traps {i : Instr} {s t : State} {n : BitVec 12} (hg : s.cur.grp < 4) (hi : exec i s = .next (sysGuard s n.toNat t))
    (hm : bitAt 0 (curGrp s).status = false) :
    (∀ p ∈ sysValues s, n.toNat = p.1 → p.2.1 = true → ∃ t, exec i s = .next t ∧ EntersTrap s t 4 5 0 0) ∧
    ((∀ p ∈ sysValues s, n.toNat ≠ p.1) → ∃ t, exec i s = .next t ∧ EntersTrap s t 4 10 0 0) := by
  refine ⟨fun p hp hn hsup => ?_, fun hne => ?_⟩
  · obtain ⟨hnum, hflag, -⟩ := sysValues_read s p hp
    rw [hflag, decide_eq_true_eq] at hsup
    exact entersTrap_illegal hg hm (by rw [hi, hn, sysGuard_user hnum hsup hm])
  · have hnum : n.toNat ∉ sysNumbers := by
      rw [sysNumbers_eq s, List.mem_map]
      rintro ⟨p, hp, e⟩
      exact hne p hp e.symm
    exact entersTrap_illegal hg hm (by rw [hi, sysGuard_unassigned hnum])

/-- Settles O15: the table of the statement is the model's, and the guard tells apart the two traps. -/
theorem systemRegisterReads : Obligations.SystemRegisterReads := by
  intro s d n hg
  refine ⟨fun p hp hn hsup => ?_, fun p hp hn hs hm => (sysGuard_traps hg rfl hm).1 p hp hn hs, fun hne hm => (sysGuard_traps hg rfl hm).2 hne⟩
  obtain ⟨-, -, hread⟩ := sysValues_read s p hp
  rw [← hread, ← hn]
  exact writesRegister_finish hg (congrArg Host.Outcome.next (sysGuard_value hp hn hsup))

/-! What a write leaves: the writable fields, under their masks. -/

/-- A field in its place is the word under the field's mask. -/
theorem ofNat_field (v : W64) (hi lo : Nat) : BitVec.ofNat 64 (field hi lo v * 2 ^ lo) = v &&& BitVec.ofNat 64 ((2 ^ (hi + 1 - lo) - 1) * 2 ^ lo) := by
  refine BitVec.eq_of_getLsbD_eq fun i hi64 => ?_
  rw [BitVec.getLsbD_and, BitVec.getLsbD_ofNat, BitVec.getLsbD_ofNat, Nat.testBit_mul_two_pow, Nat.testBit_mul_two_pow,
    Nat.testBit_two_pow_sub_one, field, Nat.testBit_mod_two_pow, Nat.testBit_div_two_pow, BitVec.getLsbD]
  by_cases hl : lo ≤ i
  · rw [Nat.sub_add_cancel hl]
    simp [hl, hi64, Bool.and_comm]
  · simp [hl]
theorem and_masks (v m₁ m₂ : W64) (h : m₁ &&& m₂ = 0#64) : (v &&& m₁) + (v &&& m₂) = v &&& (m₁ ||| m₂) := by
  rw [BitVec.add_eq_or_of_and_eq_zero, BitVec.and_or_distrib_left]
  rw [show (v &&& m₁) &&& (v &&& m₂) = (v &&& v) &&& (m₁ &&& m₂) by ac_rfl, h, BitVec.and_zero]
theorem statusField (v : W64) : BitVec.ofNat 64 (field 3 0 v) = (v.setWidth 4).setWidth 64 :=
  BitVec.eq_of_toNat_eq (by simp [field])
theorem causeField (v : W64) : setField 62 32 v 0 = v &&& 0x80000000FFFFFFFF#64 := by
  have h : setField 62 32 v 0 = BitVec.ofNat 64 (field 31 0 v * 2 ^ 0 + field 63 63 v * 2 ^ 63) := by
    refine congrArg (BitVec.ofNat 64) ?_
    have := v.isLt
    simp only [field]
    omega
  rw [h, BitVec.ofNat_add, ofNat_field, ofNat_field, and_masks _ _ _ (by decide)]
  rfl
theorem tvecField (v : W64) : setField 1 0 v 0 = v &&& ~~~3#64 := by
  have h : setField 1 0 v 0 = BitVec.ofNat 64 (field 63 2 v * 2 ^ 2) := by
    refine congrArg (BitVec.ofNat 64) ?_
    have := v.isLt
    simp only [field]
    omega
  rw [h, ofNat_field]
  rfl
theorem lspnField (v : W64) : BitVec.ofNat 64 (field 31 0 v) = v &&& 0xFFFFFFFF#64 := by
  simpa using ofNat_field v 31 0

/-- A register that exists once per group, or is read-only: what a write does. -/
theorem sysGroupWrites_write (s : State) (hg : s.cur.grp < 4) (v : W64) : ∀ p ∈ sysGroupWrites, OnlyGroup s (sysWrite s p.1 v) ∧
    curGrp (sysWrite s p.1 v) = p.2.2 (curGrp s) v ∧ (p.2.2 (curGrp s) v).pc = (curGrp s).pc ∧
    ∃ q ∈ sysValues s, q.1 = p.1 ∧ q.2.1 = p.2.1 := by
  have hin (r : Nat) (b : Bool) (h : (r, b) ∈ (sysValues s).map (fun q => (q.1, q.2.1))) : ∃ q ∈ sysValues s, q.1 = r ∧ q.2.1 = b := by
    obtain ⟨q, hq, e⟩ := List.mem_map.mp h
    exact ⟨q, hq, congrArg Prod.fst e, congrArg Prod.snd e⟩
  have hvals : (sysValues s).map (fun q => (q.1, q.2.1)) = sysNumbers.map (fun r => (r, decide (r ∈ sysSuper))) := rfl
  rw [hvals] at hin
  simp only [sysGroupWrites, List.forall_mem_cons, List.not_mem_nil, false_imp_iff, implies_true, and_true, true_and]
  exact ⟨⟨onlyGroup_modCur s _, (curGrp_modCur hg _).trans (by rw [statusField]), hin _ _ (by decide)⟩,
    ⟨onlyGroup_modCur s _, (curGrp_modCur hg _).trans (by rw [causeField]), hin _ _ (by decide)⟩,
    ⟨onlyGroup_modCur s _, curGrp_modCur hg _, hin _ _ (by decide)⟩, ⟨onlyGroup_modCur s _, curGrp_modCur hg _, hin _ _ (by decide)⟩,
    ⟨onlyGroup_modCur s _, curGrp_modCur hg _, hin _ _ (by decide)⟩, ⟨onlyGroup_modCur s _, curGrp_modCur hg _, hin _ _ (by decide)⟩,
    ⟨onlyGroup_refl hg, rfl, hin _ _ (by decide)⟩, ⟨onlyGroup_refl hg, rfl, hin _ _ (by decide)⟩, ⟨onlyGroup_refl hg, rfl, hin _ _ (by decide)⟩,
    ⟨onlyGroup_refl hg, rfl, hin _ _ (by decide)⟩, ⟨onlyGroup_refl hg, rfl, hin _ _ (by decide)⟩, ⟨onlyGroup_refl hg, rfl, hin _ _ (by decide)⟩⟩

/-- A register of the core: what a write does. -/
theorem sysCoreWrites_write (s : State) (v : W64) : ∀ p ∈ sysCoreWrites, (∀ c : Core, (p.2 c v).grp = c.grp) ∧
    sysWrite s p.1 v = modCore s s.cur.cl (fun c => p.2 c v) ∧ ∃ q ∈ sysValues s, q.1 = p.1 := by
  have hin (r : Nat) (h : r ∈ sysNumbers) : ∃ q ∈ sysValues s, q.1 = r := by
    rw [sysNumbers_eq s] at h
    exact List.mem_map.mp h
  have hrcap (c : Core) : boundedRcap c.rcapMax v = if c.rcapMax = 0 then v &&& 0xFFFFFFFF#64
      else if v.toNat % 2 ^ 32 = 0 then BitVec.ofNat 64 c.rcapMax else BitVec.ofNat 64 (min (v.toNat % 2 ^ 32) c.rcapMax) := by
    rw [← lspnField]
    simp only [boundedRcap, field, Nat.pow_zero, Nat.div_one, Nat.reduceAdd, Nat.sub_zero]
    split
    · rfl
    · split <;> rfl
  have hptbr : BitVec.ofNat 64 (field 51 12 v * 4096) = v &&& 0x000FFFFFFFFFF000#64 := ofNat_field v 51 12
  have hlspb : BitVec.ofNat 64 (field 51 5 v * 32) = v &&& 0x000FFFFFFFFFFFE0#64 := ofNat_field v 51 5
  have hlow : field 1 0 v = v.toNat % 4 := by simp [field]
  simp only [sysCoreWrites, List.forall_mem_cons, List.not_mem_nil, false_imp_iff, implies_true, and_true, true_and]
  exact ⟨⟨by simp only [sysWrite, tvecField], hin _ (by decide)⟩, ⟨by simp only [sysWrite, hlow], hin _ (by decide)⟩,
    ⟨by simp only [sysWrite, hlow], hin _ (by decide)⟩, ⟨rfl, hin _ (by decide)⟩, ⟨by simp only [sysWrite, hrcap], hin _ (by decide)⟩,
    ⟨by simp only [sysWrite, hptbr], hin _ (by decide)⟩, ⟨by simp only [sysWrite, hlspb], hin _ (by decide)⟩,
    ⟨by simp only [sysWrite, lspnField], hin _ (by decide)⟩⟩

theorem getGrp_modCore (s : State) (cl : Nat) {f : Core → Core} (hf : ∀ c : Core, (f c).grp = c.grp) (c g : Nat) :
    getGrp (modCore s cl f) c g = getGrp s c g := by
  unfold getGrp modCore
  rw [getCl_modCl]
  split
  · next h => rw [h, hf]
  · rfl
/-- The core behind a change of the executing group. -/
theorem curCore_modCur (s : State) (f : Group → Group) : curCore (modCur s f) = { curCore s with grp := (curCore (modCur s f)).grp } := by
  rw [curCore, modCur_cur, show getCl (modCur s f) s.cur.cl = _ from getCl_modCl_same s _ _]
  rfl
/-- A write to the core's registers, and the pc moves on: the groups' registers are as they were. -/
theorem answers_coreWrite {i : Instr} {s : State} {f : Core → Core} (hg : s.cur.grp < 4) (hf : ∀ c : Core, (f c).grp = c.grp)
    (hi : exec i s = .next (skip (modCore s s.cur.cl f) 4)) : Answers i s 0#5 0#64 (fun t =>
      curCore t = { f (curCore s) with grp := (curCore t).grp } ∧ t = { s with clusters := t.clusters } ∧
      ∀ g, g < 4 → g ≠ s.cur.grp → getGrp t s.cur.cl g = getGrp s s.cur.cl g) := by
  have hgrp : curGrp (modCore s s.cur.cl f) = curGrp s := getGrp_modCore s _ hf _ _
  refine answers_skip (s0 := modCore s s.cur.cl f) hg hi (by rw [hgrp]) (by rw [hgrp]) ⟨?_, rfl, fun g hlt hne => ?_⟩
  · have hc : curCore (modCore s s.cur.cl f) = f (curCore s) := congrArg Cluster.core (getCl_modCl_same s _ _)
    rw [skip, curCore_modCur]
    simp only
    rw [hc]
  · exact (getGrp_modGrp_ne (modCore s s.cur.cl f) _ hg hlt (.inr hne)).trans (getGrp_modCore s _ hf _ _)

/-- The bits of SY.PEND: 0 and 1 follow the events, 2 to 4 are kept. -/
theorem testBit_pendOf (c : Core) {k : Nat} (hk : k < 5) : (pendOf c).testBit k =
    if k = 0 then c.events.any (fun e => decide (e.cls ≤ 0x0B)) else if k = 1 then c.events.any (fun e => decide (e.cls = 0x11))
    else c.pend.testBit k := by
  unfold pendOf
  generalize c.events.any (fun e => decide (e.cls ≤ 0x0B)) = x
  generalize c.events.any (fun e => decide (e.cls = 0x11)) = y
  have hx : b2n x < 2 := b2n_lt_two x
  have hy : b2n y < 2 := b2n_lt_two y
  have hbit (b : Bool) : decide (b2n b % 2 = 1) = b := by cases b <;> rfl
  simp only [Nat.testBit_eq_decide_div_mod_eq]
  interval_cases k <;> simp only [Nat.reducePow, if_true, if_false, Nat.reduceEqDiff, Nat.div_one]
  · exact (decide_eq_decide.mpr (by omega)).trans (hbit x)
  · exact (decide_eq_decide.mpr (by omega)).trans (hbit y)
  all_goals exact decide_eq_decide.mpr (by omega)
theorem testBit_clearPend (p : Nat) (v : W64) {k : Nat} (hk : k < 5) (h2 : 2 ≤ k) :
    (p &&& ((2 ^ 64 - 1) ^^^ (v.toNat &&& 0x1C))).testBit k = (p.testBit k && !bitAt k v) := by
  have h1c : Nat.testBit 0x1C k = true := by interval_cases k <;> rfl
  have h64 : k < 64 := by omega
  rw [Nat.testBit_and, Nat.testBit_xor, Nat.testBit_and, Nat.testBit_two_pow_sub_one, h1c, Bool.and_true, decide_eq_true h64, Bool.true_xor]
  rfl

/-- Settles O16: a write changes the group, the core or SY.PEND as the model's table says, whose masks are the statement's. -/
theorem systemRegisterWrites : Obligations.SystemRegisterWrites := by
  intro s a n hg
  refine ⟨fun p hp hn hsup => ?_, fun p hp hn hm => ?_, fun hn => ?_, fun p hp hn hs hm => (sysGuard_traps hg rfl hm).1 p hp hn hs,
    fun hne hm => (sysGuard_traps hg rfl hm).2 hne⟩
  · obtain ⟨ho, hw, hpc, q, hq, hq1, hq2⟩ := sysGroupWrites_write s hg (xget (curGrp s) a) p hp
    rw [← hn] at ho hw
    have hexec : exec (.syw a n) s = .next (skip (sysWrite s n.toNat (xget (curGrp s) a)) 4) :=
      congrArg Host.Outcome.next (sysGuard_value hq (hn.trans hq1.symm) (fun h => hsup (hq2.symm.trans h)))
    have hgrp : (sysWrite s n.toNat (xget (curGrp s) a)).cur.grp < 4 := by rw [onlyGroup_cur ho]; exact hg
    refine ⟨_, hexec, onlyGroup_trans ho (onlyGroup_modCur _ _), ?_⟩
    rw [curGrp_skip hgrp, hw, advance, hpc]
  · obtain ⟨hf, hw, q, hq, hq1⟩ := sysCoreWrites_write s (xget (curGrp s) a) p hp
    refine answers_coreWrite hg hf ?_
    rw [← hw, ← hn]
    exact congrArg Host.Outcome.next (sysGuard_value hq (hn.trans hq1.symm) (fun _ => hm))
  · subst hn
    have hans := answers_coreWrite (i := .syw a 0x030#12) (f := fun c => { c with pend := c.pend &&& ((2 ^ 64 - 1) ^^^ ((xget (curGrp s) a).toNat &&& 0x1C)) })
      hg (fun _ => rfl) (congrArg Host.Outcome.next (sysGuard_ok (s := s) (r := 0x030) (by decide) (fun h => absurd h (by decide))))
    obtain ⟨t, ht, hx, hpc, hc, hs, -⟩ := hans
    refine ⟨t, ht, hx, hpc, hs, fun k hk => ?_⟩
    rw [hc, testBit_pendOf _ hk, testBit_pendOf _ hk]
    by_cases h0 : k = 0
    · simp [h0]
    · by_cases h1 : k = 1
      · simp [h1]
      · have h2 : 2 ≤ k := by omega
        simp only [h0, h1, if_false]
        rw [testBit_clearPend _ _ hk h2, decide_eq_false (Nat.not_lt.mpr h2), Bool.false_or]

end Sys2Proof.Machine

namespace Sys2Proof.Machine
open Sys2Proof Sys2Proof.Claims

/-! PRIO and WFI (R188, R199). -/

theorem coreRow_prio {w : W32} (h : field 31 26 w = 0x36) : coreRow w ≠ none ↔ field 20 16 w = 0 ∧ field 15 2 w = 0 := by
  have hrow : coreRow w ≠ none ↔ field 20 2 w = 0 := by
    simp only [coreRow, h]
    split <;> simp [*]
  rw [hrow]
  simp only [field]
  omega
theorem eventReady_iff (c : Core) (g : Nat) : eventReady c g = true ↔
    c.events ≠ [] ∧ c.fgrp = g ∧ (bitAt 0 (vec4Get c.grp g).status = false ∨ bitAt 2 (vec4Get c.grp g).status = true) := by
  simp [eventReady, modeOf, ieOf, and_assoc]
theorem waitOver_wfi_iff (s : State) : waitOver s s.cur.cl s.cur.grp .wfi = true ↔
    pendOf (curCore s) &&& (curGrp s).pmsk.toNat ≠ 0 ∨ ((curCore s).events ≠ [] ∧ (curCore s).fgrp = s.cur.grp ∧
      (bitAt 0 (curGrp s).status = false ∨ bitAt 2 (curGrp s).status = true)) := by
  simp only [waitOver, Bool.or_eq_true, decide_eq_true_eq, eventReady_iff]
  rfl

/-- Settles O17: PRIO sets the base class and answers it; WFI asks the waking rule of WFI itself. -/
theorem priorityAndWaitForEvent : Obligations.PriorityAndWaitForEvent := by
  intro s d c hg
  refine ⟨?_, fun w h => coreRow_prio h, fun hw => ?_, fun hp he => ?_⟩
  · have hgrp : curGrp (modCur s (fun g => { g with base := min c.toNat (curCore s).maxc })) = { curGrp s with base := min c.toNat (curCore s).maxc } :=
      curGrp_modCur hg _
    refine answers_finish (s0 := modCur s (fun g => { g with base := min c.toNat (curCore s).maxc })) hg rfl (by rw [hgrp]) (by rw [hgrp])
      ⟨onlyGroup_trans (onlyGroup_modCur s _) (onlyGroup_modCur _ _), ?_⟩
    rw [curGrp_finish (s := modCur s _) hg, hgrp, xset_eq]
    rfl
  · exact answers_skip hg (congrArg Host.Outcome.next (if_pos ((waitOver_wfi_iff s).mpr hw))) rfl rfl (onlyGroup_modCur s _)
  · refine waits_waitFor hg (congrArg Host.Outcome.next (if_neg (fun h => ?_))) rfl rfl (onlyGroup_modCur s _)
    rcases (waitOver_wfi_iff s).mp h with h | ⟨h1, h2, h3⟩
    · exact h hp
    · rcases he with e | e | ⟨e1, e2⟩
      · exact h1 e
      · exact e h2
      · rw [e1, e2] at h3
        simp at h3

/-! Event counters (R191, R421). -/

/-- Setting a counter changes no group. -/
theorem counterSet_cur (s : State) (cl i src : Nat) (v : W64) : (counterSet s cl i src v).cur = s.cur := by
  unfold counterSet
  split <;> rfl
theorem getCore_counterSet (s : State) (cl i src : Nat) (v : W64) (c : Nat) : (getCl (counterSet s cl i src v) c).core = (getCl s c).core := by
  unfold counterSet
  split
  · rw [getCl_modCl]
    split
    · next h => rw [h]
    · rfl
  · rfl
theorem curGrp_counterSet (s : State) (cl i src : Nat) (v : W64) : curGrp (counterSet s cl i src v) = curGrp s := by
  unfold curGrp
  rw [counterSet_cur]
  exact getGrp_congr (getCore_counterSet s cl i src v _) _
theorem counterGet_finish (s : State) (len : Nat) (d : BitVec 5) (v : W64) (cl k : Nat) : counterGet (finish s len d v) cl k = counterGet s cl k := by
  have hc : (getCl (finish s len d v) cl).counters = (getCl s cl).counters := by
    unfold finish modCur modGrp modCore
    rw [getCl_modCl]
    split
    · next h => rw [h]
    · rfl
  unfold counterGet
  rw [hc]
  rfl
/-- A counter after a counter was set. -/
theorem counterGet_counterSet (s : State) {cl i k : Nat} (src : Nat) (v : W64) (hi : i < 40) (hk : k < 40) :
    (counterGet (counterSet s cl i src v) cl k).src = (if k = i then src else (counterGet s cl k).src) ∧
    (counterGet (counterSet s cl i src v) cl k).val = (if k = i then v else (counterGet s cl k).val) ∧
    (k ≠ i → counterGet (counterSet s cl i src v) cl k = counterGet s cl k) := by
  unfold counterGet counterSet
  by_cases h8 : i < 8 <;> by_cases hk8 : k < 8
  · simp only [h8, hk8, if_true, getCl_modCl_same]
    rw [vec8Get_set _ _ h8 hk8]
    by_cases e : k = i <;> simp [e]
  · have e : k ≠ i := by omega
    simp [h8, hk8, e, dieCounter]
  · have e : k ≠ i := by omega
    simp [h8, hk8, e, setDieCounter]
  · simp only [h8, hk8, if_false]
    by_cases e : k = i
    · subst e
      simp [dieCounter, setDieCounter, modHub]
    · have hne : 32 * dieOf cl + (k - 8) ≠ 32 * dieOf cl + (i - 8) := by omega
      simp [e, dieCounter, setDieCounter, modHub, amGetD_amPut_ne _ _ _ hne]
/-- An instruction that sets a counter and answers. -/
theorem answers_counterSet {i : Instr} {s : State} {d : BitVec 5} {n src : Nat} {x v : W64} (hg : s.cur.grp < 4) (hn : n < 40)
    (hi : exec i s = .next (finish (counterSet s s.cur.cl n src x) 4 d v)) : Answers i s d v (fun t =>
      (counterGet t s.cur.cl n).src = src ∧ (counterGet t s.cur.cl n).val = x ∧
      ∀ k, k < 40 → k ≠ n → counterGet t s.cur.cl k = counterGet s s.cur.cl k) := by
  have hg' : (counterSet s s.cur.cl n src x).cur.grp < 4 := by rw [counterSet_cur]; exact hg
  refine answers_finish hg' hi (by rw [curGrp_counterSet]) (by rw [curGrp_counterSet]) ⟨?_, ?_, fun k hk hne => ?_⟩ <;> rw [counterGet_finish]
  · exact (counterGet_counterSet s src x hn hn).1.trans (if_pos rfl)
  · exact (counterGet_counterSet s src x hn hn).2.1.trans (if_pos rfl)
  · exact (counterGet_counterSet s src x hn hk).2.2 hne
theorem answers_weaken {i : Instr} {s : State} {d : BitVec 5} {v : W64} {p q : State → Prop} (h : Answers i s d v p) (hpq : ∀ t, p t → q t) :
    Answers i s d v q := by
  obtain ⟨t, ht, hx, hpc, hp⟩ := h
  exact ⟨t, ht, hx, hpc, hpq t hp⟩

theorem counterInstruction : CounterInstruction := by
  intro s d a i hg hi
  have h40 : ¬ 40 ≤ i.toNat := by omega
  have hsup (hm : i.toNat < 8 ∨ bitAt 0 (curGrp s).status = true) : ¬ (8 ≤ i.toNat ∧ (!modeOf (curGrp s)) = true) := by
    rintro ⟨h8, hu⟩
    rcases hm with hm | hm
    · omega
    · rw [modeOf, hm] at hu
      cases hu
  have hlow : field 15 0 (xget (curGrp s) a) = (xget (curGrp s) a).toNat % 65536 := by simp [field]
  refine ⟨writesRegister_finish hg ?_, answers_counterSet hg hi ?_, fun hm => ⟨answers_weaken (answers_counterSet hg hi (i := .cnt d a 2#2 i) ?_)
    (fun t h => ⟨h.1, h.2.1⟩), fun hsrc => answers_weaken (answers_counterSet hg hi (i := .cnt d a 1#2 i) ?_) (fun t h => ⟨h.1, h.2.1⟩)⟩,
    fun h8 hu o ho => entersTrap_illegal hg hu ?_⟩
  · show execCnt d a 0#2 i s = _
    simp [execCnt, h40]
  · show execCnt d a 3#2 i s = _
    simp [execCnt, h40]
  · show execCnt d a 2#2 i s = _
    simp only [execCnt, h40, hsup hm]
    simp
  · show execCnt d a 1#2 i s = _
    simp only [execCnt, h40, hsup hm, hlow]
    simp [hsrc]
  · show execCnt d a o i s = _
    simp only [List.mem_cons, List.not_mem_nil, or_false] at ho
    simp [execCnt, h40, h8, modeOf, hu, ho]

/-! Escalation and resumption (R193, R383). -/

theorem spanAt_modCore (s : State) (cl : Nat) (f : Core → Core) (c : Nat) : spanAt (modCore s cl f) c = spanAt s c := by
  unfold spanAt
  rw [show (getCl (modCore s cl f) c).span = (getCl s c).span by unfold modCore; rw [getCl_modCl]; split <;> simp [*]]
  rfl

/-- The control cores of two states differ in their queues of events at most. -/
def SameButEvents (s t : State) : Prop :=
  t.cur = s.cur ∧ ∀ c, (getCl t c).core = { (getCl s c).core with events := (getCl t c).core.events, held := (getCl t c).core.held }
theorem sameButEvents_of_core {s t : State} (hcur : t.cur = s.cur) (h : ∀ c, (getCl t c).core = (getCl s c).core) : SameButEvents s t :=
  ⟨hcur, fun c => by rw [h c]⟩
theorem sameButEvents_refl (s : State) : SameButEvents s s := sameButEvents_of_core rfl (fun _ => rfl)
theorem sameButEvents_trans {s t u : State} (h : SameButEvents s t) (k : SameButEvents t u) : SameButEvents s u :=
  ⟨k.1.trans h.1, fun c => by rw [k.2 c, h.2 c]⟩
theorem sameButEvents_curGrp {s t : State} (h : SameButEvents s t) : curGrp t = curGrp s := by
  unfold curGrp getGrp
  rw [h.1, h.2]
theorem sameButEvents_eres {s t : State} (h : SameButEvents s t) : (curCore t).eres = (curCore s).eres := by
  unfold curCore
  rw [h.1, h.2]
theorem getCore_modCl_keep (s : State) (cl : Nat) {f : Cluster → Cluster} (hf : ∀ c : Cluster, (f c).core = c.core) (c : Nat) :
    (getCl (modCl s cl f) c).core = (getCl s c).core := by
  rw [getCl_modCl]
  split
  · next h => rw [h, hf]
  · rfl
theorem sameButEvents_modCl (s : State) (cl : Nat) {f : Cluster → Cluster} (hf : ∀ c : Cluster, (f c).core = c.core) :
    SameButEvents s (modCl s cl f) := sameButEvents_of_core rfl (getCore_modCl_keep s cl hf)
theorem sameButEvents_modEl (s : State) (cl el : Nat) (f : Elem → Elem) : SameButEvents s (modEl s cl el f) :=
  sameButEvents_modCl s cl (fun _ => rfl)
theorem sameButEvents_modGen (s : State) (cl t a : Nat) (f : AddrGen → AddrGen) : SameButEvents s (modGen s cl t a f) :=
  sameButEvents_modCl s cl (fun _ => rfl)
theorem sameButEvents_modPort (s : State) (cl p : Nat) (f : SPort → SPort) : SameButEvents s (modPort s cl p f) :=
  sameButEvents_modCl s cl (fun _ => rfl)
theorem sameButEvents_modIsland (s : State) (cl : Nat) (f : Island → Island) : SameButEvents s (modIsland s cl f) :=
  sameButEvents_modCl s cl (fun _ => rfl)
theorem sameButEvents_postEvent (s : State) (cl : Nat) (r : FaultRec) : SameButEvents s (postEvent s cl r) := by
  refine ⟨rfl, fun c => ?_⟩
  unfold postEvent modCore
  rw [getCl_modCl]
  split
  · next h =>
    rw [h]
    simp only
    split <;> rfl
  · rfl
theorem sameButEvents_ite {s t u : State} (c : Prop) [Decidable c] (h : SameButEvents s t) (k : SameButEvents s u) :
    SameButEvents s (if c then t else u) := by
  split
  · exact h
  · exact k
theorem genFault_sameButEvents (s : State) (cl t a : Nat) (r : FaultRec) : SameButEvents s (genFault s cl t a r) :=
  sameButEvents_trans (sameButEvents_modGen s cl t a _) (sameButEvents_postEvent _ _ _)
theorem portFault_sameButEvents (s : State) (cl n : Nat) (r : FaultRec) : SameButEvents s (portFault s cl n r) :=
  sameButEvents_trans (sameButEvents_modPort s cl n _) (sameButEvents_postEvent _ _ _)
theorem islandFault_sameButEvents (s : State) (cl : Nat) (r : FaultRec) : SameButEvents s (islandFault s cl r) :=
  sameButEvents_trans (sameButEvents_modIsland s cl _) (sameButEvents_postEvent _ _ _)
/-- A unit's check of its head stops the unit at most, and posts the event. -/
theorem headCheck_sameButEvents (s : State) (sp : Nat) (e : Endpoint) : SameButEvents s (headCheck s sp e) := by
  have hrefl := sameButEvents_refl s
  unfold headCheck
  split
  · exact hrefl
  · split
    · exact hrefl
    · split
      · split
        · exact hrefl
        · exact sameButEvents_ite _ (genFault_sameButEvents s _ _ _ _) hrefl
      · split
        · exact hrefl
        · exact sameButEvents_ite _ (portFault_sameButEvents s _ _ _) hrefl
      · split
        · exact hrefl
        · exact sameButEvents_ite _ (islandFault_sameButEvents s _ _) hrefl
      · exact hrefl
theorem resumeUnit_sameButEvents (s : State) (v : W64) : SameButEvents s (resumeUnit s v) := by
  have hrefl := sameButEvents_refl s
  have hunit {t : State} {sp : Nat} {e : Endpoint} (h : SameButEvents s t) : SameButEvents s (headCheck t sp e) :=
    sameButEvents_trans h (headCheck_sameButEvents t sp e)
  unfold resumeUnit resumeGen resumePort resumeIsland
  dsimp only
  split
  · exact hrefl
  · refine sameButEvents_ite _ hrefl ?_
    split
    · exact sameButEvents_ite _ (sameButEvents_modEl s _ _ _) hrefl
    · split
      · exact sameButEvents_ite _ (sameButEvents_ite _ (hunit (sameButEvents_modGen s _ _ _ _)) hrefl) hrefl
      · exact hrefl
    · exact sameButEvents_ite _ (sameButEvents_ite _ (hunit (sameButEvents_modPort s _ _ _)) hrefl) hrefl
    · exact sameButEvents_ite _ (sameButEvents_ite _ (hunit (sameButEvents_modIsland s _ _)) hrefl) hrefl
    · exact sameButEvents_of_core rfl (fun _ => rfl)
    · exact hrefl
theorem memParts_mem {s t : State} (h : t.memParts = s.memParts) : t.mem = s.mem := congrArg Prod.fst h

/-- A location word of an element of the executing cluster clears the element's fault. -/
theorem resumeUnit_element {s : State} {v : W64} {sp : Nat} {x : Span} (hs : spanAt s s.cur.cl = some (sp, x))
    (hrel : field 11 0 v = relOf x s.cur.cl) (hunit : field 63 27 v = 0) (hel : (amGet (getCl s s.cur.cl).elems (field 18 12 v)).isSome = true) :
    resumeUnit s v = modEl s s.cur.cl (field 18 12 v) (fun e => { e with fault := none, badPorts := [] }) := by
  have h63 : field 63 30 v = 0 := by simp only [field] at *; omega
  have h29 : field 29 27 v = 0 := by simp only [field] at *; omega
  unfold resumeUnit
  simp only [hs, hrel, h63, h29, ne_eq, not_true, or_self, if_false, hel, if_true]

theorem escalation {i : Instr} {s : State} {a : BitVec 5} (hg : s.cur.grp < 4) (hi : exec i s = .next (skip (writeEsc s (xget (curGrp s) a)) 4)) :
    Answers i s 0#5 0#64 (fun t =>
      (bitAt 0 (xget (curGrp s) a) = true → (curCore t).esc = true ∧
        t.hub.msix = s.hub.msix ++ (if field 6 0 (getPart s (partOfCl s s.cur.cl)).pivec < 120 then
          [(partOfCl s s.cur.cl + 1, field 6 0 (getPart s (partOfCl s s.cur.cl)).pivec)] else [])) ∧
      (bitAt 0 (xget (curGrp s) a) = false → (curCore t).esc = (curCore s).esc ∧ t.hub = s.hub) ∧ t.mem = s.mem ∧ t.spans = s.spans) := by
  by_cases hb : bitAt 0 (xget (curGrp s) a) = true
  · rw [writeEsc, if_pos hb] at hi
    have hgrp : curGrp (partitionInterrupt (modCore s s.cur.cl (fun c => { c with esc := true })) (partOfCl s s.cur.cl)) = curGrp s :=
      (getGrp_congr (congrArg Cluster.core (getCl_partitionInterrupt _ _ _)) _).trans (getGrp_modCore s _ (fun _ => by rfl) _ _)
    refine answers_skip (s0 := partitionInterrupt (modCore s s.cur.cl _) _) hg hi (by rw [hgrp]) (by rw [hgrp])
      ⟨fun _ => ⟨?_, partitionInterrupt_msix (modCore s s.cur.cl _) _⟩, fun h => ?_, rfl, rfl⟩
    · rw [skip, curCore_modCur]
      exact congrArg (fun c => c.core.esc) ((getCl_partitionInterrupt _ _ _).trans (getCl_modCl_same s _ _))
    · rw [hb] at h
      cases h
  · rw [writeEsc, if_neg hb] at hi
    refine answers_skip hg hi rfl rfl ⟨fun h => absurd h hb, fun _ => ⟨?_, rfl⟩, rfl, rfl⟩
    rw [skip, curCore_modCur]

theorem resumption {i : Instr} {s : State} {a : BitVec 5} (hg : s.cur.grp < 4) (hi : exec i s = .next (skip (writeEres s (xget (curGrp s) a)) 4)) :
    Answers i s 0#5 0#64 (fun t => (curCore t).eres = xget (curGrp s) a ∧ t.mem = s.mem ∧
      (spanAt s s.cur.cl ≠ none → field 11 0 (xget (curGrp s) a) = relCl s s.cur.cl → field 63 27 (xget (curGrp s) a) = 0 →
        (amGet (getCl s s.cur.cl).elems (field 18 12 (xget (curGrp s) a))).isSome = true →
        (getEl t s.cur.cl (field 18 12 (xget (curGrp s) a))).fault = none)) := by
  generalize hv : xget (curGrp s) a = v at hi ⊢
  have hres := resumeUnit_sameButEvents (modCore s s.cur.cl (fun c => { c with eres := v })) v
  have hgrp : curGrp (writeEres s v) = curGrp s := (sameButEvents_curGrp hres).trans (getGrp_modCore s _ (fun _ => by rfl) _ _)
  have hcur : (writeEres s v).cur = s.cur := hres.1
  refine answers_skip (by rw [hcur]; exact hg) hi (by rw [hgrp]) (by rw [hgrp]) ⟨?_, ?_, fun hsp hrel hunit hel => ?_⟩
  · rw [skip, curCore_modCur]
    exact (sameButEvents_eres hres).trans (congrArg (fun c => c.core.eres) (getCl_modCl_same s _ _))
  · exact memParts_mem (by simp [writeEres])
  · obtain ⟨⟨sp, x⟩, hs⟩ := Option.ne_none_iff_exists'.mp hsp
    have hx : relCl s s.cur.cl = relOf x s.cur.cl := by rw [relCl, hs]
    rw [skip, modCur, getEl_modGrp, writeEres, resumeUnit_element (sp := sp) (x := x) (by rw [modCore_cur, spanAt_modCore, hs])
      (by rw [modCore_cur, hrel, hx]) hunit (by rw [modCore_cur]; unfold modCore; rw [getCl_modCl_same]; exact hel)]
    rw [modCore_cur, getEl_modEl_same]

theorem escalationAndResume : EscalationAndResume := by
  intro s a hg hm
  have hexec (n : BitVec 12) (h : n.toNat ∈ sysNumbers) : exec (.syw a n) s = .next (skip (sysWrite s n.toNat (xget (curGrp s) a)) 4) :=
    congrArg Host.Outcome.next (sysGuard_ok h (fun _ => hm))
  simp only [List.forall_mem_cons, List.not_mem_nil, false_imp_iff, implies_true, and_true]
  exact ⟨⟨escalation hg (congrArg Host.Outcome.next (superOnly_super hm _)), escalation hg (hexec 0x006#12 (by decide))⟩,
    resumption hg (congrArg Host.Outcome.next (superOnly_super hm _)), resumption hg (hexec 0x007#12 (by decide))⟩

/-- Settles O38. -/
theorem countersAndEscalation : Obligations.CountersAndEscalation := ⟨counterInstruction, escalationAndResume⟩

end Sys2Proof.Machine

namespace Sys2Proof.Machine
open Sys2Proof Sys2Proof.Claims

/-! EXT pairs (R168, R170). -/

theorem sameButCounts_curGrp {s t : State} (h : sameButCounts s t) : curGrp t = curGrp s := by
  obtain ⟨hcur, -⟩ := id h
  rw [curGrp, hcur]
  exact sameButCounts_grp h _ _
theorem fetchTouch_counts (s : State) (cl asid va : Nat) : sameButCounts s (fetchTouch s cl asid va) := by
  unfold fetchTouch
  split
  · exact l2Touch_counts s cl _
  · exact sameButCounts_refl s

/-- The fetch of the second word has reached it, and the pair is one instruction. -/
theorem exec_ext {s s0 : State} {h : BitVec 26} {w : W32} (hs : s0 = fetchTouch s s.cur.cl (curGrp s).asid ((curGrp s).pc + 4#52).toNat)
    (hw : fetchWord s s.cur.cl (curGrp s).asid ((curGrp s).pc + 4#52).toNat = .ok w) :
    (acceptsExt (field 31 26 w) = true → ∀ i u, coreRow w = some i → extPair s0 h i = some u → exec (.ext h) s = .next u) ∧
    (acceptsExt (field 31 26 w) = false → exec (.ext h) s = .next (illegal s0 4)) := by
  have hstep : exec (.ext h) s = .next (if !acceptsExt (field 31 26 w) then illegal s0 4 else
      match coreRow w with
      | none => illegal s0 (coreSub w).toNat
      | some i => (extPair s0 h i).getD (illegal s0 4)) := by
    show execExt h s = _
    rw [execExt, extStep, hw, hs] <;> rfl
  refine ⟨fun hacc i u hi hu => ?_, fun hacc => ?_⟩
  · rw [hstep, hacc, hi]
    simp [hu]
  · rw [hstep, hacc]
    rfl

/-- Settles O8: the pair runs `extPair`, which is the second word's own operation with the longer immediate. -/
theorem extPairs : Obligations.ExtPairs := by
  intro s s0 h w i hg hs hw
  have hcount : sameButCounts s s0 := hs ▸ fetchTouch_counts s _ _ _
  have hgrp : curGrp s0 = curGrp s := sameButCounts_curGrp hcount
  have hg0 : s0.cur.grp < 4 := by rw [hcount.1]; exact hg
  obtain ⟨hok, hbad⟩ := exec_ext (h := h) hs hw
  refine ⟨fun hacc hi d a b m sc o => ?_, fun hacc hm => ?_⟩
  · have hpair := hok hacc i
    refine ⟨?_, ?_, ?_, ?_, ?_, ?_⟩
    · simp only [immForms, List.forall_mem_cons, List.not_mem_nil, false_imp_iff, implies_true, and_true]
      refine ⟨?_, ?_, ?_, ?_, ?_, ?_⟩ <;> rintro rfl
      · exact writesAfter_aluRI hg0 hgrp (hpair _ hi rfl) rfl
      · exact writesAfter_aluRI hg0 hgrp (hpair _ hi rfl) rfl
      · exact writesAfter_aluRI hg0 hgrp (hpair _ hi rfl) rfl
      · exact writesAfter_aluRI hg0 hgrp (hpair _ hi rfl) rfl
      · exact writesAfter_aluRI hg0 hgrp (hpair _ hi rfl) (setIf_ltS _ _)
      · exact writesAfter_aluRI hg0 hgrp (hpair _ hi rfl) (setIf_ltU _ _)
    · rintro rfl
      exact writesAfter_aluRI (a := 0#5) hg0 hgrp (hpair _ hi rfl) rfl
    · simp only [branchForms, List.forall_mem_cons, List.not_mem_nil, false_imp_iff, implies_true, and_true]
      refine ⟨?_, ?_, ?_, ?_, ?_, ?_⟩ <;> rintro rfl
      · exact jumpsAfter_branch hg0 hgrp (hpair _ hi rfl) (beq_eq_decide _ _)
      · exact jumpsAfter_branch hg0 hgrp (hpair _ hi rfl) (bne_eq_decide _ _)
      · exact jumpsAfter_branch hg0 hgrp (hpair _ hi rfl) (ltS_eq _ _)
      · exact jumpsAfter_branch hg0 hgrp (hpair _ hi rfl) (not_ltS_eq _ _)
      · exact jumpsAfter_branch hg0 hgrp (hpair _ hi rfl) (ltU_eq _ _)
      · exact jumpsAfter_branch hg0 hgrp (hpair _ hi rfl) (not_ltU_eq _ _)
    · rintro rfl
      exact jumpsAfter_jalr hg0 hgrp (hpair _ hi rfl)
    · simp only [loadForms, List.forall_mem_cons, List.not_mem_nil, false_imp_iff, implies_true, and_true]
      refine ⟨?_, ?_, ?_, ?_, ?_, ?_, ?_⟩ <;> rintro rfl <;> exact hpair _ hi rfl
    · simp only [storeForms, List.forall_mem_cons, List.not_mem_nil, false_imp_iff, implies_true, and_true]
      refine ⟨?_, ?_, ?_, ?_⟩ <;> rintro rfl <;> exact hpair _ hi rfl
  · exact ⟨_, hbad hacc, illegal_enters hg0 (by rw [hgrp]; exact hm) 4⟩

end Sys2Proof.Machine


namespace Sys2Proof.Machine
open Sys2Proof Sys2Proof.Claims

/-! What the agents of a cluster see of a byte (R222 to R224, R228), while stores become visible in wider instances and writes are
performed. -/

/-- A byte under the stores whose reach passes a test, the oldest at the bottom. -/
def underByte (p : Reach → Bool) (a : Nat) (b : Byte) (n : Near) : Byte := if p n.reach && n.covers a then n.bytes.getD (a - n.pa) b else b
/-- What an agent that sees every store sees of a byte. -/
def State.latest (s : State) (a : Nat) : Byte := s.near.foldl (underByte (fun _ => true) a) (s.byte a)
/-- A test on reaches that a wider reach passes as well. -/
def UpwardTest (p : Reach → Bool) : Prop := (∀ q, q.wide = true → p q = true) ∧ ∀ q r, p q = true → p (q.join r) = true

theorem nearByte_eq_underByte (c a : Nat) : nearByte c a = underByte (fun r => r.sees c) a := rfl
theorem upwardTest_true : UpwardTest (fun _ => true) := ⟨fun _ _ => rfl, fun _ _ _ => rfl⟩
theorem upwardTest_sees (c : Nat) : UpwardTest (fun r => r.sees c) := ⟨fun _ h => Reach.wide_sees c h, fun _ _ h => Reach.join_sees_left h⟩
theorem UpwardTest.foldl_join {p : Reach → Bool} (hp : UpwardTest p) (l : List Near) {q : Reach} (h : p q = true) :
    p (l.foldl (fun q x => q.join x.reach) q) = true := by
  induction l generalizing q with
  | nil => exact h
  | cons y l ih => exact ih (hp.2 _ _ h)

/-- A store that lies in one granule covers bytes of that granule alone. -/
theorem Near.covers_granule {n : Near} {a : Nat} (hn : n.pa % 16 + n.bytes.length ≤ 16) (h : n.pa / 16 ≠ a / 16) : n.covers a = false := by
  simp only [Near.covers, decide_eq_false_iff_not]
  omega
theorem underByte_of_not_covers {p : Reach → Bool} {a : Nat} {b : Byte} {n : Near} (h : n.covers a = false) : underByte p a b n = b := by simp [underByte, h]
theorem wideByte_of_not_covers {a : Nat} {b : Byte} {n : Near} (h : n.covers a = false) : wideByte a b n = b := by simp [wideByte, h]
theorem foldl_underByte_of_not {p : Reach → Bool} {a : Nat} {l : List Near} (h : ∀ n ∈ l, n.covers a = true → p n.reach = false) (b : Byte) :
    l.foldl (underByte p a) b = b := by
  induction l generalizing b with
  | nil => rfl
  | cons n l ih =>
    have hn : underByte p a b n = b := by
      unfold underByte
      split
      · next hc => simp_all
      · rfl
    rw [List.foldl_cons, hn]
    exact ih (fun x hx => h x (.tail _ hx)) b
theorem foldl_underByte_congr {p q : Reach → Bool} {a : Nat} {l : List Near} (h : ∀ n ∈ l, n.covers a = true → p n.reach = q n.reach) (b : Byte) :
    l.foldl (underByte p a) b = l.foldl (underByte q a) b := by
  induction l generalizing b with
  | nil => rfl
  | cons n l ih =>
    have hn : underByte p a b n = underByte q a b n := by
      unfold underByte
      cases hc : n.covers a
      · simp
      · rw [h n (.head _) hc]
    rw [List.foldl_cons, List.foldl_cons, hn]
    exact ih (fun x hx => h x (.tail _ hx)) _
theorem foldl_wideByte_of_narrow {a : Nat} {l : List Near} (h : ∀ n ∈ l, n.covers a = true → n.reach.wide = false) (b : Byte) :
    l.foldl (wideByte a) b = b :=
  foldl_underByte_of_not (p := Reach.wide) h b

/-- The narrow stores, each in its granule. -/
def NarrowList (l : List Near) : Prop := ∀ n ∈ l, n.reach.wide = false ∧ n.pa % 16 + n.bytes.length ≤ 16
theorem NarrowList.tail {n : Near} {l : List Near} (h : NarrowList (n :: l)) : NarrowList l := fun x hx => h x (.tail _ hx)

/-- A store after widening is an old one with the same bytes: as it was when it was not chosen, with a wider reach when it was. -/
theorem mem_widenList {sel : Near → Bool} {r : Reach} {l : List Near} {x : Near} (h : x ∈ widenList sel r l) :
    ∃ n ∈ l, (sel n = false ∧ x = n) ∨ (sel n = true ∧ ∃ k : List Near, x = { n with reach := k.foldl (fun q y => q.join y.reach) (n.reach.join r) }) := by
  induction l with
  | nil => cases h
  | cons n l ih =>
    simp only [widenList] at h
    split at h
    · next hs =>
      rcases List.mem_cons.mp h with rfl | h
      · exact ⟨n, .head _, .inr ⟨hs, _, rfl⟩⟩
      · obtain ⟨m, hm, e⟩ := ih h
        exact ⟨m, .tail _ hm, e⟩
    · next hs =>
      rcases List.mem_cons.mp h with rfl | h
      · exact ⟨x, .head _, .inl ⟨by simpa using hs, rfl⟩⟩
      · obtain ⟨m, hm, e⟩ := ih h
        exact ⟨m, .tail _ hm, e⟩
/-- A choice of stores that holds of a store once its reach is wider too. -/
def UpwardChoice (sel : Near → Bool) : Prop :=
  ∀ n q, (∀ c, n.reach.sees c = true → q.sees c = true) → sel n = true → sel { n with reach := q } = true
theorem upwardChoice_nearIn (pa n : Nat) : UpwardChoice (nearIn pa n) := fun _ _ _ h => h
theorem upwardChoice_sees (cl : Nat) : UpwardChoice (fun x => x.reach.sees cl) := fun _ _ hq h => hq cl h
theorem upwardChoice_inGrans (cl pa n : Nat) : UpwardChoice (inGrans cl pa n) := fun x q hq h => by
  simp only [inGrans, Bool.and_eq_true] at h ⊢
  exact ⟨hq cl h.1, h.2⟩

/-- The reach of a chosen store after widening. -/
theorem sees_widened {n : Near} {r : Reach} (l : List Near) {c : Nat} (h : n.reach.sees c = true) :
    (l.foldl (fun q x => q.join x.reach) (n.reach.join r)).sees c = true :=
  Reach.foldl_join.2.1 c (Reach.join_sees_left h)

/-- Behind a chosen store that stays narrow, no store of its granule has gone to memory (R228). -/
theorem widenList_narrow_behind {sel : Near → Bool} {r : Reach} {l : List Near} (hsel : UpwardChoice sel) (hl : NarrowList l) {g : Nat} {q : Reach}
    (hq : (((widenList sel r l).filter (fun x => sel x && decide (x.pa / 16 = g))).foldl (fun q x => q.join x.reach) q).wide = false) :
    ∀ x ∈ widenList sel r l, x.pa / 16 = g → x.reach.wide = false := by
  intro x hx hg
  obtain ⟨n, hn, ⟨_, rfl⟩ | ⟨hs, k, rfl⟩⟩ := mem_widenList hx
  · exact (hl x hn).1
  · by_contra hw
    rw [Bool.not_eq_false] at hw
    have hsx := hsel n _ (fun c hc => sees_widened k (r := r) hc) hs
    rw [Reach.foldl_join.2.2 _ (List.mem_filter.mpr ⟨hx, by simp only [hsx, Bool.true_and, decide_eq_true_eq]; exact hg⟩) hw] at hq
    cases hq

/-- Widening keeps what a test sees of a byte, where in the byte's granule the chosen stores are those that pass the test. -/
theorem widenList_under_chosen {sel : Near → Bool} {p : Reach → Bool} {r : Reach} {a : Nat} (hsel : UpwardChoice sel) (hp : UpwardTest p)
    {l : List Near} (hl : NarrowList l) (hall : ∀ n ∈ l, n.pa / 16 = a / 16 → sel n = p n.reach) (b : Byte) :
    ((widenList sel r l).filter (fun n => !n.reach.wide)).foldl (underByte p a) ((widenList sel r l).foldl (wideByte a) b) =
      l.foldl (underByte p a) b := by
  induction l generalizing b with
  | nil => rfl
  | cons n l ih =>
    obtain ⟨hnw, hnf⟩ := hl n (.head _)
    have ih' := ih hl.tail (fun x hx => hall x (.tail _ hx))
    by_cases hg : n.pa / 16 = a / 16
    · have hn := hall n (.head _) hg
      simp only [widenList]
      split
      · next hs =>
        rw [hs] at hn
        set q := ((widenList sel r l).filter (fun x => sel x && decide (x.pa / 16 = n.pa / 16))).foldl (fun q x => q.join x.reach) (n.reach.join r) with hq
        have hpq : p q = true := hp.foldl_join _ (hp.2 _ _ hn.symm)
        have hput : ∀ b, underByte p a b { n with reach := q } = underByte p a b n := fun b => by
          simp [underByte, hpq, ← hn, Near.covers]
        cases hw : q.wide with
        | true =>
          have hwb : wideByte a b { n with reach := q } = underByte p a b n := by
            simp [wideByte, underByte, hw, ← hn, Near.covers]
          simp only [List.filter_cons, hw, Bool.not_true, Bool.false_eq_true, if_false, List.foldl_cons, hwb]
          exact ih' _
        | false =>
          have hbehind := widenList_narrow_behind hsel hl.tail (hq ▸ hw)
          have hnone : ∀ c, (widenList sel r l).foldl (wideByte a) c = c := foldl_wideByte_of_narrow (fun x hx hc => by
            obtain ⟨m, hm, ⟨_, rfl⟩ | ⟨hs, k, rfl⟩⟩ := mem_widenList hx
            · exact (hl.tail x hm).1
            · by_cases hmg : m.pa / 16 = a / 16
              · exact hbehind _ hx (hmg.trans hg.symm)
              · exact absurd (show m.covers a = true from hc) (by simp [Near.covers_granule (hl.tail m hm).2 hmg]))
          have hwb : wideByte a b { n with reach := q } = b := by simp [wideByte, hw]
          simp only [List.filter_cons, hw, Bool.not_false, if_true, List.foldl_cons, hwb, hnone, hput]
          have := ih' (underByte p a b n)
          rwa [hnone] at this
      · next hs =>
        have hpn : p n.reach = false := by rw [← hn]; simpa using hs
        have hn0 : ∀ b, underByte p a b n = b := fun b => by simp [underByte, hpn]
        simp only [List.filter_cons, hnw, Bool.not_false, if_true, List.foldl_cons, hn0, (show wideByte a b n = b by simp [wideByte, hnw])]
        exact ih' b
    · have hc : ∀ q, Near.covers { n with reach := q } a = false := fun q => Near.covers_granule hnf hg
      have hn0 : ∀ q c, underByte p a c { n with reach := q } = c := fun q c => underByte_of_not_covers (hc q)
      have hw0 : ∀ q c, wideByte a c { n with reach := q } = c := fun q c => wideByte_of_not_covers (hc q)
      have hn1 : ∀ c, underByte p a c n = c := fun c => underByte_of_not_covers (hc n.reach)
      simp only [widenList]
      split
      · simp only [List.filter_cons, List.foldl_cons, hw0, hn1]
        split
        · simp only [List.foldl_cons, hn0]; exact ih' b
        · exact ih' b
      · simp only [List.filter_cons, hnw, Bool.not_false, if_true, List.foldl_cons, hn1, wideByte_of_not_covers (hc n.reach)]
        exact ih' b
/-- Where no store of a byte's granule is chosen, widening keeps the byte of memory. -/
theorem widenList_byte_unchosen {sel : Near → Bool} {r : Reach} {a : Nat} {l : List Near} (hl : NarrowList l)
    (hnone : ∀ n ∈ l, n.pa / 16 = a / 16 → sel n = false) (b : Byte) : (widenList sel r l).foldl (wideByte a) b = b :=
  foldl_wideByte_of_narrow (fun x hx hc => by
    obtain ⟨m, hm, ⟨_, rfl⟩ | ⟨hs, k, rfl⟩⟩ := mem_widenList hx
    · exact (hl x hm).1
    · by_cases hmg : m.pa / 16 = a / 16
      · rw [hnone m hm hmg] at hs; cases hs
      · exact absurd (show m.covers a = true from hc) (by simp [Near.covers_granule (hl m hm).2 hmg])) b
/-- And it keeps what any test sees of the byte. -/
theorem widenList_under_unchosen {sel : Near → Bool} {p : Reach → Bool} {r : Reach} {a : Nat} {l : List Near} (hl : NarrowList l)
    (hnone : ∀ n ∈ l, n.pa / 16 = a / 16 → sel n = false) (b : Byte) :
    ((widenList sel r l).filter (fun n => !n.reach.wide)).foldl (underByte p a) b = l.foldl (underByte p a) b := by
  induction l generalizing b with
  | nil => rfl
  | cons n l ih =>
    obtain ⟨hnw, hnf⟩ := hl n (.head _)
    have ih' := ih hl.tail (fun x hx => hnone x (.tail _ hx))
    simp only [widenList]
    split
    · next hs =>
      have hg : n.pa / 16 ≠ a / 16 := fun hg => by rw [hnone n (.head _) hg] at hs; cases hs
      have hc : ∀ q, Near.covers { n with reach := q } a = false := fun q => Near.covers_granule hnf hg
      rw [List.foldl_cons, underByte_of_not_covers (hc n.reach), ← ih', List.filter_cons]
      split
      · rw [List.foldl_cons, underByte_of_not_covers (hc _)]
      · rfl
    · simp only [List.filter_cons, hnw, Bool.not_false, if_true, List.foldl_cons]
      exact ih' _

theorem widenList_of_unchosen {sel : Near → Bool} {r : Reach} {l : List Near} (h : ∀ n ∈ l, sel n = false) : widenList sel r l = l := by
  induction l with
  | nil => rfl
  | cons n l ih => simp [widenList, h n (.head _), ih (fun x hx => h x (.tail _ hx))]
theorem filter_narrowList {l : List Near} (h : NarrowList l) : l.filter (fun n => !n.reach.wide) = l :=
  List.filter_eq_self.mpr (fun n hn => by simp [(h n hn).1])

/-- The stores that are not in memory after widening. -/
theorem widen_near {s : State} (h : s.memOk) (sel : Near → Bool) (r : Reach) :
    (widen s sel r).near = (widenList sel r s.near).filter (fun n => !n.reach.wide) := by
  unfold widen
  split
  · rw [foldl_placeNear_near]; rfl
  · next hn => rw [widenList_of_unchosen (by simpa using hn), filter_narrowList h.2.2]
/-- A byte of memory after widening. -/
theorem widen_byte {s : State} (h : s.memOk) (sel : Near → Bool) (r : Reach) (a : Nat) :
    (widen s sel r).byte a = (widenList sel r s.near).foldl (wideByte a) (s.byte a) := by
  unfold widen
  split
  · rw [foldl_placeNear_byte]; rfl
  · next hn =>
    rw [widenList_of_unchosen (by simpa using hn), foldl_wideByte_of_narrow (fun x hx _ => (h.2.2 x hx).1)]

/-- A cluster sees what it saw of a byte where the chosen stores of its granule are those it sees. -/
theorem seen_widen {s : State} (h : s.memOk) {sel : Near → Bool} (hsel : UpwardChoice sel) (r : Reach) {c a : Nat}
    (hall : ∀ n ∈ s.near, n.pa / 16 = a / 16 → sel n = n.reach.sees c) : (widen s sel r).seen c a = s.seen c a := by
  rw [State.seen, widen_near h, widen_byte h, nearByte_eq_underByte]
  exact widenList_under_chosen hsel (upwardTest_sees c) h.2.2 hall _
/-- Who sees every store sees what it saw of a byte where all stores of its granule are chosen. -/
theorem latest_widen {s : State} (h : s.memOk) {sel : Near → Bool} (hsel : UpwardChoice sel) (r : Reach) {a : Nat}
    (hall : ∀ n ∈ s.near, n.pa / 16 = a / 16 → sel n = true) : (widen s sel r).latest a = s.latest a := by
  rw [State.latest, widen_near h, widen_byte h]
  exact widenList_under_chosen hsel upwardTest_true h.2.2 hall _
/-- Nothing changes at a byte where no store of its granule is chosen. -/
theorem widen_unchosen {s : State} (h : s.memOk) {sel : Near → Bool} (r : Reach) {a : Nat}
    (hnone : ∀ n ∈ s.near, n.pa / 16 = a / 16 → sel n = false) :
    (widen s sel r).byte a = s.byte a ∧ (∀ c, (widen s sel r).seen c a = s.seen c a) ∧ (widen s sel r).latest a = s.latest a := by
  have hb : (widen s sel r).byte a = s.byte a := by rw [widen_byte h, widenList_byte_unchosen h.2.2 hnone]
  refine ⟨hb, fun c => ?_, ?_⟩
  · rw [State.seen, hb, widen_near h, nearByte_eq_underByte, widenList_under_unchosen h.2.2 hnone]; rfl
  · rw [State.latest, hb, widen_near h, widenList_under_unchosen h.2.2 hnone]; rfl

/-! Which stores are hidden from a cluster. -/

/-- A cluster from which no store of the granule is hidden sees what one sees that sees every store. -/
theorem seen_eq_latest {s : State} (h : s.memOk) {c a : Nat} (hn : NoneHidden s c a) : s.seen c a = s.latest a :=
  foldl_underByte_congr (p := fun r => r.sees c) (q := fun _ => true) (fun n hx hc =>
    hn n hx (by by_contra hg; rw [Near.covers_granule (h.2.2 n hx).2 hg] at hc; cases hc)) _

theorem Reach.join_sees_right {a b : Reach} {cl : Nat} (hb : b.sees cl = true) : (a.join b).sees cl = true := by
  unfold Reach.join
  split
  · exact hb
  · split
    · next h => exact Reach.sub_sees h hb
    · rfl

/-- A store that is narrow after widening: as it was, or chosen and seen by all that saw it and by all of the wider scope. -/
theorem mem_widen_near {s : State} (h : s.memOk) {sel : Near → Bool} {r : Reach} {x : Near} (hx : x ∈ (widen s sel r).near) :
    ∃ n ∈ s.near, x.pa = n.pa ∧ x.bytes = n.bytes ∧ (∀ c, n.reach.sees c = true → x.reach.sees c = true) ∧
      (sel n = false ∧ x = n ∨ sel n = true ∧ r.wide = false ∧ ∀ c, r.sees c = true → x.reach.sees c = true) := by
  rw [widen_near h] at hx
  obtain ⟨hx, hxw⟩ := List.mem_filter.mp hx
  obtain ⟨n, hn, ⟨hs, rfl⟩ | ⟨hs, k, rfl⟩⟩ := mem_widenList hx
  · exact ⟨x, hn, rfl, rfl, fun _ => id, .inl ⟨hs, rfl⟩⟩
  · refine ⟨n, hn, rfl, rfl, fun c hc => sees_widened k hc, .inr ⟨hs, ?_, fun c hc => Reach.foldl_join.2.1 c (Reach.join_sees_right hc)⟩⟩
    by_contra hw
    rw [Bool.not_eq_false] at hw
    simp [Reach.foldl_join.1 (Reach.join_wide_right hw)] at hxw

theorem noneHidden_widen {s : State} (h : s.memOk) {sel : Near → Bool} {r : Reach} {c a : Nat} (hn : NoneHidden s c a) :
    NoneHidden (widen s sel r) c a := fun x hx hg => by
  obtain ⟨n, hm, hpa, _, hsees, _⟩ := mem_widen_near h hx
  exact hsees c (hn n hm (hpa ▸ hg))
/-- A cluster of the wider scope sees every store of a granule whose stores are chosen. -/
theorem noneHidden_widen_of_sees {s : State} (h : s.memOk) {sel : Near → Bool} {r : Reach} {c a : Nat} (hr : r.sees c = true)
    (hall : ∀ n ∈ s.near, n.pa / 16 = a / 16 → sel n = true) : NoneHidden (widen s sel r) c a := fun x hx hg => by
  obtain ⟨n, hm, hpa, _, _, ⟨hs, _⟩ | ⟨_, _, hsees⟩⟩ := mem_widen_near h hx
  · rw [hall n hm (hpa ▸ hg)] at hs; cases hs
  · exact hsees c hr
/-- At package scope or wider the chosen stores are in memory. -/
theorem mem_widen_wide {s : State} (h : s.memOk) {sel : Near → Bool} {r : Reach} (hr : r.wide = true) {x : Near}
    (hx : x ∈ (widen s sel r).near) : x ∈ s.near ∧ sel x = false := by
  obtain ⟨n, hm, _, _, _, ⟨hs, rfl⟩ | ⟨_, hw, _⟩⟩ := mem_widen_near h hx
  · exact ⟨hm, hs⟩
  · rw [hr] at hw; cases hw

/-! Bytes that no narrow store covers. -/

/-- No narrow store covers the byte: every agent of the package sees memory's. -/
def Bare (s : State) (a : Nat) : Prop := ∀ x ∈ s.near, x.covers a = false
theorem Bare.seen {s : State} {a : Nat} (h : Bare s a) (c : Nat) : s.seen c a = s.byte a :=
  foldl_underByte_of_not (p := fun r => r.sees c) (fun n hn hc => by rw [h n hn] at hc; cases hc) _
theorem Bare.latest {s : State} {a : Nat} (h : Bare s a) : s.latest a = s.byte a :=
  foldl_underByte_of_not (p := fun _ => true) (fun n hn hc => by rw [h n hn] at hc; cases hc) _
theorem Bare.of_granule {s : State} (h : s.memOk) {a : Nat} (hn : ∀ x ∈ s.near, x.pa / 16 ≠ a / 16) : Bare s a :=
  fun x hx => Near.covers_granule (h.2.2 x hx).2 (hn x hx)
/-- Widening keeps the byte bare, and memory's byte. -/
theorem Bare.widen {s : State} (h : s.memOk) {a : Nat} (hb : Bare s a) (sel : Near → Bool) (r : Reach) :
    Bare (widen s sel r) a ∧ (Machine.widen s sel r).byte a = s.byte a := by
  refine ⟨fun x hx => ?_, ?_⟩
  · obtain ⟨n, hm, hpa, hby, _⟩ := mem_widen_near h hx
    have := hb n hm
    rwa [Near.covers, ← hpa, ← hby] at this
  · rw [widen_byte h]
    refine foldl_underByte_of_not (p := Reach.wide) (fun x hx hc => ?_) _
    obtain ⟨m, hm, ⟨_, rfl⟩ | ⟨_, k, rfl⟩⟩ := mem_widenList hx
    · rw [hb x hm] at hc; cases hc
    · have := hb m hm
      simp only [Near.covers] at this hc
      rw [this] at hc; cases hc

end Sys2Proof.Machine


namespace Sys2Proof.Machine
open Sys2Proof Sys2Proof.Claims

/-! States with the same memory and the same narrow stores. -/

/-- Memory and the narrow stores are the same: every agent of the package sees the same. -/
def SameView (s t : State) : Prop := t.mem = s.mem ∧ t.near = s.near
theorem SameView.of_memParts {s t : State} (h : t.memParts = s.memParts) : SameView s t := by
  simp only [State.memParts, Prod.mk.injEq] at h
  exact ⟨h.1, h.2.1⟩
theorem SameView.trans {s t u : State} (h : SameView s t) (k : SameView t u) : SameView s u := ⟨k.1.trans h.1, k.2.trans h.2⟩
theorem SameView.byte {s t : State} (h : SameView s t) (a : Nat) : t.byte a = s.byte a := by rw [State.byte, h.1]; rfl
theorem SameView.seen {s t : State} (h : SameView s t) (c a : Nat) : t.seen c a = s.seen c a := by
  rw [State.seen, h.byte, h.2]; rfl
theorem SameView.latest {s t : State} (h : SameView s t) (a : Nat) : t.latest a = s.latest a := by
  rw [State.latest, h.byte, h.2]; rfl
theorem SameView.noneHidden {s t : State} (h : SameView s t) (c a : Nat) : NoneHidden t c a ↔ NoneHidden s c a := by
  rw [NoneHidden, h.2]; rfl
theorem SameView.bare {s t : State} (h : SameView s t) (a : Nat) : Bare t a ↔ Bare s a := by
  rw [Bare, h.2]; rfl
theorem sameView_modGrp (s : State) (cl g : Nat) (f : Group → Group) : SameView s (modGrp s cl g f) := ⟨rfl, rfl⟩
theorem sameView_modCore (s : State) (cl : Nat) (f : Core → Core) : SameView s (modCore s cl f) := ⟨rfl, rfl⟩
theorem sameView_l2Take (s : State) (cl pa : Nat) : SameView s (l2Take s cl pa) := ⟨by simp [l2Take], by simp [l2Take]⟩
theorem sameView_l2Touch (s : State) (cl pa : Nat) : SameView s (l2Touch s cl pa) := .of_memParts (by simp)

/-! Widening of whole granules. -/

/-- A byte lies in the granules of `n` bytes. -/
def InGranules (pa n a : Nat) : Prop := pa / 16 ≤ a / 16 ∧ a / 16 ≤ (pa + n - 1) / 16
theorem nearIn_of_granule {pa n a : Nat} {x : Near} (h : x.pa / 16 = a / 16) : nearIn pa n x = true ↔ InGranules pa n a := by
  simp [nearIn, InGranules, h]
theorem inGranules_of_covered {pa n a : Nat} (h : pa ≤ a ∧ a < pa + n) : InGranules pa n a :=
  ⟨Nat.div_le_div_right h.1, Nat.div_le_div_right (by omega)⟩

theorem latest_widenAll {s : State} (h : s.memOk) (pa n : Nat) (r : Reach) (a : Nat) : (widenAll s pa n r).latest a = s.latest a := by
  by_cases hg : InGranules pa n a
  · exact latest_widen h (upwardChoice_nearIn pa n) r (fun x _ hx => (nearIn_of_granule hx).2 hg)
  · exact (widen_unchosen h r (fun x _ hx => by simpa using mt (nearIn_of_granule hx).1 hg)).2.2
theorem widenAll_outside {s : State} (h : s.memOk) {pa n : Nat} (r : Reach) {a : Nat} (hg : ¬ InGranules pa n a) :
    (widenAll s pa n r).byte a = s.byte a ∧ (∀ c, (widenAll s pa n r).seen c a = s.seen c a) ∧ (widenAll s pa n r).latest a = s.latest a :=
  widen_unchosen h r (fun x _ hx => by simpa using mt (nearIn_of_granule hx).1 hg)
theorem noneHidden_widenAll {s : State} (h : s.memOk) {pa n : Nat} {r : Reach} {c a : Nat} (hr : r.sees c = true) (hg : InGranules pa n a) :
    NoneHidden (widenAll s pa n r) c a :=
  noneHidden_widen_of_sees h hr (fun _ _ hx => (nearIn_of_granule hx).2 hg)
/-- At package scope or wider no store of the granules is left outside memory. -/
theorem bare_widenAll {s : State} (h : s.memOk) {pa n : Nat} {r : Reach} {a : Nat} (hr : r.wide = true) (hg : InGranules pa n a) :
    Bare (widenAll s pa n r) a :=
  Bare.of_granule (widen_ok _ _ h) (fun x hx hxa => by
    have := (mem_widen_wide h hr hx).2
    rw [(nearIn_of_granule hxa).2 hg] at this; cases this)

/-! A write of an agent of a cluster. -/

/-- What a store makes of a byte. -/
def storeByte (pa : Nat) (bs : List Byte) (a : Nat) (b : Byte) : Byte := if pa ≤ a ∧ a < pa + bs.length then bs.getD (a - pa) b else b
theorem storeByte_out {pa a : Nat} {bs : List Byte} (h : ¬(pa ≤ a ∧ a < pa + bs.length)) (b : Byte) : storeByte pa bs a b = b := by simp [storeByte, h]
theorem storeByte_in {pa k : Nat} {bs : List Byte} (h : k < bs.length) (b : Byte) : storeByte pa bs (pa + k) b = bs.getD k 0#8 := by
  rw [storeByte, if_pos (by omega), show pa + k - pa = k by omega, List.getD_eq_getElem _ _ h, List.getD_eq_getElem _ _ h]

/-- The scope at which `performAt` performs a write. -/
def storeReach (s : State) (cl : Nat) (r : Reach) (pa : Nat) (bs : List Byte) : Reach :=
  if (s.near.any (fun x => nearIn pa bs.length x && !x.reach.sees cl) || !decide (pa % 16 + bs.length ≤ 16)) && decide (r ≠ .system) then .package
  else r
theorem performAt_eq (s : State) (cl : Nat) (r : Reach) (via : Via) (pa : Nat) (bs : List Byte) : performAt s cl r via pa bs =
    placeNear (widenAll s pa bs.length (storeReach s cl r pa bs)) ⟨pa, bs, storeReach s cl r pa bs, dieOf cl, via⟩ := rfl
theorem storeReach_sees {s : State} {cl : Nat} {r : Reach} {pa : Nat} {bs : List Byte} {c : Nat} (h : r.sees c = true) :
    (storeReach s cl r pa bs).sees c = true := by
  unfold storeReach
  split
  · rfl
  · exact h
theorem storeReach_wide {s : State} {cl : Nat} {r : Reach} {pa : Nat} {bs : List Byte} (h : r.wide = true) :
    (storeReach s cl r pa bs).wide = true := by
  unfold storeReach
  split
  · rfl
  · exact h

section
variable {s : State} (h : s.memOk) (cl : Nat) (r : Reach) (via : Via) (pa : Nat) (bs : List Byte)

theorem performAt_near : (performAt s cl r via pa bs).near = (widenAll s pa bs.length (storeReach s cl r pa bs)).near ++
    (if (storeReach s cl r pa bs).wide then [] else [⟨pa, bs, storeReach s cl r pa bs, dieOf cl, via⟩]) := by
  rw [performAt_eq, placeNear_near]
theorem performAt_byte (a : Nat) : (performAt s cl r via pa bs).byte a =
    if (storeReach s cl r pa bs).wide then storeByte pa bs a ((widenAll s pa bs.length (storeReach s cl r pa bs)).byte a)
    else (widenAll s pa bs.length (storeReach s cl r pa bs)).byte a := by
  rw [performAt_eq, placeNear_byte, wideByte]
  cases (storeReach s cl r pa bs).wide <;> simp [storeByte, Near.covers]

include h
/-- The write is the newest store of its bytes. -/
theorem latest_performAt (a : Nat) : (performAt s cl r via pa bs).latest a = storeByte pa bs a (s.latest a) := by
  rw [← latest_widenAll h pa bs.length (storeReach s cl r pa bs) a, State.latest, performAt_near, performAt_byte]
  cases hw : (storeReach s cl r pa bs).wide with
  | false =>
    simp only [Bool.false_eq_true, if_false, List.foldl_append, List.foldl_cons, List.foldl_nil]
    simp [underByte, storeByte, Near.covers, State.latest]
  | true =>
    simp only [if_true, List.append_nil]
    by_cases hc : pa ≤ a ∧ a < pa + bs.length
    · have hb := bare_widenAll h (n := bs.length) hw (inGranules_of_covered hc)
      rw [hb.latest, foldl_underByte_of_not (fun n hn hx => by rw [hb n hn] at hx; cases hx)]
    · rw [storeByte_out hc, storeByte_out hc]; rfl
/-- A cluster that sees the scope, and every store of a byte's granule, sees them afterwards too. -/
theorem noneHidden_performAt {c a : Nat} (hr : r.sees c = true) (hn : NoneHidden s c a ∨ InGranules pa bs.length a) :
    NoneHidden (performAt s cl r via pa bs) c a := by
  intro x hx hg
  rw [performAt_near] at hx
  rcases List.mem_append.mp hx with hx | hx
  · rcases hn with hn | hn
    · exact noneHidden_widen h hn x hx hg
    · exact noneHidden_widenAll h (storeReach_sees hr) hn x hx hg
  · split at hx
    · cases hx
    · rw [List.mem_singleton.mp hx]; exact storeReach_sees hr
/-- Outside its granules the write changes nothing. -/
theorem performAt_outside {a : Nat} (hg : ¬ InGranules pa bs.length a) :
    (performAt s cl r via pa bs).byte a = s.byte a ∧ ∀ c, (performAt s cl r via pa bs).seen c a = s.seen c a := by
  have hc : ¬(pa ≤ a ∧ a < pa + bs.length) := fun hc => hg (inGranules_of_covered hc)
  obtain ⟨hb, hs, _⟩ := widenAll_outside h (storeReach s cl r pa bs) hg
  have hbyte : (performAt s cl r via pa bs).byte a = (widenAll s pa bs.length (storeReach s cl r pa bs)).byte a := by
    rw [performAt_byte, storeByte_out hc, ite_self]
  refine ⟨hbyte.trans hb, fun c => ?_⟩
  rw [← hs c, State.seen, performAt_near, hbyte, List.foldl_append]
  split
  · rfl
  · rw [List.foldl_cons, nearByte_eq_underByte, underByte_of_not_covers (by simpa [Near.covers] using hc)]; rfl
/-- A cluster of the scope sees the bytes of the write. -/
theorem seen_performAt {c k : Nat} (hr : r.sees c = true) (hk : k < bs.length) :
    (performAt s cl r via pa bs).seen c (pa + k) = bs.getD k 0#8 := by
  rw [seen_eq_latest (performAt_ok cl r via pa bs h)
    (noneHidden_performAt h cl r via pa bs hr (.inr (inGranules_of_covered ⟨by omega, by omega⟩))), latest_performAt h, storeByte_in hk]
/-- At package scope or wider no store of the granules is left outside memory, and no narrow store comes to be. -/
theorem bare_performAt {a : Nat} (hr : r.wide = true) (hg : InGranules pa bs.length a) : Bare (performAt s cl r via pa bs) a := by
  intro x hx
  rw [performAt_near, if_pos (storeReach_wide hr), List.append_nil] at hx
  exact bare_widenAll h (storeReach_wide hr) hg x hx
theorem mem_near_performAt (hr : r.wide = true) {x : Near} (hx : x ∈ (performAt s cl r via pa bs).near) : x ∈ s.near := by
  rw [performAt_near, if_pos (storeReach_wide hr), List.append_nil] at hx
  exact (mem_widen_wide h (storeReach_wide hr) hx).1
/-- A bare byte that the write does not cover stays, and stays bare. -/
theorem Bare.performAt {a : Nat} (hb : Bare s a) (hc : ¬(pa ≤ a ∧ a < pa + bs.length)) :
    Bare (performAt s cl r via pa bs) a ∧ (Machine.performAt s cl r via pa bs).byte a = s.byte a := by
  obtain ⟨hbw, hbyte⟩ := hb.widen h (nearIn pa bs.length) (storeReach s cl r pa bs)
  refine ⟨fun x hx => ?_, ?_⟩
  · rw [performAt_near] at hx
    rcases List.mem_append.mp hx with hx | hx
    · exact hbw x hx
    · split at hx
      · cases hx
      · rw [List.mem_singleton.mp hx]; simpa [Near.covers] using hc
  · rw [performAt_byte, storeByte_out hc, ite_self]; exact hbyte
end

end Sys2Proof.Machine


namespace Sys2Proof.Machine
open Sys2Proof Sys2Proof.Claims

/-! A group's stores, performed one after the other (R175, R224, R231). -/

/-- What a group's stores make of a byte. -/
def storesByte (ps : List PStore) (a : Nat) (b : Byte) : Byte := ps.foldl (fun b p => storeByte p.pa p.bytes a b) b
theorem seenByte_eq (s : State) (cl : Nat) (ps : List PStore) (a : Nat) : seenByte s cl ps a = storesByte ps a (s.seen cl a) := rfl
theorem storesByte_append (ps qs : List PStore) (a : Nat) (b : Byte) : storesByte (ps ++ qs) a b = storesByte qs a (storesByte ps a b) :=
  List.foldl_append ..
theorem storesByte_out {ps : List PStore} {a : Nat} (h : ∀ q ∈ ps, ¬(q.pa ≤ a ∧ a < q.pa + q.bytes.length)) (b : Byte) : storesByte ps a b = b := by
  induction ps generalizing b with
  | nil => rfl
  | cons p ps ih =>
    show storesByte ps a (storeByte p.pa p.bytes a b) = b
    rw [storeByte_out (h p (.head _))]
    exact ih (fun q hq => h q (.tail _ hq)) b

theorem scopeOf_sees {l : List Nat} {cl : Nat} (hl : cl ∈ l) (sc : Nat) : (scopeOf l cl sc).sees cl = true := by
  unfold scopeOf
  split <;> simp [Reach.sees, Reach.has, Agent.cluster, hl]
theorem mem_spanList (s : State) (cl : Nat) : cl ∈ spanList s cl := by
  unfold spanList
  split
  · split
    · assumption
    · exact .head _
  · exact .head _
theorem instOf_sees (s : State) (cl sc : Nat) : (instOf s cl sc).sees cl = true := scopeOf_sees (mem_spanList s cl) sc
theorem instOf_wide (s : State) (cl : Nat) {sc : Nat} (h : 3 ≤ sc) : (instOf s cl sc).wide = true := by
  match sc, h with
  | 3, _ => rfl
  | n + 4, _ => rfl
theorem instOf_system (s : State) (cl : Nat) {sc : Nat} (h : 4 ≤ sc) : instOf s cl sc = .system := by
  match sc, h with
  | n + 4, _ => rfl
theorem instOf_counts {s t : State} (h : sameButCounts s t) (cl sc : Nat) : instOf t cl sc = instOf s cl sc := by
  obtain ⟨_, hsp, _, _, _, _, _, _, hcl⟩ := h
  unfold instOf spanList spanAt getSpan
  rw [hcl cl, hsp]

section
variable {s : State} (h : s.memOk) (cl : Nat) (r : Reach) (via : Via) (pa : Nat) (bs : List Byte)
include h

theorem latest_l2At (a : Nat) : (l2At s cl r via pa bs).latest a = storeByte pa bs a (s.latest a) := by
  rw [← (sameView_l2Take s cl pa).latest a]
  exact latest_performAt (l2Take_ok cl pa h) cl r via pa bs a
theorem noneHidden_l2At {c a : Nat} (hr : r.sees c = true) (hn : NoneHidden s c a ∨ InGranules pa bs.length a) :
    NoneHidden (l2At s cl r via pa bs) c a :=
  noneHidden_performAt (l2Take_ok cl pa h) cl r via pa bs hr (hn.imp_left ((sameView_l2Take s cl pa).noneHidden c a).2)
theorem l2At_outside {a : Nat} (hg : ¬ InGranules pa bs.length a) :
    (l2At s cl r via pa bs).byte a = s.byte a ∧ ∀ c, (l2At s cl r via pa bs).seen c a = s.seen c a := by
  obtain ⟨hb, hs⟩ := performAt_outside (l2Take_ok cl pa h) cl r via pa bs hg
  exact ⟨hb.trans ((sameView_l2Take s cl pa).byte a), fun c => (hs c).trans ((sameView_l2Take s cl pa).seen c a)⟩
theorem seen_l2At {c k : Nat} (hr : r.sees c = true) (hk : k < bs.length) : (l2At s cl r via pa bs).seen c (pa + k) = bs.getD k 0#8 :=
  seen_performAt (l2Take_ok cl pa h) cl r via pa bs hr hk
theorem bare_l2At {a : Nat} (hr : r.wide = true) (hg : InGranules pa bs.length a) : Bare (l2At s cl r via pa bs) a :=
  bare_performAt (l2Take_ok cl pa h) cl r via pa bs hr hg
theorem mem_near_l2At (hr : r.wide = true) {x : Near} (hx : x ∈ (l2At s cl r via pa bs).near) : x ∈ s.near := by
  have := mem_near_performAt (l2Take_ok cl pa h) cl r via pa bs hr hx
  rwa [(sameView_l2Take s cl pa).2] at this
theorem Bare.l2At {a : Nat} (hb : Bare s a) (hc : ¬(pa ≤ a ∧ a < pa + bs.length)) :
    Bare (l2At s cl r via pa bs) a ∧ (Machine.l2At s cl r via pa bs).byte a = s.byte a := by
  obtain ⟨h1, h2⟩ := Bare.performAt (l2Take_ok cl pa h) cl r via pa bs (((sameView_l2Take s cl pa).bare a).2 hb) hc
  exact ⟨h1, h2.trans ((sameView_l2Take s cl pa).byte a)⟩
/-- A cluster of the scope that sees every store of the granule sees the bytes of the write, and others as before. -/
theorem seen_l2At_noneHidden {c a : Nat} (hr : r.sees c = true) (hn : NoneHidden s c a) :
    (l2At s cl r via pa bs).seen c a = storeByte pa bs a (s.seen c a) := by
  rw [seen_eq_latest (l2At_ok cl r via pa bs h) (noneHidden_l2At h cl r via pa bs hr (.inl hn)), latest_l2At h, seen_eq_latest h hn]
end

section
variable (ps : List PStore) {s : State} (h : s.memOk) (cl : Nat) (r : Reach)
include h

theorem latest_performAll (a : Nat) : (performAll s cl r ps).latest a = storesByte ps a (s.latest a) := by
  induction ps generalizing s with
  | nil => rfl
  | cons p ps ih =>
    show (performAll (l2At s cl _ p.via p.pa p.bytes) cl r ps).latest a = storesByte ps a (storeByte p.pa p.bytes a (s.latest a))
    rw [ih (l2At_ok _ _ _ _ _ h), latest_l2At h]
theorem noneHidden_performAll {c a : Nat} (hc : c = cl ∨ r.sees c = true) (hn : NoneHidden s c a) : NoneHidden (performAll s cl r ps) c a := by
  induction ps generalizing s with
  | nil => exact hn
  | cons p ps ih =>
    refine ih (l2At_ok _ _ _ _ _ h) (noneHidden_l2At h _ _ _ _ _ ?_ (.inl hn))
    rcases hc with rfl | hc
    · exact Reach.join_sees_left (instOf_sees s c p.via.sc)
    · exact Reach.join_sees_right hc
theorem Bare.performAll {a : Nat} (hb : Bare s a) (hps : ∀ q ∈ ps, ¬(q.pa ≤ a ∧ a < q.pa + q.bytes.length)) :
    Bare (performAll s cl r ps) a ∧ (Machine.performAll s cl r ps).byte a = s.byte a := by
  induction ps generalizing s with
  | nil => exact ⟨hb, rfl⟩
  | cons p ps ih =>
    obtain ⟨h1, h2⟩ := hb.l2At h cl ((instOf s cl p.via.sc).join r) p.via p.pa p.bytes (hps p (.head _))
    obtain ⟨h3, h4⟩ := ih (l2At_ok _ _ _ _ _ h) h1 (fun q hq => hps q (.tail _ hq))
    exact ⟨h3, h4.trans h2⟩
end

/-! A release of a group (R232). -/

section
variable {s : State} (h : s.memOk) (cl : Nat) (r : Reach)

omit h in
theorem sameView_performSeen : SameView (widen s (fun x => x.reach.sees cl) r) (performSeen s cl r) := by
  unfold performSeen
  simp only
  split <;> exact ⟨rfl, rfl⟩
include h
theorem noneHidden_performSeen {c a : Nat} (hn : NoneHidden s cl a) (hc : c = cl ∨ r.sees c = true) : NoneHidden (performSeen s cl r) c a := by
  rw [(sameView_performSeen cl r).noneHidden]
  rcases hc with rfl | hc
  · exact noneHidden_widen h hn
  · exact noneHidden_widen_of_sees h hc hn
theorem latest_performSeen {a : Nat} (hn : NoneHidden s cl a) : (performSeen s cl r).latest a = s.latest a := by
  rw [(sameView_performSeen cl r).latest, latest_widen h (upwardChoice_sees cl) r hn]
theorem mem_near_performSeen (hr : r.wide = true) {x : Near} (hx : x ∈ (performSeen s cl r).near) : x.reach.sees cl = false := by
  rw [(sameView_performSeen cl r).2] at hx
  exact (mem_widen_wide h hr hx).2
theorem Bare.performSeen {a : Nat} (hb : Bare s a) : Bare (performSeen s cl r) a ∧ (Machine.performSeen s cl r).byte a = s.byte a := by
  obtain ⟨h1, h2⟩ := hb.widen h (fun x => x.reach.sees cl) r
  exact ⟨((sameView_performSeen cl r).bare a).2 h1, ((sameView_performSeen cl r).byte a).trans h2⟩
end

/-- Where a cluster sees no narrow store, it sees memory. -/
theorem seen_of_none_seen {s : State} {c : Nat} (hn : ∀ x ∈ s.near, x.reach.sees c = false) (a : Nat) : s.seen c a = s.byte a :=
  foldl_underByte_of_not (p := fun r => r.sees c) (fun n hx _ => hn n hx) _

/-- A release of a group, before what its cluster sees is performed: its stores are, and its list is empty. -/
def storesPerformed (s : State) (cl g sc : Nat) : State :=
  modGrp (performAll s cl (instOf s cl sc) (getGrp s cl g).stores) cl g (fun g => { g with stores := [] })
theorem flushGrp_eq (s : State) (cl g sc : Nat) : flushGrp s cl g sc = performSeen (storesPerformed s cl g sc) cl (instOf s cl sc) := rfl

section
variable {s : State} (h : s.memOk) (cl g sc : Nat)
include h

theorem storesPerformed_ok : (storesPerformed s cl g sc).memOk :=
  memOk_congr (performAll_ok _ cl (instOf s cl sc) h) rfl rfl rfl
theorem noneHidden_storesPerformed {a : Nat} (hn : NoneHidden s cl a) : NoneHidden (storesPerformed s cl g sc) cl a :=
  noneHidden_performAll _ h cl _ (.inl rfl) hn
theorem noneHidden_flushGrp {c a : Nat} (hn : NoneHidden s cl a) (hc : c = cl ∨ (instOf s cl sc).sees c = true) :
    NoneHidden (flushGrp s cl g sc) c a :=
  noneHidden_performSeen (storesPerformed_ok h cl g sc) cl _ (noneHidden_storesPerformed h cl g sc hn) hc
theorem latest_flushGrp {a : Nat} (hn : NoneHidden s cl a) : (flushGrp s cl g sc).latest a = storesByte (getGrp s cl g).stores a (s.latest a) := by
  rw [flushGrp_eq, latest_performSeen (storesPerformed_ok h cl g sc) cl _ (noneHidden_storesPerformed h cl g sc hn), ← latest_performAll _ h cl (instOf s cl sc)]
  rfl
/-- The cluster sees the group's stores on top of what it saw. -/
theorem seen_flushGrp {a : Nat} (hn : NoneHidden s cl a) : (flushGrp s cl g sc).seen cl a = seenByte s cl (getGrp s cl g).stores a := by
  rw [seen_eq_latest (flushGrp_ok cl g sc h) (noneHidden_flushGrp h cl g sc hn (.inl rfl)), latest_flushGrp h cl g sc hn, seenByte_eq, seen_eq_latest h hn]
/-- After a release at package scope or wider the cluster sees what memory holds. -/
theorem seen_flushGrp_wide (hsc : 3 ≤ sc) (a : Nat) : (flushGrp s cl g sc).seen cl a = (flushGrp s cl g sc).byte a :=
  seen_of_none_seen (fun _ hx => mem_near_performSeen (storesPerformed_ok h cl g sc) cl _ (instOf_wide s cl hsc) hx) a
theorem Bare.flushGrp {a : Nat} (hb : Bare s a) (hps : ∀ q ∈ (getGrp s cl g).stores, ¬(q.pa ≤ a ∧ a < q.pa + q.bytes.length)) :
    Bare (flushGrp s cl g sc) a ∧ (Machine.flushGrp s cl g sc).byte a = s.byte a := by
  obtain ⟨h1, h2⟩ := hb.performAll _ h cl (instOf s cl sc) hps
  have hv := sameView_modGrp (Machine.performAll s cl (instOf s cl sc) (getGrp s cl g).stores) cl g (fun g => { g with stores := [] })
  obtain ⟨h3, h4⟩ := Bare.performSeen (storesPerformed_ok h cl g sc) cl (instOf s cl sc) ((hv.bare a).2 h1)
  exact ⟨h3, h4.trans ((hv.byte a).trans h2)⟩
end

/-- What a release leaves of the units: everything but the group's list of stores and what counters have counted. -/
theorem flushGrp_units (s : State) (cl sc : Nat) {g : Nat} (hg : g < 4) :
    (flushGrp s cl g sc).cur = s.cur ∧ (flushGrp s cl g sc).spans = s.spans ∧ (flushGrp s cl g sc).cycles = s.cycles ∧
      (flushGrp s cl g sc).hub = { s.hub with dctr := (flushGrp s cl g sc).hub.dctr } ∧
      (∀ c, getCl (flushGrp s cl g sc) c = { getCl s c with
        core := { (getCl s c).core with grp := (getCl (flushGrp s cl g sc) c).core.grp }, counters := (getCl (flushGrp s cl g sc) c).counters }) ∧
      ∀ c h, h < 4 → (c ≠ cl ∨ h ≠ g) → getGrp (flushGrp s cl g sc) c h = getGrp s c h := by
  have hall := performAll_counts (getGrp s cl g).stores s cl (instOf s cl sc)
  have hseen := sameButMem_counts (performSeen_same (storesPerformed s cl g sc) cl (instOf s cl sc))
  rw [← flushGrp_eq] at hseen
  refine ⟨hseen.1.trans hall.1, hseen.2.1.trans hall.2.1, hseen.2.2.1.trans hall.2.2.1, ?_, fun c => ?_, fun c k hk hne => ?_⟩
  · rw [hseen.2.2.2.2.2.2.2.1, show (storesPerformed s cl g sc).hub = _ from hall.2.2.2.2.2.2.2.1]
  · rw [hseen.2.2.2.2.2.2.2.2 c]
    unfold storesPerformed modGrp modCore
    rw [getCl_modCl]
    split
    · next hc => subst hc; rw [hall.2.2.2.2.2.2.2.2 c]
    · rw [hall.2.2.2.2.2.2.2.2 c]
  · rw [sameButCounts_grp hseen]
    unfold storesPerformed
    rw [getGrp_modGrp_ne _ _ hg hk hne, sameButCounts_grp hall]
theorem flushGrp_lag (s : State) (cl g : Nat) {sc : Nat} (h : 4 ≤ sc) : (flushGrp s cl g sc).lag = [] := by
  rw [flushGrp_eq, instOf_system s cl h]
  rfl

end Sys2Proof.Machine


namespace Sys2Proof.Machine
open Sys2Proof Sys2Proof.Claims

/-! The executing group's release, and the instructions that only issue an access (R174 to R178). -/

theorem flushGrp_released {s : State} (h : s.memOk) (cl sc : Nat) {g : Nat} (hg : g < 4) : Released s (flushGrp s cl g sc) cl g sc := by
  obtain ⟨hcur, hspans, hcycles, hhub, hcl, hgrp⟩ := flushGrp_units s cl sc hg
  have hok := flushGrp_ok cl g sc h
  refine ⟨flushGrp_grp s cl sc hg, fun a hn => seen_flushGrp h cl g sc hn, fun a c hn hc => ?_, fun hsc a => (seen_flushGrp_wide h cl g sc hsc a).symm,
    flushGrp_lag s cl g, fun a hn hps => ((Bare.of_granule h hn).flushGrp h cl g sc hps).2, hcur, hspans, hcycles, hhub, hcl, hgrp⟩
  rw [seen_eq_latest hok (noneHidden_flushGrp h cl g sc hn (.inr hc)), seen_eq_latest hok (noneHidden_flushGrp h cl g sc hn (.inl rfl))]

theorem releaseCur_cur (s : State) (sc : Nat) : (releaseCur s sc).cur = s.cur :=
  (sameButMem_counts (performSeen_same _ _ _)).1.trans (performAll_counts _ s s.cur.cl _).1
theorem curGrp_releaseCur {s : State} (sc : Nat) (hg : s.cur.grp < 4) : curGrp (releaseCur s sc) = { curGrp s with stores := [] } := by
  rw [curGrp, releaseCur_cur]
  exact flushGrp_grp s s.cur.cl sc hg
theorem grp_releaseCur {s : State} (sc : Nat) (hg : s.cur.grp < 4) : (releaseCur s sc).cur.grp < 4 := by rw [releaseCur_cur]; exact hg
theorem x_releaseCur {s : State} (sc : Nat) (hg : s.cur.grp < 4) : (curGrp (releaseCur s sc)).x = (curGrp s).x := by rw [curGrp_releaseCur sc hg]
theorem pc_releaseCur {s : State} (sc : Nat) (hg : s.cur.grp < 4) : (curGrp (releaseCur s sc)).pc = (curGrp s).pc := by rw [curGrp_releaseCur sc hg]
theorem getCl_releaseCur (s : State) (sc : Nat) (hg : s.cur.grp < 4) (c : Nat) : getCl (releaseCur s sc) c = { getCl s c with
    core := { (getCl s c).core with grp := (getCl (releaseCur s sc) c).core.grp }, counters := (getCl (releaseCur s sc) c).counters } :=
  (flushGrp_units s s.cur.cl sc hg).2.2.2.2.1 c
theorem spans_releaseCur (s : State) (sc : Nat) (hg : s.cur.grp < 4) : (releaseCur s sc).spans = s.spans := (flushGrp_units s s.cur.cl sc hg).2.1
theorem tcache_releaseCur (s : State) (sc : Nat) (hg : s.cur.grp < 4) (c : Nat) : (getCl (releaseCur s sc) c).tcache = (getCl s c).tcache := by
  rw [getCl_releaseCur s sc hg c]
/-- A release asks and translates nothing: the cached translations are as they were. -/
theorem translate_releaseCur (s : State) (sc : Nat) (hg : s.cur.grp < 4) (c asid ea need : Nat) :
    translate (releaseCur s sc) c asid ea need = translate s c asid ea need := by
  rw [translate, tcache_releaseCur s sc hg]
  rfl

/-- Settles O14: `releaseCur` is the release, and FENCE is a release and then the wait of ENG. -/
theorem fenceReleases : Obligations.FenceReleases := by
  refine ⟨fun s sc h hg => flushGrp_released h s.cur.cl sc hg, fun s e sc hg hsc => ?_⟩
  have hg1 : (releaseCur s sc.toNat).cur.grp < 4 := by rw [releaseCur_cur]; exact hg
  have hexec : exec (.fence e sc) s = if e = 1#1 ∧ grpEngineBusy (releaseCur s sc.toNat) s.cur.cl s.cur.grp then
        .next (modCur (releaseCur s sc.toNat) (waitFor (.fence true)))
      else .next (modCur (releaseCur s sc.toNat) (fun g => advance 4 (if e = 1#1 then { g with tickets := [] } else g))) :=
    if_neg (Nat.not_le.2 hsc)
  refine ⟨fun hidle => ?_, fun he hbusy => ?_⟩
  · rw [if_neg (by rcases hidle with rfl | h <;> simp_all)] at hexec
    refine ⟨_, hexec, rfl, rfl, ?_, ?_, ?_⟩ <;> rw [curGrp_modCur hg1, curGrp_releaseCur _ hg] <;> split <;> rfl
  · rw [if_pos ⟨he, hbusy⟩] at hexec
    refine ⟨_, hexec, rfl, rfl, ?_, ?_, ?_⟩ <;> rw [curGrp_modCur hg1, curGrp_releaseCur _ hg] <;> rfl

/-- A store whose page is cached with write permission. -/
theorem coreStore_hit {s : State} {v a : BitVec 5} {sc n pa : Nat} {off : W64} (hsc : sc < 5)
    (ht : translate s s.cur.cl (curGrp s).asid (effAddr (xget (curGrp s) a) off n) 2 = .hit pa) (len : Nat) (rel : Bool) :
    coreStore s len v a sc off n rel = modCur s (fun g => advance len { g with
      stores := g.stores ++ [⟨pa, bytesOf n (xget g v).toNat, viaOf s s.cur.cl sc g.asid (effAddr (xget (curGrp s) a) off n), rel⟩] }) := by
  rw [coreStore, if_neg (by omega)]
  simp only [ht]
theorem stores_coreStore {i : Instr} {s s0 : State} {v a : BitVec 5} {sc n pa ea : Nat} {off : W64} {rel : Bool} (hg : s0.cur.grp < 4) (hsc : sc < 5)
    (hi : exec i s = .next (coreStore s0 4 v a sc off n rel)) (hcur : s0.cur = s.cur) (hx : (curGrp s0).x = (curGrp s).x)
    (ha : (curGrp s0).asid = (curGrp s).asid) (hea : ea = effAddr (xget (curGrp s0) a) off n)
    (ht : translate s0 s0.cur.cl (curGrp s0).asid ea 2 = .hit pa) :
    Stores i s s0 4 ea pa (bytesOf n (xget (curGrp s) v).toNat) sc rel := by
  refine ⟨_, hi, ?_⟩
  rw [coreStore_hit hsc (hea ▸ ht), ← hea]
  refine ⟨onlyGroup_modCur s0 _, ?_⟩
  rw [curGrp_modCur hg, ← hcur, ← xget_congr hx v, ← ha]
  rfl

/-- Settles O11: a store joins the group's stores; STL does so after a release. -/
theorem coreStores : Obligations.CoreStores := by
  intro s v a sc o w ea pa hg hsc ht
  refine ⟨fun p hp hea => ?_, fun hea => ?_⟩
  · have hi : exec (p.1 v a sc o) s = .next (coreStore s 4 v a sc.toNat (o.signExtend 64) p.2 false) := by
      simp only [storeForms, List.mem_cons, List.not_mem_nil, or_false] at hp
      rcases hp with rfl | rfl | rfl | rfl <;> rfl
    exact stores_coreStore hg hsc hi rfl rfl rfl hea ht
  · have hi : exec (.stl a v sc w) s = .next (coreStore (releaseCur s sc.toNat) 4 v a sc.toNat 0#64 (if w = 1#1 then 8 else 4) true) := by
      show execStl a v sc w s = _
      rw [execStl, if_neg (Nat.not_le.2 hsc)]
    have hgrp := curGrp_releaseCur sc.toNat hg
    refine stores_coreStore (by rw [releaseCur_cur]; exact hg) hsc hi (releaseCur_cur _ _) (by rw [hgrp]) (by rw [hgrp]) ?_ ?_
    · rw [hgrp, effAddr, hea]
      simp only [BitVec.add_zero]
      rfl
    · rw [translate_releaseCur _ _ hg, releaseCur_cur, hgrp]
      exact ht

end Sys2Proof.Machine


namespace Sys2Proof.Machine
open Sys2Proof Sys2Proof.Claims

/-! What stops an access before it is issued (R171, R174 to R177). -/

/-- An access checks its scope code, and then the permission of its page. -/
def ChecksAccess (i : Instr) (s : State) (sc ea need : Nat) : Prop :=
  (5 ≤ sc → exec i s = .next (illegal s 9)) ∧
  (sc < 5 → ∀ c, translate s s.cur.cl (curGrp s).asid ea need = .fault c → exec i s = .next (takeTrap s ⟨c, 0, 0, ea⟩))

theorem checksAccess_load {i : Instr} {s : State} {len : Nat} {d a : BitVec 5} {sc n : Nat} {off : W64} {signed acq : Bool}
    (hi : exec i s = .next (coreLoad s len d a sc off n signed acq)) : ChecksAccess i s sc (effAddr (xget (curGrp s) a) off n) 1 := by
  refine ⟨fun h => ?_, fun h c ht => ?_⟩
  · rw [hi, coreLoad, if_pos h]
  · rw [hi, coreLoad, if_neg (Nat.not_le.2 h)]
    simp only [ht]
theorem coreStore_fault {s : State} {v a : BitVec 5} {sc n ea c : Nat} {off : W64} (hsc : sc < 5) (hea : effAddr (xget (curGrp s) a) off n = ea)
    (ht : translate s s.cur.cl (curGrp s).asid ea 2 = .fault c) (len : Nat) (rel : Bool) :
    coreStore s len v a sc off n rel = takeTrap s ⟨c, 0, 0, ea⟩ := by
  rw [coreStore, if_neg (Nat.not_le.2 hsc)]
  simp only [hea, ht]
theorem checksAccess_store {i : Instr} {s : State} {len : Nat} {v a : BitVec 5} {sc n : Nat} {off : W64} {rel : Bool}
    (hi : exec i s = .next (coreStore s len v a sc off n rel)) : ChecksAccess i s sc (effAddr (xget (curGrp s) a) off n) 2 := by
  refine ⟨fun h => ?_, fun h c ht => ?_⟩
  · rw [hi, coreStore, if_pos h]
  · rw [hi, coreStore_fault h rfl ht]
theorem checksAccess_amo {i : Instr} {s : State} {d a b : BitVec 5} {sc : Nat} {rel acq wide : Bool} {op : Nat → Nat → Nat → Nat}
    (hi : exec i s = .next (coreAmo s d a b sc rel acq wide op)) :
    ChecksAccess i s sc (effAddr (xget (curGrp s) a) 0#64 (if wide then 8 else 4)) 3 := by
  refine ⟨fun h => ?_, fun h c ht => ?_⟩
  · rw [hi, coreAmo, if_pos h]
  · rw [hi, coreAmo, if_neg (Nat.not_le.2 h)]
    simp only [ht]

/-- Each form runs the one operation of its kind. -/
theorem exec_loadForms {p : (BitVec 5 → BitVec 5 → BitVec 3 → BitVec 13 → Instr) × Nat × Bool} (hp : p ∈ loadForms) (s : State) (d a : BitVec 5)
    (sc : BitVec 3) (o : BitVec 13) : exec (p.1 d a sc o) s = .next (coreLoad s 4 d a sc.toNat (o.signExtend 64) p.2.1 p.2.2 false) := by
  simp only [loadForms, List.mem_cons, List.not_mem_nil, or_false] at hp
  rcases hp with rfl | rfl | rfl | rfl | rfl | rfl | rfl <;> rfl
theorem exec_storeForms {p : (BitVec 5 → BitVec 5 → BitVec 3 → BitVec 13 → Instr) × Nat} (hp : p ∈ storeForms) (s : State) (v a : BitVec 5)
    (sc : BitVec 3) (o : BitVec 13) : exec (p.1 v a sc o) s = .next (coreStore s 4 v a sc.toNat (o.signExtend 64) p.2 false) := by
  simp only [storeForms, List.mem_cons, List.not_mem_nil, or_false] at hp
  rcases hp with rfl | rfl | rfl | rfl <;> rfl
/-- The atomic's operation, as the model computes it, gives the form's new word from words of the atomic's width. -/
def ComputesWord (wide : Bool) (op : Nat → Nat → Nat → Nat) (f : Nat → Nat → Nat → Nat → Nat) : Prop :=
  let w := 8 * (if wide then 8 else 4)
  ∀ old x y, old < 2 ^ w → x < 2 ^ w → y < 2 ^ w → op old x y % 2 ^ w = f w old x y
theorem ComputesWord.of_lt {wide : Bool} {op : Nat → Nat → Nat → Nat} {f : Nat → Nat → Nat → Nat → Nat}
    (h : ∀ w old x y, w = 8 * (if wide then 8 else 4) → old < 2 ^ w → x < 2 ^ w → y < 2 ^ w → op old x y = f w old x y ∧ op old x y < 2 ^ w) :
    ComputesWord wide op f := fun old x y ho hx hy => by
  obtain ⟨h1, h2⟩ := h _ old x y rfl ho hx hy
  rw [← h1, Nat.mod_eq_of_lt h2]
theorem amoLt_eq (wide : Bool) (x y : Nat) : amoLt wide x y = decide (sextNat (8 * (if wide then 8 else 4)) x < sextNat (8 * (if wide then 8 else 4)) y) := by
  cases wide <;> rfl
theorem exec_atomicForms {p : (BitVec 5 → BitVec 5 → BitVec 5 → BitVec 3 → BitVec 2 → BitVec 1 → Instr) × (Nat → Nat → Nat → Nat → Nat)}
    (hp : p ∈ atomicForms) (s : State) (d a b : BitVec 5) (sc : BitVec 3) (r : BitVec 2) (w : BitVec 1) :
    ∃ op, exec (p.1 d a b sc r w) s = .next (coreAmo s d a b sc.toNat (bitAt 1 r) (bitAt 0 r) (w = 1#1) op) ∧ ComputesWord (w = 1#1) op p.2 := by
  simp only [atomicForms, List.mem_cons, List.not_mem_nil, or_false] at hp
  rcases hp with rfl | rfl | rfl | rfl | rfl | rfl | rfl | rfl | rfl | rfl
  · exact ⟨_, rfl, fun _ _ _ _ _ _ => rfl⟩
  · exact ⟨_, rfl, .of_lt fun _ _ _ _ _ _ hx _ => ⟨rfl, Nat.and_lt_two_pow _ hx⟩⟩
  · exact ⟨_, rfl, .of_lt fun _ _ _ _ _ ho hx _ => ⟨rfl, Nat.or_lt_two_pow ho hx⟩⟩
  · exact ⟨_, rfl, .of_lt fun _ _ _ _ _ ho hx _ => ⟨rfl, Nat.xor_lt_two_pow ho hx⟩⟩
  · refine ⟨_, rfl, .of_lt fun n old x y hn ho hx _ => ?_⟩
    show (if amoLt _ x old = true then x else old) = _ ∧ (if amoLt _ x old = true then x else old) < _
    rw [amoLt_eq, ← hn]
    exact ⟨by simp only [decide_eq_true_eq], by split <;> assumption⟩
  · refine ⟨_, rfl, .of_lt fun n old x y hn ho hx _ => ?_⟩
    show (if amoLt _ old x = true then x else old) = _ ∧ (if amoLt _ old x = true then x else old) < _
    rw [amoLt_eq, ← hn]
    exact ⟨by simp only [decide_eq_true_eq], by split <;> assumption⟩
  · exact ⟨_, rfl, .of_lt fun _ _ _ _ _ ho _ _ => ⟨rfl, lt_of_le_of_lt (Nat.min_le_left _ _) ho⟩⟩
  · exact ⟨_, rfl, .of_lt fun _ _ _ _ _ ho hx _ => ⟨rfl, Nat.max_lt.2 ⟨ho, hx⟩⟩⟩
  · exact ⟨_, rfl, .of_lt fun _ _ _ _ _ _ hx _ => ⟨rfl, hx⟩⟩
  · exact ⟨_, rfl, .of_lt fun _ _ _ _ _ ho hx _ => ⟨rfl, by split <;> assumption⟩⟩

theorem checksAccess_forms {s : State} {d a b : BitVec 5} {sc : BitVec 3} {o : BitVec 13} {r : BitVec 2} {w : BitVec 1} {p : Instr × Nat × Nat}
    (hp : p ∈ accessForms s d a b sc o r w) : ChecksAccess p.1 s sc.toNat p.2.1 p.2.2 := by
  simp only [accessForms, List.mem_append, List.mem_map, List.mem_singleton] at hp
  rcases hp with ((⟨q, hq, rfl⟩ | rfl) | ⟨q, hq, rfl⟩) | ⟨q, hq, rfl⟩
  · exact checksAccess_load (exec_loadForms hq s d a sc o)
  · exact checksAccess_load (s := s) (d := d) (a := a) (len := 4) (off := 0#64) (signed := false) (acq := true) rfl
  · exact checksAccess_store (exec_storeForms hq s d a sc o)
  · obtain ⟨op, hop, _⟩ := exec_atomicForms hq s d a b sc r w
    have h := checksAccess_amo hop
    simpa only [effAddr, decide_eq_true_eq] using h

/-- Settles O13: each form stops as `ChecksAccess` says; STL does so in the state its release leaves. -/
theorem coreAccessTraps : Obligations.CoreAccessTraps := by
  intro s d a b sc o r w hg hm
  refine ⟨fun hsc => ⟨fun p hp => entersTrap_illegal hg hm ((checksAccess_forms hp).1 hsc), entersTrap_illegal hg hm ?_⟩, fun hsc cls => ⟨fun p hp ht => ?_, fun ea hea ht => ?_⟩⟩
  · show execStl a b sc w s = _
    rw [execStl, if_pos hsc, coreStore, if_pos hsc]
  · exact ⟨_, (checksAccess_forms hp).2 hsc cls ht, takeTrap_enters hg hm _⟩
  · have hgrp := curGrp_releaseCur sc.toNat hg
    have hg1 : (releaseCur s sc.toNat).cur.grp < 4 := by rw [releaseCur_cur]; exact hg
    have hea1 : effAddr (xget (curGrp (releaseCur s sc.toNat)) a) 0#64 (if w = 1#1 then 8 else 4) = ea := by
      rw [hgrp, hea, effAddr]
      simp only [BitVec.add_zero]
      rfl
    have ht1 : translate (releaseCur s sc.toNat) (releaseCur s sc.toNat).cur.cl (curGrp (releaseCur s sc.toNat)).asid ea 2 = .fault cls := by
      rw [translate_releaseCur _ _ hg, releaseCur_cur, hgrp]
      exact ht
    have hi : exec (.stl a b sc w) s = .next (takeTrap (releaseCur s sc.toNat) ⟨cls, 0, 0, ea⟩) := by
      show execStl a b sc w s = _
      rw [execStl, if_neg (Nat.not_le.2 hsc), coreStore_fault hsc hea1 ht1]
    exact ⟨_, hi, takeTrap_enters hg1 (by rw [hgrp]; exact hm) _⟩

end Sys2Proof.Machine


namespace Sys2Proof.Machine
open Sys2Proof Sys2Proof.Claims

/-! The stores that an access follows (R175, R231, R236). -/

theorem splitStores_mem {sel : PStore → Bool} {ps : List PStore} {q : PStore} :
    (q ∈ (splitStores sel ps).1 → q ∈ ps) ∧ (q ∈ (splitStores sel ps).2 → q ∈ ps ∧ sel q = false) := by
  induction ps with
  | nil => exact ⟨id, fun h => by cases h⟩
  | cons p ps ih =>
    obtain ⟨ih1, ih2⟩ := ih
    simp only [splitStores]
    split
    · exact ⟨fun h => (List.mem_cons.mp h).elim (fun e => e ▸ .head _) (fun h => .tail _ (ih1 h)), fun h => ⟨.tail _ (ih2 h).1, (ih2 h).2⟩⟩
    · next hs =>
      simp only [Bool.or_eq_true, not_or, Bool.not_eq_true] at hs
      refine ⟨fun h => .tail _ (ih1 h), fun h => ?_⟩
      rcases List.mem_cons.mp h with rfl | h
      · exact ⟨.head _, hs.1⟩
      · exact ⟨.tail _ (ih2 h).1, (ih2 h).2⟩
theorem splitStores_none {sel : PStore → Bool} {ps : List PStore} (h : ∀ q ∈ ps, sel q = false) : splitStores sel ps = ([], ps) := by
  induction ps with
  | nil => rfl
  | cons p ps ih => simp [splitStores, ih (fun q hq => h q (.tail _ hq)), h p (.head _)]
/-- A store and one it does not touch can be performed in either order. -/
theorem storesByte_swap {p : PStore} {qs : List PStore} (h : ∀ q ∈ qs, touches p q.pa q.bytes.length = false) (a : Nat) (b : Byte) :
    storesByte qs a (storeByte p.pa p.bytes a b) = storeByte p.pa p.bytes a (storesByte qs a b) := by
  by_cases hp : p.pa ≤ a ∧ a < p.pa + p.bytes.length
  · have hqs : ∀ q ∈ qs, ¬(q.pa ≤ a ∧ a < q.pa + q.bytes.length) := fun q hq hc => by
      have := h q hq
      simp only [touches, decide_eq_false_iff_not] at this
      omega
    rw [storesByte_out hqs, storesByte_out hqs]
  · rw [storeByte_out hp, storeByte_out hp]
/-- The chosen stores first and then the others make of a byte what the stores in their order make of it. -/
theorem splitStores_byte (sel : PStore → Bool) (ps : List PStore) (a : Nat) (b : Byte) :
    storesByte (splitStores sel ps).2 a (storesByte (splitStores sel ps).1 a b) = storesByte ps a b := by
  induction ps generalizing b with
  | nil => rfl
  | cons p ps ih =>
    simp only [splitStores]
    split
    · exact ih _
    · next hs =>
      simp only [Bool.or_eq_true, not_or, Bool.not_eq_true] at hs
      show storesByte (splitStores sel ps).2 a (storeByte p.pa p.bytes a (storesByte (splitStores sel ps).1 a b)) = _
      rw [← storesByte_swap (by simpa using hs.2)]
      exact ih _

section
variable {s : State} (cl : Nat) {g : Nat} (hg : g < 4) (sel : PStore → Bool)

theorem performSome_eq (s : State) (cl g : Nat) (sel : PStore → Bool) : performSome s cl g sel =
    modGrp (performAll s cl (.cluster cl) (splitStores sel (getGrp s cl g).stores).1) cl g (fun k => { k with stores := (splitStores sel (getGrp s cl g).stores).2 }) := rfl
include hg in
theorem performSome_grp : getGrp (performSome s cl g sel) cl g = { getGrp s cl g with stores := (splitStores sel (getGrp s cl g).stores).2 } := by
  rw [performSome_eq, getGrp_modGrp_same _ _ _ hg, sameButCounts_grp (performAll_counts _ _ _ _)]
include hg in
theorem performSome_grp_ne {c k : Nat} (hk : k < 4) (hne : c ≠ cl ∨ k ≠ g) : getGrp (performSome s cl g sel) c k = getGrp s c k := by
  rw [performSome_eq, getGrp_modGrp_ne _ _ hg hk hne, sameButCounts_grp (performAll_counts _ _ _ _)]
theorem performSome_units : (performSome s cl g sel).cur = s.cur ∧ (performSome s cl g sel).spans = s.spans ∧ (performSome s cl g sel).cycles = s.cycles := by
  have h := performAll_counts (splitStores sel (getGrp s cl g).stores).1 s cl (.cluster cl)
  exact ⟨h.1, h.2.1, h.2.2.1⟩
theorem noneHidden_performSome (h : s.memOk) {a : Nat} (hn : NoneHidden s cl a) : NoneHidden (performSome s cl g sel) cl a :=
  noneHidden_performAll _ h cl _ (.inl rfl) hn
include hg in
/-- What the group sees stays. -/
theorem seenByte_performSome (h : s.memOk) {a : Nat} (hn : NoneHidden s cl a) :
    seenByte (performSome s cl g sel) cl (getGrp (performSome s cl g sel) cl g).stores a = seenByte s cl (getGrp s cl g).stores a := by
  have hl : (performSome s cl g sel).latest a = storesByte (splitStores sel (getGrp s cl g).stores).1 a (s.latest a) :=
    latest_performAll _ h cl (.cluster cl) a
  rw [performSome_grp cl hg, seenByte_eq, seenByte_eq, seen_eq_latest (performSome_ok cl g sel h) (noneHidden_performSome cl sel h hn), hl,
    splitStores_byte, seen_eq_latest h hn]
include hg in
/-- Where no store of the group is chosen, none is performed. -/
theorem performSome_none (hsel : ∀ q ∈ (getGrp s cl g).stores, sel q = false) :
    (getGrp (performSome s cl g sel) cl g).stores = (getGrp s cl g).stores ∧ SameView s (performSome s cl g sel) := by
  rw [performSome_grp cl hg, performSome_eq, splitStores_none hsel]
  exact ⟨rfl, rfl, rfl⟩
theorem Bare.performSome (h : s.memOk) {a : Nat} (hb : Bare s a) (hps : ∀ q ∈ (getGrp s cl g).stores, ¬(q.pa ≤ a ∧ a < q.pa + q.bytes.length)) :
    Bare (performSome s cl g sel) a ∧ (Machine.performSome s cl g sel).byte a = s.byte a :=
  hb.performAll _ h cl (.cluster cl) (fun q hq => hps q (splitStores_mem.1 hq))
end

/-- A store that touches the bytes covers one of them. -/
theorem not_covered_of_untouched {q : PStore} {pa n k : Nat} (h : touches q pa n = false) (hk : k < n) :
    ¬(q.pa ≤ pa + k ∧ pa + k < q.pa + q.bytes.length) := by
  simp only [touches, decide_eq_false_iff_not] at h
  omega
section
variable {s : State} (cl : Nat) {g : Nat} (hg : g < 4) (acq : Bool) (pa n : Nat)
include hg

theorem mem_stores_beforeRead {q : PStore} (hq : q ∈ (getGrp (beforeRead s cl g acq pa n) cl g).stores) :
    q ∈ (getGrp s cl g).stores ∧ touches q pa n = false ∧ (acq && q.rel) = false := by
  rw [beforeRead, performSome_grp cl hg] at hq
  obtain ⟨h1, h2⟩ := splitStores_mem.2 hq
  simp only [Bool.or_eq_false_iff] at h2
  exact ⟨h1, h2⟩
/-- After the stores it follows, a read finds the bytes as the group sees them. -/
theorem readBy_beforeRead (h : s.memOk) (hn : ∀ k, k < n → NoneHidden s cl (pa + k)) :
    natOfBytes (readBy (beforeRead s cl g acq pa n) cl pa n) = seenNat s cl (getGrp s cl g).stores pa n := by
  refine congrArg natOfBytes (List.map_congr_left fun k hk => ?_)
  have hk := List.mem_range.mp hk
  rw [← seenByte_performSome cl hg (fun p => touches p pa n || (acq && p.rel)) h (hn k hk), seenByte_eq]
  refine (storesByte_out (fun q hq => ?_) _).symm
  exact not_covered_of_untouched (mem_stores_beforeRead cl hg acq pa n hq).2.1 hk
end

/-! A read (R224). -/

section
variable {s : State} (cl pa n : Nat) (r : Reach)

theorem sameView_performRead : SameView (widen s (inGrans cl pa n) r) (performRead s cl pa n r) := by
  unfold performRead
  simp only
  split <;> exact ⟨rfl, rfl⟩
/-- A read changes nothing for the cluster that reads. -/
theorem seen_performRead (h : s.memOk) (a : Nat) : (performRead s cl pa n r).seen cl a = s.seen cl a := by
  rw [(sameView_performRead cl pa n r).seen]
  by_cases hga : InGranules pa n a
  · refine seen_widen h (upwardChoice_inGrans cl pa n) r (fun x _ hx => ?_)
    rw [inGrans, (nearIn_of_granule hx).2 hga, Bool.and_true]
  · refine (widen_unchosen h r (fun x _ hx => ?_)).2.1 cl
    rw [inGrans, show nearIn pa n x = false by simpa using mt (nearIn_of_granule hx).1 hga, Bool.and_false]
theorem noneHidden_performRead (h : s.memOk) {a c : Nat} (hn : NoneHidden s c a) : NoneHidden (performRead s cl pa n r) c a := by
  rw [(sameView_performRead cl pa n r).noneHidden]
  exact noneHidden_widen h hn
end

/-- The read of a load: it reaches L2, and is performed at the load's scope. -/
def loadRead (s : State) (cl pa n : Nat) (via : Via) : State := performRead (l2Touch s cl pa) cl pa n (instOf s cl (loadScope via))
theorem loadRead_counts (s : State) (cl pa n : Nat) (via : Via) : sameButCounts s (loadRead s cl pa n via) :=
  sameButCounts_trans (l2Touch_counts s cl pa) (sameButMem_counts (performRead_same _ _ _ _ _))
theorem loadRead_ok {s : State} (h : s.memOk) (cl pa n : Nat) (via : Via) : (loadRead s cl pa n via).memOk := performRead_ok cl pa n _ (l2Touch_ok cl pa h)
theorem seen_loadRead {s : State} (h : s.memOk) (cl pa n : Nat) (via : Via) (a : Nat) : (loadRead s cl pa n via).seen cl a = s.seen cl a :=
  (seen_performRead cl pa n _ (l2Touch_ok cl pa h) a).trans ((sameView_l2Touch s cl pa).seen cl a)
theorem noneHidden_loadRead {s : State} (h : s.memOk) (cl pa n : Nat) (via : Via) {a : Nat} (hn : NoneHidden s cl a) : NoneHidden (loadRead s cl pa n via) cl a :=
  noneHidden_performRead cl pa n _ (l2Touch_ok cl pa h) (((sameView_l2Touch s cl pa).noneHidden cl a).2 hn)

/-- The end of a load, but for what its group gets. -/
def loadPerformed (s : State) (cl g pa n : Nat) (via : Via) (acq : Bool) : State :=
  if acq then flushGrp (loadRead (beforeRead s cl g acq pa n) cl pa n via) cl g via.sc else loadRead (beforeRead s cl g acq pa n) cl pa n via
theorem loadArrives_eq (s : State) (cl g : Nat) (d : BitVec 5) (pa n : Nat) (signed : Bool) (len : Nat) (via : Via) (acq : Bool) :
    loadArrives s cl g d pa n signed len via acq = modGrp (loadPerformed s cl g pa n via acq) cl g (fun k =>
      advance len (xset d (loadedValue n signed (natOfBytes (readBy (beforeRead s cl g acq pa n) cl pa n)))
        { k with st := .ready, since := now (beforeRead s cl g acq pa n) cl })) := rfl

section
variable {s : State} (cl : Nat) {g : Nat} (hg : g < 4) (pa n : Nat) (via : Via) (acq : Bool)

include hg in
theorem loadPerformed_grp : getGrp (loadPerformed s cl g pa n via acq) cl g =
    { getGrp s cl g with stores := (getGrp (loadPerformed s cl g pa n via acq) cl g).stores } := by
  have hb : getGrp (beforeRead s cl g acq pa n) cl g = { getGrp s cl g with stores := (getGrp (beforeRead s cl g acq pa n) cl g).stores } := by
    rw [beforeRead, performSome_grp cl hg]
  unfold loadPerformed
  split
  · rw [flushGrp_grp _ _ _ hg, sameButCounts_grp (loadRead_counts _ _ _ _ _), hb]
  · rw [sameButCounts_grp (loadRead_counts _ _ _ _ _), hb]
include hg in
theorem loadPerformed_grp_ne {c k : Nat} (hk : k < 4) (hne : c ≠ cl ∨ k ≠ g) : getGrp (loadPerformed s cl g pa n via acq) c k = getGrp s c k := by
  have hb := performSome_grp_ne (s := s) cl hg (fun p => touches p pa n || (acq && p.rel)) hk hne
  unfold loadPerformed
  split
  · rw [(flushGrp_units _ _ _ hg).2.2.2.2.2 c k hk hne, sameButCounts_grp (loadRead_counts _ _ _ _ _)]; exact hb
  · rw [sameButCounts_grp (loadRead_counts _ _ _ _ _)]; exact hb
include hg in
theorem loadPerformed_units : (loadPerformed s cl g pa n via acq).cur = s.cur ∧ (loadPerformed s cl g pa n via acq).spans = s.spans := by
  have hb := performSome_units (s := s) cl (g := g) (fun p => touches p pa n || (acq && p.rel))
  have hr := loadRead_counts (beforeRead s cl g acq pa n) cl pa n via
  unfold loadPerformed
  split
  · obtain ⟨hcur, hsp, _⟩ := flushGrp_units (loadRead (beforeRead s cl g acq pa n) cl pa n via) cl via.sc hg
    exact ⟨hcur.trans (hr.1.trans hb.1), hsp.trans (hr.2.1.trans hb.2.1)⟩
  · exact ⟨hr.1.trans hb.1, hr.2.1.trans hb.2.1⟩
include hg in
/-- What the group sees of memory stays. -/
theorem seenByte_loadPerformed (h : s.memOk) {a : Nat} (hn : NoneHidden s cl a) :
    seenByte (loadPerformed s cl g pa n via acq) cl (getGrp (loadPerformed s cl g pa n via acq) cl g).stores a = seenByte s cl (getGrp s cl g).stores a := by
  have hb : (beforeRead s cl g acq pa n).memOk := performSome_ok cl g _ h
  have hr : seenByte (loadRead (beforeRead s cl g acq pa n) cl pa n via) cl (getGrp (loadRead (beforeRead s cl g acq pa n) cl pa n via) cl g).stores a =
      seenByte s cl (getGrp s cl g).stores a := by
    rw [sameButCounts_grp (loadRead_counts _ _ _ _ _), seenByte_eq, seen_loadRead hb]
    exact seenByte_performSome cl hg _ h hn
  unfold loadPerformed
  split
  · rw [flushGrp_grp _ _ _ hg, ← hr]
    exact seen_flushGrp (loadRead_ok hb cl pa n via) cl g via.sc (noneHidden_loadRead hb cl pa n via (noneHidden_performSome cl _ h hn))
  · exact hr
end

/-- The data of a load arrive as R165, R175 and R236 say. -/
theorem loadArrives_dataArrive {s : State} (h : s.memOk) (cl : Nat) {g : Nat} (hg : g < 4) (d : BitVec 5) (pa n : Nat) (signed : Bool) (len : Nat)
    (via : Via) (acq : Bool) :
    DataArrive s (loadArrives s cl g d pa n signed len via acq) cl g d pa n signed len via.sc acq := by
  have hbok : (beforeRead s cl g acq pa n).memOk := performSome_ok cl g _ h
  have hgrp := loadPerformed_grp (s := s) cl hg pa n via acq
  have hnow : now (beforeRead s cl g acq pa n) cl = now s cl := by
    rw [now, cycleOf, beforeRead, (performSome_units cl _).2.2]; rfl
  have hu : getGrp (loadArrives s cl g d pa n signed len via acq) cl g = advance len (xset d
      (loadedValue n signed (natOfBytes (readBy (beforeRead s cl g acq pa n) cl pa n)))
      { getGrp (loadPerformed s cl g pa n via acq) cl g with st := .ready, since := now s cl }) := by
    rw [loadArrives_eq, getGrp_modGrp_same _ _ _ hg, hnow]
  have hst : (getGrp (loadArrives s cl g d pa n signed len via acq) cl g).stores = (getGrp (loadPerformed s cl g pa n via acq) cl g).stores := by
    rw [hu, xset_eq]; rfl
  have hview : SameView (loadPerformed s cl g pa n via acq) (loadArrives s cl g d pa n signed len via acq) := sameView_modGrp ..
  refine ⟨fun r => ?_, readBy_beforeRead cl hg acq pa n h, ?_, fun a hn => ?_, fun ha => ?_, fun ha => ?_, ?_, fun c k hk hne => ?_⟩
  · rw [hu, show xget (advance len _) r = xget (xset d _ _) r from rfl, xget_xset, hgrp]
    rfl
  · rw [hst, hu, xset_eq, hgrp]
    rfl
  · rw [hst, seenByte_eq, hview.seen, ← seenByte_eq, seenByte_loadPerformed cl hg pa n via acq h hn]
  · subst ha
    have hp : loadPerformed s cl g pa n via false = loadRead (beforeRead s cl g false pa n) cl pa n via := rfl
    rw [hst, hp, sameButCounts_grp (loadRead_counts _ _ _ _ _)]
    have hseen : ∀ a, (loadArrives s cl g d pa n signed len via false).seen cl a = (beforeRead s cl g false pa n).seen cl a :=
      fun a => (hview.seen cl a).trans (hp ▸ seen_loadRead hbok cl pa n via a)
    refine ⟨fun q hq => ?_, hseen, fun hno => ?_⟩
    · obtain ⟨h1, h2, _⟩ := mem_stores_beforeRead cl hg false pa n hq
      exact ⟨h1, h2⟩
    · obtain ⟨h1, h2⟩ := performSome_none (s := s) cl hg (fun p => touches p pa n || (false && p.rel)) (fun q hq => by simp [hno q hq])
      exact ⟨h1, fun a => (hseen a).trans (h2.seen cl a)⟩
  · subst ha
    have hp : loadPerformed s cl g pa n via true = flushGrp (loadRead (beforeRead s cl g true pa n) cl pa n via) cl g via.sc := rfl
    refine ⟨by rw [hst, hp, flushGrp_grp _ _ _ hg], fun hsc a => ?_⟩
    rw [hview.byte, hview.seen, hp]
    exact (seen_flushGrp_wide (loadRead_ok hbok cl pa n via) cl g via.sc hsc a).symm
  · exact (loadPerformed_units cl hg pa n via acq).2
  · rw [loadArrives_eq, getGrp_modGrp_ne _ _ hg hk hne, loadPerformed_grp_ne cl hg pa n via acq hk hne]

end Sys2Proof.Machine


namespace Sys2Proof.Machine
open Sys2Proof Sys2Proof.Claims

/-! Loads, and the accesses of a group as they are performed (R165, R175, R177, R224, R231). -/

/-- The access after the group's stores is the load it waits for. -/
theorem exec_loadArrives {s : State} {cl g : Nat} {d : BitVec 5} {pa n len : Nat} {signed acq : Bool} {via : Via}
    (hw : (getGrp s cl g).st = .waiting (.load d pa n signed len via acq)) :
    exec (.coreAccessPerformed cl g (getGrp s cl g).stores.length) s = .next (loadArrives s cl g d pa n signed len via acq) := by
  show execCoreAccessPerformed cl g (getGrp s cl g).stores.length s = _
  rw [execCoreAccessPerformed]
  simp [hw]

theorem dataOfLoadsArrive : DataOfLoadsArrive := fun _ cl _ d pa n len signed acq via h hg hw =>
  ⟨_, exec_loadArrives hw, loadArrives_dataArrive h cl hg d pa n signed len via acq⟩

theorem coreLoad_hit {s : State} {d a : BitVec 5} {sc n pa ea : Nat} {off : W64} (hsc : sc < 5) (hea : ea = effAddr (xget (curGrp s) a) off n)
    (ht : translate s s.cur.cl (curGrp s).asid ea 1 = .hit pa) (len : Nat) (signed acq : Bool) :
    coreLoad s len d a sc off n signed acq = modCur s (waitFor (.load d pa n signed len (viaOf s s.cur.cl sc (curGrp s).asid ea) acq)) := by
  subst hea
  rw [coreLoad, if_neg (Nat.not_le.2 hsc)]
  simp only [ht]
theorem viaOf_sc (s : State) (cl sc asid va : Nat) : (viaOf s cl sc asid va).sc = sc := by
  unfold viaOf
  split <;> rfl

theorem loads_coreLoad {i : Instr} {s : State} {d a : BitVec 5} {sc n pa ea : Nat} {off : W64} {signed acq : Bool} (hg : s.cur.grp < 4) (hsc : sc < 5)
    (hi : exec i s = .next (coreLoad s 4 d a sc off n signed acq)) (hea : ea = effAddr (xget (curGrp s) a) off n)
    (ht : translate s s.cur.cl (curGrp s).asid ea 1 = .hit pa) : Loads i s 4 d ea pa n signed sc acq := by
  rw [coreLoad_hit hsc hea ht] at hi
  have hgrp := curGrp_modCur hg (waitFor (.load d pa n signed 4 (viaOf s s.cur.cl sc (curGrp s).asid ea) acq))
  have hst : (getGrp (modCur s (waitFor (.load d pa n signed 4 (viaOf s s.cur.cl sc (curGrp s).asid ea) acq))) s.cur.cl s.cur.grp).stores = (curGrp s).stores := by
    rw [show getGrp _ s.cur.cl s.cur.grp = _ from hgrp]; rfl
  have hw : (getGrp (modCur s (waitFor (.load d pa n signed 4 (viaOf s s.cur.cl sc (curGrp s).asid ea) acq))) s.cur.cl s.cur.grp).st =
      .waiting (.load d pa n signed 4 (viaOf s s.cur.cl sc (curGrp s).asid ea) acq) := by
    rw [show getGrp _ s.cur.cl s.cur.grp = _ from hgrp]; rfl
  have hex := exec_loadArrives hw
  rw [hst] at hex
  refine ⟨_, _, hi, onlyGroup_modCur s _, hgrp, hex, ?_, fun h => ?_⟩
  · rw [loadArrives_eq]
    exact (loadPerformed_units s.cur.cl hg pa n _ acq).1
  · have := loadArrives_dataArrive (s := modCur s (waitFor (.load d pa n signed 4 (viaOf s s.cur.cl sc (curGrp s).asid ea) acq))) h s.cur.cl hg d pa n signed 4
      (viaOf s s.cur.cl sc (curGrp s).asid ea) acq
    rwa [viaOf_sc] at this

/-- Settles O10: a load waits for its data, and `loadArrives_dataArrive` says what they bring. -/
theorem coreLoads : Obligations.CoreLoads := by
  intro s d a sc o w ea pa hg hsc ht
  refine ⟨fun p hp hea => loads_coreLoad hg hsc (exec_loadForms hp s d a sc o) hea ht, fun hea => ?_⟩
  refine loads_coreLoad (off := 0#64) (a := a) hg hsc rfl ?_ ht
  rw [effAddr, BitVec.add_zero]
  exact hea

/-! Stores (R175, R224, R231). -/

/-- A store of a group as it is performed; a group that waits for its stores is Ready when none is left. -/
def storePerformed (s : State) (cl g idx : Nat) (p : PStore) : State :=
  modGrp (modGrp (l2At s cl (instOf s cl p.via.sc) p.via p.pa p.bytes) cl g (fun k => { k with stores := k.stores.eraseIdx idx })) cl g
    (fun k => if k.st = .waiting .release ∧ k.stores = [] then { k with st := .ready, since := now s cl } else k)
theorem sameView_storePerformed (s : State) (cl g idx : Nat) (p : PStore) :
    SameView (l2At s cl (instOf s cl p.via.sc) p.via p.pa p.bytes) (storePerformed s cl g idx p) := by
  unfold storePerformed
  exact (sameView_modGrp _ cl g _).trans (sameView_modGrp _ cl g _)
theorem storePerformed_grp (s : State) (cl : Nat) {g : Nat} (hg : g < 4) (idx : Nat) (p : PStore) :
    (getGrp (storePerformed s cl g idx p) cl g).stores = (getGrp s cl g).stores.eraseIdx idx ∧
      (getGrp (storePerformed s cl g idx p) cl g).x = (getGrp s cl g).x := by
  unfold storePerformed
  rw [getGrp_modGrp_same _ _ _ hg, getGrp_modGrp_same _ _ _ hg, sameButCounts_grp (l2At_counts _ _ _ _ _ _)]
  split <;> exact ⟨rfl, rfl⟩
/-- A store that no older store of its group overlaps is performed, and leaves the group's list. -/
theorem exec_storePerformed {s : State} {cl g idx : Nat} {p : PStore} (hp : (getGrp s cl g).stores[idx]? = some p)
    (hfree : ∀ q ∈ (getGrp s cl g).stores.take idx, q.pa + q.bytes.length ≤ p.pa ∨ p.pa + p.bytes.length ≤ q.pa) :
    exec (.coreAccessPerformed cl g idx) s = .next (storePerformed s cl g idx p) := by
  have hany : ((getGrp s cl g).stores.take idx).any (fun q => touches q p.pa p.bytes.length) = false := by
    simp only [List.any_eq_false, touches, decide_eq_true_eq]
    intro q hq
    have := hfree q hq
    omega
  show execCoreAccessPerformed cl g idx s = _
  rw [execCoreAccessPerformed]
  simp only [hp, hany, Bool.false_eq_true, if_false]
  rfl

theorem storesArePerformed : StoresArePerformed := by
  intro s cl g idx p h hg hp hfree
  have hv := sameView_storePerformed s cl g idx p
  have hsees := instOf_sees s cl p.via.sc
  have hbytes : ∀ k, k < p.bytes.length → (storePerformed s cl g idx p).seen cl (p.pa + k) = p.bytes.getD k 0#8 := fun k hk => by
    rw [hv.seen, seen_l2At h cl _ _ _ _ hsees hk]
  refine ⟨_, exec_storePerformed hp hfree, hbytes, fun a ha hout => ?_, fun hsc k hk => ?_, storePerformed_grp s cl hg idx p⟩
  · rw [hv.seen]
    by_cases hn : NoneHidden s cl a
    · rw [seen_l2At_noneHidden h cl _ _ _ _ hsees hn, storeByte_out (by omega)]
    · refine (l2At_outside h cl _ _ _ _ (fun hga => ?_)).2 cl
      rcases hout with hn' | hlt | hgt
      · exact hn hn'
      · exact absurd hga.1 (by omega)
      · exact absurd hga.2 (by omega)
  · have hb := bare_l2At h cl _ p.via p.pa p.bytes (instOf_wide s cl hsc) (inGranules_of_covered (a := p.pa + k) ⟨by omega, by omega⟩)
    rw [← hbytes k hk, hv.seen, hb.seen, hv.byte]

/-- The newest of a group's stores, performed after the others, is what the cluster sees of its bytes. -/
theorem seen_performAll_last {s : State} (h : s.memOk) (ps : List PStore) (p : PStore) (cl : Nat) (r : Reach) {k : Nat} (hk : k < p.bytes.length) :
    (performAll s cl r (ps ++ [p])).seen cl (p.pa + k) = p.bytes.getD k 0#8 := by
  induction ps generalizing s with
  | nil => exact seen_l2At h cl _ p.via p.pa p.bytes (Reach.join_sees_left (instOf_sees s cl p.via.sc)) hk
  | cons q ps ih => exact ih (l2At_ok _ _ _ _ _ h)
/-- A chosen newest store is the last of those performed. -/
theorem splitStores_last {sel : PStore → Bool} (ps : List PStore) {p : PStore} (hp : sel p = true) :
    ∃ qs, (splitStores sel (ps ++ [p])).1 = qs ++ [p] := by
  induction ps with
  | nil => exact ⟨[], by simp [splitStores, hp]⟩
  | cons q ps ih =>
    obtain ⟨qs, hqs⟩ := ih
    simp only [List.cons_append, splitStores]
    split
    · exact ⟨q :: qs, by rw [hqs]; rfl⟩
    · exact ⟨qs, hqs⟩

theorem readBy_of_seen {s : State} {cl pa : Nat} {bs : List Byte} (h : ∀ k, k < bs.length → s.seen cl (pa + k) = bs.getD k 0#8) :
    readBy s cl pa bs.length = bs := by
  refine List.ext_getElem (by simp [readBy]) (fun k _ hk => ?_)
  simp only [readBy, List.getElem_map, List.getElem_range]
  rw [h k hk, List.getD_eq_getElem _ _ hk]

/-- A read of the bytes of a group's newest store finds them. -/
theorem readBy_newest {s : State} (h : s.memOk) {cl g : Nat} {ps : List PStore} {p : PStore} (hst : (getGrp s cl g).stores = ps ++ [p])
    (hp : p.bytes ≠ []) (acq : Bool) : readBy (beforeRead s cl g acq p.pa p.bytes.length) cl p.pa p.bytes.length = p.bytes := by
  have hpos := List.length_pos_iff.mpr hp
  obtain ⟨qs, hqs⟩ := splitStores_last (sel := fun q => touches q p.pa p.bytes.length || (acq && q.rel)) ps (p := p)
    (by simp [touches]; omega)
  refine readBy_of_seen (fun k hk => ?_)
  rw [beforeRead, performSome_eq, (sameView_modGrp ..).seen, hst, hqs]
  exact seen_performAll_last h qs p cl _ hk

theorem tcache_of_onlyGroup {s t : State} (h : OnlyGroup s t) : (getCl t s.cur.cl).tcache = (getCl s s.cur.cl).tcache := by
  obtain ⟨_, _, g, hg⟩ := h
  rw [hg]
theorem memOk_of_onlyGroup {s t : State} (h : OnlyGroup s t) (hs : s.memOk) : t.memOk := by
  rw [h.1]
  exact hs

theorem loadSeesOwnStore : LoadSeesOwnStore := by
  intro s v a d b sc pa h hg hsc hd hab ht2 ht1
  have heff : ∀ x : W64, x.toNat % 2 ^ 52 / 8 * 8 = effAddr x ((0#13 : BitVec 13).signExtend 64) 8 := fun x => by
    rw [effAddr, show (0#13 : BitVec 13).signExtend 64 = 0#64 from rfl, BitVec.add_zero]
  obtain ⟨t, hstore, honly, htgrp⟩ : Stores (.st64 v a sc 0#13) s s 4 _ pa (bytesOf 8 (xget (curGrp s) v).toNat) sc.toNat false :=
    stores_coreStore hg hsc (exec_storeForms (p := (.st64, 8)) (by simp [storeForms]) s v a sc 0#13) rfl rfl rfl (heff _) ht2
  have htcur := onlyGroup_cur honly
  have hxb : xget (curGrp t) b = xget (curGrp s) a := by rw [htgrp]; exact hab
  obtain ⟨u, r, hi, honly', hugrp, hr, hrcur, hdata⟩ :
      Loads (.ld64 d b sc 0#13) t 4 d ((xget (curGrp s) a).toNat % 2 ^ 52 / 8 * 8) pa 8 false sc.toNat false := by
    refine loads_coreLoad (htcur ▸ hg) hsc (exec_loadForms (p := (.ld64, 8, false)) (by simp [loadForms]) t d b sc 0#13) (hxb ▸ heff _) ?_
    rw [htcur, translate, tcache_of_onlyGroup honly, htgrp]
    exact ht1
  have hucur : u.cur = s.cur := (onlyGroup_cur honly').trans htcur
  obtain ⟨via, hust⟩ : ∃ via, (getGrp u s.cur.cl s.cur.grp).stores = (curGrp s).stores ++ [⟨pa, bytesOf 8 (xget (curGrp s) v).toNat, via, false⟩] :=
    ⟨_, by rw [← hucur, show getGrp u u.cur.cl u.cur.grp = _ from hugrp, htgrp]⟩
  have hread := readBy_newest (memOk_of_onlyGroup honly' (memOk_of_onlyGroup honly h)) hust
    (List.ne_nil_of_length_pos (by rw [bytesOf_length]; decide)) false
  rw [bytesOf_length] at hread
  refine ⟨t, u, r, hstore, hi, ?_, ?_⟩
  · rw [htcur, htgrp] at hr
    rw [← hr, List.length_append]
    rfl
  · have hv := (hdata (memOk_of_onlyGroup honly h)).1 d
    rw [if_pos ⟨rfl, hd⟩, htcur, hread, loadedValue, natOfBytes_bytesOf] at hv
    rw [curGrp, hrcur, htcur, hv, if_neg Bool.false_ne_true, Nat.mod_eq_of_lt (xget (curGrp s) v).isLt, BitVec.ofNat_toNat, BitVec.setWidth_eq]

/-- Settles O36. -/
theorem storesReachMemory : Obligations.StoresReachMemory := ⟨storesArePerformed, dataOfLoadsArrive, loadSeesOwnStore⟩

end Sys2Proof.Machine


namespace Sys2Proof.Machine
open Sys2Proof Sys2Proof.Claims

/-! Atomics (R176, R231, R232, R236). -/

theorem memGetN_eq_map (m : List Host.Cell) (n a : Nat) : memGetN m n a = (List.range n).map (fun k => memGet m (a + k)) := by
  induction n generalizing a with
  | zero => rfl
  | succ n ih =>
    rw [List.range_succ_eq_map, List.map_cons, List.map_map, memGetN, ih]
    exact congrArg _ (List.map_congr_left fun k _ => by simp only [Function.comp_apply]; congr 1; omega)
theorem readPA_eq_map (s : State) (pa n : Nat) : readPA s pa n = (List.range n).map (fun k => s.byte (pa + k)) := memGetN_eq_map ..
theorem readPA_of_byte {s : State} {pa : Nat} {bs : List Byte} (h : ∀ k, k < bs.length → s.byte (pa + k) = bs.getD k 0#8) :
    readPA s pa bs.length = bs := by
  rw [readPA_eq_map]
  refine List.ext_getElem (by simp) (fun k _ hk => ?_)
  simp only [List.getElem_map, List.getElem_range]
  rw [h k hk, List.getD_eq_getElem _ _ hk]
theorem natOfBytes_lt (bs : List Byte) : natOfBytes bs < 2 ^ (8 * bs.length) := by
  induction bs with
  | nil => decide
  | cons b bs ih =>
    have hb := b.isLt
    rw [natOfBytes, List.length_cons, Nat.mul_add, Nat.pow_add]
    omega
theorem readPA_length (s : State) (pa n : Nat) : (readPA s pa n).length = n := by simp [readPA_eq_map]
/-- Where no narrow store covers the bytes, the agents of every cluster see memory's. -/
theorem readBy_of_bare {s : State} {pa n : Nat} (h : ∀ k, k < n → Bare s (pa + k)) (c : Nat) : readBy s c pa n = readPA s pa n := by
  rw [readPA_eq_map]
  exact List.map_congr_left fun k hk => (h k (List.mem_range.mp hk)).seen c

section
variable {s : State} (hg : s.cur.grp < 4) (sc : Nat) (rel acq : Bool) (pa n : Nat)

theorem beforeAmo_ok (h : s.memOk) : (beforeAmo s sc rel acq pa n).memOk := by
  unfold beforeAmo
  split
  · exact releaseCur_ok sc h
  · exact performSome_ok _ _ _ h
theorem beforeAmo_cur : (beforeAmo s sc rel acq pa n).cur = s.cur := by
  unfold beforeAmo
  split
  · exact releaseCur_cur s sc
  · exact (performSome_units _ _).1
include hg in
theorem beforeAmo_grp : curGrp (beforeAmo s sc rel acq pa n) = { curGrp s with stores := (curGrp (beforeAmo s sc rel acq pa n)).stores } := by
  rw [curGrp, beforeAmo_cur]
  unfold beforeAmo
  split
  · rw [releaseCur, flushGrp_grp _ _ _ hg]; rfl
  · rw [beforeRead, performSome_grp _ hg]; rfl
theorem noneHidden_beforeAmo (h : s.memOk) {a : Nat} (hn : NoneHidden s s.cur.cl a) : NoneHidden (beforeAmo s sc rel acq pa n) s.cur.cl a := by
  unfold beforeAmo
  split
  · exact noneHidden_flushGrp h _ _ sc hn (.inl rfl)
  · exact noneHidden_performSome _ _ h hn
include hg in
/-- What the group sees stays. -/
theorem seenByte_beforeAmo (h : s.memOk) {a : Nat} (hn : NoneHidden s s.cur.cl a) :
    seenByte (beforeAmo s sc rel acq pa n) s.cur.cl (curGrp (beforeAmo s sc rel acq pa n)).stores a = seenByte s s.cur.cl (curGrp s).stores a := by
  rw [curGrp, beforeAmo_cur]
  unfold beforeAmo
  split
  · rw [releaseCur, flushGrp_grp _ _ _ hg]
    exact seen_flushGrp h _ _ sc hn
  · exact seenByte_performSome _ hg _ h hn
include hg in
theorem mem_stores_beforeAmo {q : PStore} (hq : q ∈ (curGrp (beforeAmo s sc rel acq pa n)).stores) :
    q ∈ (curGrp s).stores ∧ touches q pa n = false ∧ rel = false := by
  rw [curGrp, beforeAmo_cur] at hq
  unfold beforeAmo at hq
  split at hq
  · rw [releaseCur, flushGrp_grp _ _ _ hg] at hq
    cases hq
  · next hr =>
    obtain ⟨h1, h2, _⟩ := mem_stores_beforeRead _ hg acq pa n hq
    exact ⟨h1, h2, by simpa using hr⟩
/-- A release order at package scope or wider leaves its cluster no narrow store. -/
theorem mem_near_beforeAmo (h : s.memOk) (hsc : 3 ≤ sc) {x : Near} (hx : x ∈ (beforeAmo s sc true acq pa n).near) : x.reach.sees s.cur.cl = false :=
  mem_near_performSeen (storesPerformed_ok h _ _ sc) s.cur.cl _ (instOf_wide s _ hsc) hx

/-- The state in which an atomic reads its word: every store its granule holds is in memory. -/
def amoOwned (s : State) (sc : Nat) (rel acq : Bool) (pa n : Nat) : State :=
  l2Own (beforeAmo s sc rel acq pa n) s.cur.cl pa n ((instOf s s.cur.cl sc).join .package)
/-- The state in which its new bytes stand. -/
def amoWritten (s : State) (sc : Nat) (rel acq : Bool) (pa n : Nat) (bs : List Byte) : State :=
  l2At (amoOwned s sc rel acq pa n) s.cur.cl ((instOf s s.cur.cl sc).join .package) .done pa bs
/-- The state in which xd is written: an acquire has been performed too. -/
def amoPerformed (s : State) (sc : Nat) (rel acq : Bool) (pa n : Nat) (bs : List Byte) : State :=
  if acq then acquireCur (amoWritten s sc rel acq pa n bs) sc else amoWritten s sc rel acq pa n bs

theorem amoReach_wide : ((instOf s s.cur.cl sc).join .package).wide = true := Reach.join_wide_right rfl
theorem amoReach_sees : ((instOf s s.cur.cl sc).join .package).sees s.cur.cl = true := Reach.wide_sees _ (amoReach_wide sc)

theorem amoOwned_ok (h : s.memOk) : (amoOwned s sc rel acq pa n).memOk := widen_ok _ _ (l2Touch_ok _ pa (beforeAmo_ok sc rel acq pa n h))
theorem amoOwned_counts : sameButCounts (beforeAmo s sc rel acq pa n) (amoOwned s sc rel acq pa n) :=
  sameButCounts_trans (l2Touch_counts _ _ _) (sameButMem_counts (widen_same _ _ _))
theorem latest_amoOwned (h : s.memOk) (a : Nat) : (amoOwned s sc rel acq pa n).latest a = (beforeAmo s sc rel acq pa n).latest a :=
  (latest_widenAll (l2Touch_ok _ pa (beforeAmo_ok sc rel acq pa n h)) pa n _ a).trans ((sameView_l2Touch _ _ _).latest a)
theorem noneHidden_amoOwned (h : s.memOk) {a : Nat} (hn : NoneHidden s s.cur.cl a) : NoneHidden (amoOwned s sc rel acq pa n) s.cur.cl a :=
  noneHidden_widen (l2Touch_ok _ pa (beforeAmo_ok sc rel acq pa n h)) (((sameView_l2Touch _ _ _).noneHidden _ a).2 (noneHidden_beforeAmo sc rel acq pa n h hn))
theorem byte_amoOwned (h : s.memOk) {k : Nat} (hk : k < n) : (amoOwned s sc rel acq pa n).byte (pa + k) = (beforeAmo s sc rel acq pa n).latest (pa + k) := by
  rw [← latest_amoOwned sc rel acq pa n h]
  exact (bare_widenAll (l2Touch_ok _ pa (beforeAmo_ok sc rel acq pa n h)) (amoReach_wide sc) (inGranules_of_covered ⟨by omega, by omega⟩)).latest.symm
/-- The old word, as the statement reads it. -/
theorem readPA_amoOwned (h : s.memOk) : readPA (amoOwned s sc rel acq pa n) pa n = readPA (widenAll (beforeAmo s sc rel acq pa n) pa n .package) pa n := by
  rw [readPA_eq_map, readPA_eq_map]
  refine List.map_congr_left fun k hk => ?_
  have hk := List.mem_range.mp hk
  rw [byte_amoOwned sc rel acq pa n h hk, ← latest_widenAll (beforeAmo_ok sc rel acq pa n h) pa n .package]
  exact (bare_widenAll (beforeAmo_ok sc rel acq pa n h) rfl (inGranules_of_covered ⟨by omega, by omega⟩)).latest
include hg in
/-- It is the word as the group sees it, where nothing there is hidden from the cluster. -/
theorem natOfBytes_amoOwned (h : s.memOk) (hn : ∀ k, k < n → NoneHidden s s.cur.cl (pa + k)) :
    natOfBytes (readPA (amoOwned s sc rel acq pa n) pa n) = seenNat s s.cur.cl (curGrp s).stores pa n := by
  rw [readPA_eq_map]
  refine congrArg natOfBytes (List.map_congr_left fun k hk => ?_)
  have hk := List.mem_range.mp hk
  rw [byte_amoOwned sc rel acq pa n h hk, ← seenByte_beforeAmo hg sc rel acq pa n h (hn k hk), seenByte_eq,
    storesByte_out (fun q hq => not_covered_of_untouched (mem_stores_beforeAmo hg sc rel acq pa n hq).2.1 hk),
    seen_eq_latest (beforeAmo_ok sc rel acq pa n h) (noneHidden_beforeAmo sc rel acq pa n h (hn k hk))]

section
variable (bs : List Byte)

theorem amoWritten_ok (h : s.memOk) : (amoWritten s sc rel acq pa n bs).memOk := l2At_ok _ _ _ _ _ (amoOwned_ok sc rel acq pa n h)
theorem amoWritten_counts : sameButCounts (beforeAmo s sc rel acq pa n) (amoWritten s sc rel acq pa n bs) :=
  sameButCounts_trans (amoOwned_counts sc rel acq pa n) (l2At_counts _ _ _ _ _ _)
theorem amoWritten_cur : (amoWritten s sc rel acq pa n bs).cur = s.cur := (amoWritten_counts sc rel acq pa n bs).1.trans (beforeAmo_cur sc rel acq pa n)
theorem amoWritten_grp : curGrp (amoWritten s sc rel acq pa n bs) = curGrp (beforeAmo s sc rel acq pa n) := by
  rw [curGrp, amoWritten_cur, sameButCounts_grp (amoWritten_counts sc rel acq pa n bs), curGrp, beforeAmo_cur]
theorem noneHidden_amoWritten (h : s.memOk) {a : Nat} (hn : NoneHidden s s.cur.cl a) : NoneHidden (amoWritten s sc rel acq pa n bs) s.cur.cl a :=
  noneHidden_l2At (amoOwned_ok sc rel acq pa n h) _ _ _ _ _ (amoReach_sees sc) (.inl (noneHidden_amoOwned sc rel acq pa n h hn))
/-- Outside the word the cluster sees what it saw. -/
theorem seen_amoWritten (h : s.memOk) {a : Nat} (ha : a < pa ∨ pa + bs.length ≤ a) (hn : NoneHidden s s.cur.cl a) :
    (amoWritten s sc rel acq pa n bs).seen s.cur.cl a = (beforeAmo s sc rel acq pa n).seen s.cur.cl a := by
  rw [seen_eq_latest (amoWritten_ok sc rel acq pa n bs h) (noneHidden_amoWritten sc rel acq pa n bs h hn), amoWritten,
    latest_l2At (amoOwned_ok sc rel acq pa n h), storeByte_out (by omega), latest_amoOwned sc rel acq pa n h,
    seen_eq_latest (beforeAmo_ok sc rel acq pa n h) (noneHidden_beforeAmo sc rel acq pa n h hn)]
include hg in
theorem seenByte_amoWritten (h : s.memOk) {a : Nat} (ha : a < pa ∨ pa + bs.length ≤ a) (hn : NoneHidden s s.cur.cl a) :
    seenByte (amoWritten s sc rel acq pa n bs) s.cur.cl (curGrp (amoWritten s sc rel acq pa n bs)).stores a = seenByte s s.cur.cl (curGrp s).stores a := by
  rw [amoWritten_grp, ← seenByte_beforeAmo hg sc rel acq pa n h hn, seenByte_eq, seen_amoWritten sc rel acq pa n bs h ha hn, seenByte_eq]
theorem bare_amoWritten (h : s.memOk) {k : Nat} (hk : k < bs.length) : Bare (amoWritten s sc rel acq pa n bs) (pa + k) :=
  bare_l2At (amoOwned_ok sc rel acq pa n h) _ _ _ _ _ (amoReach_wide sc) (inGranules_of_covered ⟨by omega, by omega⟩)
theorem byte_amoWritten (h : s.memOk) {k : Nat} (hk : k < bs.length) : (amoWritten s sc rel acq pa n bs).byte (pa + k) = bs.getD k 0#8 := by
  rw [← (bare_amoWritten sc rel acq pa n bs h hk).latest, amoWritten, latest_l2At (amoOwned_ok sc rel acq pa n h), storeByte_in hk]
theorem mem_near_amoWritten (h : s.memOk) {x : Near} (hx : x ∈ (amoWritten s sc rel acq pa n bs).near) : x ∈ (beforeAmo s sc rel acq pa n).near := by
  have h1 := mem_near_l2At (amoOwned_ok sc rel acq pa n h) _ _ _ _ _ (amoReach_wide sc) hx
  have h2 := (mem_widen_wide (l2Touch_ok _ pa (beforeAmo_ok sc rel acq pa n h)) (amoReach_wide sc) h1).1
  rwa [(sameView_l2Touch _ _ _).2] at h2

theorem amoPerformed_cur : (amoPerformed s sc rel acq pa n bs).cur = s.cur := by
  unfold amoPerformed
  split
  · exact (releaseCur_cur _ sc).trans (amoWritten_cur ..)
  · exact amoWritten_cur ..
include hg in
theorem amoPerformed_grp : curGrp (amoPerformed s sc rel acq pa n bs) =
    { curGrp s with stores := if acq then [] else (curGrp (beforeAmo s sc rel acq pa n)).stores } := by
  have hb := beforeAmo_grp hg sc rel acq pa n
  unfold amoPerformed
  cases acq with
  | true =>
    rw [if_pos rfl, if_pos rfl]
    refine (curGrp_releaseCur sc (by rw [amoWritten_cur]; exact hg)).trans ?_
    rw [amoWritten_grp, hb]
  | false =>
    rw [if_neg Bool.false_ne_true, if_neg Bool.false_ne_true, amoWritten_grp, ← hb]
include hg in
theorem word_amoPerformed (h : s.memOk) (hbs : bs.length = n) {k : Nat} (hk : k < bs.length) :
    Bare (amoPerformed s sc rel acq pa n bs) (pa + k) ∧ (amoPerformed s sc rel acq pa n bs).byte (pa + k) = bs.getD k 0#8 := by
  have hbare := bare_amoWritten sc rel acq pa n bs h hk
  have hbyte := byte_amoWritten sc rel acq pa n bs h hk
  unfold amoPerformed
  split
  · obtain ⟨h1, h2⟩ := hbare.flushGrp (amoWritten_ok sc rel acq pa n bs h) (amoWritten s sc rel acq pa n bs).cur.cl (amoWritten s sc rel acq pa n bs).cur.grp sc
      (fun q hq => by
        rw [show getGrp _ _ _ = curGrp (amoWritten s sc rel acq pa n bs) from rfl, amoWritten_grp] at hq
        exact not_covered_of_untouched (mem_stores_beforeAmo hg sc rel acq pa n hq).2.1 (hbs ▸ hk))
    exact ⟨h1, h2.trans hbyte⟩
  · exact ⟨hbare, hbyte⟩
include hg in
theorem seenByte_amoPerformed (h : s.memOk) {a : Nat} (ha : a < pa ∨ pa + bs.length ≤ a) (hn : NoneHidden s s.cur.cl a) :
    seenByte (amoPerformed s sc rel acq pa n bs) s.cur.cl (curGrp (amoPerformed s sc rel acq pa n bs)).stores a = seenByte s s.cur.cl (curGrp s).stores a := by
  have hw := seenByte_amoWritten hg sc rel acq pa n bs h ha hn
  unfold amoPerformed
  split
  · rw [show curGrp (acquireCur _ _) = _ from curGrp_releaseCur sc (by rw [amoWritten_cur]; exact hg), ← hw]
    have := seen_flushGrp (amoWritten_ok sc rel acq pa n bs h) s.cur.cl s.cur.grp sc (noneHidden_amoWritten sc rel acq pa n bs h hn)
    rw [acquireCur, amoWritten_cur]
    refine this.trans ?_
    rw [curGrp, amoWritten_cur]
  · exact hw
theorem seen_amoPerformed_wide (h : s.memOk) (ho : rel = true ∨ acq = true) (hsc : 3 ≤ sc) (a : Nat) :
    (amoPerformed s sc rel acq pa n bs).byte a = (amoPerformed s sc rel acq pa n bs).seen s.cur.cl a := by
  unfold amoPerformed
  cases acq with
  | true =>
    rw [if_pos rfl, acquireCur, amoWritten_cur]
    exact (seen_flushGrp_wide (amoWritten_ok sc rel true pa n bs h) _ _ sc hsc a).symm
  | false =>
    obtain rfl : rel = true := ho.resolve_right Bool.false_ne_true
    rw [if_neg Bool.false_ne_true]
    exact (seen_of_none_seen (fun x hx => mem_near_beforeAmo sc false pa n h hsc (mem_near_amoWritten sc true false pa n bs h hx)) a).symm
end
end

theorem coreAmo_hit {s : State} {d a b : BitVec 5} {sc pa : Nat} {rel acq wide : Bool} {op : Nat → Nat → Nat → Nat} (hsc : sc < 5)
    (ht : translate s s.cur.cl (curGrp s).asid (effAddr (xget (curGrp s) a) 0#64 (if wide then 8 else 4)) 3 = .hit pa) {n old new : Nat}
    (hn : n = if wide then 8 else 4) (ho : old = natOfBytes (readPA (amoOwned s sc rel acq pa n) pa n))
    (hnew : new = op old ((xget (curGrp s) b).toNat % 2 ^ (8 * n)) ((xget (curGrp s) d).toNat % 2 ^ (8 * n)) % 2 ^ (8 * n)) :
    coreAmo s d a b sc rel acq wide op = finish (amoPerformed s sc rel acq pa n (bytesOf n new)) 4 d
      (if wide then BitVec.ofNat 64 old else BitVec.ofInt 64 (sextNat 32 old)) := by
  subst hn ho hnew
  rw [coreAmo, if_neg (Nat.not_le.2 hsc)]
  simp only [ht]
  rfl

/-- Where no store of the group touches the word and the atomic has no order, nothing is performed before it. -/
theorem beforeAmo_untouched {s : State} (hg : s.cur.grp < 4) (sc : Nat) {pa n : Nat} (h : ∀ q ∈ (curGrp s).stores, touches q pa n = false) :
    (curGrp (beforeAmo s sc false false pa n)).stores = (curGrp s).stores ∧ SameView s (beforeAmo s sc false false pa n) := by
  rw [curGrp, beforeAmo_cur]
  exact performSome_none (s := s) s.cur.cl hg (fun q => touches q pa n || (false && q.rel)) (fun q hq => by simp [h q hq])

/-- Settles O12: the word is read in `amoOwned` and written in `amoWritten`, where no narrow store covers it. -/
theorem coreAtomics : Obligations.CoreAtomics := by
  intro s d a b sc r w pa n old h hg hsc hn ht ho
  rw [← readPA_amoOwned sc.toNat _ _ pa n h] at ho
  have hea : (xget (curGrp s) a).toNat % 2 ^ 52 / n * n = effAddr (xget (curGrp s) a) 0#64 (if decide (w = 1#1) then 8 else 4) := by
    rw [effAddr, BitVec.add_zero, hn]
    simp only [decide_eq_true_eq]
  refine ⟨fun hnone => ho ▸ natOfBytes_amoOwned hg sc.toNat _ _ pa n h hnone, fun p hp => ?_⟩
  obtain ⟨op, hexec, hop⟩ := exec_atomicForms hp s d a b sc r w
  have hn' : n = if decide (w = 1#1) then 8 else 4 := by simpa only [decide_eq_true_eq] using hn
  rw [coreAmo_hit hsc (hea ▸ ht) hn' ho rfl] at hexec
  set new := op old ((xget (curGrp s) b).toNat % 2 ^ (8 * n)) ((xget (curGrp s) d).toNat % 2 ^ (8 * n)) % 2 ^ (8 * n) with hnew
  have hlen : (bytesOf n new).length = n := bytesOf_length _ _
  set u := amoPerformed s sc.toNat (bitAt 1 r) (bitAt 0 r) pa n (bytesOf n new) with hu
  have hucur : u.cur = s.cur := amoPerformed_cur ..
  have hgrp := amoPerformed_grp hg sc.toNat (bitAt 1 r) (bitAt 0 r) pa n (bytesOf n new)
  rw [← hu] at hgrp
  have hgu : u.cur.grp < 4 := hucur ▸ hg
  have hword := fun k hk => word_amoPerformed hg sc.toNat (bitAt 1 r) (bitAt 0 r) pa n (bytesOf n new) h hlen (k := k) hk
  have hread : readPA (finish u 4 d (if decide (w = 1#1) then BitVec.ofNat 64 old else BitVec.ofInt 64 (sextNat 32 old))) pa n = bytesOf n new := by
    have := readPA_of_byte (s := u) (fun k hk => (hword k hk).2)
    rw [hlen] at this
    exact this
  have hnewlt : new < 2 ^ (8 * n) := Nat.mod_lt _ (Nat.two_pow_pos _)
  have hold : old < 2 ^ (8 * n) := by
    have := natOfBytes_lt (readPA (amoOwned s sc.toNat (bitAt 1 r) (bitAt 0 r) pa n) pa n)
    rwa [readPA_length, ← ho] at this
  have hgt : ∀ v, (curGrp (finish u 4 d v)).stores = (curGrp u).stores := fun v => by rw [curGrp_finish hgu, xset_eq]; rfl
  refine ⟨_, hexec, fun q => ?_, ?_, ?_, fun k hk hnone => ?_, ?_, fun horder => ⟨?_, fun hsc3 k => ?_⟩, fun q hq => ?_, fun hrel hacq hno => ?_⟩
  · rw [xget_finish hgu, xget_congr (h := curGrp s) (by rw [hgrp])]
    simp only [decide_eq_true_eq]
  · rw [hread, natOfBytes_bytesOf, Nat.mod_eq_of_lt hnewlt, hnew, hn']
    exact hop old _ _ (hn' ▸ hold) (Nat.mod_lt _ (Nat.two_pow_pos _)) (Nat.mod_lt _ (Nat.two_pow_pos _))
  · exact readBy_of_bare (fun k hk => (hword k (hlen.symm ▸ hk)).1) _
  · rw [hgt]
    exact seenByte_amoPerformed hg sc.toNat _ _ pa n (bytesOf n new) h (by rw [hlen]; exact hk) hnone
  · rw [pc_finish hgu, hgrp]
  · rw [hgt, hgrp]
    cases ha : bitAt 0 r with
    | true => rfl
    | false =>
      refine List.eq_nil_iff_forall_not_mem.mpr (fun q hq => ?_)
      have := (mem_stores_beforeAmo hg sc.toNat _ _ pa n hq).2.2
      rw [ha, this] at horder
      simp at horder
  · exact seen_amoPerformed_wide sc.toNat _ _ pa n (bytesOf n new) h horder hsc3 k
  · rw [hgt, hgrp] at hq
    split at hq
    · cases hq
    · obtain ⟨h1, h2, _⟩ := mem_stores_beforeAmo hg sc.toNat _ _ pa n hq
      refine ⟨h1, ?_⟩
      simp only [touches, decide_eq_false_iff_not] at h2
      omega
  · rw [hrel, hacq] at hgrp hu
    obtain ⟨hst, hview⟩ := beforeAmo_untouched hg sc.toNat hno
    refine ⟨by rw [hgt, hgrp]; exact hst, fun k hk hnone => ?_⟩
    have hw : u = amoWritten s sc.toNat false false pa n (bytesOf n new) := hu.trans (if_neg Bool.false_ne_true)
    refine ((sameView_modGrp u _ _ _).seen _ k).trans ?_
    rw [hw, seen_amoWritten sc.toNat false false pa n (bytesOf n new) h (by rw [hlen]; exact hk) hnone, hview.seen]

end Sys2Proof.Machine


namespace Sys2Proof.Machine
open Sys2Proof Sys2Proof.Claims

/-! PIN between the completion of a rewiring and the writes of the layout table (R189, R250). -/

/-- A span's load, from the number that the cluster holds. -/
theorem spanAt_of_span {s : State} {cl sp : Nat} {x : Span} (hc : (getCl s cl).span = some sp) (hx : getSpan s sp = some x) :
    spanAt s cl = some (sp, x) := by
  simp [spanAt, hc, hx]
theorem curLoad_of_spanAt {s : State} {sp : Nat} {x : Span} (h : spanAt s s.cur.cl = some (sp, x)) : curLoad s = x.load := by
  simp [curLoad, h]

/-- PIN waits while table writes are due, also where no rewiring of its operator is in progress. -/
theorem exec_pin_updating {s : State} {d a : BitVec 5} {sp : Nat} {x : Span} {l : Load} (hs : spanAt s s.cur.cl = some (sp, x)) (hl : x.load = some l)
    (ht : pinTarget (xget (curGrp s) a).toNat l = true) (hc : pinActs l = true) (hu : l.upd ≠ 0) :
    exec (.pin d a) s = .next (modCur (modLoad s sp (setPin true (xget (curGrp s) a).toNat)) (waitFor (.pin (xget (curGrp s) a).toNat d))) := by
  show execPin d a s = _
  have hb : pinBusy (xget (curGrp s) a).toNat l = true := by simp [pinBusy, hu]
  simp only [execPin, hs, curLoad_of_spanAt hs, hl, ht, hc, hb, Bool.not_true, Bool.false_eq_true, if_false, if_true]

/-- A rewiring of the load has completed and the writes of its table are due; no rewiring is in progress, and x1 names the load. -/
def dueLoad : Load := { probeLoad with phase := .running, caldera := true, upd := 1, ops := amEmpty }
def dueSpan : Span := { probeSpan with load := some dueLoad }
def tableDue : State :=
  modCur (modCl { State.reset with spans := ⟨[(0, dueSpan)]⟩ } 0 (fun c => { c with span := some 0 })) (xset 1#5 (BitVec.allOnes 64))
theorem tableDue_span : spanAt tableDue tableDue.cur.cl = some (0, dueSpan) := rfl
theorem tableDue_register : (xget (curGrp tableDue) 1#5).toNat = 2 ^ 64 - 1 := rfl

/-- Refutes O41: PIN of the load, of which no rewiring is in progress, is said to complete; in `tableDue` it waits, since the
entries of the layout table that the last rewiring changed are still being written (`pinBusy`). -/
theorem not_layoutAndRate : ¬ Obligations.LayoutAndRate := by
  intro ⟨hlayout, _⟩
  obtain ⟨_, _, hpins⟩ := hlayout tableDue 2#5 1#5 0 dueSpan dueLoad (by decide) tableDue_span rfl
  obtain ⟨_, hall⟩ := hpins rfl (by decide)
  obtain ⟨hpin, _⟩ := hall tableDue_register
  obtain ⟨t, ht, _, hpc, _⟩ := hpin rfl
  rw [exec_pin_updating tableDue_span rfl (by rw [tableDue_register]; rfl) rfl (by decide)] at ht
  cases ht
  exact absurd hpc (by decide)

end Sys2Proof.Machine


namespace Sys2Proof.Machine
open Sys2Proof Sys2Proof.Claims

/-! GO, WAITL, and the forms that need a load (R180 to R182, R189, R249). -/

theorem leadSpan_of_spanAt {s : State} {x : Span} (h : spanAt s s.cur.cl = some (s.cur.cl, x)) : leadSpan s = some (s.cur.cl, x) := by
  simp [leadSpan, h]
theorem leadSpan_none {s : State} (h : ∀ x, spanAt s s.cur.cl ≠ some (s.cur.cl, x)) : leadSpan s = none := by
  unfold leadSpan
  rw [Option.filter_eq_none_iff]
  rintro ⟨sp, x⟩ hs
  simp only [decide_eq_true_eq]
  exact fun e => h x (e ▸ hs)
theorem getSpan_of_spanAt {s : State} {cl sp : Nat} {x : Span} (h : spanAt s cl = some (sp, x)) : (getCl s cl).span = some sp ∧ getSpan s sp = some x := by
  unfold spanAt at h
  split at h
  · cases h
  · next k hk =>
    obtain ⟨y, hy, e⟩ := Option.map_eq_some_iff.mp h
    simp only [Prod.mk.injEq] at e
    exact ⟨e.1 ▸ hk, e.1 ▸ e.2 ▸ hy⟩

theorem headCheck_spans (s : State) (sp : Nat) (e : Endpoint) : (headCheck s sp e).spans = s.spans := by
  unfold headCheck
  split
  · rfl
  · split
    · rfl
    · split
      · split
        · rfl
        · simp only; split <;> rfl
      · split
        · rfl
        · simp only; split <;> rfl
      · split
        · rfl
        · simp only; split <;> rfl
      · rfl

/-- The load that GO starts, before its heads are checked. -/
def startedLoad (t : Nat) (l : Load) : Load := { l with phase := .running, goCycle := t, winCycle := t, wdogFrom := t, layv := 0 }
def loadStarted (s : State) (sp : Nat) (x : Span) : State :=
  modLoad (x.clusters.foldl (fun s c => modIsland s c (fun _ => islandReset)) s) sp (startedLoad (spanNow s sp))
def headsChecked (s : State) (sp : Nat) (ends : List Endpoint) : State := ends.foldl (fun s e => if e.ctl then s else headCheck s sp e) s
theorem startLoad_eq (s : State) (sp : Nat) (x : Span) : ∃ ends, startLoad s sp x = writeTable (headsChecked (loadStarted s sp x) sp ends) sp := ⟨_, rfl⟩

theorem loadStarted_load {s : State} {sp : Nat} {l : Load} (hl : getLoad s sp = some l) (x : Span) :
    getLoad (loadStarted s sp x) sp = some (startedLoad (spanNow s sp) l) := by
  rw [loadStarted, getLoad_modLoad_same, getLoad_spans (foldl_keep (fun s c => modIsland s c (fun _ => islandReset)) State.spans (fun _ _ => rfl) _ s), hl]
  rfl
theorem headsChecked_spans (s : State) (sp : Nat) (ends : List Endpoint) : (headsChecked s sp ends).spans = s.spans :=
  foldl_keep _ State.spans (fun s e => by split; · rfl
                                          · exact headCheck_spans s sp e) ends s
theorem headsChecked_load {s : State} {sp : Nat} {l : Load} (hl : getLoad s sp = some l) (x : Span) (ends : List Endpoint) :
    getLoad (headsChecked (loadStarted s sp x) sp ends) sp = some (startedLoad (spanNow s sp) l) := by
  rw [getLoad_spans (headsChecked_spans _ _ _), loadStarted_load hl]
theorem startLoad_load {s : State} {sp : Nat} {l : Load} (hl : getLoad s sp = some l) (x : Span) :
    getLoad (startLoad s sp x) sp = some (startedLoad (spanNow s sp) l) := by
  obtain ⟨ends, h⟩ := startLoad_eq s sp x
  rw [h, getLoad_spans (sameButCounts_spans (writeTable_counts _ _)), headsChecked_load hl]
theorem sameButCounts_events {s t : State} (h : sameButCounts s t) : SameButEvents s t := sameButEvents_of_core h.1 (sameButCounts_core h)
/-- GO leaves the control cores alone, but for the events of heads that are bad. -/
theorem startLoad_sameButEvents (s : State) (sp : Nat) (x : Span) : SameButEvents s (startLoad s sp x) := by
  obtain ⟨ends, h⟩ := startLoad_eq s sp x
  have hisland : SameButEvents s (x.clusters.foldl (fun s c => modIsland s c (fun _ => islandReset)) s) :=
    foldl_inv _ (SameButEvents s) (fun t c ht => sameButEvents_trans ht (sameButEvents_modIsland t c _)) _ (sameButEvents_refl s)
  have hstart : SameButEvents s (loadStarted s sp x) := sameButEvents_trans hisland (sameButEvents_of_core rfl (fun _ => rfl))
  have hheads : SameButEvents s (headsChecked (loadStarted s sp x) sp ends) :=
    foldl_inv _ (SameButEvents s) (fun t e ht => sameButEvents_ite _ ht (sameButEvents_trans ht (headCheck_sameButEvents t sp e))) _ hstart
  rw [h]
  exact sameButEvents_trans hheads (sameButCounts_events (writeTable_counts _ _))
/-- Without a Caldera block no table is written. -/
theorem startLoad_memParts {s : State} {sp : Nat} {l : Load} (hl : getLoad s sp = some l) (hc : l.caldera = false) (x : Span) :
    (startLoad s sp x).memParts = s.memParts := by
  obtain ⟨ends, h⟩ := startLoad_eq s sp x
  have hw : writeTable (headsChecked (loadStarted s sp x) sp ends) sp = headsChecked (loadStarted s sp x) sp ends := by
    have hload := headsChecked_load hl x ends
    obtain ⟨y, hy, hyl⟩ := Option.bind_eq_some_iff.mp hload
    rw [writeTable, hy]
    simp only [hyl]
    rw [writeTableBytes, if_pos (by simp [startedLoad, hc])]
  rw [h, hw, headsChecked, foldl_memParts (fun s e => by simp), loadStarted]
  simp

theorem getLoad_releaseCur (s : State) (sc : Nat) (hg : s.cur.grp < 4) (sp : Nat) : getLoad (releaseCur s sc) sp = getLoad s sp :=
  getLoad_spans (spans_releaseCur s sc hg) sp
theorem spanNow_releaseCur (s : State) (sc : Nat) (hg : s.cur.grp < 4) (sp : Nat) : spanNow (releaseCur s sc) sp = spanNow s sp := by
  rw [spanNow, now, cycleOf, show (releaseCur s sc).cycles = s.cycles from (flushGrp_units s s.cur.cl sc hg).2.2.1]
  rfl

theorem loadControl_go {s : State} {x : Span} {l : Load} (hg : s.cur.grp < 4) (hs : spanAt s s.cur.cl = some (s.cur.cl, x)) (hl : x.load = some l)
    (hp : l.phase = .ready) : Answers .go s 0#5 0#64 (fun t => (curGrp t).stores = [] ∧
      (l.caldera = false → t.mem = (releaseCur s 1).mem ∧ t.near = (releaseCur s 1).near) ∧
      ∃ m, getLoad t s.cur.cl = some m ∧ m.phase = .running ∧ m.goCycle = spanNow s s.cur.cl ∧ m.layv = 0) := by
  have hload : getLoad (releaseCur s 1) s.cur.cl = some l := by
    rw [getLoad_releaseCur s 1 hg, getLoad_of (getSpan_of_spanAt hs).2, hl]
  have hi : exec .go s = .next (skip (startLoad (releaseCur s 1) s.cur.cl x) 4) := by
    show execGo s = _
    simp [execGo, leadSpan_of_spanAt hs, hl, hp]
  have hev := startLoad_sameButEvents (releaseCur s 1) s.cur.cl x
  have hgrp : curGrp (startLoad (releaseCur s 1) s.cur.cl x) = { curGrp s with stores := [] } :=
    (sameButEvents_curGrp hev).trans (curGrp_releaseCur 1 hg)
  have hg1 : (startLoad (releaseCur s 1) s.cur.cl x).cur.grp < 4 := by rw [hev.1, releaseCur_cur]; exact hg
  refine answers_skip hg1 hi (by rw [hgrp]) (by rw [hgrp]) ⟨by rw [curGrp_skip hg1, hgrp]; rfl, fun hc => ?_, _, startLoad_load hload x, rfl,
    spanNow_releaseCur s 1 hg _, rfl⟩
  exact SameView.of_memParts (by rw [skip_memParts]; exact startLoad_memParts hload hc x)

theorem loadControl : LoadControl := by
  intro s d x l hg hs hl
  have hlead := leadSpan_of_spanAt hs
  have hacq : ∀ {i : Instr} {v : W64}, exec i s = .next (finish (acquireCur s 1) 4 d v) → WritesAfter i s (acquireCur s 1) 4 d v :=
    fun hi => writesAfter_finish (grp_releaseCur 1 hg) hi (x_releaseCur 1 hg) (pc_releaseCur 1 hg)
  refine ⟨loadControl_go hg hs hl, fun hc => hacq ?_, fun hc => waits_waitFor hg ?_ rfl rfl (onlyGroup_modCur s _), fun hc => hacq ?_, fun hc => writesRegister_finish hg ?_,
    fun hc hm => entersTrap_illegal hg hm ?_⟩
  · show execWaitl d s = _
    simp [execWaitl, hlead, hl, hc]
  · show execWaitl d s = _
    simp [execWaitl, hlead, hl, hc]
  · show execWaitlNb d s = _
    simp [execWaitlNb, hlead, hl, hc, b2n]
  · show execWaitlNb d s = _
    simp [execWaitlNb, hlead, hl, hc, b2n]
  · show execGo s = _
    simp [execGo, hlead, hl, hc]

theorem noLoadTraps : NoLoadTraps := by
  intro s d a hg hm
  refine ⟨fun hnone i hi => entersTrap_illegal hg hm ?_, fun hnone => ?_, fun hlead i hi => entersTrap_illegal hg hm ?_⟩
  · have hload : (leadSpan s).bind (fun p => p.2.load) = none := by
      rw [Option.bind_eq_none_iff]
      intro p hp
      simp only [leadSpan, Option.filter_eq_some_iff] at hp
      rw [curLoad, hp.1] at hnone
      exact hnone
    simp only [List.mem_cons, List.not_mem_nil, or_false] at hi
    rcases hi with rfl | rfl | rfl | rfl | rfl | rfl | rfl | rfl
    · show execGo s = _
      unfold execGo
      split
      · rfl
      · next sp x hl => rw [hl] at hload; rw [show x.load = none from hload]; rfl
    · show execWaitl d s = _
      simp only [execWaitl, hload]
    · show execWaitlNb d s = _
      simp only [execWaitlNb, hload]
    · show execRdlayT d s = _
      simp only [execRdlayT, hnone]
    · show execPin d a s = _
      simp only [execPin, hnone]
      cases spanAt s s.cur.cl <;> rfl
    · show execUnpin a s = _
      simp only [execUnpin, hnone]
      cases spanAt s s.cur.cl <;> rfl
    · show execStrm a d s = _
      simp only [execStrm, hnone]
      cases spanAt s s.cur.cl <;> rfl
    · show execMcast a d s = _
      simp only [execMcast, hnone]
      cases spanAt s s.cur.cl <;> rfl
  · refine writesAfter_finish (grp_releaseCur 3 hg) ?_ (x_releaseCur 3 hg) (pc_releaseCur 3 hg)
    show execRdlay d s = _
    rw [execRdlay, hnone]
    rfl
  · have hl := leadSpan_none hlead
    simp only [List.mem_cons, List.not_mem_nil, or_false] at hi
    rcases hi with rfl | rfl | rfl | rfl
    · show execCfg d a s = _
      simp only [execCfg, hl]
    · show execGo s = _
      simp only [execGo, hl]
    · show execWaitl d s = _
      simp only [execWaitl, hl, Option.bind_none]
    · show execWaitlNb d s = _
      simp only [execWaitlNb, hl, Option.bind_none]

/-- Settles O40. -/
theorem loadControlInstructions : Obligations.LoadControlInstructions := ⟨loadControl, noLoadTraps⟩

end Sys2Proof.Machine


namespace Sys2Proof.Machine
open Sys2Proof Sys2Proof.Claims

/-! A collective that ends as it starts (R192, R331): its descriptor takes the status. -/

/-- The page tables, from address 0: entry 0 points back to the table, entry 1 is a leaf of 1 GiB at address 0 that may be read and
written; the entry of ASID 2 in the root names the table. Then a descriptor, 4 bytes long, of collective group 0. -/
def ringMemory : List Host.Cell :=
  memPutAll (memPutAll [] 0 (bytesOf 8 (2 ^ 63) ++ bytesOf 8 (2 ^ 63 + 2 ^ 62 + 10 * 2 ^ 58 + 24) ++ bytesOf 8 (2 ^ 63))) 88 [4#8]
/-- Cluster 0 has the leaf in its cache, x1 names the descriptor, and collective group 0, of four members, is enabled and ready; no
link of it is up. -/
def linkless : State :=
  let s := { State.reset with mem := ringMemory }
  let s1 := modPart s 0 (fun P => { P with wbase := amPut P.wbase 0 1#64, wsize := amPut P.wsize 0 1#64 })
  let s2 := modHub s1 (fun h => { h with groups := amPut h.groups 0 { cgroupReset with en := true, rdy := true, gm1 := 3 } })
  let s3 := modCl s2 0 (fun c => { c with tcache := [⟨2, 2 ^ 30, 2 ^ 30, 0, 3⟩] })
  modCur s3 (fun g => xset 1#5 (BitVec.ofNat 64 (2 ^ 30 + 64)) { g with asid := 2 })
def linklessPas : List Nat := (List.range 16).map (fun k => 64 + 4 * k)
theorem linkless_register : (xget (curGrp linkless) 1#5).toNat = 2 ^ 30 + 64 := rfl
theorem linkless_words : vaWords (releaseCur linkless 4) 0 2 1 16 (2 ^ 30 + 64) = .ok linklessPas := by rfl
/-- The descriptor as it is read: SRC, DST and MRK 0, LEN 4, group 0, the rest 0. -/
def linklessBytes : List Byte := List.replicate 24 0#8 ++ [4#8] ++ List.replicate 39 0#8
theorem linkless_reads : Reads (releaseCur linkless 4) 16 (2 ^ 30 + 64) linklessBytes := ⟨linklessPas, linkless_words, by decide +kernel⟩
theorem linkless_release_mem : (releaseCur linkless 4).byte 111 = 0#8 := by rfl
/-- A byte of memory after an instruction. -/
def byteAfter (o : Out) (a : Nat) : Byte :=
  match o with
  | .next t => t.byte a
  | _ => 0#8
/-- Word 5 of the descriptor holds status 2, since the links have no spanning tree. -/
theorem linkless_status : byteAfter (exec (.coll 2#5 1#5) linkless) 111 = 2#8 := by decide +kernel

/-- Refutes O19: COLL is said to leave memory as the release leaves it; in `linkless` the collective ends as it starts, with status 2,
and the status is written to the descriptor (R331). -/
theorem not_collectiveInstructions : ¬ Obligations.CollectiveInstructions := by
  intro h
  obtain ⟨hstart, _⟩ := h linkless 2#5 1#5 (by decide)
  obtain ⟨_, t, ht, _, _, _, _, hmem, _⟩ := hstart linklessBytes (words64 linklessBytes 8) (by rw [linkless_register]; decide) (by decide)
    (by rw [linkless_register]; exact linkless_reads) rfl (by decide) rfl rfl (fun hkind => absurd hkind (by decide))
  have hbyte := linkless_status
  rw [ht, byteAfter, State.byte, hmem] at hbyte
  exact absurd (linkless_release_mem.symm.trans hbyte) (by decide)

end Sys2Proof.Machine


namespace Sys2Proof.Machine
open Sys2Proof Sys2Proof.Claims

/-! Releases of several groups, one after the other (R187, R232, R234). -/

/-- The groups of a list release at a scope, in its order. -/
def flushAll (s : State) (sc : Nat) (ws : List (Nat × Nat)) : State := ws.foldl (fun s w => flushGrp s w.1 w.2 sc) s
/-- The groups of a list release that pass a test as their turn comes. -/
def flushWhere (p : Group → Bool) (s : State) (sc : Nat) (ws : List (Nat × Nat)) : State :=
  ws.foldl (fun s w => if p (getGrp s w.1 w.2) then flushGrp s w.1 w.2 sc else s) s

theorem flushGrp_getGrp (s : State) (sc : Nat) {w : Nat × Nat} (hw : w.2 < 4) (c : Nat) {h : Nat} (hh : h < 4) :
    getGrp (flushGrp s w.1 w.2 sc) c h = if (c, h) = w then { getGrp s c h with stores := [] } else getGrp s c h := by
  split
  · next e => subst e; exact flushGrp_grp s c sc hw
  · next e =>
    refine (flushGrp_units s w.1 sc hw).2.2.2.2.2 c h hh ?_
    by_contra hc
    rw [not_or, not_not, not_not] at hc
    exact e (Prod.ext hc.1 hc.2)
/-- A release changes no other group, so the test may be made of all groups before the first release. -/
theorem flushWhere_eq (p : Group → Bool) (s : State) (sc : Nat) {ws : List (Nat × Nat)} (hnd : ws.Nodup) (hw : ∀ w ∈ ws, w.2 < 4) :
    flushWhere p s sc ws = flushAll s sc (ws.filter (fun w => p (getGrp s w.1 w.2))) := by
  induction ws generalizing s with
  | nil => rfl
  | cons w ws ih =>
    obtain ⟨hnot, hnd'⟩ := List.nodup_cons.mp hnd
    have hlt := hw w (.head _)
    have hw' : ∀ v ∈ ws, v.2 < 4 := fun v hv => hw v (.tail _ hv)
    rw [List.filter_cons]
    show flushWhere p (if p (getGrp s w.1 w.2) then flushGrp s w.1 w.2 sc else s) sc ws = _
    split
    · rw [ih _ hnd' hw']
      show _ = flushAll (flushGrp s w.1 w.2 sc) sc _
      refine congrArg _ (List.filter_congr fun v hv => ?_)
      rw [flushGrp_getGrp s sc hlt v.1 (hw' v hv), if_neg (fun e : v = w => hnot (e ▸ hv))]
    · exact ih s hnd' hw'

section
variable {s : State} {sc : Nat} {ws : List (Nat × Nat)} (hw : ∀ w ∈ ws, w.2 < 4)

theorem flushAll_ok (h : s.memOk) (sc : Nat) (ws : List (Nat × Nat)) : (flushAll s sc ws).memOk :=
  foldl_inv _ State.memOk (fun _ w ht => flushGrp_ok w.1 w.2 sc ht) ws h
include hw in
theorem flushAll_grp (c : Nat) {h : Nat} (hh : h < 4) :
    getGrp (flushAll s sc ws) c h = if (c, h) ∈ ws then { getGrp s c h with stores := [] } else getGrp s c h := by
  induction ws generalizing s with
  | nil => rfl
  | cons w ws ih =>
    show getGrp (flushAll (flushGrp s w.1 w.2 sc) sc ws) c h = _
    rw [ih (fun v hv => hw v (.tail _ hv)), flushGrp_getGrp s sc (hw w (.head _)) c hh]
    by_cases h1 : (c, h) = w
    · simp [h1]
    · simp [h1, List.mem_cons]
/-- Releases leave the units alone, but for lists of stores and counters. -/
def OnlyReleased (s t : State) : Prop :=
  t.cur = s.cur ∧ t.spans = s.spans ∧ t.cycles = s.cycles ∧
    ∀ c, getCl t c = { getCl s c with core := { (getCl s c).core with grp := (getCl t c).core.grp }, counters := (getCl t c).counters }
theorem OnlyReleased.refl (s : State) : OnlyReleased s s := ⟨rfl, rfl, rfl, fun _ => rfl⟩
theorem OnlyReleased.trans {s t u : State} (h : OnlyReleased s t) (k : OnlyReleased t u) : OnlyReleased s u := by
  obtain ⟨h1, h2, h3, h4⟩ := h
  obtain ⟨k1, k2, k3, k4⟩ := k
  exact ⟨k1.trans h1, k2.trans h2, k3.trans h3, fun c => by rw [k4 c, h4 c]⟩
theorem flushGrp_onlyReleased (s : State) (cl sc : Nat) {g : Nat} (hg : g < 4) : OnlyReleased s (flushGrp s cl g sc) := by
  obtain ⟨h1, h2, h3, _, h5, _⟩ := flushGrp_units s cl sc hg
  exact ⟨h1, h2, h3, h5⟩
include hw in
theorem flushAll_onlyReleased : OnlyReleased s (flushAll s sc ws) := by
  induction ws generalizing s with
  | nil => exact .refl s
  | cons w ws ih => exact (flushGrp_onlyReleased s w.1 sc (hw w (.head _))).trans (ih (fun v hv => hw v (.tail _ hv)))
theorem OnlyReleased.spanAt {s t : State} (h : OnlyReleased s t) (c : Nat) : spanAt t c = Machine.spanAt s c := by
  unfold Machine.spanAt getSpan
  rw [h.2.2.2 c, h.2.1]
theorem OnlyReleased.instOf {s t : State} (h : OnlyReleased s t) (c k : Nat) : instOf t c k = Machine.instOf s c k := by
  unfold Machine.instOf spanList
  rw [h.spanAt c]
theorem OnlyReleased.now {s t : State} (h : OnlyReleased s t) (c : Nat) : now t c = Machine.now s c := by
  rw [Machine.now, cycleOf, h.2.2.1]
  rfl
theorem OnlyReleased.core {s t : State} (h : OnlyReleased s t) (c : Nat) : (getCl t c).core = { (getCl s c).core with grp := (getCl t c).core.grp } :=
  congrArg Cluster.core (h.2.2.2 c)

section
variable {cls : List Nat} (h : s.memOk) (hcls : ∀ w ∈ ws, w.1 ∈ cls) (hsees : ∀ e ∈ cls, ∀ c ∈ cls, (instOf s e sc).sees c = true)
  {a : Nat} (hn : ∀ c ∈ cls, NoneHidden s c a)
include hw h hcls hsees hn

theorem flushAll_noneHidden : ∀ c ∈ cls, NoneHidden (flushAll s sc ws) c a := by
  induction ws generalizing s with
  | nil => exact hn
  | cons w ws ih =>
    have hlt := hw w (.head _)
    have hmem := hcls w (.head _)
    refine ih (fun v hv => hw v (.tail _ hv)) (flushGrp_ok w.1 w.2 sc h) (fun v hv => hcls v (.tail _ hv)) (fun e he c hc => ?_)
      (fun c hc => noneHidden_flushGrp h w.1 w.2 sc (hn w.1 hmem) (.inr (hsees w.1 hmem c hc)))
    rw [(flushGrp_onlyReleased s w.1 sc hlt).instOf]
    exact hsees e he c hc
theorem flushAll_latest (hnd : ws.Nodup) :
    (flushAll s sc ws).latest a = storesByte (ws.flatMap (fun w => (getGrp s w.1 w.2).stores)) a (s.latest a) := by
  induction ws generalizing s with
  | nil => rfl
  | cons w ws ih =>
    obtain ⟨hnot, hnd'⟩ := List.nodup_cons.mp hnd
    have hlt := hw w (.head _)
    have hmem := hcls w (.head _)
    have hw' : ∀ v ∈ ws, v.2 < 4 := fun v hv => hw v (.tail _ hv)
    show (flushAll (flushGrp s w.1 w.2 sc) sc ws).latest a = _
    rw [ih hw' (flushGrp_ok w.1 w.2 sc h) (fun v hv => hcls v (.tail _ hv))
      (fun e he c hc => by rw [(flushGrp_onlyReleased s w.1 sc hlt).instOf]; exact hsees e he c hc)
      (fun c hc => noneHidden_flushGrp h w.1 w.2 sc (hn w.1 hmem) (.inr (hsees w.1 hmem c hc))) hnd',
      latest_flushGrp h w.1 w.2 sc (hn w.1 hmem), List.flatMap_cons, storesByte_append]
    refine congrArg (fun q => storesByte q a _) (List.flatMap_congr fun v hv => ?_)
    rw [flushGrp_getGrp s sc hlt v.1 (hw' v hv), if_neg (fun e : v = w => hnot (e ▸ hv))]
/-- Each of the clusters sees what it saw with the stores of all the groups on top. -/
theorem flushAll_seen (hnd : ws.Nodup) {c : Nat} (hc : c ∈ cls) :
    (flushAll s sc ws).seen c a = seenByte s c (ws.flatMap (fun w => (getGrp s w.1 w.2).stores)) a := by
  rw [seen_eq_latest (flushAll_ok h sc ws) (flushAll_noneHidden hw h hcls hsees hn c hc), flushAll_latest hw h hcls hsees hn hnd, seenByte_eq,
    seen_eq_latest h (hn c hc)]
end
include hw in
theorem Bare.flushAll (h : s.memOk) {a : Nat} (hb : Bare s a)
    (hps : ∀ w ∈ ws, ∀ q ∈ (getGrp s w.1 w.2).stores, ¬(q.pa ≤ a ∧ a < q.pa + q.bytes.length)) :
    Bare (flushAll s sc ws) a ∧ (Machine.flushAll s sc ws).byte a = s.byte a := by
  induction ws generalizing s with
  | nil => exact ⟨hb, rfl⟩
  | cons w ws ih =>
    have hlt := hw w (.head _)
    obtain ⟨h1, h2⟩ := hb.flushGrp h w.1 w.2 sc (hps w (.head _))
    obtain ⟨h3, h4⟩ := ih (fun v hv => hw v (.tail _ hv)) (flushGrp_ok w.1 w.2 sc h) h1 (fun v hv q hq => by
      rw [flushGrp_getGrp s sc hlt v.1 (hw v (.tail _ hv))] at hq
      split at hq
      · cases hq
      · exact hps v (.tail _ hv) q hq)
    exact ⟨h3, h4.trans h2⟩
end

/-! The groups that have arrived at a barrier. -/

/-- The groups of some clusters that have arrived at a barrier, in their order. -/
def arrivedAt (s : State) (cls : List Nat) (k : Bool) (id : Nat) : List (Nat × Nat) :=
  cls.flatMap (fun c => ((List.range 4).filter (fun h => waitsAt k id (getGrp s c h))).map (fun h => (c, h)))
theorem mem_arrivedAt {s : State} {cls : List Nat} {k : Bool} {id c h : Nat} :
    (c, h) ∈ arrivedAt s cls k id ↔ c ∈ cls ∧ h < 4 ∧ waitsAt k id (getGrp s c h) = true := by
  simp [arrivedAt]
theorem arrivedAt_nodup {s : State} {cls : List Nat} {k : Bool} {id : Nat} (h : cls.Nodup) : (arrivedAt s cls k id).Nodup := by
  refine List.nodup_flatMap.mpr ⟨fun c _ => (List.nodup_range.filter _).map (fun _ _ e => congrArg Prod.snd e), h.imp fun hne => ?_⟩
  simp only [Function.onFun, List.disjoint_left, List.mem_map]
  rintro w ⟨g, _, rfl⟩ ⟨g', _, e⟩
  exact hne (congrArg Prod.fst e).symm
/-- The release of the groups that have arrived. -/
theorem releaseWaiters_eq (s : State) {cls : List Nat} (sc : Nat) (k : Bool) (id : Nat) (h : cls.Nodup) :
    cls.foldl (fun s c => releaseWaiters s c sc k id) s = flushAll s sc (arrivedAt s cls k id) := by
  have hall : cls.foldl (fun s c => releaseWaiters s c sc k id) s =
      flushWhere (waitsAt k id) s sc (cls.flatMap (fun c => (List.range 4).map (fun g => (c, g)))) := by
    rw [flushWhere, List.foldl_flatMap]
    refine List.foldl_ext _ _ _ (fun t c _ => ?_)
    rw [List.foldl_map]
    rfl
  have hnd : (cls.flatMap (fun c => (List.range 4).map (fun g => (c, g)))).Nodup := by
    refine List.nodup_flatMap.mpr ⟨fun c _ => List.nodup_range.map (fun _ _ e => congrArg Prod.snd e), h.imp fun hne => ?_⟩
    simp only [Function.onFun, List.disjoint_left, List.mem_map]
    rintro w ⟨g, _, rfl⟩ ⟨g', _, e⟩
    exact hne (congrArg Prod.fst e).symm
  rw [hall, flushWhere_eq _ _ _ hnd (fun w hw => by
    obtain ⟨c, _, hg⟩ := List.mem_flatMap.mp hw
    obtain ⟨g, hg4, rfl⟩ := List.mem_map.mp hg
    exact List.mem_range.mp hg4), List.filter_flatMap, arrivedAt]
  refine congrArg _ (List.flatMap_congr fun c _ => ?_)
  rw [List.filter_map]
  rfl

end Sys2Proof.Machine


namespace Sys2Proof.Machine
open Sys2Proof Sys2Proof.Claims

/-! The completion of a barrier (R187, R202, R232, R234). -/

section
variable (t : Nat) {k : Bool} {id : Nat} {g : Group}

theorem releaseFrom_not_arrived (h : waitsAt k id g = false) : releaseFrom t k id g = g := by
  simp only [waitsAt, Bool.or_eq_false_iff, decide_eq_false_iff_not] at h
  simp only [releaseFrom, h.2, Bool.false_eq_true, if_false, if_neg h.1]
theorem releaseFrom_keeps : (releaseFrom t k id g).stores = g.stores ∧ (releaseFrom t k id g).x = g.x := by
  unfold releaseFrom
  dsimp only
  split <;> split <;> exact ⟨rfl, rfl⟩
theorem releaseFrom_waiting (h : g.st = .waiting (.barrier k id)) :
    (releaseFrom t k id g).st = .ready ∧ (releaseFrom t k id g).pc = g.pc + 4#52 := by
  unfold releaseFrom
  split <;> simp only [h, if_true] <;> exact ⟨rfl, rfl⟩
theorem releaseFrom_cut (hc : cutAt k id g = true) (h : g.st ≠ .waiting (.barrier k id)) :
    releaseFrom t k id g = { g with cut := g.cut.map (fun b => { b with passed := true }) } := by
  simp only [releaseFrom, hc, if_true, if_neg h]
end

/-- The waiters of a core go on. -/
def wakeArrived (s : State) (k : Bool) (id c : Nat) : State :=
  modCore s c (fun q => { q with grp := vec4Of (fun g => releaseFrom (now s c) k id (vec4Get q.grp g)) 0 })
theorem getGrp_wakeArrived (s : State) (k : Bool) (id c d : Nat) {h : Nat} (hh : h < 4) :
    getGrp (wakeArrived s k id c) d h = if d = c then releaseFrom (now s c) k id (getGrp s d h) else getGrp s d h := by
  unfold wakeArrived getGrp modCore
  rw [getCl_modCl]
  split
  · next e => subst e; simp only; rw [vec4Get_of _ _ hh, Nat.zero_add]
  · rfl
/-- The waiters of each cluster of a list go on. -/
theorem getGrp_foldl_wakeArrived {cls : List Nat} (hnd : cls.Nodup) (s : State) (k : Bool) (id d : Nat) {h : Nat} (hh : h < 4) :
    getGrp (cls.foldl (fun s c => wakeArrived s k id c) s) d h = if d ∈ cls then releaseFrom (now s d) k id (getGrp s d h) else getGrp s d h := by
  induction cls generalizing s with
  | nil => rfl
  | cons c cls ih =>
    obtain ⟨hnot, hnd'⟩ := List.nodup_cons.mp hnd
    rw [List.foldl_cons, ih hnd', getGrp_wakeArrived s k id c d hh]
    by_cases hd : d = c
    · subst hd; simp [hnot]
    · simp [hd]
      rfl

/-- A barrier completes where the groups that have arrived release, and then those of the clusters go on. -/
theorem barrierDone_of {s u : State} {cls : List Nat} {sc : Nat} {k : Bool} {id : Nat} (hs : s.memOk) (hnd : cls.Nodup)
    (hsees : ∀ e ∈ cls, ∀ c ∈ cls, (instOf s e sc).sees c = true) (hv : SameView (flushAll s sc (arrivedAt s cls k id)) u)
    (hg : ∀ c h, h < 4 → ∃ t, getGrp u c h = if c ∈ cls then releaseFrom t k id (getGrp (flushAll s sc (arrivedAt s cls k id)) c h)
      else getGrp (flushAll s sc (arrivedAt s cls k id)) c h) :
    BarrierDone s u cls k id := by
  have hw : ∀ w ∈ arrivedAt s cls k id, w.2 < 4 := fun w hw => (mem_arrivedAt (c := w.1) (h := w.2).mp hw).2.1
  have hc : ∀ w ∈ arrivedAt s cls k id, w.1 ∈ cls := fun w hw => (mem_arrivedAt (c := w.1) (h := w.2).mp hw).1
  have harr : ∀ c h, h < 4 → c ∈ cls → waitsAt k id (getGrp s c h) = true → ∃ t, getGrp u c h = releaseFrom t k id { getGrp s c h with stores := [] } :=
    fun c h hh hcls hwt => by
      obtain ⟨t, ht⟩ := hg c h hh
      rw [if_pos hcls, flushAll_grp hw c hh, if_pos (mem_arrivedAt.mpr ⟨hcls, hh, hwt⟩)] at ht
      exact ⟨t, ht⟩
  refine ⟨fun a c hcls hn => ?_, fun a hn hps => ?_, fun w hw' => ?_, fun c hcls h hh hst => ?_, fun c hcls h hh hcut hst => ?_, fun c h hh hne => ?_⟩
  · rw [hv.seen]
    exact flushAll_seen hw hs hc hsees hn (arrivedAt_nodup hnd) hcls
  · rw [hv.byte]
    exact (Bare.flushAll hw hs (Bare.of_granule hs hn) hps).2
  · obtain ⟨hcls, hh, hwt⟩ := mem_arrivedAt (c := w.1) (h := w.2).mp hw'
    obtain ⟨t, ht⟩ := harr w.1 w.2 hh hcls hwt
    rw [ht]
    exact releaseFrom_keeps t
  · obtain ⟨t, ht⟩ := harr c h hh hcls (by simp [waitsAt, hst])
    rw [ht]
    exact releaseFrom_waiting t hst
  · obtain ⟨t, ht⟩ := harr c h hh hcls (by simp [waitsAt, hcut])
    rw [ht]
    exact releaseFrom_cut t hcut hst
  · obtain ⟨t, ht⟩ := hg c h hh
    have hnot : (c, h) ∉ arrivedAt s cls k id := fun hm => by
      obtain ⟨h1, _, h2⟩ := mem_arrivedAt.mp hm
      rcases hne with hne | hne
      · exact hne h1
      · rw [hne] at h2; cases h2
    rw [flushAll_grp hw c hh, if_neg hnot] at ht
    rw [ht]
    split
    · next hcls => exact releaseFrom_not_arrived t (hne.resolve_left (not_not.mpr hcls))
    · rfl

/-! Group barriers. -/

theorem completeGroupBar_eq (s : State) (cl m : Nat) : completeGroupBar s cl m =
    modCore (flushAll s 0 (arrivedAt s [cl] false m)) cl (fun c => { c with
      bars := c.bars.filter (fun b => decide (b.1 ≠ m))
      grp := vec4Of (fun g => releaseFrom (now s cl) false m (vec4Get c.grp g)) 0 }) := by
  rw [← releaseWaiters_eq s 0 false m (List.nodup_singleton cl), List.foldl_cons, List.foldl_nil, completeGroupBar]
theorem getGrp_completeGroupBar (s : State) (cl m c : Nat) {g : Nat} (hg : g < 4) : getGrp (completeGroupBar s cl m) c g =
    if c = cl then releaseFrom (now s cl) false m (getGrp (flushAll s 0 (arrivedAt s [cl] false m)) c g)
    else getGrp (flushAll s 0 (arrivedAt s [cl] false m)) c g := by
  rw [completeGroupBar_eq]
  unfold getGrp modCore
  rw [getCl_modCl]
  split
  · next e => subst e; simp only; rw [vec4Get_of _ _ hg, Nat.zero_add]
  · rfl
theorem completeGroupBar_bars (s : State) (cl m : Nat) : ∀ p ∈ (getCl (completeGroupBar s cl m) cl).core.bars, p.1 ≠ m := by
  intro p hp
  rw [completeGroupBar_eq, modCore, getCl_modCl_same] at hp
  simpa using (List.mem_filter.mp hp).2
theorem completeGroupBar_done {s : State} (h : s.memOk) (cl m : Nat) : BarrierDone s (completeGroupBar s cl m) [cl] false m := by
  have hsees : ∀ e ∈ [cl], ∀ c ∈ [cl], (instOf s e 0).sees c = true := fun e he c hc => by
    rw [List.mem_singleton.mp he, List.mem_singleton.mp hc]
    exact instOf_sees s cl 0
  have hv : SameView (flushAll s 0 (arrivedAt s [cl] false m)) (completeGroupBar s cl m) := by
    rw [completeGroupBar_eq]
    exact sameView_modCore _ _ _
  refine barrierDone_of h (List.nodup_singleton cl) hsees hv (fun c g hg => ⟨now s cl, ?_⟩)
  rw [getGrp_completeGroupBar s cl m c hg]
  simp only [List.mem_singleton]
/-- The completion of a full group barrier. -/
theorem exec_groupBarComplete {s : State} {cl m : Nat} (ha : coreActive s cl = true) (hf : groupBarFull (getCl s cl).core m = true) :
    exec (.barrierComplete cl m false) s = .next (completeGroupBar s cl m) := by
  show execBarrierComplete cl m false s = _
  simp [execBarrierComplete, ha, settleGroupBar, hf]

/-- A group that passes its BAR, or waits at it. -/
def arrivesAtGroupBar (s : State) (m : Nat) : State :=
  modCur (modCore (modCur s clearCut) s.cur.cl (fun c => { c with bars := arriveGroup m s.cur.grp c.bars })) (waitFor (.barrier false m))
theorem exec_barG {s : State} {m : BitVec 4} (hm : bitAt s.cur.grp m = true) (hf : groupBarFull (curCore s) m.toNat = false) :
    exec (.barG m) s = if passesCut (curGrp s) then .next (skip (modCur s clearCut) 4) else .next (arrivesAtGroupBar s m.toNat) := by
  show execBarG m s = _
  have hsettle : settleGroupBar s s.cur.cl m.toNat = s := if_neg (by rw [show (getCl s s.cur.cl).core = curCore s from rfl, hf]; decide)
  simp only [execBarG, hm, hsettle, Bool.not_true, Bool.false_eq_true, if_false]
  rfl

theorem clearCut_eq (g : Group) : clearCut g = { g with cut := (clearCut g).cut } := by
  unfold clearCut
  split <;> rfl
theorem clearCut_passes {g : Group} (h : passesCut g = true) : (clearCut g).cut = none := by
  unfold passesCut at h
  unfold clearCut
  rw [if_pos (by cases hc : cutHere g <;> simp_all)]
/-- A BAR that was cut, and whose barrier has completed since, passes. -/
theorem answers_passesCut {i : Instr} {s : State} (hg : s.cur.grp < 4) (hp : passesCut (curGrp s) = true)
    (hi : exec i s = .next (skip (modCur s clearCut) 4)) : Answers i s 0#5 0#64 (fun t => OnlyGroup s t ∧ (curGrp t).cut = none) := by
  have hgrp : curGrp (modCur s clearCut) = clearCut (curGrp s) := curGrp_modCur hg _
  refine answers_skip (s0 := modCur s clearCut) hg hi (by rw [hgrp, clearCut_eq]) (by rw [hgrp, clearCut_eq])
    ⟨onlyGroup_trans (onlyGroup_modCur s clearCut) (onlyGroup_modCur _ _), ?_⟩
  rw [curGrp_skip (s := modCur s clearCut) hg, hgrp]
  exact clearCut_passes hp

theorem arriveGroup_full {m g : Nat} {bars : List (Nat × Nat)} (h : ∀ p ∈ bars, p.1 = m → p.2 ||| 2 ^ g = p.1)
    (hnew : (∀ p ∈ bars, p.1 ≠ m) → m = 2 ^ g) : (m, m) ∈ arriveGroup m g bars := by
  unfold arriveGroup
  split
  · next hany =>
    obtain ⟨p, hp, hpm⟩ := List.any_eq_true.mp hany
    simp only [decide_eq_true_eq] at hpm
    refine List.mem_map.mpr ⟨p, hp, ?_⟩
    rw [if_pos hpm, h p hp hpm, hpm]
  · next hany =>
    simp only [List.any_eq_true, decide_eq_true_eq, not_exists, not_and] at hany
    rw [← hnew hany]
    simp

section
variable {s : State} (hg : s.cur.grp < 4) (m : Nat)

theorem arrivesAtGroupBar_clusters : arrivesAtGroupBar s m = { s with clusters := (arrivesAtGroupBar s m).clusters } := rfl
include hg in
theorem arrivesAtGroupBar_grp : curGrp (arrivesAtGroupBar s m) =
    { curGrp s with cut := (clearCut (curGrp s)).cut, st := .waiting (.barrier false m) } := by
  have hcore : curGrp (modCore (modCur s clearCut) s.cur.cl (fun c => { c with bars := arriveGroup m s.cur.grp c.bars })) = clearCut (curGrp s) :=
    (getGrp_modCore (modCur s clearCut) s.cur.cl (fun _ => by rfl) s.cur.cl s.cur.grp).trans (curGrp_modCur hg _)
  refine (curGrp_modCur (s := modCore (modCur s clearCut) s.cur.cl _) hg _).trans ?_
  rw [hcore, clearCut_eq]
  rfl
include hg in
theorem arrivesAtGroupBar_ne {h : Nat} (hh : h < 4) (hne : h ≠ s.cur.grp) : getGrp (arrivesAtGroupBar s m) s.cur.cl h = getGrp s s.cur.cl h := by
  refine (getGrp_modGrp_ne _ _ hg hh (.inr hne)).trans ?_
  refine (getGrp_modCore (modCur s clearCut) s.cur.cl (fun _ => by rfl) s.cur.cl h).trans ?_
  exact getGrp_modGrp_ne _ _ hg hh (.inr hne)
theorem arrivesAtGroupBar_bars : (curCore (arrivesAtGroupBar s m)).bars = arriveGroup m s.cur.grp (curCore s).bars := by
  have hcore : curCore (modCore (modCur s clearCut) s.cur.cl (fun c => { c with bars := arriveGroup m s.cur.grp c.bars })) =
      { curCore (modCur s clearCut) with bars := arriveGroup m s.cur.grp (curCore (modCur s clearCut)).bars } :=
    congrArg Cluster.core (getCl_modCl_same (modCur s clearCut) _ _)
  rw [arrivesAtGroupBar, curCore_modCur, hcore, curCore_modCur]
theorem arrivesAtGroupBar_active : coreActive (arrivesAtGroupBar s m) s.cur.cl = coreActive s s.cur.cl := by
  unfold coreActive arrivesAtGroupBar modCur
  rw [spanAt_modGrp, spanAt_modCore, spanAt_modGrp]
end

theorem groupBarrier : GroupBarrier := by
  refine ⟨fun s m hg h hm hf => ⟨fun hp => ?_, fun hp => ?_⟩, fun s cl m h ha hf => ?_, fun s m hg hm hu => entersTrap_illegal hg hu ?_⟩
  · have hi := exec_barG hm hf
    rw [if_neg (by rw [hp]; decide)] at hi
    have hgrp := arrivesAtGroupBar_grp hg m.toNat
    have hgrp' : getGrp (arrivesAtGroupBar s m.toNat) s.cur.cl s.cur.grp = curGrp (arrivesAtGroupBar s m.toNat) := rfl
    refine ⟨_, hi, arrivesAtGroupBar_clusters _, by rw [hgrp], arrivesAtGroupBar_bars _, fun k hk hne => arrivesAtGroupBar_ne hg _ hk hne, fun ha hold hnew => ?_⟩
    have hfull : groupBarFull (getCl (arrivesAtGroupBar s m.toNat) s.cur.cl).core m.toNat = true := by
      rw [groupBarFull, decide_eq_true_eq, show (getCl (arrivesAtGroupBar s m.toNat) s.cur.cl).core = curCore (arrivesAtGroupBar s m.toNat) from rfl,
        arrivesAtGroupBar_bars]
      exact arriveGroup_full hold hnew
    have hok : (arrivesAtGroupBar s m.toNat).memOk := h
    have hdone := completeGroupBar_done hok s.cur.cl m.toNat
    have ⟨_, _, _, hready, _, _⟩ := hdone
    obtain ⟨hst, hpc⟩ := hready s.cur.cl (List.mem_singleton.mpr rfl) s.cur.grp hg (by rw [hgrp', hgrp])
    have hcur : (completeGroupBar (arrivesAtGroupBar s m.toNat) s.cur.cl m.toNat).cur = s.cur := by
      rw [completeGroupBar_eq]
      exact (flushAll_onlyReleased (fun w hw => (mem_arrivedAt (c := w.1) (h := w.2).mp hw).2.1)).1
    have hpc0 : (getGrp (arrivesAtGroupBar s m.toNat) s.cur.cl s.cur.grp).pc = (curGrp s).pc := by rw [hgrp', hgrp]
    refine ⟨_, exec_groupBarComplete ((arrivesAtGroupBar_active _).trans ha) hfull, ?_, hdone, ?_, ?_⟩
    · rw [curCore, hcur]; exact completeGroupBar_bars _ _ _
    · rw [curGrp, hcur]; exact hst
    · rw [curGrp, hcur, hpc, hpc0]
  · have hi := exec_barG hm hf
    rw [if_pos hp] at hi
    exact answers_passesCut hg hp hi
  · exact ⟨_, exec_groupBarComplete ha hf, completeGroupBar_bars s cl m, completeGroupBar_done h cl m⟩
  · show execBarG m s = _
    simp [execBarG, hm]

end Sys2Proof.Machine


namespace Sys2Proof.Machine
open Sys2Proof Sys2Proof.Claims

/-! Cluster barriers (R187, R202, R232, R234). -/

theorem spanAt_modSpan_same {s : State} {c sp : Nat} {x : Span} (h : spanAt s c = some (sp, x)) (f : Span → Span) :
    spanAt (modSpan s sp f) c = some (sp, f x) := by
  obtain ⟨hc, hx⟩ := getSpan_of_spanAt h
  exact spanAt_of_span hc (by rw [getSpan_modSpan_same, hx]; rfl)
/-- The clusters of a span see what is performed at its scope. -/
theorem span_sees {s : State} {sp : Nat} {x : Span} (h : ∀ k ∈ x.clusters, spanAt s k = some (sp, x)) :
    ∀ e ∈ x.clusters, ∀ c ∈ x.clusters, (instOf s e 1).sees c = true := by
  intro e he c hc
  rw [instOf, spanList, h e he]
  simp only [if_pos he]
  simp [scopeOf, Reach.sees, Reach.has, Agent.cluster, hc]

section
variable {s : State} {sp id : Nat} {x : Span} (hs : getSpan s sp = some x) (hnd : x.clusters.Nodup)
include hs hnd

/-- The state between the release of the waiters and their going on. -/
theorem completeClusterBar_eq : completeClusterBar s sp id = x.clusters.foldl (fun s c => wakeArrived s true id c)
    (modSpan (flushAll s 1 (arrivedAt s x.clusters true id)) sp (fun y => { y with bars := amDel y.bars id })) := by
  rw [completeClusterBar, hs, ← releaseWaiters_eq s 1 true id hnd]
  rfl
theorem completeClusterBar_span : getSpan (completeClusterBar s sp id) sp = some { x with bars := amDel x.bars id } := by
  have hspans : (completeClusterBar s sp id).spans =
      (modSpan (flushAll s 1 (arrivedAt s x.clusters true id)) sp (fun y => { y with bars := amDel y.bars id })).spans := by
    rw [completeClusterBar_eq hs hnd]
    exact foldl_keep (fun s c => wakeArrived s true id c) State.spans (fun _ _ => rfl) _ _
  have hflush : getSpan (flushAll s 1 (arrivedAt s x.clusters true id)) sp = some x := by
    rw [getSpan, (flushAll_onlyReleased (fun w hw => (mem_arrivedAt (c := w.1) (h := w.2).mp hw).2.1)).2.1]
    exact hs
  rw [getSpan, hspans, ← getSpan, getSpan_modSpan_same, hflush]
  rfl
theorem completeClusterBar_cur : (completeClusterBar s sp id).cur = s.cur := by
  rw [completeClusterBar_eq hs hnd, foldl_keep (fun s c => wakeArrived s true id c) State.cur (fun _ _ => rfl)]
  exact (flushAll_onlyReleased (fun w hw => (mem_arrivedAt (c := w.1) (h := w.2).mp hw).2.1)).1
theorem completeClusterBar_done (h : s.memOk) (hall : ∀ k ∈ x.clusters, spanAt s k = some (sp, x)) :
    BarrierDone s (completeClusterBar s sp id) x.clusters true id := by
  have hv : SameView (flushAll s 1 (arrivedAt s x.clusters true id)) (completeClusterBar s sp id) := by
    rw [completeClusterBar_eq hs hnd]
    refine .of_memParts ?_
    rw [foldl_memParts (fun t c => (show (wakeArrived t true id c).memParts = t.memParts by simp [wakeArrived])), modSpan_memParts]
  refine barrierDone_of h hnd (span_sees hall) hv (fun c g hg => ⟨now (modSpan (flushAll s 1 (arrivedAt s x.clusters true id)) sp (fun y => { y with bars := amDel y.bars id })) c, ?_⟩)
  rw [completeClusterBar_eq hs hnd, getGrp_foldl_wakeArrived hnd _ true id c hg]
  rfl
omit hnd in
theorem exec_clusterBarComplete {cl : Nat} (hcl : spanAt s cl = some (sp, x)) (hp : x.phase = .running) (hf : clusterBarFull x id = true) :
    exec (.barrierComplete cl id true) s = .next (completeClusterBar s sp id) := by
  show execBarrierComplete cl id true s = _
  simp [execBarrierComplete, coreActive, hcl, spanActive, hp, settleClusterBar, hs, hf]
end

/-- The arrival of the executing group's cluster, and its wait. -/
def arrivesAtClusterBar (s : State) (sp id : Nat) (b : Bar) : State :=
  modCur (modSpan (modCur s clearCut) sp (fun y => { y with bars := amPut y.bars id b })) (waitFor (.barrier true id))

section
variable {s : State} {a : BitVec 5} {id : BitVec 6} {sp n : Nat} {x : Span} (hs : spanAt s s.cur.cl = some (sp, x))
  (hn : n = (xget (curGrp s) a).toNat) (h1 : 1 ≤ n) (h2 : n ≤ x.clusters.length) (hf : clusterBarFull x id.toNat = false)
include hs hn h1 h2 hf

/-- BAR.C at a barrier that is not complete. -/
theorem execBarC_open : exec (.barC a id) s =
    if passesCut (curGrp s) then .next (skip (modCur s clearCut) 4)
    else match amGet x.bars id.toNat with
      | some b => if b.count ≠ n then .next (illegal s 8)
        else .next (arrivesAtClusterBar s sp id.toNat (if s.cur.cl ∈ b.arrived then b else { b with arrived := b.arrived ++ [s.cur.cl] }))
      | none => .next (arrivesAtClusterBar s sp id.toNat ⟨n, [s.cur.cl]⟩) := by
  show execBarC a id s = _
  have hx := (getSpan_of_spanAt hs).2
  have hsettle : settleClusterBar s sp id.toNat = s := by simp [settleClusterBar, hx, hf]
  rw [execBarC]
  simp only [hs, ← hn, if_neg (show ¬(n = 0 ∨ x.clusters.length < n) by omega), hsettle, hx, Option.map_some, Option.getD_some]
  rfl
end

section
variable {s : State} {sp id : Nat} {b : Bar} {x : Span}

theorem arrivesAtClusterBar_grp (hg : s.cur.grp < 4) : curGrp (arrivesAtClusterBar s sp id b) =
    { curGrp s with cut := (clearCut (curGrp s)).cut, st := .waiting (.barrier true id) } := by
  have hspan : curGrp (modSpan (modCur s clearCut) sp (fun y => { y with bars := amPut y.bars id b })) = clearCut (curGrp s) := curGrp_modCur hg _
  refine (curGrp_modCur (s := modSpan (modCur s clearCut) sp _) hg _).trans ?_
  rw [hspan, clearCut_eq]
  rfl
theorem arrivesAtClusterBar_view : (arrivesAtClusterBar s sp id b).memParts = s.memParts := by
  simp [arrivesAtClusterBar]
theorem arrivesAtClusterBar_spanAt {k : Nat} (h : spanAt s k = some (sp, x)) :
    spanAt (arrivesAtClusterBar s sp id b) k = some (sp, { x with bars := amPut x.bars id b }) := by
  unfold arrivesAtClusterBar modCur
  rw [spanAt_modGrp]
  exact spanAt_modSpan_same ((spanAt_modGrp s _ _ _ k).trans h) _
end

theorem clusterBarFull_amPut {x : Span} {id : Nat} {b : Bar} (h : b.count ≤ b.arrived.length) :
    clusterBarFull { x with bars := amPut x.bars id b } id = true := by
  simp [clusterBarFull, h]
theorem clusterBarFull_of {x : Span} {id n : Nat} {old : List Nat}
    (h : amGet x.bars id = none ∧ old = [] ∨ amGet x.bars id = some ⟨n, old⟩ ∧ old.length < n) : clusterBarFull x id = false := by
  obtain ⟨h, _⟩ | ⟨h, hlt⟩ := h
  · simp [clusterBarFull, h]
  · simp [clusterBarFull, h, hlt]

theorem clusterBarrier : ClusterBarrier := by
  refine ⟨fun s a id sp x n old hg h hall hnd hc hn h1 h2 hold => ?_, fun s cl id sp x h hall hnd hc hp hf => ?_⟩
  · have hs := hall _ hc
    have hopen := execBarC_open hs hn h1 h2 (clusterBarFull_of hold)
    refine ⟨fun hpc => ?_, fun hpc => ?_, fun b hpc hne hlt hu => ?_⟩
    · have hi : exec (.barC a id) s = .next (arrivesAtClusterBar s sp id.toNat ⟨n, if s.cur.cl ∈ old then old else old ++ [s.cur.cl]⟩) := by
        rw [hopen, hpc, if_neg Bool.false_ne_true]
        obtain ⟨hx, rfl⟩ | ⟨hx, _⟩ := hold
        · rw [hx]; rfl
        · rw [hx]
          simp only [ne_eq, not_true_eq_false, if_false]
          split <;> rfl
      generalize hb : (⟨n, if s.cur.cl ∈ old then old else old ++ [s.cur.cl]⟩ : Bar) = b at hi
      have hgrp := arrivesAtClusterBar_grp (sp := sp) (id := id.toNat) (b := b) hg
      have hparts := arrivesAtClusterBar_view (s := s) (sp := sp) (id := id.toNat) (b := b)
      have hall' := fun k hk => arrivesAtClusterBar_spanAt (id := id.toNat) (b := b) (hall k hk)
      have hspan := (getSpan_of_spanAt (hall' _ hc)).2
      refine ⟨_, _, hi, by rw [hgrp], congrArg Prod.fst hparts, congrArg (fun m => m.2.1) hparts, hspan, by rw [← hb], fun hnew hlen hp => ?_⟩
      have hfull : clusterBarFull { x with bars := amPut x.bars id.toNat b } id.toNat = true :=
        clusterBarFull_amPut (by rw [← hb, if_neg hnew]; simp [hlen])
      have hok : (arrivesAtClusterBar s sp id.toNat b).memOk := by rw [memOk_iff, hparts]; exact h
      have hdone := completeClusterBar_done (id := id.toNat) hspan hnd hok hall'
      have hst : (getGrp (arrivesAtClusterBar s sp id.toNat b) s.cur.cl s.cur.grp).st = .waiting (.barrier true id.toNat) :=
        congrArg Group.st hgrp
      have hpc0 : (getGrp (arrivesAtClusterBar s sp id.toNat b) s.cur.cl s.cur.grp).pc = (curGrp s).pc := (congrArg Group.pc hgrp).trans rfl
      have ⟨_, _, _, hready, _, _⟩ := hdone
      obtain ⟨hst', hpc'⟩ := hready s.cur.cl hc s.cur.grp hg hst
      have hcur : (completeClusterBar (arrivesAtClusterBar s sp id.toNat b) sp id.toNat).cur = s.cur := completeClusterBar_cur hspan hnd
      refine ⟨_, exec_clusterBarComplete hspan (hall' _ hc) hp hfull, hdone, ?_, ?_⟩
      · rw [curGrp, hcur]; exact hst'
      · rw [curGrp, hcur, hpc', hpc0]
    · rw [hpc, if_pos rfl] at hopen
      exact answers_passesCut hg hpc hopen
    · have hfull : clusterBarFull { x with bars := amPut x.bars id.toNat b } id.toNat = false := by
        simp [clusterBarFull, hlt]
      have hi := execBarC_open (s := modSpan s sp (fun y => { y with bars := amPut y.bars id.toNat b })) (a := a)
        (spanAt_modSpan_same hs _) hn h1 h2 hfull
      refine entersTrap_illegal (s := modSpan s sp (fun y => { y with bars := amPut y.bars id.toNat b })) hg hu ?_
      have hpc' : passesCut (curGrp (modSpan s sp (fun y => { y with bars := amPut y.bars id.toNat b }))) = false := hpc
      rw [hi, hpc', if_neg Bool.false_ne_true, amGet_amPut_same]
      exact if_pos hne
  · have hs := (getSpan_of_spanAt (hall _ hc)).2
    exact ⟨_, _, exec_clusterBarComplete hs (hall _ hc) hp hf, completeClusterBar_done hs hnd h hall, completeClusterBar_span hs hnd,
      amGet_amDel_same _ _⟩

/-- Settles O39: the waiters of a barrier release one after the other, and then go on. -/
theorem barriers : Obligations.Barriers := ⟨groupBarrier, clusterBarrier⟩

end Sys2Proof.Machine


namespace Sys2Proof.Machine
open Sys2Proof Sys2Proof.Claims

/-! Reads of the executing group's blocks (R180 to R185, R224): they change no byte that the cluster sees. -/

theorem touchRead_counts (s : State) (cl : Nat) (pas : List Nat) : sameButCounts s (touchRead s cl pas) :=
  foldl_inv (fun s pa => l2Read s cl pa) (sameButCounts s) (fun t pa h => sameButCounts_trans h (l2Read_counts t cl pa)) pas (sameButCounts_refl s)
/-- At package scope or wider the chosen stores leave the list of narrow ones. -/
theorem mem_near_widen_wide {s : State} {sel : Near → Bool} {r : Reach} (hr : r.wide = true) {x : Near} (hx : x ∈ (widen s sel r).near) :
    x ∈ s.near ∧ sel x = false := by
  unfold widen at hx
  split at hx
  · rw [foldl_placeNear_near] at hx
    obtain ⟨hx, hxw⟩ := List.mem_filter.mp hx
    obtain ⟨n, hn, ⟨hs, rfl⟩ | ⟨_, k, rfl⟩⟩ := mem_widenList hx
    · exact ⟨hn, hs⟩
    · simp [Reach.foldl_join.1 (Reach.join_wide_right hr)] at hxw
  · next hnone => exact ⟨hx, by simpa using fun h => hnone (List.any_eq_true.mpr ⟨x, hx, h⟩)⟩
theorem widen_of_unchosen {s : State} {sel : Near → Bool} (h : ∀ x ∈ s.near, sel x = false) (r : Reach) : widen s sel r = s :=
  if_neg (by simpa using h)
/-- After a release at package scope or wider the cluster sees no store outside memory. -/
theorem releaseCur_unseen (s : State) {sc : Nat} (hsc : 3 ≤ sc) : ∀ x ∈ (releaseCur s sc).near, x.reach.sees s.cur.cl = false := by
  intro x hx
  rw [releaseCur, flushGrp_eq, (sameView_performSeen s.cur.cl _).2] at hx
  exact (mem_near_widen_wide (instOf_wide s s.cur.cl hsc) hx).2
theorem l2Read_memParts {s : State} {cl : Nat} (h : ∀ x ∈ s.near, x.reach.sees cl = false) (pa : Nat) : (l2Read s cl pa).memParts = s.memParts := by
  have hnear : (l2Touch s cl pa).near = s.near := (sameView_l2Touch s cl pa).2
  rw [l2Read, performRead, widen_of_unchosen (fun x hx => by simp [inGrans, h x (hnear ▸ hx)])]
  simp
theorem touchRead_memParts {s : State} {cl : Nat} (h : ∀ x ∈ s.near, x.reach.sees cl = false) (pas : List Nat) :
    (touchRead s cl pas).memParts = s.memParts := by
  refine foldl_inv (fun s pa => l2Read s cl pa) (fun t => t.memParts = s.memParts) (fun t pa ht => ?_) pas rfl
  refine (l2Read_memParts (fun x hx => h x ?_) pa).trans ht
  rwa [← show t.near = s.near from congrArg (fun m => m.2.1) ht]
/-- In the granules that are read the cluster sees what memory holds. -/
theorem byte_performRead {s : State} (h : s.memOk) (cl pa n : Nat) {a : Nat} (hg : InGranules pa n a) :
    (performRead s cl pa n .package).byte a = s.seen cl a := by
  have hwiden : performRead s cl pa n .package = widen s (inGrans cl pa n) .package := by
    rw [performRead]
    exact if_neg (by decide)
  rw [← seen_performRead cl pa n .package h a, hwiden]
  refine (foldl_underByte_of_not (p := fun r => r.sees cl) (fun x hx hc => ?_) _).symm
  obtain ⟨_, hsel⟩ := mem_near_widen_wide rfl hx
  have hgran : x.pa / 16 = a / 16 := by
    by_contra hne
    rw [Near.covers_granule ((widen_ok _ _ h).2.2 x hx).2 hne] at hc
    cases hc
  simpa [inGrans, (nearIn_of_granule hgran).2 hg] using hsel
/-- A read of a cluster leaves what the cluster sees as it was. -/
theorem seen_l2Read {s : State} (h : s.memOk) (cl pa a : Nat) : (l2Read s cl pa).seen cl a = s.seen cl a :=
  (seen_performRead cl pa 1 .package (l2Touch_ok cl pa h) a).trans ((sameView_l2Touch s cl pa).seen cl a)
theorem seen_touchRead {s : State} (h : s.memOk) (cl : Nat) (pas : List Nat) (a : Nat) : (touchRead s cl pas).seen cl a = s.seen cl a :=
  (foldl_inv (fun s pa => l2Read s cl pa) (fun t => t.memOk ∧ t.seen cl a = s.seen cl a)
    (fun _ pa ht => ⟨l2Read_ok cl pa ht.1, (seen_l2Read ht.1 cl pa a).trans ht.2⟩) pas ⟨h, rfl⟩).2

/-! What a release leaves of memory is said by memory and the stores alone. -/

section
variable {s t : State} (h : s.memParts = t.memParts)
include h

theorem packWrite_congr (pa : Nat) (bs : List Byte) : (packWrite s pa bs).memParts = (packWrite t pa bs).memParts := by
  simp only [State.memParts, Prod.mk.injEq] at h ⊢
  obtain ⟨hm, hn, hl⟩ := h
  unfold packWrite putBytes
  split <;> simp only [hm, hn, hl, and_self]
theorem systemWrite_congr (pa : Nat) (bs : List Byte) : (systemWrite s pa bs).memParts = (systemWrite t pa bs).memParts := by
  simp only [State.memParts, Prod.mk.injEq] at h ⊢
  obtain ⟨hm, hn, hl⟩ := h
  unfold systemWrite putBytes showHost
  split <;> simp only [hm, hn, hl, and_self]
theorem placeNear_congr (n : Near) : (placeNear s n).memParts = (placeNear t n).memParts := by
  unfold placeNear
  split
  · exact packWrite_congr (s := dirOnly s _ _) (t := dirOnly t _ _) h _ _
  · exact systemWrite_congr (s := dirOnly s _ _) (t := dirOnly t _ _) h _ _
  · simp only [State.memParts, Prod.mk.injEq] at h ⊢
    obtain ⟨hm, hn, hl⟩ := h
    simp only [hm, hn, hl, and_self]
omit h in
theorem foldl_placeNear_congr (l : List Near) {s t : State} (h : s.memParts = t.memParts) :
    (l.foldl placeNear s).memParts = (l.foldl placeNear t).memParts := by
  induction l generalizing s t with
  | nil => exact h
  | cons n l ih => exact ih (placeNear_congr h n)
theorem widen_congr (sel : Near → Bool) (r : Reach) : (widen s sel r).memParts = (widen t sel r).memParts := by
  have hn : s.near = t.near := congrArg (fun m => m.2.1) h
  unfold widen
  rw [hn]
  split
  · refine foldl_placeNear_congr _ ?_
    simp only [State.memParts, Prod.mk.injEq] at h ⊢
    exact ⟨h.1, trivial, h.2.2⟩
  · exact h
theorem l2At_congr (cl : Nat) (r : Reach) (via : Via) (pa : Nat) (bs : List Byte) : (l2At s cl r via pa bs).memParts = (l2At t cl r via pa bs).memParts := by
  have htake : (l2Take s cl pa).memParts = (l2Take t cl pa).memParts := by simpa [l2Take] using h
  rw [l2At, l2At, performAt_eq, performAt_eq]
  have hreach : storeReach (l2Take s cl pa) cl r pa bs = storeReach (l2Take t cl pa) cl r pa bs := by
    rw [storeReach, storeReach, show (l2Take s cl pa).near = (l2Take t cl pa).near from congrArg (fun m => m.2.1) htake]
  rw [hreach]
  exact placeNear_congr (widen_congr htake _ _) _
omit h in
theorem performAll_congr (ps : List PStore) {s t : State} (h : s.memParts = t.memParts) (cl : Nat) (r : Reach) (hi : ∀ k, instOf s cl k = instOf t cl k) :
    (performAll s cl r ps).memParts = (performAll t cl r ps).memParts := by
  induction ps generalizing s t with
  | nil => exact h
  | cons p ps ih =>
    simp only [performAll, hi p.via.sc]
    refine ih (l2At_congr h _ _ _ _ _) (fun k => ?_)
    rw [instOf_counts (l2At_counts s cl _ _ _ _), instOf_counts (l2At_counts t cl _ _ _ _), hi]
theorem performSeen_congr (cl : Nat) (r : Reach) : (performSeen s cl r).memParts = (performSeen t cl r).memParts := by
  have hw := widen_congr h (fun x => x.reach.sees cl) r
  unfold performSeen
  simp only
  split
  · simp only [State.memParts, Prod.mk.injEq] at hw ⊢
    exact ⟨hw.1, hw.2.1, rfl⟩
  · exact hw
theorem flushGrp_congr (cl g sc : Nat) (hst : (getGrp s cl g).stores = (getGrp t cl g).stores) (hi : ∀ k, instOf s cl k = instOf t cl k) :
    (flushGrp s cl g sc).memParts = (flushGrp t cl g sc).memParts := by
  rw [flushGrp_eq, flushGrp_eq, hi sc]
  refine performSeen_congr ?_ cl _
  rw [storesPerformed, storesPerformed, modGrp_memParts, modGrp_memParts, hst, hi sc]
  exact performAll_congr _ h cl _ hi
end

end Sys2Proof.Machine


namespace Sys2Proof.Machine
open Sys2Proof Sys2Proof.Claims

/-! The pool of launch records, and LAUNCH and WAITG (R184 to R186). -/

theorem getPart_modPart_same (s : State) (p : Nat) (f : Partition → Partition) : getPart (modPart s p f) p = f (getPart s p) :=
  amGetD_amPut_same _ _ _ _
theorem getPart_of_hub {s t : State} (h : t.hub = { s.hub with dctr := t.hub.dctr }) (p : Nat) : getPart t p = getPart s p := by
  rw [getPart, h]
  rfl
theorem partOfCl_of_spanAt {s t : State} {c : Nat} (h : spanAt t c = spanAt s c) : partOfCl t c = partOfCl s c := by rw [partOfCl, h]; rfl

/-- Entries that differ in the cycle since which they wait as a head. -/
def SameEntry (e f : PoolEntry) : Prop := f = { e with since := f.since }
theorem rehead_pool (t : Nat) (P : Partition) : ∃ f : PoolEntry → PoolEntry, (∀ e, SameEntry e (f e)) ∧ rehead t P = { P with pool := P.pool.map f } := by
  unfold rehead
  split
  · exact ⟨id, fun _ => rfl, by rw [List.map_id]⟩
  · refine ⟨_, fun e => ?_, rfl⟩
    unfold SameEntry
    split
    · rfl
    · split <;> rfl
theorem refillPool_empty (n : Nat) {P : Partition} (h : P.spill = []) : refillPool n P = P := by
  cases n with
  | zero => rfl
  | succ n => rw [refillPool, h]
/-- What stands in the pool after it is refilled stood there, or in the spill queue. -/
theorem refillPool_handles (n : Nat) {P : Partition} {k : Nat} (hp : ∀ f ∈ P.pool, f.handle ≠ k) (hq : ∀ f ∈ P.spill, f.handle ≠ k) :
    ∀ f ∈ (refillPool n P).pool, f.handle ≠ k := by
  induction n generalizing P with
  | zero => exact hp
  | succ n ih =>
    rw [refillPool]
    split
    · exact hp
    · next x rest hs =>
      split
      · refine ih (fun f hf => ?_) (fun f hf => hq f (hs ▸ .tail _ hf))
        rcases List.mem_append.mp hf with hf | hf
        · exact hp f hf
        · rw [List.mem_singleton.mp hf]
          exact hq x (hs ▸ .head _)
      · exact hp
theorem settlePool_part (s : State) (p : Nat) : getPart (settlePool s p) p = rehead (hubNow s) (refillPool 256 (getPart s p)) :=
  getPart_modPart_same s p _
theorem settlePool_handles {s : State} {p k : Nat} (hp : ∀ f ∈ (getPart s p).pool, f.handle ≠ k) (hq : ∀ f ∈ (getPart s p).spill, f.handle ≠ k) :
    ∀ f ∈ (getPart (settlePool s p) p).pool, f.handle ≠ k := by
  intro f hf
  obtain ⟨m, hm, hr⟩ := rehead_pool (hubNow s) (refillPool 256 (getPart s p))
  rw [settlePool_part, hr] at hf
  obtain ⟨e, he, rfl⟩ := List.mem_map.mp hf
  rw [hm e]
  exact refillPool_handles 256 hp hq e he

/-- A record comes into the pool, under the partition's next handle. -/
def enqueued (s : State) (part : Nat) (det : Bool) (r : LRecord) (asid : Nat) (by_ : Option (Nat × Nat)) : State :=
  settlePool (modPart s part (fun x => { x with
    lastHandle := (getPart s part).lastHandle + 1, nextOrder := x.nextOrder + 1
    pool := x.pool ++ [⟨(getPart s part).lastHandle + 1, det, r, asid, 0, 0#64, none, x.nextOrder, by_⟩] })) part

theorem enqueued_part {s : State} {part : Nat} (h : (getPart s part).spill = []) (det : Bool) (r : LRecord) (asid : Nat) (by_ : Option (Nat × Nat)) :
    (getPart (enqueued s part det r asid by_) part).lastHandle = (getPart s part).lastHandle + 1 ∧
    (getPart (enqueued s part det r asid by_) part).pool.length = (getPart s part).pool.length + 1 ∧
    ∃ e ∈ (getPart (enqueued s part det r asid by_) part).pool, SameEntry ⟨(getPart s part).lastHandle + 1, det, r, asid, 0, 0#64, none,
      (getPart s part).nextOrder, by_⟩ e := by
  rw [enqueued, settlePool_part, getPart_modPart_same, refillPool_empty]
  · obtain ⟨m, hm, hr⟩ := rehead_pool (hubNow (modPart s part (fun x => { x with
      lastHandle := (getPart s part).lastHandle + 1, nextOrder := x.nextOrder + 1
      pool := x.pool ++ [⟨(getPart s part).lastHandle + 1, det, r, asid, 0, 0#64, none, x.nextOrder, by_⟩] }))) { getPart s part with
      lastHandle := (getPart s part).lastHandle + 1, nextOrder := (getPart s part).nextOrder + 1
      pool := (getPart s part).pool ++ [⟨(getPart s part).lastHandle + 1, det, r, asid, 0, 0#64, none, (getPart s part).nextOrder, by_⟩] }
    rw [hr]
    exact ⟨rfl, by simp, _, List.mem_map_of_mem (List.mem_append_right _ (.head _)), hm _⟩
  · exact h

/-- The state in which an instruction has released its group's stores at a scope and read a block. -/
def blockRead (s : State) (sc : Nat) (pas : List Nat) : State := touchRead (releaseCur s sc) s.cur.cl pas

section
variable {s : State} {sc : Nat} (hg : s.cur.grp < 4) (pas : List Nat)

theorem blockRead_cur : (blockRead s sc pas).cur = s.cur := (touchRead_counts _ _ _).1.trans (releaseCur_cur s sc)
theorem grp_blockRead (hg : s.cur.grp < 4) : (blockRead s sc pas).cur.grp < 4 := by rw [blockRead_cur]; exact hg
include hg
theorem blockRead_grp : curGrp (blockRead s sc pas) = { curGrp s with stores := [] } := by
  rw [curGrp, blockRead_cur, blockRead, sameButCounts_grp (touchRead_counts _ _ _)]
  exact flushGrp_grp s s.cur.cl sc hg
theorem blockRead_hub : (blockRead s sc pas).hub = { s.hub with dctr := (blockRead s sc pas).hub.dctr } := by
  obtain ⟨_, _, _, _, _, _, _, hhub, _⟩ := touchRead_counts (releaseCur s sc) s.cur.cl pas
  have hrel : (releaseCur s sc).hub = { s.hub with dctr := (releaseCur s sc).hub.dctr } := (flushGrp_units s s.cur.cl sc hg).2.2.2.1
  rw [blockRead, hhub, hrel]
theorem blockRead_spans : (blockRead s sc pas).spans = s.spans := (touchRead_counts _ _ _).2.1.trans (spans_releaseCur s sc hg)
theorem blockRead_cl (c : Nat) : getCl (blockRead s sc pas) c = { getCl s c with
    core := { (getCl s c).core with grp := (getCl (blockRead s sc pas) c).core.grp }, counters := (getCl (blockRead s sc pas) c).counters } := by
  obtain ⟨_, _, _, _, _, _, _, _, hcl⟩ := touchRead_counts (releaseCur s sc) s.cur.cl pas
  rw [blockRead, hcl c, getCl_releaseCur s sc hg c]
theorem blockRead_spanAt (c : Nat) : spanAt (blockRead s sc pas) c = spanAt s c := by
  unfold spanAt getSpan
  rw [blockRead_cl hg pas c, blockRead_spans hg pas]
/-- The block that `Reads` says is read. -/
theorem reads_blockRead {n va : Nat} {bs : List Byte} (h : Reads (releaseCur s sc) n va bs) :
    ∃ pas, vaWords (releaseCur s sc) s.cur.cl (curGrp s).asid 1 n va = .ok pas ∧ bs = wordsRead (blockRead s sc pas) pas := by
  obtain ⟨pas, hw, hbs⟩ := h
  rw [releaseCur_cur, curGrp_releaseCur sc hg] at hw
  rw [releaseCur_cur] at hbs
  exact ⟨pas, hw, hbs⟩
omit hg in
theorem blockRead_memParts (h : 3 ≤ sc) : (blockRead s sc pas).memParts = (releaseCur s sc).memParts :=
  touchRead_memParts (releaseCur_unseen s h) pas
end

/-- The record that LAUNCH makes of the bytes it has read. -/
def launchRecord (s : State) (bs : List Byte) : LRecord := { recOf bs with cls := min (recOf bs).cls (curCore s).maxc }
theorem exec_launch {s : State} {d a : BitVec 5} {q p : BitVec 1} {pas : List Nat} (hg : s.cur.grp < 4)
    (hal : (xget (curGrp s) a).toNat % 2 ^ 52 % 32 = 0) (hw : vaWords (releaseCur s 3) s.cur.cl (curGrp s).asid 1 8 ((xget (curGrp s) a).toNat % 2 ^ 52) = .ok pas)
    (hok : recOk (wordsRead (blockRead s 3 pas) pas) = true) (hsp : (getPart s (partOfCl s s.cur.cl)).spill = [])
    (hroom : (getPart s (partOfCl s s.cur.cl)).pool.length < 240) :
    exec (.launch d a q p) s = .next (finish (enqueued (blockRead s 3 pas) (partOfCl s s.cur.cl) (decide (q = 1#1))
      (launchRecord s (wordsRead (blockRead s 3 pas) pas)) (curGrp s).asid (launcherOf (blockRead s 3 pas) s.cur.cl)) 4 d
      (BitVec.ofNat 64 (if decide (q = 1#1) then 0 else (getPart s (partOfCl s s.cur.cl)).lastHandle + 1))) := by
  have hpart : partOfCl (blockRead s 3 pas) s.cur.cl = partOfCl s s.cur.cl := partOfCl_of_spanAt (blockRead_spanAt hg pas _)
  have hP := getPart_of_hub (blockRead_hub (sc := 3) hg pas) (partOfCl s s.cur.cl)
  have hmax : (getCl (blockRead s 3 pas) s.cur.cl).core.maxc = (curCore s).maxc := by rw [blockRead_cl hg pas]; rfl
  show execLaunch d a q p s = _
  rw [execLaunch]
  simp only [hal, ne_eq, not_true_eq_false, if_false, hw]
  rw [show touchRead (releaseCur s 3) s.cur.cl pas = blockRead s 3 pas from rfl, hok, hpart, hP, hmax]
  simp only [Bool.not_true, Bool.false_eq_true, if_false]
  rw [if_pos (.inl ⟨hsp, by rw [poolFree]; omega⟩), enqueued, hP]
  rfl

theorem curGrp_enqueued (s : State) (part : Nat) (det : Bool) (r : LRecord) (asid : Nat) (by_ : Option (Nat × Nat)) :
    curGrp (enqueued s part det r asid by_) = curGrp s := rfl

theorem launch_answers {s : State} {d a : BitVec 5} {q p : BitVec 1} {bs : List Byte} {P : Partition} (hg : s.cur.grp < 4)
    (hP : P = getPart s (partOfCl s s.cur.cl)) (hal : (xget (curGrp s) a).toNat % 2 ^ 52 % 32 = 0)
    (hr : Reads (releaseCur s 3) 8 ((xget (curGrp s) a).toNat % 2 ^ 52) bs) (hok : recOk bs = true) (hsp : P.spill = []) (hroom : P.pool.length < 240) :
    Answers (.launch d a q p) s d (if q = 1#1 then 0#64 else BitVec.ofNat 64 (P.lastHandle + 1)) (fun t =>
      (curGrp t).stores = [] ∧ t.mem = (releaseCur s 3).mem ∧ t.near = (releaseCur s 3).near ∧
      (getPart t (partOfCl s s.cur.cl)).lastHandle = P.lastHandle + 1 ∧ (getPart t (partOfCl s s.cur.cl)).pool.length = P.pool.length + 1 ∧
      ∃ e ∈ (getPart t (partOfCl s s.cur.cl)).pool, e.handle = P.lastHandle + 1 ∧ e.st = 0 ∧ e.asid = (curGrp s).asid ∧
        e.detached = decide (q = 1#1) ∧ e.record = { recOf bs with cls := min (recOf bs).cls (curCore s).maxc }) := by
  subst hP
  obtain ⟨pas, hw, rfl⟩ := reads_blockRead hg hr
  have hi := exec_launch (d := d) (q := q) (p := p) hg hal hw hok hsp hroom
  have hval : BitVec.ofNat 64 (if decide (q = 1#1) then 0 else (getPart s (partOfCl s s.cur.cl)).lastHandle + 1) =
      if q = 1#1 then 0#64 else BitVec.ofNat 64 ((getPart s (partOfCl s s.cur.cl)).lastHandle + 1) := by
    by_cases hq : q = 1#1 <;> simp [hq]
  rw [hval] at hi
  have hgrp := blockRead_grp (sc := 3) hg pas
  have hg1 : (enqueued (blockRead s 3 pas) (partOfCl s s.cur.cl) (decide (q = 1#1)) (launchRecord s (wordsRead (blockRead s 3 pas) pas))
    (curGrp s).asid (launcherOf (blockRead s 3 pas) s.cur.cl)).cur.grp < 4 := grp_blockRead (sc := 3) pas hg
  have hpart := getPart_of_hub (blockRead_hub (sc := 3) hg pas) (partOfCl s s.cur.cl)
  obtain ⟨hlast, hlen, e, he, hsame⟩ := enqueued_part (s := blockRead s 3 pas) (part := partOfCl s s.cur.cl) (by rw [hpart]; exact hsp)
    (decide (q = 1#1)) (launchRecord s (wordsRead (blockRead s 3 pas) pas)) (curGrp s).asid (launcherOf (blockRead s 3 pas) s.cur.cl)
  rw [hpart] at hlast hlen hsame
  have hmem := blockRead_memParts (s := s) (sc := 3) pas (by decide)
  refine answers_finish hg1 hi (by rw [curGrp_enqueued, hgrp]) (by rw [curGrp_enqueued, hgrp])
    ⟨?_, congrArg Prod.fst hmem, congrArg (fun m => m.2.1) hmem, hlast, hlen, e, he, ?_⟩
  · rw [curGrp_finish hg1, xset_eq, curGrp_enqueued, hgrp]
    rfl
  · rw [hsame]
    exact ⟨rfl, rfl, rfl, rfl, rfl⟩

/-! WAITG. -/

/-- The entry of a handle is retired. -/
def retired (s : State) (part h : Nat) : State :=
  settlePool (modPart s part (fun x => { x with pool := x.pool.filter (fun e => decide (e.handle ≠ h)) })) part
theorem retired_handles {s : State} {part h : Nat} (hq : ∀ f ∈ (getPart s part).spill, f.handle ≠ h) :
    ∀ f ∈ (getPart (retired s part h) part).pool, f.handle ≠ h := by
  refine settlePool_handles (fun f hf => ?_) (fun f hf => ?_)
  · rw [getPart_modPart_same] at hf
    simpa using (List.mem_filter.mp hf).2
  · rw [getPart_modPart_same] at hf
    exact hq f hf
/-- An acquire after a change of the partitions alone leaves memory as without it. -/
theorem acquireCur_modHub (s : State) (f : Hub → Hub) (sc : Nat) : (acquireCur (modHub s f) sc).memParts = (acquireCur s sc).memParts :=
  flushGrp_congr (s := modHub s f) (t := s) rfl s.cur.cl s.cur.grp sc rfl (fun _ => rfl)

section
variable {s : State} {d a : BitVec 5} {P : Partition} (hP : P = getPart s (partOfCl s s.cur.cl))
include hP

theorem exec_waitg_found {e : PoolEntry} (he : e ∈ P.pool) (hh : e.handle = (xget (curGrp s) a).toNat) (hne : e.handle ≠ 0) (hd : e.detached = false)
    (hu : ∀ f ∈ P.pool, f.handle = e.handle → f = e) : exec (.waitg d a) s =
      if e.st = 2 then .next (finish (acquireCur (retired s (partOfCl s s.cur.cl) e.handle) 3) 4 d e.status)
      else .next (modCur s (waitFor (.waitg e.handle))) := by
  have hfind : P.pool.find? (fun f => decide (f.handle = e.handle) && !f.detached) = some e := by
    obtain ⟨f, hf⟩ : ∃ f, P.pool.find? (fun f => decide (f.handle = e.handle) && !f.detached) = some f :=
      Option.isSome_iff_exists.mp (List.find?_isSome.mpr ⟨e, he, by simp [hd]⟩)
    have hp := List.find?_some hf
    simp only [Bool.and_eq_true, decide_eq_true_eq] at hp
    rw [hf, hu f (List.mem_of_find?_eq_some hf) hp.1]
  show execWaitg d a s = _
  unfold execWaitg
  simp only [← hh, ← hP, hfind, if_neg hne]
  rfl
theorem exec_waitg_unknown (hpool : ∀ e ∈ P.pool, e.handle = (xget (curGrp s) a).toNat → e.detached = true)
    (hspill : ∀ e ∈ P.spill, e.handle = (xget (curGrp s) a).toNat → e.detached = true) : exec (.waitg d a) s = .next (illegal s 7) := by
  have hfind : P.pool.find? (fun f => decide (f.handle = (xget (curGrp s) a).toNat) && !f.detached) = none := by
    rw [List.find?_eq_none]
    intro f hf
    simpa using hpool f hf
  have hany : P.spill.any (fun f => decide (f.handle = (xget (curGrp s) a).toNat) && !f.detached) = false := by
    rw [List.any_eq_false]
    intro f hf
    simpa using hspill f hf
  show execWaitg d a s = _
  unfold execWaitg
  simp only [← hP, hfind, hany, Bool.false_eq_true, if_false, ite_self]
end

theorem launchAndWait : LaunchAndWait := by
  intro s d a q p bs P hg hP hlast
  refine ⟨fun hal hr hok hsp hroom => ⟨fun h0 => ?_, launch_answers hg hP hal hr hok hsp hroom⟩, fun e he hh hne hd hu => ?_, fun hpool hspill hm => ?_⟩
  · have := congrArg BitVec.toNat h0
    rw [BitVec.toNat_ofNat, Nat.mod_eq_of_lt hlast] at this
    exact Nat.succ_ne_zero _ this
  · have hi := exec_waitg_found (d := d) hP he hh hne hd hu
    refine ⟨fun hst => ?_, fun hst => ?_⟩
    · rw [if_pos hst] at hi
      have hg1 : (retired s (partOfCl s s.cur.cl) e.handle).cur.grp < 4 := hg
      refine answers_finish (grp_releaseCur 3 hg1) hi (x_releaseCur 3 hg1) (pc_releaseCur 3 hg1) ⟨fun hspill => ?_, ?_⟩
      · have hpart : getPart (finish (releaseCur (retired s (partOfCl s s.cur.cl) e.handle) 3) 4 d e.status) (partOfCl s s.cur.cl) =
            getPart (retired s (partOfCl s s.cur.cl) e.handle) (partOfCl s s.cur.cl) :=
          getPart_of_hub (flushGrp_units (retired s (partOfCl s s.cur.cl) e.handle) s.cur.cl 3 hg).2.2.2.1 _
        rw [hpart]
        exact retired_handles (hP ▸ hspill)
      · exact congrArg Prod.fst ((acquireCur_modHub _ _ 3).trans (acquireCur_modHub s _ 3))
    · rw [if_neg hst] at hi
      exact waits_waitFor hg hi rfl rfl (onlyGroup_modCur s _)
  · exact entersTrap_illegal hg hm (exec_waitg_unknown hP hpool hspill)

end Sys2Proof.Machine


namespace Sys2Proof.Machine
open Sys2Proof Sys2Proof.Claims

/-! The end of a launch touches no group but those of its span (R186, R197). -/

theorem getGrp_setPend (s : State) (cl bit c g : Nat) : getGrp (setPend s cl bit) c g = getGrp s c g := getGrp_modCore s cl (fun _ => by rfl) c g
theorem getGrp_tellLauncher (s : State) (part : Nat) (l : Option (Nat × Nat)) (c g : Nat) : getGrp (tellLauncher s part l) c g = getGrp s c g := by
  unfold tellLauncher tellCore
  split
  · rfl
  · split
    · split
      · rfl
      · exact getGrp_setPend s _ _ c g
    · rfl
theorem getGrp_endPool (s : State) (part order : Nat) (st : W64) (c g : Nat) : getGrp (endPool s part order st) c g = getGrp s c g := by
  unfold endPool
  split
  · rfl
  · exact getGrp_tellLauncher _ part _ c g
theorem publishWords_same (l : List Nat) (s : State) (bs : List Byte) : sameButMem s (publishWords s l bs) := by
  induction l generalizing s bs with
  | nil => exact sameButMem_refl s
  | cons pa l ih => exact sameButMem_trans (publish_same s pa _) (ih _ _)
theorem getGrp_raiseVec (s : State) (fn vec c g : Nat) : getGrp (raiseVec s fn vec) c g = getGrp s c g := rfl
theorem getGrp_failQueue (s : State) (part q c g : Nat) : getGrp (failQueue s part q) c g = getGrp s c g := rfl
theorem writeCompletion_cases (s : State) (part q i kind : Nat) (st : W64) :
    (∃ l bs fn vec, writeCompletion s part q i kind st = raiseVec (publishWords s l bs) fn vec) ∨ writeCompletion s part q i kind st = failQueue s part q := by
  rw [writeCompletion]
  split
  · exact .inl ⟨_, _, _, _, rfl⟩
  · exact .inr rfl
theorem getGrp_writeCompletion (s : State) (part q i kind : Nat) (st : W64) (c g : Nat) : getGrp (writeCompletion s part q i kind st) c g = getGrp s c g := by
  obtain ⟨l, bs, fn, vec, h⟩ | h := writeCompletion_cases s part q i kind st
  · rw [h, getGrp_raiseVec]
    exact sameButCounts_grp (sameButMem_counts (publishWords_same l s bs)) c g
  · rw [h, getGrp_failQueue]
theorem writeCompletion_cur (s : State) (part q i kind : Nat) (st : W64) : (writeCompletion s part q i kind st).cur = s.cur := by
  obtain ⟨l, bs, fn, vec, h⟩ | h := writeCompletion_cases s part q i kind st
  · rw [h, raiseVec_cur]
    exact (sameButMem_counts (publishWords_same l s bs)).1
  · rw [h]
    rfl
theorem getGrp_endLaunch (s : State) (part : Nat) (x : Span) (st : W64) (c g : Nat) : getGrp (endLaunch s part x st) c g = getGrp s c g := by
  unfold endLaunch
  split
  · exact getGrp_writeCompletion s part _ _ 0 st c g
  · exact getGrp_endPool s part _ st c g

/-- A group that has ended. -/
def Ended (g : Group) : Prop := g.st = .idle ∧ g.stores = [] ∧ g.launchKey = none
/-- The groups of a cluster that leaves its span. -/
def leaves (s : State) (c : Nat) : State :=
  modCl s c (fun k => { k with span := none, core := { k.core with grp := vec4Of (fun g => { vec4Get k.core.grp g with st := .idle, launchKey := none }) 0 } })
theorem getGrp_leaves_ended {s : State} {c g : Nat} (hg : g < 4) (h : Ended (getGrp s c g)) (d : Nat) : getGrp (leaves s d) c g = getGrp s c g := by
  obtain ⟨hst, _, hkey⟩ := h
  unfold leaves getGrp at *
  rw [getCl_modCl]
  split
  · next e => subst e; simp only; rw [vec4Get_of _ _ hg, Nat.zero_add, ← hst, ← hkey]
  · rfl
theorem getGrp_freeSpan_ended {s : State} {c g : Nat} (hg : g < 4) (h : Ended (getGrp s c g)) (sp : Nat) (x : Span) :
    getGrp (freeSpan s sp x) c g = getGrp s c g :=
  foldl_inv leaves (fun t => getGrp t c g = getGrp s c g) (fun _ d ht => (getGrp_leaves_ended hg (ht ▸ h) d).trans ht) x.clusters rfl
theorem flushCore_eq (s : State) (c : Nat) : flushCore s c = flushAll s 3 [(c, 0), (c, 1), (c, 2), (c, 3)] := by
  simp only [flushAll, List.foldl_cons, List.foldl_nil, flushCore]
theorem getGrp_flushCore_ended {s : State} {c g : Nat} (hg : g < 4) (h : Ended (getGrp s c g)) (d : Nat) : getGrp (flushCore s d) c g = getGrp s c g := by
  obtain ⟨_, hst, _⟩ := h
  rw [flushCore_eq, flushAll_grp (by simp) c hg]
  split
  · rw [← hst]
  · rfl

/-- A group that ends, before what its span's end does. -/
def idled (s : State) (cl g : Nat) : State := modGrp (flushGrp s cl g 3) cl g (fun x => { x with st := .idle, launchKey := none })
theorem getGrp_idled (s : State) (cl : Nat) {g : Nat} (hg : g < 4) : getGrp (idled s cl g) cl g = { getGrp s cl g with stores := [], st := .idle, launchKey := none } := by
  rw [idled, getGrp_modGrp_same _ _ _ hg, flushGrp_grp s cl 3 hg]
/-- The launch of a span has ended, and its clusters are free. -/
def launchEnded (s : State) (sp : Nat) (x : Span) (v : W64) : State :=
  freeSpan (endLaunch (x.clusters.foldl (fun s c => flushCore s c) s) x.part x v) sp x
theorem endGroup_ends {s : State} {cl g sp : Nat} {x : Span} (hs : spanAt s cl = some (sp, x)) (hk : (getGrp s cl g).launchKey = some x.key) (v : W64) :
    endGroup s cl g v = launchEnded (idled s cl g) sp x v := by
  unfold endGroup
  simp only [hs, if_pos hk]
  rfl
theorem endGroup_stays {s : State} {cl g : Nat} (h : ∀ sp x, spanAt s cl = some (sp, x) → (getGrp s cl g).launchKey ≠ some x.key) (v : W64) :
    endGroup s cl g v = idled s cl g := by
  unfold endGroup
  split
  · rfl
  · next sp x hs => rw [if_neg (h sp x hs)]; rfl
/-- A group ends the launch of its span, or only itself. -/
theorem endGroup_cases (s : State) (cl g : Nat) (v : W64) : endGroup s cl g v = idled s cl g ∨ ∃ sp x, endGroup s cl g v = launchEnded (idled s cl g) sp x v := by
  by_cases h : ∀ sp x, spanAt s cl = some (sp, x) → (getGrp s cl g).launchKey ≠ some x.key
  · exact .inl (endGroup_stays h v)
  · push Not at h
    obtain ⟨sp, x, hs, hk⟩ := h
    exact .inr ⟨sp, x, endGroup_ends hs hk v⟩
theorem getGrp_launchEnded {s : State} {c g : Nat} (hg : g < 4) (h : Ended (getGrp s c g)) (sp : Nat) (x : Span) (v : W64) :
    getGrp (launchEnded s sp x v) c g = getGrp s c g := by
  have hflush : getGrp (x.clusters.foldl (fun s c => flushCore s c) s) c g = getGrp s c g :=
    foldl_inv (fun s c => flushCore s c) (fun t => getGrp t c g = getGrp s c g)
      (fun _ d ht => (getGrp_flushCore_ended hg (ht ▸ h) d).trans ht) x.clusters rfl
  have hlaunch := (getGrp_endLaunch (x.clusters.foldl (fun s c => flushCore s c) s) x.part x v c g).trans hflush
  rw [launchEnded, getGrp_freeSpan_ended hg (hlaunch ▸ h), hlaunch]
theorem getGrp_endGroup (s : State) (cl : Nat) {g : Nat} (hg : g < 4) (v : W64) :
    getGrp (endGroup s cl g v) cl g = { getGrp s cl g with stores := [], st := .idle, launchKey := none } := by
  have hidled := getGrp_idled s cl hg
  obtain h | ⟨sp, x, h⟩ := endGroup_cases s cl g v
  · rw [h, hidled]
  · rw [h, getGrp_launchEnded hg (by rw [hidled]; exact ⟨rfl, rfl, rfl⟩), hidled]

/-! The executing group stays the same one. -/

theorem flushGrp_cur (s : State) (cl g sc : Nat) : (flushGrp s cl g sc).cur = s.cur :=
  (sameButMem_counts (performSeen_same _ _ _)).1.trans (performAll_counts _ s cl _).1
theorem flushAll_cur (s : State) (sc : Nat) (ws : List (Nat × Nat)) : (flushAll s sc ws).cur = s.cur :=
  foldl_keep (fun s (w : Nat × Nat) => flushGrp s w.1 w.2 sc) State.cur (fun s w => flushGrp_cur s w.1 w.2 sc) ws s
theorem flushCore_cur (s : State) (c : Nat) : (flushCore s c).cur = s.cur := by rw [flushCore_eq, flushAll_cur]
theorem tellLauncher_cur (s : State) (part : Nat) (l : Option (Nat × Nat)) : (tellLauncher s part l).cur = s.cur := by
  unfold tellLauncher tellCore
  repeat' split
  all_goals rfl
theorem endLaunch_cur (s : State) (part : Nat) (x : Span) (v : W64) : (endLaunch s part x v).cur = s.cur := by
  unfold endLaunch
  split
  · exact writeCompletion_cur s part _ _ 0 v
  · unfold endPool
    split
    · rfl
    · exact tellLauncher_cur _ part _
theorem freeSpan_cur (s : State) (sp : Nat) (x : Span) : (freeSpan s sp x).cur = s.cur := foldl_keep leaves State.cur (fun _ _ => rfl) x.clusters s
theorem endGroup_cur (s : State) (cl g : Nat) (v : W64) : (endGroup s cl g v).cur = s.cur := by
  have hidled : (idled s cl g).cur = s.cur := flushGrp_cur s cl g 3
  obtain h | ⟨sp, x, h⟩ := endGroup_cases s cl g v
  · rw [h, hidled]
  · rw [h, launchEnded, freeSpan_cur, endLaunch_cur, foldl_keep (fun s c => flushCore s c) State.cur flushCore_cur, hidled]

theorem idled_cur_eq (s : State) : idled s s.cur.cl s.cur.grp = modCur (releaseCur s 3) (fun g => { g with st := .idle, launchKey := none }) := by
  rw [modCur, releaseCur_cur]
  rfl
theorem exec_exit {s : State} {a : BitVec 5} (h : exitReady s s.cur.cl s.cur.grp = true) :
    exec (.coreTrap a 0#16) s = .next (endGroup s s.cur.cl s.cur.grp (xget (curGrp s) a)) := by
  show execCoreTrap a 0#16 s = _
  simp [execCoreTrap, h]
theorem exec_exit_waits {s : State} {a : BitVec 5} (h : exitReady s s.cur.cl s.cur.grp = false) :
    exec (.coreTrap a 0#16) s = .next (modCur s (waitFor (.exit (xget (curGrp s) a)))) := by
  show execCoreTrap a 0#16 s = _
  simp [execCoreTrap, h]

theorem mem_of_memParts {s t : State} (h : s.memParts = t.memParts) : s.mem = t.mem := congrArg Prod.fst h
theorem groupExit : GroupExit := by
  intro s a hg
  refine ⟨fun hr => ?_, fun hr => waits_waitFor hg (exec_exit_waits hr) rfl rfl (onlyGroup_modCur s _)⟩
  have hgrp : curGrp (endGroup s s.cur.cl s.cur.grp (xget (curGrp s) a)) = { curGrp s with stores := [], st := .idle, launchKey := none } := by
    rw [curGrp, endGroup_cur]
    exact getGrp_endGroup s s.cur.cl hg _
  refine ⟨_, exec_exit hr, by rw [hgrp], by rw [hgrp], by rw [hgrp], by rw [hgrp], fun hkey => ?_, fun sp x hs hkey hq => ?_⟩
  · have hparts : (idled s s.cur.cl s.cur.grp).memParts = (releaseCur s 3).memParts := modGrp_memParts (releaseCur s 3) _ _ _
    rw [endGroup_stays hkey]
    exact ⟨mem_of_memParts hparts, congrArg (fun m => m.2.1) hparts⟩
  · rw [endGroup_ends hs hkey, idled_cur_eq, launchEnded, endLaunch, hq]
    exact mem_of_memParts ((freeSpan_memParts _ sp x).trans (endPool_memParts _ _ _ _))

/-- Settles O42. -/
theorem launchesAndExits : Obligations.LaunchesAndExits := ⟨launchAndWait, groupExit⟩

end Sys2Proof.Machine


namespace Sys2Proof.Machine
open Sys2Proof Sys2Proof.Claims

/-! How a launch starts, and how an exiting group ends (R164, R186, R197, R361, R367). -/

theorem vec32Get_fill {α : Type} (x : α) {i : Nat} (hi : i < 32) : vec32Get (vec32Fill x) i = x := by
  interval_cases i <;> rfl
/-- A group that starts is Ready at its entry, with PARAM and USER in its registers and 0 in x4 to x31. -/
theorem startGroup_registers (r : LRecord) (cls asid : Nat) (x3 : W64) (key t : Nat) :
    xget (startGroup r cls asid x3 key t) 1#5 = r.param ∧ xget (startGroup r cls asid x3 key t) 2#5 = r.user ∧
      ∀ q : BitVec 5, 4 ≤ q.toNat → xget (startGroup r cls asid x3 key t) q = 0#64 := by
  have hx : (startGroup r cls asid x3 key t).x = vec32Set (vec32Set (vec32Set (vec32Fill 0#64) 1 r.param) 2 r.user) 3 x3 := rfl
  refine ⟨rfl, rfl, fun q hq => ?_⟩
  unfold xget
  rw [hx, vec32Get_set _ _ (by decide) q.isLt, if_neg (by omega : q.toNat ≠ 3), vec32Get_set _ _ (by decide) q.isLt, if_neg (by omega : q.toNat ≠ 2),
    vec32Get_set _ _ (by decide) q.isLt, if_neg (by omega : q.toNat ≠ 1), vec32Get_fill _ q.isLt, ite_self]

/-- What a launch's span and its first group are when they start. -/
def Started (t : State) (part lead : Nat) (rest : List Nat) (r : LRecord) : Prop :=
  (∃ y, getSpan t lead = some y ∧ y.part = part ∧ y.clusters = lead :: rest ∧ y.phase = .running ∧ y.load = none) ∧
    ∃ cls asid x3 key n, getGrp t lead 0 = startGroup r cls asid x3 key n
theorem started_of {u : State} {part lead : Nat} {rest : List Nat} {r : LRecord} {y : Span} (hp : y.part = part)
    (hc : y.clusters = lead :: rest) (hph : y.phase = .running) (hl : y.load = none) (cls asid : Nat) (x3 : W64) (key n : Nat) :
    Started (modGrp { u with spans := amPut u.spans lead y } lead 0 (fun _ => startGroup r cls asid x3 key n)) part lead rest r :=
  ⟨⟨y, amGet_amPut_same _ _ _, hp, hc, hph, hl⟩, cls, asid, x3, key, n, getGrp_modGrp_same { u with spans := amPut u.spans lead y } lead _ (by decide)⟩
theorem startSpan_started (s : State) (part lead : Nat) (rest : List Nat) (r : LRecord) (cap asid key : Nat) (x3 : W64) (fromQ : Option (Nat × Nat)) :
    Started (startSpan s part (lead :: rest) r cap asid key x3 fromQ) part lead rest r := by
  unfold startSpan
  exact started_of rfl rfl rfl rfl _ _ _ _ _
theorem startSpan_hub (s : State) (part : Nat) (cls : List Nat) (r : LRecord) (cap asid key : Nat) (x3 : W64) (fromQ : Option (Nat × Nat)) :
    (startSpan s part cls r cap asid key x3 fromQ).hub = s.hub := by
  cases cls with
  | nil => rfl
  | cons lead rest => exact foldl_keep (fun s c => modCl s c (startCluster lead (getPart _ part))) State.hub (fun _ _ => rfl) (lead :: rest) s

theorem modPart_lastPart (s : State) (p : Nat) (f : Partition → Partition) : (modPart s p f).hub.lastPart = s.hub.lastPart := rfl
theorem takeRecord_lastPart (s : State) (part q : Nat) : (takeRecord s part q).hub.lastPart = s.hub.lastPart := by
  unfold takeRecord
  dsimp only
  split
  · exact foldl_keep (fun s pa => showHost s pa 4) (fun t => t.hub.lastPart) (fun _ _ => rfl) _ s
  · rfl
theorem startCand_started {s : State} {part lead : Nat} {rest : List Nat} {c : Cand} (h : c.queue = none → poolHead (getPart s part) ≠ none) :
    Started (startCand s part c (lead :: rest)) part lead rest c.rcd ∧ (startCand s part c (lead :: rest)).hub.lastPart = s.hub.lastPart := by
  unfold startCand
  dsimp only
  split
  · refine ⟨startSpan_started _ _ _ _ _ _ _ _ _ _, ?_⟩
    rw [startSpan_hub, modPart_lastPart, takeRecord_lastPart, modPart_lastPart]
  · next hq =>
    split
    · next hnone => exact absurd hnone (h hq)
    · refine ⟨startSpan_started _ _ _ _ _ _ _ _ _ _, ?_⟩
      rw [startSpan_hub, settlePool, modPart_lastPart, modPart_lastPart, modPart_lastPart]
theorem failUnreadable_lastPart (s : State) (part : Nat) : (failUnreadable s part).hub.lastPart = s.hub.lastPart := by
  refine foldl_keep _ (fun t => t.hub.lastPart) (fun t q => ?_) (List.range 32) s
  dsimp only
  split
  · unfold failQueue raiseVec modHub
    dsimp only
    split <;> rfl
  · rfl

theorem dispatcherStarts : DispatcherStarts := by
  intro s s2 s3 part c more lead rest hin hturn hs2 hcs hok hs3 hfit hplace hpool
  have hi : exec (.dispatch part) s = .next (startCand s3 part c (lead :: rest)) := by
    show execDispatch part s = _
    rw [execDispatch, if_pos ⟨hin, hturn⟩]
    dsimp only
    rw [← hs2, hcs, ← hs3, tryCands]
    simp only [hok, hfit, hplace, Bool.not_true, Bool.false_eq_true, if_false]
  have hhead : c.queue = none → poolHead (getPart s3 part) ≠ none := by
    rw [hs3, getPart_modPart_same]
    exact hpool
  obtain ⟨⟨hspan, cls, asid, x3, key, n, hgrp⟩, hlast⟩ := startCand_started (lead := lead) (rest := rest) hhead
  obtain ⟨h1, h2, h3⟩ := startGroup_registers c.rcd cls asid x3 key n
  refine ⟨_, hi, ?_, hspan, by rw [hgrp]; rfl, by rw [hgrp]; rfl, by rw [hgrp]; rfl, by rw [hgrp, h1], by rw [hgrp, h2], fun r hr => by rw [hgrp, h3 r hr]⟩
  rw [hlast, hs3]
  exact (congrArg (fun t : State => t.hub.lastPart) hs2).trans (failUnreadable_lastPart _ part)

theorem childrenExit : ChildrenExit := by
  intro s cl g v hg hst hready hrun
  have hi : exec (.childExit cl g) s = .next (endGroup s cl g v) := by
    show execChildExit cl g s = _
    unfold execChildExit
    simp only [hst, hready, Bool.and_true]
    cases hs : spanAt s cl with
    | none => rfl
    | some p => simp only [hrun p hs, decide_true, if_true]
  refine ⟨_, hi, ?_, ?_, ?_⟩ <;> rw [getGrp_endGroup s cl hg]

/-- Settles O55. -/
theorem dispatchAndExit : Obligations.DispatchAndExit := ⟨dispatcherStarts, childrenExit⟩

end Sys2Proof.Machine


namespace Sys2Proof.Machine
open Sys2Proof Sys2Proof.Claims

/-! Aging and asynchronous events (R166, R198). -/

theorem class_agedGroup {t : Nat} {g : Group} (hst : g.st = .ready) (hlong : g.since + 2 ^ 16 ≤ t) (hlow : max g.aged g.base < 3) :
    max (agedGroup t g).aged (agedGroup t g).base = min 3 (max g.aged g.base + (t - g.since) / 2 ^ 16) := by
  have hn : 1 ≤ (t - g.since) / 2 ^ 16 := by omega
  have haged : agedGroup t g = { g with
      aged := max (ownClass g) (min 3 (ownClass g + (t - g.since) / 2 ^ 16)), since := g.since + (t - g.since) / 2 ^ 16 * 2 ^ 16 } := by
    unfold agedGroup
    exact if_pos (by simpa [isReady, hst] using by omega)
  rw [haged]
  generalize (t - g.since) / 2 ^ 16 = n at hn
  simp only [ownClass]
  omega
theorem agedGroup_keeps (t : Nat) (g : Group) : (agedGroup t g) = { g with aged := (agedGroup t g).aged, since := (agedGroup t g).since } := by
  unfold agedGroup
  dsimp only
  split <;> rfl

/-- What aging and waking leave of a core: its system registers, its events, its marks, and a Ready group but for its class. -/
def SameCoreButGroups (s t : State) (cl : Nat) : Prop :=
  (getCl t cl).core = { (getCl s cl).core with grp := (getCl t cl).core.grp } ∧ t.cycles = s.cycles
theorem SameCoreButGroups.refl (s : State) (cl : Nat) : SameCoreButGroups s s cl := ⟨rfl, rfl⟩
theorem SameCoreButGroups.trans {s t u : State} {cl : Nat} (h : SameCoreButGroups s t cl) (k : SameCoreButGroups t u cl) : SameCoreButGroups s u cl :=
  ⟨by rw [k.1, h.1], k.2.trans h.2⟩
theorem sameCoreButGroups_modGrp (s : State) (cl g : Nat) (f : Group → Group) : SameCoreButGroups s (modGrp s cl g f) cl :=
  ⟨by unfold modGrp modCore; rw [getCl_modCl_same], rfl⟩
theorem Wakes.sameCore {s t : State} {cl g : Nat} (w : Wakes s cl g t) (hg : g < 4) : SameCoreButGroups s t cl := by
  cases w with
  | stays => exact .refl s cl
  | ready => exact sameCoreButGroups_modGrp s cl g _
  | wfi => exact sameCoreButGroups_modGrp s cl g _
  | waitl _ n =>
    refine .trans ?_ (sameCoreButGroups_modGrp (acquireGrp s cl g 1) cl g _)
    obtain ⟨_, _, hcyc, _, hcl, _⟩ := flushGrp_units s cl 1 hg
    exact ⟨congrArg Cluster.core (hcl cl), hcyc⟩
  | pin _ n => exact sameCoreButGroups_modGrp s cl g _
theorem wakeCore_sameCore (s : State) (cl : Nat) : SameCoreButGroups s (wakeCore s cl) cl := by
  obtain ⟨s1, s2, s3, w0, w1, w2, w3, _⟩ := wakeCore_wakes s cl
  exact (((w0.sameCore (by omega)).trans (w1.sameCore (by omega))).trans (w2.sameCore (by omega))).trans (w3.sameCore (by omega))
theorem ageCore_sameCore (s : State) (cl : Nat) : SameCoreButGroups s (ageCore s cl) cl :=
  ⟨by unfold ageCore modCore; rw [getCl_modCl_same], rfl⟩
theorem nextGroup_sameCore (s : State) (cl : Nat) : SameCoreButGroups s (nextGroup s cl).1 cl := by
  unfold nextGroup
  split
  · exact .refl s cl
  · exact (ageCore_sameCore s cl).trans (wakeCore_sameCore _ cl)

theorem wakeGroup_ready {s : State} {cl g : Nat} (h : (getGrp s cl g).st = .ready) : wakeGroup s cl g = s := by
  unfold wakeGroup
  rw [h]
/-- A Ready group is not woken. -/
theorem wakeCore_ready {s : State} {cl g : Nat} (hg : g < 4) (h : (getGrp s cl g).st = .ready) : getGrp (wakeCore s cl) cl g = getGrp s cl g := by
  have hstep : ∀ (t : State) k, k < 4 → getGrp t cl g = getGrp s cl g → getGrp (wakeGroup t cl k) cl g = getGrp s cl g := fun t k hk ht => by
    by_cases hkg : k = g
    · rw [wakeGroup_ready (by rw [hkg, ht, h]), ht]
    · rw [(wakeGroup_wakes t cl k).grp_ne hk hg (Ne.symm hkg), ht]
  exact hstep _ 3 (by omega) (hstep _ 2 (by omega) (hstep _ 1 (by omega) (hstep _ 0 (by omega) rfl)))
theorem nextGroup_ready {s : State} {cl g : Nat} (hg : g < 4) (h : (getGrp s cl g).st = .ready) :
    ∃ n m, getGrp (nextGroup s cl).1 cl g = { getGrp s cl g with aged := n, since := m } := by
  unfold nextGroup
  split
  · exact ⟨_, _, rfl⟩
  · have haged := getGrp_ageCore s cl hg
    dsimp only
    rw [wakeCore_ready hg (by rw [haged, (agedGroup_st _ _).1, h]), haged]
    exact ⟨_, _, agedGroup_keeps _ _⟩

theorem issueAt_sameGroups (s : State) (cl : Nat) {g : Nat} (hg : g < 4) : ∃ n m, getGrp (issueAt s cl g) cl g = { getGrp s cl g with aged := n, since := m } := by
  refine ⟨0, now s cl, ?_⟩
  show getGrp (markIssue s cl g) cl g = _
  unfold getGrp markIssue modCore
  rw [getCl_modCl_same]
  dsimp only
  rw [vec4Get_set _ _ hg hg, if_pos rfl]
theorem issueAt_core (s : State) (cl g : Nat) : (getCl (issueAt s cl g) cl).core = { (getCl s cl).core with
    lastIssued := vec4Set (getCl s cl).core.lastIssued (effClass (getCl s cl).core g) g, lastGroup := g, issuedAt := some (now s cl)
    grp := (getCl (issueAt s cl g) cl).core.grp } := by
  rw [show getCl (issueAt s cl g) cl = getCl (markIssue s cl g) cl from rfl]
  unfold markIssue modCore
  rw [getCl_modCl_same]

section
variable {u : State} {cl g : Nat} {r : FaultRec} {rest : List FaultRec} (hg : g < 4) (hf : (getCl u cl).core.fgrp = g)
  (he : (getCl u cl).core.events = r :: rest)
include hf he

/-- The core as the event leaves its queue. -/
def eventLeaves (u : State) (cl g : Nat) (rest : List FaultRec) : State :=
  modCore (modGrp u cl g (fun x => { x with since := now u cl })) cl
    (fun c => leaveCfg g { c with events := rest ++ c.held.take 1, held := c.held.drop 1 })
theorem takeEvent_eq : takeEvent cl u = deliverEvent (eventLeaves u cl g rest) cl g r := by
  unfold takeEvent
  rw [he]
  dsimp only
  rw [hf]
  rfl
omit hf he in
theorem eventLeaves_core : (getCl (eventLeaves u cl g rest) cl).core = { leaveCfg g { (getCl u cl).core with
    events := rest ++ (getCl u cl).core.held.take 1, held := (getCl u cl).core.held.drop 1 } with grp := (getCl (eventLeaves u cl g rest) cl).core.grp } := by
  unfold eventLeaves modGrp modCore
  rw [getCl_modCl_same, getCl_modCl_same]
  rfl
omit hf he in
include hg in
theorem eventLeaves_grp : getGrp (eventLeaves u cl g rest) cl g = { getGrp u cl g with since := now u cl } := by
  rw [eventLeaves, getGrp_modCore _ cl (fun _ => by rfl), getGrp_modGrp_same _ _ _ hg]
include hg in
theorem takeEvent_grp : getGrp (takeEvent cl u) cl g =
    enterTrap (getCl u cl).core.tvec (getGrp u cl g).pc r { getGrp u cl g with since := now u cl } := by
  rw [takeEvent_eq hf he, deliverEvent, getGrp_modGrp_same _ _ _ hg, eventLeaves_core, eventLeaves_grp hg]
  rfl
theorem takeEvent_core : (getCl (takeEvent cl u) cl).core.events = rest ++ (getCl u cl).core.held.take 1 ∧
    (getCl (takeEvent cl u) cl).core.issuedAt = (getCl u cl).core.issuedAt ∧ (takeEvent cl u).cycles = u.cycles := by
  have hcore : (getCl (takeEvent cl u) cl).core = { (getCl (eventLeaves u cl g rest) cl).core with grp := (getCl (takeEvent cl u) cl).core.grp } := by
    rw [takeEvent_eq hf he]
    exact (sameCoreButGroups_modGrp (eventLeaves u cl g rest) cl g _).1
  rw [hcore, eventLeaves_core, takeEvent_eq hf he]
  exact ⟨rfl, rfl, rfl⟩
end

theorem enterTrap_status (tvec : W64) (epc : Addr) (r : FaultRec) (g : Group) :
    bitAt 0 (enterTrap tvec epc r g).status = true ∧ bitAt 2 (enterTrap tvec epc r g).status = false := by
  have hstatus : (enterTrap tvec epc r g).status = BitVec.ofNat 64 (1 + 2 * b2n (modeOf g) + 8 * b2n (ieOf g)) := rfl
  rw [hstatus]
  cases modeOf g <;> cases ieOf g <;> decide

theorem agingAndEvents : AgingAndEvents := by
  intro s cl
  refine ⟨fun g hg hst hlong hlow => ⟨_, rfl, ?_, ?_, ?_⟩, fun hne => ?_, fun g r rest hfg hg hev hst hnext hmode => ?_⟩
  · rw [getGrp_modGrp_same _ _ _ hg]
    exact class_agedGroup hst hlong hlow
  · rw [getGrp_modGrp_same _ _ _ hg, agedGroup_keeps]
  · rw [getGrp_modGrp_same _ _ _ hg, agedGroup_keeps]
  · have hcore := (nextGroup_sameCore s cl).1
    show execEventTaken cl s = _
    unfold execEventTaken
    split
    · next t g hn =>
      rw [hn] at hne hcore
      have hready : eventReady (getCl t cl).core g = false := by
        rw [hcore, eventReady]
        simp [show (getCl s cl).core.fgrp ≠ g from fun e => hne (by rw [e])]
      rw [hready, if_neg Bool.false_ne_true]
    · rfl
  · obtain ⟨n, m, hgrp⟩ := nextGroup_ready hg hst
    obtain ⟨hcore, hcyc⟩ := nextGroup_sameCore s cl
    rcases hn : nextGroup s cl with ⟨t, o⟩
    rw [hn] at hgrp hcore hcyc hnext
    dsimp only at hgrp hcore hcyc hnext
    subst hnext
    have hready : eventReady (getCl t cl).core g = true := by
      have hg' : vec4Get (getCl t cl).core.grp g = { getGrp s cl g with aged := n, since := m } := hgrp
      rw [eventReady, hg', hcore]
      simpa [hev, ← hfg, modeOf, ieOf] using hmode
    have hi : exec (.eventTaken cl) s = .next (takeEvent cl (issueAt t cl g)) := by
      show execEventTaken cl s = _
      unfold execEventTaken
      rw [hn]
      exact congrArg Host.Outcome.next (if_pos hready)
    have hucore := issueAt_core t cl g
    obtain ⟨n', m', hugrp⟩ := issueAt_sameGroups t cl hg
    have hufg : (getCl (issueAt t cl g) cl).core.fgrp = g := by rw [hucore, hcore]; exact hfg.symm
    have huev : (getCl (issueAt t cl g) cl).core.events = r :: rest := by rw [hucore, hcore]; exact hev
    have hres := takeEvent_grp hg hufg huev
    obtain ⟨h1, h2, h3⟩ := takeEvent_core hufg huev
    rw [hugrp, hgrp, hucore, hcore] at hres
    rw [hucore, hcore] at h1 h2
    obtain ⟨hs0, hs2⟩ := enterTrap_status (getCl s cl).core.tvec (getGrp s cl g).pc r { getGrp s cl g with aged := n', since := now (issueAt t cl g) cl }
    refine ⟨_, hi, by rw [hres]; rfl, by rw [hres]; rfl, by rw [hres]; exact hs0, by rw [hres]; exact hs2, by rw [hres]; rfl, h1, by rw [hres]; rfl, ?_⟩
    rw [hasIssued, h2, decide_eq_true_eq, now, cycleOf, now, cycleOf, h3]
    rfl

end Sys2Proof.Machine



namespace Sys2Proof.Machine
open Sys2Proof Sys2Proof.Claims

/-! The end of a walk (R375). -/

theorem sameButCounts_cl {s t : State} (h : sameButCounts s t) (c : Nat) : getCl t c = { getCl s c with counters := (getCl t c).counters } :=
  h.2.2.2.2.2.2.2.2 c
/-- The tables that a walk has read. -/
def tablesRead (s : State) (cl : Nat) (r : WalkReq) : State :=
  (walkReads s (partOfCl s cl) (getCl s cl).core.ptbr r.asid r.va).foldl (fun s a => l2Touch s cl a) s
/-- The walk leaves the queue of its cluster. -/
def walkLeaves (s : State) (cl idx : Nat) (r : WalkReq) : State := modCl (tablesRead s cl r) cl (fun c => { c with walks := c.walks.eraseIdx idx })
/-- The state in which a walk has read its tables and left its place, before its end is told. -/
def walkRead (s : State) (cl idx : Nat) (r : WalkReq) : State :=
  countBoth (walkLeaves s cl idx r) cl 0x3001 1
theorem tablesRead_counts {s : State} {cl : Nat} {r : WalkReq} : sameButCounts s (tablesRead s cl r) :=
  foldl_inv _ (sameButCounts s) (fun t a h => sameButCounts_trans h (l2Touch_counts t cl a)) _ (sameButCounts_refl s)

section
variable {s : State} {cl idx : Nat} {r : WalkReq} (hr : (getCl s cl).walks[idx]? = some r)

theorem walkRead_cl : getCl (walkRead s cl idx r) cl = { getCl s cl with
    walks := (getCl s cl).walks.eraseIdx idx, counters := (getCl (walkRead s cl idx r) cl).counters } := by
  refine (sameButCounts_cl (countBoth_counts (walkLeaves s cl idx r) cl 0x3001 1) cl).trans ?_
  rw [walkLeaves, getCl_modCl_same, sameButCounts_cl tablesRead_counts cl]
  rfl
theorem walkRead_grp (g : Nat) : getGrp (walkRead s cl idx r) cl g = getGrp s cl g := getGrp_congr (by rw [walkRead_cl]) g
theorem walkRead_memParts : (walkRead s cl idx r).memParts = s.memParts := by
  rw [walkRead, countBoth_memParts, walkLeaves, modCl_memParts]
  exact foldl_memParts (fun t a => l2Touch_memParts t cl a) (walkReads s (partOfCl s cl) (getCl s cl).core.ptbr r.asid r.va) s
include hr

theorem exec_walk_waits (h : 16 ≤ walksBefore s (dieOf cl) r.ord) : exec (.walk cl idx) s = .next s := by
  show execWalk cl idx s = _
  rw [execWalk, hr, Option.filter_some, if_neg (by simpa using h)]
theorem exec_walk_leaf (h : walksBefore s (dieOf cl) r.ord < 16) {e : TEntry}
    (hw : walkTables s (partOfCl s cl) (getCl s cl).core.ptbr r.asid r.va = .leaf e) (hp : permits e r.need = true) :
    exec (.walk cl idx) s = .next (endWalk (installEntry (walkRead s cl idx r) cl e) cl r.va r.who none) := by
  show execWalk cl idx s = _
  rw [execWalk, hr, Option.filter_some, if_pos (by simpa using h)]
  dsimp only
  rw [walkFor, hw]
  dsimp only
  rw [if_pos hp]
  rfl
theorem exec_walk_fault (h : walksBefore s (dieOf cl) r.ord < 16) {c : Nat}
    (hw : walkTables s (partOfCl s cl) (getCl s cl).core.ptbr r.asid r.va = .fault c) :
    exec (.walk cl idx) s = .next (endWalk (walkRead s cl idx r) cl r.va r.who (some c)) := by
  show execWalk cl idx s = _
  rw [execWalk, hr, Option.filter_some, if_pos (by simpa using h)]
  dsimp only
  rw [walkFor, hw]
  rfl
end

/-- The group that waited for a walk, none of whose walks is left, is Ready. -/
theorem endWalk_group {s : State} {cl g : Nat} (va : Nat) (hst : (getGrp s cl g).st = .waiting .walk) (hw : ∀ q ∈ (getCl s cl).walks, q.who ≠ .group g) :
    endWalk s cl va (.group g) none = modGrp s cl g (fun x => { x with st := .ready, since := now s cl }) := by
  have hover : waitOver s cl g .walk = true := by
    simp only [waitOver, Bool.not_eq_true', List.any_eq_false, decide_eq_true_eq]
    exact hw
  unfold endWalk wakeGroup
  simp [hst, hover]
/-- A group of user code that waited for a walk that faults is in its trap. -/
theorem endWalk_fault {s : State} {cl g : Nat} (va c : Nat) (hg : g < 4) (hst : (getGrp s cl g).st = .waiting .walk) (hm : bitAt 0 (getGrp s cl g).status = false) :
    endWalk s cl va (.group g) (some c) = modGrp (modGrp (modCore s cl (leaveCfg g)) cl g (fun x => { x with since := now s cl })) cl g
      (enterTrap (getCl s cl).core.tvec (getGrp s cl g).pc ⟨c, 0, 0, va⟩) := by
  have hcore : (getCl (modGrp (modCore s cl (leaveCfg g)) cl g (fun x => { x with since := now s cl })) cl).core.tvec = (getCl s cl).core.tvec := by
    unfold modGrp modCore
    rw [getCl_modCl_same, getCl_modCl_same]
    rfl
  have hgrp : getGrp (modGrp (modCore s cl (leaveCfg g)) cl g (fun x => { x with since := now s cl })) cl g = { getGrp s cl g with since := now s cl } := by
    rw [getGrp_modGrp_same _ _ _ hg, getGrp_modCore s cl (fun _ => by rfl)]
  unfold endWalk
  simp only [hst, if_true]
  unfold trapGroup
  dsimp only
  rw [hgrp, hcore, if_neg (by simp [modeOf, hm])]

theorem walkEnds : WalkEnds := by
  intro s cl idx r g hr hwho hg hst
  refine ⟨exec_walk_waits hr, fun hserved => ⟨fun e hw hp hroom hnone => ?_, fun c hw hm => ?_⟩⟩
  · have hcl := walkRead_cl (s := s) (cl := cl) (idx := idx) (r := r)
    have hinst : installEntry (walkRead s cl idx r) cl e = modCl (walkRead s cl idx r) cl (fun c => { c with tcache := c.tcache ++ [e] }) := by
      rw [installEntry, hcl]
      exact if_pos hroom
    have hcl1 : getCl (installEntry (walkRead s cl idx r) cl e) cl = { getCl s cl with
        tcache := (getCl s cl).tcache ++ [e], walks := (getCl s cl).walks.eraseIdx idx, counters := (getCl (walkRead s cl idx r) cl).counters } := by
      rw [hinst, getCl_modCl_same, hcl]
    have hgrp : getGrp (installEntry (walkRead s cl idx r) cl e) cl g = getGrp s cl g := getGrp_congr (by rw [hcl1]) g
    have hend := endWalk_group r.va (s := installEntry (walkRead s cl idx r) cl e) (by rw [hgrp, hst]) (by rw [hcl1]; exact hnone)
    have hi := exec_walk_leaf hr hserved hw hp
    rw [hwho, hend] at hi
    refine ⟨_, hi, ?_, ?_, ?_, ?_, ?_⟩
    · unfold modGrp modCore
      rw [getCl_modCl_same, hcl1]
    · unfold modGrp modCore
      rw [getCl_modCl_same, hcl1]
    · rw [getGrp_modGrp_same _ _ _ hg]
    · rw [getGrp_modGrp_same _ _ _ hg, hgrp]
    · exact mem_of_memParts (by rw [modGrp_memParts, installEntry_memParts, walkRead_memParts])
  · have hcl := walkRead_cl (s := s) (cl := cl) (idx := idx) (r := r)
    have hgrp := walkRead_grp (s := s) (cl := cl) (idx := idx) (r := r) g
    have hi := exec_walk_fault hr hserved hw
    rw [hwho, endWalk_fault r.va c hg (by rw [hgrp, hst]) (by rw [hgrp, hm]), hcl, hgrp] at hi
    refine ⟨_, hi, ?_, ?_, ?_, ?_, ?_⟩
    · unfold modGrp modCore
      rw [getCl_modCl_same, getCl_modCl_same, getCl_modCl_same, hcl]
    · rw [getGrp_modGrp_same _ _ _ hg]; rfl
    · rw [getGrp_modGrp_same _ _ _ hg]
      show causeWord false ⟨c, 0, 0, r.va⟩ = _
      rw [causeWord_eq]
      simp
    · rw [getGrp_modGrp_same _ _ _ hg]; rfl
    · rw [getGrp_modGrp_same _ _ _ hg]
      exact (enterTrap_status _ _ _ _).1

end Sys2Proof.Machine


namespace Sys2Proof.Machine
open Sys2Proof Sys2Proof.Claims

/-! Bytes of a memory tile (R277): offsets count modulo 2^16. -/

theorem tileByte_tilePut (y : Tile) (o : Nat) (b : Byte) {j : Nat} (hj : j < 65536) :
    tileByte (tilePut y o b) (o + j) = if j = 0 then b else tileByte y (o + j) := by
  unfold tileByte tilePut
  dsimp only
  split
  · next h => subst h; exact amGetD_amPutD_same ..
  · next h => exact amGetD_amPutD_ne _ _ _ _ (by omega)
theorem tileRead_eq_map (y : Tile) (o n : Nat) : tileRead y o n = (List.range n).map (fun i => tileByte y (o + i)) := by
  induction n generalizing o with
  | zero => rfl
  | succ n ih =>
    rw [tileRead, ih, List.range_succ_eq_map, List.map_cons, List.map_map]
    refine congrArg _ (List.map_congr_left fun k _ => ?_)
    simp [Nat.add_assoc, Nat.add_comm 1]
theorem tileByte_mod (y : Tile) {a b : Nat} (h : a % 65536 = b % 65536) : tileByte y a = tileByte y b := by
  rw [tileByte, h, ← tileByte]
/-- Bytes written from an offset are what the tile then reads there, and no other byte of it changes. -/
theorem tileByte_tileWrite_from (bs : List Byte) (y : Tile) (o : Nat) {j : Nat} (hbs : bs.length ≤ 65536) (hj : j < 65536) :
    tileByte (tileWrite y o bs) (o + j) = if j < bs.length then bs.getD j 0#8 else tileByte y (o + j) := by
  induction bs generalizing y o j with
  | nil => rfl
  | cons b bs ih =>
    rw [List.length_cons] at hbs ⊢
    rw [tileWrite]
    cases j with
    | zero =>
      rw [tileByte_mod _ (show (o + 0) % 65536 = (o + 1 + 65535) % 65536 by omega), ih _ _ (by omega) (by omega), if_neg (by omega),
        tileByte_mod _ (show (o + 1 + 65535) % 65536 = (o + 0) % 65536 by omega), tileByte_tilePut y o b (by omega), if_pos rfl, if_pos (by omega)]
      rfl
    | succ j =>
      rw [show o + (j + 1) = o + 1 + j by omega, ih _ _ (by omega) (by omega), List.getD_cons_succ]
      by_cases hlt : j < bs.length
      · rw [if_pos hlt, if_pos (by omega)]
      · rw [if_neg hlt, if_neg (by omega), show o + 1 + j = o + (j + 1) by omega, tileByte_tilePut y o b hj, if_neg (by omega)]

theorem tileWrite_full (bs : List Byte) (y : Tile) (o : Nat) : (tileWrite y o bs).full = y.full := by
  induction bs generalizing y o with
  | nil => rfl
  | cons b bs ih => exact ih _ _

/-! Counting words on a tag writes no byte of a tile (R291). -/

theorem getTile_modTile_same (s : State) (cl t : Nat) (f : Tile → Tile) : getTile (modTile s cl t f) cl t = f (getTile s cl t) := by
  unfold getTile modTile
  rw [getCl_modCl_same]
  exact amGetD_amPut_same _ _ _ _
theorem getTile_modGen (s : State) (cl t a : Nat) (f : AddrGen → AddrGen) (c k : Nat) : getTile (modGen s cl t a f) c k = getTile s c k := by
  unfold getTile modGen
  rw [getCl_modCl]
  split
  · next h => subst h; rfl
  · rfl
theorem getTile_emitCompletion (s : State) (sp : Nat) (e : Endpoint) (c k : Nat) : getTile (emitCompletion s sp e) c k = getTile s c k := by
  unfold emitCompletion
  split
  · rfl
  · split <;> rfl
theorem getTile_flushGen (s : State) (cl t a c k : Nat) : getTile (flushGen s cl t a) c k = getTile s c k := by
  unfold flushGen
  dsimp only
  repeat' split
  · rfl
  · rfl
  · exact getTile_modGen _ cl t a _ c k
  · rw [getTile_emitCompletion]; exact getTile_modGen _ cl t a _ c k
  · rfl
theorem getTile_oweGen (s : State) (cl t a c k : Nat) : getTile (oweGen s cl t a) c k = getTile s c k := by
  rw [oweGen, getTile_flushGen, getTile_modGen]
/-- Tiles that differ in tags and armed targets alone. -/
def SameBytes (y z : Tile) : Prop := z.bytes = y.bytes ∧ z.full = y.full
theorem SameBytes.trans {x y z : Tile} (h : SameBytes x y) (k : SameBytes y z) : SameBytes x z := ⟨k.1.trans h.1, k.2.trans h.2⟩
theorem tagCount_sameBytes (s : State) (cl t tag n : Nat) : SameBytes (getTile s cl t) (getTile (tagCount s cl t tag n) cl t) := by
  unfold tagCount
  refine SameBytes.trans (y := getTile (modTile s cl t (fun y => { y with tags := amPutD y.tags tag (amGetD y.tags tag 0 + n) 0 })) cl t) ?_ ?_
  · rw [getTile_modTile_same]; exact ⟨rfl, rfl⟩
  · unfold tagFire
    dsimp only
    split
    · exact ⟨rfl, rfl⟩
    · split
      · rw [getTile_oweGen, getTile_modTile_same (modTile s cl t _)]; exact ⟨rfl, rfl⟩
      · exact ⟨rfl, rfl⟩

/-! A line arrives at a tile (R292). -/

/-- Granule `i` of a line is written from offset `o` on, full. -/
def granuleWritten (o : Nat) (bs : List Byte) (bad : Bool) (i : Nat) (y : Tile) : Tile :=
  { setFull (tileWrite y (o + 16 * i) ((bs.drop (16 * i)).take 16)) ((o + 16 * i) / 16) true with
    bad := amPutD (setFull (tileWrite y (o + 16 * i) ((bs.drop (16 * i)).take 16)) ((o + 16 * i) / 16) true).bad ((o + 16 * i) / 16 % 4096) bad false }
def lineGranule (cl mt tag o : Nat) (bs : List Byte) (bad : Bool) (s : State) (i : Nat) : State :=
  tagCount (modTile s cl mt (granuleWritten o bs bad i)) cl mt tag 4
theorem deliverLine_eq (s : State) (cl : Nat) (m : Mcast) (k : Nat) (bs : List Byte) (bad : Bool) : deliverLine s cl m k bs bad =
    (List.range (bs.length / 16)).foldl (lineGranule cl m.mt m.tag (m.doff + (mcLo m.src k - m.src)) bs bad) s := rfl

/-- The first granules of a line stand in a tile. -/
def LineStands (o : Nat) (bs : List Byte) (n : Nat) (y : Tile) : Prop :=
  (∀ j, j < 16 * n → tileByte y (o + j) = bs.getD j 0#8) ∧ ∀ i, i < n → granFull y ((o + 16 * i) / 16) = true
theorem LineStands.of_sameBytes {o n : Nat} {bs : List Byte} {y z : Tile} (h : LineStands o bs n y) (hs : SameBytes y z) : LineStands o bs n z := by
  obtain ⟨hb, hf⟩ := hs
  refine ⟨fun j hj => ?_, fun i hi => ?_⟩
  · rw [tileByte, hb]; exact h.1 j hj
  · rw [granFull, hf]; exact h.2 i hi
theorem granFull_setFull (y : Tile) (g h : Nat) : granFull (setFull y g true) h = (decide (h % 4096 = g % 4096) || granFull y h) := by
  unfold granFull setFull
  by_cases e : h % 4096 = g % 4096
  · simp [e]
  · rw [amGetD_amPutD_ne _ _ _ _ e]
    simp [e]
theorem lineStands_granuleWritten {o n : Nat} {bs : List Byte} (bad : Bool) {y : Tile} (h : LineStands o bs n y) (hlen : 16 * (n + 1) ≤ bs.length) (hn : n < 4096) :
    LineStands o bs (n + 1) (granuleWritten o bs bad n y) := by
  have hpiece : ((bs.drop (16 * n)).take 16).length = 16 := by simp; omega
  refine ⟨fun j hj => ?_, fun i hi => ?_⟩
  · show tileByte (tileWrite y (o + 16 * n) ((bs.drop (16 * n)).take 16)) (o + j) = _
    by_cases hnew : 16 * n ≤ j
    · rw [show o + j = o + 16 * n + (j - 16 * n) by omega, tileByte_tileWrite_from _ _ _ (by omega) (by omega), if_pos (by omega)]
      rw [List.getD_eq_getElem _ _ (by omega), List.getElem_take, List.getElem_drop, List.getD_eq_getElem _ _ (by omega)]
      congr 1
      omega
    · rw [tileByte_mod _ (show (o + j) % 65536 = (o + 16 * n + (65536 + j - 16 * n)) % 65536 by omega), tileByte_tileWrite_from _ _ _ (by omega) (by omega),
        if_neg (by omega), tileByte_mod y (show (o + 16 * n + (65536 + j - 16 * n)) % 65536 = (o + j) % 65536 by omega), h.1 j (by omega)]
  · show granFull (setFull (tileWrite y (o + 16 * n) ((bs.drop (16 * n)).take 16)) ((o + 16 * n) / 16) true) _ = true
    have hfull : (tileWrite y (o + 16 * n) ((bs.drop (16 * n)).take 16)).full = y.full := tileWrite_full _ _ _
    rw [granFull_setFull]
    by_cases hin : i = n
    · simp [hin]
    · rw [show granFull (tileWrite y (o + 16 * n) ((bs.drop (16 * n)).take 16)) ((o + 16 * i) / 16) = true from by rw [granFull, hfull]; exact h.2 i (by omega),
        Bool.or_true]
theorem deliverLine_stands (s : State) (cl : Nat) (m : Mcast) (k : Nat) {bs : List Byte} (bad : Bool) (hlen : bs.length ≤ 65536) :
    LineStands (m.doff + (mcLo m.src k - m.src)) bs (bs.length / 16) (getTile (deliverLine s cl m k bs bad) cl m.mt) := by
  rw [deliverLine_eq]
  generalize m.doff + (mcLo m.src k - m.src) = o
  have hall : ∀ n, n ≤ bs.length / 16 → LineStands o bs n (getTile ((List.range n).foldl (lineGranule cl m.mt m.tag o bs bad) s) cl m.mt) := by
    intro n
    induction n with
    | zero => exact fun _ => ⟨fun j hj => absurd hj (by omega), fun i hi => absurd hi (by omega)⟩
    | succ n ih =>
      intro hn
      rw [List.range_succ, List.foldl_append, List.foldl_cons, List.foldl_nil]
      refine LineStands.of_sameBytes ?_ (tagCount_sameBytes _ cl m.mt m.tag 4)
      rw [getTile_modTile_same]
      exact lineStands_granuleWritten bad (ih (by omega)) (by omega) (by omega)
  exact hall _ le_rfl

/-- The line as the fill's cluster reads it. -/
def lineRead (s : State) (m : Mcast) (pa n : Nat) (bad : Bool) : Bool × State :=
  reread (performRead (l2Touch s m.cl pa) m.cl pa (4 * n) .package) bad
/-- The fill keeps the line for its other clusters. -/
def lineKept (idx line : Nat) (bs : List Byte) (bad : Bool) (l : Load) : Load :=
  { l with mcasts := amMod l.mcasts idx (fun m => { m with data := amPut m.data line bs, badLines := if bad then line :: m.badLines else m.badLines }) }
/-- What the fill still owes when a line has been delivered to a cluster. -/
def lineOwed (m : Mcast) (line cl : Nat) : List (Nat × Nat) := m.owed.filter (fun p => decide (p ≠ (line, cl)))
def lineDone (s : State) (sp idx cl line : Nat) (m : Mcast) (bs : List Byte) (bad : Bool) : State :=
  if lineOwed m line cl = [] then modLoad (deliverLine s cl m line bs bad) sp (fun l => { l with mcasts := amDel l.mcasts idx })
  else modLoad (deliverLine s cl m line bs bad) sp (fun l => { l with mcasts := amMod l.mcasts idx (fun m' => { m' with owed := lineOwed m line cl, wf := none }) })
theorem lineDone_tile (s : State) (sp idx cl line : Nat) (m : Mcast) (bs : List Byte) (bad : Bool) :
    getTile (lineDone s sp idx cl line m bs bad) cl m.mt = getTile (deliverLine s cl m line bs bad) cl m.mt := by
  unfold lineDone
  split <;> rfl
theorem lineDone_memParts (s : State) (sp idx cl line : Nat) (m : Mcast) (bs : List Byte) (bad : Bool) :
    (lineDone s sp idx cl line m bs bad).memParts = s.memParts := by
  unfold lineDone
  split <;> rw [modLoad_memParts, deliverLine_memParts]
theorem lineDone_owed {s : State} {sp idx cl line : Nat} {m m' : Mcast} {bs : List Byte} {bad : Bool}
    (h : (getLoad (lineDone s sp idx cl line m bs bad) sp).bind (fun l => amGet l.mcasts idx) = some m') : (line, cl) ∉ m'.owed := by
  obtain ⟨l, hl, hm⟩ := Option.bind_eq_some_iff.mp h
  unfold lineDone at hl
  split at hl
  · rw [getLoad_modLoad_same] at hl
    obtain ⟨l0, _, rfl⟩ := Option.map_eq_some_iff.mp hl
    dsimp only at hm
    rw [amGet_amDel_same] at hm
    cases hm
  · rw [getLoad_modLoad_same] at hl
    obtain ⟨l0, _, rfl⟩ := Option.map_eq_some_iff.mp hl
    dsimp only at hm
    rw [amGet_amMod_same] at hm
    obtain ⟨m0, _, rfl⟩ := Option.map_eq_some_iff.mp hm
    simp [lineOwed]

/-- The words of consecutive addresses are the bytes from the first on. -/
theorem wordsRead_run (s : State) (pa n : Nat) : wordsRead s ((List.range n).map (fun i => pa + 4 * i)) = readPA s pa (4 * n) := by
  induction n with
  | zero => rfl
  | succ n ih =>
    have hsplit : readPA s pa (4 * (n + 1)) = readPA s pa (4 * n) ++ readPA s (pa + 4 * n) 4 := by
      rw [readPA_eq_map, readPA_eq_map, readPA_eq_map, show 4 * (n + 1) = 4 * n + 4 by ring, List.range_add, List.map_append, List.map_map]
      refine congrArg _ (List.map_congr_left fun k _ => ?_)
      simp [Nat.add_assoc]
    rw [List.range_succ, List.map_append, wordsRead, List.flatMap_append, hsplit, ← ih]
    simp [wordsRead]

section
variable {s : State} (h : s.memOk) {m : Mcast} {pa n : Nat} {bad : Bool}
include h

theorem seen_lineRead (a : Nat) : (lineRead s m pa n bad).2.seen m.cl a = s.seen m.cl a := by
  have hview : SameView (performRead (l2Touch s m.cl pa) m.cl pa (4 * n) .package) (lineRead s m pa n bad).2 := .of_memParts (reread_memParts _ bad)
  rw [hview.seen, seen_performRead _ _ _ _ (l2Touch_ok m.cl pa h), (sameView_l2Touch s m.cl pa).seen]
theorem readPA_lineRead : readPA (lineRead s m pa n bad).2 pa (4 * n) = readBy s m.cl pa (4 * n) := by
  have hview : SameView (performRead (l2Touch s m.cl pa) m.cl pa (4 * n) .package) (lineRead s m pa n bad).2 := .of_memParts (reread_memParts _ bad)
  rw [readPA_eq_map, readBy]
  refine List.map_congr_left fun k hk => ?_
  have hk := List.mem_range.mp hk
  rw [hview.byte, byte_performRead (l2Touch_ok m.cl pa h) _ _ _ (inGranules_of_covered ⟨by omega, by omega⟩), (sameView_l2Touch s m.cl pa).seen]
end

theorem exec_multicastDelivery {s : State} {sp idx cl line : Nat} {x : Span} {l : Load} {m : Mcast} {pas : List Nat} (hs : getSpan s sp = some x)
    (hl : x.load = some l) (hm : amGet l.mcasts idx = some m) (hx : spanActive x = true) (ha : loadActive l = true) (ho : (line, cl) ∈ m.owed)
    (hd : amGet m.data line = none) (hw : engWords s m.cl m.asid 1 m.wf (wordsFrom (mcLo m.src line) ((mcHi m.src m.len line - mcLo m.src line) / 4)) = .ok pas) :
    exec (.multicastDelivery sp idx cl line) s = .next (lineDone
      (modLoad (lineRead s m (pas.getD 0 0) pas.length (pas.any (fun pa => paBad s pa 4))).2 sp
        (lineKept idx line (wordsRead (lineRead s m (pas.getD 0 0) pas.length (pas.any (fun pa => paBad s pa 4))).2 pas)
          (lineRead s m (pas.getD 0 0) pas.length (pas.any (fun pa => paBad s pa 4))).1)) sp idx cl line m
      (wordsRead (lineRead s m (pas.getD 0 0) pas.length (pas.any (fun pa => paBad s pa 4))).2 pas)
      (lineRead s m (pas.getD 0 0) pas.length (pas.any (fun pa => paBad s pa 4))).1) := by
  show execMulticastDelivery sp idx cl line s = _
  unfold execMulticastDelivery
  simp only [hs, hl, Option.bind_some, hm, Option.map_some, hx, ha, ho, not_true_eq_false, decide_false, Bool.not_true, Bool.or_self, Bool.false_eq_true,
    if_false, hd, hw]
  rfl

theorem lineDeliveries : LineDeliveries := by
  intro s sp idx cl line pa n x l m h hs hl hm hx ha ho hd hn _ hpos hn16 hw
  subst hn
  have hi := exec_multicastDelivery hs hl hm hx ha ho hd hw
  generalize (mcHi m.src m.len line - mcLo m.src line) / 4 = n at *
  generalize ((List.range n).map (fun i => pa + 4 * i)).any (fun pa => paBad s pa 4) = bad at hi
  have hfirst : ((List.range n).map (fun i => pa + 4 * i)).getD 0 0 = pa := by
    rw [List.getD_eq_getElem _ _ (by simpa using hpos)]
    simp
  rw [hfirst, wordsRead_run, List.length_map, List.length_range, readPA_lineRead h] at hi
  have hlen : (readBy s m.cl pa (4 * n)).length = 4 * n := by simp [readBy]
  have hstands := deliverLine_stands (modLoad (lineRead s m pa n bad).2 sp (lineKept idx line (readBy s m.cl pa (4 * n)) (lineRead s m pa n bad).1)) cl m line
    (bs := readBy s m.cl pa (4 * n)) (lineRead s m pa n bad).1 (by omega)
  obtain ⟨hbytes, hfull⟩ := hstands
  rw [hlen] at hbytes hfull
  refine ⟨_, hi, fun a => ?_, fun i hi => ?_, fun i hi => ?_, fun m' hm' => lineDone_owed hm'⟩
  · have hview : SameView (lineRead s m pa n bad).2 (lineDone (modLoad (lineRead s m pa n bad).2 sp
        (lineKept idx line (readBy s m.cl pa (4 * n)) (lineRead s m pa n bad).1)) sp idx cl line m (readBy s m.cl pa (4 * n)) (lineRead s m pa n bad).1) :=
      .of_memParts (by rw [lineDone_memParts, modLoad_memParts])
    rw [hview.seen, seen_lineRead h]
  · rw [lineDone_tile]
    refine congrArg (fun b => BitVec.ofNat 32 (natOfBytes b)) ?_
    rw [tileRead_eq_map]
    show _ = (List.range 4).map (fun k => s.seen m.cl (pa + 4 * i + k))
    refine List.map_congr_left fun k hk => ?_
    have hk := List.mem_range.mp hk
    rw [Nat.add_assoc _ (4 * i) k, hbytes (4 * i + k) (by omega), List.getD_eq_getElem _ _ (by omega)]
    simp [readBy, Nat.add_assoc]
  · rw [lineDone_tile]
    exact hfull i (by omega)

/-- Settles O53. -/
theorem fillsWalksAndEvents : Obligations.FillsWalksAndEvents := ⟨lineDeliveries, walkEnds, agingAndEvents⟩

end Sys2Proof.Machine


namespace Sys2Proof.Machine
open Sys2Proof Sys2Proof.Claims

/-! INVR (R200, R377), and the forms of supervisor mode. -/

theorem toNat_eq_zero_iff {w : Nat} (v : BitVec w) : v.toNat = 0 ↔ v = 0#w := by
  rw [← BitVec.toNat_inj, BitVec.toNat_ofNat, Nat.zero_mod]

section
variable {s : State} {d a b : BitVec 5} (hm : bitAt 0 (curGrp s).status = true)
  (ho : asidOwned (getPart s (partOfCl s s.cur.cl)) ((xget (curGrp s) d).toNat % 65536) = true)
  (hr : (xget (curGrp s) a).toNat + (xget (curGrp s) b).toNat ≤ 2 ^ 52)
include hm ho hr

theorem exec_invr : exec (.invr d a b) s = .next (if xget (curGrp s) b = 0#64 then skip (releaseCur s 3) 4
    else modCur (askInval (releaseCur s 3) ((xget (curGrp s) d).toNat % 65536) (xget (curGrp s) a).toNat (xget (curGrp s) b).toNat
      (some (s.cur.cl, s.cur.grp))) (waitFor .invr)) := by
  have hfield : field 15 0 (xget (curGrp s) d) = (xget (curGrp s) d).toNat % 65536 := by simp [field]
  show execInvr d a b s = _
  rw [execInvr, superOnly_super hm, hfield, if_neg (by simp only [ho, Bool.not_true, Bool.false_eq_true, false_or]; omega)]
  simp only [toNat_eq_zero_iff]
end

theorem invalidateByRange : InvalidateByRange := by
  intro s d a b hg hm ho hr
  have hi := exec_invr hm ho hr
  have hgrp := curGrp_releaseCur 3 hg
  have hg1 := grp_releaseCur 3 hg
  have hhub : (releaseCur s 3).hub = { s.hub with dctr := (releaseCur s 3).hub.dctr } := (flushGrp_units s s.cur.cl 3 hg).2.2.2.1
  have hinvals : (releaseCur s 3).hub.invals = s.hub.invals := by rw [hhub]
  generalize releaseCur s 3 = u at *
  refine ⟨fun hb => ?_, fun hb => ?_⟩
  · rw [if_pos hb] at hi
    exact answers_skip hg1 hi (by rw [hgrp]) (by rw [hgrp]) ⟨by rw [curGrp_skip hg1, hgrp]; rfl, mem_of_memParts (skip_memParts u 4), hinvals⟩
  · rw [if_neg hb] at hi
    have hask : ∀ asid lo n who, curGrp (askInval u asid lo n who) = curGrp u := fun _ _ _ _ => rfl
    refine waits_waitFor (s0 := askInval u _ _ _ _) hg1 hi (by rw [hask, hgrp]) (by rw [hask, hgrp]) ⟨?_, ?_, ?_⟩
    · rw [curGrp_modCur (s := askInval u _ _ _ _) hg1, hask, hgrp]
      rfl
    · exact mem_of_memParts (by rw [modCur_memParts, askInval_memParts])
    · rw [← hinvals]
      rfl

theorem superForms_user {s : State} (hg : s.cur.grp < 4) (hm : bitAt 0 (curGrp s).status = false) (a b d : BitVec 5) :
    ∀ i ∈ [Instr.invr d a b, .ctxsv a, .ctxld a, .syEscWrite a, .syEresWrite a], ∃ t, exec i s = .next t ∧ EntersTrap s t 4 5 0 0 := by
  intro i hi
  refine entersTrap_illegal hg hm ?_
  simp only [List.mem_cons, List.not_mem_nil, or_false] at hi
  rcases hi with rfl | rfl | rfl | rfl | rfl <;> exact congrArg Host.Outcome.next (superOnly_user hm _)

/-! Reads of the executing group's area by the hub's walks (R395, R397): they leave memory, and every cluster but the reader's. -/

/-- Two states that differ in what the executing cluster and its die have counted, and in the directory. -/
def QuietRead (s t : State) : Prop := sameButCounts s t ∧ t.memParts = s.memParts ∧ ∀ c, c ≠ s.cur.cl → getCl t c = getCl s c
theorem QuietRead.refl (s : State) : QuietRead s s := ⟨sameButCounts_refl s, rfl, fun _ _ => rfl⟩
theorem QuietRead.trans {s t u : State} (h : QuietRead s t) (k : QuietRead t u) : QuietRead s u := by
  obtain ⟨h1, h2, h3⟩ := h
  obtain ⟨k1, k2, k3⟩ := k
  exact ⟨sameButCounts_trans h1 k1, k2.trans h2, fun c hc => (k3 c (by rw [h1.1]; exact hc)).trans (h3 c hc)⟩
theorem sameButMem_cl {s t : State} (h : sameButMem s t) (c : Nat) : getCl t c = getCl s c := by rw [h]; rfl
theorem getCl_countBoth_ne (s : State) {cl c : Nat} (src n : Nat) (h : c ≠ cl) : getCl (countBoth s cl src n) c = getCl s c := by
  unfold countBoth
  rw [getCl_modHub, getCl_modCl_ne _ _ h]
theorem getCl_l2Touch_ne (s : State) {cl c : Nat} (pa : Nat) (h : c ≠ cl) : getCl (l2Touch s cl pa) c = getCl s c := by
  unfold l2Touch
  dsimp only
  rw [sameButMem_cl (dirRead_same _ _ _ _)]
  split
  · rw [getCl_countBoth_ne _ _ _ h, getCl_countBoth_ne _ _ _ h]
  · rw [getCl_countBoth_ne _ _ _ h]
theorem l2Touch_quiet (s : State) (pa : Nat) : QuietRead s (l2Touch s s.cur.cl pa) :=
  ⟨l2Touch_counts s _ pa, l2Touch_memParts s _ pa, fun _ h => getCl_l2Touch_ne s pa h⟩
theorem touchLines_quiet (s : State) (pas : List Nat) : QuietRead s (touchLines s s.cur.cl pas) := by
  refine foldl_inv _ (QuietRead s) (fun t l ht => ht.trans ?_) _ (.refl s)
  rw [← ht.1.1]
  exact l2Touch_quiet t _
theorem areaTouch_quiet (s : State) (va n : Nat) (pas : List Nat) : QuietRead s (areaTouch s va n pas) := touchLines_quiet s _
theorem getCl_performAll_ne (ps : List PStore) (s : State) {cl c : Nat} (r : Reach) (h : c ≠ cl) : getCl (performAll s cl r ps) c = getCl s c := by
  induction ps generalizing s with
  | nil => rfl
  | cons p ps ih =>
    rw [performAll, ih, l2At, sameButMem_cl (performAt_same _ _ _ _ _ _), l2Take, sameButMem_cl (dirRead_same _ _ _ _), getCl_countBoth_ne _ _ _ h]
/-- A release changes no other cluster. -/
theorem getCl_flushGrp_ne (s : State) {cl c : Nat} (g sc : Nat) (h : c ≠ cl) : getCl (flushGrp s cl g sc) c = getCl s c := by
  rw [flushGrp_eq, sameButMem_cl (performSeen_same _ _ _), storesPerformed, modGrp, modCore, getCl_modCl_ne _ _ h, getCl_performAll_ne _ _ _ h]

/-! What such a read does not change of the walks to come. -/

section
variable {s t : State} (hm : t.mem = s.mem)
include hm

theorem readPAn_congr (a n : Nat) : readPAn t a n = readPAn s a n := by
  rw [readPAn, readPA, hm]
  rfl
theorem walkLevel_congr (P : Partition) (asid va lv tbl : Nat) : walkLevel t P asid va lv tbl = walkLevel s P asid va lv tbl := by
  induction lv generalizing tbl with
  | zero =>
    unfold walkLevel
    dsimp only
    rw [readPAn_congr hm]
  | succ lv ih =>
    unfold walkLevel
    dsimp only
    rw [readPAn_congr hm]
    simp only [ih]
theorem hubWords_congr {part : Nat} (hp : getPart t part = getPart s part) (ptbr : W64) (asid need n va : Nat) :
    hubWords t part ptbr asid need n va = hubWords s part ptbr asid need n va := by
  have hwalk : ∀ va, walkTables t part ptbr asid va = walkTables s part ptbr asid va := fun va => by
    unfold walkTables
    dsimp only
    rw [hp, readPAn_congr hm, walkLevel_congr hm]
  have htrans : ∀ va, hubTranslate t part ptbr asid va need = hubTranslate s part ptbr asid va need := fun va => by
    rw [hubTranslate, hwalk]
    rfl
  induction n generalizing va with
  | zero => rfl
  | succ n ih => simp only [hubWords, htrans, ih]
theorem wordsRead_congr (pas : List Nat) : wordsRead t pas = wordsRead s pas := by
  simp only [wordsRead, readPA, hm]
end
theorem sameButCounts_spanAt {s t : State} (h : sameButCounts s t) (c : Nat) : spanAt t c = spanAt s c := by
  unfold spanAt getSpan
  rw [sameButCounts_cl h c, h.2.1]
theorem QuietRead.areaWords {s t : State} (h : QuietRead s t) (need va n : Nat) : areaWords t need va n = Machine.areaWords s need va n := by
  obtain ⟨hc, hmem, _⟩ := h
  have hgrp : curGrp t = curGrp s := by rw [curGrp, hc.1, sameButCounts_grp hc]; rfl
  unfold Machine.areaWords
  rw [hgrp, hc.1, partOfCl_of_spanAt (sameButCounts_spanAt hc s.cur.cl), sameButCounts_core hc]
  exact hubWords_congr (mem_of_memParts hmem) (getPart_of_hub hc.2.2.2.2.2.2.2.1 _) _ _ _ _ _

end Sys2Proof.Machine


namespace Sys2Proof.Machine
open Sys2Proof Sys2Proof.Claims

/-! CTXSV and CTXLD (R200, R391, R397). -/

section
variable {s t : State} (h : QuietRead s t)
include h

theorem QuietRead.curGrp_eq : curGrp t = curGrp s := by
  rw [curGrp, h.1.1, sameButCounts_grp h.1]
  rfl
theorem QuietRead.getSpan_eq (k : Nat) : getSpan t k = getSpan s k := by
  rw [getSpan, h.1.2.1]
  rfl
theorem QuietRead.partOfCl_eq (c : Nat) : partOfCl t c = partOfCl s c := partOfCl_of_spanAt (sameButCounts_spanAt h.1 c)
theorem QuietRead.spanSettled_eq (x : Span) : spanSettled t x = spanSettled s x := by
  unfold spanSettled
  refine List.all_congr rfl fun c => ?_
  rw [sameButCounts_cl h.1 c]
theorem QuietRead.saveSpan_eq {lead : Nat} {x : Span} (hx : getSpan s lead = some x) (hp : x.part = partOfCl s s.cur.cl) (hf : x.phase = .frozen) :
    saveSpan t lead = some x := by
  have hpre : preSpan t (partOfCl t t.cur.cl) lead .frozen = some x := by
    rw [preSpan, h.getSpan_eq, hx, h.1.1, h.partOfCl_eq, Option.filter_some, if_pos (by simp [hp, hf])]
  rw [saveSpan]
  simp only [hpre]
end

/-- The states in which CTXSV has read the header of its area and then found the rest. -/
def saveRead (u : State) (va n : Nat) (pas : List Nat) : State := areaTouch (areaTouch u va 4096 pas) va n []
theorem saveRead_quiet (u : State) (va n : Nat) (pas : List Nat) : QuietRead u (saveRead u va n pas) := (areaTouch_quiet u va 4096 pas).trans (areaTouch_quiet _ va n [])

/-- What CTXSV does with the span it finds: its area, which `w` translates for a number of bytes, takes the saved bytes or the opened header. -/
def saveInto (w : Nat → VAcc (List Nat)) (u : State) (va lead : Nat) : Option Span → State
  | none => illegal u 6
  | some x =>
    match w (4096 + x.clusters.length * areaCSZ) with
    | .miss v => takeTrap (undoSave u lead) ⟨1, 0, 0, v⟩
    | .fault c v => takeTrap (undoSave u lead) ⟨c, 0, 0, v⟩
    | .ok pas =>
      if !spanSettled (areaTouch u va (4096 + x.clusters.length * areaCSZ) []) x then
        modCur (writeWords (beginSave (areaTouch u va (4096 + x.clusters.length * areaCSZ) []) lead) (pas.take 1024) (openHeader lead x)) (waitFor (.save lead))
      else
        skip (writeWords (releaseSaved (areaTouch u va (4096 + x.clusters.length * areaCSZ) []) lead x).2 pas
          (releaseSaved (areaTouch u va (4096 + x.clusters.length * areaCSZ) []) lead x).1) 4

theorem saveInto_ok {w : Nat → VAcc (List Nat)} {u : State} {va lead n : Nat} {x : Span} {out : List Nat}
    (hn : n = 4096 + x.clusters.length * areaCSZ) (hw : w n = .ok out) :
    saveInto w u va lead (some x) = if spanSettled (areaTouch u va n []) x then
        skip (writeWords (releaseSaved (areaTouch u va n []) lead x).2 out (releaseSaved (areaTouch u va n []) lead x).1) 4
      else modCur (writeWords (beginSave (areaTouch u va n []) lead) (out.take 1024) (openHeader lead x)) (waitFor (.save lead)) := by
  rw [saveInto, ← hn, hw]
  cases spanSettled (areaTouch u va n []) x <;> rfl

section
variable {s : State} {a : BitVec 5} {va : Nat} {pas : List Nat} (hm : bitAt 0 (curGrp s).status = true) (hva : va = (xget (curGrp s) a).toNat % 2 ^ 52)
  (hal : va % 4096 = 0) (hpas : areaWords (releaseCur s 3) 1 va 4096 = .ok pas)
include hm hva hal hpas

/-- CTXSV reads the header of its area, whose LEAD field names the span. -/
theorem exec_ctxsv_saveInto {t : State} (ht : t = areaTouch (releaseCur s 3) va 4096 pas) :
    exec (.ctxsv a) s = .next (saveInto (areaWords t 2 va) t va (hdrLEAD (wordsRead t pas)) (saveSpan t (hdrLEAD (wordsRead t pas)))) := by
  show execCtxsv a s = _
  rw [execCtxsv, superOnly_super hm]
  simp only [← hva, hal, ne_eq, not_true_eq_false, if_false]
  rw [hpas]
  subst ht
  rfl

theorem exec_ctxsv {x : Span} {lead n : Nat} {out : List Nat} (hlead : lead = hdrLEAD (wordsRead (releaseCur s 3) pas))
    (hx : getSpan (releaseCur s 3) lead = some x) (hp : x.part = partOfCl (releaseCur s 3) (releaseCur s 3).cur.cl) (hf : x.phase = .frozen)
    (hn : n = 4096 + x.clusters.length * areaCSZ) (hout : areaWords (releaseCur s 3) 2 va n = .ok out) :
    exec (.ctxsv a) s = .next (if spanSettled (releaseCur s 3) x then
        skip (writeWords (releaseSaved (saveRead (releaseCur s 3) va n pas) lead x).2 out (releaseSaved (saveRead (releaseCur s 3) va n pas) lead x).1) 4
      else modCur (writeWords (beginSave (saveRead (releaseCur s 3) va n pas) lead) (out.take 1024) (openHeader lead x)) (waitFor (.save lead))) := by
  rw [exec_ctxsv_saveInto hm hva hal hpas rfl]
  generalize releaseCur s 3 = u at *
  have hq := areaTouch_quiet u va 4096 pas
  rw [wordsRead_congr (mem_of_memParts hq.2.1), ← hlead, hq.saveSpan_eq hx hp hf, saveInto_ok hn ((hq.areaWords 2 va n).trans hout),
    show areaTouch (areaTouch u va 4096 pas) va n [] = saveRead u va n pas from rfl, (saveRead_quiet u va n pas).spanSettled_eq]

end

/-- The clusters of a list as at reset. -/
theorem clustersReset_keeps (l : List Nat) (s : State) :
    (∃ k, l.foldl (fun s c => modCl s c (fun _ => clusterReset)) s = { s with clusters := k }) ∧
      ∀ c, c ∉ l → getCl (l.foldl (fun s c => modCl s c (fun _ => clusterReset)) s) c = getCl s c := by
  induction l generalizing s with
  | nil => exact ⟨⟨_, rfl⟩, fun _ _ => rfl⟩
  | cons d l ih =>
    obtain ⟨⟨k, hk⟩, hrest⟩ := ih (modCl s d fun _ => clusterReset)
    refine ⟨⟨k, hk⟩, fun c hc => ?_⟩
    obtain ⟨hne, hc⟩ := not_or.1 (fun h => hc (List.mem_cons.2 h))
    exact (hrest c hc).trans (getCl_modCl_ne _ _ hne)

theorem releaseSaved_cur (s : State) (lead : Nat) (x : Span) : (releaseSaved s lead x).2.cur = s.cur := by
  obtain ⟨k, hk⟩ := (clustersReset_keeps x.clusters (takeFree s).2).1
  have hcur := congrArg State.cur hk
  exact hcur
theorem releaseSaved_getCl {s : State} {c : Nat} (lead : Nat) {x : Span} (hc : c ∉ x.clusters) : getCl (releaseSaved s lead x).2 c = getCl s c :=
  (clustersReset_keeps x.clusters (takeFree s).2).2 c hc
theorem releaseSaved_getSpan (s : State) (lead : Nat) (x : Span) : getSpan (releaseSaved s lead x).2 lead = none := by
  refine (amGet_amMap _ _ _).trans ?_
  rw [amGet_amDel_same]
  rfl
theorem releaseSaved_saves (s : State) (lead : Nat) (x : Span) :
    ∃ v ∈ (releaseSaved s lead x).2.hub.saves, v.span = x ∧ v.records = x.clusters.map (getCl s) :=
  ⟨_, List.mem_append_right _ (List.mem_singleton_self _), rfl, rfl⟩

/-- Writing an area leaves the units. -/
theorem curGrp_writeWords (s : State) (l : List Nat) (bs : List Byte) : curGrp (writeWords s l bs) = curGrp s := by
  rw [writeWords_same l s bs]
  rfl
theorem getSpan_writeWords (s : State) (l : List Nat) (bs : List Byte) (k : Nat) : getSpan (writeWords s l bs) k = getSpan s k := by
  rw [writeWords_same l s bs]
  rfl
theorem hub_writeWords (s : State) (l : List Nat) (bs : List Byte) : (writeWords s l bs).hub = s.hub := by
  rw [writeWords_same l s bs]
theorem cur_writeWords (s : State) (l : List Nat) (bs : List Byte) : (writeWords s l bs).cur = s.cur := by
  rw [writeWords_same l s bs]

/-- What a release leaves to CTXSV and CTXLD. -/
theorem partOfCl_releaseCur (s : State) (sc c : Nat) (hg : s.cur.grp < 4) : partOfCl (releaseCur s sc) c = partOfCl s c := by
  refine partOfCl_of_spanAt ?_
  unfold spanAt getSpan
  rw [getCl_releaseCur s sc hg c, spans_releaseCur s sc hg]

section
variable {s : State} {a : BitVec 5} {va : Nat} {pas : List Nat} (hg : s.cur.grp < 4) (hm : bitAt 0 (curGrp s).status = true)
  (hva : va = (xget (curGrp s) a).toNat % 2 ^ 52) (hal : va % 4096 = 0) (hpas : areaWords (releaseCur s 3) 1 va 4096 = .ok pas)
  {x : Span} {lead n : Nat} {out : List Nat} (hlead : lead = hdrLEAD (wordsRead (releaseCur s 3) pas)) (hx : getSpan s lead = some x)
  (hp : x.part = partOfCl s s.cur.cl) (hf : x.phase = .frozen) (hc : s.cur.cl ∉ x.clusters) (hn : n = 4096 + x.clusters.length * areaCSZ)
  (hout : areaWords (releaseCur s 3) 2 va n = .ok out)
include hg hm hva hal hpas hlead hx hp hf hc hn hout

theorem ctxsv_answers (hset : spanSettled (releaseCur s 3) x = true) : Answers (.ctxsv a) s 0#5 0#64 (fun t => getSpan t lead = none ∧
    ∃ v ∈ t.hub.saves, v.span = x ∧ v.records = x.clusters.map (getCl s)) := by
  have hcl : ∀ c, c ≠ s.cur.cl → getCl (releaseCur s 3) c = getCl s c := fun c h => getCl_flushGrp_ne s _ _ h
  have hgrp := curGrp_releaseCur 3 hg
  have hcur := releaseCur_cur s 3
  have hi := exec_ctxsv hm hva hal hpas hlead (by rw [← hx, getSpan, spans_releaseCur s 3 hg]; rfl)
    (by rw [hcur, partOfCl_releaseCur s 3 _ hg, hp]) hf hn hout
  rw [if_pos hset] at hi
  clear hpas hlead hout hset
  generalize releaseCur s 3 = u at *
  have hq := saveRead_quiet u va n pas
  generalize saveRead u va n pas = r at *
  have hrc : r.cur = s.cur := hq.1.1.trans hcur
  obtain ⟨v, hv, hspan, hrec⟩ := releaseSaved_saves r lead x
  have hsaved : curGrp (releaseSaved r lead x).2 = curGrp r := by
    rw [curGrp, curGrp, getGrp, releaseSaved_cur, releaseSaved_getCl lead (hrc ▸ hc)]
    rfl
  have hw := curGrp_writeWords (releaseSaved r lead x).2 out (releaseSaved r lead x).1
  rw [hsaved, hq.curGrp_eq, hgrp] at hw
  refine answers_skip (by rw [cur_writeWords, releaseSaved_cur, hrc]; exact hg) hi (by rw [hw]) (by rw [hw]) ⟨?_, v, ?_, hspan, ?_⟩
  · exact (getSpan_writeWords _ _ _ _).trans (releaseSaved_getSpan r lead x)
  · rw [show (skip _ 4).hub = _ from hub_writeWords (releaseSaved r lead x).2 out (releaseSaved r lead x).1]
    exact hv
  · rw [hrec]
    refine List.map_congr_left fun c hmem => ?_
    have hne : c ≠ s.cur.cl := fun h => hc (h ▸ hmem)
    exact (hq.2.2 c (by rw [hcur]; exact hne)).trans (hcl c hne)

omit hc in
theorem ctxsv_waits (hset : spanSettled (releaseCur s 3) x = false) : Waits (.ctxsv a) s (.save lead) (fun t =>
    ∃ y, getSpan t lead = some y ∧ y.phase = .saving ∧ y.saveBy = some (s.cur.cl, s.cur.grp) ∧ y.clusters = x.clusters) := by
  have hgrp := curGrp_releaseCur 3 hg
  have hcur := releaseCur_cur s 3
  have hxr : getSpan (releaseCur s 3) lead = some x := by rw [← hx, getSpan, spans_releaseCur s 3 hg]; rfl
  have hi := exec_ctxsv hm hva hal hpas hlead hxr (by rw [hcur, partOfCl_releaseCur s 3 _ hg, hp]) hf hn hout
  rw [if_neg (by rw [hset]; decide)] at hi
  clear hpas hlead hout hset
  generalize releaseCur s 3 = u at *
  have hq := saveRead_quiet u va n pas
  generalize saveRead u va n pas = r at *
  have hrc : r.cur = s.cur := hq.1.1.trans hcur
  have hw := (curGrp_writeWords (beginSave r lead) (out.take 1024) (openHeader lead x)).trans (hq.curGrp_eq.trans hgrp)
  refine waits_waitFor (by rw [cur_writeWords]; exact hrc ▸ hg) hi (by rw [hw]) (by rw [hw])
    ⟨{ x with phase := .saving, saveBy := some (s.cur.cl, s.cur.grp) }, ?_, rfl, rfl, rfl⟩
  refine (getSpan_writeWords _ _ _ _).trans ((amGet_amMod_same _ _ _).trans ?_)
  rw [show amGet r.spans lead = some x from (hq.getSpan_eq lead).trans hxr, hrc]
  rfl
end

/-! CTXLD of a group area. -/

/-- What CTXLD does with the header it finds, whose area's rest `w` translates for a number of bytes. -/
def restoreFrom (w : Nat → VAcc (List Nat)) (s : State) (va : Nat) (hdr : List Byte) : State :=
  let size := if hdrOk hdr 2 then 312 else hdrNCL hdr * areaCSZ
  if !hdrOk hdr 2 && !spanHdrOk hdr then illegal s 11
  else
    match w size with
    | .miss v => takeTrap s ⟨1, 0, 0, v⟩
    | .fault c v => takeTrap s ⟨c, 0, 0, v⟩
    | .ok body =>
      let s := areaTouch s (va + 4096) size body
      if hdrOk hdr 2 then restoreGroup s hdr (wordsRead s body)
      else
        match tryRestore s (partOfCl s s.cur.cl) (hdrLEAD hdr) hdr (wordsRead s body) with
        | .err 2 => illegal s 11
        | .err _ => illegal s 6
        | .ok t => skip t 4
theorem restoreFrom_group {w : Nat → VAcc (List Nat)} {s : State} {va : Nat} {hdr : List Byte} {body : List Nat} (hk : hdrOk hdr 2 = true)
    (hw : w 312 = .ok body) : restoreFrom w s va hdr =
      restoreGroup (areaTouch s (va + 4096) 312 body) hdr (wordsRead (areaTouch s (va + 4096) 312 body) body) := by
  rw [restoreFrom, hk]
  simp only [if_true, hw]
  rfl

/-- CTXLD reads the header of its area. -/
theorem exec_ctxld_restoreFrom {s : State} {a : BitVec 5} {va : Nat} {pas : List Nat} (hm : bitAt 0 (curGrp s).status = true)
    (hva : va = (xget (curGrp s) a).toNat % 2 ^ 52) (hal : va % 4096 = 0) (hpas : areaWords (releaseCur s 3) 1 va 4096 = .ok pas)
    {t : State} (ht : t = areaTouch (releaseCur s 3) va 4096 pas) :
    exec (.ctxld a) s = .next (restoreFrom (areaWords t 1 (va + 4096)) t va (wordsRead t pas)) := by
  show execCtxld a s = _
  rw [execCtxld, superOnly_super hm]
  simp only [← hva, hal, ne_eq, not_true_eq_false, if_false]
  rw [hpas]
  subst ht
  rfl

theorem restoreGroup_stopped {s : State} {hdr body : List Byte} (hcrc : crcOk hdr body = true) (hp : hdrPART hdr = partOfCl s s.cur.cl)
    (hk : hdrGRP hdr < 4) (hst : (getGrp s (hdrLEAD hdr) (hdrGRP hdr)).st = .stopped) (hlead : partOfCl s (hdrLEAD hdr) = partOfCl s s.cur.cl) :
    restoreGroup s hdr body = skip (modGrp s (hdrLEAD hdr) (hdrGRP hdr) (groupOfBytes body (now s (hdrLEAD hdr)))) 4 := by
  unfold restoreGroup
  dsimp only
  rw [if_neg (by simp only [hcrc, hp]; simp; omega), if_neg (by simp [hst, hlead])]

theorem vec32Get_of {α : Type} (f : Nat → α) {i : Nat} (hi : i < 32) : vec32Get (vec32Of f) i = f i := by
  unfold vec32Get vec32Of
  split
  · next h => rw [vec16Get_of _ _ h, Nat.zero_add]
  · next h => rw [vec16Get_of _ _ (by omega)]; congr 1; omega
theorem xget_groupOfBytes (bs : List Byte) (t : Nat) (g : Group) (q : BitVec 5) :
    xget (groupOfBytes bs t g) q = if q = 0#5 then 0#64 else BitVec.ofNat 64 (hdrNat bs (8 * q.toNat) 8) := by
  unfold xget groupOfBytes
  dsimp only
  rw [vec32Get_of _ (by omega)]

section
variable {s : State} {a : BitVec 5} {va : Nat} {pas : List Nat} (hg : s.cur.grp < 4) (hm : bitAt 0 (curGrp s).status = true)
  (hva : va = (xget (curGrp s) a).toNat % 2 ^ 52) (hal : va % 4096 = 0) (hpas : areaWords (releaseCur s 3) 1 va 4096 = .ok pas)
  {hdr bs : List Byte} {body : List Nat} (hhdr : hdr = wordsRead (releaseCur s 3) pas) (hk : hdrOk hdr 2 = true)
  (hbody : areaWords (releaseCur s 3) 1 (va + 4096) 312 = .ok body) (hbs : bs = wordsRead (releaseCur s 3) body)
  (hcrc : crcOk hdr bs = true) (hp : hdrPART hdr = partOfCl s s.cur.cl) (hgrp4 : hdrGRP hdr < 4)
  (hst : (getGrp s (hdrLEAD hdr) (hdrGRP hdr)).st = .stopped) (hl : partOfCl s (hdrLEAD hdr) = partOfCl s s.cur.cl)
  (hne : hdrLEAD hdr ≠ s.cur.cl ∨ hdrGRP hdr ≠ s.cur.grp)
include hg hm hva hal hpas hhdr hk hbody hbs hcrc hp hgrp4 hst hl hne

theorem ctxld_answers : Answers (.ctxld a) s 0#5 0#64 (fun t => (getGrp t (hdrLEAD hdr) (hdrGRP hdr)).st = .ready ∧ t.mem = (releaseCur s 3).mem ∧
    ∀ q : BitVec 5, xget (getGrp t (hdrLEAD hdr) (hdrGRP hdr)) q = if q = 0#5 then 0#64 else BitVec.ofNat 64 (hdrNat bs (8 * q.toNat) 8)) := by
  have hi := exec_ctxld_restoreFrom hm hva hal hpas rfl
  have hst' : (getGrp (releaseCur s 3) (hdrLEAD hdr) (hdrGRP hdr)).st = .stopped := by
    rw [releaseCur, (flushGrp_units s s.cur.cl 3 hg).2.2.2.2.2 _ _ hgrp4 hne, hst]
  have hpart := fun c => partOfCl_releaseCur s 3 c hg
  have hcurgrp := curGrp_releaseCur 3 hg
  have hcur := releaseCur_cur s 3
  clear hst
  generalize releaseCur s 3 = u at *
  have hq1 := areaTouch_quiet u va 4096 pas
  rw [wordsRead_congr (mem_of_memParts hq1.2.1), ← hhdr, restoreFrom_group hk ((hq1.areaWords 1 _ _).trans hbody)] at hi
  have hq := hq1.trans (areaTouch_quiet _ (va + 4096) 312 body)
  rw [wordsRead_congr (mem_of_memParts hq.2.1), ← hbs] at hi
  generalize areaTouch (areaTouch u va 4096 pas) (va + 4096) 312 body = r at *
  have hrc : r.cur = s.cur := hq.1.1.trans hcur
  have hrp : ∀ c, partOfCl r c = partOfCl s c := fun c => (hq.partOfCl_eq c).trans (hpart c)
  rw [restoreGroup_stopped hcrc (by rw [hrc, hrp, hp]) hgrp4 (by rw [sameButCounts_grp hq.1, hst']) (by rw [hrc, hrp, hrp, hl])] at hi
  generalize hf : groupOfBytes bs (now r (hdrLEAD hdr)) = f at hi
  have hcg : curGrp (modGrp r (hdrLEAD hdr) (hdrGRP hdr) f) = curGrp u := by
    rw [← hq.curGrp_eq]
    exact getGrp_modGrp_ne r _ hgrp4 (hrc ▸ hg) (by rw [show (modGrp r _ _ f).cur = s.cur from hrc]; exact hne.imp Ne.symm Ne.symm)
  have hgt : getGrp (skip (modGrp r (hdrLEAD hdr) (hdrGRP hdr) f) 4) (hdrLEAD hdr) (hdrGRP hdr) = f (getGrp r (hdrLEAD hdr) (hdrGRP hdr)) :=
    (getGrp_modGrp_ne _ _ (hrc ▸ hg) hgrp4 (by rw [show (modGrp r _ _ f).cur = s.cur from hrc]; exact hne)).trans (getGrp_modGrp_same r _ f hgrp4)
  refine answers_skip (hrc ▸ hg) hi (by rw [hcg, hcurgrp]) (by rw [hcg, hcurgrp]) ⟨?_, ?_, fun q => ?_⟩
  · rw [hgt, ← hf]; rfl
  · exact mem_of_memParts ((skip_memParts _ 4).trans hq.2.1)
  · rw [hgt, ← hf, xget_groupOfBytes]
end

theorem contextSaveAndLoad : ContextSaveAndLoad := by
  intro s a b d hg
  refine ⟨fun hm hal r pas hr hpas => ?_, fun hm => superForms_user hg hm a b d⟩
  subst hr
  exact ⟨fun x out lead hlead hx hp hf hc hout =>
      ⟨ctxsv_answers hg hm rfl hal hpas hlead hx hp hf hc rfl hout, ctxsv_waits hg hm rfl hal hpas hlead hx hp hf rfl hout⟩,
    fun body hdr bs hhdr hk hbody hbs hcrc hp hgrp4 hst hl hne =>
      ctxld_answers hg hm rfl hal hpas hhdr hk hbody hbs hcrc hp hgrp4 hst hl hne⟩

/-- Settles O44. -/
theorem invalidationAndContexts : Obligations.InvalidationAndContexts := ⟨invalidateByRange, contextSaveAndLoad⟩

end Sys2Proof.Machine


namespace Sys2Proof.Machine
open Sys2Proof Sys2Proof.Claims

/-! STRM, MCAST and PATLD (R181 to R183, R205). -/

theorem alGet_none_of_fresh {α : Type} (l : List (Nat × α)) {n : Nat} (h : ∀ p ∈ l, p.1 < n) : alGet l n = none := by
  induction l with
  | nil => rfl
  | cons p l ih =>
    rw [alGet, if_neg (Nat.ne_of_gt (h p (.head _)))]
    exact ih fun q hq => h q (.tail _ hq)
theorem le_foldl_fresh {α : Type} (l : List (Nat × α)) (n : Nat) :
    n ≤ l.foldl (fun a p => max a (p.1 + 1)) n ∧ ∀ p ∈ l, p.1 < l.foldl (fun a p => max a (p.1 + 1)) n := by
  induction l generalizing n with
  | nil => exact ⟨le_rfl, fun _ h => nomatch h⟩
  | cons q l ih =>
    obtain ⟨hn, hl⟩ := ih (max n (q.1 + 1))
    refine ⟨(le_max_left _ _).trans hn, fun p hp => ?_⟩
    rcases List.mem_cons.mp hp with rfl | hp
    · exact (le_max_right _ _).trans hn
    · exact hl p hp
/-- The fresh key is no key of the map. -/
theorem amGet_amFresh {α : Type} (m : AMap α) : amGet m (amFresh m) = none := alGet_none_of_fresh _ (le_foldl_fresh _ 0).2

theorem mem_onesOf (n m i : Nat) : i ∈ onesOf n m ↔ i < n ∧ m.testBit i = true := by simp [onesOf]

/-- The block of an instruction that releases at span scope is read as its cluster sees it. -/
theorem seen_blockRead {s : State} (h : s.memOk) (sc : Nat) (pas : List Nat) (k : Nat) :
    (blockRead s sc pas).seen s.cur.cl k = (releaseCur s sc).seen s.cur.cl k :=
  seen_touchRead (flushGrp_ok s.cur.cl s.cur.grp sc h) s.cur.cl pas k
theorem seen_of_memParts {s t : State} (h : t.memParts = s.memParts) (c k : Nat) : t.seen c k = s.seen c k :=
  (SameView.of_memParts h).seen c k
theorem blockRead_serial (s : State) (sc : Nat) (pas : List Nat) : (blockRead s sc pas).serial = s.serial := by
  have hrel := sameButMem_counts (performSeen_same (storesPerformed s s.cur.cl s.cur.grp sc) s.cur.cl (instOf s s.cur.cl sc))
  rw [← flushGrp_eq] at hrel
  obtain ⟨-, -, -, -, -, -, hr, -⟩ := hrel
  obtain ⟨-, -, -, -, -, -, ht, -⟩ := touchRead_counts (releaseCur s sc) s.cur.cl pas
  obtain ⟨-, -, -, -, -, -, hp, -⟩ := performAll_counts (getGrp s s.cur.cl s.cur.grp).stores s s.cur.cl (instOf s s.cur.cl sc)
  exact ht.trans (hr.trans hp)

theorem startCheck_counts {s t : State} (h : sameButCounts s t) (l : Load) (who rel cl n : Nat) (w : List W64) :
    startCheck t l who rel cl n w = startCheck s l who rel cl n w := by
  have hb : bindingAt t who cl (scbGCTX w) = bindingAt s who cl (scbGCTX w) := by
    have hctx : getCtx t cl (scbGCTX w) = getCtx s cl (scbGCTX w) := by rw [getCtx, sameButCounts_cl h cl]; rfl
    have hnow : now t who = now s who := by rw [now, cycleOf, h.2.2.1]; rfl
    rw [bindingAt, bindingAt, hctx, hnow]
  unfold startCheck
  rw [hb]

theorem takeTicket_eq {s : State} {sp : Nat} {x : Span} (h : getSpan s sp = some x) : takeTicket s sp =
    (x.ticket, modCur (modSpan s sp (fun x => { x with ticket := x.ticket + 1 })) (fun g => { g with tickets := g.tickets ++ [x.ticket] })) := by
  rw [takeTicket, h]
/-- The port and the cluster that STRM and PATLD name. -/
theorem portFields {v : W64} {n rel : Nat} (hv : v.toNat = n + 8 * rel) (hn : n < 8) (hr : rel < 4096) :
    field 2 0 v = n ∧ field 14 3 v = rel ∧ field 63 15 v = 0 := by
  unfold field
  rw [hv]
  omega

/-! STRM. -/

/-- A change of a cluster outside its core leaves every group. -/
theorem core_modCl (s : State) (cl c : Nat) {f : Cluster → Cluster} (hf : ∀ k : Cluster, (f k).core = k.core) :
    (getCl (modCl s cl f) c).core = (getCl s c).core := by
  rw [getCl_modCl]
  split
  · next h => rw [hf, h]
  · rfl
theorem curGrp_pushStream (s : State) (cl n : Nat) (st : Stream) : curGrp (pushStream s cl n st) = curGrp s :=
  getGrp_congr (core_modCl s cl s.cur.cl (f := fun c => { c with
    ports := amPut c.ports n { amGetD c.ports n portReset with q := (amGetD c.ports n portReset).q ++ [{ st with ord := s.serial }] } }) fun _ => rfl) _
theorem getPort_modPort_same (s : State) (cl p : Nat) (f : SPort → SPort) : getPort (modPort s cl p f) cl p = f (getPort s cl p) := by
  rw [getPort, modPort, getCl_modCl, if_pos rfl, amGetD_amPut_same]
  rfl
theorem getPort_pushStream (s : State) (cl n : Nat) (st : Stream) :
    (getPort (pushStream s cl n st) cl n).q = (getPort s cl n).q ++ [{ st with ord := s.serial }] :=
  congrArg SPort.q (getPort_modPort_same s cl n (fun p => { p with q := p.q ++ [{ st with ord := s.serial }] }))
theorem getPort_modCur (s : State) (f : Group → Group) (cl p : Nat) : getPort (modCur s f) cl p = getPort s cl p := by
  rw [getPort, modCur, modGrp, modCore, getCl_modCl]
  split
  · next h => subst h; rfl
  · rfl

theorem getPort_blockRead (s : State) {sc : Nat} (hg : s.cur.grp < 4) (pas : List Nat) (c p : Nat) : getPort (blockRead s sc pas) c p = getPort s c p := by
  rw [getPort, blockRead_cl hg pas c]
  rfl

section
variable {s : State} {a b : BitVec 5} {sp cl rel n : Nat} {x : Span} {l : Load} {bind : Option Binding} {pas : List Nat}
  (hg : s.cur.grp < 4) (hs : spanAt s s.cur.cl = some (sp, x)) (hl : x.load = some l) (hph : l.phase = .ready ∨ l.phase = .running)
  (hb : (xget (curGrp s) b).toNat = n + 8 * rel) (hn : n < 8) (hrel : rel < 4096) (hcl : x.clusters[rel]? = some cl)
  (hal : (xget (curGrp s) a).toNat % 2 ^ 52 % 32 = 0)
  (hw : vaWords (releaseCur s 1) s.cur.cl (curGrp s).asid 1 20 ((xget (curGrp s) a).toNat % 2 ^ 52) = .ok pas)
  (hport : (hasIn l (portEnd rel n) || hasOut l (portEnd rel n)) = true)
  (hstart : startCheck (releaseCur s 1) l s.cur.cl rel cl n (words64 (wordsRead (blockRead s 1 pas) pas) 10) = .ok bind)
include hg hs hl hph hb hn hrel hcl hal hw hport hstart

omit hg in
theorem exec_strm : exec (.strm a b) s = .next (if 8 ≤ (getPort (blockRead s 1 pas) cl n).q.length
    then modCur (blockRead s 1 pas) (waitFor (.stream cl n))
    else skip (pushStream (takeTicket (blockRead s 1 pas) sp).2 cl n (streamNew ((xget (curGrp s) a).toNat % 2 ^ 52)
      (words64 (wordsRead (blockRead s 1 pas) pas) 10) (curGrp s).asid (takeTicket (blockRead s 1 pas) sp).1
      (scbKind (words64 (wordsRead (blockRead s 1 pas) pas) 10)) bind)) 4) := by
  obtain ⟨h1, h2, h3⟩ := portFields hb hn hrel
  have hload : curLoad s = some l := by rw [curLoad, hs]; exact hl
  have hphase : ¬(l.phase ≠ .ready ∧ l.phase ≠ .running) := by tauto
  have hbad : ¬(field 63 15 (xget (curGrp s) b) ≠ 0 ∨ (xget (curGrp s) a).toNat % 2 ^ 52 % 32 ≠ 0 ∨
      (!hasIn l (portEnd rel n) && !hasOut l (portEnd rel n)) = true) := by
    simp only [h3, hal, ne_eq, not_true_eq_false, false_or, Bool.and_eq_true, Bool.not_eq_true', not_and]
    intro hin
    simpa [hin] using hport
  have hcheck : startCheck (blockRead s 1 pas) l s.cur.cl rel cl n (words64 (wordsRead (blockRead s 1 pas) pas) 10) = .ok bind :=
    (startCheck_counts (touchRead_counts _ _ _) l _ rel cl n _).trans hstart
  show execStrm a b s = _
  unfold execStrm
  simp only [hs, hload, if_neg hphase, h1, h2, absOf, hcl, if_neg hbad, releaseCur_cur, hw]
  rw [show touchRead (releaseCur s 1) s.cur.cl pas = blockRead s 1 pas from rfl]
  simp only [blockRead_cur, hcheck]
  split <;> rfl

theorem strm_answers (hok : s.memOk) (hroom : (getPort s cl n).q.length < 8) : Answers (.strm a b) s 0#5 0#64 (fun t => (curGrp t).stores = [] ∧
    (∀ k, t.seen s.cur.cl k = (releaseCur s 1).seen s.cur.cl k) ∧ (curGrp t).tickets = (curGrp s).tickets ++ [x.ticket] ∧
    (getPort t cl n).q = (getPort s cl n).q ++ [{ streamNew ((xget (curGrp s) a).toNat % 2 ^ 52) (words64 (wordsRead (blockRead s 1 pas) pas) 10)
      (curGrp s).asid x.ticket (scbKind (words64 (wordsRead (blockRead s 1 pas) pas) 10)) bind with ord := s.serial }]) := by
  have hi := exec_strm hs hl hph hb hn hrel hcl hal hw hport hstart
  have hgrp := blockRead_grp (sc := 1) hg pas
  have hx : getSpan (blockRead s 1 pas) sp = some x := by
    rw [getSpan, blockRead_spans hg pas]
    exact (getSpan_of_spanAt hs).2
  have hserial := blockRead_serial s 1 pas
  have hseen := seen_blockRead hok 1 pas
  have hpt := getPort_blockRead s (sc := 1) hg pas cl n
  have hg1 := grp_blockRead (sc := 1) pas hg
  rw [if_neg (by rw [hpt]; omega), takeTicket_eq hx] at hi
  generalize words64 (wordsRead (blockRead s 1 pas) pas) 10 = w at *
  generalize blockRead s 1 pas = u at *
  set st := streamNew ((xget (curGrp s) a).toNat % 2 ^ 52) w (curGrp s).asid x.ticket (scbKind w) bind
  set v := modCur (modSpan u sp (fun x => { x with ticket := x.ticket + 1 })) (fun g => { g with tickets := g.tickets ++ [x.ticket] }) with hv
  have hvg : curGrp v = { curGrp s with stores := [], tickets := (curGrp s).tickets ++ [x.ticket] } := by
    rw [hv, curGrp_modCur (s := modSpan u sp _) hg1, show curGrp (modSpan u sp _) = curGrp u from rfl, hgrp]
  have hvs : v.serial = s.serial := hserial
  have hvp : getPort v cl n = getPort s cl n := (getPort_modCur _ _ cl n).trans hpt
  have hpg := (curGrp_pushStream v cl n st).trans hvg
  have hsk := (curGrp_skip (s := pushStream v cl n st) hg1 4).trans (congrArg (advance 4) hpg)
  refine answers_skip (s0 := pushStream v cl n st) hg1 hi (by rw [hpg]) (by rw [hpg]) ⟨by rw [hsk]; rfl, fun k => ?_, by rw [hsk]; rfl, ?_⟩
  · exact (seen_of_memParts (s := u) rfl _ _).trans (hseen k)
  · rw [skip, getPort_modCur, getPort_pushStream, hvp, hvs]

theorem strm_waits (hok : s.memOk) (hfull : 8 ≤ (getPort s cl n).q.length) : Waits (.strm a b) s (.stream cl n) (fun t => (curGrp t).stores = [] ∧
    t.spans = s.spans ∧ (∀ k, t.seen s.cur.cl k = (releaseCur s 1).seen s.cur.cl k) ∧ getPort t cl n = getPort s cl n) := by
  have hi := exec_strm hs hl hph hb hn hrel hcl hal hw hport hstart
  have hgrp := blockRead_grp (sc := 1) hg pas
  have hseen := seen_blockRead hok 1 pas
  have hpt := getPort_blockRead s (sc := 1) hg pas cl n
  have hg1 := grp_blockRead (sc := 1) pas hg
  have hsp := blockRead_spans (sc := 1) hg pas
  rw [if_pos (by rw [hpt]; exact hfull)] at hi
  generalize blockRead s 1 pas = u at *
  refine waits_waitFor hg1 hi (by rw [hgrp]) (by rw [hgrp]) ⟨?_, hsp, fun k => (seen_of_memParts (s := u) rfl _ _).trans (hseen k), ?_⟩
  · rw [curGrp_modCur hg1, hgrp]
    rfl
  · rw [getPort_modCur, hpt]
end

theorem startStream : StartStream := by
  intro s a b sp cl rel n x l bs bind hg hs hl hph hb hn hrel hcl hal hok hr hport hstart
  obtain ⟨pas, hw, rfl⟩ := reads_blockRead hg hr
  exact ⟨strm_answers hg hs hl hph hb hn hrel hcl hal hw hport hstart hok, strm_waits hg hs hl hph hb hn hrel hcl hal hw hport hstart hok⟩

end Sys2Proof.Machine


namespace Sys2Proof.Machine
open Sys2Proof Sys2Proof.Claims

/-! MCAST and PATLD (R182, R183, R220, R292). -/

/-- Taking a line, as the readers of images do. -/
theorem readLine_counts (s : State) (cl l : Nat) : sameButCounts s (performRead (l2Touch s cl (64 * l)) cl (64 * l) 64 .package) :=
  sameButCounts_trans (l2Touch_counts s cl _) (sameButMem_counts (performRead_same _ _ _ _ _))
theorem readLines_counts (s : State) (cl : Nat) (ls : List Nat) : sameButCounts s (readLines s cl ls) :=
  foldl_inv (fun s l => performRead (l2Touch s cl (64 * l)) cl (64 * l) 64 .package) (sameButCounts s)
    (fun t l h => sameButCounts_trans h (readLine_counts t cl l)) ls.dedup (sameButCounts_refl s)
theorem seen_readLines {s : State} (h : s.memOk) (cl : Nat) (ls : List Nat) (a : Nat) : (readLines s cl ls).seen cl a = s.seen cl a :=
  (foldl_inv (fun s l => performRead (l2Touch s cl (64 * l)) cl (64 * l) 64 .package) (fun t => t.memOk ∧ t.seen cl a = s.seen cl a)
    (fun _ _ ht => ⟨performRead_ok cl _ _ _ (l2Touch_ok cl _ ht.1),
      (seen_performRead cl _ _ _ (l2Touch_ok cl _ ht.1) a).trans (((sameView_l2Touch _ cl _).seen cl a).trans ht.2)⟩) ls.dedup ⟨h, rfl⟩).2

/-! PATLD. -/

theorem curGrp_bindCtx (s : State) (cl n : Nat) (k : Binding) : curGrp (bindCtx s cl n k) = curGrp s :=
  getGrp_congr (core_modCl s cl s.cur.cl fun _ => by rfl) _
theorem bindCtx_bound (s : State) (cl : Nat) {n : Nat} (k : Binding) (hn : n < 8) : (getCtx (bindCtx s cl n k) cl n).bound = some k := by
  rw [getCtx, bindCtx, modCtx, getCl_modCl, if_pos rfl, vec8Get_set _ _ hn hn, if_pos rfl]
theorem getCtx_modCur (s : State) (f : Group → Group) (cl n : Nat) : getCtx (modCur s f) cl n = getCtx s cl n := by
  rw [getCtx, modCur, modGrp, modCore, getCl_modCl]
  split
  · next h => subst h; rfl
  · rfl

theorem patld_answers {s : State} {a b : BitVec 5} {sp : Nat} {x : Span} (hg : s.cur.grp < 4) (hok : s.memOk)
    (hs : spanAt s s.cur.cl = some (sp, x)) {cl rel c : Nat} {k : Binding} (hb : (xget (curGrp s) b).toNat = c + 8 * rel) (hc : c < 8)
    (hrel : rel < 4096) (hcl : x.clusters[rel]? = some cl)
    (hr : (readBinding (releaseCur s 1) s.cur.cl (curGrp s).asid ((xget (curGrp s) a).toNat % 2 ^ 52)).res = .ok k) :
    Answers (.patld a b) s 0#5 0#64 (fun t => (curGrp t).stores = [] ∧ (getCtx t cl c).bound = some k ∧
      ∀ k, t.seen s.cur.cl k = (releaseCur s 1).seen s.cur.cl k) := by
  obtain ⟨h1, h2, h3⟩ := portFields hb hc hrel
  have hi : exec (.patld a b) s = .next (skip (bindCtx (readLines (releaseCur s 1) s.cur.cl
      (readBinding (releaseCur s 1) s.cur.cl (curGrp s).asid ((xget (curGrp s) a).toNat % 2 ^ 52)).lines) cl c k) 4) := by
    show execPatld a b s = _
    unfold execPatld
    simp only [hs, Option.bind_some, h1, h2, h3, absOf, hcl, ne_eq, not_true_eq_false, if_false, releaseCur_cur, hr]
  have hok1 : (releaseCur s 1).memOk := flushGrp_ok s.cur.cl s.cur.grp 1 hok
  have hgrp := curGrp_releaseCur 1 hg
  have hcur := releaseCur_cur s 1
  generalize readBinding (releaseCur s 1) s.cur.cl (curGrp s).asid ((xget (curGrp s) a).toNat % 2 ^ 52) = r at *
  generalize releaseCur s 1 = u at *
  have hq := readLines_counts u s.cur.cl r.lines
  have hseen := seen_readLines hok1 s.cur.cl r.lines
  generalize readLines u s.cur.cl r.lines = v at *
  have hgv : curGrp v = { curGrp s with stores := [] } := by
    rw [curGrp, hq.1, sameButCounts_grp hq]
    exact hgrp
  have hbg := (curGrp_bindCtx v cl c k).trans hgv
  have hg1 : (bindCtx v cl c k).cur.grp < 4 := by
    rw [show (bindCtx v cl c k).cur = u.cur from hq.1, hcur]
    exact hg
  refine answers_skip hg1 hi (by rw [hbg]) (by rw [hbg]) ⟨?_, ?_, fun n => (seen_of_memParts (s := v) rfl _ _).trans (hseen n)⟩
  · rw [curGrp_skip hg1, hbg]
    rfl
  · rw [skip, getCtx_modCur, bindCtx_bound v cl k hc]

/-! MCAST. -/

/-- The fill that MCAST makes of its descriptor. -/
def fillOf (s : State) (w : List W64) (mask : W64) (x : Span) : Mcast :=
  { src := field 51 0 (w.getD 0 0#64), tag := field 56 53 (w.getD 1 0#64), mt := field 52 48 (w.getD 1 0#64), doff := field 47 32 (w.getD 1 0#64)
    len := field 16 0 (w.getD 1 0#64), asid := (curGrp s).asid, cl := s.cur.cl, ticket := x.ticket, data := amEmpty, badLines := []
    owed := (List.range (mcLines (field 51 0 (w.getD 0 0#64)) (field 16 0 (w.getD 1 0#64)))).flatMap (fun k =>
      ((onesOf 64 mask.toNat).filterMap (fun i => absOf x (field 11 0 (w.getD 2 0#64) + i))).map (fun c => (k, c)))
    wf := none }
/-- The fill owes every line of its source to every named cluster. -/
theorem mem_owed_fillOf (s : State) (w : List W64) (mask : W64) (x : Span) (j c : Nat) : (j, c) ∈ (fillOf s w mask x).owed ↔
    j < mcLines (fillOf s w mask x).src (fillOf s w mask x).len ∧
      ∃ i, bitAt i mask = true ∧ x.clusters[field 11 0 (w.getD 2 0#64) + i]? = some c := by
  simp only [fillOf, List.mem_flatMap, List.mem_range, List.mem_map, List.mem_filterMap, mem_onesOf, Prod.mk.injEq, absOf]
  constructor
  · rintro ⟨k, hk, d, ⟨i, ⟨_, hi⟩, hd⟩, rfl, rfl⟩
    exact ⟨hk, i, hi, hd⟩
  · rintro ⟨hj, i, hi, hc⟩
    have hlt : i < 64 := by
      by_contra hge
      rw [bitAt, BitVec.getLsbD_of_ge mask i (by omega)] at hi
      cases hi
    exact ⟨j, hj, c, ⟨i, ⟨hlt, hi⟩, hc⟩, rfl, rfl⟩

theorem mcast_answers {s : State} {a b : BitVec 5} {sp : Nat} {x : Span} {l : Load} {pas : List Nat} (hg : s.cur.grp < 4) (hok : s.memOk)
    (hs : spanAt s s.cur.cl = some (sp, x)) (hl : x.load = some l) (hph : l.phase = .ready ∨ l.phase = .running)
    (hal : (xget (curGrp s) a).toNat % 2 ^ 52 % 32 = 0)
    (hw : vaWords (releaseCur s 1) s.cur.cl (curGrp s).asid 1 8 ((xget (curGrp s) a).toNat % 2 ^ 52) = .ok pas)
    (hmc : mcOk (words64 (wordsRead (blockRead s 1 pas) pas) 4) ((xget (curGrp s) a).toNat % 2 ^ 52) (xget (curGrp s) b).toNat x = true) :
    Answers (.mcast a b) s 0#5 0#64 (fun t => (curGrp t).stores = [] ∧
      (∀ k, t.seen s.cur.cl k = (releaseCur s 1).seen s.cur.cl k) ∧ ∃ m k, getLoad t sp = some m ∧ amGet l.mcasts k = none ∧
      amGet m.mcasts k = some (fillOf s (words64 (wordsRead (blockRead s 1 pas) pas) 4) (xget (curGrp s) b) x)) := by
  have hload : curLoad s = some l := by rw [curLoad, hs]; exact hl
  have hphase : ¬(l.phase ≠ .ready ∧ l.phase ≠ .running) := by tauto
  have hx : getSpan (blockRead s 1 pas) sp = some x := by
    rw [getSpan, blockRead_spans hg pas]
    exact (getSpan_of_spanAt hs).2
  have hi : exec (.mcast a b) s = .next (skip (modLoad (takeTicket (blockRead s 1 pas) sp).2 sp (fun l => { l with
      mcasts := amPut l.mcasts (amFresh l.mcasts) (fillOf s (words64 (wordsRead (blockRead s 1 pas) pas) 4) (xget (curGrp s) b) x) })) 4) := by
    show execMcast a b s = _
    unfold execMcast
    simp only [hs, hload, if_neg hphase, hal, ne_eq, not_true_eq_false, if_false, releaseCur_cur, hw]
    rw [show touchRead (releaseCur s 1) s.cur.cl pas = blockRead s 1 pas from rfl]
    simp only [hmc, Bool.not_true, Bool.false_eq_true, if_false, takeTicket_eq hx, blockRead_cur]
    rfl
  have hgrp := blockRead_grp (sc := 1) hg pas
  have hseen := seen_blockRead hok 1 pas
  have hg1 := grp_blockRead (sc := 1) pas hg
  rw [takeTicket_eq hx] at hi
  generalize fillOf s (words64 (wordsRead (blockRead s 1 pas) pas) 4) (xget (curGrp s) b) x = f at *
  generalize blockRead s 1 pas = u at *
  set v := modCur (modSpan u sp (fun x => { x with ticket := x.ticket + 1 })) (fun g => { g with tickets := g.tickets ++ [x.ticket] }) with hv
  have hvg : curGrp v = { curGrp s with stores := [], tickets := (curGrp s).tickets ++ [x.ticket] } := by
    rw [hv, curGrp_modCur (s := modSpan u sp _) hg1, show curGrp (modSpan u sp _) = curGrp u from rfl, hgrp]
  have hvl : getLoad v sp = some l := by
    rw [getLoad, show getSpan v sp = _ from amGet_amMod_same _ _ _, show amGet u.spans sp = some x from hx]
    exact hl
  set t := modLoad v sp (fun l => { l with mcasts := amPut l.mcasts (amFresh l.mcasts) f }) with ht
  have htg : curGrp t = curGrp v := rfl
  have htl : getLoad t sp = some { l with mcasts := amPut l.mcasts (amFresh l.mcasts) f } := by
    rw [ht, getLoad_modLoad_same, hvl]
    rfl
  refine answers_skip (s0 := t) hg1 hi (by rw [htg, hvg]) (by rw [htg, hvg])
    ⟨?_, fun k => (seen_of_memParts (s := u) rfl _ _).trans (hseen k), _, amFresh l.mcasts, htl, amGet_amFresh _, amGet_amPut_same _ _ _⟩
  rw [curGrp_skip (s := t) hg1, htg, hvg]
  rfl

theorem multicastAndBinding : MulticastAndBinding := by
  intro s a b sp x l bs hg hok hs
  refine ⟨fun hl hph hal hr hmc => ?_, fun cl rel c k hb hc hrel hcl hr => patld_answers hg hok hs hb hc hrel hcl hr⟩
  obtain ⟨pas, hw, rfl⟩ := reads_blockRead hg hr
  refine answers_weaken (mcast_answers hg hok hs hl hph hal hw hmc) fun t ⟨h1, h2, m, k, hm, hk, hf⟩ => ?_
  exact ⟨h1, h2, m, k, _, hm, hk, hf, rfl, rfl, mem_owed_fillOf _ _ _ _⟩

/-- Settles O43. -/
theorem streamsAndBindings : Obligations.StreamsAndBindings := ⟨startStream, multicastAndBinding⟩

end Sys2Proof.Machine


namespace Sys2Proof.Machine
open Sys2Proof Sys2Proof.Claims

/-! The registers of the fleet ring (R414), which no token's way changes. -/

/-- FRBASE and FRCTL. -/
def State.ringRegs (s : State) : W64 × W64 := (s.hub.frbase, s.hub.frctl)

@[simp] theorem ite_ringRegs (c : Prop) [Decidable c] (s t : State) :
    (if c then s else t).ringRegs = if c then s.ringRegs else t.ringRegs := apply_ite State.ringRegs c s t
theorem foldl_ringRegs {α : Type} {f : State → α → State} (hf : ∀ s a, (f s a).ringRegs = s.ringRegs) (l : List α) (s : State) :
    (l.foldl f s).ringRegs = s.ringRegs :=
  foldl_inv f (fun t => t.ringRegs = s.ringRegs) (fun b a h => (hf b a).trans h) l rfl
@[simp] theorem modCl_ringRegs (s : State) (cl : Nat) (f : Cluster → Cluster) : (modCl s cl f).ringRegs = s.ringRegs := rfl
@[simp] theorem modEl_ringRegs (s : State) (cl el : Nat) (f : Elem → Elem) : (modEl s cl el f).ringRegs = s.ringRegs := rfl
@[simp] theorem modTile_ringRegs (s : State) (cl t : Nat) (f : Tile → Tile) : (modTile s cl t f).ringRegs = s.ringRegs := rfl
@[simp] theorem modIsland_ringRegs (s : State) (cl : Nat) (f : Island → Island) : (modIsland s cl f).ringRegs = s.ringRegs := rfl
@[simp] theorem modSpan_ringRegs (s : State) (sp : Nat) (f : Span → Span) : (modSpan s sp f).ringRegs = s.ringRegs := rfl
@[simp] theorem modLoad_ringRegs (s : State) (sp : Nat) (f : Load → Load) : (modLoad s sp f).ringRegs = s.ringRegs := rfl
@[simp] theorem modChan_ringRegs (s : State) (sp ch : Nat) (f : Chan → Chan) : (modChan s sp ch f).ringRegs = s.ringRegs := rfl
@[simp] theorem modOp_ringRegs (s : State) (sp op : Nat) (f : OpState → OpState) : (modOp s sp op f).ringRegs = s.ringRegs := rfl
@[simp] theorem modBr_ringRegs (s : State) (sp ch br : Nat) (f : Branch → Branch) : (modBr s sp ch br f).ringRegs = s.ringRegs := rfl
@[simp] theorem modPort_ringRegs (s : State) (cl p : Nat) (f : SPort → SPort) : (modPort s cl p f).ringRegs = s.ringRegs := rfl
@[simp] theorem modGen_ringRegs (s : State) (cl t a : Nat) (f : AddrGen → AddrGen) : (modGen s cl t a f).ringRegs = s.ringRegs := rfl
@[simp] theorem postEvent_ringRegs (s : State) (cl : Nat) (r : FaultRec) : (postEvent s cl r).ringRegs = s.ringRegs := rfl
@[simp] theorem countBoth_ringRegs (s : State) (cl src n : Nat) : (countBoth s cl src n).ringRegs = s.ringRegs := rfl
@[simp] theorem genFault_ringRegs (s : State) (cl t a : Nat) (r : FaultRec) : (genFault s cl t a r).ringRegs = s.ringRegs := rfl
@[simp] theorem portFault_ringRegs (s : State) (cl n : Nat) (r : FaultRec) : (portFault s cl n r).ringRegs = s.ringRegs := rfl
@[simp] theorem islandFault_ringRegs (s : State) (cl : Nat) (r : FaultRec) : (islandFault s cl r).ringRegs = s.ringRegs := rfl
@[simp] theorem queuePush_ringRegs (s : State) (x : Span) (sp ch br : Nat) (q : QueueRegion) (t : Token) (bad : Bool) :
    (queuePush s x sp ch br q t bad).ringRegs = s.ringRegs := by
  unfold queuePush
  split <;> simp
@[simp] theorem areaPut_ringRegs (s : State) (x : Span) (sp ch br : Nat) (b : Branch) (t : Token) (bad : Bool) :
    (areaPut s x sp ch br b t bad).ringRegs = s.ringRegs := by
  unfold areaPut
  repeat' split
  all_goals simp
@[simp] theorem areaPop_ringRegs (s : State) (x : Span) (sp ch br : Nat) (b : Branch) : (areaPop s x sp ch br b).ringRegs = s.ringRegs := by
  unfold areaPop
  repeat' split
  all_goals simp
@[simp] theorem headCheck_ringRegs (s : State) (sp : Nat) (e : Endpoint) : (headCheck s sp e).ringRegs = s.ringRegs := by
  unfold headCheck
  repeat' split
  all_goals simp
@[simp] theorem freshLoops_ringRegs (s : State) (sp op lg : Nat) : (freshLoops s sp op lg).ringRegs = s.ringRegs := by
  unfold freshLoops
  split
  · rfl
  · split
    · rfl
    · exact foldl_ringRegs (fun s j => by split <;> simp) _ s
theorem distOne_ringRegs {s t : State} {sp op p : Nat} (h : distOne s sp op p = some t) : t.ringRegs = s.ringRegs := by
  unfold distOne at h
  dsimp only at h
  repeat' split at h
  all_goals cases h
  simp
@[simp] theorem distPump_ringRegs (n : Nat) (s : State) (sp op p : Nat) : (distPump n s sp op p).ringRegs = s.ringRegs := by
  induction n generalizing s with
  | zero => rfl
  | succ n ih =>
    unfold distPump
    split
    · next h => rw [ih, distOne_ringRegs h]
    · rfl
@[simp] theorem distRun_ringRegs (s : State) (sp op : Nat) : (distRun s sp op).ringRegs = s.ringRegs := by
  simp [distRun, foldl_ringRegs]
@[simp] theorem clearAreaFrom_ringRegs (s : State) (x : Span) (b : Branch) (i : Nat) : (clearAreaFrom s x b i).ringRegs = s.ringRegs := by
  refine foldl_ringRegs (fun s k => ?_) _ s
  repeat' split
  all_goals simp
@[simp] theorem replayFrom_ringRegs (s : State) (x : Span) (sp ch br : Nat) (b : Branch) :
    (replayFrom s x sp ch br b).ringRegs = s.ringRegs := by
  unfold replayFrom
  repeat' split
  all_goals simp
@[simp] theorem modSpot_ringRegs (s : State) (x : Span) (p : Option ((Nat × Nat × Nat) × Nat)) (f : Tile → Nat → Nat → Tile) :
    (modSpot s x p f).ringRegs = s.ringRegs := by
  unfold modSpot
  split <;> simp
@[simp] theorem replayMerge_ringRegs (s : State) (x : Span) (sp ch br : Nat) (b : Branch) :
    (replayMerge s x sp ch br b).ringRegs = s.ringRegs := by simp [replayMerge, foldl_ringRegs]
theorem mergeOne_ringRegs {s t : State} {sp op k : Nat} (h : mergeOne s sp op k = some t) : t.ringRegs = s.ringRegs := by
  unfold mergeOne at h
  dsimp only at h
  repeat' split at h
  all_goals cases h
  all_goals simp
@[simp] theorem mergePump_ringRegs (n : Nat) (s : State) (sp op k : Nat) : (mergePump n s sp op k).ringRegs = s.ringRegs := by
  induction n generalizing s with
  | zero => rfl
  | succ n ih =>
    unfold mergePump
    split
    · next h => rw [ih, mergeOne_ringRegs h]
    · rfl
@[simp] theorem mergeRun_ringRegs (s : State) (sp op : Nat) : (mergeRun s sp op).ringRegs = s.ringRegs := by simp [mergeRun, foldl_ringRegs]
theorem takeBefore_ringRegs {s : State} {x : Span} {sp ch br : Nat} {b : Branch} {p : Token × Bool × State}
    (h : takeBefore s x sp ch br b = some p) : p.2.2.ringRegs = s.ringRegs := by
  unfold takeBefore at h
  repeat' split at h
  all_goals cases h
  all_goals simp
@[simp] theorem moveUp_ringRegs (s : State) (x : Span) (sp ch br : Nat) : (moveUp s x sp ch br).ringRegs = s.ringRegs := by
  unfold moveUp
  split
  · rfl
  · split
    · split
      · split
        · rfl
        · next h => simp [takeBefore_ringRegs h]
      · rfl
    · split
      · split
        · rfl
        · next h => simp [takeBefore_ringRegs h]
      · rfl
@[simp] theorem afterArrival_ringRegs (s : State) (sp : Nat) (e : Endpoint) : (afterArrival s sp e).ringRegs = s.ringRegs := by
  unfold afterArrival
  split <;> simp
@[simp] theorem loopArrival_ringRegs (s : State) (x : Span) (sp : Nat) (c : Chan) (b : Branch) (t : Token) :
    (loopArrival s x sp c b t).2.ringRegs = s.ringRegs := by
  unfold loopArrival
  repeat' split
  all_goals simp
@[simp] theorem standAt_ringRegs (s : State) (x : Span) (sp ch br : Nat) (c : Chan) (b : Branch) (t : Token) :
    (standAt s x sp ch br c b t).ringRegs = s.ringRegs := by
  simp [standAt]
@[simp] theorem extendReorder_ringRegs (s : State) (x : Span) (sp : Nat) (b : Branch) : (extendReorder s x sp b).ringRegs = s.ringRegs := by
  unfold extendReorder
  repeat' split
  all_goals simp
@[simp] theorem moveAhead_ringRegs (s : State) (x : Span) (sp ch br : Nat) (b : Branch) :
    (moveAhead s x sp ch br b).ringRegs = s.ringRegs := by
  unfold moveAhead
  repeat' split
  all_goals simp

end Sys2Proof.Machine


namespace Sys2Proof.Machine
open Sys2Proof Sys2Proof.Claims

/-! Records of the fleet ring (R414, R415): they change nothing outside its granules. -/

/-- From one state to the other only the granules of the fleet ring change in memory. -/
def RingOnly (s t : State) : Prop :=
  t.ringRegs = s.ringRegs ∧ (s.memOk → t.memOk ∧ ∀ a, ¬ inRing s a → t.byte a = s.byte a)

theorem inRing_congr {s t : State} (h : t.ringRegs = s.ringRegs) (a : Nat) : inRing t a ↔ inRing s a := by
  obtain ⟨hb, hc⟩ := Prod.mk.injEq .. ▸ h
  unfold inRing
  rw [hb, hc]
theorem RingOnly.refl (s : State) : RingOnly s s := ⟨rfl, fun h => ⟨h, fun _ _ => rfl⟩⟩
theorem RingOnly.trans {s t u : State} (h : RingOnly s t) (k : RingOnly t u) : RingOnly s u := by
  obtain ⟨hr, hm⟩ := h
  obtain ⟨kr, km⟩ := k
  refine ⟨kr.trans hr, fun hok => ?_⟩
  obtain ⟨ht, hbyte⟩ := hm hok
  obtain ⟨hu, kbyte⟩ := km ht
  exact ⟨hu, fun a ha => (kbyte a ((inRing_congr hr a).not.2 ha)).trans (hbyte a ha)⟩
theorem RingOnly.of_memParts {s t : State} (hr : t.ringRegs = s.ringRegs) (hm : t.memParts = s.memParts) : RingOnly s t :=
  ⟨hr, fun h => ⟨by rw [memOk_iff, hm]; exact h, fun a _ => byte_of_memParts hm a⟩⟩
theorem RingOnly.foldl {α : Type} {f : State → α → State} (hf : ∀ s a, RingOnly s (f s a)) (l : List α) (s : State) : RingOnly s (l.foldl f s) :=
  foldl_inv f (RingOnly s) (fun _ a h => h.trans (hf _ a)) l (.refl s)

theorem byte_publish_out {s : State} (h : s.memOk) {pa a : Nat} {bs : List Byte} (hg : ¬ InGranules pa bs.length a) :
    (publish s pa bs).byte a = s.byte a := by
  have hok : (showAll s).memOk := ⟨h.1, rfl, h.2.2⟩
  have hout : a < pa ∨ pa + bs.length ≤ a := by
    by_contra hin
    exact hg (inGranules_of_covered (by omega))
  have hw := (widenAll_outside hok .system hg).1
  rw [State.byte] at hw ⊢
  rw [publish, hubWrite, systemWrite_mem, dropLines_mem, memGet_memPutAll_out bs _ hout, hw]
  rfl

theorem raiseVec_ringRegs (s : State) (fn vec : Nat) : (raiseVec s fn vec).ringRegs = s.ringRegs := by
  unfold raiseVec State.ringRegs modHub
  dsimp only
  split <;> rfl
/-- A record is dropped, or it is published in one of the ring's places. -/
theorem fleetRecord_writes (s : State) (kind part die clu d1 d2 layv : Nat) :
    (fleetRecord s kind part die clu d1 d2 layv).ringRegs = s.ringRegs ∧
      ((fleetRecord s kind part die clu d1 d2 layv).memParts = s.memParts ∨ ∃ i bs, i < 2 ^ (8 + field 3 0 s.hub.frctl) ∧ bs.length = 32 ∧
        (fleetRecord s kind part die clu d1 d2 layv).memParts = (publish s (field 51 0 s.hub.frbase + 32 * i) bs).memParts) := by
  have hhub : ∀ pa bs, (publish s pa bs).ringRegs = s.ringRegs := fun pa bs => by
    obtain ⟨-, -, -, hh, -⟩ := sameButMem_keeps (publish_same s pa bs)
    rw [State.ringRegs, hh]
    rfl
  unfold fleetRecord
  simp only
  split
  · exact ⟨rfl, .inl rfl⟩
  · split
    · exact ⟨rfl, .inl rfl⟩
    · have hlen : ∀ w, (bytesOf 8 w ++ bytesOf 8 d1 ++ bytesOf 8 d2 ++ bytesOf 8 layv).length = 32 := fun w => by
        simp only [List.length_append, bytesOf_length]
      have hi : s.hub.frtail % 2 ^ (8 + field 3 0 s.hub.frctl) < 2 ^ (8 + field 3 0 s.hub.frctl) := Nat.mod_lt _ (by positivity)
      split
      · exact ⟨(raiseVec_ringRegs _ _ _).trans (hhub _ _), .inr ⟨_, _, hi, hlen _, (raiseVec_memParts _ _ _).trans (modHub_memParts _ _)⟩⟩
      · exact ⟨hhub _ _, .inr ⟨_, _, hi, hlen _, modHub_memParts _ _⟩⟩

theorem fleetRecord_ringOnly (s : State) (kind part die clu d1 d2 layv : Nat) : RingOnly s (fleetRecord s kind part die clu d1 d2 layv) := by
  obtain ⟨hr, hm⟩ := fleetRecord_writes s kind part die clu d1 d2 layv
  refine ⟨hr, fun h => ⟨fleetRecord_ok kind part die clu d1 d2 layv h, fun a ha => ?_⟩⟩
  obtain hm | ⟨i, bs, hi, hlen, hm⟩ := hm
  · exact byte_of_memParts hm a
  · rw [byte_of_memParts hm a]
    refine byte_publish_out h fun hg => ha ?_
    obtain ⟨hlo, hhi⟩ := hg
    unfold inRing
    rw [hlen] at hhi
    constructor <;> omega
theorem clusterRecord_ringOnly (s : State) (kind cl d1 d2 : Nat) : RingOnly s (clusterRecord s kind cl d1 d2) := by
  unfold clusterRecord
  split <;> exact fleetRecord_ringOnly _ _ _ _ _ _ _ _
theorem RingOnly.ite {s t u : State} (c : Prop) [Decidable c] (h : RingOnly s t) (k : RingOnly s u) : RingOnly s (if c then t else u) := by
  split
  · exact h
  · exact k
theorem RingOnly.clusterRecord {s t : State} (h : RingOnly s t) {kind cl d1 d2 : Nat} : RingOnly s (clusterRecord t kind cl d1 d2) :=
  h.trans (clusterRecord_ringOnly _ _ _ _ _)
theorem RingOnly.postEvent {s t : State} (h : RingOnly s t) {cl : Nat} {r : FaultRec} : RingOnly s (postEvent t cl r) :=
  h.trans (.of_memParts (by simp) (by simp))
theorem RingOnly.islandFault {s t : State} (h : RingOnly s t) {cl : Nat} {r : FaultRec} : RingOnly s (islandFault t cl r) :=
  h.trans (.of_memParts (by simp) (by simp))
theorem softCluster_ringOnly (s : State) (multi : Bool) (cl place code : Nat) : RingOnly s (softCluster s multi cl place code) :=
  (RingOnly.of_memParts (by simp) (by simp)).trans (clusterRecord_ringOnly _ _ _ _ _)
theorem softMemory_ringOnly (s : State) (multi : Bool) (pa code : Nat) : RingOnly s (softMemory s multi pa code) := by
  unfold softMemory
  exact RingOnly.trans (RingOnly.of_memParts (t := countDie s _ _) rfl rfl) (fleetRecord_ringOnly _ _ _ _ _ _ _ _)

/-! The tokens' way: comparators and errors in transit leave records. -/

theorem cmpPump_ringOnly (s : State) (sp k : Nat) : RingOnly s (cmpPump s sp k) := by
  have hquiet : ∀ t : State, t.ringRegs = s.ringRegs → t.memParts = s.memParts → RingOnly s t := fun t => .of_memParts
  unfold cmpPump
  split
  · exact .refl s
  split
  · exact .refl s
  split
  · exact .refl s
  split
  rotate_left
  · exact .refl s
  split
  rotate_left
  · exact .refl s
  dsimp only
  split
  · exact .refl s
  split
  · exact hquiet _ (by simp) (by simp)
  refine .ite _ (.postEvent (.clusterRecord (.ite _ (.clusterRecord ?_) ?_))) (.ite _ (.clusterRecord ?_) ?_)
  all_goals exact hquiet _ (by simp) (by simp)
theorem transitError_ringOnly (s : State) (x : Span) (l : Load) (b : Branch) : RingOnly s (transitError s x l b) := by
  unfold transitError
  split
  · exact .refl s
  · exact softCluster_ringOnly _ _ _ _ _

theorem popQueue_ringRegs {s : State} {x : Span} {sp ch br : Nat} {q : QueueRegion} {p : Token × Bool × State}
    (h : popQueue s x sp ch br q = some p) : p.2.2.ringRegs = s.ringRegs := by
  unfold popQueue queuePop at h
  cases e : absOf x q.cl with
  | none => simp [e] at h
  | some cl =>
    simp only [e, Option.map_some, Option.some.injEq] at h
    simp [← h]
theorem takeUpstream_ringRegs {s : State} {x : Span} {sp ch br : Nat} {b : Branch} {p : Token × Bool × State}
    (h : takeUpstream s x sp ch br b = some p) : p.2.2.ringRegs = s.ringRegs := by
  unfold takeUpstream at h
  extract_lets follow at h
  have hf (q : Token × Bool × State) : (follow q).2.2.ringRegs = q.2.2.ringRegs := by simp [follow]
  split at h
  · obtain ⟨q, hq, rfl⟩ := Option.map_eq_some_iff.mp h
    rw [hf, popQueue_ringRegs hq]
  · split at h
    · cases h
      simp [hf]
    · exact takeBefore_ringRegs h
theorem deliver_ringOnly (s : State) (x : Span) (sp ch br : Nat) (l : Load) (c : Chan) (b : Branch) (found : Bool) :
    RingOnly s (deliver s x sp ch br l c b found) := by
  have hrec : ∀ t : State, RingOnly s t → RingOnly s (if found then transitError t x l b else t) := fun t h =>
    .ite _ (h.trans (transitError_ringOnly t x l b)) h
  unfold deliver
  split
  · exact .refl s
  next t bad s1 h =>
  have h1 : RingOnly s s1 := .of_memParts (takeUpstream_ringRegs h) (takeUpstream_memParts h)
  dsimp only
  split
  · exact hrec _ (.of_memParts (by simp) (by simp))
  · split
    · exact ((hrec s1 h1).trans (.of_memParts (by simp) (by simp))).trans (cmpPump_ringOnly _ _ _)
    · exact (hrec s1 h1).trans (.of_memParts (by simp) (by simp))

/-- An outcome that changes no byte outside the ring's granules. -/
def OutRing (s : State) (o : Out) : Prop := ∀ t, o = .next t → s.memOk → ∀ a, ¬ inRing s a → t.byte a = s.byte a
theorem outRing_next {s t : State} (h : RingOnly s t) : OutRing s (.next t) := fun _ e hok => by cases e; exact (h.2 hok).2
theorem outRing_quiet {s t u : State} (h : RingOnly s t) (hu : u.memParts = t.memParts) : OutRing s (.next u) := fun _ e hok a ha => by
  cases e
  exact (byte_of_memParts hu a).trans ((h.2 hok).2 a ha)

theorem execTokenArrival_outRing (sp ch br : Nat) (bad : Bool) (s : State) : OutRing s (execTokenArrival sp ch br bad s) := by
  unfold execTokenArrival
  split
  · exact outRing_next (.refl s)
  split
  · exact outRing_next (.refl s)
  split
  rotate_left
  · exact outRing_next (.refl s)
  split
  · exact outRing_next (.refl s)
  extract_lets s0
  have h0 : RingOnly s s0 := by
    unfold s0
    split
    · exact cmpPump_ringOnly s sp _
    · exact .refl s
  split
  · exact outRing_next h0
  split
  · exact outRing_next (h0.trans (deliver_ringOnly _ _ _ _ _ _ _ _ _))
  · exact outRing_next (h0.trans (.of_memParts (by simp) (by simp)))

/-! The instructions of the management core and of the island that may leave a record. -/

theorem execPatrol_outRing (code place : Nat) (multi : Bool) (s : State) : OutRing s (execPatrol code place multi s) := by
  have hmem : ∀ m c, RingOnly s (softMemory s m place c) := fun m c => softMemory_ringOnly s m place c
  have hclu : ∀ m c, RingOnly s (softCluster s m (place / 4096 / 32) place c) := fun m c => softCluster_ringOnly s m _ place c
  unfold execPatrol
  dsimp only
  split
  · split
    · exact outRing_next (.refl s)
    split
    · exact outRing_next ((hmem _ _).trans (.of_memParts rfl rfl))
    · exact outRing_next (hmem _ _)
  · split
    · exact outRing_next (.refl s)
    split
    · exact outRing_next (hmem _ _)
    · have h1 : RingOnly s (softMemory (takeFree s).2 true place 2) :=
        RingOnly.trans (t := (takeFree s).2) (.of_memParts rfl rfl) (softMemory_ringOnly _ _ _ _)
      exact outRing_next (.ite _ h1 (h1.trans (.of_memParts rfl rfl)))
  · split
    · exact outRing_next (.refl s)
    split
    · exact outRing_next (RingOnly.trans (.of_memParts (by simp) (by simp)) (softCluster_ringOnly _ _ _ _ _))
    · exact outRing_next (hclu _ _)
  · split
    · exact outRing_next (.refl s)
    have h1 := softCluster_ringOnly s true (place / 16 / 128) place 4
    split
    · exact outRing_next h1
    · exact outRing_next (.ite _ (h1.trans (.of_memParts (by simp [elemFault]) (by simp))) h1)
  · exact outRing_next (.refl s)

theorem powerRecord_ringOnly (s : State) (die action watts : Nat) : RingOnly s (powerRecord s die action watts) := fleetRecord_ringOnly _ _ _ _ _ _ _ _
theorem execPowerMeasurement_outRing (die watts temp : Nat) (s : State) : OutRing s (execPowerMeasurement die watts temp s) := by
  unfold execPowerMeasurement
  split
  · exact outRing_next (.refl s)
  extract_lets s0 n set s1
  have h0 : RingOnly s s0 := .of_memParts rfl rfl
  have hset : ∀ k, RingOnly s (set k s0) := fun k => h0.trans (.of_memParts rfl rfl)
  have hstep : ∀ k a, RingOnly s (powerRecord (set k s0) die a watts) := fun k a => (hset k).trans (powerRecord_ringOnly _ _ _ _)
  have h1 : RingOnly s s1 := .ite _ (.ite _ (hstep _ _) h0) (.ite _ (hstep _ _) h0)
  split
  · exact outRing_next ((h1.trans (powerRecord_ringOnly _ _ _ _)).trans (.of_memParts rfl rfl))
  · exact outRing_next h1

theorem execLinkJudgement_outRing (link rpl : Nat) (s : State) : OutRing s (execLinkJudgement link rpl s) := by
  unfold execLinkJudgement
  extract_lets k
  split
  · exact outRing_next (.refl s)
  next k1 st k2 s1 _ =>
  have h1 : RingOnly s s1 := .of_memParts rfl rfl
  split
  · exact outRing_next h1
  · exact outRing_quiet (h1.trans (fleetRecord_ringOnly _ _ _ _ _ _ _ _)) (reportLink_memParts _ _ _)

theorem execExclusionWrite_outRing (off : Nat) (v : W64) (s : State) : OutRing s (execExclusionWrite off v s) := by
  have hrec : ∀ (t : State) (f : Nat → Nat) (d : Nat) (l : List Nat), RingOnly s t →
      RingOnly s (l.foldl (fun s q => fleetRecord s 7 0xFF d 0xFFF (f q) 0 0) t) := fun t f d l h =>
    h.trans (.foldl (fun _ _ => fleetRecord_ringOnly _ _ _ _ _ _ _ _) l t)
  unfold execExclusionWrite
  split
  · exact outRing_next (.refl s)
  split
  · exact outRing_next (hrec _ _ _ _ (.of_memParts rfl rfl))
  split
  · exact outRing_next (hrec _ _ _ _ (.of_memParts rfl rfl))
  · exact outRing_next (.refl s)

theorem execIslandArray_outRing (cl miss : Nat) (s : State) : OutRing s (execIslandArray cl miss s) := by
  unfold execIslandArray
  split
  · exact outRing_next (.refl s)
  dsimp only
  split
  · exact outRing_next (.refl s)
  split
  · exact outRing_next (.refl s)
  next o rest _ _ =>
  have h1 : RingOnly s (if o.phase = 0 then enterArray s cl o else s) :=
    .ite _ (.of_memParts (by simp [enterArray]) (by simp)) (.refl s)
  split
  · refine outRing_next (.islandFault (.clusterRecord (h1.trans (.of_memParts ?_ ?_)))) <;> simp
  · refine outRing_next (h1.trans (.of_memParts ?_ ?_)) <;> simp

end Sys2Proof.Machine


namespace Sys2Proof.Machine
open Sys2Proof Sys2Proof.Claims

/-! Which instructions change memory (R181, R232, R414). -/

/-- The instructions outside `mayStore` that rework the scopes of stores leave the bytes. -/
theorem wakeGroup_pin_memParts (s : State) {cl g : Nat} {op : Nat} {d : BitVec 5} (h : (getGrp s cl g).st = .waiting (.pin op d)) :
    (wakeGroup s cl g).memParts = s.memParts := by
  unfold wakeGroup
  rw [h]
  dsimp only
  split <;> simp
theorem wakeGroup_walk_memParts (s : State) {cl g : Nat} (h : (getGrp s cl g).st = .waiting .walk) : (wakeGroup s cl g).memParts = s.memParts := by
  unfold wakeGroup
  rw [h]
  dsimp only
  split <;> simp
theorem endPins_memParts (s : State) (x : Span) : (endPins s x).memParts = s.memParts := by
  refine foldl_memParts (fun s c => foldl_memParts (fun s g => ?_) _ s) _ s
  split
  · next h => exact wakeGroup_pin_memParts s h
  · rfl
theorem endWalk_memParts (s : State) (cl va : Nat) (who : Walker) (f : Option Nat) : (endWalk s cl va who f).memParts = s.memParts := by
  unfold endWalk
  cases who with
  | group g =>
    dsimp only
    split
    · split
      · next h => exact wakeGroup_walk_memParts s h
      · rfl
    · split <;> simp
  | _ => simp

theorem execLoadComplete_keepsMem (sp : Nat) (s : State) : KeepsMem s (execLoadComplete sp s) := by
  unfold execLoadComplete
  split
  · simp
  split
  · simp
  split
  · exact (keepsMem_next _ _).2 ((endPins_memParts _ _).trans (by simp))
  · simp
theorem execWalk_keepsMem (cl idx : Nat) (s : State) : KeepsMem s (execWalk cl idx s) := by
  unfold execWalk
  split
  · simp
  dsimp only
  split <;> exact (keepsMem_next _ _).2 ((endWalk_memParts _ _ _ _ _).trans (by simp))
theorem execInvalidationAck_mem {s t : State} (h : execInvalidationAck s = .next t) : t.mem = s.mem := by
  unfold execInvalidationAck at h
  split at h
  · cases h; rfl
  split at h
  · cases h; rfl
  split at h
  · cases h
    exact mem_of_memParts (by simp)
  · cases h; rfl
theorem execPowerRemoval_mem {s t : State} (h : execPowerRemoval s = .next t) : t.mem = s.mem := by
  unfold execPowerRemoval at h
  split at h
  · cases h; rfl
  · split at h <;> cases h <;> rfl
theorem execPackageReset_mem {s t : State} (h : execPackageReset s = .next t) : t.mem = s.mem := by
  unfold execPackageReset at h
  cases h
  rfl

theorem exec_mem {i : Instr} {s t : State} (h : exec i s = .next t) (hm : mayStore i = false) : t.mem = s.mem := by
  by_cases hr : reworksScopes i = true
  · cases i with
    | walk cl idx => exact mem_of_memParts (execWalk_keepsMem cl idx s t h)
    | loadComplete sp => exact mem_of_memParts (execLoadComplete_keepsMem sp s t h)
    | invalidationAck => exact execInvalidationAck_mem h
    | packageReset => exact execPackageReset_mem h
    | powerRemoval => exact execPowerRemoval_mem h
    | _ => cases hr
  · exact mem_of_memParts (exec_keepsMem i s (by simpa [hm] using hr) t h)

/-! Releasing instructions: memory is as it was or as a release leaves it. -/

/-- An outcome whose memory and stores are those of one of two states. -/
def MemFrom (s u : State) (o : Out) : Prop := ∀ t, o = .next t → t.memParts = s.memParts ∨ t.memParts = u.memParts
theorem memFrom_next (s u t : State) : MemFrom s u (.next t) ↔ t.memParts = s.memParts ∨ t.memParts = u.memParts :=
  ⟨fun h => h t rfl, fun h _ e => by cases e; exact h⟩
theorem MemFrom.mem {s u t : State} {o : Out} (h : MemFrom s u o) (ho : o = .next t) : t.mem = s.mem ∨ t.mem = u.mem :=
  (h t ho).imp mem_of_memParts mem_of_memParts

theorem execInvr_memFrom (d a b : BitVec 5) (s : State) : MemFrom s (releaseCur s 3) (execInvr d a b s) := by
  unfold execInvr superOnly
  dsimp only
  rw [memFrom_next]
  repeat' split
  all_goals simp
theorem execCtxld_memFrom (a : BitVec 5) (s : State) : MemFrom s (releaseCur s 3) (execCtxld a s) := by
  obtain ⟨words, _, hw, _, _⟩ := opaqueArea
  unfold execCtxld superOnly
  rw [hw, memFrom_next]
  dsimp only
  split
  rotate_left
  · simp
  split
  · simp
  split
  · simp
  · simp
  split
  · simp
  split
  · simp
  · simp
  split
  · simp
  split
  · simp
  · simp
  · next h => simp [tryRestore_memParts h]
theorem execStl_memFrom (a b : BitVec 5) (sc : BitVec 3) (w : BitVec 1) (s : State) : MemFrom s (releaseCur s sc.toNat) (execStl a b sc w s) := by
  rw [execStl, memFrom_next, coreStore_memParts]
  split <;> simp
theorem execFence_memFrom (e : BitVec 1) (sc : BitVec 3) (s : State) : MemFrom s (releaseCur s sc.toNat) (execFence e sc s) := by
  unfold execFence
  split
  · exact (memFrom_next _ _ _).2 (by simp)
  · dsimp only
    split <;> exact (memFrom_next _ _ _).2 (by simp)

theorem readLines_memParts {s : State} {cl : Nat} (h : ∀ x ∈ s.near, x.reach.sees cl = false) (ls : List Nat) :
    (readLines s cl ls).memParts = s.memParts := by
  refine foldl_inv (fun s l => performRead (l2Touch s cl (64 * l)) cl (64 * l) 64 .package) (fun t => t.memParts = s.memParts) (fun t l ht => ?_) _ rfl
  have hnear : (l2Touch t cl (64 * l)).near = s.near := (sameView_l2Touch t cl _).2.trans (congrArg (fun m => m.2.1) ht)
  have hread : performRead (l2Touch t cl (64 * l)) cl (64 * l) 64 .package = l2Touch t cl (64 * l) := by
    rw [performRead, widen_of_unchosen fun x hx => by simp [inGrans, h x (hnear ▸ hx)]]
    exact if_neg (by decide)
  rw [hread, l2Touch_memParts, ht]
theorem instOf_modCore (s : State) (cl : Nat) (f : Core → Core) (c k : Nat) : instOf (modCore s cl f) c k = instOf s c k := by
  have hspan : (getCl (modCore s cl f) c).span = (getCl s c).span := by
    rw [modCore, getCl_modCl]
    split
    · next h => subst h; rfl
    · rfl
  unfold instOf spanList spanAt
  rw [hspan]
  rfl
/-- A release after a change of the core's queue of waiting groups. -/
theorem releaseCur_modCore_memParts (s : State) {f : Core → Core} (hf : ∀ c : Core, (f c).grp = c.grp) (sc : Nat) :
    (releaseCur (modCore s s.cur.cl f) sc).memParts = (releaseCur s sc).memParts :=
  flushGrp_congr (s := modCore s s.cur.cl f) (t := s) (modCore_memParts _ _ _) _ _ _ (congrArg Group.stores (getGrp_modCore s _ hf _ _))
    (instOf_modCore s _ f _)

theorem cfgNow_memParts (s : State) (d a : BitVec 5) (sp : Nat) (x : Span) :
    (cfgNow s d a sp x).memParts = s.memParts ∨ (cfgNow s d a sp x).memParts = (releaseCur s 3).memParts := by
  have hrel := releaseCur_modCore_memParts s (f := leaveCfg s.cur.grp) (fun _ => rfl) 3
  have hcur := releaseCur_cur (modCore s s.cur.cl (leaveCfg s.cur.grp)) 3
  have hunseen := releaseCur_unseen (modCore s s.cur.cl (leaveCfg s.cur.grp)) (sc := 3) le_rfl
  unfold cfgNow
  extract_lets u g r
  have hu : ∀ ls, (readLines u u.cur.cl ls).memParts = (releaseCur s 3).memParts := fun ls =>
    (readLines_memParts (by rw [hcur]; exact hunseen) ls).trans hrel
  split
  · next t ht =>
    right
    have hm := loadImage_memParts ht
    rw [finish_memParts, readLines_memParts ?_ r.lines, hm, hrel]
    rw [show t.near = u.near from congrArg (fun m => m.2.1) hm, hcur]
    exact hunseen
  · left
    simp
  · right
    rw [takeTrap_memParts, hu]
  · right
    rw [takeTrap_memParts, hu]
theorem execCfg_memFrom (d a : BitVec 5) (s : State) : MemFrom s (releaseCur s 3) (execCfg d a s) := by
  unfold execCfg
  split
  · exact (memFrom_next _ _ _).2 (by simp)
  next sp x _ =>
  dsimp only
  split
  · exact (memFrom_next _ _ _).2 (by simp)
  split
  · refine (memFrom_next _ _ _).2 ?_
    have h := cfgNow_memParts (modCore s s.cur.cl (joinCfg s.cur.grp)) d a sp x
    rw [releaseCur_modCore_memParts s (fun c => by unfold joinCfg; split <;> rfl) 3, modCore_memParts] at h
    exact h
  · exact (memFrom_next _ _ _).2 (by simp)

end Sys2Proof.Machine


namespace Sys2Proof.Machine
open Sys2Proof Sys2Proof.Claims

/-! STRM, MCAST and PATLD: their cluster sees what it saw, or what a release at span scope leaves it. -/

def SeenFrom (s : State) (o : Out) : Prop := ∀ t, o = .next t →
  (∀ k, t.seen s.cur.cl k = s.seen s.cur.cl k) ∨ ∀ k, t.seen s.cur.cl k = (releaseCur s 1).seen s.cur.cl k
theorem seenFrom_kept {s t : State} (h : t.memParts = s.memParts) : SeenFrom s (.next t) := fun _ e => by
  cases e
  exact .inl fun k => seen_of_memParts h _ k
theorem seenFrom_released {s t : State} (h : t.memParts = (releaseCur s 1).memParts) : SeenFrom s (.next t) := fun _ e => by
  cases e
  exact .inr fun k => seen_of_memParts h _ k

section
variable {s : State} (hok : s.memOk)
include hok

theorem seenFrom_read {t : State} {pas : List Nat} (h : t.memParts = (touchRead (releaseCur s 1) s.cur.cl pas).memParts) : SeenFrom s (.next t) :=
  fun _ e => by
    cases e
    exact .inr fun k => (seen_of_memParts h _ k).trans (seen_touchRead (releaseCur_ok 1 hok) _ pas k)
theorem seenFrom_lines {t : State} {ls : List Nat} (h : t.memParts = (readLines (releaseCur s 1) s.cur.cl ls).memParts) : SeenFrom s (.next t) :=
  fun _ e => by
    cases e
    exact .inr fun k => (seen_of_memParts h _ k).trans (seen_readLines (releaseCur_ok 1 hok) _ ls k)

theorem execStrm_seenFrom (a b : BitVec 5) : SeenFrom s (execStrm a b s) := by
  have hill : ∀ n, SeenFrom s (.next (illegal s n)) := fun n => seenFrom_kept (by simp)
  unfold execStrm
  dsimp only
  split
  rotate_left
  · exact hill 6
  split
  · exact hill 6
  split
  · exact hill 11
  split
  · exact hill 11
  split
  · exact seenFrom_released (by simp)
  · exact seenFrom_released (by simp)
  rw [releaseCur_cur]
  split
  · exact seenFrom_read hok (illegal_memParts _ _)
  · exact seenFrom_read hok (takeTrap_memParts _ _)
  · split
    · exact seenFrom_read hok (modCur_memParts _ _)
    · exact seenFrom_read hok ((skip_memParts _ _).trans ((pushStream_memParts _ _ _ _).trans (takeTicket_memParts _ _)))

theorem execMcast_seenFrom (a b : BitVec 5) : SeenFrom s (execMcast a b s) := by
  have hill : ∀ n, SeenFrom s (.next (illegal s n)) := fun n => seenFrom_kept (by simp)
  unfold execMcast
  dsimp only
  split
  rotate_left
  · exact hill 6
  split
  · exact hill 6
  split
  · exact hill 11
  split
  · exact seenFrom_released (by simp)
  · exact seenFrom_released (by simp)
  rw [releaseCur_cur]
  split
  · exact seenFrom_read hok (illegal_memParts _ _)
  · exact seenFrom_read hok ((skip_memParts _ _).trans ((modLoad_memParts _ _ _).trans (takeTicket_memParts _ _)))

theorem execPatld_seenFrom (a b : BitVec 5) : SeenFrom s (execPatld a b s) := by
  have hill : ∀ n, SeenFrom s (.next (illegal s n)) := fun n => seenFrom_kept (by simp)
  unfold execPatld
  dsimp only
  split
  · exact hill 11
  split
  · exact hill 11
  rw [releaseCur_cur]
  split
  · exact seenFrom_released (by simp)
  · exact seenFrom_lines hok (takeTrap_memParts _ _)
  · exact seenFrom_lines hok (takeTrap_memParts _ _)
  · exact seenFrom_lines hok ((skip_memParts _ _).trans (modCtx_memParts _ _ _ _))
end

/-- Settles O30. -/
theorem memoryWriters : Obligations.MemoryWriters := by
  intro i s t h
  refine ⟨exec_mem h, fun a b d hi => ?_, fun a b e w sc hi => ?_, fun a b hi hok => ?_, fun hok k d w c n pa bad v hi => ?_, fun hok sp ch br bad a hi => ?_⟩
  · simp only [List.mem_cons, List.not_mem_nil, or_false] at hi
    obtain rfl | rfl | rfl := hi
    · exact (execInvr_memFrom d a b s).mem h
    · exact (execCfg_memFrom d a s).mem h
    · exact (execCtxld_memFrom a s).mem h
  · simp only [List.mem_cons, List.not_mem_nil, or_false] at hi
    obtain rfl | rfl := hi
    · exact (execFence_memFrom e sc s).mem h
    · exact (execStl_memFrom a b sc w s).mem h
  · simp only [List.mem_cons, List.not_mem_nil, or_false] at hi
    obtain rfl | rfl | rfl := hi
    · exact execStrm_seenFrom hok a b t h
    · exact execMcast_seenFrom hok a b t h
    · exact execPatld_seenFrom hok a b t h
  · simp only [List.mem_cons, List.not_mem_nil, or_false] at hi
    obtain rfl | rfl | rfl | rfl | rfl := hi
    · exact execPatrol_outRing k pa bad s t h hok
    · exact execPowerMeasurement_outRing d w c s t h hok
    · exact execLinkJudgement_outRing n w s t h hok
    · exact execExclusionWrite_outRing n v s t h hok
    · exact execIslandArray_outRing k n s t h hok
  · subst hi
    exact execTokenArrival_outRing sp ch br bad s t h hok a

end Sys2Proof.Machine


namespace Sys2Proof.Machine
open Sys2Proof Sys2Proof.Claims

/-! The registers of the groups and cores (R164, R193), and what leaves them. -/

/-- A group's registers. -/
def regsOf (g : Group) : Vec32 W64 × W64 × W64 × W64 × W64 × W64 × W64 × Nat := (g.x, g.status, g.epc, g.cause, g.tval, g.scr, g.pmsk, g.asid)
/-- A core's registers and those of its four groups. -/
def coreView (c : Core) : List W64 × (Fin 4 → Vec32 W64 × W64 × W64 × W64 × W64 × W64 × W64 × Nat) := (coreRegs c, fun g => regsOf (vec4Get c.grp g))
/-- The executing group and the registers of every core. -/
def State.regsView (s : State) : Cur × (Nat → List W64 × (Fin 4 → Vec32 W64 × W64 × W64 × W64 × W64 × W64 × W64 × Nat)) :=
  (s.cur, fun c => coreView (getCl s c).core)

theorem regsView_of_cores {s t : State} (hcur : t.cur = s.cur) (h : ∀ c, coreView (getCl t c).core = coreView (getCl s c).core) :
    t.regsView = s.regsView := Prod.ext hcur (funext h)
/-- A change outside the clusters and the executing group. -/
theorem regsView_of_clusters {s t : State} (hcur : t.cur = s.cur) (h : t.clusters = s.clusters) : t.regsView = s.regsView :=
  regsView_of_cores hcur fun c => by rw [getCl_congr h]
@[simp] theorem ite_regsView (c : Prop) [Decidable c] (s t : State) :
    (if c then s else t).regsView = if c then s.regsView else t.regsView := apply_ite State.regsView c s t
theorem foldl_regsView {α : Type} {f : State → α → State} (hf : ∀ s a, (f s a).regsView = s.regsView) (l : List α) (s : State) :
    (l.foldl f s).regsView = s.regsView :=
  foldl_inv f (fun t => t.regsView = s.regsView) (fun b a h => (hf b a).trans h) l rfl
theorem modCl_regsView (s : State) (cl : Nat) {f : Cluster → Cluster} (hf : ∀ k : Cluster, coreView (f k).core = coreView k.core) :
    (modCl s cl f).regsView = s.regsView := by
  refine regsView_of_cores rfl fun c => ?_
  rw [getCl_modCl]
  split
  · next h => rw [hf, h]
  · rfl
theorem modCore_regsView (s : State) (cl : Nat) {f : Core → Core} (hf : ∀ c : Core, coreView (f c) = coreView c) :
    (modCore s cl f).regsView = s.regsView := modCl_regsView s cl fun k => hf k.core
theorem coreView_setGrp (c : Core) (g : Nat) {f : Group → Group} (hf : ∀ g, regsOf (f g) = regsOf g) :
    coreView { c with grp := vec4Set c.grp g (f (vec4Get c.grp g)) } = coreView c := by
  refine Prod.ext rfl (funext fun k => ?_)
  by_cases hg : g < 4
  · have hget := vec4Get_set c.grp (f (vec4Get c.grp g)) hg k.isLt
    show regsOf (vec4Get (vec4Set c.grp g (f (vec4Get c.grp g))) k) = regsOf (vec4Get c.grp k)
    rw [hget]
    split
    · next h => rw [hf, h]
    · rfl
  · match g, hg with
    | g + 4, _ => rfl
theorem modGrp_regsView (s : State) (cl g : Nat) {f : Group → Group} (hf : ∀ g, regsOf (f g) = regsOf g) : (modGrp s cl g f).regsView = s.regsView :=
  modCore_regsView s cl fun c => coreView_setGrp c g hf
theorem modCur_regsView (s : State) {f : Group → Group} (hf : ∀ g, regsOf (f g) = regsOf g) : (modCur s f).regsView = s.regsView :=
  modGrp_regsView s _ _ hf
theorem regsView_counts {s t : State} (h : sameButCounts s t) : t.regsView = s.regsView :=
  regsView_of_cores h.1 fun c => by rw [sameButCounts_cl h c]
theorem regsView_mem {s t : State} (h : sameButMem s t) : t.regsView = s.regsView := regsView_counts (sameButMem_counts h)

@[simp] theorem modEl_regsView (s : State) (cl el : Nat) (f : Elem → Elem) : (modEl s cl el f).regsView = s.regsView := modCl_regsView s cl fun _ => rfl
@[simp] theorem modTile_regsView (s : State) (cl t : Nat) (f : Tile → Tile) : (modTile s cl t f).regsView = s.regsView := modCl_regsView s cl fun _ => rfl
@[simp] theorem modGen_regsView (s : State) (cl t a : Nat) (f : AddrGen → AddrGen) : (modGen s cl t a f).regsView = s.regsView := modCl_regsView s cl fun _ => rfl
@[simp] theorem modPort_regsView (s : State) (cl p : Nat) (f : SPort → SPort) : (modPort s cl p f).regsView = s.regsView := modCl_regsView s cl fun _ => rfl
@[simp] theorem modIsland_regsView (s : State) (cl : Nat) (f : Island → Island) : (modIsland s cl f).regsView = s.regsView := modCl_regsView s cl fun _ => rfl
@[simp] theorem modCtx_regsView (s : State) (cl c : Nat) (f : GenCtx → GenCtx) : (modCtx s cl c f).regsView = s.regsView := modCl_regsView s cl fun _ => rfl
@[simp] theorem modHub_regsView (s : State) (f : Hub → Hub) : (modHub s f).regsView = s.regsView := rfl
@[simp] theorem modPart_regsView (s : State) (p : Nat) (f : Partition → Partition) : (modPart s p f).regsView = s.regsView := rfl
@[simp] theorem modSpan_regsView (s : State) (sp : Nat) (f : Span → Span) : (modSpan s sp f).regsView = s.regsView := rfl
@[simp] theorem modLoad_regsView (s : State) (sp : Nat) (f : Load → Load) : (modLoad s sp f).regsView = s.regsView := rfl
@[simp] theorem modChan_regsView (s : State) (sp ch : Nat) (f : Chan → Chan) : (modChan s sp ch f).regsView = s.regsView := rfl
@[simp] theorem modOp_regsView (s : State) (sp op : Nat) (f : OpState → OpState) : (modOp s sp op f).regsView = s.regsView := rfl
@[simp] theorem modBr_regsView (s : State) (sp ch br : Nat) (f : Branch → Branch) : (modBr s sp ch br f).regsView = s.regsView := rfl
@[simp] theorem modGroup_regsView (s : State) (g : Nat) (f : CGroup → CGroup) : (modGroup s g f).regsView = s.regsView := rfl
@[simp] theorem modColl_regsView (s : State) (h : Nat) (f : Coll → Coll) : (modColl s h f).regsView = s.regsView := rfl
@[simp] theorem carry_regsView (s : State) (n : Nat) (l : List Nat) : (carry s n l).regsView = s.regsView := by
  unfold carry
  exact foldl_regsView (fun _ _ => by rfl) l s
@[simp] theorem send_regsView (s : State) (g kind dst : Nat) (bs : List Byte) : (send s g kind dst bs).regsView = s.regsView := by simp [send]
@[simp] theorem takeFree_regsView (s : State) : (takeFree s).2.regsView = s.regsView := rfl
@[simp] theorem arrive_regsView (s : State) : (arrive s).regsView = s.regsView := rfl
@[simp] theorem raiseVec_regsView (s : State) (fn vec : Nat) : (raiseVec s fn vec).regsView = s.regsView := rfl
@[simp] theorem partitionInterrupt_regsView (s : State) (p : Nat) : (partitionInterrupt s p).regsView = s.regsView := rfl
@[simp] theorem countBoth_regsView (s : State) (cl src n : Nat) : (countBoth s cl src n).regsView = s.regsView := by
  rw [countBoth, modHub_regsView, modCl_regsView _ _ fun _ => by rfl]
@[simp] theorem setPend_regsView (s : State) (cl bit : Nat) : (setPend s cl bit).regsView = s.regsView := modCore_regsView s cl fun _ => rfl
@[simp] theorem postEvent_regsView (s : State) (cl : Nat) (r : FaultRec) : (postEvent s cl r).regsView = s.regsView :=
  modCore_regsView s cl fun c => by split <;> rfl
@[simp] theorem startWalk_regsView (s : State) (cl asid va need : Nat) (who : Walker) : (startWalk s cl asid va need who).regsView = s.regsView := by
  unfold startWalk
  dsimp only
  split
  · rfl
  · rw [countBoth_regsView, arrive_regsView, modCl_regsView _ _ fun _ => by rfl]
@[simp] theorem joinCfg_regsView (s : State) (cl g : Nat) : (modCore s cl (joinCfg g)).regsView = s.regsView :=
  modCore_regsView s cl fun c => by unfold joinCfg; split <;> rfl
@[simp] theorem leaveCfg_regsView (s : State) (cl g : Nat) : (modCore s cl (leaveCfg g)).regsView = s.regsView := modCore_regsView s cl fun _ => rfl
@[simp] theorem waitFor_regsView (s : State) (w : Wait) : (modCur s (waitFor w)).regsView = s.regsView := modCur_regsView s fun _ => rfl
@[simp] theorem skip_regsView (s : State) (len : Nat) : (skip s len).regsView = s.regsView := modCur_regsView s fun _ => rfl
@[simp] theorem waitWalk_regsView (s : State) (va need : Nat) : (waitWalk s va need).regsView = s.regsView :=
  (waitFor_regsView _ _).trans (startWalk_regsView _ _ _ _ _ _)

/-! Accesses and releases. -/

@[simp] theorem touchRead_regsView (s : State) (cl : Nat) (pas : List Nat) : (touchRead s cl pas).regsView = s.regsView := regsView_counts (touchRead_counts s cl pas)
@[simp] theorem readLines_regsView (s : State) (cl : Nat) (ls : List Nat) : (readLines s cl ls).regsView = s.regsView := regsView_counts (readLines_counts s cl ls)
@[simp] theorem flushGrp_regsView (s : State) (cl g sc : Nat) : (flushGrp s cl g sc).regsView = s.regsView := by
  rw [flushGrp_eq, regsView_mem (performSeen_same _ _ _), storesPerformed, modGrp_regsView _ _ _ fun _ => by rfl]
  exact regsView_counts (performAll_counts _ _ _ _)
@[simp] theorem releaseCur_regsView (s : State) (sc : Nat) : (releaseCur s sc).regsView = s.regsView := flushGrp_regsView s _ _ sc
@[simp] theorem acquireGrp_regsView (s : State) (cl g sc : Nat) : (acquireGrp s cl g sc).regsView = s.regsView := flushGrp_regsView s _ _ sc
@[simp] theorem acquireCur_regsView (s : State) (sc : Nat) : (acquireCur s sc).regsView = s.regsView := flushGrp_regsView s _ _ sc
@[simp] theorem flushCore_regsView (s : State) (cl : Nat) : (flushCore s cl).regsView = s.regsView := by simp [flushCore]
@[simp] theorem performSome_regsView (s : State) (cl g : Nat) (sel : PStore → Bool) : (performSome s cl g sel).regsView = s.regsView := by
  rw [performSome_eq, modGrp_regsView _ _ _ fun _ => by rfl]
  exact regsView_counts (performAll_counts _ _ _ _)

end Sys2Proof.Machine


namespace Sys2Proof.Machine
open Sys2Proof Sys2Proof.Claims

/-! The registers under the operations that control-core words use. -/

theorem coreView_vec4Of (c : Core) {f : Group → Group} (hf : ∀ g, regsOf (f g) = regsOf g) :
    coreView { c with grp := vec4Of (fun g => f (vec4Get c.grp g)) 0 } = coreView c := by
  refine Prod.ext rfl (funext fun k => ?_)
  show regsOf (vec4Get (vec4Of (fun g => f (vec4Get c.grp g)) 0) k) = regsOf (vec4Get c.grp k)
  rw [vec4Get_of _ 0 k.isLt, Nat.zero_add, hf]

theorem regsOf_releaseFrom (t : Nat) (k : Bool) (id : Nat) (g : Group) : regsOf (releaseFrom t k id g) = regsOf g := by
  unfold releaseFrom
  dsimp only
  split <;> split <;> rfl
theorem releaseWaiters_regsView (s : State) (cl sc : Nat) (k : Bool) (id : Nat) : (releaseWaiters s cl sc k id).regsView = s.regsView := by
  unfold releaseWaiters
  refine foldl_regsView (fun s g => ?_) _ s
  split
  · exact flushGrp_regsView _ _ _ _
  · rfl
@[simp] theorem settleGroupBar_regsView (s : State) (cl m : Nat) : (settleGroupBar s cl m).regsView = s.regsView := by
  unfold settleGroupBar completeGroupBar
  split
  · rw [modCore_regsView _ _ fun c => ?_, releaseWaiters_regsView]
    exact coreView_vec4Of c (regsOf_releaseFrom _ _ _)
  · rfl
theorem completeClusterBar_regsView (s : State) (sp id : Nat) : (completeClusterBar s sp id).regsView = s.regsView := by
  unfold completeClusterBar
  split
  · rfl
  · dsimp only
    rw [foldl_regsView (fun s k => modCore_regsView s k fun c => coreView_vec4Of c (regsOf_releaseFrom _ _ _)), modSpan_regsView,
      foldl_regsView (fun s k => releaseWaiters_regsView s k 1 true id)]
@[simp] theorem settleClusterBar_regsView (s : State) (sp id : Nat) : (settleClusterBar s sp id).regsView = s.regsView := by
  unfold settleClusterBar
  split
  · rfl
  · split
    · exact completeClusterBar_regsView s sp id
    · rfl

/-! Loads, streams, launches. -/

@[simp] theorem genFault_regsView (s : State) (cl t a : Nat) (r : FaultRec) : (genFault s cl t a r).regsView = s.regsView := by simp [genFault]
@[simp] theorem portFault_regsView (s : State) (cl n : Nat) (r : FaultRec) : (portFault s cl n r).regsView = s.regsView := by simp [portFault]
@[simp] theorem islandFault_regsView (s : State) (cl : Nat) (r : FaultRec) : (islandFault s cl r).regsView = s.regsView := by simp [islandFault]
@[simp] theorem headCheck_regsView (s : State) (sp : Nat) (e : Endpoint) : (headCheck s sp e).regsView = s.regsView := by
  unfold headCheck
  repeat' split
  all_goals simp
/-- The executing group and every core as a whole; the building of a load leaves both. -/
def State.coresView (s : State) : Cur × (Nat → Core) := (s.cur, fun c => (getCl s c).core)
theorem regsView_of_coresView {s t : State} (h : t.coresView = s.coresView) : t.regsView = s.regsView :=
  regsView_of_cores (congrArg Prod.fst h) fun c => congrArg coreView (congrFun (congrArg Prod.snd h) c)
theorem modCl_coresView (s : State) (cl : Nat) {f : Cluster → Cluster} (hf : ∀ k, (f k).core = k.core) : (modCl s cl f).coresView = s.coresView := by
  refine Prod.ext rfl (funext fun c => ?_)
  show (getCl (modCl s cl f) c).core = (getCl s c).core
  rw [getCl_modCl]
  split
  · next h => rw [hf, h]
  · rfl
theorem foldl_coresView {α : Type} {f : State → α → State} (hf : ∀ s a, (f s a).coresView = s.coresView) (l : List α) (s : State) :
    (l.foldl f s).coresView = s.coresView := foldl_keep f State.coresView hf l s
theorem modTile_coresView (s : State) (cl t : Nat) (f : Tile → Tile) : (modTile s cl t f).coresView = s.coresView := modCl_coresView s cl fun _ => rfl
theorem modBr_coresView (s : State) (sp ch br : Nat) (f : Branch → Branch) : (modBr s sp ch br f).coresView = s.coresView := rfl
/-- A preloaded token changes its branch, or joins the queue of the branch. -/
theorem presetBranch_cases (s : State) (x : Span) (sp ch br : Nat) (b : Branch) (t : Token) :
    (∃ f, presetBranch s x sp ch br b t = modBr s sp ch br f) ∨ ∃ q, presetBranch s x sp ch br b t = queuePush s x sp ch br q t false := by
  unfold presetBranch
  extract_lets behind room stand
  split
  · left
    split
    · exact ⟨_, rfl⟩
    · split <;> exact ⟨_, rfl⟩
  · split
    · exact .inl ⟨_, rfl⟩
    · split
      · exact .inr ⟨_, rfl⟩
      · exact .inl ⟨_, rfl⟩
theorem presetBranch_coresView (s : State) (x : Span) (sp ch br : Nat) (b : Branch) (t : Token) :
    (presetBranch s x sp ch br b t).coresView = s.coresView := by
  obtain ⟨f, h⟩ | ⟨q, h⟩ := presetBranch_cases s x sp ch br b t
  · rw [h, modBr_coresView]
  · rw [h, queuePush]
    split
    · rfl
    · dsimp only
      rw [modBr_coresView, modTile_coresView]
theorem presetToken_coresView (s : State) (sp : Nat) (p : Nat × Token) : (presetToken s sp p).coresView = s.coresView := by
  unfold presetToken
  split
  · refine foldl_coresView (fun s k => ?_) _ s
    split
    · exact presetBranch_coresView _ _ _ _ _ _ _
    · rfl
  · rfl
theorem modSpan_coresView (s : State) (sp : Nat) (f : Span → Span) : (modSpan s sp f).coresView = s.coresView := rfl
/-- The units take the image; then the span has the load, and the preloaded tokens stand. -/
theorem buildLoad_units (s : State) (sp : Nat) (x : Span) (im : Image) (l : Load) (qs : List (Nat × Nat × Nat × Nat × Nat)) :
    ∃ u : State, (u.coresView = s.coresView ∧ u.spans = s.spans) ∧ buildLoad s sp x im l qs =
      im.pres.foldl (fun s p => presetToken s sp p) (modSpan u sp (fun y => { y with load := some (markCmps l), lids := l.lid })) := by
  refine ⟨_, ⟨?_, ?_⟩, rfl⟩
  · rw [foldl_coresView, foldl_coresView, foldl_coresView]
    · exact fun s c => modCl_coresView s c fun _ => rfl
    · intro s e
      split
      · exact modCl_coresView _ _ fun _ => rfl
      · rfl
    · intro s q
      split
      · exact (modCl_coresView _ _ fun _ => by rfl).trans (modTile_coresView _ _ _ _)
      · rfl
  · rw [foldl_keep _ State.spans, foldl_keep _ State.spans, foldl_keep _ State.spans]
    · exact fun _ _ => rfl
    · intro s e
      split <;> rfl
    · intro s q
      split <;> rfl
theorem buildLoad_coresView (s : State) (sp : Nat) (x : Span) (im : Image) (l : Load) (qs : List (Nat × Nat × Nat × Nat × Nat)) :
    (buildLoad s sp x im l qs).coresView = s.coresView := by
  obtain ⟨u, ⟨hu, -⟩, h⟩ := buildLoad_units s sp x im l qs
  rw [h, foldl_coresView (fun s p => presetToken_coresView s sp p), modSpan_coresView, hu]
theorem loadImage_coresView {s t : State} {sp : Nat} {x : Span} {cl asid img owner : Nat}
    (h : (loadImage s sp x cl asid img owner).res = .ok t) : t.coresView = s.coresView := by
  obtain ⟨im, h⟩ := ldBind_ok h
  obtain ⟨cmps, h⟩ := ldBind_ok h
  dsimp only at h
  repeat' split at h
  all_goals cases h
  exact buildLoad_coresView _ _ _ _ _ _
theorem loadImage_regsView {s t : State} {sp : Nat} {x : Span} {cl asid img owner : Nat}
    (h : (loadImage s sp x cl asid img owner).res = .ok t) : t.regsView = s.regsView := regsView_of_coresView (loadImage_coresView h)
@[simp] theorem startLoad_regsView (s : State) (sp : Nat) (x : Span) : (startLoad s sp x).regsView = s.regsView := by
  unfold startLoad
  dsimp only
  rw [regsView_counts (writeTable_counts _ _), foldl_regsView, modLoad_regsView, foldl_regsView]
  · exact fun s c => modIsland_regsView s c _
  · intro s e
    split <;> simp
@[simp] theorem setLimiter_regsView (s : State) (sp cl n : Nat) : (setLimiter s sp cl n).regsView = s.regsView := by
  have h : ∀ f : Limiter → Limiter, (modCl s cl fun c => { c with limiter := f c.limiter }).regsView = s.regsView :=
    fun f => modCl_regsView s cl fun _ => rfl
  unfold setLimiter
  split
  · split
    · exact h fun m => { rollLimiter _ m with next := some n }
    · exact h fun m => { m with limit := n, next := none, used := 0 }
  · exact h fun m => { m with limit := n, next := none, used := 0 }
@[simp] theorem takeTicket_regsView (s : State) (sp : Nat) : (takeTicket s sp).2.regsView = s.regsView := by
  unfold takeTicket
  split
  · rfl
  · exact modCur_regsView _ fun _ => rfl
@[simp] theorem pushStream_regsView (s : State) (cl n : Nat) (st : Stream) : (pushStream s cl n st).regsView = s.regsView := by simp [pushStream]
@[simp] theorem bindCtx_regsView (s : State) (cl n : Nat) (k : Binding) : (bindCtx s cl n k).regsView = s.regsView := by simp [bindCtx]
@[simp] theorem settlePool_regsView (s : State) (part : Nat) : (settlePool s part).regsView = s.regsView := by simp [settlePool]
@[simp] theorem spillRecord_regsView (s : State) (cl pa : Nat) (r : LRecord) : (spillRecord s cl pa r).regsView = s.regsView := by
  rw [spillRecord, regsView_counts (l2Write_counts _ _ _ _), regsView_counts (l2Write_counts _ _ _ _)]
@[simp] theorem askInval_regsView (s : State) (asid lo n : Nat) (who : Option (Nat × Nat)) : (askInval s asid lo n who).regsView = s.regsView := rfl
@[simp] theorem counterSet_regsView (s : State) (cl i src : Nat) (v : W64) : (counterSet s cl i src v).regsView = s.regsView := by
  unfold counterSet
  split
  · exact modCl_regsView s cl fun _ => rfl
  · rfl

/-! The end of a launch. -/

@[simp] theorem tellCore_regsView (s : State) (part key rel bit : Nat) : (tellCore s part key rel bit).regsView = s.regsView := by
  unfold tellCore
  repeat' split
  all_goals simp
@[simp] theorem endPool_regsView (s : State) (part order : Nat) (status : W64) : (endPool s part order status).regsView = s.regsView := by
  unfold endPool tellLauncher
  split
  · rfl
  · dsimp only
    split <;> simp
@[simp] theorem writeCompletion_regsView (s : State) (part q i kind : Nat) (st : W64) : (writeCompletion s part q i kind st).regsView = s.regsView := by
  obtain ⟨l, bs, fn, vec, h⟩ | h := writeCompletion_cases s part q i kind st
  · rw [h, raiseVec_regsView, regsView_mem (publishWords_same _ _ _)]
  · rw [h]
    rfl
@[simp] theorem freeSpan_regsView (s : State) (sp : Nat) (x : Span) : (freeSpan s sp x).regsView = s.regsView := by
  unfold freeSpan
  dsimp only
  refine (regsView_of_clusters rfl rfl).trans (foldl_regsView (fun s c => modCl_regsView s c fun k => ?_) x.clusters s)
  exact coreView_vec4Of k.core (f := fun g => { g with st := .idle, launchKey := none }) fun _ => rfl
@[simp] theorem endGroup_regsView (s : State) (cl g : Nat) (status : W64) : (endGroup s cl g status).regsView = s.regsView := by
  have h1 : (modGrp (flushGrp s cl g 3) cl g fun x => { x with st := .idle, launchKey := none }).regsView = s.regsView := by
    rw [modGrp_regsView _ _ _ fun _ => by rfl, flushGrp_regsView]
  unfold endGroup endLaunch
  dsimp only
  split
  · exact h1
  · split
    · rw [freeSpan_regsView]
      split <;> simp only [writeCompletion_regsView, endPool_regsView] <;> rw [foldl_regsView fun s c => flushCore_regsView s c, h1]
    · exact h1

/-! Collectives. -/

@[simp] theorem writeBytes_regsView (l : List Nat) (s : State) (bs : List Byte) : (writeBytes s l bs).regsView = s.regsView := by
  induction l generalizing s bs with
  | nil => rfl
  | cons pa l ih =>
    cases bs with
    | nil => rfl
    | cons b bs => exact (ih _ _).trans (regsView_mem (writePA_same s pa [b]))
theorem collWrite_regsView {s t : State} {c : Coll} {va : Nat} {bs : List Byte} (h : collWrite s c va bs = .ok t) : t.regsView = s.regsView := by
  unfold collWrite at h
  split at h
  · cases h
  · cases h
  · cases h
    simp
@[simp] theorem finishColl_regsView (s : State) (h : Nat) (c : Coll) (st faddr : Nat) : (finishColl s h c st faddr).regsView = s.regsView := by
  unfold finishColl
  dsimp only
  split
  · next e => simp [collWrite_regsView e]
  · simp
@[simp] theorem failColl_regsView (s : State) (h : Nat) (c : Coll) (st faddr : Nat) : (failColl s h c st faddr).regsView = s.regsView := by simp [failColl]
@[simp] theorem beginMarks_regsView (s : State) (h : Nat) (c : Coll) (ts : List (List Edge)) : (beginMarks s h c ts).regsView = s.regsView := by
  unfold beginMarks
  split <;> simp
@[simp] theorem beginColl_regsView (s : State) (h : Nat) (c : Coll) : (beginColl s h c).regsView = s.regsView := by
  unfold beginColl
  split
  · simp
  · split
    · simp
    · dsimp only
      split
      · simp
      · next e => simp [collWrite_regsView e]
@[simp] theorem tellParameters_regsView (s : State) (c : Coll) : (tellParameters s c).regsView = s.regsView := by simp [tellParameters]
@[simp] theorem retireColl_regsView (s : State) (h : Nat) (c : Coll) : (retireColl s h c).regsView = s.regsView := rfl

/-! Loads, stores and atomics. -/

@[simp] theorem beforeAmo_regsView (s : State) (sc : Nat) (rel acq : Bool) (pa n : Nat) : (beforeAmo s sc rel acq pa n).regsView = s.regsView := by
  simp [beforeAmo, beforeRead]

end Sys2Proof.Machine


namespace Sys2Proof.Machine
open Sys2Proof Sys2Proof.Claims

/-! The frame of a control-core word: what one outcome may change (R164, R193, R196). -/

/-- The registers of a group that a trap writes. -/
def trapRegs (g : Group) : W64 × W64 × W64 × W64 := (g.status, g.epc, g.cause, g.tval)
/-- The registers of a group that only SYW writes. -/
def ownRegs (g : Group) : W64 × W64 × Nat := (g.scr, g.pmsk, g.asid)
/-- The group has entered its trap from its instruction, or stops by a double fault. -/
def Trapped (s t : State) : Prop :=
  (bitAt 0 (curGrp t).status = true ∧ (curGrp t).epc = (curGrp s).pc.setWidth 64 ∧
    (curGrp t).pc = BitVec.ofNat 52 ((getCl s s.cur.cl).core.tvec.toNat / 4 * 4)) ∨ (curGrp t).st = .stopped
/-- Of the registers of all groups only those of the executing group change, and of its x only `d`. -/
structure OnlyOwn (d : Option (BitVec 5)) (s t : State) : Prop where
  cur : t.cur = s.cur
  x : ∀ r, d ≠ some r → xget (curGrp t) r = xget (curGrp s) r
  others : ∀ c g, g < 4 → c ≠ s.cur.cl ∨ g ≠ s.cur.grp → regsOf (getGrp t c g) = regsOf (getGrp s c g)
/-- Besides, the system registers stay, but those of a trap that the group takes. -/
structure Framed (d : Option (BitVec 5)) (s t : State) : Prop extends OnlyOwn d s t where
  own : ownRegs (curGrp t) = ownRegs (curGrp s)
  core : ∀ c, coreRegs (getCl t c).core = coreRegs (getCl s c).core
  trap : trapRegs (curGrp t) = trapRegs (curGrp s) ∨ Trapped s t

section
variable {s u t : State} {d : Option (BitVec 5)}

theorem cur_of_regsView (h : u.regsView = s.regsView) : u.cur = s.cur := congrArg Prod.fst h
theorem coreView_of_regsView (h : u.regsView = s.regsView) (c : Nat) : coreView (getCl u c).core = coreView (getCl s c).core :=
  congrFun (congrArg Prod.snd h) c
theorem grp_of_regsView (h : u.regsView = s.regsView) (c : Nat) {g : Nat} (hg : g < 4) : regsOf (getGrp u c g) = regsOf (getGrp s c g) :=
  congrFun (congrArg Prod.snd (coreView_of_regsView h c)) ⟨g, hg⟩
theorem coreRegs_of_regsView (h : u.regsView = s.regsView) (c : Nat) : coreRegs (getCl u c).core = coreRegs (getCl s c).core :=
  congrArg Prod.fst (coreView_of_regsView h c)
theorem curGrp_of_regsView (h : u.regsView = s.regsView) (hg : s.cur.grp < 4) : regsOf (curGrp u) = regsOf (curGrp s) := by
  rw [curGrp, cur_of_regsView h]
  exact grp_of_regsView h _ hg
theorem regsOf_parts {g h : Group} (e : regsOf g = regsOf h) : g.x = h.x ∧ trapRegs g = trapRegs h ∧ ownRegs g = ownRegs h := by
  simp only [regsOf, Prod.mk.injEq] at e
  obtain ⟨hx, hstatus, hepc, hcause, htval, hscr, hpmsk, hasid⟩ := e
  exact ⟨hx, by simp [trapRegs, hstatus, hepc, hcause, htval], by simp [ownRegs, hscr, hpmsk, hasid]⟩

theorem coreRegs_modCur (f : Group → Group) (c : Nat) : coreRegs (getCl (modCur s f) c).core = coreRegs (getCl s c).core := by
  rw [modCur, modGrp, modCore, getCl_modCl]
  split
  · next h => rw [h]; rfl
  · rfl
theorem xset_keeps (d : BitVec 5) (v : W64) (g : Group) : ownRegs (xset d v g) = ownRegs g ∧ trapRegs (xset d v g) = trapRegs g := by
  unfold xset
  split <;> exact ⟨rfl, rfl⟩

/-- A change of nothing that the registers' readers see. -/
theorem Framed.congr (h : Framed d s u) (hcur : t.cur = u.cur) (hcl : ∀ c, getCl t c = getCl u c) : Framed d s t := by
  have hgrp : ∀ c g, getGrp t c g = getGrp u c g := fun c g => getGrp_congr (congrArg _ (hcl c)) g
  have hcg : curGrp t = curGrp u := by rw [curGrp, hcur, hgrp]; rfl
  obtain ⟨⟨hc, hx, ho⟩, hown, hcore, htrap⟩ := h
  refine ⟨⟨hcur.trans hc, ?_, ?_⟩, ?_, ?_, ?_⟩
  · rwa [hcg]
  · exact fun c g hgl hne => by rw [hgrp, ho c g hgl hne]
  · rwa [hcg]
  · exact fun c => by rw [hcl, hcore]
  · unfold Trapped
    rwa [hcg]
variable (hg : s.cur.grp < 4)
include hg

theorem OnlyOwn.of_modCur (h : u.regsView = s.regsView) {f : Group → Group} (hx : ∀ g r, d ≠ some r → xget (f g) r = xget g r) :
    OnlyOwn d s (modCur u f) := by
  have hcur := cur_of_regsView h
  have hgu : u.cur.grp < 4 := hcur ▸ hg
  refine ⟨hcur, fun r hr => ?_, fun c g hgl hne => ?_⟩
  · rw [curGrp_modCur hgu, hx _ r hr, xget_congr (regsOf_parts (curGrp_of_regsView h hg)).1]
  · rw [modCur, getGrp_modGrp_ne _ f hgu hgl (hcur ▸ hne)]
    exact grp_of_regsView h c hgl
/-- The registers of the groups and cores stay, but one of the executing group and those of its trap. -/
theorem Framed.of_modCur (h : u.regsView = s.regsView) {f : Group → Group} (hx : ∀ g r, d ≠ some r → xget (f g) r = xget g r)
    (hown : ∀ g, ownRegs (f g) = ownRegs g) (htrap : trapRegs (f (curGrp u)) = trapRegs (curGrp u) ∨ Trapped s (modCur u f)) :
    Framed d s (modCur u f) := by
  have hgu : u.cur.grp < 4 := cur_of_regsView h ▸ hg
  obtain ⟨-, htr, how⟩ := regsOf_parts (curGrp_of_regsView h hg)
  refine ⟨.of_modCur hg h hx, ?_, fun c => (coreRegs_modCur f c).trans (coreRegs_of_regsView h c), ?_⟩
  · rw [curGrp_modCur hgu, hown, how]
  · rw [curGrp_modCur hgu]
    exact htrap.imp_left fun e => e.trans htr
theorem OnlyOwn.of_regs (h : t.regsView = s.regsView) : OnlyOwn d s t :=
  ⟨cur_of_regsView h, fun r _ => by rw [xget_congr (regsOf_parts (curGrp_of_regsView h hg)).1], fun c _ hgl _ => grp_of_regsView h c hgl⟩
theorem Framed.of_regs (h : t.regsView = s.regsView) : Framed d s t := by
  obtain ⟨-, htr, how⟩ := regsOf_parts (curGrp_of_regsView h hg)
  exact ⟨.of_regs hg h, how, coreRegs_of_regsView h, .inl htr⟩
theorem OnlyOwn.then_regs (h : OnlyOwn d s u) (k : t.regsView = u.regsView) : OnlyOwn d s t := by
  obtain ⟨hcur, hx, ho⟩ := h
  obtain ⟨kx, -⟩ := regsOf_parts (curGrp_of_regsView k (hcur ▸ hg))
  refine ⟨(cur_of_regsView k).trans hcur, fun r hr => ?_, fun c g hgl hne => ?_⟩
  · rw [xget_congr kx, hx r hr]
  · rw [grp_of_regsView k c hgl, ho c g hgl hne]
/-- A further change that leaves the registers, where the group has taken no trap. -/
theorem Framed.then_regs (h : Framed d s u) (htrap : trapRegs (curGrp u) = trapRegs (curGrp s)) (k : t.regsView = u.regsView) : Framed d s t := by
  obtain ⟨-, ktrap, kown⟩ := regsOf_parts (curGrp_of_regsView k (h.cur ▸ hg))
  exact ⟨h.toOnlyOwn.then_regs hg k, kown.trans h.own, fun c => (coreRegs_of_regsView k c).trans (h.core c), .inl (ktrap.trans htrap)⟩
/-- One register is written, and the pc moves. -/
theorem Framed.of_xset (h : u.regsView = s.regsView) (d : BitVec 5) (v : Group → W64) (pc : Group → Addr) :
    Framed (some d) s (modCur u fun g => { xset d (v g) g with pc := pc g }) := by
  refine .of_modCur hg h (fun g r hr => ?_) (fun g => (xset_keeps d (v g) g).1) (.inl (xset_keeps d _ _).2)
  exact (xget_xset g d r (v g)).trans (if_neg fun hd => hr (congrArg some hd.1.symm))
theorem Framed.of_finish (h : u.regsView = s.regsView) (len : Nat) (d : BitVec 5) (v : W64) : Framed (some d) s (finish u len d v) :=
  .of_xset hg h d (fun _ => v) fun g => (xset d v g).pc + BitVec.ofNat 52 len

/-- A synchronous trap after operations that keep the registers and the pc. -/
theorem Framed.of_trap (h : u.regsView = s.regsView) (hpc : (curGrp u).pc = (curGrp s).pc) (r : FaultRec) : Framed d s (takeTrap u r) := by
  have hgu : u.cur.grp < 4 := cur_of_regsView h ▸ hg
  unfold takeTrap trapGroup
  dsimp only
  split
  · refine (Framed.of_modCur hg h (f := doubleFault r) (fun _ _ _ => rfl) (fun _ => rfl) (.inr (.inr ?_))).congr rfl
      (getCl_partitionInterrupt _ _)
    rw [curGrp_modCur hgu]
    rfl
  · have htvec : (getCl u u.cur.cl).core.tvec = (getCl s s.cur.cl).core.tvec := by
      rw [cur_of_regsView h]
      exact (List.cons.inj (coreRegs_of_regsView h s.cur.cl)).1
    refine Framed.of_modCur hg h (f := enterTrap _ _ r) (fun _ _ _ => rfl) (fun _ => rfl) (.inr (.inl ?_))
    rw [curGrp_modCur hgu, htvec]
    exact ⟨(bitAt_enterTrap _ _ _ _ 0).trans rfl, congrArg (BitVec.setWidth 64) hpc, rfl⟩
theorem Framed.of_illegal (sub : Nat) : Framed d s (illegal s sub) := .of_trap hg rfl rfl _

end

/-- The frame of an instruction's outcome. -/
def Framing (d : Option (BitVec 5)) (s : State) (o : Out) : Prop := ∀ t, o = .next t → Framed d s t
theorem framing_next {d : Option (BitVec 5)} {s t : State} (h : Framed d s t) : Framing d s (.next t) := fun u e => by
  cases e
  exact h

end Sys2Proof.Machine


namespace Sys2Proof.Machine
open Sys2Proof Sys2Proof.Claims

/-! The frame of every control-core word but EXT, CTXSV and CTXLD (R164, R193, R196). -/

theorem completeClusterBar_bars {s : State} {sp id : Nat} {x : Span} (h : getSpan s sp = some x) :
    getSpan (completeClusterBar s sp id) sp = some { x with bars := amDel x.bars id } := by
  have hflush : ∀ (t : State) (c g : Nat), (flushGrp t c g 1).spans = t.spans := fun t c g => by
    rw [flushGrp_eq, sameButCounts_spans (sameButMem_counts (performSeen_same _ _ _))]
    have hall := sameButCounts_spans (performAll_counts (getGrp t c g).stores t c (instOf t c 1))
    exact hall
  have hrel : ∀ (t : State) (c : Nat), (releaseWaiters t c 1 true id).spans = t.spans := fun t c =>
    foldl_keep _ State.spans (fun t g => by split; exacts [hflush t c g, rfl]) _ t
  have hwake : (completeClusterBar s sp id).spans =
      (modSpan (x.clusters.foldl (fun s k => releaseWaiters s k 1 true id) s) sp fun y => { y with bars := amDel y.bars id }).spans := by
    unfold completeClusterBar
    rw [h]
    exact foldl_keep (fun s c => wakeArrived s true id c) State.spans (fun _ _ => rfl) _ _
  rw [getSpan, hwake, ← getSpan, getSpan_modSpan_same, getSpan, foldl_keep _ State.spans (fun t c => hrel t c), ← getSpan, h]
  rfl
/-- A cluster barrier that still counts arrivals after it has been settled has not completed. -/
theorem settleClusterBar_none {s : State} {sp id : Nat} {x : Span} {b : Bar} (h : getSpan s sp = some x)
    (hb : amGet (((getSpan (settleClusterBar s sp id) sp).map (·.bars)).getD amEmpty) id = some b) : settleClusterBar s sp id = s := by
  unfold settleClusterBar at hb ⊢
  rw [h] at hb ⊢
  dsimp only at hb ⊢
  split
  · next hf =>
    rw [if_pos hf, completeClusterBar_bars h] at hb
    cases (amGet_amDel_same x.bars id).symm.trans hb
  · rfl

/-- What an instruction has done before it may trap: registers and pc are as they were. -/
structure Prepared (s u : State) : Prop where
  regs : u.regsView = s.regsView
  pc : (curGrp u).pc = (curGrp s).pc

section
variable {s u t : State} {d : Option (BitVec 5)}

theorem Prepared.refl (s : State) : Prepared s s := ⟨rfl, rfl⟩
theorem Prepared.trans (h : Prepared s u) (k : Prepared u t) : Prepared s t := ⟨k.regs.trans h.regs, k.pc.trans h.pc⟩
theorem Prepared.counts (h : Prepared s u) (k : sameButCounts u t) : Prepared s t :=
  h.trans ⟨regsView_counts k, congrArg Group.pc (sameButCounts_curGrp k)⟩
theorem Prepared.modCore (h : Prepared s u) (cl : Nat) {f : Core → Core} (hf : ∀ c, coreView (f c) = coreView c) (hgrp : ∀ c : Core, (f c).grp = c.grp) :
    Prepared s (modCore u cl f) :=
  h.trans ⟨modCore_regsView u cl hf, congrArg Group.pc (getGrp_modCore u cl hgrp _ _)⟩

variable (hg : s.cur.grp < 4)
include hg
theorem Prepared.grp (h : Prepared s u) : u.cur.grp < 4 := cur_of_regsView h.regs ▸ hg
theorem Prepared.release (h : Prepared s u) (sc : Nat) : Prepared s (releaseCur u sc) :=
  h.trans ⟨releaseCur_regsView u sc, pc_releaseCur sc (h.grp hg)⟩
theorem Prepared.trap (h : Prepared s u) (r : FaultRec) : Framing d s (.next (takeTrap u r)) := framing_next (.of_trap hg h.regs h.pc r)
theorem Prepared.illegal (h : Prepared s u) (sub : Nat) : Framing d s (.next (Machine.illegal u sub)) := h.trap hg _
theorem Prepared.quiet (h : Prepared s u) (k : t.regsView = u.regsView) : Framing d s (.next t) := framing_next (.of_regs hg (k.trans h.regs))
theorem Prepared.finish (h : Prepared s u) (k : t.regsView = u.regsView) (len : Nat) (d : BitVec 5) (v : W64) :
    Framing (some d) s (.next (finish t len d v)) := framing_next (.of_finish hg (k.trans h.regs) len d v)

theorem framing_illegal (sub : Nat) : Framing d s (.next (illegal s sub)) := (Prepared.refl s).illegal hg sub
theorem framing_quiet (h : t.regsView = s.regsView) : Framing d s (.next t) := framing_next (.of_regs hg h)
theorem framing_finish (h : u.regsView = s.regsView) (len : Nat) (d : BitVec 5) (v : W64) : Framing (some d) s (.next (finish u len d v)) :=
  framing_next (.of_finish hg h len d v)
theorem framing_superOnly (h : Framing d s (.next t)) : Framing d s (.next (superOnly s t)) := by
  unfold superOnly
  split
  · exact h
  · exact framing_illegal hg 5
theorem framing_sysGuard (r : Nat) (h : Framing d s (.next t)) : Framing d s (.next (sysGuard s r t)) := by
  unfold sysGuard
  split
  · exact framing_illegal hg 10
  split
  · exact framing_illegal hg 5
  · exact h

/-! Accesses, branches and jumps. -/

theorem framing_coreLoad (len : Nat) (r a : BitVec 5) (sc : Nat) (off : W64) (n : Nat) (signed acq : Bool) :
    Framing d s (.next (coreLoad s len r a sc off n signed acq)) := by
  unfold coreLoad
  split
  · exact framing_illegal hg 9
  dsimp only
  split
  · exact framing_quiet hg (by simp)
  · exact (Prepared.refl s).trap hg _
  · exact framing_quiet hg (by simp)
theorem framing_coreStore (h : Prepared s u) (len : Nat) (v a : BitVec 5) (sc : Nat) (off : W64) (n : Nat) (rel : Bool) :
    Framing d s (.next (coreStore u len v a sc off n rel)) := by
  unfold coreStore
  split
  · exact h.illegal hg 9
  dsimp only
  split
  · exact h.quiet hg (by simp)
  · exact h.trap hg _
  · exact h.quiet hg (modCur_regsView _ fun _ => rfl)
theorem framing_coreAmo (r a b : BitVec 5) (sc : Nat) (rel acq wide : Bool) (op : Nat → Nat → Nat → Nat) :
    Framing (some r) s (.next (coreAmo s r a b sc rel acq wide op)) := by
  by_cases hsc : 5 ≤ sc
  · rw [coreAmo, if_pos hsc]
    exact framing_illegal hg 9
  cases ht : translate s s.cur.cl (curGrp s).asid (effAddr (xget (curGrp s) a) 0#64 (if wide then 8 else 4)) 3 with
  | miss =>
    simp only [coreAmo, if_neg hsc, ht]
    exact framing_quiet hg (by simp)
  | fault c =>
    simp only [coreAmo, if_neg hsc, ht]
    exact (Prepared.refl s).trap hg _
  | hit pa =>
    rw [coreAmo_hit (Nat.not_le.1 hsc) ht rfl rfl rfl]
    refine framing_finish hg ?_ _ _ _
    unfold amoPerformed
    split <;> simp [regsView_counts (amoWritten_counts _ _ _ _ _ _)]
theorem framing_branchTo (len : Nat) (off : W64) (taken : Bool) : Framing d s (.next (branchTo s len off taken)) :=
  framing_quiet hg (modCur_regsView s fun _ => by split <;> rfl)
theorem framing_jal (o : BitVec 26) : Framing (some 31#5) s (execJal o s) := by
  refine framing_next ((Framed.of_xset hg rfl 31#5 (fun g => (g.pc + 4#52).setWidth 64) fun g => (xset 31#5 _ g).pc).then_regs hg ?_
    (modCur_regsView _ fun _ => rfl))
  rw [curGrp_modCur hg]
  exact (xset_keeps _ _ _).2
theorem framing_jalr (r a : BitVec 5) (i : BitVec 16) : Framing (some r) s (execJalr r a i s) :=
  framing_next (.of_xset hg rfl r (fun g => (g.pc + BitVec.ofNat 52 4).setWidth 64) _)

/-! Barriers, waits and system registers. -/

theorem framing_barG (m : BitVec 4) : Framing d s (execBarG m s) := by
  unfold execBarG
  dsimp only
  split
  · exact framing_illegal hg 11
  split
  · refine framing_quiet hg ?_
    rw [skip_regsView, modCur_regsView _ fun g => by unfold clearCut; split <;> rfl, settleGroupBar_regsView]
  · refine framing_quiet hg ?_
    rw [waitFor_regsView, modCore_regsView _ _ fun _ => by rfl, modCur_regsView _ fun g => by unfold clearCut; split <;> rfl,
      settleGroupBar_regsView]

theorem framing_barC (a : BitVec 5) (i : BitVec 6) : Framing d s (execBarC a i s) := by
  unfold execBarC
  dsimp only
  split
  · exact framing_illegal hg 11
  next sp x hx =>
  split
  · exact framing_illegal hg 11
  have hcut : (modCur (settleClusterBar s sp i.toNat) clearCut).regsView = s.regsView := by
    rw [modCur_regsView _ fun g => by unfold clearCut; split <;> rfl, settleClusterBar_regsView]
  split
  · exact framing_quiet hg ((skip_regsView _ _).trans hcut)
  split
  · next b hb =>
    split
    · rw [settleClusterBar_none (getSpan_of_spanAt hx).2 hb]
      exact framing_illegal hg 8
    · exact framing_quiet hg (by rw [waitFor_regsView, modSpan_regsView, hcut])
  · exact framing_quiet hg (by rw [waitFor_regsView, modSpan_regsView, hcut])
theorem framing_fence (e : BitVec 1) (sc : BitVec 3) : Framing d s (execFence e sc s) := by
  unfold execFence
  split
  · exact framing_illegal hg 9
  · dsimp only
    split
    · exact framing_quiet hg (by simp)
    · refine framing_quiet hg ?_
      rw [modCur_regsView _ fun _ => by split <;> rfl, releaseCur_regsView]
theorem framing_cnt (r a : BitVec 5) (o : BitVec 2) (i : BitVec 6) : Framing (some r) s (execCnt r a o i s) := by
  unfold execCnt
  dsimp only
  split
  · exact framing_illegal hg 11
  split
  · exact framing_illegal hg 5
  split
  · exact framing_finish hg rfl _ _ _
  · split
    · exact framing_finish hg (by simp) _ _ _
    · exact framing_illegal hg 11
  · exact framing_finish hg (by simp) _ _ _
  · exact framing_finish hg (by simp) _ _ _
theorem framing_wfi : Framing d s (execWfi s) := by
  unfold execWfi
  split
  · exact framing_quiet hg (by simp)
  · exact framing_quiet hg (by simp)
theorem framing_coreTrap (a : BitVec 5) (c : BitVec 16) : Framing d s (execCoreTrap a c s) := by
  unfold execCoreTrap
  split
  · dsimp only
    split
    · exact framing_quiet hg (by simp)
    · exact framing_quiet hg (by simp)
  · exact (Prepared.refl s).trap hg _
theorem framing_invr (r a b : BitVec 5) : Framing d s (execInvr r a b s) := by
  unfold execInvr
  dsimp only
  refine framing_superOnly hg ?_
  split
  · exact framing_illegal hg 11
  split
  · exact framing_quiet hg (by simp)
  · exact framing_quiet hg (by simp)

end

end Sys2Proof.Machine


namespace Sys2Proof.Machine
open Sys2Proof Sys2Proof.Claims

/-! The frame of the fabric's instructions, of launches and collectives. -/

section
variable {s : State} {d : Option (BitVec 5)} (hg : s.cur.grp < 4)
include hg

theorem prepared_release (sc : Nat) : Prepared s (releaseCur s sc) := (Prepared.refl s).release hg sc
theorem prepared_blockRead (sc cl : Nat) (pas : List Nat) : Prepared s (touchRead (releaseCur s sc) cl pas) :=
  (prepared_release hg sc).counts (touchRead_counts _ _ _)

theorem framing_cfgNow {u : State} (hu : Prepared s u) (r a : BitVec 5) (sp : Nat) (x : Span) : Framing (some r) s (.next (cfgNow u r a sp x)) := by
  unfold cfgNow
  extract_lets v g l
  have hv : Prepared s v := (hu.modCore _ (f := leaveCfg u.cur.grp) (fun _ => rfl) fun _ => rfl).release hg 3
  have hread : Prepared s (readLines v v.cur.cl l.lines) := hv.counts (readLines_counts _ _ _)
  split
  · next h => exact hv.finish hg (by rw [readLines_regsView, loadImage_regsView h]) _ _ _
  · exact hu.quiet hg (by simp)
  · exact hread.trap hg _
  · exact hread.trap hg _
theorem framing_cfg (r a : BitVec 5) : Framing (some r) s (execCfg r a s) := by
  unfold execCfg
  split
  · exact framing_illegal hg 6
  extract_lets mine free first
  split
  · exact framing_illegal hg 6
  split
  · refine framing_cfgNow hg ((Prepared.refl s).modCore _ (fun c => ?_) fun c => ?_) r a _ _
    · unfold joinCfg; split <;> rfl
    · unfold joinCfg; split <;> rfl
  · exact framing_quiet hg (by simp)
theorem framing_go : Framing d s (execGo s) := by
  unfold execGo
  split
  · exact framing_illegal hg 6
  split
  · exact framing_quiet hg (by simp)
  · exact framing_illegal hg 6
theorem framing_waitl (r : BitVec 5) : Framing (some r) s (execWaitl r s) := by
  unfold execWaitl
  split
  · exact framing_illegal hg 6
  split
  · exact framing_finish hg (by simp) _ _ _
  · exact framing_quiet hg (by simp)
theorem framing_waitlNb (r : BitVec 5) : Framing (some r) s (execWaitlNb r s) := by
  unfold execWaitlNb
  split
  · exact framing_illegal hg 6
  · exact framing_finish hg (by split <;> simp) _ _ _
theorem framing_rdlayT (r : BitVec 5) : Framing (some r) s (execRdlayT r s) := by
  unfold execRdlayT
  split
  · exact framing_illegal hg 6
  · exact framing_finish hg rfl _ _ _
theorem framing_pin (r a : BitVec 5) : Framing (some r) s (execPin r a s) := by
  unfold execPin
  dsimp only
  split
  · split
    · exact framing_illegal hg 11
    split
    · exact framing_finish hg rfl _ _ _
    split
    · exact framing_quiet hg (by simp)
    · exact framing_finish hg (modLoad_regsView _ _ _) _ _ _
  · exact framing_illegal hg 6
theorem framing_unpin (a : BitVec 5) : Framing d s (execUnpin a s) := by
  unfold execUnpin
  dsimp only
  split
  · split
    · exact framing_illegal hg 11
    split
    · exact framing_quiet hg (by simp)
    · exact framing_quiet hg (by simp)
  · exact framing_illegal hg 6
theorem framing_rate (r a b : BitVec 5) : Framing (some r) s (execRate r a b s) := by
  unfold execRate
  dsimp only
  split
  · exact framing_illegal hg 11
  split
  · exact framing_illegal hg 11
  split
  · exact framing_illegal hg 11
  · exact framing_finish hg (by simp) _ _ _
theorem framing_prio (r : BitVec 5) (c : BitVec 2) : Framing (some r) s (execPrio r c s) := by
  unfold execPrio
  exact framing_finish hg (modCur_regsView s fun _ => by rfl) _ _ _

theorem framing_strm (a b : BitVec 5) : Framing d s (execStrm a b s) := by
  unfold execStrm
  dsimp only
  split
  rotate_left
  · exact framing_illegal hg 6
  split
  · exact framing_illegal hg 6
  split
  · exact framing_illegal hg 11
  split
  · exact framing_illegal hg 11
  split
  · exact framing_quiet hg (by simp)
  · exact (prepared_release hg 1).trap hg _
  next pas _ =>
  have hread := prepared_blockRead hg 1 (releaseCur s 1).cur.cl pas
  split
  · exact hread.illegal hg 11
  · exact hread.trap hg _
  split
  · exact hread.quiet hg (by simp)
  · exact hread.quiet hg (by simp)
theorem framing_mcast (a b : BitVec 5) : Framing d s (execMcast a b s) := by
  unfold execMcast
  dsimp only
  split
  rotate_left
  · exact framing_illegal hg 6
  split
  · exact framing_illegal hg 6
  split
  · exact framing_illegal hg 11
  split
  · exact framing_quiet hg (by simp)
  · exact (prepared_release hg 1).trap hg _
  next pas _ =>
  have hread := prepared_blockRead hg 1 (releaseCur s 1).cur.cl pas
  split
  · exact hread.illegal hg 11
  · exact hread.quiet hg (by simp)
theorem framing_patld (a b : BitVec 5) : Framing d s (execPatld a b s) := by
  unfold execPatld
  dsimp only
  split
  · exact framing_illegal hg 11
  split
  · exact framing_illegal hg 11
  have hread : ∀ ls, Prepared s (readLines (releaseCur s 1) (releaseCur s 1).cur.cl ls) := fun ls =>
    (prepared_release hg 1).counts (readLines_counts _ _ _)
  split
  · exact framing_quiet hg (by simp)
  · exact (hread _).trap hg _
  · exact (hread _).trap hg _
  · exact framing_quiet hg (by simp)

theorem framing_launch (r a : BitVec 5) (q p : BitVec 1) : Framing (some r) s (execLaunch r a q p s) := by
  unfold execLaunch
  dsimp only
  split
  · exact framing_illegal hg 11
  split
  · exact framing_quiet hg (by simp)
  · exact (prepared_release hg 3).trap hg _
  next pas _ =>
  have hread := prepared_blockRead hg 3 s.cur.cl pas
  split
  · exact hread.illegal hg 11
  split
  · exact hread.finish hg (by simp) _ _ _
  split
  · split
    · exact hread.quiet hg (by simp)
    · exact hread.trap hg _
    · exact hread.finish hg (by simp) _ _ _
  · exact hread.quiet hg (by simp)
theorem framing_waitg (r a : BitVec 5) : Framing (some r) s (execWaitg r a s) := by
  unfold execWaitg
  dsimp only
  split
  · exact framing_illegal hg 7
  split
  · split
    · exact framing_finish hg (by simp) _ _ _
    · exact framing_quiet hg (by simp)
  · split
    · exact framing_quiet hg (by simp)
    · exact framing_illegal hg 7
theorem framing_startColl {u : State} (hu : Prepared s u) (r : BitVec 5) (w : List W64) (va : Nat) : Framing (some r) s (.next (startColl u r w va)) := by
  unfold startColl
  dsimp only
  refine hu.finish hg ?_ _ _ _
  rw [beginColl_regsView, tellParameters_regsView, modCur_regsView _ fun _ => by rfl, modGroup_regsView, modHub_regsView]
theorem framing_coll (r a : BitVec 5) : Framing (some r) s (execColl r a s) := by
  unfold execColl
  dsimp only
  split
  · exact framing_illegal hg 11
  split
  · exact framing_quiet hg (by simp)
  · exact (prepared_release hg 4).trap hg _
  next pas _ =>
  have hread := prepared_blockRead hg 4 (releaseCur s 4).cur.cl pas
  split
  · exact framing_startColl hg hread r _ _
  · exact hread.illegal hg 11
theorem framing_collw (r a : BitVec 5) : Framing (some r) s (execCollw r a s) := by
  unfold execCollw
  dsimp only
  split
  · exact framing_illegal hg 7
  split
  · exact framing_quiet hg (by simp)
  · refine framing_finish hg ?_ _ _ _
    rw [modCur_regsView _ fun _ => by rfl, acquireCur_regsView, retireColl_regsView]

end

end Sys2Proof.Machine


namespace Sys2Proof.Machine
open Sys2Proof Sys2Proof.Claims

section
variable {s t : State} {i : Instr} (hg : s.cur.grp < 4)
include hg

/-- The words of the control core whose registers are framed as `Framed` says: all but those that write system registers, and
EXT and the saves. -/
theorem exec_framing (henc : (encodeCore i).isSome = true) (hext : ∀ h, i ≠ .ext h) (hctx : ∀ a, i ≠ .ctxsv a ∧ i ≠ .ctxld a)
    (heret : i ≠ .eret) (hsyw : ∀ a n, i ≠ .syw a n) : Framing (coreDest i) s (exec i s) := by
  cases i
  case add | sub | aluAnd | aluOr | aluXor | aluAndn | sll | srl | sra | slt | sltu | mul | mulh | mulhu | div | divu | rem | remu
     | min | max | minu | maxu | aluClz | aluPopc | addi | coreAndi | coreOri | xori | slti | sltiu | slli | srli | srai | liu =>
    exact framing_finish hg rfl _ _ _
  case ldI8 | ldN8 | ldI16 | ldN16 | ldI32 | ldN32 | ld64 | lda => exact framing_coreLoad hg _ _ _ _ _ _ _ _
  case st8 | st16 | st32 | st64 => exact framing_coreStore hg (.refl s) _ _ _ _ _ _ _
  case stl a b sc w =>
    refine framing_coreStore hg ?_ _ _ _ _ _ _ _
    split
    · exact .refl s
    · exact prepared_release hg _
  case amoAdd | amoAnd | amoOr | amoXor | amoMin | amoMax | amoMinu | amoMaxu | amoSwp | amoCas => exact framing_coreAmo hg _ _ _ _ _ _ _ _
  case fence e sc => exact framing_fence hg e sc
  case beq | bne | blt | bge | bltu | bgeu | jump => exact framing_branchTo hg _ _ _
  case jal o => exact framing_jal hg o
  case jalr r a k => exact framing_jalr hg r a k
  case cfg r a => exact framing_cfg hg r a
  case go => exact framing_go hg
  case waitl r => exact framing_waitl hg r
  case waitlNb r => exact framing_waitlNb hg r
  case strm a b => exact framing_strm hg a b
  case mcast a b => exact framing_mcast hg a b
  case patld a b => exact framing_patld hg a b
  case launch r a q p => exact framing_launch hg r a q p
  case waitg r a => exact framing_waitg hg r a
  case barG m => exact framing_barG hg m
  case barC a k => exact framing_barC hg a k
  case prio r c => exact framing_prio hg r c
  case rdlay r => exact framing_finish hg (acquireCur_regsView s 3) _ _ _
  case rdlayT r => exact framing_rdlayT hg r
  case pin r a => exact framing_pin hg r a
  case unpin a => exact framing_unpin hg a
  case rate r a b => exact framing_rate hg r a b
  case coll r a => exact framing_coll hg r a
  case collw r a => exact framing_collw hg r a
  case cnt r a o k => exact framing_cnt hg r a o k
  case coreTrap a c => exact framing_coreTrap hg a c
  case wfi => exact framing_wfi hg
  case invr r a b => exact framing_invr hg r a b
  case syr r n => exact framing_sysGuard hg _ (framing_finish hg rfl _ _ _)
  case eret => exact absurd rfl heret
  case syw a n => exact absurd rfl (hsyw a n)
  case ext h => exact absurd rfl (hext h)
  case ctxsv a => exact absurd rfl (hctx a).1
  case ctxld a => exact absurd rfl (hctx a).2
  all_goals cases henc

/-! The words that write system registers. -/

theorem exec_eret (h : exec .eret s = .next t) :
    OnlyOwn none s t ∧ ownRegs (curGrp t) = ownRegs (curGrp s) ∧ ∀ c, coreRegs (getCl t c).core = coreRegs (getCl s c).core := by
  change execEret s = .next t at h
  unfold execEret superOnly at h
  cases h
  split
  · refine ⟨.of_modCur hg rfl fun _ _ _ => rfl, ?_, coreRegs_modCur returnTrap⟩
    rw [curGrp_modCur hg]
    rfl
  · obtain ⟨h, hown, hcore, -⟩ := Framed.of_illegal (d := none) hg 5
    exact ⟨h, hown, hcore⟩

omit hg in
theorem onlyOwn_modCore (cl : Nat) {f : Core → Core} (hf : ∀ c : Core, (f c).grp = c.grp) : OnlyOwn none s (modCore s cl f) :=
  ⟨rfl, fun r _ => congrArg (xget · r) (getGrp_modCore s cl hf _ _), fun c g _ _ => congrArg regsOf (getGrp_modCore s cl hf c g)⟩
omit hg in
theorem resumeUnit_regsView (s : State) (v : W64) : (resumeUnit s v).regsView = s.regsView := by
  unfold resumeUnit
  dsimp only
  repeat' split
  all_goals simp [resumeGen, resumePort, resumeIsland, resumeCmp]
theorem sysWrite_onlyOwn (r : Nat) (v : W64) : OnlyOwn none s (sysWrite s r v) := by
  have hgrp : ∀ f : Group → Group, (∀ g, (f g).x = g.x) → OnlyOwn none s (modCur s f) := fun f hf =>
    .of_modCur hg rfl fun g r _ => xget_congr (hf g) r
  have hcore : ∀ f : Core → Core, (∀ c, (f c).grp = c.grp) → OnlyOwn none s (modCore s s.cur.cl f) := fun f hf => onlyOwn_modCore s.cur.cl hf
  unfold sysWrite
  split
  case h_7 =>
    unfold writeEsc
    split
    · exact (hcore (fun c => { c with esc := true }) fun _ => rfl).then_regs hg (partitionInterrupt_regsView _ _)
    · exact .of_regs hg rfl
  case h_8 => exact (hcore (fun c => { c with eres := v }) fun _ => rfl).then_regs hg (resumeUnit_regsView _ _)
  case h_18 => exact .of_regs hg rfl
  case h_1 | h_2 | h_3 | h_4 | h_6 | h_17 => exact hgrp _ fun _ => rfl
  all_goals exact hcore _ fun _ => rfl
theorem exec_syw {a : BitVec 5} {n : BitVec 12} (h : exec (.syw a n) s = .next t) : OnlyOwn none s t := by
  change execSyw a n s = .next t at h
  unfold execSyw sysGuard at h
  cases h
  have htrap : ∀ k, OnlyOwn none s (illegal s k) := fun k => (Framed.of_illegal hg k).toOnlyOwn
  split
  · exact htrap 10
  split
  · exact htrap 5
  · exact (sysWrite_onlyOwn hg _ _).then_regs hg (skip_regsView _ _)

end

/-- Settles O31: a word that writes no system register keeps all but its destination and the registers of a trap. -/
theorem coreFrame : Obligations.CoreFrame := by
  intro i s t hg henc hext hctx h
  have hother : ∀ {a b : Group}, regsOf a = regsOf b → a.x = b.x ∧ a.status = b.status ∧ a.epc = b.epc ∧ a.cause = b.cause ∧
      a.tval = b.tval ∧ a.scr = b.scr ∧ a.pmsk = b.pmsk := fun e => by
    simp only [regsOf, Prod.mk.injEq] at e
    obtain ⟨hx, hstatus, hepc, hcause, htval, hscr, hpmsk, -⟩ := e
    exact ⟨hx, hstatus, hepc, hcause, htval, hscr, hpmsk⟩
  have hown : ∀ {a b : Group}, ownRegs a = ownRegs b → a.scr = b.scr ∧ a.pmsk = b.pmsk ∧ a.asid = b.asid := fun e => by
    simpa [ownRegs] using e
  by_cases hsyw : ∃ a n, i = .syw a n
  · obtain ⟨a, n, rfl⟩ := hsyw
    obtain ⟨hcur, hx, ho⟩ := exec_syw hg h
    exact ⟨hcur, hx, fun c g hgl hne => hother (ho c g hgl hne), fun hn => absurd rfl (hn a n)⟩
  by_cases heret : i = .eret
  · subst heret
    obtain ⟨⟨hcur, hx, ho⟩, hw, hcore⟩ := exec_eret hg h
    obtain ⟨hscr, hpmsk, hasid⟩ := hown hw
    exact ⟨hcur, hx, fun c g hgl hne => hother (ho c g hgl hne), fun _ => ⟨hscr, hpmsk, hasid, hcore, fun hn => absurd rfl hn⟩⟩
  · obtain ⟨⟨hcur, hx, ho⟩, hw, hcore, htrap⟩ := exec_framing hg henc hext hctx heret (fun a n e => hsyw ⟨a, n, e⟩) t h
    obtain ⟨hscr, hpmsk, hasid⟩ := hown hw
    exact ⟨hcur, hx, fun c g hgl hne => hother (ho c g hgl hne),
      fun _ => ⟨hscr, hpmsk, hasid, hcore, fun _ => htrap.imp_left fun e => by simpa [trapRegs] using e⟩⟩

end Sys2Proof.Machine


namespace Sys2Proof.Machine
open Sys2Proof Sys2Proof.Claims

/-! Checks 1 to 8 of a slot word (R36, R71, R74, R80), as the statement words them. -/

theorem shapeFails_iff (op : Nat) (sh : Shape) (w : Slot) : shapeFails op sh w = true ↔ BreaksShape op w sh := by
  cases sh <;> simp only [shapeFails, BreaksShape, decide_eq_true_eq, Bool.false_eq_true, ne_eq, ← BitVec.toNat_inj, BitVec.ofNat_eq_ofNat,
    BitVec.toNat_ofNat, Nat.reducePow, Nat.reduceMod] <;> omega

theorem popcNat_four (b : BitVec 5) : (popcNat 4 b.toNat = 2 ↔ b.toNat % 16 ∈ [3, 5, 6, 9, 10, 12]) ∧
    (popcNat 4 b.toNat < 2 ↔ b.toNat % 16 ∈ [0, 1, 2, 4, 8]) := by
  revert b
  decide
/-- The two output bits of a STEER-like pair that starts at d. -/
theorem outputPair_iff (d : BitVec 5) (os : BitVec 4) : 16 ≤ d.toNat ∧ d.toNat ≤ 18 ∧ bitAt (d.toNat - 16) os = true ∧ bitAt (d.toNat - 15) os = true ↔
    (d = 16 ∧ bitAt 0 os ∧ bitAt 1 os) ∨ (d = 17 ∧ bitAt 1 os ∧ bitAt 2 os) ∨ (d = 18 ∧ bitAt 2 os ∧ bitAt 3 os) := by
  revert d os
  decide
theorem restrictionFails_iff (op : Nat) (w : Slot) : restrictionFails op w = true ↔ BreaksRestriction op w := by
  obtain ⟨htwo, hmany⟩ := popcNat_four w.b
  have hd : w.d.toNat ≠ 24 ↔ w.d ≠ 24 := (BitVec.toNat_inj (y := 24#5)).not
  have ha : w.a.toNat ≠ 28 ↔ w.a ≠ 28 := (BitVec.toNat_inj (y := 28#5)).not
  have hir : w.ir.toNat / 16 ≠ 0 ↔ 16 ≤ w.ir.toNat := by omega
  have hor {a b c : Prop} : (a ∨ b) ∨ c ↔ a ∨ b ∨ c := or_assoc
  simp only [restrictionFails, BreaksRestriction, readsD, noDest, mustEmit, isMemOp, Bool.or_eq_true, Bool.and_eq_true, decide_eq_true_eq,
    Bool.not_eq_true', ← Bool.not_eq_true, outputPair_iff, htwo, hmany, hd, ha, hir, hor, and_assoc, ne_eq]

theorem immediateFails_iff (op : Nat) (w : Slot) : immediateFails op w = true ↔ BreaksImmediate op w := by
  unfold immediateFails BreaksImmediate
  dsimp only
  split
  case h_18 => simp_all
  all_goals simp
theorem die0Fails_iff (op : Nat) (w : Slot) : die0Fails op w = true ↔
    op ∈ [0x70, 0x71, 0x72, 0x81, 0x86, 0x87, 0x88, 0x89] ∨ (op = 0x80 ∧ w.b.toNat ∉ [0, 1, 16, 17]) := by
  simp only [die0Fails, Bool.or_eq_true, Bool.and_eq_true, decide_eq_true_eq, Bool.not_eq_true', ← Bool.not_eq_true]

/-- Check 6: a predicate value outside its mask. -/
theorem maskFails_iff (pv pm : BitVec 8) : pv &&& ~~~pm ≠ 0#8 ↔ ∃ n < 8, bitAt n pv = true ∧ bitAt n pm = false := by
  constructor
  · intro h
    by_contra hno
    refine h (BitVec.eq_of_getLsbD_eq fun n hn => ?_)
    have hbit : ¬ (pv.getLsbD n = true ∧ pm.getLsbD n = false) := fun e => hno ⟨n, hn, e⟩
    rw [BitVec.getLsbD_and, BitVec.getLsbD_not, BitVec.getLsbD_zero]
    simpa [-BitVec.getLsbD_eq_getElem, hn] using hbit
  · rintro ⟨n, hn, hv, hm⟩ h
    have hbit := congrArg (BitVec.getLsbD · n) h
    simp only [BitVec.getLsbD_and, BitVec.getLsbD_not, BitVec.getLsbD_zero, hn, decide_true, Bool.true_and] at hbit
    rw [show pv.getLsbD n = true from hv, show pm.getLsbD n = false from hm] at hbit
    cases hbit

/-! Check 8 (R36). -/

theorem usesA_iff (sh : Shape) : usesA sh = true ↔ sh ∈ [Shape.r, .u, .n, .q, .m, .rm, .um, .sm, .i] := by cases sh <;> decide
theorem usesB_iff (sh : Shape) : usesB sh = true ↔ sh ∈ [Shape.r, .u, .n, .q, .rm, .um] := by cases sh <;> decide
/-- An unassigned opcode reads no operand, as shape L. -/
theorem usesCode_iff (op : Nat) (w : Slot) (c : Nat) : UsesCode op w c ↔
    (usesA ((shapeOf op).getD .l) = true ∧ w.a.toNat = c) ∨ (usesB ((shapeOf op).getD .l) = true ∧ w.b.toNat = c) := by
  unfold UsesCode
  rw [usesA_iff, usesB_iff]
  cases shapeOf op with
  | none => simp
  | some sh => simp
/-- A code that names an input without its IR bit. -/
theorem irBitOf_eq {c n : Nat} (hn : n < 4) : (c = 16 + n ∨ c = 20 + n → irBitOf c = n) ∧ (c = 24 + n → irBitOf c = 4 + n) := by
  unfold irBitOf
  constructor
  · rintro (rfl | rfl)
    · rw [if_pos (by omega)]
      omega
    · rw [if_neg (by omega), if_pos (by omega)]
      omega
  · rintro rfl
    rw [if_neg (by omega), if_neg (by omega)]
    omega
theorem operandUnready_iff (c : Nat) (w : Slot) : operandUnready c w = true ↔
    (∃ n < 4, (c = 16 + n ∨ c = 20 + n) ∧ bitAt n w.ir = false) ∨ (∃ n < 4, c = 24 + n ∧ bitAt (4 + n) w.ir = false) ∨
    (c = 31 ∧ bitAt w.ts.toNat w.ir = false) := by
  simp only [operandUnready, Bool.or_eq_true, Bool.and_eq_true, decide_eq_true_eq, Bool.not_eq_true', ← or_assoc]
  refine or_congr_left ⟨?_, ?_⟩
  · rintro ⟨hc, hbit⟩
    by_cases h : c < 24
    · have hn : c % 4 < 4 := Nat.mod_lt _ (by decide)
      have hcn : c = 16 + c % 4 ∨ c = 20 + c % 4 := by omega
      exact .inl ⟨c % 4, hn, hcn, (irBitOf_eq hn).1 hcn ▸ hbit⟩
    · have hn : c % 4 < 4 := Nat.mod_lt _ (by decide)
      have hcn : c = 24 + c % 4 := by omega
      exact .inr ⟨c % 4, hn, hcn, (irBitOf_eq hn).2 hcn ▸ hbit⟩
  · rintro (⟨n, hn, hc, hbit⟩ | ⟨n, hn, hc, hbit⟩)
    · exact ⟨by omega, (irBitOf_eq hn).1 hc ▸ hbit⟩
    · exact ⟨by omega, (irBitOf_eq hn).2 hc ▸ hbit⟩

theorem contradictionFails_iff (op : Nat) (w : Slot) : contradictionFails ((shapeOf op).getD .l) w = true ↔
    (∃ n < 4, (UsesCode op w (16 + n) ∨ UsesCode op w (20 + n)) ∧ bitAt n w.ir = false) ∨
    (∃ n < 4, UsesCode op w (24 + n) ∧ bitAt (4 + n) w.ir = false) ∨
    ((UsesCode op w 31 ∨ w.te = true) ∧ bitAt w.ts.toNat w.ir = false) ∨ (∃ n < 4, w.d.toNat = 16 + n ∧ bitAt n w.os = false) := by
  have hd : (16 ≤ w.d.toNat ∧ w.d.toNat ≤ 19) ∧ bitAt (w.d.toNat - 16) w.os = false ↔ ∃ n < 4, w.d.toNat = 16 + n ∧ bitAt n w.os = false :=
    ⟨fun ⟨hd, hb⟩ => ⟨_, by omega, by omega, hb⟩, fun ⟨n, hn, hd, hb⟩ => ⟨by omega, by rwa [hd, Nat.add_sub_cancel_left]⟩⟩
  simp only [contradictionFails, usesCode_iff, operandUnready_iff, Bool.or_eq_true, Bool.and_eq_true, decide_eq_true_eq, Bool.not_eq_true', hd]
  grind
/-- The last two lines of R36: a port that the slot names is not connected. -/
theorem slotUnconnected_iff (rs : List ImgRoute) (rel el : Nat) (w : Slot) : slotUnconnected (connectedPorts rs rel el) rel el w = true ↔
    (∃ n < 4, (bitAt n w.os = true ∧ ¬ LeftFrom rs ⟨.element rel el, n, false⟩) ∨
      (bitAt n w.ir = true ∧ ¬ LedTo rs ⟨.element rel el, n, false⟩) ∨ (bitAt (4 + n) w.ir = true ∧ ¬ LedTo rs ⟨.element rel el, n, true⟩)) ∨
    (∃ n < 4, w.d.toNat = 20 + n ∧ ¬ LeftFrom rs ⟨.element rel el, n, true⟩) := by
  have hled (n : Nat) (ctl : Bool) : (⟨.element rel el, n, ctl⟩ : Endpoint) ∈ (connectedPorts rs rel el).1 ↔ LedTo rs ⟨.element rel el, n, ctl⟩ := by
    simp [connectedPorts, LedTo]
  have hleft (n : Nat) (ctl : Bool) : (⟨.element rel el, n, ctl⟩ : Endpoint) ∈ (connectedPorts rs rel el).2 ↔ LeftFrom rs ⟨.element rel el, n, ctl⟩ := by
    simp [connectedPorts, LeftFrom]
  have hy : (match destOf w.d with
      | .y n => decide ((⟨.element rel el, n, true⟩ : Endpoint) ∉ (connectedPorts rs rel el).2)
      | _ => false) = true ↔ ∃ n < 4, w.d.toNat = 20 + n ∧ ¬ LeftFrom rs ⟨.element rel el, n, true⟩ := by
    unfold destOf
    dsimp only
    by_cases hd : 20 ≤ w.d.toNat ∧ w.d.toNat < 24
    · rw [if_neg (by omega), if_neg (by omega), if_pos hd.2]
      simp only [decide_eq_true_eq, hleft]
      constructor
      · exact fun h => ⟨w.d.toNat - 20, by omega, by omega, h⟩
      · rintro ⟨n, -, hn, h⟩
        rwa [hn, Nat.add_sub_cancel_left]
    · constructor
      · intro h
        split at h
        · next e =>
          split_ifs at e
          cases e
          omega
        · cases h
      · rintro ⟨n, hn, hd', -⟩
        omega
  unfold slotUnconnected
  dsimp only
  rw [Bool.or_eq_true]
  refine or_congr ?_ hy
  simp only [List.any_eq_true, List.mem_range, Bool.or_eq_true, Bool.and_eq_true, decide_eq_true_eq, hled, hleft]
  refine exists_congr fun n => and_congr_right fun _ => ?_
  tauto

end Sys2Proof.Machine


namespace Sys2Proof.Machine
open Sys2Proof Sys2Proof.Claims

/-! The first failing check of a slot, of an element, and of an image (R80). -/

section
variable (die0 : Bool) (rs : List ImgRoute) (rel el op : Nat) (w : Slot)

/-- Checks 1 to 8 in their order, as the model makes them: true where the check fails. -/
def slotConds : List Bool :=
  [(shapeOf op).isNone, decide (25 ≤ w.d.toNat), (shapeOf op).any (fun sh => shapeFails op sh w), restrictionFails op w,
   immediateFails op w || (die0 && die0Fails op w), (decide (w.pm = 0#8) && w.q) || decide (w.pv &&& ~~~w.pm ≠ 0#8),
   !w.te && !((usesA ((shapeOf op).getD .l) && decide (w.a.toNat = 31)) || (usesB ((shapeOf op).getD .l) && decide (w.b.toNat = 31)))
     && decide (w.ts ≠ 0#2 ∨ w.tv ≠ 0#3),
   contradictionFails ((shapeOf op).getD .l) w || slotUnconnected (connectedPorts rs rel el) rel el w]

theorem slotCheck_eq (hv : w.valid = true) : slotCheck op w die0 (slotUnconnected (connectedPorts rs rel el) rel el w) =
    ((slotConds die0 rs rel el op w).findIdx? id).map (· + 1) := by
  unfold slotCheck slotConds
  rw [if_neg (by simp [hv])]
  cases shapeOf op with
  | none => rfl
  | some sh =>
    dsimp only
    simp only [List.findIdx?_cons, List.findIdx?_nil, Option.isNone_some, Option.any_some, Option.getD_some, id, decide_eq_true_eq, Bool.false_eq_true, if_false,
      apply_ite (Option.map (· + 1)), Option.map_some, Option.map_none, Nat.zero_add, Nat.reduceAdd]

/-- The statement's check k is the model's. -/
theorem breaksCheck_iff (k : Nat) : BreaksCheck die0 rs rel el op w k ↔ ∃ j, k = j + 1 ∧ (slotConds die0 rs rel el op w)[j]? = some true := by
  match k with
  | 0 => simp [BreaksCheck]
  | 1 => simp [BreaksCheck, slotConds]
  | 2 => simp [BreaksCheck, slotConds]
  | 3 => simp [BreaksCheck, slotConds, shapeFails_iff, Option.any_eq_true]
  | 4 => simp [BreaksCheck, slotConds, restrictionFails_iff]
  | 5 => simp [BreaksCheck, slotConds, immediateFails_iff, die0Fails_iff]
  | 6 => simp [BreaksCheck, slotConds, ← maskFails_iff]
  | 7 => simp [BreaksCheck, slotConds, usesCode_iff, imp_iff_not_or, and_assoc]
  | 8 => simp [BreaksCheck, slotConds, Contradicts, slotUnconnected_iff, contradictionFails_iff, or_assoc]
  | j + 9 => simp [BreaksCheck, slotConds]

/-- The first check that breaks, or none. -/
theorem slotCheck_iff (k : Nat) : slotCheck op w die0 (slotUnconnected (connectedPorts rs rel el) rel el w) = some k ↔
    w.valid = true ∧ BreaksCheck die0 rs rel el op w k ∧ ∀ j < k, ¬ BreaksCheck die0 rs rel el op w j := by
  by_cases hv : w.valid = true
  · rw [slotCheck_eq die0 rs rel el op w hv, Option.map_eq_some_iff]
    simp only [hv, true_and, breaksCheck_iff, List.findIdx?_eq_some_iff_getElem]
    constructor
    · rintro ⟨i, ⟨hi, hk, hmin⟩, rfl⟩
      refine ⟨⟨i, rfl, by simpa [List.getElem?_eq_getElem hi] using hk⟩, ?_⟩
      rintro _ hj ⟨m, rfl, hm⟩
      obtain ⟨hm', hmt⟩ := List.getElem?_eq_some_iff.mp hm
      exact hmin m (by omega) hmt
    · rintro ⟨⟨i, rfl, hi⟩, hmin⟩
      obtain ⟨hi', hit⟩ := List.getElem?_eq_some_iff.mp hi
      refine ⟨i, ⟨hi', hit, fun m hm hmt => hmin (m + 1) (by omega) ⟨m, rfl, ?_⟩⟩, rfl⟩
      exact List.getElem?_eq_some_iff.mpr ⟨by omega, hmt⟩
  · simp [slotCheck, hv]

end

/-! Checks 9 and 10, and the first failure of an element. -/

theorem findSome?_range_eq_some {α : Type} {f : Nat → Option α} {b : α} (N : Nat) :
    (List.range N).findSome? f = some b ↔ ∃ n < N, f n = some b ∧ ∀ m < n, f m = none := by
  induction N with
  | zero => simp
  | succ N ih =>
    rw [List.range_succ, List.findSome?_append, Option.or_eq_some_iff, ih, List.findSome?_eq_none_iff]
    simp only [List.mem_range, List.findSome?_cons, List.findSome?_nil]
    constructor
    · rintro (⟨n, hn, h⟩ | ⟨hall, h⟩)
      · exact ⟨n, by omega, h⟩
      · refine ⟨N, by omega, ?_, hall⟩
        split at h <;> simp_all
    · rintro ⟨n, hn, hb, hmin⟩
      by_cases hN : n = N
      · subst hN
        exact .inr ⟨hmin, by rw [hb]⟩
      · exact .inl ⟨n, by omega, hb, hmin⟩

section
variable (die0 : Bool) (im : Image) (e : ImgEl)

theorem attrFails_iff (n : Nat) : attrFails e.attr n (vec16Get e.slots n) = true ↔ AttributeBreaks e n := by
  simp only [attrFails, AttributeBreaks, Bool.or_eq_true, Bool.and_eq_true, decide_eq_true_eq, Bool.not_eq_true', ← Bool.not_eq_true,
    List.mem_cons, List.not_mem_nil, or_false]
  tauto
theorem wordsFail_iff : wordsFail e = true ↔ TemplatesBreak e := by
  simp only [wordsFail, TemplatesBreak, vec4List, List.any_map, List.any_eq_true, List.mem_range, Function.comp, Bool.or_eq_true, decide_eq_true_eq, or_assoc]
theorem slotBreaks_iff (n k : Nat) : SlotBreaks die0 im e n k ↔ slotCheck (slotOpOf (vec16Get e.slots n)) (slotOf (vec16Get e.slots n)) die0
    (slotUnconnected (connectedPorts im.routes e.rel e.el) e.rel e.el (slotOf (vec16Get e.slots n))) = some k := (slotCheck_iff die0 _ _ _ _ _ k).symm
theorem slotPasses_iff (n : Nat) : SlotPasses die0 im e n ↔ slotCheck (slotOpOf (vec16Get e.slots n)) (slotOf (vec16Get e.slots n)) die0
    (slotUnconnected (connectedPorts im.routes e.rel e.el) e.rel e.el (slotOf (vec16Get e.slots n))) = none := by
  rw [SlotPasses, Option.eq_none_iff_forall_ne_some]
  exact forall_congr' fun k => (slotBreaks_iff die0 im e n k).not

/-- The model's search of the sixteen slots for checks 1 to 8. -/
def slotFailing (n : Nat) : Option (Nat × Nat) :=
  (slotCheck (slotOpOf (vec16Get e.slots n)) (slotOf (vec16Get e.slots n)) die0
    (slotUnconnected (connectedPorts im.routes e.rel e.el) e.rel e.el (slotOf (vec16Get e.slots n)))).map (fun k => (k, n))
theorem slotFailing_some (n : Nat) (p : Nat × Nat) : slotFailing die0 im e n = some p ↔ p.2 = n ∧ SlotBreaks die0 im e n p.1 := by
  rw [slotFailing, Option.map_eq_some_iff, slotBreaks_iff]
  constructor
  · rintro ⟨k, hk, rfl⟩
    exact ⟨rfl, hk⟩
  · rintro ⟨hn, hk⟩
    exact ⟨p.1, hk, Prod.ext rfl hn.symm⟩
theorem slotFailing_none (n : Nat) : slotFailing die0 im e n = none ↔ SlotPasses die0 im e n := by
  rw [slotFailing, Option.map_eq_none_iff, slotPasses_iff]
theorem firstSlot_some (p : Nat × Nat) : (List.range 16).findSome? (slotFailing die0 im e) = some p ↔
    p.2 < 16 ∧ SlotBreaks die0 im e p.2 p.1 ∧ ∀ m < p.2, SlotPasses die0 im e m := by
  simp only [findSome?_range_eq_some, slotFailing_some, slotFailing_none]
  constructor
  · rintro ⟨n, hn, ⟨rfl, hk⟩, hmin⟩
    exact ⟨hn, hk, hmin⟩
  · exact fun ⟨hn, hk, hmin⟩ => ⟨p.2, hn, ⟨rfl, hk⟩, hmin⟩
theorem firstSlot_none : (List.range 16).findSome? (slotFailing die0 im e) = none ↔ ∀ m < 16, SlotPasses die0 im e m := by
  simp only [List.findSome?_eq_none_iff, List.mem_range, slotFailing_none]
theorem firstAttribute_some (n : Nat) : (List.range 16).find? (fun n => attrFails e.attr n (vec16Get e.slots n)) = some n ↔
    n < 16 ∧ AttributeBreaks e n ∧ ∀ m < n, ¬ AttributeBreaks e m := by
  rw [List.find?_range_eq_some]
  simp only [attrFails_iff, List.mem_range, Bool.not_eq_true', ← Bool.not_eq_true]
  tauto
theorem firstAttribute_none : (List.range 16).find? (fun n => attrFails e.attr n (vec16Get e.slots n)) = none ↔ ∀ m < 16, ¬ AttributeBreaks e m := by
  simp only [List.find?_eq_none, List.mem_range, attrFails_iff]

theorem elementFails_iff (k n : Nat) : elementFails die0 (connectedPorts im.routes e.rel e.el) e = some (k, n) ↔ ElementBreaks die0 im e k n := by
  have hslot : (n < 16 ∧ SlotBreaks die0 im e n k ∧ ∀ m < n, SlotPasses die0 im e m) ↔ _ := (firstSlot_some die0 im e (k, n)).symm
  unfold ElementBreaks elementFails
  rw [hslot, ← firstSlot_none die0 im e]
  dsimp only
  change (match (List.range 16).findSome? (slotFailing die0 im e) with | some k => some k | none => _) = _ ↔ _
  cases h : (List.range 16).findSome? (slotFailing die0 im e) with
  | some p => simp
  | none =>
    have hnine := firstAttribute_some e
    have hten := firstAttribute_none e
    dsimp only
    cases h9 : (List.range 16).find? (fun n => attrFails e.attr n (vec16Get e.slots n)) with
    | some m =>
      have hm := (hnine m).1 h9
      have hn9 : (n < 16 ∧ AttributeBreaks e n ∧ ∀ m < n, ¬ AttributeBreaks e m) ↔ m = n := by
        rw [← hnine, h9, Option.some_inj]
      have hsome : ¬ ∀ m < 16, ¬ AttributeBreaks e m := fun hall => hall m hm.1 hm.2.1
      simp [hn9, hsome, eq_comm]
    | none =>
      have hall := hten.1 h9
      have hno : ¬ (n < 16 ∧ AttributeBreaks e n ∧ ∀ m < n, ¬ AttributeBreaks e m) := fun ⟨hn, hb, _⟩ => hall n hn hb
      have hten : (∀ m < 16, ¬ AttributeBreaks e m) ↔ True := iff_true_intro hall
      rw [← wordsFail_iff, hten]
      split_ifs with hw
      · simp [hw, hno, eq_comm]
      · simp [hw, hno]
theorem elementPasses_iff : ElementPasses die0 im e ↔ elementFails die0 (connectedPorts im.routes e.rel e.el) e = none := by
  rw [ElementPasses, Option.eq_none_iff_forall_ne_some]
  simp only [Prod.forall, ne_eq, elementFails_iff]

end

end Sys2Proof.Machine


namespace Sys2Proof.Machine
open Sys2Proof Sys2Proof.Claims

/-! Checks 1 to 11 of an image (R80). -/

section
variable (die0 : Bool) {im : Image} {e : ImgEl} {p k n : Nat}

theorem checkElements_some (he : im.els[p]? = some e) (hb : ElementBreaks die0 im e k n) (hpass : ∀ f ∈ im.els.take p, ElementPasses die0 im f) :
    checkElements die0 im = some (k, e.rel % 2 ^ 12 + e.el * 2 ^ 12 + n * 2 ^ 19) := by
  obtain ⟨hp, rfl⟩ := List.getElem?_eq_some_iff.mp he
  refine List.findSome?_eq_some_iff.mpr ⟨im.els.take p, im.els[p], im.els.drop (p + 1), ?_, ?_, fun f hf => ?_⟩
  · rw [List.cons_getElem_drop_succ, List.take_append_drop]
  · rw [(elementFails_iff die0 im _ k n).2 hb]
    simp [locWord]
  · rw [(elementPasses_iff die0 im f).1 (hpass f hf)]
    rfl
theorem checkElements_none (h : ∀ e ∈ im.els, ElementPasses die0 im e) : checkElements die0 im = none :=
  List.findSome?_eq_none_iff.mpr fun e he => by
    rw [(elementPasses_iff die0 im e).1 (h e he)]
    rfl

theorem field_top_two (h : W32) : field 31 30 h = 0 ↔ bitAt 31 h = false ∧ bitAt 30 h = false := by
  have hbit (n : Nat) : bitAt n h = decide (h.toNat / 2 ^ n % 2 = 1) := by
    rw [bitAt, ← BitVec.testBit_toNat, Nat.testBit_eq_decide_div_mod_eq]
  rw [hbit, hbit, field, decide_eq_false_iff_not, decide_eq_false_iff_not]
  have hlt := h.isLt
  omega
theorem presetOk_iff (ctl : Bool) (t : Token) : presetOk ctl t = true ↔ PresetPasses ctl t := by
  unfold presetOk PresetPasses
  cases ctl with
  | true =>
    simp only [if_true, lanesClear, List.all_eq_true, Bool.and_eq_true, decide_eq_true_eq, and_assoc]
    refine and_congr_right fun _ => and_congr_right fun _ => ⟨fun h l hl hl8 => h l ?_, fun h l hl => h l ?_ ?_⟩
    · interval_cases l <;> decide
    all_goals fin_cases hl <;> decide
  | false => simp [field_top_two]
theorem checkPresets_some {q : Nat × Token} (hq : q ∈ im.pres) {r : ImgRoute} (hr : im.routes.find? (fun r => decide (r.num = q.1)) = some r)
    (hb : ¬ PresetPasses r.ctl q.2) : ∃ v, checkPresets im = some (11, v) := by
  cases h : checkPresets im with
  | none =>
    have hq := List.findSome?_eq_none_iff.mp h q hq
    rw [hr] at hq
    simp [presetOk_iff, hb] at hq
  | some k =>
    obtain ⟨a, -, ha⟩ := List.exists_of_findSome?_eq_some h
    split at ha
    · cases ha
    · split at ha
      · cases ha
      · cases ha
        exact ⟨_, rfl⟩
theorem checkPresets_none (h : ∀ q ∈ im.pres, ∀ r ∈ im.routes, r.num = q.1 → PresetPasses r.ctl q.2) : checkPresets im = none := by
  refine List.findSome?_eq_none_iff.mpr fun q hq => ?_
  split
  · rfl
  · next r hr =>
    have hnum := List.find?_some hr
    rw [if_pos ((presetOk_iff _ _).2 (h q hq r (List.mem_of_find?_eq_some hr) (by simpa using hnum)))]

end

/-! How a reading ends. -/

section
variable {α β : Type} {x : Ld α} {f : α → Ld β}

theorem ldBind_res_ok {a : α} (h : x.res = .ok a) : (ldBind x f).res = (f a).res := by simp [ldBind, h]
theorem ldBind_res_reject {c v : Nat} (h : x.res = .reject c v) : (ldBind x f).res = .reject c v := by simp [ldBind, h]
theorem ldUnless_res_reject {ok : Bool} {c v : Nat} {k : Ld α} (h : ok = false) : (ldUnless ok c v k).res = .reject c v := by simp [ldUnless, h, Ld.reject]
theorem ldUnless_pass {ok : Bool} {c v : Nat} {k : Ld α} (h : ok = true) : ldUnless ok c v k = k := by simp [ldUnless, h]

end

theorem readImage_misaligned (s : State) (x : Span) (cl asid : Nat) {img : Nat} (h : img % 64 ≠ 0) : (readImage s x cl asid img).res = .reject 14 img :=
  ldUnless_res_reject (by simp [h])

theorem headerRule_iff (x : Span) (h : List Byte) (off : Nat) : HeaderRule x h off ↔
    (off = 0 → fieldAt h 0 4 = 0x31474643) ∧
    (off = 4 → fieldAt h 4 1 = x.shape ∧ fieldAt h 5 1 < 16 ∧ fieldAt h 6 2 = 0 ∧ (x.shape = 5 → fieldAt h 5 1 = x.dw + 4 * x.dh)) ∧
    (off = 8 → fieldAt h 8 4 ≠ 0) ∧ (off = 20 → fieldAt h 22 2 ≤ 1) ∧ (off = 24 → fieldAt h 22 2 = 0 → fieldAt h 24 8 = 0) ∧
    (off = 32 → fieldAt h 22 2 = 0 → fieldAt h 32 8 = 0) ∧
    (off = 56 → fieldAt h 56 8 < 2 ^ 52 ∧ (fieldAt h 22 2 = 1 → fieldAt h 56 8 ≠ 0)) := Iff.rfl
/-- The first rule that a header word breaks is the one the loader names. -/
theorem readImage_header {s : State} {x : Span} {cl asid img off : Nat} {h : List Byte} (hal : img % 64 = 0)
    (hr : (rdBytes s cl asid img 64).res = .ok h) (ho : off ∈ headerOffsets) (hb : ¬ HeaderRule x h off)
    (hmin : ∀ o ∈ headerOffsets, o < off → HeaderRule x h o) : (readImage s x cl asid img).res = .reject 14 (img + off) := by
  have h0 : HeaderRule x h 0 ↔ decide (fieldAt h 0 4 = 0x31474643) = true := by simp [headerRule_iff]
  have h4 : HeaderRule x h 4 ↔ (decide (fieldAt h 4 1 = x.shape) && decide (fieldAt h 5 1 / 16 = 0) && decide (fieldAt h 6 2 = 0)
      && (decide (x.shape ≠ 5) || decide (fieldAt h 5 1 = x.dw + 4 * x.dh))) = true := by
    simp [headerRule_iff, and_assoc, imp_iff_not_or]
  have h8 : HeaderRule x h 8 ↔ decide (fieldAt h 8 4 ≠ 0) = true := by simp [headerRule_iff]
  have h20 : HeaderRule x h 20 ↔ decide (fieldAt h 22 2 ≤ 1) = true := by simp [headerRule_iff]
  have hflg (hle : HeaderRule x h 20) : fieldAt h 22 2 = 0 ∨ fieldAt h 22 2 = 1 := by
    have := of_decide_eq_true (h20.1 hle)
    omega
  have h24 (hle : HeaderRule x h 20) : HeaderRule x h 24 ↔ (decide (fieldAt h 22 2 = 1) || decide (fieldAt h 24 8 = 0)) = true := by
    obtain e | e := hflg hle <;> simp [headerRule_iff, e]
  have h32 (hle : HeaderRule x h 20) : HeaderRule x h 32 ↔ (decide (fieldAt h 22 2 = 1) || decide (fieldAt h 32 8 = 0)) = true := by
    obtain e | e := hflg hle <;> simp [headerRule_iff, e]
  have h56 (hle : HeaderRule x h 20) : HeaderRule x h 56 ↔
      (decide (fieldAt h 56 8 < 2 ^ 52) && (decide (fieldAt h 22 2 = 0) || decide (fieldAt h 56 8 ≠ 0))) = true := by
    obtain e | e := hflg hle <;> simp [headerRule_iff, e]
  unfold readImage
  rw [ldUnless_pass (by simp [hal]), ldBind_res_ok hr]
  dsimp only
  have hmem : off = 0 ∨ off = 4 ∨ off = 8 ∨ off = 20 ∨ off = 24 ∨ off = 32 ∨ off = 56 := by simpa [headerOffsets] using ho
  have hbad {ok : Bool} {k : Ld Image} (hrule : HeaderRule x h off ↔ ok = true) : (ldUnless ok 14 (img + off) k).res = .reject 14 (img + off) :=
    ldUnless_res_reject (Bool.eq_false_iff.2 fun e => hb (hrule.2 e))
  by_cases e0 : off = 0
  · subst e0
    exact hbad h0
  rw [ldUnless_pass (h0.1 (hmin 0 (by decide) (by omega)))]
  by_cases e4 : off = 4
  · subst e4
    exact hbad h4
  rw [ldUnless_pass (h4.1 (hmin 4 (by decide) (by omega)))]
  by_cases e8 : off = 8
  · subst e8
    exact hbad h8
  rw [ldUnless_pass (h8.1 (hmin 8 (by decide) (by omega)))]
  by_cases e20 : off = 20
  · subst e20
    exact hbad h20
  rw [ldUnless_pass (h20.1 (hmin 20 (by decide) (by omega)))]
  have hle := hmin 20 (by decide) (by omega)
  by_cases e24 : off = 24
  · subst e24
    exact hbad (h24 hle)
  rw [ldUnless_pass ((h24 hle).1 (hmin 24 (by decide) (by omega)))]
  by_cases e32 : off = 32
  · subst e32
    exact hbad (h32 hle)
  rw [ldUnless_pass ((h32 hle).1 (hmin 32 (by decide) (by omega)))]
  obtain rfl : off = 56 := by omega
  exact hbad (h56 hle)

end Sys2Proof.Machine


namespace Sys2Proof.Machine
open Sys2Proof Sys2Proof.Claims

/-! The load that a built image gives (R180, R274). -/

/-- What names a load and its stage. -/
def loadKey (l : Load) : LoadPhase × Nat × Nat × Nat × Bool := (l.phase, l.lid, l.img, l.asid, l.passed)
/-- A span has had `n` loads, and the last is the one of this key. -/
def Loaded (t : State) (sp n : Nat) (k : LoadPhase × Nat × Nat × Nat × Bool) : Prop :=
  ∃ y l, getSpan t sp = some y ∧ y.load = some l ∧ y.lids = n ∧ loadKey l = k

section
variable {s t : State} {sp n : Nat} {k : LoadPhase × Nat × Nat × Nat × Bool}

theorem Loaded.of_spans (h : Loaded s sp n k) (ht : t.spans = s.spans) : Loaded t sp n k := by
  unfold Loaded getSpan at *
  rwa [ht]
theorem Loaded.modLoad (h : Loaded s sp n k) {f : Load → Load} (hf : ∀ l, loadKey (f l) = loadKey l) : Loaded (modLoad s sp f) sp n k := by
  obtain ⟨y, l, hy, hl, hn, hk⟩ := h
  refine ⟨{ y with load := y.load.map f }, f l, ?_, ?_, hn, (hf l).trans hk⟩
  · rw [Machine.modLoad, getSpan_modSpan_same, hy, Option.map_some]
  · exact congrArg (Option.map f) hl
theorem Loaded.modBr (h : Loaded s sp n k) (ch br : Nat) (f : Branch → Branch) : Loaded (modBr s sp ch br f) sp n k := h.modLoad fun _ => rfl
theorem Loaded.presetToken (h : Loaded s sp n k) (p : Nat × Token) : Loaded (presetToken s sp p) sp n k := by
  unfold Machine.presetToken
  split
  · refine foldl_inv _ (fun t => Loaded t sp n k) (fun t j ht => ?_) _ h
    split
    · obtain ⟨f, e⟩ | ⟨q, e⟩ := presetBranch_cases t _ sp p.1 j _ _
      · rw [e]
        exact ht.modBr _ _ _
      · rw [e, queuePush]
        split
        · exact ht
        · exact (ht.of_spans rfl).modBr _ _ _
    · exact ht
  · exact h
theorem markCmps_key (l : Load) : loadKey (markCmps l) = loadKey l := by
  refine foldl_inv _ (fun m => loadKey m = loadKey l) (fun m j hm => ?_) _ rfl
  split
  · exact hm
  · exact hm

theorem buildLoad_loaded {x : Span} (h : getSpan s sp = some x) (im : Image) (l : Load) (qs : List (Nat × Nat × Nat × Nat × Nat)) :
    Loaded (buildLoad s sp x im l qs) sp l.lid (loadKey l) := by
  obtain ⟨u, ⟨-, hu⟩, hb⟩ := buildLoad_units s sp x im l qs
  rw [hb]
  refine foldl_inv _ (fun t => Loaded t sp l.lid (loadKey l)) (fun t p ht => ht.presetToken p) _ ?_
  have hx : getSpan u sp = some x := by rw [getSpan, hu]; exact h
  exact ⟨_, markCmps l, by rw [getSpan_modSpan_same, hx, Option.map_some], rfl, rfl, markCmps_key l⟩

end

/-! How a load image is answered. -/

section
variable {s : State} {x : Span} {sp cl asid img owner : Nat} {im : Image} {cmps : List Cmp}
  (him : (readImage s x cl asid img).res = .ok im) (hcm : (partCmps s cl asid img im).res = .ok cmps)
include him hcm

theorem loadImage_elements {k v : Nat} (h : checkElements (decide (s.hub.boot = .die0)) im = some (k, v)) :
    (loadImage s sp x cl asid img owner).res = .reject k v := by
  rw [loadImage, ldBind_res_ok him, ldBind_res_ok hcm]
  dsimp only
  rw [h]
  rfl
theorem loadImage_presets {k v : Nat} (h : checkElements (decide (s.hub.boot = .die0)) im = none) (hp : checkPresets im = some (k, v)) :
    (loadImage s sp x cl asid img owner).res = .reject k v := by
  rw [loadImage, ldBind_res_ok him, ldBind_res_ok hcm]
  dsimp only
  rw [h, hp]
  rfl
theorem loadImage_ok {qs : List (Nat × Nat × Nat × Nat × Nat)} (h : checkElements (decide (s.hub.boot = .die0)) im = none)
    (hp : checkPresets im = none) (ht : checkTracks x im = none) (hq : placeQueues im [] im.routes = .ok qs) (h13 : check13 im = none) :
    (loadImage s sp x cl asid img owner).res = .ok (buildLoad s sp x im (loadOf x im img asid owner (relOf x cl) cmps qs) qs) := by
  rw [loadImage, ldBind_res_ok him, ldBind_res_ok hcm]
  dsimp only
  rw [h, hp, ht, hq, h13]
  rfl
end
theorem loadImage_unread {s : State} {x : Span} {sp cl asid img owner c v : Nat} (h : (readImage s x cl asid img).res = .reject c v) :
    (loadImage s sp x cl asid img owner).res = .reject c v := ldBind_res_reject h

end Sys2Proof.Machine


namespace Sys2Proof.Machine
open Sys2Proof Sys2Proof.Claims

theorem curGrp_of_coresView {s t : State} (h : t.coresView = s.coresView) : curGrp t = curGrp s := by
  obtain ⟨hcur, hcore⟩ := Prod.mk.injEq .. ▸ h
  rw [curGrp, hcur]
  exact getGrp_congr (congrFun hcore _) _

/-! CFG of a lead core whose span is free for a load (R180). -/

theorem alPut_alPut {α : Type} (l : List (Nat × α)) (k : Nat) (v w : α) : alPut (alPut l k v) k w = alPut l k w := by
  induction l with
  | nil => simp [alPut]
  | cons p l ih =>
    obtain ⟨j, u⟩ := p
    by_cases h1 : k < j
    · simp [alPut, h1]
    · by_cases h2 : k = j
      · simp [alPut, h2]
      · simp [alPut, h1, h2, ih]
theorem modCore_modCore (s : State) (cl : Nat) (f g : Core → Core) : modCore (modCore s cl f) cl g = modCore s cl fun c => g (f c) := by
  rw [modCore, modCl, modCore, getCl_modCl_same]
  simp only [modCl, modCore, amPut, alPut_alPut]
theorem modCore_congr {s : State} {cl : Nat} {f g : Core → Core} (h : f (getCl s cl).core = g (getCl s cl).core) : modCore s cl f = modCore s cl g := by
  rw [modCore, modCl, h]
  rfl

/-- The state in which CFG reads its image: the group no longer waits for the load before, and its stores are performed. -/
def cfgReads (s : State) : State := releaseCur (modCore s s.cur.cl (fun c => { c with cfgq := [] })) 3

theorem cfgReads_eq {s : State} (hq : (curCore s).cfgq = []) :
    releaseCur (modCore (modCore s s.cur.cl (joinCfg s.cur.grp)) s.cur.cl (leaveCfg s.cur.grp)) 3 = cfgReads s := by
  rw [cfgReads, modCore_modCore]
  refine congrArg (releaseCur · 3) (modCore_congr ?_)
  have hq : (getCl s s.cur.cl).core.cfgq = [] := hq
  simp [joinCfg, leaveCfg, hq]

section
variable {s : State} {x : Span} (hg : s.cur.grp < 4)
include hg

theorem prepared_cfgReads : Prepared s (cfgReads s) := 
  ((Prepared.refl s).modCore _ (f := fun c => { c with cfgq := [] }) (fun _ => rfl) fun _ => rfl).release hg 3
theorem cfgReads_cur : (cfgReads s).cur = s.cur := cur_of_regsView (prepared_cfgReads hg).regs
theorem cfgReads_asid : (curGrp (cfgReads s)).asid = (curGrp s).asid := by
  have h := (regsOf_parts (curGrp_of_regsView (prepared_cfgReads hg).regs hg)).2.2
  simp only [ownRegs, Prod.mk.injEq] at h
  exact h.2.2
theorem cfgReads_xget (r : BitVec 5) : xget (curGrp (cfgReads s)) r = xget (curGrp s) r :=
  xget_congr (regsOf_parts (curGrp_of_regsView (prepared_cfgReads hg).regs hg)).1 r
theorem cfgReads_boot : (cfgReads s).hub.boot = s.hub.boot := by
  obtain ⟨-, -, -, hhub, -⟩ := flushGrp_units (modCore s s.cur.cl fun c => { c with cfgq := [] }) s.cur.cl 3 hg
  have hboot := congrArg Hub.boot hhub
  exact hboot
theorem cfgReads_status : (curGrp (cfgReads s)).status = (curGrp s).status := by
  have h := (regsOf_parts (curGrp_of_regsView (prepared_cfgReads hg).regs hg)).2.1
  simp only [trapRegs, Prod.mk.injEq] at h
  exact h.1
theorem cfgReads_spans : (cfgReads s).spans = s.spans := spans_releaseCur _ 3 hg

end

section
variable {s : State} {x : Span} {d a : BitVec 5} {img : Nat} (hg : s.cur.grp < 4) (hs : spanAt s s.cur.cl = some (s.cur.cl, x))
  (hfree : ∀ l, x.load = some l → l.phase = .complete ∧ l.passed = true) (hq : (curCore s).cfgq = [])
  (himg : img = (xget (curGrp s) a).toNat % 2 ^ 52)
include hs hfree hq

theorem exec_cfg : exec (.cfg d a) s = .next (cfgNow (modCore s s.cur.cl (joinCfg s.cur.grp)) d a s.cur.cl x) := by
  have hq : (getCl s s.cur.cl).core.cfgq = [] := hq
  have hlead : leadSpan s = some (s.cur.cl, x) := by simp [leadSpan, hs]
  show execCfg d a s = _
  unfold execCfg
  rw [hlead]
  dsimp only
  rw [if_neg, if_pos]
  · simp only [waitersCfg, hq, List.filter_nil, List.head?_nil, Option.all_none, Bool.and_true]
    cases hl : x.load with
    | none => rfl
    | some l =>
      obtain ⟨hc, hp⟩ := hfree l hl
      simp [hc, hp]
  · cases hl : x.load with
    | none => simp
    | some l =>
      obtain ⟨hc, -⟩ := hfree l hl
      simp [hc]

include hg himg
theorem exec_cfg_reject {k v : Nat}
    (h : (loadImage (cfgReads s) s.cur.cl x s.cur.cl (curGrp s).asid img s.cur.grp).res = .reject k v) :
    exec (.cfg d a) s = .next (takeTrap (readLines (cfgReads s) s.cur.cl
      (loadImage (cfgReads s) s.cur.cl x s.cur.cl (curGrp s).asid img s.cur.grp).lines) ⟨3, k, 0, v⟩) := by
  have hcur : (modCore s s.cur.cl (joinCfg s.cur.grp)).cur = s.cur := rfl
  subst himg
  rw [exec_cfg hs hfree hq, cfgNow, hcur, cfgReads_eq hq]
  simp only [cfgReads_cur hg, cfgReads_asid hg, cfgReads_xget hg, h]
theorem exec_cfg_ok {t : State}
    (h : (loadImage (cfgReads s) s.cur.cl x s.cur.cl (curGrp s).asid img s.cur.grp).res = .ok t) :
    exec (.cfg d a) s = .next (finish (readLines t s.cur.cl
      (loadImage (cfgReads s) s.cur.cl x s.cur.cl (curGrp s).asid img s.cur.grp).lines) 4 d (BitVec.ofNat 64 (x.lids + 1))) := by
  have hcur : (modCore s s.cur.cl (joinCfg s.cur.grp)).cur = s.cur := rfl
  subst himg
  rw [exec_cfg hs hfree hq, cfgNow, hcur, cfgReads_eq hq]
  simp only [cfgReads_cur hg, cfgReads_asid hg, cfgReads_xget hg, h]
/-- An image that the loader rejects. -/
theorem cfg_rejects {k v : Nat} (h : (loadImage (cfgReads s) s.cur.cl x s.cur.cl (curGrp s).asid img s.cur.grp).res = .reject k v) :
    Rejects s (cfgReads s) d a x k v := by
  intro hm
  have hexec := exec_cfg_reject (d := d) hg hs hfree hq himg h
  have hcounts : ∀ ls, sameButCounts (cfgReads s) (readLines (cfgReads s) s.cur.cl ls) := fun ls => readLines_counts _ _ _
  have ht := fun ls => takeTrap_enters (((prepared_cfgReads hg).counts (hcounts ls)).grp hg)
    ((congrArg Group.status (sameButCounts_curGrp (hcounts ls))).trans (cfgReads_status hg) ▸ hm) ⟨3, k, 0, v⟩
  refine ⟨_, _, hexec, ht _, ?_⟩
  obtain ⟨⟨honly, -⟩, -⟩ := ht (loadImage (cfgReads s) s.cur.cl x s.cur.cl (curGrp s).asid img s.cur.grp).lines
  have hspans := (congrArg State.spans honly).trans ((sameButCounts_spans (hcounts _)).trans (cfgReads_spans hg))
  exact (congrArg (amGet · s.cur.cl) hspans).trans (getSpan_of_spanAt hs).2
/-- An image that the loader builds. -/
theorem cfg_answers {t : State} (h : (loadImage (cfgReads s) s.cur.cl x s.cur.cl (curGrp s).asid img s.cur.grp).res = .ok t)
    {n : Nat} {k : LoadPhase × Nat × Nat × Nat × Bool} (ht : Loaded t s.cur.cl n k) :
    Answers (.cfg d a) s d (BitVec.ofNat 64 (x.lids + 1)) (fun t => Loaded t s.cur.cl n k) := by
  have hexec := exec_cfg_ok (d := d) hg hs hfree hq himg h
  have hcores := loadImage_coresView h
  have hprep : ∀ ls, Prepared s (readLines t s.cur.cl ls) := fun ls =>
    ((prepared_cfgReads hg).trans ⟨regsView_of_coresView hcores, congrArg Group.pc (curGrp_of_coresView hcores)⟩).counts (readLines_counts _ _ _)
  have hspans : ∀ ls, (readLines t s.cur.cl ls).spans = t.spans := fun ls => sameButCounts_spans (readLines_counts _ _ _)
  refine ⟨_, hexec, fun r => ?_, ?_, ht.of_spans (hspans _)⟩
  · rw [xget_finish ((hprep _).grp hg), xget_congr (regsOf_parts (curGrp_of_regsView (hprep _).regs hg)).1]
  · rw [pc_finish ((hprep _).grp hg), (hprep _).pc]

end

/-- Settles O18: the checks are made in the order of the statement, and a load that passes them all is built. -/
theorem configureLoad : Obligations.ConfigureLoad := by
  intro s s1 d a x img im cmps hg hs hfree hq hs1 himg
  obtain rfl : s1 = cfgReads s := hs1
  have hrej {k v : Nat} (h : (loadImage (cfgReads s) s.cur.cl x s.cur.cl (curGrp s).asid img s.cur.grp).res = .reject k v) :
      Rejects s (cfgReads s) d a x k v := cfg_rejects hg hs hfree hq himg h
  refine ⟨fun hal => hrej (loadImage_unread (readImage_misaligned _ _ _ _ hal)),
    fun h off hal hr ho hb hmin => hrej (loadImage_unread (readImage_header hal hr ho hb hmin)), fun him hcm => ⟨?_, fun hpass => ⟨?_, ?_⟩⟩⟩
  · intro p e k n he hb hpass
    exact hrej (loadImage_elements him hcm (by rw [cfgReads_boot hg]; exact checkElements_some _ he hb hpass))
  all_goals
    have hels : checkElements (decide ((cfgReads s).hub.boot = .die0)) im = none := by
      rw [cfgReads_boot hg]
      exact checkElements_none _ hpass
  · intro p hp r hr hb
    obtain ⟨v, hv⟩ := checkPresets_some hp hr hb
    exact ⟨v, hrej (loadImage_presets him hcm hels hv)⟩
  · rintro hpre htr ⟨qs, hqs⟩ h13
    have hx : getSpan (cfgReads s) s.cur.cl = some x := by
      rw [getSpan, cfgReads_spans hg]
      exact (getSpan_of_spanAt hs).2
    have hok := loadImage_ok (sp := s.cur.cl) (owner := s.cur.grp) him hcm hels (checkPresets_none hpre) htr hqs h13
    obtain ⟨t, hexec, hxs, hpc, y, l, hy, hl, hn, hk⟩ := cfg_answers (d := d) hg hs hfree hq himg hok (buildLoad_loaded hx _ _ _)
    simp only [loadKey, Prod.mk.injEq] at hk
    obtain ⟨hph, hlid, hi, has, hp⟩ := hk
    exact ⟨t, hexec, hxs, hpc, y, l, hy, hl, hn, hph, hlid, hi, has, hp⟩

end Sys2Proof.Machine
